-- ==== Sys2Proof/Word.lean ====
section
/-! DEFINITION. The word types of the Etrak V9 model and their plainest arithmetic (00_scope.md R4). -/

namespace Sys2Proof

/-- One byte: the unit of memory addressing (R4). -/
abbrev Byte := BitVec 8

/-- One 32-bit register, and one Cheos instruction word (R4, R59). -/
abbrev Word := BitVec 32

/-- One 64-bit value: a register pair, a program counter, an address (R63, R142). -/
abbrev DWord := BitVec 64

/-- Sparse data by a numeric key: pairs in strictly rising order of key.  An unlisted key reads as the
default that the reader of the map names. -/
abbrev NatMap (α : Type) := List (Nat × α)

end Sys2Proof
end

