-- ==== Sys2Proof/Config.lean ====
section
/-! DEFINITION. What the manual leaves to the device and states no value for: free values (opaque, without a body), and the
constants of the module (01_machine.md Table 1-1). -/

namespace Sys2Proof.Config

/-- FREE VALUE. What a read of an HBM line returns when it is decrypted under a key other than the one it was written
under: a function of the two keys, the address and the stored bytes of its 16-byte cipher block (18_security_engine.md R461).  Assumption 3. -/
opaque otherKeyByte : Nat → Nat → Nat → List Byte → Byte

/-- FREE VALUE. The ciphertext of an HBM line as it stands in its stack: the byte at an offset, for a key, the line's number and
its plain bytes (18_security_engine.md R461, 17_command_processors.md R453).  Assumption 28. -/
opaque cipherByte : Nat → Nat → List Byte → Nat → Byte

/-- FREE VALUE. A fresh random number of the security engine: a key, a nonce or a session secret (R459, R464, R468).
The argument is the plain counter State.fresh.  Assumption 4. -/
opaque freshSecret : Nat → Nat

/-- FREE VALUE. A byte whose value the manual does not give: the content of a record field or memory byte that it leaves
open.  The argument is the plain counter State.fresh.  Assumption 5. -/
opaque freeByte : Nat → Byte

/-- FREE VALUE. Does the host complete a request of a copy engine or an instruction fetch with another status than Successful Completion
(10_memory_engine.md R249)?  The argument is the plain counter State.fresh.  Assumption 75. -/
opaque hostFails : Nat → Bool

/-- FREE VALUE. Which latched item SNAPDATA shows at an index of SNAPIDX, for the manual numbers no item (19_power_clock_controller.md
Table 19-2): 0 a partition counter, 1 a meter, 2 A and 3 F of a core, 4 a stack's level, each with its key; any other kind is no item
and its second number is the word itself.  Assumption 83. -/
opaque snapItem : Nat → Nat × Nat

/-- FREE VALUE. L2 misses of a workgroup, a grid or a plot on a plot in a TICK window, which depend on what L2 holds (16_policy_engines.md
Table 16-5): a function of the plot, the window and what is counted.  Assumption 23. -/
opaque misses : Nat → Nat → Nat → Nat

/-- FREE VALUE. A digest, signature or authentication tag of a list of bytes: the manual names the algorithm and the model
does not compute it (R464, R476).  Assumption 6. -/
opaque digest : List Nat → Nat

/-- FREE VALUE. Does a signature over bytes verify under the fused debug key (R468)?  Assumption 6. -/
opaque signatureOk : List Byte → List Byte → Bool

/-- FREE VALUE. Which bits of bytes 84 to 111 of a debug token are reserved: the manual does not say which of them are scope bits
(Table 18-3).  Assumption 6. -/
opaque debugReserved : Nat

/-- Bytes of HBM: 1 TiB (R1). -/
def hbmBytes : Nat := 2 ^ 40

/-- Entries of a write-combining buffer (R122). -/
def wcbEntries : Nat := 32

/-- Entries of a per-core command queue (R27). -/
def queueDepth : Nat := 16

end Sys2Proof.Config
end

