-- ==== Sys2Proof/Syntax.lean ====
section
/-! DEFINITION. The syntax of Cheos: operands, forms and the one inductive of instructions and machine events
(02_words_registers.md R43 to R58, 95_what_each_step_holds.md). -/

namespace Sys2Proof

/-- A register operand field, decoded by Table 2-11 (R62). -/
inductive Opnd where
  /-- v0 to v119: file[wb + n] (R60). -/
  | win (n : Fin 120)
  /-- vz: zero as a source, discarded as a destination. -/
  | vz
  /-- l0 to l2: a latch entry (R66). -/
  | latch (k : Fin 3)
  /-- [ix0] to [ix3]: index indirection (R65). -/
  | ix (k : Fin 4)
  deriving DecidableEq, Repr

/-- The h field: the latch entry that operand a is held into, if any (R66). -/
abbrev Hold := Option (Fin 3)

/-- R format, 32-bit operands (Table 2-1). -/
structure RForm where
  d : Opnd
  a : Opnd
  b : Opnd
  h : Hold
  g : Bool
  u : Bool
  deriving DecidableEq, Repr

/-- R format of the pair instructions, which permit no hold (R192, R205). -/
structure PairForm where
  d : Opnd
  a : Opnd
  b : Opnd
  g : Bool
  u : Bool
  deriving DecidableEq, Repr

/-- R format of SEL, whose g bit is 0 (R192). -/
structure SelForm where
  d : Opnd
  a : Opnd
  b : Opnd
  h : Hold
  u : Bool
  deriving DecidableEq, Repr

/-- X format: one source (Table 2-1). -/
structure XForm where
  d : Opnd
  a : Opnd
  h : Hold
  g : Bool
  u : Bool
  deriving DecidableEq, Repr

/-- I format with a 9-bit immediate (R44). -/
structure IForm where
  d : Opnd
  a : Opnd
  imm : BitVec 9
  g : Bool
  u : Bool
  deriving DecidableEq, Repr

/-- I format of the immediate shifts, counts 0 to 31 (R192). -/
structure ShForm where
  d : Opnd
  a : Opnd
  c : Fin 32
  g : Bool
  u : Bool
  deriving DecidableEq, Repr

/-- L format with a 16-bit immediate (R44). -/
structure LForm where
  d : Opnd
  imm : BitVec 16
  g : Bool
  u : Bool
  deriving DecidableEq, Repr

/-- C format of the comparisons (Table 2-1). -/
structure CmpForm where
  p : Fin 64
  a : Opnd
  b : Opnd
  g : Bool
  u : Bool
  deriving DecidableEq, Repr

/-- C format of the two-source predicate logic (R173). -/
structure PLogForm where
  p : Fin 64
  q : Fin 64
  r : Fin 64
  g : Bool
  u : Bool
  deriving DecidableEq, Repr

/-- C format of PNOT and PMOV (R173). -/
structure PUnForm where
  p : Fin 64
  q : Fin 64
  g : Bool
  u : Bool
  deriving DecidableEq, Repr

/-- B format of BRP and CALL (R168). -/
structure BForm where
  p : Fin 64
  n : Bool
  off : BitVec 17
  deriving DecidableEq, Repr

/-- E format of QNT and DQNT (R229, R231). -/
structure QForm where
  x : Opnd
  a : Opnd
  b : Opnd
  g : Bool
  deriving DecidableEq, Repr

/-- I format of the constant shuffles (Table 9-7). -/
structure ShflForm where
  d : Opnd
  a : Opnd
  k : Fin 64
  g : Bool
  u : Bool
  deriving DecidableEq, Repr

/-- X format of VOTE.all and VOTE.any (R233). -/
structure VoteForm where
  p : Fin 64
  q : Fin 64
  g : Bool
  u : Bool
  deriving DecidableEq, Repr

/-- X format of VOTE.ballot (R233). -/
structure BallotForm where
  d : Opnd
  q : Fin 64
  g : Bool
  u : Bool
  deriving DecidableEq, Repr

/-- R format of MATCH, whose u bit is 0 (R235). -/
structure MatchForm where
  d : Opnd
  a : Opnd
  b : Opnd
  h : Hold
  g : Bool
  deriving DecidableEq, Repr

/-- M format with an offset in units of the access width (R57). -/
structure MForm where
  d : Opnd
  a : Opnd
  off : BitVec 7
  g : Bool
  u : Bool
  deriving DecidableEq, Repr

/-- M format of LDA and STL, which carry a scope and no offset (R57). -/
structure ScopedForm where
  d : Opnd
  a : Opnd
  g : Bool
  u : Bool
  deriving DecidableEq, Repr

/-- E format of ATOM (R258). -/
structure AtomForm where
  x : Opnd
  a : Opnd
  b : Opnd
  g : Bool
  u : Bool
  deriving DecidableEq, Repr

/-- E format of RED (R258). -/
structure RedForm where
  a : Opnd
  b : Opnd
  g : Bool
  u : Bool
  deriving DecidableEq, Repr

/-- E format of the copy commands (R323). -/
structure CopyForm where
  x : Opnd
  a : Opnd
  b : Opnd
  g : Bool
  deriving DecidableEq, Repr

/-- The conditions of SETP (Table 2-8). -/
inductive IntCc where
  | eq | ne | lt | le | gt | ge | lo | hs
  deriving DecidableEq, Repr

/-- The conditions of FSETP and DSETP (Table 2-8). -/
inductive FltCc where
  | eq | ne | lt | le | gt | ge | num | nan
  deriving DecidableEq, Repr

/-- Element formats of sr.fmt.ELEM (Table 2-13). -/
inductive Elem where
  | fp32 | fp16 | bf16 | e4m3 | e2m1 | int4 | int8 | int16 | bfp8 | bfp12 | bfp16
  deriving DecidableEq, Repr

/-- Rounding modes (R102). -/
inductive Rnd where
  | rne | rtz | rdn | rup | rna
  deriving DecidableEq, Repr

/-- Saturation modes of sr.fmt.SAT (Table 2-13). -/
inductive Sat where
  | ieee | clamp | clampNan
  deriving DecidableEq, Repr

/-- Timing classes (R152). -/
inductive TimingClass where
  | c0 | c1 | c2 | c3
  deriving DecidableEq, Repr

/-- The special registers of Table 2-14, in their order of number. -/
inductive SpecReg where
  | tid | lane | slot | warp | wg | core | plot | parcel | cycles | elapsed | iiu | tax | fmt | fpst
  | trapcause | trappc | trapbase | wbase | batch | part | key | plim
  deriving DecidableEq, Repr

/-- The wide formats of CVT (Table 2-5). -/
inductive WideFmt where
  | s32 | z32 | s64 | z64 | f32 | f64 | f16 | bf16
  deriving DecidableEq, Repr

/-- The narrow formats of CVT (Table 2-5). -/
inductive NarrowFmt where
  | s8 | z8 | s16 | z16 | e4m3 | e2m1
  deriving DecidableEq, Repr

/-- The wide side of a narrow CVT (Table 2-5). -/
inductive NarrowSide where
  | s32 | f32 | f16 | bf16
  deriving DecidableEq, Repr

/-- The function of a CVT (R55). -/
inductive CvtFn where
  /-- Between two wide formats, destination first. -/
  | wide (dst src : WideFmt)
  /-- From a wide format to a narrow one. -/
  | narrow (dst : NarrowFmt) (src : NarrowSide)
  /-- From a narrow format to a wide one. -/
  | widen (dst : NarrowSide) (src : NarrowFmt)
  deriving DecidableEq, Repr

/-- Element kinds of UNPK (Table 2-4). -/
inductive UnpkKind where
  | zx8 | sx8 | zx16 | sx16 | zx4 | sx4
  deriving DecidableEq, Repr

/-- Operations of REDX and RJOIN (Table 2-4). -/
inductive RedOp where
  | add | min | max | minu | maxu | and | or | xor | fadd | fmin | fmax | dadd
  deriving DecidableEq, Repr

/-- Access widths of the M format (Table 2-7). -/
inductive MWidth where
  | w32 | w64 | w128
  deriving DecidableEq, Repr

/-- Forms of LDN (Table 2-7). -/
inductive NarrowLoad where
  | zx8 | sx8 | zx16 | sx16
  deriving DecidableEq, Repr

/-- Forms of STN (Table 2-7). -/
inductive NarrowStore where
  | b8 | b16
  deriving DecidableEq, Repr

/-- Scopes in their order of code (Table 5-2). -/
inductive Scope where
  | thr | str | wrp | wkg | pai | plo | pcl | dev | sys | dom
  deriving DecidableEq, Repr

/-- Access paths in their order of code (R261). -/
inductive Path where
  | ls | ga | cp | mx | ws | co
  deriving DecidableEq, Repr

/-- One EFT frame as it arrives at a fabric port (Table 15-15). -/
structure Frame where
  kind : Nat
  sdev : Nat
  tdev : Nat
  spart : Nat
  seq : Nat
  ack : Nat
  arg : Nat
  payload : List Byte
  deriving DecidableEq, Repr

/-- A tensor of a weight version (Table 14-1): its attributes, its plane words (keyed by
row, group and plane), the boundary bit and the scale of each granule's block, and its band scales. -/
structure Tensor where
  fmt : Elem
  spw : Nat
  rows : Nat
  k : Nat
  scl : Bool
  planes : NatMap Word
  bounds : NatMap Bool
  scales : NatMap Byte
  bands : NatMap (BitVec 16)
  deriving DecidableEq, Repr

/-- A weight-set version as firmware installs it (R359, R360, R364, R365). -/
structure WeightVersion where
  /-- The staged image of a WPROG in the submitter's address space: its address and its bytes (R452). -/
  src : Nat × Nat
  name : Nat
  ver : Nat
  owners : Nat
  key : Nat
  hbm : Option (Nat × Nat)
  tensors : List Tensor
  deriving DecidableEq, Repr

/-- What the engine finds in a firmware image that is staged (R470, R455). -/
structure ImageInfo where
  sv : Nat
  signed : Bool
  digest : Nat
  major : Nat
  minor : Nat
  /-- The sections of the state table that it knows (R455). -/
  sections : List Nat := [0, 1, 2, 3, 4]
  deriving DecidableEq, Repr

/-- The register pages of the host port (R446, R481, R493). -/
inductive RegPage where
  /-- The control page of a context, through the tenant or the hypervisor aperture. -/
  | control (ctx : Nat) (hyper : Bool)
  /-- The security register page. -/
  | security
  /-- The power register page. -/
  | power
  deriving DecidableEq, Repr

/-- A host access to device memory through the host port (R113, R132). -/
inductive HostOp where
  /-- The host reads one 128-byte line under a key id. -/
  | read (key line : Nat)
  /-- The host writes bytes under a key id. -/
  | write (key pa : Nat) (bytes : List Byte)
  /-- The host writes its own memory. -/
  | writeHost (pa : Nat) (bytes : List Byte)
  deriving DecidableEq, Repr

/-- One constructor for each row of spec/opcode_table.json: rows 0 to 207 are the encoded Cheos instructions,
the others are the machine's events (95_what_each_step_holds.md); the last is any word that decode refuses (R49). -/
inductive Instr where
  /-- BRP (R168). Branches each strand whose threads' tested predicate (optionally inverted) is true, pushing reconvergence entries when the threads of a strand disagree. -/
  | brp (f : BForm)
  /-- BR (R168). Unconditional branch, encoded as BRP with p = 0 and n = 0. -/
  | br (off : BitVec 17)
  /-- CALL (R168). Conditional or unconditional call that writes the 64-bit link pc + 4 into v62:v63 of each taken thread and branches. -/
  | call (f : BForm)
  /-- NOP (R185). Does nothing beyond aging latch entries. -/
  | nop
  /-- YIELD (R185). Closes any class run that its split opened and sets the split's age to zero. -/
  | yield
  /-- BKPT (R184). Raises the BKPT trap with sr.trappc at the instruction. -/
  | bkpt (code : BitVec 9)
  /-- TRAP (R184). Raises the TRAP trap, or completes as NOP when guarded off in every thread. -/
  | trap (code : BitVec 9) (g : Bool)
  /-- RFT (R184). Leaves trap state, continues at sr.trappc and releases the splits held by the trap. -/
  | rft
  /-- EXIT (R171). Ends the executing threads under R148 and frees the warp's panel once all threads have exited and the counters are zero. -/
  | exit (g : Bool)
  /-- RET (R170). Indirect branch through v62:v63 in each active thread. -/
  | ret
  /-- RECONV (R146). Pops reconvergence-stack entries per strand, or holds the split for merging at this point. -/
  | reconv
  /-- BRI (R170). Indirect branch to each active thread's own target in va:vb, diverging where the targets differ. -/
  | bri (a : Opnd)
  /-- CALLI (R170). Indirect call that writes pc + 4 to v62:v63 and transfers to each thread's target. -/
  | calli (a : Opnd)
  /-- GUARD (R172). Sets the guard selector of every strand of the split to the named predicate, not inverted. -/
  | guard (p : Fin 64)
  /-- GUARDN (R172). Sets the guard selector of every strand of the split to the named predicate, inverted. -/
  | guardn (p : Fin 64)
  /-- ELECT (R174). Writes true to the predicate in the lowest active (guarded-in) thread and false in the others. -/
  | elect (p : Fin 64) (g : Bool)
  /-- MARM (R175). Arms monitor k on the 128-byte line that holds the lowest active thread's address and sends a forced publish. -/
  | marm (a : Opnd) (k : Fin 4)
  /-- MWAIT (R176). Parks the split until a monitor fires or the timeout passes, then writes the fired bits and the timeout bit. -/
  | mwait (d : Opnd) (t : BitVec 9)
  /-- FENCEB (R178). Closes the warp's current batch of copies and tile operations and writes the new number to sr.batch. -/
  | fenceb
  /-- WAITB (R178). Parks the split until the named batch is complete. -/
  | waitb (a : Opnd) (n : BitVec 9)
  /-- WBASE (R179). Sets the warp's window base, or raises WINDOW. -/
  | wbase (a : Opnd) (n : BitVec 9)
  /-- IXSET (R180). Writes index register ixk from va in each executing thread, raising REG_INDEX when the range exceeds the file. -/
  | ixset (a : Opnd) (k : Fin 4) (g u : Bool)
  /-- IXADD (R180). Adds a signed amount to IDX of ixk modulo 256 without faulting. -/
  | ixadd (a : Opnd) (k : Fin 4) (m : BitVec 7) (g u : Bool)
  /-- FMT (R181). Writes ELEM, RND and SAT of sr.fmt (and optionally MAXBLK, JTHR, FTZ from va) in each strand of the split. -/
  | fmt (a : Opnd) (e : Elem) (r : Rnd) (t : Sat)
  /-- WRSR (R183). Writes a read-write special register from va. -/
  | wrsr (a : Opnd) (r : SpecReg) (g u : Bool)
  /-- CLASS (R185). Makes the split's next n instructions run-eligible in an open class-c run. -/
  | classHint (c : TimingClass) (n : Fin 8)
  /-- SCLR (R186). Privileged: marks the plot so that no workgroup is placed there until the clear sequence has run after every resident workgroup has ended. -/
  | sclr
  /-- SNAP (R186). Privileged: fires the common snapshot trigger with the given tag. -/
  | snap (tag : BitVec 9)
  /-- PAND (R173). Writes the AND of two predicates to pd. -/
  | pand (f : PLogForm)
  /-- POR (R173). Writes the OR of two predicates to pd. -/
  | por (f : PLogForm)
  /-- PXOR (R173). Writes the XOR of two predicates to pd. -/
  | pxor (f : PLogForm)
  /-- PNOT (R173). Writes the negation of a predicate to pd. -/
  | pnot (f : PUnForm)
  /-- PMOV (R173). Copies a predicate to pd. -/
  | pmov (f : PUnForm)
  /-- WAITC (R177). Parks the split until each completion counter is at or below its limit. -/
  | waitc (c : BitVec 5) (l t : BitVec 6) (m : BitVec 4)
  /-- RDSR (R182). Reads a special register into vd (a pair for 64-bit registers). -/
  | rdsr (d : Opnd) (r : SpecReg) (g u : Bool)
  /-- ADD (R193). 32-bit add modulo 2^32. -/
  | add (f : RForm)
  /-- SUB (R193). 32-bit subtract modulo 2^32. -/
  | sub (f : RForm)
  /-- ADDC (R195). 64-bit add of register pairs with carry between the words. -/
  | addc (f : PairForm)
  /-- SUBB (R195). 64-bit subtract of register pairs with borrow between the words. -/
  | subb (f : PairForm)
  /-- ADDS (R194). Signed add, clamped to the 32-bit signed range. -/
  | adds (f : RForm)
  /-- SUBS (R194). Signed subtract, clamped to the 32-bit signed range. -/
  | subs (f : RForm)
  /-- ADDSU (R194). Unsigned add, clamped to 2^32 − 1. -/
  | addsu (f : RForm)
  /-- SUBSU (R194). Unsigned subtract, clamped at 0. -/
  | subsu (f : RForm)
  /-- MUL (R197). Low 32 bits of the product. -/
  | mul (f : RForm)
  /-- MULH (R197). High 32 bits of the signed product. -/
  | mulh (f : RForm)
  /-- MULHU (R197). High 32 bits of the unsigned product. -/
  | mulhu (f : RForm)
  /-- MAD (R197). Multiply-add into d, modulo 2^32. -/
  | mad (f : RForm)
  /-- DIVS (R198). Signed division truncated toward zero, with fixed results for a zero divisor and for overflow. -/
  | divs (f : RForm)
  /-- DIVU (R198). Unsigned division, giving all ones for a zero divisor. -/
  | divu (f : RForm)
  /-- REMS (R198). Signed remainder with the sign of the dividend. -/
  | rems (f : RForm)
  /-- REMU (R198). Unsigned remainder. -/
  | remu (f : RForm)
  /-- MIN (R199). Signed minimum. -/
  | min (f : RForm)
  /-- MAX (R199). Signed maximum. -/
  | max (f : RForm)
  /-- MINU (R199). Unsigned minimum. -/
  | minu (f : RForm)
  /-- MAXU (R199). Unsigned maximum. -/
  | maxu (f : RForm)
  /-- AND (R199). Bitwise AND. -/
  | and (f : RForm)
  /-- OR (R199). Bitwise OR. -/
  | or (f : RForm)
  /-- XOR (R199). Bitwise XOR. -/
  | xor (f : RForm)
  /-- SEL (R201). Writes a where the strand's guard predicate is true and b where it is false. -/
  | sel (f : SelForm)
  /-- SHL (R200). Logical left shift by a register count, giving 0 for counts of 32 or more. -/
  | shl (f : RForm)
  /-- SHR (R200). Logical right shift by a register count. -/
  | shr (f : RForm)
  /-- SHRA (R200). Arithmetic right shift by a register count, saturating at 31. -/
  | shra (f : RForm)
  /-- ROL (R200). Left rotation by the count modulo 32. -/
  | rol (f : RForm)
  /-- LEA (R196). 64-bit base plus sign-extended 32-bit offset. -/
  | lea (f : PairForm)
  /-- MOV (R202). Copies a to d. -/
  | mov (f : XForm)
  /-- NOT (R202). Bitwise complement. -/
  | not (f : XForm)
  /-- NEG (R202). Negation modulo 2^32. -/
  | neg (f : XForm)
  /-- ABS (R202). Absolute value modulo 2^32. -/
  | abs (f : XForm)
  /-- NEGS (R202). Saturating negation. -/
  | negs (f : XForm)
  /-- ABSS (R202). Saturating absolute value. -/
  | abss (f : XForm)
  /-- CLZ (R202). Count of leading zero bits. -/
  | clz (f : XForm)
  /-- POPC (R202). Population count. -/
  | popc (f : XForm)
  /-- BREV (R202). Bit reversal. -/
  | brev (f : XForm)
  /-- SETP (R203). Integer comparison under the cc condition, written to a predicate. -/
  | setp (c : IntCc) (f : CmpForm)
  /-- ADDI (R193). Add of a signed 9-bit immediate. -/
  | addi (f : IForm)
  /-- ANDI (R199). AND with a sign-extended immediate. -/
  | andi (f : IForm)
  /-- ORI (R199). OR with a sign-extended immediate. -/
  | ori (f : IForm)
  /-- XORI (R199). XOR with a sign-extended immediate. -/
  | xori (f : IForm)
  /-- SHLI (R200). Left shift by an immediate count of 0 to 31. -/
  | shli (f : ShForm)
  /-- SHRI (R200). Logical right shift by an immediate count. -/
  | shri (f : ShForm)
  /-- SHRAI (R200). Arithmetic right shift by an immediate count. -/
  | shrai (f : ShForm)
  /-- MOVL (R204). Writes the zero-extended 16-bit immediate. -/
  | movl (f : LForm)
  /-- MOVH (R204). Writes the immediate into d[31:16] and keeps d[15:0]. -/
  | movh (f : LForm)
  /-- FADD (R213). FP32 add, rounded once. -/
  | fadd (f : RForm)
  /-- FSUB (R213). FP32 subtract. -/
  | fsub (f : RForm)
  /-- FMUL (R213). FP32 multiply. -/
  | fmul (f : RForm)
  /-- FFMA (R213). FP32 fused multiply-add into d with a single rounding. -/
  | ffma (f : RForm)
  /-- FMIN (R217). FP32 minimum selection, which returns the number when paired with a NaN. -/
  | fmin (f : RForm)
  /-- FMAX (R217). FP32 maximum selection. -/
  | fmax (f : RForm)
  /-- FDIV (R213). FP32 correctly rounded division. -/
  | fdiv (f : RForm)
  /-- FRCP (R216). Correctly rounded FP32 reciprocal. -/
  | frcp (f : XForm)
  /-- FRSQ (R216). Correctly rounded FP32 reciprocal square root. -/
  | frsq (f : XForm)
  /-- FSQRT (R216). Correctly rounded FP32 square root. -/
  | fsqrt (f : XForm)
  /-- FEXP2 (R216). Correctly rounded FP32 2^a. -/
  | fexp2 (f : XForm)
  /-- FLOG2 (R216). Correctly rounded FP32 log2. -/
  | flog2 (f : XForm)
  /-- FCLASS (R218). Writes the class mask of an FP32 bit pattern. -/
  | fclass (f : XForm)
  /-- DADD (R214). FP64 add of register pairs. -/
  | dadd (f : PairForm)
  /-- DMUL (R214). FP64 multiply. -/
  | dmul (f : PairForm)
  /-- DFMA (R214). FP64 fused multiply-add into d. -/
  | dfma (f : PairForm)
  /-- FSETP (R219). FP32 comparison under the cc condition, written to a predicate. -/
  | fsetp (c : FltCc) (f : CmpForm)
  /-- DSETP (R219). FP64 comparison under the cc condition, written to a predicate. -/
  | dsetp (c : FltCc) (f : CmpForm)
  /-- HADD2 (R215). Packed FP16 pair add. -/
  | hadd2 (f : RForm)
  /-- HMUL2 (R215). Packed FP16 pair multiply. -/
  | hmul2 (f : RForm)
  /-- HFMA2 (R215). Packed FP16 pair fused multiply-add. -/
  | hfma2 (f : RForm)
  /-- HADD2_BF (R215). Packed BF16 pair add. -/
  | hadd2Bf (f : RForm)
  /-- HMUL2_BF (R215). Packed BF16 pair multiply. -/
  | hmul2Bf (f : RForm)
  /-- HFMA2_BF (R215). Packed BF16 pair fused multiply-add. -/
  | hfma2Bf (f : RForm)
  /-- CVT (R226). Converts between the integer and float formats selected by fn. -/
  | cvt (fn : CvtFn) (f : XForm)
  /-- QNT (R230). Quantises runs of granules into block-scaled codes, scales and boundary bits. -/
  | qnt (f : QForm)
  /-- DQNT (R231). Reads block-scaled codes back as FP32 elements. -/
  | dqnt (f : QForm)
  /-- PACK (R227). Packs the low halfwords of a and b into one register. -/
  | pack (f : RForm)
  /-- UNPK (R228). Extends one 4-, 8- or 16-bit element of a, selected by kind and index. -/
  | unpk (k : UnpkKind) (e : Fin 8) (f : XForm)
  /-- SHFL (R232). Reads operand a from the source thread that b names and writes the validity predicate p63. -/
  | shfl (f : RForm)
  /-- SHFLU (R232). Shuffle from thread i − k. -/
  | shflu (f : ShflForm)
  /-- SHFLD (R232). Shuffle from thread i + k. -/
  | shfld (f : ShflForm)
  /-- SHFLX (R232). Shuffle from thread i xor k. -/
  | shflx (f : ShflForm)
  /-- BCAST (R232). Broadcast from thread k. -/
  | bcast (f : ShflForm)
  /-- VOTE_ALL (R233). Predicate true when pa is true in every executing thread. -/
  | voteAll (f : VoteForm)
  /-- VOTE_ANY (R233). Predicate true when pa is true in some executing thread. -/
  | voteAny (f : VoteForm)
  /-- VOTE_BALLOT (R233). Writes the 64-bit mask of executing threads in which pa is true. -/
  | voteBallot (f : BallotForm)
  /-- REDX (R234). Warp reduction, in the fixed tree, of the operation that fn selects. -/
  | redx (op : RedOp) (f : XForm)
  /-- MATCH (R235). Writes the 64-bit mask of executing threads whose masked values match. -/
  | matchMask (f : MatchForm)
  /-- LNCH (R385). Reads and checks a launch record, runs the ENQ decision and accepts a child grid into the pending-launch queue, or refuses it. -/
  | lnch (x a : Opnd) (p : Fin 64) (g : Bool)
  /-- JOIN (R388). Continues if DONE has reached n, otherwise parks the split and requests swap-out of the workgroup. -/
  | join (a : Opnd) (g : Bool)
  /-- LQW (R390). Parks the split until the pending-launch queue has a free entry. -/
  | lqw (g : Bool)
  /-- FLNCH (R398). Sends a launch record over EFT to one or more target devices and collects their answers. -/
  | flnch (x a b : Opnd) (g : Bool)
  /-- GARR (R409). Performs release actions and sends one arrival to a group barrier without waiting. -/
  | garr (x a : Opnd) (g : Bool)
  /-- GWAIT (R409). Parks the split until the group's generation passes n, then performs acquire actions. -/
  | gwait (x a b : Opnd) (g : Bool)
  /-- GMEM (R409). Stores a group's pending membership pair, which becomes current at the next generation boundary. -/
  | gmem (a b : Opnd) (g : Bool)
  /-- FWR (R410). Remote 16-byte write through a window page on the CO path. -/
  | fwr (x a : Opnd) (g u : Bool)
  /-- FRD (R410). Remote 16-byte read through a window page. -/
  | frd (x a : Opnd) (g u : Bool)
  /-- FSIG (R404). Remote atomic 64-bit add, performed after earlier CO accesses to the same device, with domain-scope release. -/
  | fsig (a b : Opnd) (g u : Bool)
  /-- FATOM (R410). Remote 64-bit compare-and-swap returning the old value. -/
  | fatom (x a b : Opnd) (g u : Bool)
  /-- LD (R246). Global load of 32, 64 or 128 bits. -/
  | ld (w : MWidth) (f : MForm)
  /-- LDN (R246). Narrow global load, zero- or sign-extended. -/
  | ldn (k : NarrowLoad) (f : MForm)
  /-- ST (R246). Global store of 32, 64 or 128 bits through the write-combining buffer. -/
  | st (w : MWidth) (f : MForm)
  /-- STN (R246). Narrow global store of 8 or 16 bits. -/
  | stn (k : NarrowStore) (f : MForm)
  /-- LDA (R248). Scoped acquire load that bypasses L1 and performs the acquire actions. -/
  | lda (w : MWidth) (sc : Scope) (f : ScopedForm)
  /-- STL (R248). Scoped release store that performs the release actions before its write. -/
  | stl (w : MWidth) (sc : Scope) (f : ScopedForm)
  /-- LDS (R251). Scratchpad load, local or through a handle, including the handle-read form. -/
  | lds (w : MWidth) (f : MForm)
  /-- STS (R251). Scratchpad store, local or remote through a handle. -/
  | sts (w : MWidth) (f : MForm)
  /-- LDP (R256). Private-memory load at a thread-interleaved offset. -/
  | ldp (w : MWidth) (f : MForm)
  /-- STP (R256). Private-memory store. -/
  | stp (w : MWidth) (f : MForm)
  /-- ATOM_ADD (R258). Atomic add returning the old value. -/
  | atomAdd (f : AtomForm)
  /-- ATOM_INCW (R258). Atomic wrapping increment returning the old value. -/
  | atomIncw (f : AtomForm)
  /-- ATOM_EXCH (R258). Atomic exchange. -/
  | atomExch (f : AtomForm)
  /-- ATOM_CAS (R258). Atomic compare-and-swap. -/
  | atomCas (f : AtomForm)
  /-- ATOM_MIN (R258). Atomic signed minimum. -/
  | atomMin (f : AtomForm)
  /-- ATOM_MAX (R258). Atomic signed maximum. -/
  | atomMax (f : AtomForm)
  /-- ATOM_MINU (R258). Atomic unsigned minimum. -/
  | atomMinu (f : AtomForm)
  /-- ATOM_MAXU (R258). Atomic unsigned maximum. -/
  | atomMaxu (f : AtomForm)
  /-- ATOM_AND (R258). Atomic AND. -/
  | atomAnd (f : AtomForm)
  /-- ATOM_OR (R258). Atomic OR. -/
  | atomOr (f : AtomForm)
  /-- ATOM_XOR (R258). Atomic XOR. -/
  | atomXor (f : AtomForm)
  /-- RED_ADD (R258). Atomic add with no return. -/
  | redAdd (f : RedForm)
  /-- RED_INCW (R258). Atomic wrapping increment with no return. -/
  | redIncw (f : RedForm)
  /-- RED_MIN (R258). Atomic signed minimum with no return. -/
  | redMin (f : RedForm)
  /-- RED_MAX (R258). Atomic signed maximum with no return. -/
  | redMax (f : RedForm)
  /-- RED_MINU (R258). Atomic unsigned minimum with no return. -/
  | redMinu (f : RedForm)
  /-- RED_MAXU (R258). Atomic unsigned maximum with no return. -/
  | redMaxu (f : RedForm)
  /-- RED_AND (R258). Atomic AND with no return. -/
  | redAnd (f : RedForm)
  /-- RED_OR (R258). Atomic OR with no return. -/
  | redOr (f : RedForm)
  /-- RED_XOR (R258). Atomic XOR with no return. -/
  | redXor (f : RedForm)
  /-- CPA16_BAR (R260). Per-thread 16-byte asynchronous copy from global memory to scratchpad, counted into a barrier. -/
  | cpa16Bar (x a : Opnd) (k : Fin 16) (g u : Bool)
  /-- CPA16_NB (R260). Per-thread 16-byte asynchronous copy with no barrier. -/
  | cpa16Nb (x a : Opnd) (g u : Bool)
  /-- FENCE (R127). Orders the split's earlier LS accesses before later ones, with the release and acquire actions of the scope. -/
  | fence (sc : Scope)
  /-- FENCE_X (R138). Parks until the warp's accesses on path pa are performed, then orders later accesses on path pb. -/
  | fenceX (pa pb : Path) (sc : Scope)
  /-- CINV (R262). Invalidates every global-data L1 line of the core. -/
  | cinv
  /-- CINV_ADDR (R262). Invalidates, in each active thread, the L1 line that holds the translated address. -/
  | cinvAddr (a : Opnd)
  /-- CWB_WCB (R263). Drains the whole write-combining buffer and parks until it is acknowledged. -/
  | cwbWcb
  /-- CWB_PRIV (R263). Writes back the warp's dirty private lines and parks until acknowledged. -/
  | cwbPriv
  /-- PREF_L2 (R264). Starts a fill of the line into L2, silently dropped on any cause. -/
  | prefL2 (a : Opnd) (g u : Bool)
  /-- PREF_L1 (R264). Starts a fill of the line into L1. -/
  | prefL1 (a : Opnd) (g u : Bool)
  /-- CPB_G2S (R308). Copies a box from global memory to scratchpad after the verdict. -/
  | cpbG2s (f : CopyForm)
  /-- CPB_S2G (R308). Copies a box from scratchpad to global memory after the verdict. -/
  | cpbS2g (f : CopyForm)
  /-- CPBM (R310). Multicasts one global box into the scratchpads of up to 16 cores of the plot. -/
  | cpbm (f : CopyForm)
  /-- CPBP_G2S (R314). Writes packed codes from global memory into scratchpad as bit-plane groups. -/
  | cpbpG2s (f : CopyForm)
  /-- CPBP_S2S (R314). Rewrites packed codes in the workgroup's own scratchpad as bit-plane groups. -/
  | cpbpS2s (f : CopyForm)
  /-- BARI (R325). Initialises a named barrier's expected count and copy-engine membership. -/
  | bari (a : Opnd) (k : Fin 16)
  /-- BARA (R326). Arrives at a named barrier without waiting. -/
  | bara (k : Fin 16) (g : Bool)
  /-- BARW (R326). Arrives and parks until the joined generation completes. -/
  | barw (k : Fin 16) (g : Bool)
  /-- BARC (R327). Registers a continuation on the barrier's current generation. -/
  | barc (a : Opnd) (k : Fin 16)
  /-- BARQ (R328). Writes the barrier's status and GEN. -/
  | barq (d : Opnd) (k : Fin 16) (g : Bool)
  /-- BARX (R329). Waits for counted transfers, then clears the barrier's whole state and fails its parked waiters. -/
  | barx (k : Fin 16)
  /-- RCRT (R293). Opens a pricking, grants idle lanes as helpers and freezes the share range. -/
  | rcrt (x a b : Opnd) (g : Bool)
  /-- RNEXT (R294). Completes the member's held chunk and claims the lowest unclaimed chunk, or ends a helper under a release request. -/
  | rnext (x : Opnd) (p : Fin 64)
  /-- RPART_32 (R295). Deposits a zero-extended 32-bit partial into the held chunk's slot. -/
  | rpart32 (a : Opnd) (g : Bool)
  /-- RPART_64 (R295). Deposits a 64-bit partial into the held chunk's slot. -/
  | rpart64 (a : Opnd) (g : Bool)
  /-- RJOIN (R296). Waits for the helpers, then folds the partials in chunk order and closes the pricking, or raises HELPER_FAULT. -/
  | rjoin (op : RedOp) (x : Opnd) (p : Fin 64)
  /-- RLSE (R297). Ends a helper, or in the recruiter releases every helper and closes the pricking. -/
  | rlse
  /-- RQRY (R298). Writes the pricking status word of the panel pair. -/
  | rqry (x : Opnd) (g : Bool)
  /-- MMA (R351). Queues a bit-serial matrix multiply accumulating into mak. -/
  | mma (k : Fin 4) (a b : Opnd) (g : Bool)
  /-- MMA_Z (R351). Queues a matrix multiply that starts from zero instead of the accumulator contents. -/
  | mmaZ (k : Fin 4) (a b : Opnd) (g : Bool)
  /-- MMAP (R344). Queues a 128-row pair multiply on the core and its pair partner into mak and mak+1. -/
  | mmap (k : Fin 2) (a b : Opnd) (g : Bool)
  /-- MMAP_Z (R344). Pair multiply that starts from zero. -/
  | mmapZ (k : Fin 2) (a b : Opnd) (g : Bool)
  /-- MSCL (R352). Writes band scales and scale-record offsets into the warp's attachment register. -/
  | mscl (a b : Opnd) (g : Bool)
  /-- MSCL_BAND (R352). Attaches band scales only. -/
  | msclBand (a : Opnd) (g : Bool)
  /-- MAEPI (R353). Writes a scaled, always-saturating conversion of an accumulator to scratchpad and adds to its overflow counter. -/
  | maepi (k : Fin 4) (a : Opnd) (g : Bool)
  /-- MARD (R354). Writes an accumulator unconverted, row-major, with its status word. -/
  | mard (k : Fin 4) (a : Opnd) (g : Bool)
  /-- MARD_COL (R354). Writes an accumulator unconverted, column-major. -/
  | mardCol (k : Fin 4) (a : Opnd) (g : Bool)
  /-- MACLR (R355). Claims an accumulator and queues its zeroing. -/
  | maclr (k : Fin 4) (p : Fin 64)
  /-- MACLR_REL (R355). Releases an owned accumulator and queues its zeroing. -/
  | maclrRel (k : Fin 4) (p : Fin 64)
  /-- MSTAT (R356). Waits for the warp's earlier matrix commands, then writes fence masks, ownership and status. -/
  | mstat (d : Opnd) (k : Fin 4)
  /-- MTEST (R357). Privileged: runs the full self-test on all four sub-arrays and fences failures. -/
  | mtest (d : Opnd)
  /-- WSBIND (R370). Resolves the visible version of a weight set and binds it into the lowest empty slot, or reports a refusal. -/
  | wsbind (x a : Opnd)
  /-- WSTRM (R371). After its verdict, queues a stream of a tensor's plane groups and scale records into scratchpad. -/
  | wstrm (x a b : Opnd) (g : Bool)
  /-- WSQRY (R378). Returns a version or tensor attribute through a live handle. -/
  | wsqry (x a b : Opnd)
  /-- WSREL (R379). Empties a binding slot and raises its generation once every port has dropped it. -/
  | wsrel (a : Opnd)
  /-- GUARD_SLOT_RESOLVE (R29). When a guard predicate is written, engines execute or discard the commands held at their queue heads on that slot. -/
  | guardSlotResolve (core slot : Nat) (p : Nat)
  /-- LOAD_DATA_RETURN (R237). Returning load, atomic or remote-read data is written into the registers resolved at issue and the loads counter falls. -/
  | loadDataReturn (core slot n : Nat)
  /-- WRITE_PERFORMED (R123). A coherence point acknowledges a write, which completes its store or drain and fires monitors on the line. -/
  | writePerformed (core n : Nat)
  /-- WCB_AGE_DRAIN (R122). A write-combining buffer entry allocated for 2 µs drains toward its coherence point and AGEDR counts it. -/
  | wcbAgeDrain (core n : Nat)
  /-- SPLIT_RELEASE (R147). When every other live split is held, parked or finished, held splits at one RECONV merge and the lowest one is released. -/
  | splitRelease (core slot : Nat)
  /-- PREEMPT_REQUEST (R161). A pre-emption request reaches a workgroup, whose splits stop at their nearest stations. -/
  | preemptRequest (grid wg : Nat)
  /-- PREEMPT_WITHDRAW (R163). A split that finds no safe stop within the instruction bound has its workgroup's request withdrawn. -/
  | preemptWithdraw (grid wg : Nat)
  /-- WORKGROUP_SAVE (R164). Once the drain has completed, the workgroup's live state is written as a save image and its resources are freed. -/
  | workgroupSave (grid wg : Nat)
  /-- WORKGROUP_RESTORE (R165). A saved workgroup is placed on a core, its image is checked and loaded, and its splits resume. -/
  | workgroupRestore (grid wg core : Nat)
  /-- MWAIT_TIMEOUT (R176). The MWAIT timeout elapses and the parked split returns with the timeout bit set. -/
  | mwaitTimeout (core slot sp : Nat)
  /-- PAGE_WALK (R241). A page walk completes with a translation or a translation cause for the waiting access. -/
  | pageWalk (core ctx va : Nat)
  /-- PAGE_REPLAY (R245). When every page request of a parked split has been answered retry, the split replays its instruction for the replay mask. -/
  | pageReplay (core slot sp : Nat)
  /-- REMOTE_SCRATCH_ACCESS (R252). A remote scratchpad access arrives at its target core, which accepts it or refuses it with SCRATCH_STALE or SCRATCH_RANGE, or drops a late write. -/
  | remoteScratchAccess (n : Nat)
  /-- ALLOCATION_RELEASE (R253). When the inbound count reaches zero, or 4 µs have passed, an ended or saved allocation is freed and the generation counter increments. -/
  | allocationRelease (core n : Nat)
  /-- CARVE_WAY_MOVE (R267). One 32 KiB way moves between L1 and scratchpad after its lines are written back or its allocations have left. -/
  | carveWayMove (core : Nat)
  /-- HOST_COMPLETION (R249). A PCIe completion for a host-coherent access arrives; an error status delivers all ones and counts HOSTERR. -/
  | hostCompletion (n : Nat) (ok : Bool)
  /-- HELPER_CANCEL (R288). A helper issues 1,024 instructions after a release request without reaching RNEXT or RLSE and is cancelled as a helper fault. -/
  | helperCancel (core pair lane : Nat)
  /-- PRICKING_WITHDRAW (R291). A helper misses a chunk boundary within 4,096 instructions and the pre-emption of the recruiter's workgroup is withdrawn. -/
  | prickingWithdraw (core pair : Nat)
  /-- COPY_LAND (R303). A copy transfer lands, which lowers the copies counter and completes batch and barrier accounting. -/
  | copyLand (core n : Nat)
  /-- MULTICAST_WRITE (R311). A multicast word reaches a target's crossbar port and is accepted or dropped. -/
  | multicastWrite (n : Nat)
  /-- CONTINUATION_SPAWN (R320). The copy engine spawns a continuation warp once a panel and a warp index are free. -/
  | continuationSpawn (grid wg k : Nat)
  /-- MATRIX_QUEUE_HEAD (R336). A matrix command at the head of the queue resolves its guard, then starts, with self-test and pair hold where they apply. -/
  | matrixQueueHead (core : Nat)
  /-- MATRIX_RETIRE (R336). A matrix operation retires, which writes its accumulators or scratchpad and lowers the tile-operations counter. -/
  | matrixRetire (core : Nat)
  /-- STREAM_LAND (R375). A weight stream finishes writing its plane and scale ranges and lands. -/
  | streamLand (core n : Nat)
  /-- VERSION_ERASE (R363). A superseded version that no binding, stream or grid references is erased and its space freed. -/
  | versionErase (name ver : Nat)
  /-- WORKGROUP_END (R148). A workgroup ends after its last warp and its private write-backs are acknowledged, with no continuation pending. -/
  | workgroupEnd (grid wg : Nat)
  /-- GROUP_ARRIVAL (R392). An arrival reaches a group barrier, counts into the current generation or is dropped, and may complete the generation. -/
  | groupArrival (n : Nat)
  /-- EFT_WR (R402). A WR frame arrives and its words are written through the inbound window, then acknowledged. -/
  | eftWr (f : Frame)
  /-- EFT_RD (R402). An RD frame arrives and is answered with RDRSP. -/
  | eftRd (f : Frame)
  /-- EFT_RDRSP (R410). Read data arrive for an outstanding FRD. -/
  | eftRdrsp (f : Frame)
  /-- EFT_SIG (R404). A SIG frame arrives and its atomic add is performed at the target. -/
  | eftSig (f : Frame)
  /-- EFT_ATOM (R402). An ATOM frame arrives, performs a compare-and-swap and is answered with ATOMRSP. -/
  | eftAtom (f : Frame)
  /-- EFT_ATOMRSP (R410). An old value arrives for an outstanding FATOM. -/
  | eftAtomrsp (f : Frame)
  /-- EFT_REFUSE (R405). A target refuses a remote access and the access fails, raising FABRIC. -/
  | eftRefuse (f : Frame)
  /-- EFT_LAUNCH (R399). An arriving fabric launch is checked against the fabric launch table and answered with LANS. -/
  | eftLaunch (f : Frame)
  /-- EFT_LANS (R401). A target's accept or refuse answer to a fabric launch arrives at the source. -/
  | eftLans (f : Frame)
  /-- EFT_COMMIT (R401). A commit arrives and lets the held part be placed. -/
  | eftCommit (f : Frame)
  /-- EFT_ABANDON (R401). An abandon arrives and the held part is discarded. -/
  | eftAbandon (f : Frame)
  /-- EFT_DONE (R400). A completion notice of an accepted part arrives at the source. -/
  | eftDone (f : Frame)
  /-- EFT_GARR (R394). A domain-group arrival arrives at the group's home device. -/
  | eftGarr (f : Frame)
  /-- EFT_GGEN (R394). A new GEN of a domain-wide group arrives at a member and wakes its waiters. -/
  | eftGgen (f : Frame)
  /-- EFT_MGMT (R395). An MGMT frame carries SPDM messages or stream re-formation between security engines. -/
  | eftMgmt (f : Frame)
  /-- EFT_ACKONLY (R396). An acknowledgement-only frame arrives. -/
  | eftAckonly (f : Frame)
  /-- FRAME_DROP (R395). A frame that is not EFT for this domain, fails MACsec or has an unknown kind is discarded. -/
  | frameDrop (f : Frame)
  /-- EFT_ACK_TIMEOUT (R396). A receiver with no reverse traffic for 2 µs sends an ACKONLY frame. -/
  | eftAckTimeout (dev part : Nat)
  /-- EFT_RETRANSMIT (R396). After 8 µs without progress unacknowledged frames are resent, and the stream fails after 8 retransmissions. -/
  | eftRetransmit (dev part : Nat)
  /-- FLNCH_TIMEOUT (R401). After 50 µs without every answer the source abandons the fabric launch and raises FABRIC. -/
  | flnchTimeout (n : Nat)
  /-- RATE_BUCKET_REFILL (R399). Every 10 µs each fabric launch entry's bucket gains RATE tokens. -/
  | rateBucketRefill
  /-- REMOTE_ACCESS_TIMEOUT (R405). A remote access unanswered for 100 µs fails and raises FABRIC. -/
  | remoteAccessTimeout (n : Nat)
  /-- PICK_CALL (R412). A core can take a workgroup; the hypervisor and tenant traverses choose a context and an entry, which is placed. -/
  | pickCall (core : Nat)
  /-- TICK_CALL (R412). Every 10 µs of timebase each plot runs TICK, refilling overdrafts and possibly pre-empting one workgroup. -/
  | tickCall (plot : Nat)
  /-- SLICE_EXPIRY (R415). A workgroup's slice reaches zero, setting its slice-expired flag and making a TICK call on its plot. -/
  | sliceExpiry (grid wg : Nat)
  /-- BLOCK_CALL (R412). Every split of a resident workgroup is parked or held, and the tenant traverse decides on a swap-out. -/
  | blockCall (grid wg : Nat)
  /-- WAKE_CALL (R497). A saved or wholly parked workgroup becomes ready and the tenant traverse sets its PRIO. -/
  | wakeCall (grid wg : Nat)
  /-- MIGR_CALL (R430). A workgroup saved from a leaving plot gets a plot chosen by the hypervisor traverse. -/
  | migrCall (grid wg : Nat)
  /-- NOP_PACKET (R436). A NOP packet whose step does nothing. -/
  | nopPacket (qnum : Nat)
  /-- LAUNCH (R436). A LAUNCH packet submits a grid for acceptance or refusal. -/
  | launch (qnum : Nat)
  /-- MBOX_WAIT (R439). A packet that translates DEST and consumes a mailbox word, blocking its queue while the word is empty. -/
  | mboxWait (qnum : Nat)
  /-- MBOX_SIGNAL (R439). A packet that produces a value into a mailbox word, waiting while the word is full. -/
  | mboxSignal (qnum : Nat)
  /-- MBOX_CONSUME (R440). A waiting consume is served when its word fills; the value is read, the word emptied and DEST written. -/
  | mboxConsume (part word : Nat)
  /-- MBOX_PRODUCE (R440). A waiting produce is served when its word empties and fills the word. -/
  | mboxProduce (part word : Nat)
  /-- BACKGROUND_PRODUCE (R439). A completed CMPL grid's MVAL is produced into its mailbox word, waiting while the word is full. -/
  | backgroundProduce (n : Nat)
  /-- POLICY_LOAD (R424). A packet whose traverse image is verified and installed for the context or partition. -/
  | policyLoad (qnum : Nat)
  /-- LAYOUT (R450). PART_CFG function that creates, changes or removes a partition's plots, granules and slot maps. -/
  | layout (qnum : Nat)
  /-- MEPLIM (R266). PART_CFG function that writes a partition's memory limits. -/
  | meplim (qnum : Nat)
  /-- CTX_CREATE (R432). PART_CFG function that checks a context block and creates the context and its queues. -/
  | ctxCreate (qnum : Nat)
  /-- CTX_DESTROY (R448). PART_CFG function that aborts, discards and frees a context. -/
  | ctxDestroy (qnum : Nat)
  /-- FLTAB (R399). PART_CFG function that writes a fabric launch table entry. -/
  | fltab (qnum : Nat)
  /-- WINTAB (R451). PART_CFG function that writes an inbound window table entry. -/
  | wintab (qnum : Nat)
  /-- WPROG (R452). PART_CFG function that programs a weight-set version at 16 GB/s. -/
  | wprog (qnum : Nat) (v : WeightVersion)
  /-- WPUB (R452). PART_CFG function that publishes a version and raises the publish epoch. -/
  | wpub (qnum : Nat)
  /-- CHKPT (R453). PART_CFG function that copies selected HBM granules to or from the safe tier. -/
  | chkpt (qnum : Nat) (hostOk : Bool)
  /-- DOMAIN (R397). PART_CFG function that sets the device number and the domain table. -/
  | domain (qnum : Nat)
  /-- SLOT_MAP_SWITCH (R450). New slot maps take effect on every calendar at the start of a calendar period. -/
  | slotMapSwitch
  /-- CLEAR_SEQUENCE (R24). The hardware drains and clears a plot's registers, scratchpad and L1, writes back and invalidates L2 lines of the key id, and counts SCLRS. -/
  | clearSequence (plot : Nat)
  /-- QDB (R433). Doorbell write that releases packets up to the new count, or is ignored with a NOTICE. -/
  | qdb (ctx q value : Nat)
  /-- EQRD (R445). Software consumes exception records, freeing ring room and retrying waiting record writes. -/
  | eqrd (ctx q value : Nat)
  /-- QRESET (R444). Resumes halted queues with QRD set to the last doorbell. -/
  | qreset (ctx value : Nat)
  /-- EQANS_RESUME (R444). Answers a record with resume. -/
  | eqansResume (ctx seq : Nat)
  /-- EQANS_SKIP (R444). Answers a record with skip. -/
  | eqansSkip (ctx seq : Nat)
  /-- EQANS_ABORT (R444). Answers a record with abort. -/
  | eqansAbort (ctx seq : Nat)
  /-- FSREPLY_RETRY (R447). Answers a page request with retry. -/
  | fsreplyRetry (ctx seq : Nat)
  /-- FSREPLY_DECLINE (R447). Declines a page request, delivering PAGE_ABSENT. -/
  | fsreplyDecline (ctx seq : Nat)
  /-- TLBINV (R447). Starts invalidation of a page's translations across the partition. -/
  | tlbinv (ctx value : Nat)
  /-- TLBINV_COMPLETE (R447). No translation cache or walker holds the invalidated page any longer. -/
  | tlbinvComplete (ctx : Nat)
  /-- MBXDATA (R441). Host write that sets a mailbox word full and wakes its first waiting consume. -/
  | mbxdata (ctx value : Nat)
  /-- MECARVE (R266). Write of a context's carve code, refused outside CARVOK. -/
  | mecarve (ctx value : Nat)
  /-- PSDATA (R420). Host access that writes the policy scratch word named by PSIDX. -/
  | psdata (ctx value : Nat)
  /-- REGISTER_WRITE (R5). Write to a register that has no behaviour of its own, which sets the field. -/
  | registerWrite (page : RegPage) (off value : Nat)
  /-- IMAGE_BOOT (R456). The standby complex finishes verifying and booting a staged image, going to READY or withdrawing. -/
  | imageBoot (ok : Bool)
  /-- QUIESCE_COMPLETE (R457). Every queue reaches a packet boundary, and SWITCH exchanges the complexes' roles. -/
  | quiesceComplete
  /-- QUIESCE_TIMEOUT (R456). QUIESCE fails after 500 µs and returns to READY. -/
  | quiesceTimeout
  /-- QUIESCE_RETRY (R456). After 10 ms the quiesce is retried, or withdrawn after the 8th failure. -/
  | quiesceRetry
  /-- WATCHDOG_MISS (R456). The new active complex misses its 1 s watchdog and the former active resumes. -/
  | watchdogMiss
  /-- UPDWIN_EXPIRY (R470). The update acknowledgement window expires and the update is withdrawn. -/
  | updwinExpiry
  /-- FUSE_ADVANCE (R472). A new image has run 1 s past SWITCH and the anti-rollback counter is raised pair by pair. -/
  | fuseAdvance (first second : Bool)
  /-- UPDSTAGE (R470). Stages a signed firmware image and begins BOOT, or refuses it. -/
  | updstage (win : Nat) (img : ImageInfo)
  /-- UPDWDR (R470). Withdraws a staged update. -/
  | updwdr
  /-- KCMD_GENERATE (R459). Generates an ordinary key into a FREE slot for a partition. -/
  | kcmdGenerate (part : Nat)
  /-- KCMD_RETIRE (R459). Retires an ordinary key slot not named by any record, SHKEY or version. -/
  | kcmdRetire (part key : Nat)
  /-- KEY_PEND_TIMEOUT (R459). A PEND slot unused for 60 s, or whose session has ended, goes to ZERO. -/
  | keyPendTimeout (key : Nat)
  /-- KEY_ZEROISE (R459). Once every L2 line of the key id is written back or invalidated, the slot is zeroised and freed. -/
  | keyZeroise (key : Nat)
  /-- GET_VERSION (R464). SPDM request for the supported versions. -/
  | getVersion
  /-- GET_CAPABILITIES (R464). SPDM request for the capabilities. -/
  | getCapabilities
  /-- NEGOTIATE_ALGORITHMS (R464). SPDM algorithm negotiation. -/
  | negotiateAlgorithms
  /-- GET_DIGESTS (R464). SPDM request for the certificate digests. -/
  | getDigests
  /-- GET_CERTIFICATE (R464). SPDM request for the identity certificate chain. -/
  | getCertificate
  /-- CHALLENGE (R464). SPDM challenge signed with the identity key. -/
  | challenge (nonce : Nat)
  /-- GET_MEASUREMENTS (R465). SPDM request returning signed measurement blocks. -/
  | getMeasurements (sess : Nat)
  /-- KEY_EXCHANGE (R464). SPDM session establishment bound to one partition. -/
  | keyExchange (part : Nat)
  /-- FINISH (R464). SPDM session finish. -/
  | finish (sess : Nat)
  /-- END_SESSION (R464). Ends an SPDM session. -/
  | endSession (sess : Nat)
  /-- KEY_IMPORT (R467). Places a wrapped tenant key into a PEND slot, or refuses it. -/
  | keyImport (sess gen wrapped : Nat)
  /-- UPDATE_ACK (R470). A partition acknowledges a staged update; the last acknowledgement activates it. -/
  | updateAck (sess digest : Nat)
  /-- UPDATE_NAK (R470). A partition refuses a staged update, which withdraws it. -/
  | updateNak (sess digest : Nat)
  /-- METER_READ (R476). Returns a kept chain entry of the session's partition. -/
  | meterRead (sess entry : Nat)
  /-- LINK_TAG_FAILURE (R462). A die-to-stack flit group fails its tag and is retransmitted, with a rekey at the fourth failure. -/
  | linkTagFailure (link : Nat)
  /-- LINK_REKEY (R462). The flit-group counter reaches 2^48 and the link takes a new session. -/
  | linkRekey (link : Nat)
  /-- DBGNONCE (R468). Read of DBGNONCE that makes a new debug nonce. -/
  | dbgnonce
  /-- NONCE_EXPIRY (R468). A debug nonce ceases to be valid after 60 s. -/
  | nonceExpiry
  /-- DBGTOK (R468). Starts a debug-unlock attempt from a token and checks it. -/
  | dbgtok (addr : Nat)
  /-- MDATA (R477). Read of MDATA with index 18 that marks the sealed report fetched. -/
  | mdata
  /-- CHAIN_TICK (R476). Every 1 s of timebase an entry is appended to each partition's chain. -/
  | chainTick
  /-- POWER_MEASURE (R486). Every 100 µs module power is measured and the module scale S is adjusted. -/
  | powerMeasure (watts : Nat)
  /-- THERMAL_REPORT (R489). A stack's temperature report changes its derate level, opening and closing derate intervals. -/
  | thermalReport (stack : Nat) (celsius : Int)
  /-- LEASE (R487). Grants, extends or returns a context's boost lease from LPOOL. -/
  | lease (ctx iiu : Nat)
  /-- LEASE_END (R487). A boost lease's IIU reach zero and the lease ends. -/
  | leaseEnd (ctx : Nat)
  /-- SNAPTRIG (R491). Host trigger that latches a snapshot, or counts SNAPMISS while one is held. -/
  | snaptrig (tag : Nat)
  /-- SNAP_THRESHOLD (R491). The selected meter reaches SNAPTHR and triggers a snapshot. -/
  | snapThreshold
  /-- SNAPACK (R492). Releases the held snapshot. -/
  | snapack
  /-- MODULE_RESET (R495). Module reset runs the fuse check, security start, complex boot, HBM training and controller initialisation. -/
  | moduleReset (blown : Bool)
  /-- CORE_CYCLE (R483). At the end of every core cycle the issue stage refills its allowance, updates its withhold floor, and the warps accrue cycles and tax. -/
  | coreCycle (core : Nat)
  /-- HOST_ACCESS (R132). A host read or write of device memory arrives through the host port as one agent, sending a forced publish when it reaches a held line. -/
  | hostAccess (op : HostOp)
  /-- POWER_LOSS (R473). Module power is lost, possibly between the two fuses of an anti-rollback pair, leaving a half pair for the next boot. -/
  | powerLoss
  /-- SECURE_ASSOCIATION_RENEWAL (R395). A fabric port's MACsec secure association keys are renewed before its packet-number space runs out. -/
  | secureAssociationRenewal (port : Nat)
  /-- UNUSED_ENCODING (R49). An instruction word whose major opcode or function value is unused raises ILLEGAL_OP at decode. -/
  | unusedEncoding (w : Word)
  deriving DecidableEq, Repr

end Sys2Proof
end

