-- ==== Sys2Proof/WellFormed.lean ====
section
/-! DEFINITION. The static rules that decode applies to operands and function codes (R48, R52, R53 to R58, R63, R71). -/

namespace Sys2Proof

/-- Any operand field (a 32-bit register operand, R62). -/
def anyOk (_ : Opnd) : Bool := true

/-- A register field in which a latch entry raises ILLEGAL_OP (R237, R292, R323). -/
def noLatch : Opnd → Bool
  | .latch _ => false
  | _ => true

/-- A 64-bit operand: an even window field, vz, or an index indirection, never a latch entry (R63). -/
def pairOk : Opnd → Bool
  | .win n => n.val % 2 == 0
  | .latch _ => false
  | _ => true

/-- A 128-bit operand: a window field that is a multiple of 4, vz, or an index indirection (R63). -/
def quadOk : Opnd → Bool
  | .win n => n.val % 4 == 0
  | .latch _ => false
  | _ => true

/-- The eight-register element group of QNT and DQNT (R229, R231). -/
def octOk : Opnd → Bool
  | .win n => n.val % 8 == 0
  | .latch _ => false
  | _ => true

/-- The data operand of a memory access of the given width (R237, Table 2-7). -/
def dataOk : MWidth → Opnd → Bool
  | .w32, o => noLatch o
  | .w64, o => pairOk o
  | .w128, o => quadOk o

/-- Wide formats that occupy a register pair (R226). -/
def WideFmt.isPair : WideFmt → Bool
  | .s64 | .z64 | .f64 => true
  | _ => false

/-- Is the destination of a CVT a pair? -/
def CvtFn.dstPair : CvtFn → Bool
  | .wide d _ => d.isPair
  | _ => false

/-- Is the source of a CVT a pair? -/
def CvtFn.srcPair : CvtFn → Bool
  | .wide _ s => s.isPair
  | _ => false

/-- Narrow formats that are integers (Table 2-5). -/
def NarrowFmt.isInt : NarrowFmt → Bool
  | .e4m3 | .e2m1 => false
  | _ => true

/-- The narrow pairs that exist: integers with .s32 or .f32, floats with .f32, .f16 or .bf16 (Table 2-5). -/
def narrowValid (n : NarrowFmt) (s : NarrowSide) : Bool :=
  match n.isInt, s with
  | true, .s32 | true, .f32 => true
  | false, .f32 | false, .f16 | false, .bf16 => true
  | _, _ => false

/-- The valid combinations of CVT (Table 2-5). -/
def cvtFnValid : CvtFn → Bool
  | .wide d s => d != s
  | .narrow d s => narrowValid d s
  | .widen d s => narrowValid s d

/-- Operand rules of CVT: pairs where a side is 64 bits, and no hold of a 64-bit source (R226). -/
def cvtOk (fn : CvtFn) (f : XForm) : Bool :=
  (!fn.dstPair || pairOk f.d) && (!fn.srcPair || (pairOk f.a && f.h == none))

/-- Operand rules of REDX: .dadd takes pairs and no hold (R234). -/
def redxOk (op : RedOp) (f : XForm) : Bool :=
  op != .dadd || (pairOk f.d && pairOk f.a && f.h == none)

/-- The result operand of RJOIN (Table 11-5). -/
def rjoinOk (op : RedOp) (x : Opnd) : Bool :=
  if op == .dadd then pairOk x else noLatch x

/-- Number of elements of a register for a kind of UNPK (Table 2-4). -/
def unpkCount : UnpkKind → Nat
  | .zx8 | .sx8 => 4
  | .zx16 | .sx16 => 2
  | .zx4 | .sx4 => 8

/-- Is a special register 64 bits wide (Table 2-14)? -/
def SpecReg.wide : SpecReg → Bool
  | .cycles | .elapsed | .iiu | .tax | .trappc | .trapbase => true
  | _ => false

/-- Is a special register RW (Table 2-14)? -/
def SpecReg.writable : SpecReg → Bool
  | .fmt | .fpst | .trappc | .trapbase => true
  | _ => false

/-- The register operand of RDSR and WRSR: a pair for a 64-bit register (R71, Table 6-6). -/
def specOk (r : SpecReg) (o : Opnd) : Bool := !r.wide || pairOk o

/-- The static rules of R48 for an instruction: which operands must be even pairs, quads or groups of eight, where a
latch entry may not stand, and which field values do not occur together (R52, R55, R63, R71, R237).  An instruction not
listed has no such rule beyond the ranges of its own fields. -/
def Instr.wf : Instr → Bool
  | .addc f => pairOk f.d && pairOk f.a && pairOk f.b
  | .subb f => pairOk f.d && pairOk f.a && pairOk f.b
  | .lea f => pairOk f.d && pairOk f.a && anyOk f.b
  | .dadd f => pairOk f.d && pairOk f.a && pairOk f.b
  | .dmul f => pairOk f.d && pairOk f.a && pairOk f.b
  | .dfma f => pairOk f.d && pairOk f.a && pairOk f.b
  | .dsetp _ f => pairOk f.a && pairOk f.b
  | .cvt fn f => cvtFnValid fn && cvtOk fn f
  | .qnt f => quadOk f.x && octOk f.a
  | .dqnt f => octOk f.x && quadOk f.a
  | .unpk k e _ => decide (e.val < unpkCount k)
  | .voteBallot f => pairOk f.d
  | .redx op f => redxOk op f
  | .matchMask f => pairOk f.d
  | .lnch x a _ _ => noLatch x && pairOk a
  | .join a _ => noLatch a
  | .flnch x a b _ => pairOk x && pairOk a && noLatch b
  | .garr x a _ => noLatch x && noLatch a
  | .gwait x a b _ => noLatch x && noLatch a && noLatch b
  | .gmem a b _ => noLatch a && pairOk b
  | .fwr x a _ _ => quadOk x && pairOk a
  | .frd x a _ _ => quadOk x && pairOk a
  | .fsig a b _ _ => pairOk a && pairOk b
  | .fatom x a b _ _ => pairOk x && pairOk a && quadOk b
  | .ld k f => dataOk k f.d && pairOk f.a
  | .st k f => dataOk k f.d && pairOk f.a
  | .lds k f => dataOk k f.d && noLatch f.a
  | .sts k f => dataOk k f.d && noLatch f.a
  | .ldp k f => dataOk k f.d && noLatch f.a
  | .stp k f => dataOk k f.d && noLatch f.a
  | .ldn _ f => noLatch f.d && pairOk f.a
  | .stn _ f => noLatch f.d && pairOk f.a
  | .lda k _ f => dataOk k f.d && pairOk f.a
  | .stl k _ f => dataOk k f.d && pairOk f.a
  | .atomAdd f => noLatch f.x && pairOk f.a && noLatch f.b
  | .atomIncw f => noLatch f.x && pairOk f.a && noLatch f.b
  | .atomExch f => noLatch f.x && pairOk f.a && noLatch f.b
  | .atomCas f => noLatch f.x && pairOk f.a && pairOk f.b
  | .atomMin f => noLatch f.x && pairOk f.a && noLatch f.b
  | .atomMax f => noLatch f.x && pairOk f.a && noLatch f.b
  | .atomMinu f => noLatch f.x && pairOk f.a && noLatch f.b
  | .atomMaxu f => noLatch f.x && pairOk f.a && noLatch f.b
  | .atomAnd f => noLatch f.x && pairOk f.a && noLatch f.b
  | .atomOr f => noLatch f.x && pairOk f.a && noLatch f.b
  | .atomXor f => noLatch f.x && pairOk f.a && noLatch f.b
  | .redAdd f => pairOk f.a && noLatch f.b
  | .redIncw f => pairOk f.a && noLatch f.b
  | .redMin f => pairOk f.a && noLatch f.b
  | .redMax f => pairOk f.a && noLatch f.b
  | .redMinu f => pairOk f.a && noLatch f.b
  | .redMaxu f => pairOk f.a && noLatch f.b
  | .redAnd f => pairOk f.a && noLatch f.b
  | .redOr f => pairOk f.a && noLatch f.b
  | .redXor f => pairOk f.a && noLatch f.b
  | .cpa16Bar x a _ _ _ => noLatch x && pairOk a
  | .cpa16Nb x a _ _ => noLatch x && pairOk a
  | .cinvAddr a => pairOk a
  | .prefL2 a _ _ => pairOk a
  | .prefL1 a _ _ => pairOk a
  | .cpbG2s f => noLatch f.x && pairOk f.a && quadOk f.b
  | .cpbS2g f => noLatch f.x && pairOk f.a && quadOk f.b
  | .cpbm f => noLatch f.x && pairOk f.a && quadOk f.b
  | .cpbpG2s f => noLatch f.x && pairOk f.a && quadOk f.b
  | .cpbpS2s f => noLatch f.x && pairOk f.a && quadOk f.b
  | .bari a _ => noLatch a
  | .barc a _ => pairOk a
  | .barq d _ _ => pairOk d
  | .rcrt x a b _ => noLatch x && noLatch a && pairOk b
  | .rnext x _ => pairOk x
  | .rpart32 a _ => noLatch a
  | .rpart64 a _ => pairOk a
  | .rjoin op x _ => rjoinOk op x
  | .rqry x _ => noLatch x
  | .mma _ a b _ => pairOk a && noLatch b
  | .mmaZ _ a b _ => pairOk a && noLatch b
  | .mmap _ a b _ => pairOk a && noLatch b
  | .mmapZ _ a b _ => pairOk a && noLatch b
  | .mscl a b _ => pairOk a && pairOk b
  | .msclBand a _ => pairOk a
  | .maepi _ a _ => pairOk a
  | .mard _ a _ => noLatch a
  | .mardCol _ a _ => noLatch a
  | .mstat d _ => noLatch d
  | .mtest d => noLatch d
  | .wsbind x a => noLatch x && noLatch a
  | .wstrm x a b _ => noLatch x && pairOk a && quadOk b
  | .wsqry x a b => pairOk x && noLatch a && noLatch b
  | .wsrel a => noLatch a
  | .brp f => f.p != 0
  | .call f => f.p != 0 || !f.n
  | .bri a => pairOk a
  | .calli a => pairOk a
  | .marm a _ => pairOk a
  | .wrsr a r _ _ => r.writable && specOk r a
  | .rdsr d r _ _ => specOk r d
  | _ => true

end Sys2Proof
end

