-- ==== Sys2Proof/Decode.lean ====
section
/-! DEFINITION. Decoding an instruction word, total and refusing by name, and the encoder beside it
(02_words_registers.md R43 to R58, and the encoding tables of the engine chapters). -/

namespace Sys2Proof

/-- Why a word decodes to no instruction; each raises ILLEGAL_OP (R48, R49). -/
inductive DecodeFail where
  /-- The major opcode is unused in Table 2-2. -/
  | unusedOpcode (op : Nat)
  /-- A function, width or condition value is unused for the opcode. -/
  | unusedFunction (op fn : Nat)
  /-- A reserved field is not zero, or a form that can never act (R47, R52). -/
  | reservedField (op : Nat)
  /-- A reserved field is not zero or an operand breaks a static rule (R47, R63). -/
  | operandRule (op : Nat)
  deriving DecidableEq, Repr

/-- The field of `len` bits whose lowest bit is `lo` (R4). -/
def fld (w lo len : Nat) : Nat := w / 2 ^ lo % 2 ^ len

/-- One bit of a word. -/
def bitOf (w lo : Nat) : Bool := fld w lo 1 == 1

/-- Accept an instruction when its static rules hold. -/
def okIf (c : Bool) (op : Nat) (i : Instr) : Except DecodeFail Instr :=
  if c then .ok i else .error (.operandRule op)

/-- A register operand field (Table 2-11). -/
def opndOf (n : Nat) : Opnd :=
  if h : n < 120 then .win ⟨n, h⟩
  else if n = 120 then .vz
  else if n < 124 then .latch (Fin.ofNat 3 (n - 121))
  else .ix (Fin.ofNat 4 (n - 124))

/-- The field value of a register operand (Table 2-11). -/
def opndNum : Opnd → Nat
  | .win n => n.val
  | .vz => 120
  | .latch k => 121 + k.val
  | .ix k => 124 + k.val

/-- A predicate number (R44). -/
def predOf (n : Nat) : Fin 64 := Fin.ofNat 64 n

/-- The hold field (R66). -/
def holdOf (n : Nat) : Hold := if n = 0 then none else some (Fin.ofNat 3 (n - 1))

/-- The value of the hold field. -/
def holdNum : Hold → Nat
  | none => 0
  | some k => k.val + 1

/-- The 9-bit immediate of the I and S formats. -/
def imm9Of (w : Nat) : BitVec 9 := BitVec.ofNat 9 (fld w 2 9)

def rFormOf (w : Nat) : RForm :=
  { d := opndOf (fld w 18 7), a := opndOf (fld w 11 7), b := opndOf (fld w 4 7), h := holdOf (fld w 2 2),
    g := bitOf w 1, u := bitOf w 0 }

def pairFormOf (w : Nat) : PairForm :=
  { d := opndOf (fld w 18 7), a := opndOf (fld w 11 7), b := opndOf (fld w 4 7), g := bitOf w 1, u := bitOf w 0 }

def selFormOf (w : Nat) : SelForm :=
  { d := opndOf (fld w 18 7), a := opndOf (fld w 11 7), b := opndOf (fld w 4 7), h := holdOf (fld w 2 2), u := bitOf w 0 }

def xFormOf (w : Nat) : XForm :=
  { d := opndOf (fld w 18 7), a := opndOf (fld w 11 7), h := holdOf (fld w 2 2), g := bitOf w 1, u := bitOf w 0 }

def iFormOf (w : Nat) : IForm :=
  { d := opndOf (fld w 18 7), a := opndOf (fld w 11 7), imm := imm9Of w, g := bitOf w 1, u := bitOf w 0 }

def shFormOf (w : Nat) : ShForm :=
  { d := opndOf (fld w 18 7), a := opndOf (fld w 11 7), c := Fin.ofNat 32 (fld w 2 5), g := bitOf w 1, u := bitOf w 0 }

def lFormOf (w : Nat) : LForm :=
  { d := opndOf (fld w 18 7), imm := BitVec.ofNat 16 (fld w 2 16), g := bitOf w 1, u := bitOf w 0 }

def cmpFormOf (w : Nat) : CmpForm :=
  { p := predOf (fld w 19 6), a := opndOf (fld w 12 7), b := opndOf (fld w 5 7), g := bitOf w 1, u := bitOf w 0 }

def pLogFormOf (w : Nat) : PLogForm :=
  { p := predOf (fld w 19 6), q := predOf (fld w 12 6), r := predOf (fld w 5 6), g := bitOf w 1, u := bitOf w 0 }

def pUnFormOf (w : Nat) : PUnForm :=
  { p := predOf (fld w 19 6), q := predOf (fld w 12 6), g := bitOf w 1, u := bitOf w 0 }

def bFormOf (w : Nat) : BForm :=
  { p := predOf (fld w 19 6), n := bitOf w 18, off := BitVec.ofNat 17 (fld w 1 17) }

def qFormOf (w : Nat) : QForm :=
  { x := opndOf (fld w 18 7), a := opndOf (fld w 11 7), b := opndOf (fld w 4 7), g := bitOf w 1 }

def shflFormOf (w : Nat) : ShflForm :=
  { d := opndOf (fld w 18 7), a := opndOf (fld w 11 7), k := predOf (fld w 2 6), g := bitOf w 1, u := bitOf w 0 }

def voteFormOf (w : Nat) : VoteForm :=
  { p := predOf (fld w 18 6), q := predOf (fld w 11 6), g := bitOf w 1, u := bitOf w 0 }

def ballotFormOf (w : Nat) : BallotForm :=
  { d := opndOf (fld w 18 7), q := predOf (fld w 11 6), g := bitOf w 1, u := bitOf w 0 }

def matchFormOf (w : Nat) : MatchForm :=
  { d := opndOf (fld w 18 7), a := opndOf (fld w 11 7), b := opndOf (fld w 4 7), h := holdOf (fld w 2 2), g := bitOf w 1 }

def mFormOf (w : Nat) : MForm :=
  { d := opndOf (fld w 18 7), a := opndOf (fld w 11 7), off := BitVec.ofNat 7 (fld w 4 7), g := bitOf w 1, u := bitOf w 0 }

def scopedFormOf (w : Nat) : ScopedForm :=
  { d := opndOf (fld w 18 7), a := opndOf (fld w 11 7), g := bitOf w 1, u := bitOf w 0 }

def atomFormOf (w : Nat) : AtomForm :=
  { x := opndOf (fld w 18 7), a := opndOf (fld w 11 7), b := opndOf (fld w 4 7), g := bitOf w 1, u := bitOf w 0 }

def redFormOf (w : Nat) : RedForm :=
  { a := opndOf (fld w 11 7), b := opndOf (fld w 4 7), g := bitOf w 1, u := bitOf w 0 }

def copyFormOf (w : Nat) : CopyForm :=
  { x := opndOf (fld w 18 7), a := opndOf (fld w 11 7), b := opndOf (fld w 4 7), g := bitOf w 1 }

/-- SETP conditions (Table 2-8). -/
def intCcOf : Nat → IntCc
  | 0 => .eq | 1 => .ne | 2 => .lt | 3 => .le | 4 => .gt | 5 => .ge | 6 => .lo | _ => .hs

def intCcNum : IntCc → Nat
  | .eq => 0 | .ne => 1 | .lt => 2 | .le => 3 | .gt => 4 | .ge => 5 | .lo => 6 | .hs => 7

/-- FSETP and DSETP conditions (Table 2-8). -/
def fltCcOf : Nat → FltCc
  | 0 => .eq | 1 => .ne | 2 => .lt | 3 => .le | 4 => .gt | 5 => .ge | 6 => .num | _ => .nan

def fltCcNum : FltCc → Nat
  | .eq => 0 | .ne => 1 | .lt => 2 | .le => 3 | .gt => 4 | .ge => 5 | .num => 6 | .nan => 7

/-- Element formats (Table 2-13). -/
def elemOf : Nat → Option Elem
  | 0 => some .fp32 | 1 => some .fp16 | 2 => some .bf16 | 3 => some .e4m3 | 4 => some .e2m1 | 5 => some .int4
  | 6 => some .int8 | 7 => some .int16 | 8 => some .bfp8 | 9 => some .bfp12 | 10 => some .bfp16 | _ => none

def elemNum : Elem → Nat
  | .fp32 => 0 | .fp16 => 1 | .bf16 => 2 | .e4m3 => 3 | .e2m1 => 4 | .int4 => 5 | .int8 => 6 | .int16 => 7
  | .bfp8 => 8 | .bfp12 => 9 | .bfp16 => 10

/-- Rounding modes (Table 2-13). -/
def rndOf : Nat → Option Rnd
  | 0 => some .rne | 1 => some .rtz | 2 => some .rdn | 3 => some .rup | 4 => some .rna | _ => none

def rndNum : Rnd → Nat
  | .rne => 0 | .rtz => 1 | .rdn => 2 | .rup => 3 | .rna => 4

/-- Saturation modes (Table 2-13). -/
def satOf : Nat → Option Sat
  | 0 => some .ieee | 1 => some .clamp | 2 => some .clampNan | _ => none

def satNum : Sat → Nat
  | .ieee => 0 | .clamp => 1 | .clampNan => 2

/-- Timing classes by number (Table 6-6, CLASS). -/
def classOf : Nat → TimingClass
  | 0 => .c0 | 1 => .c1 | 2 => .c2 | _ => .c3

def classNum : TimingClass → Nat
  | .c0 => 0 | .c1 => 1 | .c2 => 2 | .c3 => 3

/-- Special registers by number (Table 2-14). -/
def specRegOf : Nat → Option SpecReg
  | 0 => some .tid | 1 => some .lane | 2 => some .slot | 3 => some .warp | 4 => some .wg | 5 => some .core
  | 6 => some .plot | 7 => some .parcel | 8 => some .cycles | 9 => some .elapsed | 10 => some .iiu | 11 => some .tax
  | 12 => some .fmt | 13 => some .fpst | 14 => some .trapcause | 15 => some .trappc | 16 => some .trapbase
  | 17 => some .wbase | 18 => some .batch | 19 => some .part | 20 => some .key | 21 => some .plim | _ => none

def specRegNum : SpecReg → Nat
  | .tid => 0 | .lane => 1 | .slot => 2 | .warp => 3 | .wg => 4 | .core => 5 | .plot => 6 | .parcel => 7
  | .cycles => 8 | .elapsed => 9 | .iiu => 10 | .tax => 11 | .fmt => 12 | .fpst => 13 | .trapcause => 14
  | .trappc => 15 | .trapbase => 16 | .wbase => 17 | .batch => 18 | .part => 19 | .key => 20 | .plim => 21

/-- Wide formats of CVT (Table 2-5). -/
def wideOf : Nat → WideFmt
  | 0 => .s32 | 1 => .z32 | 2 => .s64 | 3 => .z64 | 4 => .f32 | 5 => .f64 | 6 => .f16 | _ => .bf16

def wideNum : WideFmt → Nat
  | .s32 => 0 | .z32 => 1 | .s64 => 2 | .z64 => 3 | .f32 => 4 | .f64 => 5 | .f16 => 6 | .bf16 => 7

/-- Narrow formats of CVT (Table 2-5). -/
def narrowOf : Nat → Option NarrowFmt
  | 0 => some .s8 | 1 => some .z8 | 2 => some .s16 | 3 => some .z16 | 4 => some .e4m3 | 5 => some .e2m1 | _ => none

def narrowNum : NarrowFmt → Nat
  | .s8 => 0 | .z8 => 1 | .s16 => 2 | .z16 => 3 | .e4m3 => 4 | .e2m1 => 5

/-- The wide side of a narrow CVT (Table 2-5). -/
def sideOf : Nat → NarrowSide
  | 0 => .s32 | 1 => .f32 | 2 => .f16 | _ => .bf16

def sideNum : NarrowSide → Nat
  | .s32 => 0 | .f32 => 1 | .f16 => 2 | .bf16 => 3

/-- The function field of CVT (Table 2-5). -/
def cvtFnOf (n : Nat) : Option CvtFn :=
  let c := if n / 64 % 2 = 0 then some (.wide (wideOf (n / 8 % 8)) (wideOf (n % 8)))
    else match narrowOf (n / 8 % 8) with
      | some k => if n / 4 % 2 = 0 then some (.narrow k (sideOf (n % 4))) else some (.widen (sideOf (n % 4)) k)
      | none => none
  c.filter cvtFnValid

def cvtFnNum : CvtFn → Nat
  | .wide d s => wideNum d * 8 + wideNum s
  | .narrow d s => 64 + narrowNum d * 8 + sideNum s
  | .widen d s => 64 + narrowNum s * 8 + 4 + sideNum d

/-- Element kinds of UNPK (Table 2-4). -/
def unpkKindOf : Nat → Option UnpkKind
  | 0 => some .zx8 | 1 => some .sx8 | 2 => some .zx16 | 3 => some .sx16 | 4 => some .zx4 | 5 => some .sx4 | _ => none

def unpkKindNum : UnpkKind → Nat
  | .zx8 => 0 | .sx8 => 1 | .zx16 => 2 | .sx16 => 3 | .zx4 => 4 | .sx4 => 5

/-- Reduction operations of REDX and RJOIN (Table 2-4). -/
def redOpOf : Nat → Option RedOp
  | 0 => some .add | 1 => some .min | 2 => some .max | 3 => some .minu | 4 => some .maxu | 5 => some .and
  | 6 => some .or | 7 => some .xor | 0x10 => some .fadd | 0x11 => some .fmin | 0x12 => some .fmax | 0x18 => some .dadd
  | _ => none

def redOpNum : RedOp → Nat
  | .add => 0 | .min => 1 | .max => 2 | .minu => 3 | .maxu => 4 | .and => 5 | .or => 6 | .xor => 7
  | .fadd => 0x10 | .fmin => 0x11 | .fmax => 0x12 | .dadd => 0x18

/-- Widths of the M format (Table 2-7). -/
def mWidthOf : Nat → Option MWidth
  | 0 => some .w32 | 1 => some .w64 | 2 => some .w128 | _ => none

def mWidthNum : MWidth → Nat
  | .w32 => 0 | .w64 => 1 | .w128 => 2

/-- Forms of LDN (Table 2-7). -/
def narrowLoadOf : Nat → NarrowLoad
  | 0 => .zx8 | 1 => .sx8 | 2 => .zx16 | _ => .sx16

def narrowLoadNum : NarrowLoad → Nat
  | .zx8 => 0 | .sx8 => 1 | .zx16 => 2 | .sx16 => 3

/-- Forms of STN (Table 2-7). -/
def narrowStoreNum : NarrowStore → Nat
  | .b8 => 0 | .b16 => 1

/-- Scope codes (Table 5-2). -/
def scopeOf : Nat → Option Scope
  | 0 => some .thr | 1 => some .str | 2 => some .wrp | 3 => some .wkg | 4 => some .pai | 5 => some .plo
  | 6 => some .pcl | 7 => some .dev | 8 => some .sys | 9 => some .dom | _ => none

def scopeNum : Scope → Nat
  | .thr => 0 | .str => 1 | .wrp => 2 | .wkg => 3 | .pai => 4 | .plo => 5 | .pcl => 6 | .dev => 7 | .sys => 8 | .dom => 9

/-- Path codes (R261). -/
def pathOf : Nat → Option Path
  | 0 => some .ls | 1 => some .ga | 2 => some .cp | 3 => some .mx | 4 => some .ws | 5 => some .co | _ => none

def pathNum : Path → Nat
  | .ls => 0 | .ga => 1 | .cp => 2 | .mx => 3 | .ws => 4 | .co => 5

/-- The number of a flag bit. -/
def bitNum (b : Bool) : Nat := if b then 1 else 0

/-- R-format words (Table 2-1). -/
def encR (op : Nat) (f : RForm) : Nat :=
  op * 2 ^ 25 + opndNum f.d * 2 ^ 18 + opndNum f.a * 2 ^ 11 + opndNum f.b * 2 ^ 4 + holdNum f.h * 4 + bitNum f.g * 2 + bitNum f.u

def encPair (op : Nat) (f : PairForm) : Nat :=
  encR op { d := f.d, a := f.a, b := f.b, h := none, g := f.g, u := f.u }

def encSel (op : Nat) (f : SelForm) : Nat :=
  encR op { d := f.d, a := f.a, b := f.b, h := f.h, g := false, u := f.u }

/-- X-format words. -/
def encX (op fn : Nat) (f : XForm) : Nat :=
  op * 2 ^ 25 + opndNum f.d * 2 ^ 18 + opndNum f.a * 2 ^ 11 + fn * 2 ^ 4 + holdNum f.h * 4 + bitNum f.g * 2 + bitNum f.u

/-- X-format words of the votes: raw d and a fields, h zero. -/
def encXp (op fn d a : Nat) (g u : Bool) : Nat :=
  op * 2 ^ 25 + d * 2 ^ 18 + a * 2 ^ 11 + fn * 2 ^ 4 + bitNum g * 2 + bitNum u

/-- I-format words. -/
def encI (op : Nat) (f : IForm) : Nat :=
  op * 2 ^ 25 + opndNum f.d * 2 ^ 18 + opndNum f.a * 2 ^ 11 + f.imm.toNat * 4 + bitNum f.g * 2 + bitNum f.u

def encSh (op : Nat) (f : ShForm) : Nat :=
  op * 2 ^ 25 + opndNum f.d * 2 ^ 18 + opndNum f.a * 2 ^ 11 + f.c.val * 4 + bitNum f.g * 2 + bitNum f.u

/-- L-format words. -/
def encL (op : Nat) (f : LForm) : Nat :=
  op * 2 ^ 25 + opndNum f.d * 2 ^ 18 + f.imm.toNat * 4 + bitNum f.g * 2 + bitNum f.u

/-- C-format words of the comparisons. -/
def encC (op cc : Nat) (f : CmpForm) : Nat :=
  op * 2 ^ 25 + f.p.val * 2 ^ 19 + opndNum f.a * 2 ^ 12 + opndNum f.b * 2 ^ 5 + cc * 4 + bitNum f.g * 2 + bitNum f.u

/-- C-format words of the predicate logic. -/
def encPLog (cc p q r : Nat) (g u : Bool) : Nat :=
  0x04 * 2 ^ 25 + p * 2 ^ 19 + q * 2 ^ 12 + r * 2 ^ 5 + cc * 4 + bitNum g * 2 + bitNum u

/-- B-format words. -/
def encB (op : Nat) (f : BForm) : Nat :=
  op * 2 ^ 25 + f.p.val * 2 ^ 19 + bitNum f.n * 2 ^ 18 + f.off.toNat * 2

/-- The constant shuffles. -/
def encShfl (form : Nat) (f : ShflForm) : Nat :=
  0x55 * 2 ^ 25 + opndNum f.d * 2 ^ 18 + opndNum f.a * 2 ^ 11 + form * 2 ^ 9 + f.k.val * 4 + bitNum f.g * 2 + bitNum f.u

/-- M-format words. -/
def encM (op w : Nat) (f : MForm) : Nat :=
  op * 2 ^ 25 + opndNum f.d * 2 ^ 18 + opndNum f.a * 2 ^ 11 + f.off.toNat * 2 ^ 4 + w * 4 + bitNum f.g * 2 + bitNum f.u

/-- M-format words of LDA and STL. -/
def encScoped (op w sc : Nat) (f : ScopedForm) : Nat :=
  op * 2 ^ 25 + opndNum f.d * 2 ^ 18 + opndNum f.a * 2 ^ 11 + sc * 2 ^ 7 + w * 4 + bitNum f.g * 2 + bitNum f.u

/-- E-format words. -/
def encE (op x a b fn : Nat) (g u : Bool) : Nat :=
  op * 2 ^ 25 + x * 2 ^ 18 + a * 2 ^ 11 + b * 2 ^ 4 + fn * 4 + bitNum g * 2 + bitNum u

/-- S-format words. -/
def encS (op fn a imm : Nat) (g u : Bool) : Nat :=
  op * 2 ^ 25 + fn * 2 ^ 18 + a * 2 ^ 11 + imm * 4 + bitNum g * 2 + bitNum u

/-- The R format of the pair instructions: no hold, and the operand rules of R192 and R205. -/
def pairR (w : Nat) (bOk : Opnd → Bool) (mk : PairForm → Instr) : Except DecodeFail Instr :=
  okIf (fld w 2 2 = 0 && pairOk (pairFormOf w).d && pairOk (pairFormOf w).a && bOk (pairFormOf w).b) (fld w 25 7) (mk (pairFormOf w))

/-- The S-format system group (R53, R169, Table 6-6). -/
def decodeSys (w : Nat) : Except DecodeFail Instr :=
  match fld w 18 7 with
  | 0 => okIf (fld w 11 7 = 0 && fld w 2 9 = 0 && fld w 0 2 = 0) 0x03 (.nop)
  | 1 => okIf (fld w 11 7 = 0 && fld w 2 9 = 0 && fld w 0 2 = 0) 0x03 (.yield)
  | 2 => okIf (fld w 11 7 = 0 && fld w 0 2 = 0) 0x03 (.bkpt (imm9Of w))
  | 3 => okIf (fld w 11 7 = 0 && fld w 0 1 = 0) 0x03 (.trap (imm9Of w) (bitOf w 1))
  | 4 => okIf (fld w 11 7 = 0 && fld w 2 9 = 0 && fld w 0 2 = 0) 0x03 (.rft)
  | 5 => okIf (fld w 11 7 = 0 && fld w 2 9 = 0 && fld w 0 1 = 0) 0x03 (.exit (bitOf w 1))
  | 6 => okIf (fld w 11 7 = 0 && fld w 2 9 = 0 && fld w 0 2 = 0) 0x03 (.ret)
  | 7 => okIf (fld w 11 7 = 0 && fld w 2 9 = 0 && fld w 0 2 = 0) 0x03 (.reconv)
  | 8 => okIf (pairOk (opndOf (fld w 11 7)) && fld w 2 9 = 0 && fld w 0 2 = 0) 0x03 (.bri (opndOf (fld w 11 7)))
  | 9 => okIf (pairOk (opndOf (fld w 11 7)) && fld w 2 9 = 0 && fld w 0 2 = 0) 0x03 (.calli (opndOf (fld w 11 7)))
  | 10 => okIf (fld w 17 1 = 0 && fld w 2 9 = 0 && fld w 0 2 = 0) 0x03 (.guard (predOf (fld w 11 6)))
  | 11 => okIf (fld w 17 1 = 0 && fld w 2 9 = 0 && fld w 0 2 = 0) 0x03 (.guardn (predOf (fld w 11 6)))
  | 12 => okIf (fld w 17 1 = 0 && fld w 2 9 = 0 && fld w 0 1 = 0) 0x03 (.elect (predOf (fld w 11 6)) (bitOf w 1))
  | 13 => okIf (pairOk (opndOf (fld w 11 7)) && fld w 4 7 = 0 && fld w 0 2 = 0) 0x03 (.marm (opndOf (fld w 11 7)) (Fin.ofNat 4 (fld w 2 2)))
  | 14 => okIf (fld w 0 2 = 0) 0x03 (.mwait (opndOf (fld w 11 7)) (imm9Of w))
  | 15 => okIf (fld w 11 7 = 0 && fld w 2 9 = 0 && fld w 0 2 = 0) 0x03 (.fenceb)
  | 16 => okIf (fld w 0 2 = 0) 0x03 (.waitb (opndOf (fld w 11 7)) (imm9Of w))
  | 17 => okIf (fld w 0 2 = 0) 0x03 (.wbase (opndOf (fld w 11 7)) (imm9Of w))
  | 18 => okIf (fld w 4 7 = 0) 0x03 (.ixset (opndOf (fld w 11 7)) (Fin.ofNat 4 (fld w 2 2)) (bitOf w 1) (bitOf w 0))
  | 19 => .ok (.ixadd (opndOf (fld w 11 7)) (Fin.ofNat 4 (fld w 2 2)) (BitVec.ofNat 7 (fld w 4 7)) (bitOf w 1) (bitOf w 0))
  | 20 =>
    match elemOf (fld w 7 4), rndOf (fld w 4 3), satOf (fld w 2 2) with
    | some e, some r, some t => okIf (fld w 0 2 = 0) 0x03 (.fmt (opndOf (fld w 11 7)) e r t)
    | _, _, _ => .error (.unusedFunction 0x03 20)
  | 21 =>
    match specRegOf (fld w 2 9) with
    | some r => okIf (r.writable && specOk r (opndOf (fld w 11 7))) 0x03 (.wrsr (opndOf (fld w 11 7)) r (bitOf w 1) (bitOf w 0))
    | none => .error (.unusedFunction 0x03 21)
  | 22 => okIf (fld w 11 7 = 0 && fld w 0 2 = 0 && fld w 7 4 = 0) 0x03 (.classHint (classOf (fld w 2 2)) (Fin.ofNat 8 (fld w 4 3)))
  | 23 => okIf (fld w 11 7 = 0 && fld w 2 9 = 0 && fld w 0 2 = 0) 0x03 .sclr
  | 24 => okIf (fld w 11 7 = 0 && fld w 0 2 = 0) 0x03 (.snap (imm9Of w))
  | fn => .error (.unusedFunction 0x03 fn)

/-- Major opcodes 0x00 to 0x0F (Table 2-2). -/
def decodeRow0 (w : Nat) : Except DecodeFail Instr :=
  match fld w 25 7 with
  | 0x01 =>
    if fld w 0 1 = 0 then
      if fld w 19 6 = 0 then
        if fld w 18 1 = 0 then .ok (.br (bFormOf w).off) else .error (.reservedField 0x01)
      else .ok (.brp (bFormOf w))
    else .error (.reservedField 0x01)
  | 0x02 =>
    if fld w 0 1 = 0 && (fld w 19 6 != 0 || fld w 18 1 = 0) then .ok (.call (bFormOf w)) else .error (.reservedField 0x02)
  | 0x03 =>
    decodeSys w
  | 0x04 =>
    match fld w 2 3 with
    | 0 => okIf (fld w 18 1 = 0 && fld w 11 1 = 0) 0x04 (.pand (pLogFormOf w))
    | 1 => okIf (fld w 18 1 = 0 && fld w 11 1 = 0) 0x04 (.por (pLogFormOf w))
    | 2 => okIf (fld w 18 1 = 0 && fld w 11 1 = 0) 0x04 (.pxor (pLogFormOf w))
    | 3 => okIf (fld w 18 1 = 0 && fld w 5 7 = 0) 0x04 (.pnot (pUnFormOf w))
    | 4 => okIf (fld w 18 1 = 0 && fld w 5 7 = 0) 0x04 (.pmov (pUnFormOf w))
    | cc => .error (.unusedFunction 0x04 cc)
  | 0x05 =>
    okIf (fld w 23 2 = 0 && fld w 0 2 = 0) 0x05 (.waitc (BitVec.ofNat 5 (fld w 18 5)) (BitVec.ofNat 6 (fld w 12 6)) (BitVec.ofNat 6 (fld w 6 6)) (BitVec.ofNat 4 (fld w 2 4)))
  | 0x06 =>
    match specRegOf (fld w 2 9) with
    | some r => okIf (fld w 11 7 = 0 && specOk r (opndOf (fld w 18 7))) 0x06 (.rdsr (opndOf (fld w 18 7)) r (bitOf w 1) (bitOf w 0))
    | none => .error (.unusedFunction 0x06 (fld w 2 9))
  | 0x08 =>
    .ok (.add (rFormOf w))
  | 0x09 =>
    .ok (.sub (rFormOf w))
  | 0x0A =>
    pairR w pairOk fun f => .addc f
  | 0x0B =>
    pairR w pairOk fun f => .subb f
  | 0x0C =>
    .ok (.adds (rFormOf w))
  | 0x0D =>
    .ok (.subs (rFormOf w))
  | 0x0E =>
    .ok (.addsu (rFormOf w))
  | 0x0F =>
    .ok (.subsu (rFormOf w))
  | op => .error (.unusedOpcode op)

/-- Major opcodes 0x10 to 0x1F (Table 2-2). -/
def decodeRow1 (w : Nat) : Except DecodeFail Instr :=
  match fld w 25 7 with
  | 0x10 =>
    .ok (.mul (rFormOf w))
  | 0x11 =>
    .ok (.mulh (rFormOf w))
  | 0x12 =>
    .ok (.mulhu (rFormOf w))
  | 0x13 =>
    .ok (.mad (rFormOf w))
  | 0x14 =>
    .ok (.divs (rFormOf w))
  | 0x15 =>
    .ok (.divu (rFormOf w))
  | 0x16 =>
    .ok (.rems (rFormOf w))
  | 0x17 =>
    .ok (.remu (rFormOf w))
  | 0x18 =>
    .ok (.min (rFormOf w))
  | 0x19 =>
    .ok (.max (rFormOf w))
  | 0x1A =>
    .ok (.minu (rFormOf w))
  | 0x1B =>
    .ok (.maxu (rFormOf w))
  | 0x1C =>
    .ok (.and (rFormOf w))
  | 0x1D =>
    .ok (.or (rFormOf w))
  | 0x1E =>
    .ok (.xor (rFormOf w))
  | 0x1F =>
    if fld w 1 1 = 0 then .ok (.sel (selFormOf w)) else .error (.reservedField 0x1F)
  | op => .error (.unusedOpcode op)

/-- Major opcodes 0x20 to 0x2F (Table 2-2). -/
def decodeRow2 (w : Nat) : Except DecodeFail Instr :=
  match fld w 25 7 with
  | 0x20 =>
    .ok (.shl (rFormOf w))
  | 0x21 =>
    .ok (.shr (rFormOf w))
  | 0x22 =>
    .ok (.shra (rFormOf w))
  | 0x23 =>
    .ok (.rol (rFormOf w))
  | 0x24 =>
    pairR w anyOk fun f => .lea f
  | 0x25 =>
    match fld w 4 7 with
    | 0 => .ok (.mov (xFormOf w))
    | 1 => .ok (.not (xFormOf w))
    | 2 => .ok (.neg (xFormOf w))
    | 3 => .ok (.abs (xFormOf w))
    | 4 => .ok (.negs (xFormOf w))
    | 5 => .ok (.abss (xFormOf w))
    | 6 => .ok (.clz (xFormOf w))
    | 7 => .ok (.popc (xFormOf w))
    | 8 => .ok (.brev (xFormOf w))
    | fn => .error (.unusedFunction 0x25 fn)
  | 0x26 =>
    .ok (.setp (intCcOf (fld w 2 3)) (cmpFormOf w))
  | 0x28 =>
    .ok (.addi (iFormOf w))
  | 0x29 =>
    .ok (.andi (iFormOf w))
  | 0x2A =>
    .ok (.ori (iFormOf w))
  | 0x2B =>
    .ok (.xori (iFormOf w))
  | 0x2C =>
    if fld w 7 4 = 0 then .ok (.shli (shFormOf w)) else .error (.reservedField 0x2C)
  | 0x2D =>
    if fld w 7 4 = 0 then .ok (.shri (shFormOf w)) else .error (.reservedField 0x2D)
  | 0x2E =>
    if fld w 7 4 = 0 then .ok (.shrai (shFormOf w)) else .error (.reservedField 0x2E)
  | op => .error (.unusedOpcode op)

/-- Major opcodes 0x30 to 0x3F (Table 2-2). -/
def decodeRow3 (w : Nat) : Except DecodeFail Instr :=
  match fld w 25 7 with
  | 0x30 =>
    .ok (.movl (lFormOf w))
  | 0x31 =>
    .ok (.movh (lFormOf w))
  | 0x38 =>
    .ok (.fadd (rFormOf w))
  | 0x39 =>
    .ok (.fsub (rFormOf w))
  | 0x3A =>
    .ok (.fmul (rFormOf w))
  | 0x3B =>
    .ok (.ffma (rFormOf w))
  | 0x3C =>
    .ok (.fmin (rFormOf w))
  | 0x3D =>
    .ok (.fmax (rFormOf w))
  | 0x3E =>
    .ok (.fdiv (rFormOf w))
  | 0x3F =>
    match fld w 4 7 with
    | 0 => .ok (.frcp (xFormOf w))
    | 1 => .ok (.frsq (xFormOf w))
    | 2 => .ok (.fsqrt (xFormOf w))
    | 3 => .ok (.fexp2 (xFormOf w))
    | 4 => .ok (.flog2 (xFormOf w))
    | 5 => .ok (.fclass (xFormOf w))
    | fn => .error (.unusedFunction 0x3F fn)
  | op => .error (.unusedOpcode op)

/-- Major opcodes 0x40 to 0x4F (Table 2-2). -/
def decodeRow4 (w : Nat) : Except DecodeFail Instr :=
  match fld w 25 7 with
  | 0x40 =>
    pairR w pairOk fun f => .dadd f
  | 0x41 =>
    pairR w pairOk fun f => .dmul f
  | 0x42 =>
    pairR w pairOk fun f => .dfma f
  | 0x43 =>
    .ok (.fsetp (fltCcOf (fld w 2 3)) (cmpFormOf w))
  | 0x44 =>
    okIf (pairOk (cmpFormOf w).a && pairOk (cmpFormOf w).b) 0x44 (.dsetp (fltCcOf (fld w 2 3)) (cmpFormOf w))
  | 0x48 =>
    .ok (.hadd2 (rFormOf w))
  | 0x49 =>
    .ok (.hmul2 (rFormOf w))
  | 0x4A =>
    .ok (.hfma2 (rFormOf w))
  | 0x4C =>
    .ok (.hadd2Bf (rFormOf w))
  | 0x4D =>
    .ok (.hmul2Bf (rFormOf w))
  | 0x4E =>
    .ok (.hfma2Bf (rFormOf w))
  | op => .error (.unusedOpcode op)

/-- Major opcodes 0x50 to 0x5F (Table 2-2). -/
def decodeRow5 (w : Nat) : Except DecodeFail Instr :=
  match fld w 25 7 with
  | 0x50 =>
    match cvtFnOf (fld w 4 7) with
    | some fn => okIf (cvtOk fn (xFormOf w)) 0x50 (.cvt fn (xFormOf w))
    | none => .error (.unusedFunction 0x50 (fld w 4 7))
  | 0x51 =>
    match fld w 2 2 with
    | 0 => okIf (fld w 0 1 = 0 && quadOk (qFormOf w).x && octOk (qFormOf w).a) 0x51 (.qnt (qFormOf w))
    | 1 => okIf (fld w 0 1 = 0 && octOk (qFormOf w).x && quadOk (qFormOf w).a) 0x51 (.dqnt (qFormOf w))
    | fn => .error (.unusedFunction 0x51 fn)
  | 0x52 =>
    .ok (.pack (rFormOf w))
  | 0x53 =>
    match unpkKindOf (fld w 8 3) with
    | some k => if fld w 4 4 < unpkCount k then .ok (.unpk k (Fin.ofNat 8 (fld w 4 4)) (xFormOf w)) else .error (.unusedFunction 0x53 (fld w 4 7))
    | none => .error (.unusedFunction 0x53 (fld w 4 7))
  | 0x54 =>
    .ok (.shfl (rFormOf w))
  | 0x55 =>
    if fld w 8 1 = 0 then
      match fld w 9 2 with
      | 0 => .ok (.shflu (shflFormOf w))
      | 1 => .ok (.shfld (shflFormOf w))
      | 2 => .ok (.shflx (shflFormOf w))
      | _ => .ok (.bcast (shflFormOf w))
    else .error (.reservedField 0x55)
  | 0x56 =>
    match fld w 4 7 with
    | 0 => okIf (fld w 2 2 = 0 && fld w 24 1 = 0 && fld w 17 1 = 0) 0x56 (.voteAll (voteFormOf w))
    | 1 => okIf (fld w 2 2 = 0 && fld w 24 1 = 0 && fld w 17 1 = 0) 0x56 (.voteAny (voteFormOf w))
    | 2 => okIf (fld w 2 2 = 0 && fld w 17 1 = 0 && pairOk (ballotFormOf w).d) 0x56 (.voteBallot (ballotFormOf w))
    | fn => .error (.unusedFunction 0x56 fn)
  | 0x57 =>
    match redOpOf (fld w 4 7) with
    | some op => okIf (redxOk op (xFormOf w)) 0x57 (.redx op (xFormOf w))
    | none => .error (.unusedFunction 0x57 (fld w 4 7))
  | 0x58 =>
    okIf (fld w 0 1 = 0 && pairOk (matchFormOf w).d) 0x58 (.matchMask (matchFormOf w))
  | 0x5C =>
    match fld w 2 2 with
    | 0 => okIf (fld w 0 1 = 0 && noLatch (opndOf (fld w 18 7)) && pairOk (opndOf (fld w 11 7)) && fld w 10 1 = 0) 0x5C (.lnch (opndOf (fld w 18 7)) (opndOf (fld w 11 7)) (predOf (fld w 4 6)) (bitOf w 1))
    | 1 => okIf (fld w 0 1 = 0 && fld w 18 7 = 0 && noLatch (opndOf (fld w 11 7)) && fld w 4 7 = 0) 0x5C (.join (opndOf (fld w 11 7)) (bitOf w 1))
    | 2 => okIf (fld w 0 1 = 0 && fld w 18 7 = 0 && fld w 11 7 = 0 && fld w 4 7 = 0) 0x5C (.lqw (bitOf w 1))
    | _ => okIf (fld w 0 1 = 0 && pairOk (opndOf (fld w 18 7)) && pairOk (opndOf (fld w 11 7)) && noLatch (opndOf (fld w 4 7))) 0x5C (.flnch (opndOf (fld w 18 7)) (opndOf (fld w 11 7)) (opndOf (fld w 4 7)) (bitOf w 1))
  | 0x5D =>
    match fld w 2 2 with
    | 0 => okIf (fld w 0 1 = 0 && noLatch (opndOf (fld w 18 7)) && noLatch (opndOf (fld w 11 7)) && fld w 4 7 = 0) 0x5D (.garr (opndOf (fld w 18 7)) (opndOf (fld w 11 7)) (bitOf w 1))
    | 1 => okIf (fld w 0 1 = 0 && noLatch (opndOf (fld w 18 7)) && noLatch (opndOf (fld w 11 7)) && noLatch (opndOf (fld w 4 7))) 0x5D (.gwait (opndOf (fld w 18 7)) (opndOf (fld w 11 7)) (opndOf (fld w 4 7)) (bitOf w 1))
    | 2 => okIf (fld w 0 1 = 0 && fld w 18 7 = 0 && noLatch (opndOf (fld w 11 7)) && pairOk (opndOf (fld w 4 7))) 0x5D (.gmem (opndOf (fld w 11 7)) (opndOf (fld w 4 7)) (bitOf w 1))
    | fn => .error (.unusedFunction 0x5D fn)
  | 0x5E =>
    match fld w 2 2 with
    | 0 => okIf (quadOk (opndOf (fld w 18 7)) && pairOk (opndOf (fld w 11 7)) && fld w 4 7 = 0) 0x5E (.fwr (opndOf (fld w 18 7)) (opndOf (fld w 11 7)) (bitOf w 1) (bitOf w 0))
    | 1 => okIf (quadOk (opndOf (fld w 18 7)) && pairOk (opndOf (fld w 11 7)) && fld w 4 7 = 0) 0x5E (.frd (opndOf (fld w 18 7)) (opndOf (fld w 11 7)) (bitOf w 1) (bitOf w 0))
    | 2 => okIf (fld w 18 7 = 0 && pairOk (opndOf (fld w 11 7)) && pairOk (opndOf (fld w 4 7))) 0x5E (.fsig (opndOf (fld w 11 7)) (opndOf (fld w 4 7)) (bitOf w 1) (bitOf w 0))
    | _ => okIf (pairOk (opndOf (fld w 18 7)) && pairOk (opndOf (fld w 11 7)) && quadOk (opndOf (fld w 4 7))) 0x5E (.fatom (opndOf (fld w 18 7)) (opndOf (fld w 11 7)) (opndOf (fld w 4 7)) (bitOf w 1) (bitOf w 0))
  | op => .error (.unusedOpcode op)

/-- Major opcodes 0x60 to 0x6F (Table 2-2). -/
def decodeRow6 (w : Nat) : Except DecodeFail Instr :=
  match fld w 25 7 with
  | 0x60 =>
    match mWidthOf (fld w 2 2) with
    | some k => okIf (dataOk k (mFormOf w).d && pairOk (mFormOf w).a) 0x60 (.ld k (mFormOf w))
    | none => .error (.unusedFunction 0x60 (fld w 2 2))
  | 0x61 =>
    okIf (noLatch (mFormOf w).d && pairOk (mFormOf w).a) 0x61 (.ldn (narrowLoadOf (fld w 2 2)) (mFormOf w))
  | 0x62 =>
    match mWidthOf (fld w 2 2) with
    | some k => okIf (dataOk k (mFormOf w).d && pairOk (mFormOf w).a) 0x62 (.st k (mFormOf w))
    | none => .error (.unusedFunction 0x62 (fld w 2 2))
  | 0x63 =>
    match fld w 2 2 with
    | 0 => okIf (noLatch (mFormOf w).d && pairOk (mFormOf w).a) 0x63 (.stn .b8 (mFormOf w))
    | 1 => okIf (noLatch (mFormOf w).d && pairOk (mFormOf w).a) 0x63 (.stn .b16 (mFormOf w))
    | fn => .error (.unusedFunction 0x63 fn)
  | 0x64 =>
    match mWidthOf (fld w 2 2), scopeOf (fld w 7 4) with
    | some k, some sc => okIf (fld w 4 3 = 0 && dataOk k (scopedFormOf w).d && pairOk (scopedFormOf w).a) 0x64 (.lda k sc (scopedFormOf w))
    | _, _ => .error (.unusedFunction 0x64 (fld w 2 9))
  | 0x65 =>
    match mWidthOf (fld w 2 2), scopeOf (fld w 7 4) with
    | some k, some sc => okIf (fld w 4 3 = 0 && dataOk k (scopedFormOf w).d && pairOk (scopedFormOf w).a) 0x65 (.stl k sc (scopedFormOf w))
    | _, _ => .error (.unusedFunction 0x65 (fld w 2 9))
  | 0x66 =>
    match mWidthOf (fld w 2 2) with
    | some k => okIf (dataOk k (mFormOf w).d && noLatch (mFormOf w).a) 0x66 (.lds k (mFormOf w))
    | none => .error (.unusedFunction 0x66 (fld w 2 2))
  | 0x67 =>
    match mWidthOf (fld w 2 2) with
    | some k => okIf (dataOk k (mFormOf w).d && noLatch (mFormOf w).a) 0x67 (.sts k (mFormOf w))
    | none => .error (.unusedFunction 0x67 (fld w 2 2))
  | 0x68 =>
    match mWidthOf (fld w 2 2) with
    | some k => okIf (dataOk k (mFormOf w).d && noLatch (mFormOf w).a) 0x68 (.ldp k (mFormOf w))
    | none => .error (.unusedFunction 0x68 (fld w 2 2))
  | 0x69 =>
    match mWidthOf (fld w 2 2) with
    | some k => okIf (dataOk k (mFormOf w).d && noLatch (mFormOf w).a) 0x69 (.stp k (mFormOf w))
    | none => .error (.unusedFunction 0x69 (fld w 2 2))
  | 0x6A =>
    match fld w 2 2 with
    | 0 => okIf (noLatch (atomFormOf w).x && pairOk (atomFormOf w).a && noLatch (atomFormOf w).b) 0x6A (.atomAdd (atomFormOf w))
    | 1 => okIf (noLatch (atomFormOf w).x && pairOk (atomFormOf w).a && noLatch (atomFormOf w).b) 0x6A (.atomIncw (atomFormOf w))
    | 2 => okIf (noLatch (atomFormOf w).x && pairOk (atomFormOf w).a && noLatch (atomFormOf w).b) 0x6A (.atomExch (atomFormOf w))
    | _ => okIf (noLatch (atomFormOf w).x && pairOk (atomFormOf w).a && pairOk (atomFormOf w).b) 0x6A (.atomCas (atomFormOf w))
  | 0x6B =>
    match fld w 2 2 with
    | 0 => okIf (noLatch (atomFormOf w).x && pairOk (atomFormOf w).a && noLatch (atomFormOf w).b) 0x6B (.atomMin (atomFormOf w))
    | 1 => okIf (noLatch (atomFormOf w).x && pairOk (atomFormOf w).a && noLatch (atomFormOf w).b) 0x6B (.atomMax (atomFormOf w))
    | 2 => okIf (noLatch (atomFormOf w).x && pairOk (atomFormOf w).a && noLatch (atomFormOf w).b) 0x6B (.atomMinu (atomFormOf w))
    | _ => okIf (noLatch (atomFormOf w).x && pairOk (atomFormOf w).a && noLatch (atomFormOf w).b) 0x6B (.atomMaxu (atomFormOf w))
  | 0x6C =>
    match fld w 2 2 with
    | 0 => okIf (noLatch (atomFormOf w).x && pairOk (atomFormOf w).a && noLatch (atomFormOf w).b) 0x6C (.atomAnd (atomFormOf w))
    | 1 => okIf (noLatch (atomFormOf w).x && pairOk (atomFormOf w).a && noLatch (atomFormOf w).b) 0x6C (.atomOr (atomFormOf w))
    | 2 => okIf (noLatch (atomFormOf w).x && pairOk (atomFormOf w).a && noLatch (atomFormOf w).b) 0x6C (.atomXor (atomFormOf w))
    | fn => .error (.unusedFunction 0x6C fn)
  | 0x6D =>
    match fld w 2 2 with
    | 0 => okIf (fld w 18 7 = 0 && pairOk (redFormOf w).a && noLatch (redFormOf w).b) 0x6D (.redAdd (redFormOf w))
    | 1 => okIf (fld w 18 7 = 0 && pairOk (redFormOf w).a && noLatch (redFormOf w).b) 0x6D (.redIncw (redFormOf w))
    | fn => .error (.unusedFunction 0x6D fn)
  | 0x6E =>
    match fld w 2 2 with
    | 0 => okIf (fld w 18 7 = 0 && pairOk (redFormOf w).a && noLatch (redFormOf w).b) 0x6E (.redMin (redFormOf w))
    | 1 => okIf (fld w 18 7 = 0 && pairOk (redFormOf w).a && noLatch (redFormOf w).b) 0x6E (.redMax (redFormOf w))
    | 2 => okIf (fld w 18 7 = 0 && pairOk (redFormOf w).a && noLatch (redFormOf w).b) 0x6E (.redMinu (redFormOf w))
    | _ => okIf (fld w 18 7 = 0 && pairOk (redFormOf w).a && noLatch (redFormOf w).b) 0x6E (.redMaxu (redFormOf w))
  | 0x6F =>
    match fld w 2 2 with
    | 0 => okIf (fld w 18 7 = 0 && pairOk (redFormOf w).a && noLatch (redFormOf w).b) 0x6F (.redAnd (redFormOf w))
    | 1 => okIf (fld w 18 7 = 0 && pairOk (redFormOf w).a && noLatch (redFormOf w).b) 0x6F (.redOr (redFormOf w))
    | 2 => okIf (fld w 18 7 = 0 && pairOk (redFormOf w).a && noLatch (redFormOf w).b) 0x6F (.redXor (redFormOf w))
    | fn => .error (.unusedFunction 0x6F fn)
  | op => .error (.unusedOpcode op)

/-- Major opcodes 0x70 to 0x7F (Table 2-2). -/
def decodeRow7 (w : Nat) : Except DecodeFail Instr :=
  match fld w 25 7 with
  | 0x70 =>
    match fld w 2 2 with
    | 0 => okIf (decide (fld w 4 7 < 16) && noLatch (opndOf (fld w 18 7)) && pairOk (opndOf (fld w 11 7))) 0x70 (.cpa16Bar (opndOf (fld w 18 7)) (opndOf (fld w 11 7)) (Fin.ofNat 16 (fld w 4 4)) (bitOf w 1) (bitOf w 0))
    | 1 => okIf (fld w 4 7 = 0 && noLatch (opndOf (fld w 18 7)) && pairOk (opndOf (fld w 11 7))) 0x70 (.cpa16Nb (opndOf (fld w 18 7)) (opndOf (fld w 11 7)) (bitOf w 1) (bitOf w 0))
    | fn => .error (.unusedFunction 0x70 fn)
  | 0x71 =>
    match fld w 18 7 with
    | 0x00 =>
      match scopeOf (fld w 2 9) with
      | some sc => okIf (fld w 11 7 = 0 && fld w 0 2 = 0) 0x71 (.fence sc)
      | none => .error (.unusedFunction 0x71 0)
    | 0x01 =>
      match pathOf (fld w 14 3), pathOf (fld w 11 3), scopeOf (fld w 2 9) with
      | some pa, some pb, some sc => okIf (fld w 17 1 = 0 && fld w 0 2 = 0) 0x71 (.fenceX pa pb sc)
      | _, _, _ => .error (.unusedFunction 0x71 1)
    | 0x02 =>
      match fld w 2 9 with
      | 0 => okIf (fld w 11 7 = 0 && fld w 0 2 = 0) 0x71 .cinv
      | 1 => okIf (pairOk (opndOf (fld w 11 7)) && fld w 0 2 = 0) 0x71 (.cinvAddr (opndOf (fld w 11 7)))
      | _ => .error (.unusedFunction 0x71 2)
    | 0x03 =>
      match fld w 2 9 with
      | 0 => okIf (fld w 11 7 = 0 && fld w 0 2 = 0) 0x71 .cwbWcb
      | 1 => okIf (fld w 11 7 = 0 && fld w 0 2 = 0) 0x71 .cwbPriv
      | _ => .error (.unusedFunction 0x71 3)
    | 0x04 =>
      match fld w 2 9 with
      | 0 => okIf (pairOk (opndOf (fld w 11 7))) 0x71 (.prefL2 (opndOf (fld w 11 7)) (bitOf w 1) (bitOf w 0))
      | 1 => okIf (pairOk (opndOf (fld w 11 7))) 0x71 (.prefL1 (opndOf (fld w 11 7)) (bitOf w 1) (bitOf w 0))
      | _ => .error (.unusedFunction 0x71 4)
    | fn => .error (.unusedFunction 0x71 fn)
  | 0x72 =>
    match fld w 2 2 with
    | 0 => okIf (fld w 0 1 = 0 && noLatch (copyFormOf w).x && pairOk (copyFormOf w).a && quadOk (copyFormOf w).b) 0x72 (.cpbG2s (copyFormOf w))
    | 1 => okIf (fld w 0 1 = 0 && noLatch (copyFormOf w).x && pairOk (copyFormOf w).a && quadOk (copyFormOf w).b) 0x72 (.cpbS2g (copyFormOf w))
    | fn => .error (.unusedFunction 0x72 fn)
  | 0x73 =>
    match fld w 2 2 with
    | 0 => okIf (fld w 0 1 = 0 && noLatch (copyFormOf w).x && pairOk (copyFormOf w).a && quadOk (copyFormOf w).b) 0x73 (.cpbm (copyFormOf w))
    | fn => .error (.unusedFunction 0x73 fn)
  | 0x74 =>
    match fld w 2 2 with
    | 0 => okIf (fld w 0 1 = 0 && noLatch (copyFormOf w).x && pairOk (copyFormOf w).a && quadOk (copyFormOf w).b) 0x74 (.cpbpG2s (copyFormOf w))
    | 1 => okIf (fld w 0 1 = 0 && noLatch (copyFormOf w).x && pairOk (copyFormOf w).a && quadOk (copyFormOf w).b) 0x74 (.cpbpS2s (copyFormOf w))
    | fn => .error (.unusedFunction 0x74 fn)
  | 0x75 =>
    match fld w 18 7 with
    | 0x00 => okIf (fld w 6 5 = 0 && fld w 0 2 = 0 && noLatch (opndOf (fld w 11 7))) 0x75 (.bari (opndOf (fld w 11 7)) (Fin.ofNat 16 (fld w 2 4)))
    | 0x01 => okIf (fld w 6 5 = 0 && fld w 0 1 = 0 && fld w 11 7 = 0) 0x75 (.bara (Fin.ofNat 16 (fld w 2 4)) (bitOf w 1))
    | 0x02 => okIf (fld w 6 5 = 0 && fld w 0 1 = 0 && fld w 11 7 = 0) 0x75 (.barw (Fin.ofNat 16 (fld w 2 4)) (bitOf w 1))
    | 0x03 => okIf (fld w 6 5 = 0 && fld w 0 2 = 0 && pairOk (opndOf (fld w 11 7))) 0x75 (.barc (opndOf (fld w 11 7)) (Fin.ofNat 16 (fld w 2 4)))
    | 0x04 => okIf (fld w 6 5 = 0 && fld w 0 1 = 0 && pairOk (opndOf (fld w 11 7))) 0x75 (.barq (opndOf (fld w 11 7)) (Fin.ofNat 16 (fld w 2 4)) (bitOf w 1))
    | 0x05 => okIf (fld w 6 5 = 0 && fld w 0 2 = 0 && fld w 11 7 = 0) 0x75 (.barx (Fin.ofNat 16 (fld w 2 4)))
    | fn => .error (.unusedFunction 0x75 fn)
  | 0x76 =>
    match fld w 2 2 with
    | 0 => okIf (fld w 0 1 = 0 && noLatch (opndOf (fld w 18 7)) && noLatch (opndOf (fld w 11 7)) && pairOk (opndOf (fld w 4 7))) 0x76 (.rcrt (opndOf (fld w 18 7)) (opndOf (fld w 11 7)) (opndOf (fld w 4 7)) (bitOf w 1))
    | 1 => okIf (fld w 0 2 = 0 && pairOk (opndOf (fld w 18 7)) && fld w 17 1 = 0 && fld w 4 7 = 0) 0x76 (.rnext (opndOf (fld w 18 7)) (predOf (fld w 11 6)))
    | 2 =>
      match fld w 4 7 with
      | 0 => okIf (fld w 0 1 = 0 && fld w 18 7 = 0 && noLatch (opndOf (fld w 11 7))) 0x76 (.rpart32 (opndOf (fld w 11 7)) (bitOf w 1))
      | 1 => okIf (fld w 0 1 = 0 && fld w 18 7 = 0 && pairOk (opndOf (fld w 11 7))) 0x76 (.rpart64 (opndOf (fld w 11 7)) (bitOf w 1))
      | _ => .error (.unusedFunction 0x76 2)
    | _ =>
      match redOpOf (fld w 4 7) with
      | some op => okIf (fld w 0 2 = 0 && rjoinOk op (opndOf (fld w 18 7)) && fld w 17 1 = 0) 0x76 (.rjoin op (opndOf (fld w 18 7)) (predOf (fld w 11 6)))
      | none => .error (.unusedFunction 0x76 3)
  | 0x77 =>
    match fld w 2 2 with
    | 0 => okIf (fld w 0 2 = 0 && fld w 18 7 = 0 && fld w 11 7 = 0 && fld w 4 7 = 0) 0x77 (.rlse)
    | 1 => okIf (fld w 0 1 = 0 && noLatch (opndOf (fld w 18 7)) && fld w 11 7 = 0 && fld w 4 7 = 0) 0x77 (.rqry (opndOf (fld w 18 7)) (bitOf w 1))
    | fn => .error (.unusedFunction 0x77 fn)
  | 0x78 =>
    match fld w 2 2 with
    | 0 => okIf (fld w 0 1 = 0 && fld w 20 5 = 0 && pairOk (opndOf (fld w 11 7)) && noLatch (opndOf (fld w 4 7))) 0x78 (.mma (Fin.ofNat 4 (fld w 18 2)) (opndOf (fld w 11 7)) (opndOf (fld w 4 7)) (bitOf w 1))
    | 1 => okIf (fld w 0 1 = 0 && fld w 20 5 = 0 && pairOk (opndOf (fld w 11 7)) && noLatch (opndOf (fld w 4 7))) 0x78 (.mmaZ (Fin.ofNat 4 (fld w 18 2)) (opndOf (fld w 11 7)) (opndOf (fld w 4 7)) (bitOf w 1))
    | fn => .error (.unusedFunction 0x78 fn)
  | 0x79 =>
    match fld w 2 2 with
    | 0 => okIf (fld w 0 1 = 0 && fld w 18 1 = 0 && fld w 20 5 = 0 && pairOk (opndOf (fld w 11 7)) && noLatch (opndOf (fld w 4 7))) 0x79 (.mmap (Fin.ofNat 2 (fld w 19 1)) (opndOf (fld w 11 7)) (opndOf (fld w 4 7)) (bitOf w 1))
    | 1 => okIf (fld w 0 1 = 0 && fld w 18 1 = 0 && fld w 20 5 = 0 && pairOk (opndOf (fld w 11 7)) && noLatch (opndOf (fld w 4 7))) 0x79 (.mmapZ (Fin.ofNat 2 (fld w 19 1)) (opndOf (fld w 11 7)) (opndOf (fld w 4 7)) (bitOf w 1))
    | fn => .error (.unusedFunction 0x79 fn)
  | 0x7A =>
    match fld w 2 2 with
    | 0 => okIf (fld w 0 1 = 0 && fld w 18 7 = 0 && pairOk (opndOf (fld w 11 7)) && pairOk (opndOf (fld w 4 7))) 0x7A (.mscl (opndOf (fld w 11 7)) (opndOf (fld w 4 7)) (bitOf w 1))
    | 1 => okIf (fld w 0 1 = 0 && fld w 18 7 = 0 && pairOk (opndOf (fld w 11 7)) && fld w 4 7 = 0) 0x7A (.msclBand (opndOf (fld w 11 7)) (bitOf w 1))
    | fn => .error (.unusedFunction 0x7A fn)
  | 0x7B =>
    match fld w 2 2 with
    | 0 => okIf (fld w 0 1 = 0 && fld w 20 5 = 0 && pairOk (opndOf (fld w 11 7)) && fld w 4 7 = 0) 0x7B (.maepi (Fin.ofNat 4 (fld w 18 2)) (opndOf (fld w 11 7)) (bitOf w 1))
    | fn => .error (.unusedFunction 0x7B fn)
  | 0x7C =>
    match fld w 2 2 with
    | 0 => okIf (fld w 0 1 = 0 && fld w 20 5 = 0 && noLatch (opndOf (fld w 11 7)) && fld w 4 7 = 0) 0x7C (.mard (Fin.ofNat 4 (fld w 18 2)) (opndOf (fld w 11 7)) (bitOf w 1))
    | 1 => okIf (fld w 0 1 = 0 && fld w 20 5 = 0 && noLatch (opndOf (fld w 11 7)) && fld w 4 7 = 0) 0x7C (.mardCol (Fin.ofNat 4 (fld w 18 2)) (opndOf (fld w 11 7)) (bitOf w 1))
    | fn => .error (.unusedFunction 0x7C fn)
  | 0x7D =>
    match fld w 18 7 with
    | 0x00 =>
      if fld w 4 1 = 0 then okIf (fld w 11 7 = 0 && fld w 0 2 = 0) 0x7D (.maclr (Fin.ofNat 4 (fld w 2 2)) (predOf (fld w 5 6)))
      else okIf (fld w 11 7 = 0 && fld w 0 2 = 0) 0x7D (.maclrRel (Fin.ofNat 4 (fld w 2 2)) (predOf (fld w 5 6)))
    | 0x01 => okIf (fld w 4 7 = 0 && fld w 0 2 = 0 && noLatch (opndOf (fld w 11 7))) 0x7D (.mstat (opndOf (fld w 11 7)) (Fin.ofNat 4 (fld w 2 2)))
    | 0x02 => okIf (fld w 2 9 = 0 && fld w 0 2 = 0 && noLatch (opndOf (fld w 11 7))) 0x7D (.mtest (opndOf (fld w 11 7)))
    | fn => .error (.unusedFunction 0x7D fn)
  | 0x7E =>
    match fld w 2 2 with
    | 0 => okIf (fld w 0 2 = 0 && noLatch (opndOf (fld w 18 7)) && noLatch (opndOf (fld w 11 7)) && fld w 4 7 = 0) 0x7E (.wsbind (opndOf (fld w 18 7)) (opndOf (fld w 11 7)))
    | 1 => okIf (fld w 0 1 = 0 && noLatch (opndOf (fld w 18 7)) && pairOk (opndOf (fld w 11 7)) && quadOk (opndOf (fld w 4 7))) 0x7E (.wstrm (opndOf (fld w 18 7)) (opndOf (fld w 11 7)) (opndOf (fld w 4 7)) (bitOf w 1))
    | 2 => okIf (fld w 0 2 = 0 && pairOk (opndOf (fld w 18 7)) && noLatch (opndOf (fld w 11 7)) && noLatch (opndOf (fld w 4 7))) 0x7E (.wsqry (opndOf (fld w 18 7)) (opndOf (fld w 11 7)) (opndOf (fld w 4 7)))
    | _ => okIf (fld w 0 2 = 0 && fld w 18 7 = 0 && noLatch (opndOf (fld w 11 7)) && fld w 4 7 = 0) 0x7E (.wsrel (opndOf (fld w 11 7)))
  | op => .error (.unusedOpcode op)

/-- Decode one 32-bit word, given as a number (R43, R48 to R58).  Total: a word that encodes nothing is refused by name. -/
def decodeNat (w : Nat) : Except DecodeFail Instr :=
  match fld w 29 3 with
  | 0 => decodeRow0 w
  | 1 => decodeRow1 w
  | 2 => decodeRow2 w
  | 3 => decodeRow3 w
  | 4 => decodeRow4 w
  | 5 => decodeRow5 w
  | 6 => decodeRow6 w
  | _ => decodeRow7 w

/-- Decode one instruction word. -/
def decode (w : Word) : Except DecodeFail Instr := decodeNat w.toNat

/-- The word of an encoded instruction as a number, from the encoding tables of the spec; none for a machine event. -/
def encodeNat : Instr → Option Nat
  | .add f => some (encR 0x08 f)
  | .sub f => some (encR 0x09 f)
  | .addc f => some (encPair 0x0A f)
  | .subb f => some (encPair 0x0B f)
  | .adds f => some (encR 0x0C f)
  | .subs f => some (encR 0x0D f)
  | .addsu f => some (encR 0x0E f)
  | .subsu f => some (encR 0x0F f)
  | .mul f => some (encR 0x10 f)
  | .mulh f => some (encR 0x11 f)
  | .mulhu f => some (encR 0x12 f)
  | .mad f => some (encR 0x13 f)
  | .divs f => some (encR 0x14 f)
  | .divu f => some (encR 0x15 f)
  | .rems f => some (encR 0x16 f)
  | .remu f => some (encR 0x17 f)
  | .min f => some (encR 0x18 f)
  | .max f => some (encR 0x19 f)
  | .minu f => some (encR 0x1A f)
  | .maxu f => some (encR 0x1B f)
  | .and f => some (encR 0x1C f)
  | .or f => some (encR 0x1D f)
  | .xor f => some (encR 0x1E f)
  | .sel f => some (encSel 0x1F f)
  | .shl f => some (encR 0x20 f)
  | .shr f => some (encR 0x21 f)
  | .shra f => some (encR 0x22 f)
  | .rol f => some (encR 0x23 f)
  | .lea f => some (encPair 0x24 f)
  | .mov f => some (encX 0x25 0 f)
  | .not f => some (encX 0x25 1 f)
  | .neg f => some (encX 0x25 2 f)
  | .abs f => some (encX 0x25 3 f)
  | .negs f => some (encX 0x25 4 f)
  | .abss f => some (encX 0x25 5 f)
  | .clz f => some (encX 0x25 6 f)
  | .popc f => some (encX 0x25 7 f)
  | .brev f => some (encX 0x25 8 f)
  | .setp c f => some (encC 0x26 (intCcNum c) f)
  | .addi f => some (encI 0x28 f)
  | .andi f => some (encI 0x29 f)
  | .ori f => some (encI 0x2A f)
  | .xori f => some (encI 0x2B f)
  | .shli f => some (encSh 0x2C f)
  | .shri f => some (encSh 0x2D f)
  | .shrai f => some (encSh 0x2E f)
  | .movl f => some (encL 0x30 f)
  | .movh f => some (encL 0x31 f)
  | .fadd f => some (encR 0x38 f)
  | .fsub f => some (encR 0x39 f)
  | .fmul f => some (encR 0x3A f)
  | .ffma f => some (encR 0x3B f)
  | .fmin f => some (encR 0x3C f)
  | .fmax f => some (encR 0x3D f)
  | .fdiv f => some (encR 0x3E f)
  | .frcp f => some (encX 0x3F 0 f)
  | .frsq f => some (encX 0x3F 1 f)
  | .fsqrt f => some (encX 0x3F 2 f)
  | .fexp2 f => some (encX 0x3F 3 f)
  | .flog2 f => some (encX 0x3F 4 f)
  | .fclass f => some (encX 0x3F 5 f)
  | .dadd f => some (encPair 0x40 f)
  | .dmul f => some (encPair 0x41 f)
  | .dfma f => some (encPair 0x42 f)
  | .fsetp c f => some (encC 0x43 (fltCcNum c) f)
  | .dsetp c f => some (encC 0x44 (fltCcNum c) f)
  | .hadd2 f => some (encR 0x48 f)
  | .hmul2 f => some (encR 0x49 f)
  | .hfma2 f => some (encR 0x4A f)
  | .hadd2Bf f => some (encR 0x4C f)
  | .hmul2Bf f => some (encR 0x4D f)
  | .hfma2Bf f => some (encR 0x4E f)
  | .cvt fn f => some (encX 0x50 (cvtFnNum fn) f)
  | .qnt f => some (encE 0x51 (opndNum f.x) (opndNum f.a) (opndNum f.b) 0 f.g false)
  | .dqnt f => some (encE 0x51 (opndNum f.x) (opndNum f.a) (opndNum f.b) 1 f.g false)
  | .pack f => some (encR 0x52 f)
  | .unpk k e f => some (encX 0x53 (unpkKindNum k * 16 + e.val) f)
  | .shfl f => some (encR 0x54 f)
  | .shflu f => some (encShfl 0 f)
  | .shfld f => some (encShfl 1 f)
  | .shflx f => some (encShfl 2 f)
  | .bcast f => some (encShfl 3 f)
  | .voteAll f => some (encXp 0x56 0 f.p.val f.q.val f.g f.u)
  | .voteAny f => some (encXp 0x56 1 f.p.val f.q.val f.g f.u)
  | .voteBallot f => some (encXp 0x56 2 (opndNum f.d) f.q.val f.g f.u)
  | .redx op f => some (encX 0x57 (redOpNum op) f)
  | .matchMask f => some (encR 0x58 { d := f.d, a := f.a, b := f.b, h := f.h, g := f.g, u := false })
  | .lnch x a p g => some (encE 0x5C (opndNum x) (opndNum a) p.val 0 g false)
  | .join a g => some (encE 0x5C 0 (opndNum a) 0 1 g false)
  | .lqw g => some (encE 0x5C 0 0 0 2 g false)
  | .flnch x a b g => some (encE 0x5C (opndNum x) (opndNum a) (opndNum b) 3 g false)
  | .garr x a g => some (encE 0x5D (opndNum x) (opndNum a) 0 0 g false)
  | .gwait x a b g => some (encE 0x5D (opndNum x) (opndNum a) (opndNum b) 1 g false)
  | .gmem a b g => some (encE 0x5D 0 (opndNum a) (opndNum b) 2 g false)
  | .fwr x a g u => some (encE 0x5E (opndNum x) (opndNum a) 0 0 g u)
  | .frd x a g u => some (encE 0x5E (opndNum x) (opndNum a) 0 1 g u)
  | .fsig a b g u => some (encE 0x5E 0 (opndNum a) (opndNum b) 2 g u)
  | .fatom x a b g u => some (encE 0x5E (opndNum x) (opndNum a) (opndNum b) 3 g u)
  | .ld k f => some (encM 0x60 (mWidthNum k) f)
  | .st k f => some (encM 0x62 (mWidthNum k) f)
  | .lds k f => some (encM 0x66 (mWidthNum k) f)
  | .sts k f => some (encM 0x67 (mWidthNum k) f)
  | .ldp k f => some (encM 0x68 (mWidthNum k) f)
  | .stp k f => some (encM 0x69 (mWidthNum k) f)
  | .ldn k f => some (encM 0x61 (narrowLoadNum k) f)
  | .stn k f => some (encM 0x63 (narrowStoreNum k) f)
  | .lda k sc f => some (encScoped 0x64 (mWidthNum k) (scopeNum sc) f)
  | .stl k sc f => some (encScoped 0x65 (mWidthNum k) (scopeNum sc) f)
  | .atomAdd f => some (encE 0x6A (opndNum f.x) (opndNum f.a) (opndNum f.b) 0 f.g f.u)
  | .atomIncw f => some (encE 0x6A (opndNum f.x) (opndNum f.a) (opndNum f.b) 1 f.g f.u)
  | .atomExch f => some (encE 0x6A (opndNum f.x) (opndNum f.a) (opndNum f.b) 2 f.g f.u)
  | .atomCas f => some (encE 0x6A (opndNum f.x) (opndNum f.a) (opndNum f.b) 3 f.g f.u)
  | .atomMin f => some (encE 0x6B (opndNum f.x) (opndNum f.a) (opndNum f.b) 0 f.g f.u)
  | .atomMax f => some (encE 0x6B (opndNum f.x) (opndNum f.a) (opndNum f.b) 1 f.g f.u)
  | .atomMinu f => some (encE 0x6B (opndNum f.x) (opndNum f.a) (opndNum f.b) 2 f.g f.u)
  | .atomMaxu f => some (encE 0x6B (opndNum f.x) (opndNum f.a) (opndNum f.b) 3 f.g f.u)
  | .atomAnd f => some (encE 0x6C (opndNum f.x) (opndNum f.a) (opndNum f.b) 0 f.g f.u)
  | .atomOr f => some (encE 0x6C (opndNum f.x) (opndNum f.a) (opndNum f.b) 1 f.g f.u)
  | .atomXor f => some (encE 0x6C (opndNum f.x) (opndNum f.a) (opndNum f.b) 2 f.g f.u)
  | .redAdd f => some (encE 0x6D 0 (opndNum f.a) (opndNum f.b) 0 f.g f.u)
  | .redIncw f => some (encE 0x6D 0 (opndNum f.a) (opndNum f.b) 1 f.g f.u)
  | .redMin f => some (encE 0x6E 0 (opndNum f.a) (opndNum f.b) 0 f.g f.u)
  | .redMax f => some (encE 0x6E 0 (opndNum f.a) (opndNum f.b) 1 f.g f.u)
  | .redMinu f => some (encE 0x6E 0 (opndNum f.a) (opndNum f.b) 2 f.g f.u)
  | .redMaxu f => some (encE 0x6E 0 (opndNum f.a) (opndNum f.b) 3 f.g f.u)
  | .redAnd f => some (encE 0x6F 0 (opndNum f.a) (opndNum f.b) 0 f.g f.u)
  | .redOr f => some (encE 0x6F 0 (opndNum f.a) (opndNum f.b) 1 f.g f.u)
  | .redXor f => some (encE 0x6F 0 (opndNum f.a) (opndNum f.b) 2 f.g f.u)
  | .cpa16Bar x a k g u => some (encE 0x70 (opndNum x) (opndNum a) k.val 0 g u)
  | .cpa16Nb x a g u => some (encE 0x70 (opndNum x) (opndNum a) 0 1 g u)
  | .fence sc => some (encS 0x71 0 0 (scopeNum sc) false false)
  | .fenceX pa pb sc => some (encS 0x71 1 (pathNum pa * 8 + pathNum pb) (scopeNum sc) false false)
  | .cinv => some (encS 0x71 2 0 0 false false)
  | .cinvAddr a => some (encS 0x71 2 (opndNum a) 1 false false)
  | .cwbWcb => some (encS 0x71 3 0 0 false false)
  | .cwbPriv => some (encS 0x71 3 0 1 false false)
  | .prefL2 a g u => some (encS 0x71 4 (opndNum a) 0 g u)
  | .prefL1 a g u => some (encS 0x71 4 (opndNum a) 1 g u)
  | .cpbG2s f => some (encE 0x72 (opndNum f.x) (opndNum f.a) (opndNum f.b) 0 f.g false)
  | .cpbS2g f => some (encE 0x72 (opndNum f.x) (opndNum f.a) (opndNum f.b) 1 f.g false)
  | .cpbm f => some (encE 0x73 (opndNum f.x) (opndNum f.a) (opndNum f.b) 0 f.g false)
  | .cpbpG2s f => some (encE 0x74 (opndNum f.x) (opndNum f.a) (opndNum f.b) 0 f.g false)
  | .cpbpS2s f => some (encE 0x74 (opndNum f.x) (opndNum f.a) (opndNum f.b) 1 f.g false)
  | .bari a k => some (encS 0x75 0 (opndNum a) k.val false false)
  | .bara k g => some (encS 0x75 1 0 k.val g false)
  | .barw k g => some (encS 0x75 2 0 k.val g false)
  | .barc a k => some (encS 0x75 3 (opndNum a) k.val false false)
  | .barq d k g => some (encS 0x75 4 (opndNum d) k.val g false)
  | .barx k => some (encS 0x75 5 0 k.val false false)
  | .rcrt x a b g => some (encE 0x76 (opndNum x) (opndNum a) (opndNum b) 0 g false)
  | .rnext x p => some (encE 0x76 (opndNum x) p.val 0 1 false false)
  | .rpart32 a g => some (encE 0x76 0 (opndNum a) 0 2 g false)
  | .rpart64 a g => some (encE 0x76 0 (opndNum a) 1 2 g false)
  | .rjoin op x p => some (encE 0x76 (opndNum x) p.val (redOpNum op) 3 false false)
  | .rlse => some (encE 0x77 0 0 0 0 false false)
  | .rqry x g => some (encE 0x77 (opndNum x) 0 0 1 g false)
  | .mma k a b g => some (encE 0x78 k.val (opndNum a) (opndNum b) 0 g false)
  | .mmaZ k a b g => some (encE 0x78 k.val (opndNum a) (opndNum b) 1 g false)
  | .mmap k a b g => some (encE 0x79 (2 * k.val) (opndNum a) (opndNum b) 0 g false)
  | .mmapZ k a b g => some (encE 0x79 (2 * k.val) (opndNum a) (opndNum b) 1 g false)
  | .mscl a b g => some (encE 0x7A 0 (opndNum a) (opndNum b) 0 g false)
  | .msclBand a g => some (encE 0x7A 0 (opndNum a) 0 1 g false)
  | .maepi k a g => some (encE 0x7B k.val (opndNum a) 0 0 g false)
  | .mard k a g => some (encE 0x7C k.val (opndNum a) 0 0 g false)
  | .mardCol k a g => some (encE 0x7C k.val (opndNum a) 0 1 g false)
  | .maclr k p => some (encS 0x7D 0 0 (p.val * 8 + k.val) false false)
  | .maclrRel k p => some (encS 0x7D 0 0 (p.val * 8 + 4 + k.val) false false)
  | .mstat d k => some (encS 0x7D 1 (opndNum d) k.val false false)
  | .mtest d => some (encS 0x7D 2 (opndNum d) 0 false false)
  | .wsbind x a => some (encE 0x7E (opndNum x) (opndNum a) 0 0 false false)
  | .wstrm x a b g => some (encE 0x7E (opndNum x) (opndNum a) (opndNum b) 1 g false)
  | .wsqry x a b => some (encE 0x7E (opndNum x) (opndNum a) (opndNum b) 2 false false)
  | .wsrel a => some (encE 0x7E 0 (opndNum a) 0 3 false false)
  | .brp f => some (encB 0x01 f)
  | .br off => some (encB 0x01 { p := 0, n := false, off := off })
  | .call f => some (encB 0x02 f)
  | .nop => some (encS 0x03 0x00 0 0 false false)
  | .yield => some (encS 0x03 0x01 0 0 false false)
  | .bkpt c => some (encS 0x03 0x02 0 c.toNat false false)
  | .trap c g => some (encS 0x03 0x03 0 c.toNat g false)
  | .rft => some (encS 0x03 0x04 0 0 false false)
  | .exit g => some (encS 0x03 0x05 0 0 g false)
  | .ret => some (encS 0x03 0x06 0 0 false false)
  | .reconv => some (encS 0x03 0x07 0 0 false false)
  | .bri a => some (encS 0x03 0x08 (opndNum a) 0 false false)
  | .calli a => some (encS 0x03 0x09 (opndNum a) 0 false false)
  | .guard p => some (encS 0x03 0x0A p.val 0 false false)
  | .guardn p => some (encS 0x03 0x0B p.val 0 false false)
  | .elect p g => some (encS 0x03 0x0C p.val 0 g false)
  | .marm a k => some (encS 0x03 0x0D (opndNum a) k.val false false)
  | .mwait d t => some (encS 0x03 0x0E (opndNum d) t.toNat false false)
  | .fenceb => some (encS 0x03 0x0F 0 0 false false)
  | .waitb a n => some (encS 0x03 0x10 (opndNum a) n.toNat false false)
  | .wbase a n => some (encS 0x03 0x11 (opndNum a) n.toNat false false)
  | .ixset a k g u => some (encS 0x03 0x12 (opndNum a) k.val g u)
  | .ixadd a k m g u => some (encS 0x03 0x13 (opndNum a) (m.toNat * 4 + k.val) g u)
  | .fmt a e r t => some (encS 0x03 20 (opndNum a) (elemNum e * 32 + rndNum r * 4 + satNum t) false false)
  | .wrsr a r g u => some (encS 0x03 21 (opndNum a) (specRegNum r) g u)
  | .classHint c n => some (encS 0x03 22 0 (n.val * 4 + classNum c) false false)
  | .sclr => some (encS 0x03 23 0 0 false false)
  | .snap t => some (encS 0x03 24 0 t.toNat false false)
  | .pand f => some (encPLog 0 f.p.val f.q.val f.r.val f.g f.u)
  | .por f => some (encPLog 1 f.p.val f.q.val f.r.val f.g f.u)
  | .pxor f => some (encPLog 2 f.p.val f.q.val f.r.val f.g f.u)
  | .pnot f => some (encPLog 3 f.p.val f.q.val 0 f.g f.u)
  | .pmov f => some (encPLog 4 f.p.val f.q.val 0 f.g f.u)
  | .waitc c l t m => some (0x05 * 2 ^ 25 + c.toNat * 2 ^ 18 + l.toNat * 2 ^ 12 + t.toNat * 2 ^ 6 + m.toNat * 4)
  | .rdsr d r g u => some (encI 0x06 { d := d, a := .win 0, imm := BitVec.ofNat 9 (specRegNum r), g := g, u := u })
  | _ => none

/-- The word of an encoded instruction. -/
def encode (i : Instr) : Option Word := (encodeNat i).map (BitVec.ofNat 32)

/-- Is a table row one of the 208 encoded instructions (and not a machine event)? -/
def Instr.encoded (i : Instr) : Bool := (encodeNat i).isSome

/-- The bytes of a word as the hardware stores them: least significant first (R4). -/
def wordBytes (w : Nat) : List Byte :=
  [BitVec.ofNat 8 w, BitVec.ofNat 8 (w / 256), BitVec.ofNat 8 (w / 65536), BitVec.ofNat 8 (w / 16777216)]

/-- The value of bytes given least significant first (R4). -/
def bytesNat : List Byte → Nat
  | [] => 0
  | b :: bs => b.toNat + 256 * bytesNat bs

/-- Decode the instruction at the head of a list of bytes and return the bytes after it. -/
def decodeBytes (bs : List Byte) : Except DecodeFail (Instr × List Byte) :=
  match bs with
  | a :: b :: c :: d :: rest =>
    match decodeNat (bytesNat [a, b, c, d]) with
    | .ok i => .ok (i, rest)
    | .error e => .error e
  | _ => .error (.unusedOpcode 0)

/-- The instruction the decoder reads from an instruction whose bits are `w`, numbered as the opcode table numbers
them.  Every row has one 32-bit word, so `nbits` adds nothing: the bits above it are zero. -/
def decodeTableWord (nbits w : Nat) : Option Instr :=
  match decodeBytes (wordBytes (w % 2 ^ nbits)) with
  | .ok (i, _) => some i
  | .error _ => none

end Sys2Proof
end

