-- ==== Sys2Proof/Machine/Map.lean ====
section
/-! DEFINITION. Sparse maps in canonical form, byte memories over them, and the list helpers of the machine. -/

namespace Sys2Proof.Machine

/-- The entry of a key, if it is listed. -/
def mget? {α : Type} (m : NatMap α) (k : Nat) : Option α :=
  match m with
  | [] => none
  | (j, v) :: r => if j = k then some v else mget? r k

/-- The entry of a key, or the default. -/
def mgetD {α : Type} (m : NatMap α) (k : Nat) (d : α) : α := (mget? m k).getD d

/-- List a key with a value, keeping the keys strictly rising. -/
def mset {α : Type} (m : NatMap α) (k : Nat) (v : α) : NatMap α :=
  match m with
  | [] => [(k, v)]
  | (j, w) :: r => if k < j then (k, v) :: (j, w) :: r else if j = k then (k, v) :: r else (j, w) :: mset r k v

/-- Remove a key, wherever it is listed. -/
def mdel {α : Type} (m : NatMap α) (k : Nat) : NatMap α :=
  match m with
  | [] => []
  | (j, w) :: r => if j = k then mdel r k else (j, w) :: mdel r k

/-- Write a value where an unlisted key reads as `d`: the value `d` is never listed. -/
def mput {α : Type} [DecidableEq α] (d : α) (m : NatMap α) (k : Nat) (v : α) : NatMap α :=
  if v = d then mdel m k else mset m k v

/-- The keys of a map. -/
def mkeys {α : Type} (m : NatMap α) : List Nat := m.map Prod.fst

/-- Keys strictly rising. -/
def mwf {α : Type} (m : NatMap α) : Bool :=
  match m with
  | [] => true
  | (k, _) :: r => r.all (fun e => decide (k < e.1)) && mwf r

/-- What an unlisted byte of a memory reads as: zero (R496; assumption 1). -/
def emptyByte : Byte := 0

/-- Read one byte. -/
def readByte (m : List Host.Cell) (a : Nat) : Byte := mgetD m a emptyByte

/-- Write one byte; a byte equal to what an unlisted address reads as is not listed. -/
def writeByte (m : List Host.Cell) (a : Nat) (b : Byte) : List Host.Cell := mput emptyByte m a b

/-- The canonical form of a byte memory: addresses strictly rising, no listed byte equal to the default. -/
def Memory.wf (m : List Host.Cell) : Bool := mwf m && m.all (fun e => e.2 != emptyByte)

/-- Read `n` bytes, the lowest address first. -/
def readBytes (m : List Host.Cell) (a : Nat) : Nat → List Byte
  | 0 => []
  | n + 1 => readByte m a :: readBytes m (a + 1) n

/-- Write bytes, the first at the lowest address. -/
def writeBytes (m : List Host.Cell) (a : Nat) : List Byte → List Host.Cell
  | [] => m
  | b :: bs => writeBytes (writeByte m a b) (a + 1) bs

/-- The value of bytes given least significant first (R4). -/
def leNat : List Byte → Nat
  | [] => 0
  | b :: bs => b.toNat + 256 * leNat bs

/-- The `n` bytes of a value, least significant first (R4). -/
def leBytes : Nat → Nat → List Byte
  | 0, _ => []
  | n + 1, v => BitVec.ofNat 8 v :: leBytes n (v / 256)

/-- A field of a number. -/
def bitsOf (w lo len : Nat) : Nat := w / 2 ^ lo % 2 ^ len

/-- Is a bit of a number set? -/
def hasBit (w k : Nat) : Bool := w / 2 ^ k % 2 == 1

/-- Replace the field of `len` bits at `lo`. -/
def setBits (w lo len v : Nat) : Nat :=
  w - bitsOf w lo len * 2 ^ lo + v % 2 ^ len * 2 ^ lo

/-- The numbers 0 to n − 1 in rising order. -/
def upto (n : Nat) : List Nat := List.range n

/-- A mask with the listed bits set. -/
def maskOf (l : List Nat) : Nat := l.foldl (fun m k => if hasBit m k then m else m + 2 ^ k) 0

/-- The set bits of a mask, lowest first. -/
def bitsList (n m : Nat) : List Nat := (upto n).filter (hasBit m)

/-- The two's-complement value of a field of `n` bits. -/
def signed (n v : Nat) : Int := if v % 2 ^ n < 2 ^ (n - 1) then (v % 2 ^ n : Nat) else ((v % 2 ^ n : Nat) : Int) - (2 ^ n : Nat)

/-- Integer modulo 2^n, as a natural number. -/
def wrap (n : Nat) (v : Int) : Nat := (v % ((2 ^ n : Nat) : Int)).toNat

/-- The smallest element of a list, if any. -/
def minOf? : List Nat → Option Nat
  | [] => none
  | x :: xs => match minOf? xs with
    | none => some x
    | some y => some (if x ≤ y then x else y)

/-- Replace the element at an index. -/
def setAt {α : Type} : List α → Nat → α → List α
  | [], _, _ => []
  | _ :: r, 0, v => v :: r
  | x :: r, n + 1, v => x :: setAt r n v

/-- Remove the element at an index. -/
def dropAt {α : Type} : List α → Nat → List α
  | [], _ => []
  | _ :: r, 0 => r
  | x :: r, n + 1 => x :: dropAt r n

/-- Modify the element at an index. -/
def modAt {α : Type} (l : List α) (n : Nat) (f : α → α) : List α :=
  match l, n with
  | [], _ => []
  | x :: r, 0 => f x :: r
  | x :: r, n + 1 => x :: modAt r n f

/-- The first number below a bound that satisfies a test. -/
def firstBelow (n : Nat) (p : Nat → Bool) : Option Nat := (upto n).find? p

end Sys2Proof.Machine
end

