-- ==== Sys2Proof/Machine/CoreState.lean ====
section
/-! DEFINITION. The state of one core: its warps, strands and splits, its memory engine, and the records of its engines
(01_machine.md R11 to R42, Table 6-1, and the state tables of the engine chapters). -/

namespace Sys2Proof.Machine

/-- The trap causes of Table 6-4. -/
inductive Cause where
  | illegalOp | privOp | regIndex | window | align | pageAbsent | pagePerm | pageKey | stackLimit | scratchRange
  | scratchStale | layoutRecord | barrier | matrixFenced | matrixOperand | sharedWrite | helperFault | launchRecord
  | weightSet | saveStale | saveTag | bkpt | trap | fabric | eccUncorrectable | policyRefused
  deriving DecidableEq, Repr

/-- The code of a trap cause (Table 6-4). -/
def Cause.code : Cause → Nat
  | .illegalOp => 0x01 | .privOp => 0x02 | .regIndex => 0x03 | .window => 0x04 | .align => 0x05 | .pageAbsent => 0x06
  | .pagePerm => 0x07 | .pageKey => 0x08 | .stackLimit => 0x09 | .scratchRange => 0x0A | .scratchStale => 0x0B
  | .layoutRecord => 0x0C | .barrier => 0x0D | .matrixFenced => 0x0E | .matrixOperand => 0x0F | .sharedWrite => 0x10
  | .helperFault => 0x11 | .launchRecord => 0x12 | .weightSet => 0x13 | .saveStale => 0x14 | .saveTag => 0x15
  | .bkpt => 0x16 | .trap => 0x17 | .fabric => 0x18 | .eccUncorrectable => 0x19 | .policyRefused => 0x1A

/-- Who issues an instruction in a warp slot: a split-table entry, or a helper lane of the pricking (R280). -/
inductive Who where
  | split (e : Nat)
  | helper (lane : Nat)
  deriving DecidableEq, Repr

/-- A register operand resolved at issue (R62, R237, Table 11-3). -/
inductive RegLoc where
  /-- file[n] of the thread. -/
  | file (n : Nat)
  /-- A latch entry of the thread. -/
  | latch (k : Nat)
  /-- vz. -/
  | zero
  /-- A private register of the helper (Table 11-3). -/
  | priv (n : Nat)
  /-- A frozen register of the recruiter, by its file register (Table 11-3). -/
  | frozen (n : Nat)
  /-- Index register ixk of the thread, as an earlier instruction's destination (R68). -/
  | index (k : Nat)
  /-- A special register, as an earlier instruction's destination (R68). -/
  | special (r : SpecReg)
  deriving DecidableEq, Repr

/-- One latch entry: its value and how many following instructions still read it (R66). -/
structure LatchEntry where
  val : Word
  life : Nat
  deriving DecidableEq, Repr

/-- The kinds of a reconvergence-stack entry (R145). -/
inductive StackKind where
  | join | path
  deriving DecidableEq, Repr

/-- One reconvergence-stack entry (R145). -/
structure StackEntry where
  kind : StackKind
  mask : BitVec 4
  pc : Option DWord
  fmt : Word
  deriving DecidableEq, Repr

/-- One strand: program counter, active threads, stack (top first), guard selector and sr.fmt (Table 6-1, R70, R156). -/
structure Strand where
  pc : DWord
  active : BitVec 4
  stack : List StackEntry
  guardP : Nat
  guardInv : Bool
  fmt : Word
  deriving DecidableEq, Repr

/-- The answer to a page request (R245, R447). -/
inductive PageAnswer where
  | waiting | retry | decline
  deriving DecidableEq, Repr

/-- A page request of a parked split (R245): its page and its answer. -/
structure PageAsk where
  page : Nat
  seq : Nat
  answer : PageAnswer
  deriving DecidableEq, Repr

/-- What a parked split or helper waits for. -/
inductive Wait where
  /-- MWAIT: until a monitor fires or the timebase reaches the deadline (R176); the result goes to the given operand. -/
  | mwait (deadline : Option Nat) (dst : Opnd)
  /-- An MWAIT whose split wakes on restore (R165). -/
  | woken (dst : Opnd)
  /-- A page fault: until every request has been answered; the instruction is then replayed (R245). -/
  | page (asks : List PageAsk)
  /-- BARW: the barrier, the generations that its threads joined, the one that its last thread joined, whether one of them ended in error,
  and how the wait has ended: completed, or cleared by BARX (R326, R319, R329). -/
  | barw (k : Nat) (joined : List Nat) (last : Nat) (err : Bool) (ended : Option Bool)
  /-- GWAIT (R409): partition and group as 64 p + g, the generation to pass, and whether the group has been unconfigured since. -/
  | gwait (key n : Nat) (bad : Bool)
  /-- An answer with a number of its own: a GARR's arrival or a fabric launch (R398, R409); the answer once it has come. -/
  | reply (id : Nat) (val : Option Nat)
  /-- A record in a window page, read by a remote operation of the given number: its bytes once they have come (R249, R301, R385). -/
  | recRead (id : Nat) (bytes : Option (List Byte))
  /-- An LNCH whose ENQ runs (R385, R418), under a number: its PRIO or the refusal once it has decided. -/
  | enq (id : Nat) (res : Option (Option Nat))
  /-- Any other parking instruction of R162: it is tried again, with the number it parked with. -/
  | instr (aux : Nat)
  /-- Stopped for the runtime's answer to a fault record (R160), whose sequence number is given. -/
  | record (seq : Nat)
  deriving DecidableEq, Repr

/-- State of a split-table entry (Table 6-1). -/
inductive SplitStatus where
  | ready
  /-- All its strands wait at the RECONV at their pc (R147). -/
  | held
  | parked (w : Wait)
  deriving DecidableEq, Repr

/-- Live masks of the station at which a split stopped (Table 3-6). -/
structure StationMasks where
  filem : Nat
  predm : Nat
  ixm : Nat
  accm : Nat
  deriving DecidableEq, Repr

/-- One split-table entry (Table 6-1): strand set, state, age, CLASS reservation (class and instructions left, R185), the
threads of a replay (R245), instructions issued since a pre-emption request, counted from 256 once it has issued outside its kernel's code (R163), and the station where it stopped. -/
structure Split where
  strands : Nat
  status : SplitStatus
  age : Nat
  reserve : Option (TimingClass × Nat)
  replay : Option Nat
  sinceRequest : Nat
  stopped : Option StationMasks
  /-- A remote access of it has failed: FABRIC at its next instruction boundary (R405). -/
  fabric : Bool
  deriving DecidableEq, Repr

/-- One monitor of a warp (R175): the key of its line, armed, fired. -/
structure Monitor where
  line : Nat
  armed : Bool
  fired : Bool
  deriving DecidableEq, Repr

/-- What a trapped warp records beside its trap state bit: the strands of the split that trapped, which run the handler, also
where the handler's own divergence parts them (R158, assumption 19). -/
structure TrapState where
  strands : Nat
  deriving DecidableEq, Repr

/-- An attachment made by MSCL (R352): βA0, βA1, βB, and the record offsets of A and B unless it is MSCL.band.  The number
names the MSCL, so that a discarded one withdraws it. -/
structure Attachment where
  id : Nat
  bandA0 : Nat
  bandA1 : Nat
  bandB : Nat
  records : Option (Nat × Nat)
  deriving DecidableEq, Repr

/-- A warp in its slot: the state of Table 6-1, R60 to R74, Table 1-4, R32, with the placement that its special registers
read. -/
structure Warp where
  wg : Nat
  index : Nat
  ctx : Nat
  fileSize : Nat
  panels : Nat
  wbase : Nat
  /-- file[n] of thread t at key 256 t + n; unlisted reads zero (R20). -/
  regs : NatMap Word
  /-- The 64 predicates of thread t as a mask at key t; unlisted reads 1 (p0 true, R20). -/
  preds : NatMap Nat
  /-- ixk of thread t at key 4 t + k (R65). -/
  ixs : NatMap Word
  /-- lk of thread t at key 4 t + k (R66). -/
  latches : NatMap LatchEntry
  /-- File registers (256 t + n) that hold an uncorrectable soft error: the model's own record of such errors (R189). -/
  bad : List Nat
  /-- Latch entries (4 t + k) that hold an uncorrectable soft error: the model's own record of such errors (R189). -/
  latchBad : List Nat
  /-- sr.fpst of thread t (R72). -/
  fpst : NatMap Nat
  strands : List Strand
  splits : NatMap Split
  trapcause : Word
  trappc : DWord
  trap : Option TrapState
  monitors : List Monitor
  batch : Word
  /-- Closed batches not yet complete: number and commands still outstanding (R32). -/
  batches : List (Nat × Nat)
  /-- Commands of the open batch that have issued and not completed (R32). -/
  openBatch : Nat
  loads : Nat
  stores : Nat
  copies : Nat
  tiles : Nat
  cycles : Nat
  iiu : Nat
  tax : Nat
  /-- Guard slots: predicates whose pending write a command waits on (R28). -/
  guardSlots : List Nat
  /-- The attachment register: an attachment not yet bound to an MMA or MMAP (R331, R351). -/
  attach : Option Attachment
  /-- Replayed commands whose destinations a shuffle waits for: their threads as a mask, and their numbers (R222). -/
  replays : List (Nat × Nat)
  deriving DecidableEq, Repr

/-- The memory spaces an access can reach after translation (R116, R240, R259). -/
inductive Space where
  | hbm | host | fabric | plot | scratch
  deriving DecidableEq, Repr

/-- How loaded bytes become a register value (R246). -/
inductive Extend where
  | none | zero | sign
  deriving DecidableEq, Repr

/-- The operations of ATOM and RED (R258). -/
inductive AtomOp where
  | add | incw | exch | cas | min | max | minu | maxu | and | or | xor
  deriving DecidableEq, Repr

/-- One access of one thread, resolved at issue: where, how many bytes, the bytes it stores or the operands of an atomic,
and the register words a load fills. -/
structure Access where
  t : Nat
  space : Space
  addr : Nat
  n : Nat
  data : List Byte
  dests : List (Nat × RegLoc)
  /-- Key id of the page (R461), or the target core of a remote scratchpad access. -/
  aux : Nat
  deriving DecidableEq, Repr

/-- Where a copy engine reads: global memory, a scratchpad byte of the core, or fixed bytes (R308, R314). -/
inductive CopySrc where
  | mem (space : Space) (key pa : Nat)
  | scratch (byte : Nat)
  | fixed (bytes : List Byte)
  deriving DecidableEq, Repr

/-- Where a copy engine writes. -/
inductive CopyDst where
  | mem (space : Space) (key pa : Nat)
  | scratch (byte : Nat)
  deriving DecidableEq, Repr

/-- One element of a box: source, destination and size (R307, R308). -/
structure Move where
  src : CopySrc
  dst : CopyDst
  n : Nat
  deriving DecidableEq, Repr

/-- One plane group of a CPBP: the sources of its 32 codes, each with the bit offset of the code in them, and where its plane
words go (R314). -/
structure PlaneGroup where
  codes : List (CopySrc × Nat)
  dst : Nat
  deriving DecidableEq, Repr

/-- What a copy command does once it has passed its verdict. -/
inductive CopyWork where
  | box (moves : List Move)
  /-- CPBM: the elements of the packed box, their destinations as bytes of the box, and the target handles. -/
  | multicast (moves : List Move) (targets : List Nat)
  | planes (fmt : Elem) (planes : Nat) (groups : List PlaneGroup)
  deriving DecidableEq, Repr

/-- A copy command in the queue (R300 to R303). -/
structure CopyCmd where
  id : Nat
  /-- Issued by CPA16 on the GA path, not by the copy engine on the CP path (R137). -/
  ga : Bool
  slot : Nat
  tid : Nat
  wg : Nat
  work : CopyWork
  /-- The generation of the allocation that its local words lie in (R313). -/
  allocGen : Nat
  /-- The barrier and the generation that it counts into (R317). -/
  bar : Option (Nat × Nat)
  batch : Nat
  guardPend : List Nat
  /-- The value of the guard for the issuing thread. -/
  guardVal : Bool
  /-- For a started multicast: words not yet accepted or dropped. -/
  out : Option Nat
  dropped : Bool
  /-- Its reads of window pages have been sent (R249). -/
  asked : Bool := false
  /-- The thread of each of its copies. -/
  tids : List Nat := []
  deriving DecidableEq, Repr

/-- What a memory command does with its accesses. -/
inductive MemKind where
  | load (ext : Extend)
  | store
  | atom (op : AtomOp) (returns : Bool)
  | privLoad
  | privStore
  /-- A CPA16, which the memory engine passes to its asynchronous copier as it reaches the head (R260, R29). -/
  | copier (qs : List CopyCmd)
  deriving DecidableEq, Repr

/-- A memory command (R27): its number, the issuing slot and issuer, its kind, its accesses, the acquire or release scope,
and the predicates whose guard slots it holds. -/
structure MemCmd where
  cid : Nat
  slot : Nat
  who : Who
  kind : MemKind
  accs : List Access
  acquire : Option Scope
  release : Option Scope
  guardPend : List Nat
  deriving DecidableEq, Repr

/-- A load, or an atomic that returns, on its way (R31, R237): the register words whose values have been read, and the
accesses still to be made at their coherence point once the given buffer entries are acknowledged (R126, R132, R136). -/
structure Load where
  cid : Nat
  slot : Nat
  who : Who
  writes : List (Nat × RegLoc × Word)
  kind : MemKind
  accs : List Access
  after : List Nat
  acquire : Option Scope
  /-- The register words, by thread, that it fills from HBM. -/
  hbm : List (Nat × RegLoc) := []
  deriving DecidableEq, Repr

/-- What a pending store command still has to do (R31, R125, R136). -/
inductive StoreWork where
  /-- Only its acknowledgement is outstanding: private data or scratchpad. -/
  | ack
  /-- An STL whose write enters the write-combining buffer once its release actions are complete. -/
  | release (accs : List Access) (sc : Scope)
  /-- A RED to be performed at the coherence point. -/
  | red (op : AtomOp) (accs : List Access)
  deriving DecidableEq, Repr

/-- A pending store command: what must have been acknowledged before it (buffer entries, and earlier store commands). -/
structure StorePend where
  cid : Nat
  slot : Nat
  who : Who
  work : StoreWork
  after : List Nat
  afterCids : List Nat
  deriving DecidableEq, Repr

/-- Who stored bytes of a line of a window page, should they fail (R405): workgroup, warp, its slot, thread and issuer, and where in the
line. -/
structure StoreMark where
  wg : Nat
  index : Nat
  slot : Nat
  t : Nat
  who : Who
  off : Nat
  deriving DecidableEq, Repr

/-- A write-combining buffer entry (R122), or a private line being written back (R257): its number, its line, the bytes it
holds (offset to byte), its marker epoch, the time of its allocation, the slots, issuers and numbers of the store commands it
holds, its release scope if an STL wrote it, the workgroup of a private line, whether a word of it carries an
uncorrectable error (R272), and for a line of a window page who stored into it. -/
structure WcbEntry where
  eid : Nat
  line : Nat
  space : Space
  key : Nat
  bytes : NatMap Byte
  epoch : Nat
  since : Nat
  owners : List (Nat × Who × Nat)
  tag : Option Scope
  wg : Option Nat
  bad : Bool
  marks : List StoreMark := []
  deriving DecidableEq, Repr

/-- An L1 line (R121, R247, R257): its physical line number, the bytes as they were filled or stored, and for a private line
the warp that owns it and whether it is dirty. -/
structure L1Line where
  line : Nat
  key : Nat
  data : List Byte
  owner : Option Nat
  dirty : NatMap Byte
  bad : Bool
  deriving DecidableEq, Repr

/-- A scratchpad allocation (R250 to R253): first word, words, generation, workgroup, context, inbound count, and the time at
which its release began. -/
structure Alloc where
  base : Nat
  words : Nat
  gen : Nat
  wg : Nat
  ctx : Nat
  inbound : Nat
  released : Option Nat
  deriving DecidableEq, Repr

/-- A cached translation (R244): context, page number in units of 4 KiB, and the leaf it ended on. -/
structure TlbEntry where
  ctx : Nat
  page : Nat
  leaf : Nat
  shift : Nat
  deriving DecidableEq, Repr

/-- An instruction in the execute stages (R153): slot, class, cycles left, and the predicates it is writing (by predKey). -/
structure Stage where
  slot : Nat
  who : Who
  cls : TimingClass
  left : Nat
  preds : List Nat
  deriving DecidableEq, Repr

/-- A register whose write or read latency is not over (R68, R149): the warp slot, the location, the threads in which it was written,
and the cycles for which a dependent instruction is still not ready. -/
structure Cool where
  slot : Nat
  loc : RegLoc
  tids : Nat
  left : Nat
  deriving DecidableEq, Repr

/-- The open class run of a core (R150): its class, its issues, the issuer that opened it, and what that issuer has issued since. -/
structure ClassRun where
  cls : TimingClass
  count : Nat
  slot : Nat
  who : Who
  since : Nat
  deriving DecidableEq, Repr

/-- A chunk of a pricking (Table 11-1). -/
inductive Chunk where
  | unclaimed
  /-- Held by the member of the given lane (the recruiter's own lane for the recruiter). -/
  | held (lane : Nat)
  | done
  | cancelled
  deriving DecidableEq, Repr

/-- The release requests that a helper has: one of R276 with the instructions issued since (bounded by R288), one that
pre-emption of the recruiter's workgroup sent (bounded by R291), and one of the recruiter's RLSE or EXIT (R297, R289). -/
structure Release where
  owner : Option Nat
  preempt : Option Nat
  close : Bool
  deriving DecidableEq, Repr

/-- No release request. -/
def Release.none : Release := { owner := Option.none, preempt := Option.none, close := false }

/-- Is a helper under a release request? -/
def Release.asked (r : Release) : Bool := r.owner.isSome || r.preempt.isSome || r.close

/-- A helper of a pricking (R278): the slot that lent its lane, its program counter, private state, counters and requests. -/
structure Helper where
  lentFrom : Nat
  pc : DWord
  regs : NatMap Word
  preds : Nat
  fmt : Word
  fpst : Nat
  guardP : Nat
  guardInv : Bool
  chunk : Option Nat
  loads : Nat
  stores : Nat
  guardSlots : List Nat
  release : Release
  wait : Option Wait
  age : Nat
  /-- CLASS reservation: class and instructions left (R185, R280). -/
  reserve : Option (TimingClass × Nat)
  /-- Private registers that hold an uncorrectable soft error: the model's own record of such errors (R208). -/
  bad : List Nat
  deriving DecidableEq, Repr

/-- The recruiter record of a panel pair (Table 11-1). -/
structure Pricking where
  slot : Nat
  tid : Nat
  entry : Nat
  shareBase : Nat
  shareLen : Nat
  n : Nat
  c : Nat
  chunks : List Chunk
  parts : NatMap Nat
  helpers : NatMap Helper
  fault : Option (Nat × Nat × Nat)
  flags : Nat
  rsn : Nat
  held : Option Nat
  /-- Claims that have reached the pricking and are not yet served: the member's lane, and the cluster-clock cycle (R283). -/
  claims : NatMap Nat
  /-- Claims that have been served and whose members have not yet gone on: the lane, and the chunk if there was one. -/
  served : NatMap (Option Nat)
  deriving DecidableEq, Repr

/-- A continuation of a named barrier: code offset and context word (R320, R327). -/
structure Continuation where
  off : Nat
  word : Word
  deriving DecidableEq, Repr

/-- A named barrier (Table 12-4).  The arrived bits are masks over 64 × sr.warp + sr.tid. -/
structure Barrier where
  init : Bool
  cpm : Bool
  exp : Nat
  gen : Nat
  cur : Nat
  next : Nat
  inflCur : Nat
  inflNext : Nat
  cpa : Bool
  err : Bool
  errNext : Bool
  errLast : Bool
  cont : Option Continuation
  /-- Spawns pending: the continuation and whether its generation completed with ERR set (R320, R322). -/
  spawn : List (Continuation × Bool)
  deriving DecidableEq, Repr

/-- A barrier that BARI has not set. -/
def Barrier.clear : Barrier :=
  { init := false, cpm := false, exp := 0, gen := 0, cur := 0, next := 0, inflCur := 0, inflNext := 0, cpa := false,
    err := false, errNext := false, errLast := false, cont := none, spawn := [] }

/-- What a remote operation does over EFT (R402, R249). -/
inductive FabKind where
  | wr | rd | sig | atom
  /-- An LS-path ATOM or RED on a window page. -/
  | amo (op : AtomOp)
  deriving DecidableEq, Repr

/-- What the answer of a remote read goes to: register words, an element of a copy command, or a waiting instruction that reads a record. -/
inductive FabInto where
  | regs
  /-- The n-th element of a copy command, by its number and its barrier part. -/
  | copy (id : Nat) (bar : Option (Nat × Nat)) (n : Nat)
  | record
  deriving DecidableEq, Repr

/-- A remote operation that has not been answered (R402 to R405): its command, its thread, the source partition, the target
device, the window address, its data, the register words it fills (with the extension of a narrow load), whether it travels
on the CO path, its SEQ once sent, and the time at which it was issued. -/
structure FabOp where
  cid : Nat
  core : Nat
  slot : Nat
  who : Who
  /-- The workgroup, warp and thread that issued it, and the queue and tag word of its root packet, for a failure's record (R405, R443). -/
  wg : Nat
  index : Nat
  t : Nat
  qnum : Nat
  tagw : Nat
  ctx : Nat
  part : Nat
  dev : Nat
  kind : FabKind
  arg : Nat
  n : Nat
  data : List Byte
  dests : List (Nat × RegLoc)
  ext : Extend
  co : Bool
  seq : Option Nat
  since : Nat
  guardPend : List Nat
  /-- The scope of an LDA of a window page, which acquires as it returns (R126). -/
  acquire : Option Scope
  /-- The buffer entry that it carries, or a run of its bytes; entries that must be acknowledged before it goes; what a read is for. -/
  entry : Option WcbEntry := none
  after : List Nat := []
  into : FabInto := .regs
  deriving DecidableEq, Repr

/-- Is it an access of the LS path that some issuer waits for itself: not of the CO path, no buffer entry, no engine's read? -/
def FabOp.ls (f : FabOp) : Bool := !f.co && f.entry.isNone && f.into == .regs

/-- An operand of the matrix array (Table 13-3), its offset as a scratchpad byte of the core. -/
structure MatOperand where
  fmt : Elem
  q : Nat
  sp : Nat
  off : Nat
  deriving DecidableEq, Repr

/-- What a matrix queue entry does (R334, R355). -/
inductive MatWork where
  | mma (k : Nat) (zero pair : Bool) (a b : MatOperand) (kk : Nat) (att : Option Attachment)
  | mscl (id : Nat)
  /-- MAEPI with the destination as a scratchpad byte of the core, and sr.fmt of the issuing strand. -/
  | maepi (k : Nat) (ofmt : Nat) (dst : Nat) (sigma : Word) (fmt : Word)
  | mard (k : Nat) (col : Bool) (dst : Nat)
  | clear (k : Nat) (release : Bool)
  deriving DecidableEq, Repr

/-- What a started matrix operation will write when it retires (R336): elements of the core's accumulators, status bits to
set, scratchpad words, and the flags that the issuing thread merges. -/
structure MatOut where
  acc : NatMap Word
  status : List (Nat × Nat)
  scr : List (Nat × Word)
  flags : Nat
  deriving DecidableEq, Repr

/-- A matrix queue entry. -/
structure MatCmd where
  id : Nat
  slot : Nat
  tid : Nat
  wg : Nat
  work : MatWork
  batch : Nat
  guardPend : List Nat
  guardVal : Bool
  /-- Performing (its self-test has run); and dropped by that test (R345). -/
  started : Bool
  dropped : Bool
  out : MatOut
  /-- The time at which it reached the head of the queue (R344). -/
  headAt : Option Nat
  deriving DecidableEq, Repr

/-- A weight stream in the port's queue (R373). -/
structure StreamCmd where
  id : Nat
  slot : Nat
  tid : Nat
  wg : Nat
  name : Nat
  ver : Nat
  tidx : Nat
  q : Nat
  row0 : Nat
  g0 : Nat
  ng : Nat
  nr : Nat
  scl : Bool
  off : Nat
  soff : Nat
  bar : Option (Nat × Nat)
  batch : Nat
  guardPend : List Nat
  guardVal : Bool
  pc : DWord
  deriving DecidableEq, Repr

/-- A pair hold on the follower's array (R344): the leader core. -/
structure PairHold where
  leader : Nat
  deriving DecidableEq, Repr

/-- One core: Table 1-3. -/
structure Core where
  warps : NatMap Warp
  /-- Carve code in force, and the code a change is moving to (R265, R267). -/
  carve : Nat
  carveTo : Nat
  wcb : List WcbEntry
  /-- Release markers placed so far: the epoch of new entries (R122). -/
  epoch : Nat
  /-- Entries that have left the buffer and wait for their acknowledgement (R123). -/
  drains : List WcbEntry
  /-- L1, most recently used first. -/
  l1 : List L1Line
  /-- Scratchpad words; unlisted reads zero (R20). -/
  scratch : NatMap Word
  /-- Scratchpad words that hold an uncorrectable soft error: the model's own record of such errors (R272). -/
  scrBad : List Nat
  allocs : List Alloc
  gen : Nat
  tlb : List TlbEntry
  loadsPending : List Load
  storesPending : List StorePend
  memQ : List MemCmd
  copyQ : List CopyCmd
  matQ : List MatCmd
  hold : Option PairHold
  /-- Fence bits of the four sub-arrays (Table 13-1). -/
  fence : Nat
  /-- Elements of mak at key 4096 k + 64 i + j; unlisted reads zero. -/
  acc : NatMap Word
  /-- Elements that hold an uncorrectable soft error, by key: the model's own record of such errors (R349). -/
  accBad : List Nat
  accStatus : NatMap Nat
  accOwner : NatMap Nat
  /-- Accumulators whose release is not yet performed (R355). -/
  accReleasing : List Nat
  /-- Accumulators that this array's previous MMA or MMAP wrote: core and number (R345). -/
  accPrev : List (Nat × Nat)
  /-- Staged copies of scratchpad words (R346). -/
  staged : NatMap Word
  streamQ : List StreamCmd
  /-- Commands that wait in the launch engine's queue (R27), by slot and issuer, in the order of their arrival. -/
  lchQ : List (Nat × Who)
  prickings : NatMap Pricking
  /-- The RQRY word kept after a close, at the panel pair (R298). -/
  rqry : NatMap Nat
  stages : List Stage
  cooling : List Cool
  run : Option ClassRun
  /-- Current allowance A and withhold floor F (R483). -/
  allow : Int
  floor : Int
  /-- Debits of the instructions issued in this cycle (R483). -/
  debit : Int
  /-- Core time in units of 1/36 ns (R152). -/
  clock : Nat
  deriving DecidableEq, Repr

end Sys2Proof.Machine
end

