-- ==== Sys2Proof/Machine/Hub.lean ====
section
/-! DEFINITION. The state of the hub die and of the dispatchers: grids and workgroups, save images, queues, mailbox words, group
barriers, the fabric interface, traverses, keys and sessions, chains, and the power controller (15_launch_engine.md to
19_power_clock_controller.md). -/

namespace Sys2Proof.Machine

/-! ### Grids and workgroups -/

/-- An entry of the station table (Table 3-6). -/
structure Station where
  pcoff : Nat
  masks : StationMasks
  deriving DecidableEq, Repr

/-- Who is told that a grid has completed (R386, R400, R439). -/
inductive Launcher where
  /-- A LAUNCH packet, with the mailbox word and value of CMPL. -/
  | packet (produce : Option (Nat × Nat))
  /-- An LNCH of a workgroup. -/
  | parent (wg : Nat)
  /-- A part of a fabric launch of another device: device, partition, and the source's number of it. -/
  | fabric (dev part arg : Nat)
  deriving DecidableEq, Repr

/-- A grid (R21, R382 to R390): its context, its kernel as checked at launch, and its progress. -/
structure Grid where
  ctx : Nat
  code : Nat
  codeSize : Nat
  stations : List Station
  fileSize : Nat
  warps : Nat
  scratch : Nat
  fuse : Nat
  pmem : Nat
  nwg : Nat
  pbase : Nat
  data : Nat
  fmt : Word
  init : List (Nat × Word)
  /-- The weight epoch (R362). -/
  wepoch : Nat
  /-- The queue and tag word of the packet, or root packet, that launched it (R442, R443). -/
  qnum : Nat
  tagw : Nat
  ptag : Nat
  /-- Confinement (R382): the plots it may use, as a mask. -/
  conf : Nat
  /-- PRIO from ENQ (R414). -/
  prio : Nat
  /-- Workgroups not yet resident, and those not yet ended (R386). -/
  waiting : List Nat
  left : Nat
  /-- The time at which it was queued. -/
  since : Nat
  launcher : Launcher
  /-- No workgroup of it may be placed yet: a fabric part that waits for its commit (R401), or a child whose LNCH waits for its release
  actions (R385). -/
  heldPart : Bool
  deriving DecidableEq, Repr

/-- Who asked for the pre-emption of a workgroup (R161, R497). -/
inductive Why where
  | tick | block | layout | chkpt
  /-- A JOIN for the given number of grids. -/
  | join (n : Nat)
  deriving DecidableEq, Repr

/-- An entry of a workgroup's pending-launch queue (R384): a grid not yet wholly resident, or a fabric launch not yet answered. -/
inductive PendEntry where
  | grid (g : Nat)
  | flnch (id : Nat)
  deriving DecidableEq, Repr

/-- A saved workgroup (R164, R454, R478 to R480, R497).  The image bytes are those of the save area; what the device keeps of the workgroup
beside them tells when it is ready and where it may go. -/
structure Saved where
  why : Why
  ready : Bool
  /-- Its extent in the save area: first page and pages (R454). -/
  page : Nat
  pages : Nat
  /-- The image as it was written, and the body before encryption. -/
  image : List Byte
  body : List Byte
  /-- The key ids of the pages that it lies on. -/
  keys : List Nat
  scnt : Nat
  /-- Warps by sr.warp, without file registers; the file registers that the image holds, for each. -/
  warps : NatMap Warp
  live : NatMap Nat
  /-- Owned accumulators: number and status word; those whose elements the image holds. -/
  accs : List (Nat × Nat)
  accLive : List Nat
  /-- Words of its scratchpad allocation, and the generation they had. -/
  words : Nat
  prickings : NatMap Pricking
  /-- The core it was last resident on, the PRIO it held when it was saved, the plot that MIGR chose, and the core and slice that PICK
  chose. -/
  core : Nat
  prio : Nat
  migr : Option Nat
  pick : Option (Nat × Nat)
  /-- A failed restore waits for the answer to this record (R480). -/
  failed : Option Nat
  /-- A MIGR or WAKE call is still to be made for it (R430, R497). -/
  wantMigr : Bool
  wantWake : Bool
  since : Nat
  /-- Did a decision register name the plot that MIGR chose? -/
  migrNamed : Bool := false
  /-- DONE and the pending-launch queue as they stood at the save (R384). -/
  doneAt : Nat := 0
  entriesAt : List PendEntry := []
  deriving DecidableEq, Repr

/-- A workgroup: its grid and index, where it is resident, its named barriers, its launches and its slice. -/
structure Workgroup where
  grid : Nat
  index : Nat
  core : Option Nat
  slots : List Nat
  barriers : NatMap Barrier
  /-- A pre-emption request, and whether it has reached the splits (R161). -/
  preempt : Option Why
  reached : Bool
  prio : Nat
  slice : Nat
  /-- When its slice expired (R415). -/
  expired : Option Nat
  wantTick : Bool
  issued : Nat
  done : Nat
  entries : List PendEntry
  /-- The scratchpad that it demands of a core is allocated while it is resident. -/
  since : Nat
  saved : Option Saved
  /-- It has been wholly parked since its splits last moved, and calls that this or their waking makes, BLOCK where true and else WAKE, not yet
  started (R412). -/
  blocked : Bool
  parkCalls : List Bool := []
  deriving DecidableEq, Repr

/-- IIU, withheld cycles and tax of a workgroup on a plot in a TICK window (Table 16-5). -/
structure WinStat where
  iiu : Nat
  whld : Nat
  tax : Nat
  deriving DecidableEq, Repr

/-- A context (R23, R431), with the registers of its control page (Table 17-7). -/
structure Context where
  part : Nat
  priv : Bool
  prot : Bool
  key : Nat
  root : Nat
  trapbase : DWord
  plim : Nat
  carve : Nat
  saveBase : Nat
  savePages : Nat
  /-- The save counter of a protected context (R478). -/
  saveCtr : Nat
  /-- The boost lease: IIU left if one is held; the last LEASE was refused (R487). -/
  lease : Option Nat
  leaseRefused : Bool
  /-- The start, in core time, of the cycle in which the lease reached zero (R494). -/
  leaseAt : Nat := 0
  mbxIdx : Nat
  psIdx : Nat
  psSel : Nat
  /-- Page invalidations begun and not complete: page address and size code (R447). -/
  tlbPend : List (Nat × Nat)
  /-- What software last wrote to the EQRD field of an index with no queue (Table 0-3). -/
  eqrds : NatMap Nat := []
  deriving DecidableEq, Repr

/-- A group barrier of a partition (Table 15-4). -/
structure Group where
  pair : Nat
  pend : Option Nat
  count : Nat
  gen : Nat
  deriving DecidableEq, Repr

def Group.none : Group := { pair := 0, pend := Option.none, count := 0, gen := 0 }

/-- An arrival on its way to its group (R392): the core it comes from, or the source device; and who waits for its GEN. -/
structure Arrival where
  part : Nat
  group : Nat
  plot : Nat
  dev : Option Nat
  /-- Core and slot of the GARR, and the number by which it waits for its GEN. -/
  from? : Option (Nat × Nat)
  id : Nat
  /-- The home device and the SEQ of the frame that carries it there, until that is acknowledged (R394, R138). -/
  sent : Option (Nat × Nat)
  deriving DecidableEq, Repr

/-- A derate record (R475, R490): start, end and factor. -/
structure Derate where
  start : Nat
  stop : Nat
  factor : Nat
  deriving DecidableEq, Repr

/-- An entry of a partition's chain (R475). -/
structure ChainEntry where
  pinst : Nat
  number : Nat
  time : Nat
  lgen : Nat
  flags : Nat
  meters : List Nat
  derates : List Derate
  prev : Nat
  deriving DecidableEq, Repr

/-- A partition (R22, R266, R449, R466, R474). -/
structure Partition where
  plots : Nat
  granules : Nat
  shkey : Nat
  plimmax : Nat
  fullht : Bool
  pmemmax : Nat
  fuseok : Bool
  carvok : Nat
  /-- Slot maps in force: die network, HBM, weight stacks, fabric (R449). -/
  slotMaps : List Nat
  lgen : Nat
  pinst : Nat
  chain : List ChainEntry
  /-- The number of the next chain entry, and derate records that wait for it. -/
  chainNo : Nat
  derates : List Derate
  deriving DecidableEq, Repr

/-- The class of work that a plot holds or last held (R24): nothing since it was cleared, ordinary contexts, or one protected
context. -/
inductive PlotClass where
  /-- `removed`: a protected context that has been destroyed. -/
  | clean | ordinary | removed
  | prot (ctx : Nat)
  deriving DecidableEq, Repr

/-- A plot (R22, R24, R186, R268 to R270, R417). -/
structure Plot where
  /-- Marked by SCLR. -/
  sclr : Bool
  cls : PlotClass
  /-- A layout change stops this plot's work (R430, R450). -/
  leaving : Bool
  fuse : Nat
  pmem : Nat
  mem : List Host.Cell
  /-- The context whose data the plot memory holds. -/
  memCtx : Option Nat
  /-- The context and grid last picked (Table 16-1). -/
  lastCtx : Option Nat
  lastId : Option Nat
  /-- Withheld issue cycles, and pre-emption requests withdrawn (RDC 0x043, 0x044). -/
  withheld : Nat
  withdrawn : Nat
  /-- TICK calls made: the multiples of 10 µs that have been served. -/
  ticks : Nat
  /-- Cores for which a PICK call has been made and not started; and the cores called at a time (R417). -/
  picks : List Nat
  pickTime : Nat
  picked : List Nat
  deriving DecidableEq, Repr

/-! ### Command processors -/

/-- Why a queue's packet is blocked at its step. -/
inductive Block where
  /-- Waits for its turn at a mailbox word. -/
  | mailbox
  /-- A LAYOUT or CHKPT in progress. -/
  | working
  deriving DecidableEq, Repr

/-- A queue of a context (Table 17-2, R433 to R445). -/
structure Queue where
  ctx : Nat
  idx : Nat
  eqbase : Nat
  rbase : Nat
  rlog : Nat
  eqlog : Nat
  qdb : Nat
  qrd : Nat
  eqrd : Nat
  eqwr : Nat
  eqlost : Nat
  halted : Bool
  /-- The record that its faulted packet waits on, and a record that could not be written (R444, R445). -/
  pending : Option Nat
  ringFault : Bool
  /-- The packet that has started, as it was read. -/
  packet : Option (List Byte)
  block : Option Block
  deriving DecidableEq, Repr

/-- A mailbox operation that waits on its word (R439, R440). -/
inductive MboxOp where
  | consume (qnum : Nat) (dest : Option (Space × Nat × Nat))
  | produce (qnum : Nat) (value : Nat)
  /-- The completion produce of a grid. -/
  | background (qnum ctx : Nat) (value : Nat)
  deriving DecidableEq, Repr

structure MboxWaiter where
  part : Nat
  word : Nat
  op : MboxOp
  since : Nat
  deriving DecidableEq, Repr

/-- A LAYOUT in its step (R450). -/
structure LayoutStep where
  qnum : Nat
  part : Nat
  plots : Nat
  granules : Nat
  slotMaps : List Nat
  /-- Plots still to clear; the maps wait for the calendar period. -/
  leaving : Nat
  joining : Nat
  /-- Granules that have left and are not yet zeroed. -/
  gone : Nat
  maps : Bool
  /-- It creates the partition (R466). -/
  creates : Bool := false
  deriving DecidableEq, Repr

/-- A CHKPT in its step (R453): the queue, the partitions it stops, direction, host base and granules. -/
structure ChkptStep where
  qnum : Nat
  parts : Nat
  toHbm : Bool
  base : Nat
  granules : Nat
  deriving DecidableEq, Repr

/-- The kinds of a fault record (Table 17-9). -/
inductive RecordKind where
  | packet | warp | pagereq | restore | notice
  deriving DecidableEq, Repr

/-- A fault record (Table 17-6), with what is concerned: the warp slot, page request, workgroup or queue it came from. -/
structure Record where
  kind : RecordKind
  ctx : Nat
  qnum : Nat
  seq : Nat
  cause : Nat
  inner : Nat
  wh : Nat
  pc : Nat
  addr : Nat
  tagw : Nat
  detail : Nat
  grid : Nat
  wg : Nat
  core : Nat
  slot : Nat
  deriving DecidableEq, Repr

/-- States of a live update (Table 17-10). -/
inductive UpdState where
  | idle | boot | ready | quiesce | switch
  deriving DecidableEq, Repr

/-- A staged update (R456, R470, R471): its image, its window and when it was staged, the partitions in RUN and those that owe an
answer, quiesce failures and when the last state began. -/
structure Update where
  state : UpdState
  img : ImageInfo
  win : Nat
  staged : Nat
  run : Nat
  owing : Nat
  tries : Nat
  since : Nat
  deriving DecidableEq, Repr

/-- The state table's header and the sections that it holds (R455): 0 queue pointers, 1 pending records and answers, 2 pending background
produces, 3 partition layouts and tables, 4 contexts; what they contain are the fields of the state that hold it. -/
structure StateTable where
  major : Nat
  minor : Nat
  sections : List Nat
  deriving DecidableEq, Repr

/-- A host write that the complex processes, as the hub latches it (R457): an answer of EQANS with its ACT, one of FSREPLY, or a mailbox word of
a partition and its value. -/
inductive HostWrite where
  | answer (ctx seq act : Nat)
  | page (ctx seq : Nat) (decline : Bool)
  | mailbox (part word value : Nat)
  deriving DecidableEq, Repr

/-- The command processors (R455, R456): the image of each complex, if one is booted there, the active one, the state table, the update,
and host writes that the hub has latched until SWITCH ends (R457). -/
structure Command where
  queues : NatMap Queue
  /-- Mailbox word at key 8192 part + word: full, and value. -/
  mbox : NatMap (Bool × Nat)
  mboxQ : List MboxWaiter
  /-- Policy scratch word at key 256 part + 128 hypervisor + word (R420). -/
  scratch : NatMap Nat
  layouts : List LayoutStep
  chkpts : List ChkptStep
  images : List (Option ImageInfo)
  active : Nat
  table : Option StateTable
  update : Option Update
  latched : List HostWrite
  /-- The image that ran before the last SWITCH, and when it happened (R456, R472). -/
  switched : Option (Nat × Nat)
  deriving DecidableEq, Repr

/-! ### Fabric -/

/-- The two directions of a stream with a device, for a partition (R396). -/
structure Stream where
  next : Nat
  unacked : List Frame
  /-- Time of the last progress; retransmissions since. -/
  progress : Nat
  tries : Nat
  failed : Bool
  /-- The next SEQ to deliver, and since when an acknowledgement is owed. -/
  expect : Nat
  due : Option Nat
  /-- The fabric port that it is bound to. -/
  port : Nat
  deriving DecidableEq, Repr

/-- An entry of the fabric launch table (Table 15-6) with its bucket. -/
structure FlEntry where
  v : Bool
  srcPart : Nat
  srcDev : Nat
  tgtq : Nat
  rate : Nat
  key : Nat
  kdlo : Nat
  kdhi : Nat
  tokens : Nat
  deriving DecidableEq, Repr

/-- An entry of the inbound window table (R451). -/
structure WinEntry where
  v : Bool
  page : Nat
  pa : Nat
  part : Nat
  key : Nat
  r : Bool
  w : Bool
  deriving DecidableEq, Repr

/-- A fabric launch at its source (R398 to R401). -/
structure FabLaunch where
  id : Nat
  /-- ISSUED of the workgroup when it was sent (ARG of launch kinds). -/
  arg : Nat
  core : Nat
  slot : Nat
  ctx : Nat
  part : Nat
  wg : Nat
  qnum : Nat
  tagw : Nat
  targets : List Nat
  /-- Answers so far: 0 accepted, else the reason. -/
  answers : NatMap Nat
  since : Nat
  timedOut : Bool
  /-- Targets whose answer a failed stream has lost (R396). -/
  lost : List Nat
  /-- Targets whose answers have come over a stream that formed again since, so that one may be lost. -/
  doubt : List Nat := []
  /-- Committed parts not yet complete; the launch has been answered to the program. -/
  open_ : List Nat
  committed : Bool
  deriving DecidableEq, Repr

/-- The fabric interface (R395 to R405). -/
structure Fabric where
  dev : Nat
  /-- Domain table: MAC address and port mask of a device (R397). -/
  domain : NatMap (Nat × Nat)
  /-- Streams at key 8 device + partition. -/
  streams : NatMap Stream
  fltab : NatMap FlEntry
  wintab : NatMap WinEntry
  launches : List FabLaunch
  /-- The security association of each port: how often it has been renewed (R395). -/
  assoc : NatMap Nat
  /-- Frames dropped. -/
  dropped : Nat
  /-- Multiples of 10 µs at which the rate buckets have been filled (R399). -/
  refills : Nat
  deriving DecidableEq, Repr

/-! ### Policy -/

/-- A traverse image as loaded (R424, R428, R429), or the status of a refused load. -/
structure Traverse where
  words : List Nat
  qnum : Nat
  ctx : Nat
  disp : Bool
  vcode : Nat
  /-- The number of its load. -/
  load : Nat := 0
  deriving DecidableEq, Repr

/-- What PICK may place. -/
inductive Pick where
  /-- A saved workgroup, by its key. -/
  | saved (wg : Nat)
  /-- An unplaced workgroup of a grid. -/
  | grid (gid : Nat)
  deriving DecidableEq, Repr

/-- The state of a run (R418, R422): k0 to k15, the decision registers written, its writes to policy scratch by scratchKey, the loops
entered (count left, body), the program counter and the cycles used. -/
structure Run where
  k : NatMap Nat
  d : NatMap Nat
  writes : NatMap Nat
  loops : List (Nat × Nat)
  pc : Nat
  used : Nat
  deriving DecidableEq, Repr

/-- What a level of a call came to: the decision registers that it wrote, none where it takes the round-robin answer; whether it ran; the
cycles it took; and its writes to policy scratch. -/
structure LevelRun where
  d : Option (NatMap Nat)
  ran : Bool
  cycles : Nat
  writes : NatMap Nat
  deriving DecidableEq, Repr

/-- A level of a call: its level, the context or partition whose traverse it runs, and the entries of its candidates (R418). -/
structure LevelJob where
  level : Nat
  owner : Nat
  cands : List (List Nat)
  deriving DecidableEq, Repr

/-- A level that runs (R425, R427): its image as it was when the level began, with the number of that load, the cycles that allowance and
overdraft give it, and the run before its next opcode. -/
structure Running where
  job : LevelJob
  words : List Nat
  load : Nat
  budget : Nat
  run : Run
  deriving DecidableEq, Repr

/-- Who waits for the answer of an ENQ (R385, R399, R414). -/
inductive Asker where
  /-- The split of an LNCH, which waits under a number. -/
  | warp (core slot id : Nat)
  /-- A LAUNCH packet: queue, context, QRD, tag word and record. -/
  | packet (qnum ctx qrd tag ptr : Nat)
  /-- An arriving fabric launch: source device and partition, argument, and target queue. -/
  | frame (dev part arg qnum : Nat)
  deriving DecidableEq, Repr

/-- A call: what it concerns, and its candidates with their entries as they stand at its start (R412, R418). -/
inductive CallKind where
  | enq (g : Grid) (entry : List Nat) (asker : Asker)
  /-- The core, the round-robin context, and the tenant list of each context. -/
  | pick (core robin : Nat) (lists : List (Nat × List (Nat × Pick × List Nat)))
  /-- The resident workgroups with their contexts, the round-robin answer of the hypervisor level, and of the tenant level of each context. -/
  | tick (wgs : List (Nat × Nat × List Nat)) (robin : Option Nat) (robins : NatMap Nat)
  | block (wg ctx : Nat) (entry : List Nat)
  | wake (wg ctx prio : Nat) (entry : List Nat)
  /-- The workgroup and its PRIO, the plots it may go to, and the round-robin answer. -/
  | migr (wg prio : Nat) (plots : List (Nat × List Nat)) (robin : Option Nat)
  deriving DecidableEq, Repr

/-- A call on a plot's engine (R417, R418): its partition, what it is, the levels that are over, the one that runs, the cycles of those that
are over, its start, and the time of its next step: the opcode before which its run stands, or its end. -/
structure PolicyCall where
  part : Nat
  kind : CallKind
  results : List LevelRun
  running : Option Running
  cycles : Nat
  since : Nat
  ends : Nat
  deriving DecidableEq, Repr

/-- The policy engines (R417 to R429): traverses at key 8 (1024 level + owner) + point, overdrafts at key 8 of that + plot, the call that
runs on each plot's engine, and the dies that hold each line of policy scratch, as a mask (R420, R423). -/
structure Policy where
  images : NatMap Traverse
  calls : NatMap PolicyCall
  /-- Grids of LNCH instructions that wait for their ENQ, by its number. -/
  enqs : NatMap Grid := []
  lines : NatMap Nat
  overdraft : NatMap Nat
  /-- Window statistics of a workgroup on a plot, at key 8 workgroup + plot: running, and of the last window. -/
  now : NatMap WinStat
  last : NatMap WinStat
  deriving DecidableEq, Repr

/-! ### Security -/

/-- States of a key slot (Table 18-1). -/
inductive KeyState where
  | free | ord | pend | prot | zero
  deriving DecidableEq, Repr

/-- A key slot (R459): its state, owner partition, key material, and for a PEND slot its session and the time of its import. -/
structure KeySlot where
  state : KeyState
  part : Nat
  secret : Nat
  sess : Nat
  since : Nat
  deriving DecidableEq, Repr

/-- An SPDM session (R464): its partition, as a number and as the instance that has it (R474). -/
structure Session where
  part : Nat
  pinst : Nat
  secret : Nat
  done : Bool
  deriving DecidableEq, Repr

/-- The answers of the engine to its requesters (R464 to R467, R470, R476). -/
inductive ReplyKind where
  | version | capabilities | algorithms | digests | certificate | challenge | measurements | keyExchange | finish | endSession | keyImport
  | updateAck | updateNak | meterRead
  /-- A key import is refused: STALE_EVIDENCE, NO_SLOT, DEBUG (R467). -/
  | staleEvidence | noSlot | debugLocked
  /-- Any other request that is not accepted. -/
  | error
  deriving DecidableEq, Repr

/-- What the engine last answered to a requester. -/
structure Reply where
  kind : ReplyKind
  fields : List Nat
  deriving DecidableEq, Repr

/-- A die-to-stack link (R462). -/
structure Link where
  session : Nat
  /-- Failures of the current flit group; tag failures so far. -/
  fails : Nat
  failed : Bool
  deriving DecidableEq, Repr

/-- The security engine (R459 to R481). -/
structure Security where
  keys : NatMap KeySlot
  sessions : NatMap Session
  nextSession : Nat
  reply : Option Reply
  /-- Result of the last KCMD (Table 18-5). -/
  kstat : Nat
  /-- Debug nonce: value, time of creation, used. -/
  nonce : Option (Nat × Nat)
  dbgstat : Nat
  debug : Bool
  /-- Measurement blocks 4 and 5, extended (R465). -/
  meas4 : Nat
  meas5 : Nat
  /-- Fuse pairs: leading pairs that are blown, or in RECOVERY count as blown; a half pair above them; in RECOVERY, for each half pair that
  could not be completed, the number of pairs below it (R472, R473). -/
  fuses : Nat
  half : Bool
  recovery : List Nat
  halfFound : Bool
  /-- Instance numbers given so far (R474), and seconds of the timebase that the chains have taken (R476). -/
  pinst : Nat
  seconds : Nat
  /-- Sealed entries not yet fetched (R477). -/
  sealed : List (Nat × ChainEntry)
  links : NatMap Link
  lnktag : Nat
  midx : Nat
  deriving DecidableEq, Repr

/-! ### Power -/

/-- A snapshot (R491): partition counters, meters, A and F of every core, derate levels; its sources, tag and time. -/
structure Snapshot where
  counters : NatMap Nat
  meters : NatMap Nat
  allow : NatMap (Int × Int)
  derates : NatMap Nat
  src : Nat
  tag : Nat
  /-- The core whose SNAP gave the tag. -/
  tagCore : Option Nat
  time : Nat
  /-- The cluster-clock cycle of its first trigger (R492). -/
  cycle : Nat := 0
  deriving DecidableEq, Repr

/-- The power and clock controller (R483 to R493). -/
structure Power where
  scale : Nat
  watts : Nat
  cap : Nat
  boostok : Nat
  lsel : Nat
  /-- PRATE p and LPOOL p of partition number p (Table 19-2). -/
  prates : NatMap Nat
  lpools : NatMap Nat
  /-- Derate level of a stack, and open intervals at key 8 stack + partition: start and factor. -/
  derate : NatMap Nat
  opened : NatMap (Nat × Nat)
  /-- The time of the last power measurement (R486), and the multiple of 10 µs at which each stack last reported its temperature (R489). -/
  measured : Nat
  reported : NatMap Nat
  snapctl : Nat
  snapthr : Nat
  /-- The selected meter has reached SNAPTHR since they were written (R491). -/
  snapHit : Bool
  snap : Option Snapshot
  snapseq : Nat
  snapmiss : Nat
  snapidx : Nat
  deriving DecidableEq, Repr

end Sys2Proof.Machine
end

