-- ==== Sys2Proof/Machine/State.lean ====
section
/-! DEFINITION. The state of the machine as plain data, its faults and refusals, and the state after module reset
(01_machine.md R11 to R42; the state tables of every chapter; R495, R496). -/

namespace Sys2Proof.Machine

/-- Why a step stops. -/
inductive Fault where
  /-- exec was given an encoded instruction while no resident split or helper is the issuer.  No step does this: it is met
  only by calling exec directly on a state whose issuer field names nobody.  Safe. -/
  | noIssuer
  deriving DecidableEq, Repr

/-- Why an instruction has no meaning here. -/
inductive Refusal where
  /-- The instruction is not modelled (no arm of exec says so at present).  Safe. -/
  | notModelled (mnemonic : String)
  deriving DecidableEq, Repr

/-- What an issue costs (R16, R151, R152): timing class, issued-instruction units, and lane cycles. -/
structure Cost where
  cls : TimingClass
  units : Nat
  lanes : Nat
  /-- The allowance weight of the non-uniform form (R484), and whether the issue debits the uniform rate. -/
  weight : Nat
  uni : Bool
  /-- A float or exchange instruction, whose flags merge as it completes (R207). -/
  fp : Bool := false
  deriving DecidableEq, Repr

/-- No cost: what is not an issue, and an unused encoding, which charges nothing. -/
def Cost.free : Cost := { cls := .c0, units := 0, lanes := 0, weight := 0, uni := false }

/-- What an issue debits from the allowance: a uniform one a quarter of its weight, rounded up (R484). -/
def Cost.debit (c : Cost) : Nat := if c.uni then (c.weight + 3) / 4 else c.weight

/-- Who is issuing: core, warp slot, split or helper, what the issue costs, and whether the last exec found that it cannot
issue or resume yet. -/
structure Issuer where
  core : Nat
  slot : Nat
  who : Who
  cost : Cost
  stalled : Bool
  deriving DecidableEq, Repr

/-- Where an uncorrectable soft error strikes: a file register or a latch entry of a warp, a private register of a helper, a scratchpad
word, a line of L1 or of a buffer, an accumulator element, or a word of the weight store. -/
inductive SoftError where
  | reg (core slot tid n : Nat)
  | latch (core slot tid k : Nat)
  | priv (core slot lane n : Nat)
  | scratch (core word : Nat)
  | line (core n : Nat)
  | buffer (core n : Nat)
  | element (core key : Nat)
  | weight (name ver tidx key : Nat)
  deriving DecidableEq, Repr

/-- One entry of the model's own agenda: what happens next.  The manual leaves the interleaving of the agents, the arrival of
outside events and the passing of time open; the agenda resolves them as data (assumption 2). -/
inductive Sched where
  /-- A machine event of the opcode table. -/
  | event (i : Instr)
  /-- One issue of a core. -/
  | issue (core : Nat)
  /-- The scratchpad words of a core that the matrix array next reads from their staged copies (R346). -/
  | staged (core : Nat) (words : List Nat)
  /-- The order in which the threads of the next atomic are performed (R114). -/
  | order (tids : List Nat)
  /-- Timebase nanoseconds pass with no core cycle. -/
  | time (ns : Nat)
  /-- The scratchpad word at which the dispatcher places the next allocation, where it may (R265). -/
  | place (word : Nat)
  /-- Bytes that a partition's requests move at the HBM controllers, which depend on what L2 holds (R474). -/
  | traffic (part rd wr : Nat)
  /-- An uncorrectable soft error strikes a stored word (R189, R272, R349, R376). -/
  | softError (e : SoftError)
  /-- Sub-arrays of a core's matrix array fail their self-test from now on (R345). -/
  | defect (core mask : Nat)
  /-- An L2 directory drops its record of a monitored line to make room (R175, R497). -/
  | monitorDrop (line : Nat)
  /-- The flit group in flight on a die-to-stack link passes its tag, so the next failure is another group's first (R462). -/
  | linkPass (link : Nat)
  /-- A link cannot take a new session (R462). -/
  | linkFail (link : Nat)
  /-- A request went over a failed link (R462): the n-th outstanding load or atomic of a slot, the n-th draining entry, pending RED, copy command or
  weight stream of a core, or the fetch or the page walk of a warp's next instruction. -/
  | linkLoad (core slot n : Nat)
  | linkDrain (core n : Nat)
  | linkRed (core n : Nat)
  | linkCopy (core n : Nat)
  | linkStream (core n : Nat)
  | linkRequest (core slot : Nat)
  deriving DecidableEq, Repr

/-- What the L2 directories record for a line (R124). -/
structure DirLine where
  holders : List Nat
  /-- Plots whose many flag is set, as a mask. -/
  many : Nat
  tag : Option (Nat × Scope)
  deriving DecidableEq, Repr

/-- A remote scratchpad access on its way to its target (R252): who sent it, what it does, the target's verdict once given,
and whether the sender's verdict over all threads has let it go ahead. -/
structure Remote where
  id : Nat
  cid : Nat
  core : Nat
  slot : Nat
  who : Who
  t : Nat
  target : Nat
  /-- Its first word; negative where a handle's offset goes below word 0, which no target accepts (R252). -/
  word : Int
  words : Nat
  gen : Nat
  ctx : Nat
  kind : MemKind
  data : List Byte
  dests : List (Nat × RegLoc)
  verdict : Option (Option Cause)
  go : Bool
  deriving DecidableEq, Repr

/-- A host-coherent access outstanding at the host port (R249): a load, an atomic, or a drained buffer entry. -/
structure HostReq where
  cid : Nat
  core : Nat
  slot : Nat
  who : Who
  part : Nat
  kind : MemKind
  accs : List Access
  entry : Option WcbEntry
  after : List Nat
  /-- The scope of an LDA of a host-coherent page, which acquires as it returns (R126). -/
  acquire : Option Scope
  deriving DecidableEq, Repr

/-- A multicast word on its way to a target's crossbar port, which accepts it and then writes it (R311). -/
structure McastWord where
  core : Nat
  wg : Nat
  accepted : Bool
  cmd : Nat
  part : Nat
  ctx : Nat
  target : Nat
  word : Nat
  gen : Nat
  /-- The bytes of the word that the box holds. -/
  data : NatMap Byte
  deriving DecidableEq, Repr

/-- A version of a weight set in the store or in HBM (R359 to R365): its content, the publish epoch at which it became current,
the key material it was encrypted under (R364), whether an HBM-resident range is ready, the bytes of that range as they were then, the
queue whose WPROG still writes it, and stored words that hold an uncorrectable soft error (by tensor, then the key of the word: the model's
own record of such errors, R376). -/
structure StoredVersion where
  v : WeightVersion
  published : Option Nat
  token : Nat
  ready : Bool
  image : List Host.Cell
  prog : Option Nat
  bad : List (Nat × Nat)
  deriving DecidableEq, Repr

/-- A line as CHKPT has written it to the safe tier (R453): the physical line, the token of its key, its plain bytes, and the
ciphertext that was written. -/
structure TierLine where
  line : Nat
  token : Nat
  plain : List Byte
  cipher : List Byte
  deriving DecidableEq, Repr

/-- A slot of a context's binding table (R367). -/
structure Binding where
  bound : Option (Nat × Nat)
  gen : Nat
  deriving DecidableEq, Repr

/-- The whole device. -/
structure State where
  cores : NatMap Core
  grids : NatMap Grid
  wgs : NatMap Workgroup
  ctxs : NatMap Context
  parts : NatMap Partition
  plots : NatMap Plot
  hbm : List Host.Cell
  /-- The key token each HBM line was last written under (R461). -/
  lineKeys : NatMap Nat
  hostMem : List Host.Cell
  dir : NatMap DirLine
  remotes : List Remote
  hostReqs : List HostReq
  mcasts : List McastWord
  fabOps : List FabOp
  /-- Lines that CHKPT has written to the safe tier: the model's own record of what their ciphertext stands for (R453). -/
  tier : List TierLine
  /-- Partition counters at key 256 part + counter (R135). -/
  counters : NatMap Nat
  /-- Meters at key 64 part + meter (R474). -/
  meters : NatMap Nat
  weights : List StoredVersion
  /-- The publish epoch (R362). -/
  wepoch : Nat
  /-- Binding slot n of a context at key 16 ctx + n (R367). -/
  binds : NatMap Binding
  /-- Fault records not yet written to their ring, oldest first, and records that await an answer (R442 to R445). -/
  recQ : List Record
  recOpen : List Record
  /-- The count of records of each context (R442). -/
  recSeq : NatMap Nat
  /-- Timebase nanoseconds since module reset. -/
  elapsed : Nat
  /-- Sub-arrays whose self-test fails, as a mask at key core: the model's own record of physical defects (R345). -/
  defects : NatMap Nat
  /-- Staged words the array is to read, at key core: the model's own choice record (R346). -/
  stagedPick : NatMap (List Nat)
  /-- Thread order of the next atomic: the model's own choice record (R114). -/
  tidOrder : List Nat
  /-- Where the dispatcher places the next allocation: the model's own choice record (R265). -/
  placePick : Option Nat
  /-- Grids accepted so far: the next acceptance number (Table 16-5). -/
  gridSeq : Nat
  /-- Group g of partition p at key 64 p + g (Table 15-4). -/
  groups : NatMap Group
  arrivals : List Arrival
  cmd : Command
  fab : Fabric
  pol : Policy
  sec : Security
  pwr : Power
  issuer : Option Issuer
  /-- Warps that have a withheld split in the current cycle of their core (R485), by 4 core + slot: set by the step. -/
  withheld : List Nat
  agenda : List Sched
  cursor : Nat
  fresh : Nat
  /-- The next number for a command or a buffer entry. -/
  nextId : Nat
  deriving DecidableEq, Repr

/-- A core right after module reset (R253, R483): no warp, carve code 1, everything else empty. -/
def Core.initial : Core :=
  { warps := [], carve := 1, carveTo := 1, wcb := [], epoch := 0, drains := [], l1 := [], scratch := [], scrBad := [], allocs := [],
    gen := 0, tlb := [], loadsPending := [], storesPending := [], memQ := [], copyQ := [], matQ := [], hold := none, fence := 0, acc := [], accBad := [],
    accStatus := [], accOwner := [], accReleasing := [], accPrev := [], staged := [], streamQ := [], lchQ := [], prickings := [],
    rqry := [], stages := [], cooling := [], run := none, allow := 8192, floor := 0, debit := 0, clock := 0 }

/-- A plot right after module reset. -/
def Plot.initial : Plot :=
  { sclr := false, cls := .clean, leaving := false, fuse := 0, pmem := 0, mem := [], memCtx := none, lastCtx := none, lastId := none,
    withheld := 0, withdrawn := 0, ticks := 0, picks := [], pickTime := 0, picked := [] }

/-- The firmware image that both complexes boot at reset (R495). -/
def bootImage : ImageInfo := { sv := 0, signed := true, digest := 0, major := 1, minor := 0 }

/-- The state table of the complex that runs an image (R455). -/
def imageTable (i : ImageInfo) : StateTable := { major := i.major, minor := i.minor, sections := i.sections }

/-- The command processors after reset (R495): complex A active, B holding the same image, no queue. -/
def Command.initial : Command :=
  { queues := [], mbox := [], mboxQ := [], scratch := [], layouts := [], chkpts := [], images := [some bootImage, some bootImage], active := 0,
    table := some (imageTable bootImage), update := none, latched := [], switched := none }

/-- The fabric interface after reset. -/
def Fabric.initial : Fabric :=
  { dev := 0, domain := [], streams := [], fltab := [], wintab := [], launches := [], assoc := [], dropped := 0, refills := 0 }

/-- The security engine after reset (R459, R495): every key slot zero. -/
def Security.initial : Security :=
  { keys := [], sessions := [], nextSession := 0, reply := none, kstat := 0, nonce := none, dbgstat := 0, debug := false, meas4 := 0, meas5 := 0,
    fuses := 0, half := false, recovery := [], halfFound := false, pinst := 0, seconds := 0, sealed := [], links := [], lnktag := 0, midx := 0 }

/-- The power and clock controller after reset (R495, Table 19-2). -/
def Power.initial : Power :=
  { scale := 65536, watts := 0, cap := 3400, boostok := 0, lsel := 0, prates := [], lpools := [], derate := [], opened := [], measured := 0, reported := [], snapctl := 0, snapthr := 0, snapHit := false,
    snap := none,
    snapseq := 0, snapmiss := 0, snapidx := 0 }

/-- The machine right after module reset (R495, R496). -/
def State.reset : State :=
  { cores := [], grids := [], wgs := [], ctxs := [], parts := [], plots := [], hbm := [], lineKeys := [], hostMem := [],
    dir := [], remotes := [], hostReqs := [], mcasts := [], fabOps := [], tier := [], counters := [], meters := [], weights := [], wepoch := 0, binds := [], recQ := [], recOpen := [], recSeq := [],
    elapsed := 0, defects := [], stagedPick := [], tidOrder := [], placePick := none, gridSeq := 0, groups := [], arrivals := [],
    cmd := Command.initial, fab := Fabric.initial, pol := { images := [], calls := [], lines := [], overdraft := [], now := [], last := [] },
    sec := Security.initial, pwr := Power.initial, issuer := none, withheld := [], agenda := [], cursor := 0, fresh := 0, nextId := 0 }

end Sys2Proof.Machine
end

