-- ==== Sys2Proof/Machine/Access.lean ====
section
/-! DEFINITION. Named access to the parts of the state: cores, warps, strands, splits, contexts, counters, and the physical
memories (R4, R116, R461, R496). -/

namespace Sys2Proof.Machine

/-- A core of the device by its device-wide number (R12). -/
def State.core (s : State) (c : Nat) : Core := mgetD s.cores c Core.initial

def State.setCore (s : State) (c : Nat) (k : Core) : State := { s with cores := mset s.cores c k }

def State.modCore (s : State) (c : Nat) (f : Core → Core) : State := s.setCore c (f (s.core c))

def State.warp? (s : State) (c slot : Nat) : Option Warp := mget? (s.core c).warps slot

def Core.setWarp (k : Core) (slot : Nat) (w : Warp) : Core := { k with warps := mset k.warps slot w }

/-- Change a resident warp; nothing where the slot holds none. -/
def State.modWarp (s : State) (c slot : Nat) (f : Warp → Warp) : State :=
  match s.warp? c slot with
  | some w => s.modCore c (fun k => k.setWarp slot (f w))
  | none => s

def State.plot (s : State) (p : Nat) : Plot := mgetD s.plots p Plot.initial

def State.modPlot (s : State) (p : Nat) (f : Plot → Plot) : State := { s with plots := mset s.plots p (f (s.plot p)) }

def State.modCtx (s : State) (x : Nat) (f : Context → Context) : State :=
  match mget? s.ctxs x with
  | some k => { s with ctxs := mset s.ctxs x (f k) }
  | none => s

def State.modWg (s : State) (g : Nat) (f : Workgroup → Workgroup) : State :=
  match mget? s.wgs g with
  | some k => { s with wgs := mset s.wgs g (f k) }
  | none => s

def State.modGrid (s : State) (g : Nat) (f : Grid → Grid) : State :=
  match mget? s.grids g with
  | some k => { s with grids := mset s.grids g (f k) }
  | none => s

/-- The key of a workgroup: its grid's acceptance number and its linear index. -/
def wgKey (grid index : Nat) : Nat := grid * 2 ^ 32 + index

/-- The cluster (plot) and die (parcel) of a core (R12). -/
def plotOf (core : Nat) : Nat := core / 256
def parcelOf (core : Nat) : Nat := core / 512
/-- The other core of a pair (R12, R344). -/
def pairOfCore (core : Nat) : Nat := if core % 2 = 0 then core + 1 else core - 1

/-- The partition that owns a plot, if any (R22). -/
def State.partOfPlot (s : State) (plot : Nat) : Option Nat :=
  (s.parts.find? (fun e => hasBit e.2.plots plot)).map Prod.fst

/-- The partition counters (R135, R271, R299, R330, R358, R381, R411). -/
inductive Counter where
  | fpubs | widen | agedr | sdrop | pgreq | pgdecl | hosterr | rgrant | rcut | rfrel | rover | cpxfer | cpzero | cperr
  | cpspawn | mxops | mxpair | mxsat | mxfence | mxdrop | wsxfer | wsdisc | wsrefuse | wsecc | lnacc | lnfull | joinsw
  | flref | faberr | gbdrop | pcalls | pover | pinval | prefuse | pwdraw | prrall
  deriving DecidableEq, Repr

def Counter.num : Counter → Nat
  | .fpubs => 0 | .widen => 1 | .agedr => 2 | .sdrop => 3 | .pgreq => 4 | .pgdecl => 5 | .hosterr => 6 | .rgrant => 7
  | .rcut => 8 | .rfrel => 9 | .rover => 10 | .cpxfer => 11 | .cpzero => 12 | .cperr => 13 | .cpspawn => 14 | .mxops => 15
  | .mxpair => 16 | .mxsat => 17 | .mxfence => 18 | .mxdrop => 19 | .wsxfer => 20 | .wsdisc => 21 | .wsrefuse => 22
  | .wsecc => 23 | .lnacc => 24 | .lnfull => 25 | .joinsw => 26 | .flref => 27 | .faberr => 28 | .gbdrop => 29
  | .pcalls => 30 | .pover => 31 | .pinval => 32 | .prefuse => 33 | .pwdraw => 34 | .prrall => 35

/-- Add to a 64-bit counter of a partition (R135). -/
def State.count (s : State) (part : Nat) (c : Counter) (n : Nat) : State :=
  { s with counters := mput 0 s.counters (256 * part + c.num) ((mgetD s.counters (256 * part + c.num) 0 + n) % 2 ^ 64) }

def State.counter (s : State) (part : Nat) (c : Counter) : Nat := mgetD s.counters (256 * part + c.num) 0

/-- Count for the partition that owns the plot of a core (R358). -/
def State.countAt (s : State) (core : Nat) (c : Counter) (n : Nat) : State :=
  match s.partOfPlot (plotOf core) with
  | some p => s.count p c n
  | none => s

/-- The meters of a partition (Table 18-4), in table order. -/
inductive Meter where
  | mbp4 | mbp8 | mbp12 | mbp16 | vop0 | vop1 | vop2 | vop3 | iiuc | hbmrd | hbmwr | wsrd | hostin | hostout | fabin | fabout
  | derates | sclrs
  deriving DecidableEq, Repr

/-- Add to a meter of a partition (R474). -/
def State.meter (s : State) (part : Nat) (m : Meter) (n : Nat) : State :=
  { s with meters := mput 0 s.meters (64 * part + m.ctorIdx) ((mgetD s.meters (64 * part + m.ctorIdx) 0 + n) % 2 ^ 64) }

/-- Meter work for the partition that owns the plot of a core (R474). -/
def State.meterAt (s : State) (core : Nat) (m : Meter) (n : Nat) : State :=
  match s.partOfPlot (plotOf core) with
  | some p => s.meter p m n
  | none => s

/-- The partition whose granules hold an address. -/
def State.partOfPa (s : State) (pa : Nat) : Option Nat := (s.parts.find? (fun e => hasBit e.2.granules (pa / 2 ^ 30))).map Prod.fst

/-- Meter bytes of a partition's host-port requests, toward and from the device (R474); other spaces count none. -/
def State.meterHost (s : State) (part : Option Nat) (sp : Space) (toward from' : Nat) : State :=
  match part with
  | some p => if sp = .host then (s.meter p .hostin toward).meter p .hostout from' else s
  | none => s

/-- The context of a warp. -/
def State.ctxOf (s : State) (w : Warp) : Option Context := mget? s.ctxs w.ctx

/-- What tells keys apart: the key pair that a slot holds, 0 where it holds none (R459, R461).  The same pair imported again is the same key. -/
def State.keyToken (s : State) (key : Nat) : Nat := match mget? s.sec.keys key with
  | some k => 1 + k.secret
  | none => 0

/-- One HBM byte as a reader under a key sees it: zero in the zeroed state, the plain byte under the key it was written
with, and otherwise what decryption under the other key gives (R461, R496). -/
def State.hbmByte (s : State) (key a : Nat) : Byte :=
  match mget? s.lineKeys (a / 128) with
  | none => 0
  | some tok => if tok = s.keyToken key then readByte s.hbm a
      else Config.otherKeyByte tok (s.keyToken key) a (readBytes s.hbm (a / 16 * 16) 16)

/-- Read HBM bytes under a key, the lowest address first. -/
def State.hbmRead (s : State) (key a : Nat) : Nat → List Byte
  | 0 => []
  | n + 1 => s.hbmByte key a :: s.hbmRead key (a + 1) n

/-- Bring a line under a key before a write of part of it: the rest of the line keeps what a reader under that key saw
(R461, R496). -/
def State.hbmClaim (s : State) (key line : Nat) : State :=
  match mget? s.lineKeys line with
  | none => { s with lineKeys := mset s.lineKeys line (s.keyToken key) }
  | some tok =>
    if tok = s.keyToken key then s
    else { s with hbm := writeBytes s.hbm (line * 128) (s.hbmRead key (line * 128) 128),
                  lineKeys := mset s.lineKeys line (s.keyToken key) }

/-- Write one HBM byte under a key. -/
def State.hbmPut (s : State) (key a : Nat) (b : Byte) : State :=
  let s := s.hbmClaim key (a / 128)
  { s with hbm := writeByte s.hbm a b }

/-- Write HBM bytes under a key. -/
def State.hbmWrite (s : State) (key a : Nat) : List Byte → State
  | [] => s
  | b :: bs => (s.hbmPut key a b).hbmWrite key (a + 1) bs

/-- The offset of a byte address in the plot-memory window (R269). -/
def plotWindow : Nat := 0x01FFFFFFFF000000

/-- Read bytes of a memory space at its coherence point (R123, R136): HBM under the page's key, host memory, or the memory
of a plot. -/
def State.memRead (s : State) (plot : Nat) (sp : Space) (key a n : Nat) : List Byte :=
  match sp with
  | .hbm => s.hbmRead key a n
  | .host => readBytes s.hostMem a n
  | .plot => readBytes (s.plot plot).mem a n
  | .fabric | .scratch => List.replicate n 0

/-- Write bytes of a memory space at its coherence point. -/
def State.memWrite (s : State) (plot : Nat) (sp : Space) (key a : Nat) (bs : List Byte) : State :=
  match sp with
  | .hbm => s.hbmWrite key a bs
  | .host => { s with hostMem := writeBytes s.hostMem a bs }
  | .plot => s.modPlot plot (fun p => { p with mem := writeBytes p.mem a bs })
  | .fabric | .scratch => s

/-- A line of a space as one number, for the directory and the monitors. -/
def lineNum (sp : Space) (a : Nat) : Nat :=
  (match sp with
    | .hbm => 0 | .host => 1 | .fabric => 2 | .plot => 3 | .scratch => 4) * 2 ^ 50 + a / 128

/-- The scratchpad word of a core. -/
def Core.word (k : Core) (n : Nat) : Word := mgetD k.scratch n 0

def Core.setWord (k : Core) (n : Nat) (v : Word) : Core :=
  { k with scratch := mput 0 k.scratch n v, scrBad := k.scrBad.filter (· != n) }

/-- One byte of a core's scratchpad. -/
def Core.scrByte (k : Core) (a : Nat) : Byte := BitVec.ofNat 8 ((k.word (a / 4)).toNat / 2 ^ (8 * (a % 4)))

def Core.setScrByte (k : Core) (a : Nat) (b : Byte) : Core :=
  k.setWord (a / 4) (BitVec.ofNat 32 (setBits (k.word (a / 4)).toNat (8 * (a % 4)) 8 b.toNat))

def Core.scrRead (k : Core) (a : Nat) : Nat → List Byte
  | 0 => []
  | n + 1 => k.scrByte a :: k.scrRead (a + 1) n

def Core.scrWrite (k : Core) (a : Nat) : List Byte → Core
  | [] => k
  | b :: bs => (k.setScrByte a b).scrWrite (a + 1) bs

/-- The live allocation of a workgroup on a core (R251). -/
def Core.allocOf (k : Core) (wg : Nat) : Option Alloc :=
  k.allocs.find? (fun a => a.wg == wg && a.released.isNone)

end Sys2Proof.Machine
end

