-- ==== Sys2Proof/Machine/Translate.lean ====
section
/-! DEFINITION. Address translation: the page-table walk, its causes, and the translation caches (10_memory_engine.md R240 to
R244, R269). -/

namespace Sys2Proof.Machine

/-- What an access asks of a page (R243). -/
inductive AccessKind where
  | load | store | atomic | fetch
  deriving DecidableEq, Repr

/-- A physical 4 KiB page lies in the partition's HBM granules (R22, R243). -/
def inGranules (p : Partition) (pa : Nat) : Bool := decide (pa < Config.hbmBytes) && hasBit p.granules (pa / 2 ^ 30)

/-- The page-table entry at an index of a table (R241).  Tables are read under the context's key (assumption 10). -/
def State.pte (s : State) (key table idx : Nat) : Nat := leNat (s.hbmRead key (table + 8 * idx) 8)

/-- Page size of a leaf as a shift (Table 10-2). -/
def sizeShift : Nat → Nat
  | 0 => 12 | 1 => 16 | 2 => 21 | 3 => 26 | _ => 30

/-- The level at which a leaf of a size stands (R242). -/
def sizeLevel : Nat → Nat
  | 0 => 0 | 1 => 0 | 2 => 1 | 3 => 1 | _ => 2

/-- A table entry is well formed (R242). -/
def tableEntryOk (p : Partition) (e : Nat) : Bool :=
  bitsOf e 1 4 == 0 && bitsOf e 9 3 == 0 && bitsOf e 52 12 == 0 && bitsOf e 5 3 == 0 && inGranules p (bitsOf e 12 40 * 4096)

/-- A leaf entry is well formed at its level (R242). -/
def leafOk (level e : Nat) : Bool :=
  bitsOf e 1 4 == 0 && decide (bitsOf e 9 3 ≤ 4) && sizeLevel (bitsOf e 9 3) == level &&
    bitsOf e 12 40 * 4096 % 2 ^ sizeShift (bitsOf e 9 3) == 0

/-- What one entry of a table says: the walk ends in a cause, ends on a leaf with its page shift, or goes on at the next
table (R241, R242). -/
inductive WalkStep where
  | stop (c : Cause)
  | leaf (e shift : Nat)
  | next (table : Nat)
  deriving DecidableEq, Repr

/-- Read the entry of one level (R242). -/
def State.walkStep (s : State) (p : Partition) (key va table level : Nat) : WalkStep :=
  let e := s.pte key table (bitsOf va (12 + 9 * level) 9)
  if hasBit e 0 = false then .stop .pageAbsent
  else if hasBit e 8 then
    if level ≤ 2 && leafOk level e then .leaf e (sizeShift (bitsOf e 9 3)) else .stop .pagePerm
  else if tableEntryOk p e then
    if level = 0 then .stop .pagePerm else .next (bitsOf e 12 40 * 4096)
  else .stop .pagePerm

/-- Walk from a table of the given level down (R241, R242); level 4 is the root's.  The answer is the leaf entry and its
page shift, or the cause. -/
def State.walkFrom (s : State) (p : Partition) (key va table : Nat) : Nat → Except Cause (Nat × Nat)
  | 0 =>
    match s.walkStep p key va table 0 with
    | .stop c => .error c
    | .leaf e shift => .ok (e, shift)
    | .next _ => .error .pagePerm
  | l + 1 =>
    match s.walkStep p key va table (l + 1) with
    | .stop c => .error c
    | .leaf e shift => .ok (e, shift)
    | .next t => s.walkFrom p key va t l

/-- The walk of a context (R241, R242). -/
def State.walk (s : State) (x : Context) (va : Nat) : Except Cause (Nat × Nat) :=
  match mget? s.parts x.part with
  | none => .error .pagePerm
  | some p => if inGranules p x.root then s.walkFrom p x.key va x.root 4 else .error .pagePerm

/-- The checks on the leaf that ends a walk, in order (R243). -/
def leafCause (s : State) (x : Context) (kind : AccessKind) (e pa : Nat) : Option Cause :=
  let r := hasBit e 5
  let w := hasBit e 6
  let f := hasBit e 7
  let allowed := match kind with
    | .load => r | .store => w | .atomic => r && w | .fetch => f
  let tgt := bitsOf e 52 2
  let inside := match mget? s.parts x.part with
    | some p => inGranules p pa
    | none => false
  let share := match mget? s.parts x.part with
    | some p => !x.prot && p.shkey != 0 && bitsOf e 54 10 == p.shkey
    | none => false
  if !allowed then some .pagePerm
  else if tgt = 3 || (tgt = 0 && !inside) then some .pagePerm
  else if bitsOf e 54 10 = 0 then some .pageKey
  else if bitsOf e 54 10 ≠ x.key && !share then some .pageKey
  else none

/-- A translation: the space, its physical address and the key id of the page. -/
structure Target where
  space : Space
  pa : Nat
  key : Nat
  deriving DecidableEq, Repr

/-- The target that a leaf gives an address. -/
def leafTarget (e shift va : Nat) : Target :=
  { space := match bitsOf e 52 2 with
      | 0 => .hbm
      | 1 => .host
      | _ => .fabric,
    pa := bitsOf e 12 40 * 4096 + va % 2 ^ shift, key := bitsOf e 54 10 }

/-- A cached translation of a core that covers an address (R244). -/
def Core.tlbHit (k : Core) (ctx va : Nat) : Option TlbEntry :=
  k.tlb.find? (fun e => e.ctx == ctx && e.page == va / 2 ^ e.shift)

/-- Translate an address for an access: the cached translation if the core holds one, else a walk (R240 to R244).  The
plot-memory window needs no translation (R269). -/
def State.translate (s : State) (core ctx : Nat) (kind : AccessKind) (va : Nat) : Except Cause Target :=
  if va ≥ 2 ^ 57 then .error .pagePerm
  else if va ≥ plotWindow then
    if kind = .fetch then .error .pagePerm
    else if va - plotWindow < (s.plot (plotOf core)).pmem * 2 ^ 22
      then .ok { space := .plot, pa := va - plotWindow, key := 0 }
      else .error .scratchRange
  else match mget? s.ctxs ctx with
    | none => .error .pagePerm
    | some x =>
      match (s.core core).tlbHit ctx va with
      | some t =>
        match leafCause s x kind t.leaf (leafTarget t.leaf t.shift va).pa with
        | some c => .error c
        | none => .ok (leafTarget t.leaf t.shift va)
      | none =>
        match s.walk x va with
        | .error c => .error c
        | .ok (e, shift) =>
          match leafCause s x kind e (leafTarget e shift va).pa with
          | some c => .error c
          | none => .ok (leafTarget e shift va)

/-- The capacity of a core's translation caches: 64 and 1,024 entries, kept as one list, newest first (R244). -/
def tlbCapacity : Nat := 1088

/-- Keep the translation that a walk found (R244). -/
def State.tlbFill (s : State) (core ctx va : Nat) : State :=
  match mget? s.ctxs ctx with
  | none => s
  | some x =>
    if va ≥ plotWindow then s
    else match (s.core core).tlbHit ctx va with
      | some _ => s
      | none =>
        match s.walk x va with
        | .error _ => s
        | .ok (e, shift) =>
          s.modCore core (fun k =>
            { k with tlb := ({ ctx := ctx, page := va / 2 ^ shift, leaf := e, shift := shift } :: k.tlb).take tlbCapacity })

/-- Translate for a context with no core: the command processor, the dispatcher (R241 to R243). -/
def State.translateCtx (s : State) (ctx : Nat) (kind : AccessKind) (va : Nat) : Except Cause Target :=
  if va ≥ plotWindow then .error .pagePerm
  else match mget? s.ctxs ctx with
    | none => .error .pagePerm
    | some x =>
      match s.walk x va with
      | .error c => .error c
      | .ok (e, shift) =>
        match leafCause s x kind e (leafTarget e shift va).pa with
        | some c => .error c
        | none => .ok (leafTarget e shift va)

/-- Read bytes of a context's address space as a load of the command processor would: byte by byte through the page tables;
the first cause ends it.  Host memory that fails the read gives all ones (R249), and a fabric-window page reads as zero (assumptions 40
and 75). -/
def State.ctxRead (s : State) (ctx va : Nat) : Nat → Except Cause (List Byte)
  | 0 => .ok []
  | n + 1 =>
    match s.translateCtx ctx .load va with
    | .error c => .error c
    | .ok t =>
      match s.ctxRead ctx (va + 1) n with
      | .error c => .error c
      | .ok r => .ok ((if t.space = .host ∧ Config.hostFails s.fresh = true then [BitVec.allOnes 8] else s.memRead 0 t.space t.key t.pa 1) ++ r)

/-- The first cause that a write of n bytes would meet. -/
def State.ctxWriteCause (s : State) (ctx va : Nat) : Nat → Option Cause
  | 0 => none
  | n + 1 =>
    match s.translateCtx ctx .store va with
    | .error c => some c
    | .ok _ => s.ctxWriteCause ctx (va + 1) n

end Sys2Proof.Machine
end

