-- ==== Sys2Proof/Machine/Operands.lean ====
section
/-! DEFINITION. Operand forms: the issue context, the threads of an issue, register resolution, and reading and writing
registers, predicates, latch entries and flags (02_words_registers.md R59 to R72, 11_recruiter.md Table 11-3). -/

namespace Sys2Proof.Machine

/-- The context of an issue: who issues, the warp (the recruiter's warp for a helper), the split-table entry or the helper,
and the pricking of the panel pair if one is open. -/
structure Iss where
  core : Nat
  slot : Nat
  who : Who
  cost : Cost
  w : Warp
  split : Option Split
  pk : Option Pricking
  hel : Option Helper
  /-- Its issue has been charged already: it comes out of an engine's queue. -/
  charged : Bool := false
  deriving DecidableEq, Repr

/-- The issue context of a split or helper of a slot, if it is resident. -/
def State.issFor (s : State) (core slot : Nat) (who : Who) (cost : Cost) : Option Iss :=
  match s.warp? core slot with
  | none => none
  | some w =>
    let pk := mget? (s.core core).prickings (slot / 2)
    match who with
    | .split e =>
      match mget? w.splits e with
      | some sp => some { core := core, slot := slot, who := who, cost := cost, w := w, split := some sp, pk := pk, hel := none }
      | none => none
    | .helper l =>
      match pk with
      | some p =>
        if p.slot = slot then
          match mget? p.helpers l with
          | some h => some { core := core, slot := slot, who := who, cost := cost, w := w, split := none, pk := pk, hel := some h }
          | none => none
        else none
      | none => none

/-- The issue context of a state, if its issuer is resident. -/
def State.iss (s : State) : Option Iss :=
  match s.issuer with
  | none => none
  | some i => s.issFor i.core i.slot i.who i.cost

/-- A strand with no thread: what an absent strand reads as. -/
def Strand.idle : Strand := { pc := 0, active := 0, stack := [], guardP := 0, guardInv := false, fmt := 0x0F100000 }

def Warp.strand (w : Warp) (l : Nat) : Strand := (w.strands[l]?).getD Strand.idle

def Warp.modStrand (w : Warp) (l : Nat) (f : Strand → Strand) : Warp := { w with strands := modAt w.strands l f }

/-- Is thread t in the thread mask of its strand? -/
def Warp.activeBit (w : Warp) (t : Nat) : Bool := (w.strand (t / 4)).active.getLsbD (t % 4)

/-- A thread that has not exited: it is in its strand's mask or in a mask of its stack (R148). -/
def Warp.liveBit (w : Warp) (t : Nat) : Bool :=
  w.activeBit t || (w.strand (t / 4)).stack.any (fun e => e.mask.getLsbD (t % 4))

/-- The active threads of a split, in rising order (R143). -/
def Warp.activeOf (w : Warp) (sp : Split) : List Nat :=
  (upto 64).filter (fun t => hasBit sp.strands (t / 4) && w.activeBit t)

/-- The threads of an issue: the active threads of the split, or those of its replay mask (R245); a helper's one thread
(R278). -/
def Iss.tids (c : Iss) : List Nat :=
  match c.who, c.split with
  | .helper l, _ => [4 * l]
  | .split _, some sp =>
    match sp.replay with
    | some m => (c.w.activeOf sp).filter (hasBit m)
    | none => c.w.activeOf sp
  | .split _, none => []

/-- The strands of the issuing split. -/
def Iss.lanes (c : Iss) : List Nat :=
  match c.split with
  | some sp => bitsList 16 sp.strands
  | none => []

/-- The program counter of the issue. -/
def Iss.pc (c : Iss) : DWord :=
  match c.hel, c.lanes with
  | some h, _ => h.pc
  | none, l :: _ => (c.w.strand l).pc
  | none, [] => 0

/-- sr.fmt as thread t's instruction reads it (R70, R278). -/
def Iss.fmt (c : Iss) (t : Nat) : Word :=
  match c.hel with
  | some h => h.fmt
  | none => (c.w.strand (t / 4)).fmt

/-- A predicate of a warp's thread: p0 reads true (R69). -/
def Warp.pred (w : Warp) (t p : Nat) : Bool := p == 0 || hasBit (mgetD w.preds t 1) p

/-- A predicate of a thread of the issue. -/
def Iss.pred (c : Iss) (t p : Nat) : Bool :=
  match c.hel with
  | some h => p == 0 || hasBit h.preds p
  | none => c.w.pred t p

/-- The guard of a thread: the selected predicate, inverted or not (R45, R156). -/
def Iss.guard (c : Iss) (t : Nat) : Bool :=
  match c.hel with
  | some h => (c.pred t h.guardP) != h.guardInv
  | none => (c.pred t (c.w.strand (t / 4)).guardP) != (c.w.strand (t / 4)).guardInv

/-- The executing threads of an instruction with the given g bit (R45). -/
def Iss.exec (c : Iss) (g : Bool) : List Nat := c.tids.filter (fun t => !g || c.guard t)

/-- The thread whose a and b are resolved where the lowest guarded thread's are read: the lowest active one where the guard is false in
every thread, for decode checks then too (R48). -/
def Iss.reader (c : Iss) (g : Bool) : List Nat := if (c.exec g).isEmpty then c.tids.take 1 else (c.exec g).take 1

/-- The thread that a uniform instruction reads its sources from (R16). -/
def srcTid (u : Bool) (t : Nat) : Nat := if u then t / 4 * 4 else t

/-- Resolution of one word of a window field in a helper (Table 11-3). -/
def helperWord (pk : Pricking) (n : Nat) : Except Cause RegLoc :=
  if n < 16 then .ok (.priv n)
  else if n < 16 + pk.shareLen then .ok (.frozen (pk.shareBase + (n - 16)))
  else .error .window

/-- Collect the answers of a list, the first error first. -/
def allOk {α : Type} : List (Except Cause α) → Except Cause (List α)
  | [] => .ok []
  | .error c :: _ => .error c
  | .ok a :: r =>
    match allOk r with
    | .error c => .error c
    | .ok l => .ok (a :: l)

/-- The index register ixk of a thread (Table 2-12). -/
def Warp.ix (w : Warp) (t k : Nat) : Word := mgetD w.ixs (4 * t + k) 0

/-- Resolve an operand of `n` registers in thread t (R60 to R65, Table 11-3).  No file has more than 256 registers (R59). -/
def Iss.resolve (c : Iss) (t : Nat) (o : Opnd) (n : Nat) : Except Cause (List RegLoc) :=
  match c.hel, c.pk, o with
  | some _, some pk, .win k => allOk ((upto n).map (fun i => helperWord pk (k.val + i)))
  | some _, none, .win _ => .error .window
  | _, _, .vz => .ok (List.replicate n .zero)
  | some _, _, .latch _ => .error .illegalOp
  | some _, _, .ix _ => .error .illegalOp
  | none, _, .win k =>
    if c.w.wbase + k.val + n ≤ Nat.min 256 c.w.fileSize then .ok ((upto n).map (fun i => .file (c.w.wbase + k.val + i)))
    else .error .window
  | none, _, .latch k => .ok [.latch k.val]
  | none, _, .ix k =>
    let v := (c.w.ix t k.val).toNat
    let base := bitsOf v 24 8
    let lim := bitsOf v 19 5
    let idx := bitsOf v 0 8
    if idx + n ≤ lim + 1 && (base + idx) % n == 0 && decide (base + idx + n ≤ 256) then .ok ((upto n).map (fun i => .file (base + idx + i)))
    else .error .regIndex

/-- The word a location holds for thread t (R62, R66, R278). -/
def Iss.readLoc (c : Iss) (t : Nat) : RegLoc → Word
  | .file n => mgetD c.w.regs (256 * t + n) 0
  | .latch k =>
    match mget? c.w.latches (4 * t + k) with
    | some e => if e.life = 0 then 0 else e.val
    | none => 0
  | .zero => 0
  | .priv n =>
    match c.hel with
    | some h => mgetD h.regs n 0
    | none => 0
  | .frozen n =>
    match c.pk with
    | some p => mgetD c.w.regs (256 * p.tid + n) 0
    | none => 0
  | .index _ | .special _ => 0

/-- The words of a resolved operand as one value, the low word first (R63). -/
def wordsNat : List Word → Nat
  | [] => 0
  | w :: r => w.toNat + 2 ^ 32 * wordsNat r

/-- The words of a value, the low word first. -/
def natWords : Nat → Nat → List Word
  | 0, _ => []
  | n + 1, v => BitVec.ofNat 32 v :: natWords n (v / 2 ^ 32)

/-- The value of an operand of `n` registers in thread t; zero where it does not resolve. -/
def Iss.read (c : Iss) (t : Nat) (o : Opnd) (n : Nat) : Nat :=
  match c.resolve t o n with
  | .ok ls => wordsNat (ls.map (c.readLoc t))
  | .error _ => 0

/-- A 32-bit operand. -/
def Iss.read32 (c : Iss) (t : Nat) (o : Opnd) : Word := BitVec.ofNat 32 (c.read t o 1)

/-- A 64-bit operand. -/
def Iss.read64 (c : Iss) (t : Nat) (o : Opnd) : DWord := BitVec.ofNat 64 (c.read t o 2)

/-- The cause that an operand's resolution meets in some thread, the lowest code first (R48, R159). -/
def Iss.opCause (c : Iss) (ts : List Nat) (o : Opnd) (n : Nat) : Option Cause :=
  let cs := ts.filterMap (fun t => match c.resolve t o n with
    | .error e => some e
    | .ok _ => none)
  if cs.contains .illegalOp then some .illegalOp
  else if cs.contains .regIndex then some .regIndex
  else cs.head?

/-- Operands to resolve, in their order d, a, b, x, each with the threads in which it is resolved (R48). -/
abbrev Checks := List (List Nat × Opnd × Nat)

/-- The first cause over operands in their order (R48).  A helper's forbidden operand kinds come first, as a decode check. -/
def Iss.checksCause (c : Iss) (xs : Checks) : Option Cause :=
  let cs := xs.filterMap (fun x => c.opCause x.1 x.2.1 x.2.2)
  if cs.contains .illegalOp then some .illegalOp else cs.head?

/-- The same with one list of threads for every operand. -/
def Iss.opsCause (c : Iss) (ts : List Nat) (os : List (Opnd × Nat)) : Option Cause := c.checksCause (os.map (fun o => (ts, o)))

/-- The threads whose registers the sources are read from. -/
def Iss.srcTids (c : Iss) (u : Bool) (ts : List Nat) : List Nat := (ts.map (srcTid u)).dedup

/-- Operands that resolve in every active thread. -/
def Iss.checkAll (c : Iss) (ops : List (Opnd × Nat)) : Checks := ops.map (fun o => (c.tids, o))

/-- Would writing a location of thread t break the frozen share range (R281)? -/
def Iss.frozenLoc (c : Iss) (t : Nat) : RegLoc → Bool
  | .frozen _ => true
  | .file n =>
    match c.pk with
    | some p => c.hel.isNone && p.slot == c.slot && p.tid == t && decide (p.shareBase ≤ n) && decide (n < p.shareBase + p.shareLen)
    | none => false
  | _ => false

/-- SHARED_WRITE for a destination of the executing threads (R281). -/
def Iss.sharedWrite (c : Iss) (ts : List Nat) (o : Opnd) (n : Nat) : Bool :=
  ts.any (fun t => match c.resolve t o n with
    | .ok ls => ls.any (c.frozenLoc t)
    | .error _ => false)

/-- One effect on the registers of a thread. -/
inductive Eff where
  | reg (t : Nat) (l : RegLoc) (v : Word)
  | pred (t p : Nat) (b : Bool)
  | flags (t f : Nat)
  | index (t k : Nat) (v : Word)
  deriving DecidableEq, Repr

/-- Set one predicate bit; a write to p0 is ignored (R69). -/
def predSet (m p : Nat) (b : Bool) : Nat := if p = 0 then m else setBits m p 1 (if b then 1 else 0)

/-- One effect on a warp.  A latch entry is written with a life of the instruction itself and two more (R66). -/
def Warp.eff (w : Warp) : Eff → Warp
  | .reg t (.file n) v => { w with regs := mput 0 w.regs (256 * t + n) v, bad := w.bad.filter (· != 256 * t + n) }
  | .reg t (.latch k) v =>
    { w with latches := mset w.latches (4 * t + k) { val := v, life := 3 }, latchBad := w.latchBad.filter (· != 4 * t + k) }
  | .reg _ _ _ => w
  | .pred t p b => { w with preds := mput 1 w.preds t (predSet (mgetD w.preds t 1) p b) }
  | .flags t f => { w with fpst := mput 0 w.fpst t (mgetD w.fpst t 0 ||| f) }
  | .index t k v => { w with ixs := mput 0 w.ixs (4 * t + k) v }

/-- One effect on a helper (R278). -/
def Helper.eff (h : Helper) : Eff → Helper
  | .reg _ (.priv n) v => { h with regs := mput 0 h.regs n v, bad := h.bad.filter (· != n) }
  | .reg _ _ _ => h
  | .pred _ p b => { h with preds := predSet h.preds p b }
  | .flags _ f => { h with fpst := h.fpst ||| f }
  | .index _ _ _ => h

/-- Change the pricking of a panel pair. -/
def Core.modPricking (k : Core) (pair : Nat) (f : Pricking → Pricking) : Core :=
  match mget? k.prickings pair with
  | some p => { k with prickings := mset k.prickings pair (f p) }
  | none => k

/-- Change a helper of the pricking of a slot's panel pair. -/
def State.modHelper (s : State) (core slot lane : Nat) (f : Helper → Helper) : State :=
  s.modCore core (fun k => k.modPricking (slot / 2) (fun p =>
    match mget? p.helpers lane with
    | some h => { p with helpers := mset p.helpers lane (f h) }
    | none => p))

/-- Apply effects to the registers of whoever issued, the first first (R62: every source has been read before). -/
def State.effs (s : State) (core slot : Nat) (who : Who) (es : List Eff) : State :=
  match who with
  | .split _ => s.modWarp core slot (fun w => es.foldl Warp.eff w)
  | .helper l => s.modHelper core slot l (fun h => es.foldl Helper.eff h)

/-- Core cycles of read latency: 2 in the fast partition, 6 in the slow one, 1 for latch entries, index registers and special
registers (R68). -/
def RegLoc.latency : RegLoc → Nat
  | .file n => if n < 32 then 2 else 6
  | .priv _ => 2
  | _ => 1

/-- The thread and location that an effect writes; a predicate is held with its stage (R28). -/
def Eff.target : Eff → Option (Nat × RegLoc)
  | .reg _ .zero _ => none
  | .reg t l _ => some (t, l)
  | .flags t _ => some (t, .special .fpst)
  | .index t k _ => some (t, .index k)
  | .pred _ _ _ => none

/-- Gather the threads of each location. -/
def addTarget (t : Nat) (l : RegLoc) : List (RegLoc × Nat) → List (RegLoc × Nat)
  | [] => [(l, 2 ^ t)]
  | e :: r => if e.1 = l then (l, e.2 ||| 2 ^ t) :: r else e :: addTarget t l r

/-- A dependent instruction waits for the cycles that pass before a write and for the read latency of what was written (R68, R149, R153). -/
def State.coolAt (s : State) (core slot after : Nat) (ls : List (RegLoc × Nat)) : State :=
  if ls.isEmpty then s
  else s.modCore core (fun k =>
    { k with cooling := k.cooling ++ ls.map (fun e => { slot := slot, loc := e.1, tids := e.2, left := after + e.1.latency - 1 }) })

/-- The same for what an issue writes at the end of its execute stages; as a wait ends there are none to pass. -/
def State.cool (s : State) (c : Iss) (resumed : Bool) (ls : List (RegLoc × Nat)) : State :=
  s.coolAt c.core c.slot (if resumed then 0 else c.cost.lanes + 3) ls

/-- What some effects write. -/
def targetsOf (es : List Eff) : List (RegLoc × Nat) := (es.filterMap Eff.target).foldl (fun l e => addTarget e.1 e.2 l) []

/-- Does the issuer write as a wait ends, after its lane cycles? -/
def Iss.parkedAt (c : Iss) : Bool := c.charged || match c.split, c.hel with
  | some sp, _ => sp.status != .ready
  | none, some h => h.wait.isSome
  | none, none => false

/-- Apply the effects of an issue, whose targets then have their latency to pass (R68). -/
def State.effsBy (s : State) (c : Iss) (es : List Eff) : State :=
  (s.effs c.core c.slot c.who es).cool c c.parkedAt (targetsOf es)

/-- The threads that read a special register of the issuer: a helper's one, the strands of a split, or the whole warp. -/
def Iss.specialTids (c : Iss) (r : SpecReg) : Nat := match c.who with
  | .helper l => 2 ^ (4 * l)
  | .split _ => if r = .fmt ∨ r = .fpst then maskOf (c.lanes.flatMap (fun l => (upto 4).map (fun i => 4 * l + i))) else 2 ^ 64 - 1

/-- A float or exchange instruction merges its flags as it completes: what reads or writes sr.fpst waits for it (R207). -/
def State.coolFlags (s : State) (c : Iss) (resumed : Bool) : State :=
  if c.cost.fp then s.cool c resumed [(.special .fpst, c.specialTids .fpst)] else s

/-- A special register of the issuer has been written (R68). -/
def State.coolSpecial (s : State) (c : Iss) (r : SpecReg) : State := s.cool c c.parkedAt [(.special r, c.specialTids r)]

/-- The effects that write a value of `n` registers to an operand of thread t. -/
def Iss.writeEffs (c : Iss) (t : Nat) (o : Opnd) (n v : Nat) : List Eff :=
  match c.resolve t o n with
  | .ok ls => (ls.zip (natWords n v)).map (fun e => .reg t e.1 e.2)
  | .error _ => []

/-- The effect of a hold: the value of operand a goes to a latch entry (R66). -/
def holdEff (h : Hold) (t : Nat) (v : Word) : List Eff :=
  match h with
  | some k => [.reg t (.latch k.val) v]
  | none => []

/-- What a slot still has to wait for (R149): register words to be written, and locations whose latency is not over. -/
structure Pend where
  locs : List (Nat × RegLoc)
  cool : List (RegLoc × Nat)
  deriving DecidableEq, Repr

/-- Register words that an outstanding load, host read, remote read or queued command of a slot will still write (R237,
R149), and what is not yet readable (R68). -/
def State.pendingLocs (s : State) (core slot : Nat) : Pend :=
  { locs := ((s.core core).loadsPending.filter (fun l => l.slot == slot)).flatMap
      (fun l => l.writes.map (fun e => (e.1, e.2.1)) ++ l.accs.flatMap (fun a => a.dests)) ++
    (s.remotes.filter (fun r => r.core == core && r.slot == slot)).flatMap (fun r => r.dests) ++
    (s.hostReqs.filter (fun r => r.core == core && r.slot == slot)).flatMap (fun r => r.accs.flatMap (fun a => a.dests)) ++
    (s.fabOps.filter (fun r => r.core == core && r.slot == slot)).flatMap (fun r => r.dests) ++
    ((s.core core).memQ.filter (fun m => m.slot == slot)).flatMap (fun m => m.accs.flatMap (fun a => a.dests)),
    cool := ((s.core core).cooling.filter (fun x => x.slot == slot)).map (fun x => (x.loc, x.tids)) }

/-- Is a command of a slot still to write a register: a load, an atomic, or a remote read (R237)? -/
def State.writing (s : State) (core slot cid : Nat) : Bool :=
  (s.core core).loadsPending.any (fun x => x.slot == slot && x.cid == cid) ||
  (s.core core).memQ.any (fun x => x.slot == slot && x.cid == cid) ||
  s.remotes.any (fun x => x.core == core && x.slot == slot && x.cid == cid && !x.dests.isEmpty) ||
  s.hostReqs.any (fun x => x.core == core && x.slot == slot && x.cid == cid && x.accs.any (fun a => !a.dests.isEmpty)) ||
  s.fabOps.any (fun x => x.core == core && x.slot == slot && x.cid == cid && !x.dests.isEmpty)

/-- Is a location of a thread among them? -/
def Pend.has (p : Pend) (t : Nat) (l : RegLoc) : Bool := p.locs.contains (t, l) || p.cool.any (fun e => e.1 == l && hasBit e.2 t)

def Pend.isEmpty (p : Pend) : Bool := p.locs.isEmpty && p.cool.isEmpty

/-- Does resolving operands in the given threads have to wait for an index register (R68)? -/
def Pend.hasIx (p : Pend) (ts : List Nat) (os : List (Opnd × Nat)) : Bool :=
  if p.cool.isEmpty then false
  else os.any (fun o => match o.1 with
    | .ix k => ts.any (fun t => p.has t (.index k.val))
    | _ => false)

/-- Does the resolution of operands have to wait for an index register (R68)? -/
def Pend.hasIxOf (p : Pend) (xs : Checks) : Bool := xs.any (fun x => p.hasIx x.1 [x.2])

/-- Does reading operands in the given threads have to wait (R149)? -/
def Iss.pendingRead (c : Iss) (pend : Pend) (ts : List Nat) (os : List (Opnd × Nat)) : Bool :=
  if pend.isEmpty then false
  else pend.hasIx ts os || os.any (fun o => ts.any (fun t => match c.resolve t o.1 o.2 with
    | .ok ls => ls.any (fun l => match l, c.pk with
        | .frozen n, some p => pend.has p.tid (.file n)
        | l, _ => pend.has t l)
    | .error _ => false))

/-- Does a location of thread t carry an uncorrectable soft error? -/
def Iss.badLoc (c : Iss) (t : Nat) : RegLoc → Bool
  | .file n => c.w.bad.contains (256 * t + n)
  | .latch k => c.w.latchBad.contains (4 * t + k)
  | .priv n => (match c.hel with
    | some h => h.bad.contains n
    | none => false)
  | .frozen n => (match c.pk with
    | some p => c.w.bad.contains (256 * p.tid + n)
    | none => false)
  | .zero | .index _ | .special _ => false

/-- Does a source word carry an uncorrectable soft error (R189, R208, R221)? -/
def Iss.badRead (c : Iss) (ts : List Nat) (os : List (Opnd × Nat)) : Bool :=
  if c.w.bad.isEmpty && c.w.latchBad.isEmpty && c.hel.isNone then false
  else os.any (fun o => ts.any (fun t => match c.resolve t o.1 o.2 with
    | .ok ls => ls.any (c.badLoc t)
    | .error _ => false))

end Sys2Proof.Machine
end

