-- ==== Sys2Proof/Machine/Perform.lean ====
section
/-! DEFINITION. A write as it is performed at its coherence point: the directory's record of the line, the monitors it fires, and what a
fused L1 shows of it; and the writes of the command processors (05_memory_model.md R123, R124, R131, 06_sequencer.md R175,
10_memory_engine.md R268). -/

namespace Sys2Proof.Machine

/-- The number of a line for the directory and the monitors; each plot has its own plot memory (R269). -/
def lineKey (plot : Nat) (sp : Space) (pa : Nat) : Nat := lineNum sp pa + (if sp = .plot then plot * 2 ^ 40 else 0)

/-- Is the plot of a core fused (R268)? -/
def State.fused (s : State) (core : Nat) : Bool := (s.plot (plotOf core)).fuse == 1

/-- Is an L1 line the global one of this line and key? -/
def L1Line.isGlobal (l : L1Line) (key line : Nat) : Bool := l.line == line && l.key == key && l.owner.isNone

/-- Replace bytes of a line's data from an offset. -/
def patch (data : List Byte) (off : Nat) : List Byte → List Byte
  | [] => data
  | b :: bs => patch (setAt data off b) (off + 1) bs

/-- Replace bytes of the global L1 line of a core. -/
def Core.l1Patch (k : Core) (key pa : Nat) (bs : List Byte) : Core :=
  { k with l1 := k.l1.map (fun l => if l.isGlobal key (pa / 128) then { l with data := patch l.data (pa % 128) bs } else l) }

/-- A performed write reaches the shared L1 line of every fused plot: an acquire at pair or plot scope keeps the line, and writes are observed
in one order by every agent (R130, R131, R268, assumption 101). -/
def State.fusedWrite (s : State) (sp : Space) (key pa : Nat) (bs : List Byte) : State :=
  if sp = .hbm then
    (s.plots.filter (fun e => e.2.fuse == 1)).foldl (fun (s : State) e =>
      let core := e.1 * 256 + pa / 128 % 256
      if (mget? s.cores core).isSome then s.modCore core (fun k => k.l1Patch key pa bs) else s) s
  else s

/-- The directory entry of a line. -/
def State.dirLine (s : State) (key : Nat) : DirLine := mgetD s.dir key { holders := [], many := 0, tag := none }

def State.setDir (s : State) (key : Nat) (d : DirLine) : State :=
  { s with dir := mput { holders := [], many := 0, tag := none } s.dir key d }

/-- The lowest unclaimed chunk (R283). -/
def Pricking.nextChunk (p : Pricking) : Option Nat := firstBelow p.chunks.length (fun j => p.chunks[j]? == some .unclaimed)

/-- The cluster-clock cycle of a core's time: 20 of its units of 1/36 ns (R283, R152). -/
def Core.clusterCycle (k : Core) : Nat := k.clock / 20

/-- The start of a core's current cycle, in units of 1/36 ns, at a time: whole cycles that it has missed were idle ones of class C0 (R152,
R153). -/
def Core.start (k : Core) (t : Nat) : Nat := k.clock + (t - k.clock) / 10 * 10

/-- The claim that is served next: of the lowest cycle, and in it of the lowest lane, once that cycle is over, so that every claim of it has
come (R283). -/
def Pricking.nextClaim (p : Pricking) (now : Nat) : Option Nat :=
  (p.claims.foldl (fun (m : Option (Nat × Nat)) e => if now ≤ e.2 then m else match m with
    | some x => if e.2 < x.2 then some e else m
    | none => some e) none).map Prod.fst

/-- Serve claims (R283): each takes the lowest unclaimed chunk. -/
def Pricking.serve (p : Pricking) (now : Nat) : Nat → Pricking
  | 0 => p
  | n + 1 =>
    match p.nextClaim now with
    | none => p
    | some lane =>
      let j := p.nextChunk
      ({ p with claims := mdel p.claims lane, served := mset p.served lane j,
                chunks := match j with
                  | some j => setAt p.chunks j (.held lane)
                  | none => p.chunks }).serve now n

/-- Release requests go to helpers of a pricking (R276, R288, R291, R297): claims of earlier cycles have been served, and an RNEXT of a helper
in the cycle of its request resolves as release. -/
def Pricking.ask (p : Pricking) (now : Nat) (who : Nat → Helper → Bool) (f : Release → Release) : Pricking :=
  let p := p.serve now p.claims.length
  { p with helpers := p.helpers.map (fun e => (e.1, if who e.1 e.2 then { e.2 with release := f e.2.release } else e.2)),
           claims := p.claims.filter (fun x => match mget? p.helpers x.1 with
             | some h => !who x.1 h
             | none => true) }

/-- When the owner of a lent lane wakes, a release request goes to the helper on it (R276): the lanes of the splits of a slot
that satisfy a test. -/
def State.askLanes (s : State) (core slot : Nat) (lanes : Nat) : State :=
  s.modCore core (fun k => k.modPricking (slot / 2) (fun p =>
    p.ask k.clusterCycle (fun l h => h.lentFrom == slot && hasBit lanes l && h.release.owner.isNone) (fun r => { r with owner := some 0 })))

/-- The strands of a warp's splits that are parked by MWAIT. -/
def Warp.mwaitLanes (w : Warp) : Nat :=
  w.splits.foldl (fun m e => match e.2.status with
    | .parked (.mwait _ _) => m ||| e.2.strands
    | _ => m) 0

/-- Fire one monitor of a warp (R175). -/
def Monitor.fire (m : Monitor) : Monitor := { m with fired := true, armed := false }

/-- Has a saved warp a monitor armed on a line? -/
def Saved.watches (sv : Saved) (key : Nat) : Bool := sv.warps.any (fun w => w.2.monitors.any (fun m => m.armed && m.line == key))

/-- The monitors of saved warps stay armed: one that fires makes a workgroup that BLOCK saved ready (R497). -/
def State.fireSaved (s : State) (key : Nat) : State :=
  { s with wgs := s.wgs.map (fun e => (e.1, { e.2 with saved := e.2.saved.map (fun sv =>
      if sv.watches key then
        let sv := { sv with warps := sv.warps.map (fun w => (w.1, { w.2 with monitors := w.2.monitors.map (fun m => if m.armed && m.line == key then m.fire else m) })) }
        if sv.why = .block ∧ sv.ready = false ∧ sv.failed = none then { sv with ready := true, wantWake := true, since := s.elapsed } else sv
      else sv) })) }

/-- Fire the monitors armed on a line, whoever wrote it (R175); an MWAIT that a fired bit wakes asks its lent lanes back
(R276). -/
def State.fireLine (s : State) (key : Nat) : State :=
  let s := if s.wgs.any (fun e => e.2.saved.isSome) then s.fireSaved key else s
  (mkeys s.cores).foldl (fun s core =>
    (mkeys (s.core core).warps).foldl (fun s slot =>
      match s.warp? core slot with
      | none => s
      | some w =>
        if w.monitors.any (fun m => m.armed && m.line == key) then
          (s.modWarp core slot (fun w => { w with monitors := w.monitors.map (fun m => if m.armed && m.line == key then m.fire else m) })).askLanes
            core slot w.mwaitLanes
        else s) s) s

/-- A write is performed at its coherence point (R123): the bytes of one line, the monitors on it, and the release tag, which
an STL's write sets and any other clears (R124). -/
def State.performBytes (s : State) (plot : Nat) (sp : Space) (key line : Nat) (m : NatMap Byte) (tag : Option (Nat × Scope)) : State :=
  let s := m.foldl (fun s e => (s.memWrite plot sp key (line * 128 + e.1) [e.2]).fusedWrite sp key (line * 128 + e.1) [e.2]) s
  let dk := lineKey plot sp (line * 128)
  let d := s.dirLine dk
  (s.setDir dk { d with tag := tag }).fireLine dk

/-- A write of contiguous bytes by an engine at the coherence point (R137, R374), line by line as one write each. -/
def State.performWrite (s : State) (plot : Nat) (sp : Space) (key pa : Nat) (bs : List Byte) : State :=
  let s := s.memWrite plot sp key pa bs
  let s := bs.zipIdx.foldl (fun (s : State) e => s.fusedWrite sp key (pa + e.2) [e.1]) s
  let lines := ((upto bs.length).map (fun i => (pa + i) / 128)).dedup
  lines.foldl (fun s l =>
    let dk := lineKey plot sp (l * 128)
    (s.setDir dk { s.dirLine dk with tag := none }).fireLine dk) s

/-! ### The command processors' accesses -/

/-- Does a range of a context's addresses touch host-coherent memory? -/
def State.ctxHost (s : State) (kind : AccessKind) (ctx va n : Nat) : Bool :=
  n != 0 && (upto (n / 4096 + 2)).any (fun i => match s.translateCtx ctx kind (Nat.min (va + 4096 * i) (va + n - 1)) with
    | .ok t => t.space == .host
    | .error _ => false)

/-- The partition of a context. -/
def State.ctxPart (s : State) (ctx : Nat) : Nat := match mget? s.ctxs ctx with
  | some x => x.part
  | none => 0

/-- Reads of a context's addresses, each an address and a size, have used the answer of the host (R249, R474): HOSTERR counts those that the
host failed, else HOSTIN their bytes (assumption 75). -/
def State.noteReads (s : State) (ctx : Nat) (rs : List (Nat × Nat)) : State :=
  let hs := rs.filter (fun r => s.ctxHost .load ctx r.1 r.2)
  if hs.isEmpty then s
  else
    let t : State := { s with fresh := s.fresh + 1 }
    if Config.hostFails s.fresh then t.count (s.ctxPart ctx) .hosterr hs.length
    else t.meterHost (some (s.ctxPart ctx)) .host ((hs.map Prod.snd).foldl (· + ·) 0) 0

/-- Write bytes of a context's address space, every byte of which translates, line by line; `bad` where the host fails them (R249). -/
def State.ctxPutBy (s : State) (bad : Bool) (ctx va : Nat) (bs : List Byte) : Nat → State
  | 0 => s
  | n + 1 =>
    if bs.isEmpty then s
    else
      let k := 128 - va % 128
      let piece := bs.take k
      let s := match s.translateCtx ctx .store va with
        | .error _ => s
        | .ok t => if bad && t.space == Space.host then s
          else (s.performWrite 0 t.space t.key t.pa piece).meterHost (some (s.ctxPart ctx)) t.space 0 piece.length
      s.ctxPutBy bad ctx (va + k) (bs.drop k) n

/-- Write bytes of a context's address space, every byte of which translates.  Host memory that fails the write is unchanged, and HOSTERR
counts (R249, assumption 75). -/
def State.ctxPut (s : State) (ctx va : Nat) (bs : List Byte) : State :=
  if s.ctxHost .store ctx va bs.length then
    let bad := Config.hostFails s.fresh
    let t : State := { s with fresh := s.fresh + 1 }
    (if bad then t.count (s.ctxPart ctx) .hosterr 1 else t).ctxPutBy bad ctx va bs (bs.length / 128 + 2)
  else s.ctxPutBy false ctx va bs (bs.length / 128 + 2)

/-- Write bytes of a context's address space: nothing is written where some byte meets a cause. -/
def State.ctxWrite (s : State) (ctx va : Nat) (bs : List Byte) : Except Cause State :=
  match s.ctxWriteCause ctx va bs.length with
  | some c => .error c
  | none => .ok (s.ctxPut ctx va bs)

end Sys2Proof.Machine
end

