-- ==== Sys2Proof/Machine/Records.lean ====
section
/-! DEFINITION. Fault records, their rings and their sequence numbers, and snapshots (17_command_processors.md R442 to R445,
19_power_clock_controller.md R491, R492). -/

namespace Sys2Proof.Machine

/-! ### Snapshots -/

/-- The sources of a snapshot, in the order of SNAPCTL (Table 19-2). -/
inductive SnapSrc where
  | snap | host | meter | fault
  deriving DecidableEq, Repr

/-- The cluster-clock cycle of a trigger, one of 5/9 ns (R11): by the time of the core that fires it, else by the timebase. -/
def State.triggerCycle (s : State) : Option Nat → Nat
  | some c => (s.core c).start (36 * s.elapsed) / 20
  | none => 36 * s.elapsed / 20

/-- Latch a snapshot (R491). -/
def State.latch (s : State) (src : SnapSrc) (tag : Nat) (core : Option Nat) : State :=
  let x : Snapshot :=
    { counters := s.counters, meters := s.meters, allow := s.cores.map (fun e => (e.1, (e.2.allow, e.2.floor))), derates := s.pwr.derate,
      src := 2 ^ src.ctorIdx, tag := tag, tagCore := core, time := s.elapsed, cycle := s.triggerCycle core }
  { s with pwr := { s.pwr with snap := some x, snapseq := (s.pwr.snapseq + 1) % 2 ^ 32 } }

/-- A further trigger of the snapshot that has just been latched (R492): its source bit, and its tag by the rule. -/
def Snapshot.join (x : Snapshot) (src : SnapSrc) (tag : Nat) (core : Option Nat) : Snapshot :=
  let bit := setBits x.src src.ctorIdx 1 1
  match src, core, x.tagCore with
  | .snap, some c, some d => if c < d then { x with src := bit, tag := tag, tagCore := core } else { x with src := bit }
  | .snap, _, none => { x with src := bit, tag := tag, tagCore := core }
  | .host, _, none => if hasBit x.src 1 then { x with src := bit } else { x with src := bit, tag := tag }
  | _, _, _ => { x with src := bit }

/-- A trigger of the snapshot (R491, R492): an enabled source latches one, or joins one of the same cluster-clock cycle, or is lost. -/
def State.trigger (s : State) (src : SnapSrc) (tag : Nat) (core : Option Nat) : State :=
  if !hasBit s.pwr.snapctl src.ctorIdx then s
  else match s.pwr.snap with
    | none => s.latch src tag core
    | some x =>
      if x.cycle = s.triggerCycle core then { s with pwr := { s.pwr with snap := some (x.join src tag core) } }
      else { s with pwr := { s.pwr with snapmiss := s.pwr.snapmiss + 1 } }

/-! ### Records -/

/-- A record that names no warp, packet or page. -/
def Record.blank : Record :=
  { kind := .notice, ctx := 0, qnum := 0, seq := 0, cause := 0, inner := 0, wh := 0, pc := 0, addr := 0, tagw := 0, detail := 0,
    grid := 0, wg := 0, core := 0, slot := 0 }

/-- Does a kind of record require an answer through EQANS (Table 17-9)? -/
def RecordKind.answered : RecordKind → Bool
  | .packet | .warp | .restore => true
  | .pagereq | .notice => false

/-- The KIND code of a record (Table 17-9). -/
def RecordKind.code (k : RecordKind) : Nat := k.ctorIdx + 1

/-- The sequence number that the next record of a context takes, from 1 (R442). -/
def State.nextSeq (s : State) (ctx : Nat) : Nat := mgetD s.recSeq ctx 0 + 1

/-- The queue whose exception ring a record goes to (R443): its own queue while that is in use, else the lowest of the context. -/
def State.ringOf (s : State) (r : Record) : Option Nat :=
  match mget? s.cmd.queues r.qnum with
  | some q => if q.ctx = r.ctx then some r.qnum else (s.cmd.queues.find? (fun e => e.2.ctx == r.ctx)).map Prod.fst
  | none => (s.cmd.queues.find? (fun e => e.2.ctx == r.ctx)).map Prod.fst

/-- The bits of a record (Table 17-6). -/
def Record.bits (r : Record) (qnum : Nat) : Nat :=
  r.seq % 2 ^ 32 + r.kind.code * 2 ^ 32 + r.cause % 256 * 2 ^ 40 + r.inner % 256 * 2 ^ 48 + (if r.kind.answered then 2 ^ 56 else 0) +
    qnum % 1024 * 2 ^ 64 + r.ctx % 1024 * 2 ^ 74 + r.wh % 2 ^ 13 * 2 ^ 96 + r.pc % 2 ^ 64 * 2 ^ 128 + r.addr % 2 ^ 64 * 2 ^ 192 +
    r.tagw % 2 ^ 32 * 2 ^ 256 + r.detail % 2 ^ 32 * 2 ^ 288

def State.modQueue (s : State) (n : Nat) (f : Queue → Queue) : State :=
  match mget? s.cmd.queues n with
  | some q => { s with cmd := { s.cmd with queues := mset s.cmd.queues n (f q) } }
  | none => s

/-- Is an exception ring full (R445)? -/
def Queue.full (q : Queue) : Bool := decide (2 ^ q.eqlog ≤ (q.eqwr + 2 ^ 32 - q.eqrd) % 2 ^ 32)

/-- A page request that has been sent is counted (R271). -/
def State.countRequest (s : State) (r : Record) : State :=
  match r.kind, mget? s.ctxs r.ctx with
  | .pagereq, some x => s.count x.part .pgreq 1
  | _, _ => s

/-- Write a record into a ring (R442, R445); none where the ring is full or the write meets a translation cause. -/
def State.ringWrite (s : State) (n : Nat) (r : Record) : Option State :=
  match mget? s.cmd.queues n with
  | none => none
  | some q =>
    if q.full then none
    else match s.ctxWrite q.ctx (q.eqbase + 64 * (q.eqwr % 2 ^ q.eqlog)) (leBytes 64 (r.bits n)) with
      | .error _ => none
      | .ok s =>
        let s := s.modQueue n (fun q => { q with eqwr := (q.eqwr + 1) % 2 ^ 32, ringFault := false })
        some (if r.kind = .notice then s else ({ s with recOpen := s.recOpen ++ [r] } : State).countRequest r)

/-- Mark a ring whose write met a translation cause (R445). -/
def State.markRing (s : State) (n : Nat) : State := s.modQueue n (fun q => if q.full then q else { q with ringFault := true })

/-- Write the records that wait for their rings, each ring in order (R445). -/
def flushRecs (stuck : List Nat) : List Record → State → State × List Record
  | [], s => (s, [])
  | r :: rest, s =>
    match s.ringOf r with
    | none =>
      let t := flushRecs stuck rest s
      (t.1, r :: t.2)
    | some n =>
      if stuck.contains n then
        let t := flushRecs stuck rest s
        (t.1, r :: t.2)
      else match s.ringWrite n r with
        | some s => flushRecs stuck rest s
        | none =>
          let t := flushRecs (n :: stuck) rest (s.markRing n)
          (t.1, r :: t.2)

/-- Try the records that wait, but for rings whose last write met a translation cause. -/
def State.flush (s : State) : State :=
  let t := flushRecs ((s.cmd.queues.filter (fun e => e.2.ringFault)).map Prod.fst) s.recQ s
  { t.1 with recQ := t.2 }

/-- Software writes EQRD, QRESET or TLBINV for a context: the writes of its rings are tried again (R445). -/
def State.retryRings (s : State) (ctx : Nat) : State :=
  ({ s with cmd := { s.cmd with queues := s.cmd.queues.map (fun e => (e.1, if e.2.ctx = ctx then { e.2 with ringFault := false } else e.2)) } } : State).flush

/-- A NOTICE (R445): written at once, or dropped and counted in EQLOST. -/
def State.notice (s : State) (r : Record) : State :=
  let r := { r with kind := .notice, seq := s.nextSeq r.ctx }
  match s.ringOf r with
  | none => s
  | some n =>
    match s.ringWrite n r with
    | some s => { s with recSeq := mset s.recSeq r.ctx r.seq }
    | none => s.modQueue n (fun q => { q with eqlost := if q.eqlost < 65535 then q.eqlost + 1 else q.eqlost })

/-- Raise a record (R442, R445): it takes the next number of its context and is written, or waits for its ring.  A WARP or RESTORE
record triggers a snapshot (R491). -/
def State.post (s : State) (r : Record) : State :=
  if r.kind = .notice then s.notice r
  else
    let n := s.nextSeq r.ctx
    let s := { s with recSeq := mset s.recSeq r.ctx n, recQ := s.recQ ++ [{ r with seq := n }] }.flush
    if r.kind = .warp ∨ r.kind = .restore then s.trigger .fault 0 none else s

end Sys2Proof.Machine
end

