-- ==== Sys2Proof/Machine/Ops.lean ====
section
/-! DEFINITION. How an issue ends: charging it, ageing latch entries, advancing, parking, stalling, and taking an exception or
returning from one (06_sequencer.md R146 to R151, R157 to R160, R184; 11_recruiter.md R286, R287). -/

namespace Sys2Proof.Machine

/-- The outcome of exec. -/
abbrev Result := Host.Outcome State Fault Refusal

/-- Run the meaning of an encoded instruction for whoever issues. -/
def withIss (s : State) (k : Iss → State) : Result :=
  match s.iss with
  | some c => .next (k c)
  | none => .fault .noIssuer

/-- Is this the further trial of an instruction at which the split is parked (R162)? -/
def Iss.resumed (c : Iss) : Option Nat :=
  match c.split, c.hel with
  | some sp, _ =>
    match sp.status with
    | .parked (.instr n) => some n
    | .parked (.mwait _ _) => some 0
    | .parked (.woken _) => some 0
    | .parked (.barw _ _ _ _ _) => some 0
    | .parked (.gwait _ _ _) => some 0
    | .parked (.reply n _) => some n
    | _ => none
  | none, some h =>
    match h.wait with
    | some (.instr n) => some n
    | _ => none
  | none, none => none

/-- What a remote read has answered to an instruction that waits for it (R249, R402). -/
def Iss.replied (c : Iss) : Option (Option Nat) :=
  match c.split with
  | some sp => (match sp.status with
    | .parked (.reply _ v) => some v
    | _ => none)
  | none => none

/-- The bytes of a record in a window page that an instruction has waited for (R249). -/
def Iss.recorded (c : Iss) : Option (List Byte) :=
  match c.split with
  | some sp => (match sp.status with
    | .parked (.recRead _ v) => v
    | _ => none)
  | none => none

/-- The number of the ENQ that an LNCH waits for, and its answer once that has come (R385, R418). -/
def Iss.asked (c : Iss) : Option (Nat × Option (Option Nat)) :=
  match c.split with
  | some sp => (match sp.status with
    | .parked (.enq id r) => some (id, r)
    | _ => none)
  | none => none

/-- Has the instruction issued already: it waited for a record of a window page, for an ENQ, or in an engine's queue? -/
def Iss.issued (c : Iss) : Bool := c.recorded.isSome || c.asked.isSome || c.charged

/-- The instruction cannot issue, or cannot resume, yet: nothing changes but the note of it (R149). -/
def State.stall (s : State) : State := { s with issuer := s.issuer.map (fun i => { i with stalled := true }) }

/-- Change the issuing split. -/
def State.modSplit (s : State) (c : Iss) (f : Split → Split) : State :=
  match c.who with
  | .split e => s.modWarp c.core c.slot (fun w =>
      match mget? w.splits e with
      | some sp => { w with splits := mset w.splits e (f sp) }
      | none => w)
  | .helper _ => s

/-- A predicate as a guard slot names it: a helper's predicates are its own (R278, R28). -/
def predKey (who : Who) (p : Nat) : Nat :=
  match who with
  | .split _ => p
  | .helper l => 64 * (l + 1) + p

/-- The class in whose open run a CLASS reservation makes an issuer run-eligible (R150, R185). -/
def reservedClass (r : Option (TimingClass × Nat)) : Option TimingClass := r.bind (fun x => if x.2 = 0 then none else some x.1)

/-- A CLASS reservation after one of the instructions it covers (R185). -/
def reserveNext (r : Option (TimingClass × Nat)) : Option (TimingClass × Nat) := r.bind (fun x => if x.2 ≤ 1 then none else some (x.1, x.2 - 1))

/-- The CLASS reservation of the issuer: a helper is scheduled as one split (R280). -/
def Iss.reserve (c : Iss) : Option (TimingClass × Nat) := match c.split, c.hel with
  | some sp, _ => sp.reserve
  | none, some h => h.reserve
  | none, none => none

/-- Set or end the CLASS reservation of the issuer. -/
def State.setReserve (s : State) (c : Iss) (r : Option (TimingClass × Nat)) : State :=
  match c.who with
  | .split _ => s.modSplit c (fun sp => { sp with reserve := r })
  | .helper l => s.modHelper c.core c.slot l (fun h => { h with reserve := r })

/-- The class run after an issue (R150).  A cycle in which no split is ready closes none (assumption 96). -/
def Core.runNext (k : Core) (c : Iss) : ClassRun :=
  let opened : ClassRun := { cls := c.cost.cls, count := 1, slot := c.slot, who := c.who, since := 0 }
  match k.run with
  | some r =>
    if decide (r.count < 8) && (r.cls == c.cost.cls || reservedClass c.reserve == some r.cls) then
      { r with count := r.count + 1, since := r.since + (if r.slot = c.slot ∧ r.who = c.who then 1 else 0) }
    else opened
  | none => opened

/-- One more instruction of a helper under a release request. -/
def Release.count (r : Release) : Release := { r with owner := r.owner.map (· + 1), preempt := r.preempt.map (· + 1) }

/-- Is the boost lease of the issuer's context active here (R487)?  One that has reached zero still halves the debits of the cycle in which it
did, on every core whose cycle had begun by then (R494, assumption 92). -/
def State.leased (s : State) (c : Iss) : Bool :=
  match s.ctxOf c.w with
  | some x => (match x.lease with
    | some n => hasBit s.pwr.boostok (plotOf c.core) && (n != 0 || decide ((s.core c.core).start (36 * s.elapsed) ≤ x.leaseAt))
    | none => false)
  | none => false

/-- IIU charged to a warp (R415, R474, R487): the meter of its partition, its workgroup's slice and window, and an active lease. -/
def State.spend (s : State) (c : Iss) (leased : Bool) (units : Nat) : State :=
  let key := 8 * c.w.wg + plotOf c.core
  let win := mgetD s.pol.now key { iiu := 0, whld := 0, tax := 0 }
  let s := s.meterAt c.core .iiuc units
  let s := { s with pol := { s.pol with now := mset s.pol.now key { win with iiu := win.iiu + units } } }
  let now := s.elapsed
  let s := s.modWg c.w.wg (fun g => { g with
    slice := g.slice - units,
    expired := if g.expired.isNone && decide (0 < g.slice ∧ g.slice ≤ units) then some now else g.expired,
    wantTick := g.wantTick || (g.expired.isNone && decide (0 < g.slice ∧ g.slice ≤ units)) })
  let start := (s.core c.core).start (36 * now)
  if leased then s.modCtx c.w.ctx (fun x => { x with
    lease := x.lease.map (fun n => n - units), leaseAt := if decide (0 < units) && x.lease.any (fun n => decide (0 < n ∧ n ≤ units)) then start else x.leaseAt })
  else s

/-- The grid of a warp's workgroup. -/
def State.gridOf (s : State) (w : Warp) : Option (Nat × Grid) :=
  match mget? s.wgs w.wg with
  | some g => (mget? s.grids g.grid).map (fun x => (g.grid, x))
  | none => none

/-- Does the issuer's program counter lie in its kernel's code (R163)? -/
def State.inCode (s : State) (c : Iss) : Bool := match s.gridOf c.w with
  | some (_, g) => decide (g.code ≤ c.pc.toNat) && decide (c.pc.toNat - g.code < g.codeSize)
  | none => false

/-- The effect of an issue on the core and the warp (R150 to R153, R163, R483): IIU, allowance, execute stages with the
predicates being written, class run, age, CLASS reservation, and the counts that bound a pre-emption or release request. -/
def State.charge (s : State) (c : Iss) (preds : List Nat) : State :=
  if c.resumed.isSome || c.issued then s
  else
    let leased := s.leased c
    let s := s.modCore c.core (fun k =>
      { k with debit := k.debit + (if leased then (c.cost.debit + 1) / 2 else c.cost.debit), run := some (k.runNext c),
               stages := k.stages ++ [{ slot := c.slot, who := c.who, cls := c.cost.cls, left := c.cost.lanes + 3, preds := preds.map (predKey c.who) }] })
    let s := ((s.coolFlags c false).modWarp c.core c.slot (fun w => { w with iiu := (w.iiu + c.cost.units) % 2 ^ 64 })).spend c leased c.cost.units
    match c.who with
    | .split _ =>
      let inside := s.inCode c
      s.modSplit c (fun sp =>
        { sp with age := 0, sinceRequest := (if inside then sp.sinceRequest else Nat.max 256 sp.sinceRequest) + 1, reserve := reserveNext sp.reserve })
    | .helper l => s.modHelper c.core c.slot l (fun h => { h with age := 0, reserve := reserveNext h.reserve, release := h.release.count })

/-- The entries of a warp age by one instruction of a split (R66); one that has ended its life carries no error. -/
def Warp.ageLatches (w : Warp) (sp : Split) : Warp :=
  let kept := w.latches.filterMap (fun e =>
      if hasBit sp.strands (e.1 / 16) then
        (match mget? w.latches e.1 with
          | some x => if x.life ≤ 1 then none else some (e.1, { e.2 with life := e.2.life - 1 })
          | none => none)
      else some e)
  { w with latches := kept, latchBad := w.latchBad.filter (fun k => (mget? kept k).isSome) }

/-- An instruction of the issuer ends: it is charged unless it was already, and latch entries age (R66, R151). -/
def State.retire (s : State) (c : Iss) (preds : List Nat) : State :=
  let s := s.charge c preds
  match c.split with
  | some sp => s.modWarp c.core c.slot (fun w => w.ageLatches sp)
  | none => s

/-- The split is ready at its program counters, with no replay pending. -/
def State.wake (s : State) (c : Iss) : State :=
  match c.who with
  | .split _ => s.modSplit c (fun sp => { sp with status := .ready, replay := none })
  | .helper l => s.modHelper c.core c.slot l (fun h => { h with wait := none })

/-- Every strand of the split, or the helper, goes on at the next instruction. -/
def State.stepPc (s : State) (c : Iss) : State :=
  match c.who with
  | .split _ => s.modWarp c.core c.slot (fun w =>
      c.lanes.foldl (fun w l => w.modStrand l (fun st => { st with pc := st.pc + 4 })) w)
  | .helper l => s.modHelper c.core c.slot l (fun h => { h with pc := h.pc + 4 })

/-- The ordinary end of an instruction: retire and go on at pc + 4. -/
def State.finish (s : State) (c : Iss) (preds : List Nat) : State := ((s.retire c preds).wake c).stepPc c

/-- Park the issuer at its instruction (R162).  A CLASS reservation ends (R185). -/
def State.park (s : State) (c : Iss) (w : Wait) : State :=
  let s := s.charge c []
  match c.who with
  | .split _ => s.modSplit c (fun sp => { sp with status := .parked w, reserve := none })
  | .helper l => s.modHelper c.core c.slot l (fun h => { h with wait := some w, reserve := none })

/-- Wait at a parking instruction: park at the first trial, and stay parked at a further one. -/
def State.await (s : State) (c : Iss) (aux : Nat) : State :=
  if c.resumed.isSome then s.stall else s.park c (.instr aux)

/-- End a helper: its lane returns, its flags join the pricking's (R286).  Its chunk ends as given. -/
def Pricking.endHelper (p : Pricking) (lane : Nat) (ending : Chunk) : Pricking :=
  match mget? p.helpers lane with
  | none => p
  | some h =>
    { p with helpers := mdel p.helpers lane, flags := p.flags ||| h.fpst,
             claims := mdel p.claims lane, served := mdel p.served lane,
             chunks := match h.chunk.or ((mget? p.served lane).join) with
               | some j => setAt p.chunks j ending
               | none => p.chunks }

/-- The fault record after one more helper fault: the lowest chunk, and outside any chunk the lowest lane (R287). -/
def Pricking.noteFault (p : Pricking) (chunk lane inner : Nat) : Pricking :=
  match p.fault with
  | none => { p with fault := some (chunk, lane, inner) }
  | some (c, l, _) =>
    if chunk < c || (chunk == c && c == 0x7F && lane < l) then { p with fault := some (chunk, lane, inner) } else p

/-- What a helper that has ended leaves outstanding stands, but tells nobody of its completion: it goes on under a lane number
that no helper has (R286, R287). -/
def Who.orphan (lane : Nat) (w : Who) : Who := if w = .helper lane then .helper (lane + 16) else w

def WcbEntry.orphan (slot lane : Nat) (e : WcbEntry) : WcbEntry :=
  { e with owners := e.owners.map (fun o => if o.1 = slot then (o.1, o.2.1.orphan lane, o.2.2) else o),
           marks := e.marks.map (fun m => if m.slot = slot then { m with who := m.who.orphan lane } else m) }

def State.orphan (s : State) (core slot lane : Nat) : State :=
  let s := s.modCore core (fun k =>
    { k with
      loadsPending := k.loadsPending.map (fun (x : Load) => if x.slot = slot then { x with who := x.who.orphan lane } else x),
      storesPending := k.storesPending.map (fun (x : StorePend) => if x.slot = slot then { x with who := x.who.orphan lane } else x),
      memQ := k.memQ.map (fun (x : MemCmd) => if x.slot = slot then { x with who := x.who.orphan lane } else x),
      wcb := k.wcb.map (WcbEntry.orphan slot lane), drains := k.drains.map (WcbEntry.orphan slot lane) })
  { s with
    remotes := s.remotes.map (fun (x : Remote) => if x.core = core ∧ x.slot = slot then { x with who := x.who.orphan lane } else x),
    hostReqs := s.hostReqs.map (fun (x : HostReq) =>
      if x.core = core then { x with who := if x.slot = slot then x.who.orphan lane else x.who, entry := x.entry.map (WcbEntry.orphan slot lane) } else x),
    fabOps := s.fabOps.map (fun (x : FabOp) =>
      if x.core = core then { x with who := if x.slot = slot then x.who.orphan lane else x.who, entry := x.entry.map (WcbEntry.orphan slot lane) } else x) }

/-- A helper fault (R287): the helper ends at once, its chunk is cancelled and the fault is recorded. -/
def State.helperFault (s : State) (core slot lane inner : Nat) : State :=
  (s.orphan core slot lane).modCore core (fun k => k.modPricking (slot / 2) (fun p =>
    match mget? p.helpers lane with
    | none => p
    | some h => (p.noteFault (h.chunk.getD 0x7F) lane inner).endHelper lane .cancelled))

/-- Does a record stop the warp (R160)? -/
def Warp.recordStopped (w : Warp) : Bool := w.splits.any (fun e => match e.2.status with
  | .parked (.record _) => true
  | _ => false)

/-- The queue and tag word of the packet that launched the root of a warp's grid (R443). -/
def State.rootTag (s : State) (w : Warp) : Nat × Nat := match s.gridOf w with
  | some (_, g) => (g.qnum, g.tagw)
  | none => (0, 0)

/-- The fault record of a warp stopped at an instruction (R160, Table 17-6). -/
def State.warpRecord (s : State) (core slot : Nat) (w : Warp) (cause inner pc addr : Nat) : Record :=
  let q := s.rootTag w
  { kind := .warp, ctx := w.ctx, qnum := q.1, seq := 0, cause := cause, inner := inner, wh := slot * 2048 + core, pc := pc,
    addr := addr, tagw := q.2, detail := 0, grid := w.wg / 2 ^ 32, wg := w.wg, core := core, slot := slot }

/-- Stop the split at its instruction under a fault record (R160). -/
def State.stopRecord (s : State) (c : Iss) (cause inner pc addr : Nat) : State :=
  let r := s.warpRecord c.core c.slot c.w cause inner pc addr
  let n := s.nextSeq r.ctx
  (s.post r).modSplit c (fun sp => { sp with status := .parked (.record n), reserve := none })

/-- Every strand of the split, or the helper, goes on at one address. -/
def State.setPc (s : State) (c : Iss) (pc : DWord) : State :=
  match c.who with
  | .split _ => s.modWarp c.core c.slot (fun w => c.lanes.foldl (fun w l => w.modStrand l (fun st => { st with pc := pc })) w)
  | .helper l => s.modHelper c.core c.slot l (fun h => { h with pc := pc })

/-- The strands of a split-table entry. -/
def Warp.strandsOf (w : Warp) (e : Nat) : Nat := match mget? w.splits e with
  | some sp => sp.strands
  | none => 0

/-- The warp enters trap state: the split of the given strands runs the handler and every other is held (R158), which ends every CLASS
reservation (R185). -/
def Warp.hold (w : Warp) (strands : Nat) : Warp :=
  { w with trap := some { strands := strands }, splits := w.splits.map (fun e => (e.1, { e.2 with reserve := none })) }

/-- Does a trap of the warp hold a split (R158)? -/
def Warp.heldByTrap (w : Warp) (sp : Split) : Bool := match w.trap with
  | some t => t.strands &&& sp.strands == 0
  | none => false

/-- TAKING AN EXCEPTION, without the charge of an issue (R157 to R160).  A helper's cause is a helper fault (R287).
ECC_UNCORRECTABLE stops the warp under a fault record and writes neither register.  Every other trap writes sr.trapcause and sr.trappc
(R73, R158); one in trap state, or with sr.trapbase 0, then stops the warp under a fault record (R160, assumption 66).  Otherwise the warp
enters trap state, and the split goes on at sr.trapbase with its active threads unchanged.  `info` holds
the upper fields of sr.trapcause (Table 2-16), `pc` what sr.trappc receives. -/
def State.enterTrap (s : State) (c : Iss) (cause : Cause) (info : Nat) (pc : DWord) (addr : Nat) : State :=
  match c.who with
  | .helper l => s.helperFault c.core c.slot l cause.code
  | .split e =>
    let base := match s.ctxOf c.w with
      | some x => x.trapbase
      | none => 0
    if cause = .eccUncorrectable then s.stopRecord c cause.code 0 pc.toNat addr
    else
      let s := s.modWarp c.core c.slot (fun w =>
        { w with trapcause := BitVec.ofNat 32 (info + cause.code), trappc := pc })
      match c.w.trap with
      | some _ => s.stopRecord c (bitsOf c.w.trapcause.toNat 0 8) cause.code pc.toNat addr
      | none =>
      if base = 0 then s.stopRecord c cause.code (bitsOf info 8 8) pc.toNat addr
      else ((s.modWarp c.core c.slot (fun w => w.hold (w.strandsOf e))).setPc c base).wake c

/-- A cause found at decode or operand resolution: no counter changes (R48). -/
def State.decodeTrap (s : State) (c : Iss) (cause : Cause) : State := s.enterTrap c cause 0 c.pc 0

/-- A cause of an instruction that has issued (R151, R158): it is charged, and latch entries age (R66). -/
def State.takeTrap (s : State) (c : Iss) (cause : Cause) (addr : Nat) : State :=
  (s.retire c []).enterTrap c cause 0 c.pc addr

/-- RETURN FROM AN EXCEPTION (R184): the warp leaves trap state and the handler's split goes on at sr.trappc.  As a control transfer it
ends a CLASS reservation (R185). -/
def State.returnTrap (s : State) (c : Iss) : State :=
  ((((s.retire c []).modWarp c.core c.slot (fun w => { w with trap := none })).setReserve c none).setPc c c.w.trappc).wake c

end Sys2Proof.Machine
end

