-- ==== Sys2Proof/Machine/Hierarchy.lean ====
section
/-! DEFINITION. Where data waits: the write-combining buffer, the L2 directory, L1, forced publishes, performed writes and
monitors, completion counters and the end of a warp (05_memory_model.md R120 to R133, 10_memory_engine.md R247, R257,
06_sequencer.md R148, R175, 01_machine.md R31, R32). -/

namespace Sys2Proof.Machine

/-- The core whose L1 holds a global line: the core itself, or the slice of a fused plot (R268). -/
def State.l1Core (s : State) (core line : Nat) : Nat := if s.fused core then plotOf core * 256 + line % 256 else core

/-- Buffer entries of a core that have not been acknowledged: its write-combining buffer, the entries that drain, and those at the host
port. -/
def State.unacked (s : State) (core : Nat) : List WcbEntry :=
  (s.core core).wcb ++ (s.core core).drains ++ (s.hostReqs.filter (fun r => r.core == core)).filterMap (fun r => r.entry) ++
    (s.fabOps.filter (fun f => f.core == core)).filterMap (fun f => f.entry)

/-- A byte that waits in a core's buffer, if one does (R121), with the number of the newest entry that holds it. -/
def newestByte (es : List WcbEntry) (sp : Space) (key pa : Nat) : Option (Nat × Byte) :=
  match es with
  | [] => none
  | e :: r =>
    let older := newestByte r sp key pa
    if e.space = sp ∧ e.key = key ∧ e.line = pa / 128 then
      match mget? e.bytes (pa % 128), older with
      | some b, some (n, x) => if n < e.eid then some (e.eid, b) else some (n, x)
      | some b, none => some (e.eid, b)
      | none, o => o
    else older

/-- A byte that waits in a core's buffer, if one does (R121). -/
def bufferedByte (es : List WcbEntry) (sp : Space) (key pa : Nat) : Option Byte := (newestByte es sp key pa).map Prod.snd

/-- What a load of the core finds beyond L1: the buffer, then the coherence point (R121, R126). -/
def State.beyondByte (s : State) (core : Nat) (sp : Space) (key pa : Nat) : Byte :=
  match bufferedByte (s.unacked core) sp key pa with
  | some b => b
  | none => (s.memRead (plotOf core) sp key pa 1).headD 0

def State.beyond (s : State) (core : Nat) (sp : Space) (key pa n : Nat) : List Byte :=
  (upto n).map (fun i => s.beyondByte core sp key (pa + i))

/-- Is an L1 line the private one of this warp slot? -/
def L1Line.isPrivate (l : L1Line) (slot key line : Nat) : Bool := l.line == line && l.key == key && l.owner == some slot

/-- The bytes a plain load of global memory returns: the buffer, then L1, then beyond (R121, R247). -/
def State.loadBytes (s : State) (core : Nat) (sp : Space) (key pa n : Nat) : List Byte :=
  let hit := if sp = .hbm then ((s.core (s.l1Core core (pa / 128))).l1.find? (fun l => l.isGlobal key (pa / 128))) else none
  (upto n).map (fun i =>
    match bufferedByte (s.unacked core) sp key (pa + i), hit with
    | some b, _ => b
    | none, some l => (l.data[(pa + i) % 128]?).getD 0
    | none, none => (s.memRead (plotOf core) sp key (pa + i) 1).headD 0)

/-- Bytes whose value the manual does not give, from the i-th free one on. -/
def State.freeBytes (s : State) (i n : Nat) : List Byte := (upto n).map (fun j => Config.freeByte (s.fresh + i + j))

/-- Does the i-th of some host-port requests complete with another status than Successful Completion (R249, assumption 75)? -/
def State.hostFailed (s : State) (i : Nat) : Bool := Config.hostFails (s.fresh + i)

/-- What a read at its coherence point returns, as the i-th of some (R249, assumption 75): all ones where the host fails it. -/
def State.farRead (s : State) (core i : Nat) (sp : Space) (key pa n : Nat) : List Byte :=
  match sp with
  | .host => if s.hostFailed i then List.replicate n (BitVec.allOnes 8) else s.beyond core .host key pa n
  | sp => s.memRead (plotOf core) sp key pa n

/-- Ways of L1 under a carve code: one 32 KiB way each (R265). -/
def l1Ways (carve : Nat) : Nat := carve + 1

/-- Write back a dirty private line (R257): its dirty bytes go to the coherence point. -/
def State.writeBack (s : State) (core wg : Nat) (l : L1Line) : State :=
  if l.dirty.isEmpty then s
  else
    let e : WcbEntry :=
      { eid := s.nextId, line := l.line, space := .hbm, key := l.key, bytes := l.dirty, epoch := 0, since := s.elapsed,
        owners := [], tag := none, wg := some wg, bad := l.bad }
    let s := s.modCore core (fun k => { k with drains := k.drains ++ [e] })
    { s with nextId := s.nextId + 1 }

/-- The workgroup of the warp in a slot. -/
def State.wgOfSlot (s : State) (core slot : Nat) : Nat :=
  match s.warp? core slot with
  | some w => w.wg
  | none => 0

/-- The L1 of a core with a line made most recently used, and the line that had to leave its set (R265). -/
def Core.l1Insert (k : Core) (l : L1Line) : Core × Option L1Line :=
  let rest := k.l1.filter (fun x => !(x.line == l.line && x.key == l.key && x.owner == l.owner))
  let set := rest.filter (fun x => x.line % 256 == l.line % 256)
  if set.length < l1Ways k.carve then ({ k with l1 := l :: rest }, none)
  else match set.getLast? with
    | some v => ({ k with l1 := l :: rest.filter (fun x => !(x.line == v.line && x.key == v.key && x.owner == v.owner)) }, some v)
    | none => (k, none)

/-- Put a line into the L1 of a core; a dirty private line that leaves is written back (R257). -/
def State.l1Put (s : State) (core : Nat) (l : L1Line) : State :=
  match (s.core core).l1Insert l with
  | (k, some v) => (s.setCore core k).writeBack core (match v.owner with
      | some o => s.wgOfSlot core o
      | none => 0) v
  | (k, none) => s.setCore core k

/-- The bytes with which a line enters L1: what the core finds beyond it.  A fused L1 is shared, so it takes no byte that still waits in one
core's buffer, which other cores may not see yet (R117, R268). -/
def State.l1Fill (s : State) (core key line : Nat) : List Byte :=
  if s.fused core then s.memRead (plotOf core) .hbm key (line * 128) 128 else s.beyond core .hbm key (line * 128) 128

/-- A plain load of HBM allocates its line in L1 or makes it most recently used (R247). -/
def State.l1Load (s : State) (core key pa : Nat) : State :=
  let line := pa / 128
  let home := s.l1Core core line
  match (s.core home).l1.find? (fun l => l.isGlobal key line) with
  | some l => s.l1Put home l
  | none => s.l1Put home { line := line, key := key, data := s.l1Fill core key line, owner := none, dirty := [], bad := false }

/-- A store updates a present L1 line (R121, R247).  A line of a fused L1 is updated as the store is performed: until then its own core alone
sees it, in its buffer (R117, R131, R268). -/
def State.l1Store (s : State) (core key pa : Nat) (bs : List Byte) : State :=
  if s.fused core then s else s.modCore core (fun k => k.l1Patch key pa bs)

/-- Drop the global L1 line of a location: an atomic or an LDA of it leaves no older copy for the core's later loads (R118). -/
def State.l1Drop (s : State) (core key pa : Nat) : State :=
  s.modCore (s.l1Core core (pa / 128)) (fun k => { k with l1 := k.l1.filter (fun l => !l.isGlobal key (pa / 128)) })

/-- Acquire action C on one core: every global L1 line is invalidated, private lines are kept (R120). -/
def Core.dropGlobal (k : Core) : Core := { k with l1 := k.l1.filter (fun l => l.owner.isSome) }

/-- The acquire actions of a scope (Table 5-2, R268). -/
def State.acquire (s : State) (core : Nat) (sc : Scope) : State :=
  let code := sc.ctorIdx
  if code < 4 then s
  else if s.fused core then
    if code ≤ 5 then s
    else (upto 256).foldl (fun s i => if (mget? s.cores (plotOf core * 256 + i)).isSome then s.modCore (plotOf core * 256 + i) Core.dropGlobal else s) s
  else s.modCore core Core.dropGlobal

/-- A holder notice (R122, R124): up to four cores of a plot by name, a fifth sets the plot's many flag. -/
def State.holderAdd (s : State) (core key : Nat) : State :=
  let d := s.dirLine key
  if d.holders.contains core then s
  else if (d.holders.filter (fun c => plotOf c == plotOf core)).length < 4 then s.setDir key { d with holders := d.holders ++ [core] }
  else s.setDir key { d with many := setBits d.many (plotOf core) 1 1 }

/-- A core no longer holds a line in its buffer.  The many flag of its plot ends when no core of the plot holds the line. -/
def State.holderDrop (s : State) (core key : Nat) : State :=
  let d := s.dirLine key
  let held := fun c => (s.unacked c).any (fun e => lineKey (plotOf c) e.space (e.line * 128) == key)
  let d := if held core then d else { d with holders := d.holders.filter (· != core) }
  let still := (mkeys s.cores).any (fun c => plotOf c == plotOf core && held c)
  s.setDir key (if still then d else { d with many := setBits d.many (plotOf core) 1 0 })

/-- The cores that a forced publish of a line goes to: its holders in a plot, other than the given core (R132, assumption 86). -/
def State.publishTo (s : State) (plot key : Nat) (self : Option Nat) : List Nat :=
  let d := s.dirLine key
  let named := if hasBit d.many plot then (upto 256).map (fun i => plot * 256 + i) else d.holders.filter (fun c => plotOf c == plot)
  named.filter (fun c => self != some c)

/-- The numbers of the entries that some cores have not had acknowledged. -/
def State.eidsOf (s : State) (cores : List Nat) : List Nat := cores.flatMap (fun c => (s.unacked c).map (fun e => e.eid))

/-- Is an entry with one of these numbers still unacknowledged anywhere? -/
def State.eidsOpen (s : State) (eids : List Nat) : Bool :=
  if eids.isEmpty then false
  else (mkeys s.cores).any (fun c => (s.unacked c).any (fun e => eids.contains e.eid))

/-- A release marker after the newest entry (R122). -/
def State.marker (s : State) (core : Nat) : State := s.modCore core (fun k => { k with epoch := k.epoch + 1 })

/-- The four completion counters (Table 1-4). -/
inductive CounterCls where
  | loads | stores | copies | tiles
  deriving DecidableEq, Repr

/-- The maximum of a counter (Table 1-4). -/
def CounterCls.max : CounterCls → Nat
  | .loads => 63 | .stores => 63 | .copies => 31 | .tiles => 15

def Warp.counterOf (w : Warp) : CounterCls → Nat
  | .loads => w.loads | .stores => w.stores | .copies => w.copies | .tiles => w.tiles

def Warp.setCounter (w : Warp) (cl : CounterCls) (n : Nat) : Warp :=
  match cl with
  | .loads => { w with loads := n }
  | .stores => { w with stores := n }
  | .copies => { w with copies := n }
  | .tiles => { w with tiles := n }

/-- The counter of an issuer: a helper has its own loads and stores counters (R279). -/
def Iss.counterOf (c : Iss) (cl : CounterCls) : Nat :=
  match c.hel, cl with
  | some h, .loads => h.loads
  | some h, .stores => h.stores
  | _, cl => c.w.counterOf cl

/-- Add to a counter of an issuer (R31). -/
def State.addCounter (s : State) (core slot : Nat) (who : Who) (cl : CounterCls) (n : Nat) : State :=
  match who, cl with
  | .helper l, .loads => s.modHelper core slot l (fun h => { h with loads := h.loads + n })
  | .helper l, .stores => s.modHelper core slot l (fun h => { h with stores := h.stores + n })
  | _, cl => s.modWarp core slot (fun w => w.setCounter cl (w.counterOf cl + n))

/-- The stages that an ended warp leaves: they hold the lanes to their end, and belong to no slot (R153, R155). -/
def Stage.orphan (slot : Nat) (st : Stage) : Stage := if st.slot = slot then { st with slot := slot + 256 } else st

/-- End a warp (R148): its dirty private lines are written back and leave L1, and its panel frees. -/
def State.endWarp (s : State) (core slot : Nat) : State :=
  let mine := fun (l : L1Line) => l.owner == some slot
  let wg := s.wgOfSlot core slot
  let s := ((s.core core).l1.filter mine).foldl (fun s l => s.writeBack core wg l) s
  let s := s.modCore core (fun k => { k with l1 := k.l1.filter (fun l => !mine l), warps := mdel k.warps slot, cooling := k.cooling.filter (fun x => x.slot != slot), stages := k.stages.map (Stage.orphan slot) })
  s.modWg wg (fun g => { g with slots := g.slots.filter (· != slot) })

/-- The warp ends when every thread has exited and its counters are zero (R148). -/
def State.reap (s : State) (core slot : Nat) : State :=
  match s.warp? core slot with
  | some w => if w.splits.isEmpty && w.loads == 0 && w.stores == 0 && w.copies == 0 && w.tiles == 0 then s.endWarp core slot else s
  | none => s

/-- Lower a counter of an issuer (R31). -/
def State.lowerCounter (s : State) (core slot : Nat) (who : Who) (cl : CounterCls) : State :=
  (match who, cl with
  | .helper l, .loads => s.modHelper core slot l (fun h => { h with loads := h.loads - 1 })
  | .helper l, .stores => s.modHelper core slot l (fun h => { h with stores := h.stores - 1 })
  | _, cl => s.modWarp core slot (fun w => w.setCounter cl (w.counterOf cl - 1))).reap core slot

/-- Is some part of a memory or fabric command still outstanding? -/
def State.cidOpen (s : State) (core cid : Nat) : Bool :=
  (s.core core).loadsPending.any (fun l => l.cid == cid) || (s.core core).storesPending.any (fun p => p.cid == cid) ||
  (s.unacked core).any (fun e => e.owners.any (fun o => o.2.2 == cid)) || (s.core core).memQ.any (fun m => m.cid == cid) ||
  s.remotes.any (fun r => r.cid == cid && r.core == core) ||
  s.hostReqs.any (fun r => r.cid == cid && r.core == core && r.entry.isNone) || s.fabOps.any (fun f => f.cid == cid && f.core == core && f.entry.isNone)

/-- One part of a command has completed: its counter falls when no other part is outstanding (R31). -/
def State.partDone (s : State) (core slot : Nat) (who : Who) (cl : CounterCls) (cid : Nat) : State :=
  if s.cidOpen core cid then s else s.lowerCounter core slot who cl

/-- May an entry be performed: no older entry of its line, and none older than a marker before it, is outstanding (R118, R122)? -/
def State.entryReady (s : State) (core : Nat) (e : WcbEntry) : Bool :=
  !((s.unacked core).any (fun x => (x.space == e.space && x.line == e.line && decide (x.eid < e.eid)) ||
    (e.wg.isNone && x.wg.isNone && decide (x.epoch < e.epoch))))

/-- The store commands of an acknowledged entry complete (R31). -/
def State.ownersDone (s : State) (core : Nat) (owners : List (Nat × Who × Nat)) : State :=
  owners.dedup.foldl (fun s o => s.partDone core o.1 o.2.1 .stores o.2.2) s

/-- A copy or tile operation of a batch has completed (R32). -/
def Warp.batchDone (w : Warp) (batch : Nat) : Warp :=
  if w.batches.any (fun b => b.1 == batch) then { w with batches := w.batches.map (fun b => if b.1 = batch then (b.1, b.2 - 1) else b) }
  else { w with openBatch := w.openBatch - 1 }

/-- The batch that the next command of a warp counts into: the one that the next FENCEB closes (R32). -/
def Warp.nextBatch (w : Warp) : Nat := (w.batch.toNat + 1) % 2 ^ 32

/-- Batches in order: those not yet complete.  A batch is complete when it and every earlier one have no command left, and so is an empty one
closed behind an incomplete one (assumption 93). -/
def pruneBatches : List (Nat × Nat) → List (Nat × Nat)
  | [] => []
  | (n, c) :: r => if c = 0 then pruneBatches r else (n, c) :: r

/-- A copy or tile operation completes: counter and batch (R31, R32). -/
def State.opDone (s : State) (core slot : Nat) (cl : CounterCls) (batch : Nat) : State :=
  (s.modWarp core slot (fun w =>
    let w := w.batchDone batch
    { w with batches := pruneBatches w.batches })).lowerCounter core slot (.split 0) cl

/-- A copy or tile operation issues: counter and batch (R31, R32). -/
def State.opIssue (s : State) (core slot : Nat) (cl : CounterCls) : State :=
  s.modWarp core slot (fun w => { w.setCounter cl (w.counterOf cl + 1) with openBatch := w.openBatch + 1 })

/-- Discard the staged copies of a pair (R344, R346). -/
def State.pairUnstage (s : State) (core : Nat) : State :=
  (s.modCore core (fun k => { k with staged := [] })).modCore (pairOfCore core) (fun k => { k with staged := [] })

/-- Discard the staged copies of some scratchpad words: the array reads them no more (R346). -/
def Core.unstage (k : Core) (base words : Nat) : Core :=
  { k with staged := k.staged.filter (fun (e : Nat × Word) => decide (e.1 < base) || decide (base + words ≤ e.1)) }

/-- Accumulators of a core have lost their owner: no array's previous operation wrote what a later owner holds there (R345). -/
def State.forgetAccs (s : State) (core : Nat) (accs : List Nat) : State :=
  let keep := fun (k : Core) => { k with accPrev := k.accPrev.filter (fun e => !(e.1 == core && accs.contains e.2)) }
  (s.modCore core keep).modCore (pairOfCore core) keep

/-- Accumulators that a workgroup owns on a core. -/
def Core.accsOf (k : Core) (wg : Nat) : List Nat := (k.accOwner.filter (fun e => e.2 == wg)).map Prod.fst

/-- A fresh number for a command. -/
def State.takeId (s : State) : State := { s with nextId := s.nextId + 1 }

end Sys2Proof.Machine
end

