-- ==== Sys2Proof/Machine/Eft.lean ====
section
/-! DEFINITION. Etrak Fabric Transport, the sending side: streams, frames and remote operations on their way
(15_launch_engine.md R395 to R405). -/

namespace Sys2Proof.Machine

/-- A stream on which nothing has been sent. -/
def Stream.fresh : Stream := { next := 0, unacked := [], progress := 0, tries := 0, failed := false, expect := 0, due := none, port := 0 }

/-- The key of the stream with a device for a partition. -/
def streamKey (dev part : Nat) : Nat := 8 * dev + part

def State.stream (s : State) (dev part : Nat) : Stream := mgetD s.fab.streams (streamKey dev part) Stream.fresh

def State.setStream (s : State) (dev part : Nat) (x : Stream) : State :=
  { s with fab := { s.fab with streams := mset s.fab.streams (streamKey dev part) x } }

/-- Does a number name a device of the domain table (R397)? -/
def State.devPresent (s : State) (dev : Nat) : Bool :=
  match mget? s.fab.domain dev with
  | some (_, ports) => ports != 0
  | none => false

/-- The port that a stream is bound to (R397): the choice by hash is the device's own; the model takes the lowest port of the
mask that is not below the given one, cyclically (assumption 20). -/
def portOf (mask start : Nat) : Nat :=
  match (bitsList 16 mask).find? (fun p => decide (start ≤ p)) with
  | some p => p
  | none => (bitsList 16 mask).headD 0

/-- Send a frame on a stream (R396): it takes the next SEQ, carries the acknowledgement of the reverse stream and is kept until it
is acknowledged.  A failed stream re-forms first, from SEQ 0.  It keeps its port while frames are unacknowledged, unless a DOMAIN has taken
that from its device's mask (R397). -/
def State.sendFrame (s : State) (dev part kind arg : Nat) (payload : List Byte) : State × Nat :=
  let x := s.stream dev part
  let x := if x.failed then { x with next := 0, failed := false } else x
  let mask := match mget? s.fab.domain dev with
    | some (_, m) => m
    | none => 0
  let f : Frame := { kind := kind, sdev := s.fab.dev, tdev := dev, spart := part, seq := x.next, ack := x.expect, arg := arg, payload := payload }
  let x := { x with next := (x.next + 1) % 2 ^ 32, unacked := x.unacked ++ [f], due := none,
                    progress := if x.unacked.isEmpty then s.elapsed else x.progress,
                    port := if x.unacked.isEmpty || !hasBit mask x.port then portOf mask 0 else x.port }
  let co := decide (1 ≤ kind ∧ kind ≤ 6)
  let s := s.setStream dev part x
  (if co then s.meter part .fabout payload.length else s, f.seq)

/-- The counter class of a remote operation (R403, R31); a buffer entry's store commands and an engine's read have their own count. -/
def FabOp.cls (f : FabOp) : Option CounterCls :=
  if f.entry.isSome || f.into != .regs then none
  else match f.kind with
  | .wr => some .stores
  | .rd | .atom => some .loads
  | .sig => none
  | .amo _ => if f.dests.isEmpty then some .stores else some .loads

/-- A remote operation leaves the list and its counter falls (R403, R405); a buffer entry's store commands complete. -/
def State.fabDone (s : State) (f : FabOp) : State :=
  let s := { s with fabOps := s.fabOps.erase f }
  match f.entry, f.cls with
  | some e, _ => s.ownersDone f.core e.owners
  | none, some cl => s.partDone f.core f.slot f.who cl f.cid
  | none, none => s

/-- The core and slot of a warp of a workgroup, where that is resident. -/
def State.homeOf (s : State) (wg index : Nat) : Option (Nat × Nat) :=
  (mget? s.wgs wg).bind (fun g => g.core.bind (fun core => (g.slots.find? (fun slot => match s.warp? core slot with
    | some w => w.wg == wg && w.index == index
    | none => false)).map (fun slot => (core, slot))))

/-- FABRIC is due in the split that holds the strand of a thread (R405). -/
def Warp.markFabric (w : Warp) (t : Nat) : Warp :=
  { w with splits := w.splits.map (fun e => (e.1, if hasBit e.2.strands (t / 4) then { e.2 with fabric := true } else e.2)) }

/-- Mark the issuer of a failed remote access (R405): FABRIC at the next instruction boundary of the split that holds its strand, wherever its
warp now is; a helper faults. -/
def State.markFabric (s : State) (f : FabOp) : State :=
  match f.who with
  | .split _ => match s.homeOf f.wg f.index with
    | some (core, slot) => s.modWarp core slot (fun w => w.markFabric f.t)
    | none => s.modWg f.wg (fun g => { g with saved := g.saved.map (fun sv => { sv with warps := sv.warps.map (fun e =>
        (e.1, if e.1 = f.index then e.2.markFabric f.t else e.2)) }) })
  | .helper l => s.helperFault f.core f.slot l Cause.fabric.code

/-- The NOTICE record of a failed remote access (R405): the operation, and the address as device and window address. -/
def FabOp.record (f : FabOp) : Record :=
  { Record.blank with ctx := f.ctx, qnum := f.qnum, cause := Cause.fabric.code, wh := f.slot * 2048 + f.core, addr := f.dev * 2 ^ 48 + f.arg,
                      tagw := f.tagw, detail := f.kind.ctorIdx, grid := f.wg / 2 ^ 32, wg := f.wg, core := f.core, slot := f.slot }

/-- The store of one thread that a buffer entry carries, as an operation of its own. -/
def State.markOp (s : State) (f : FabOp) (m : StoreMark) : FabOp :=
  let (ctx, qnum, tagw) := match (mget? s.wgs m.wg).bind (fun g => mget? s.grids g.grid) with
    | some g => (g.ctx, g.qnum, g.tagw)
    | none => (0, 0, 0)
  { f with wg := m.wg, index := m.index, slot := m.slot, t := m.t, who := m.who, ctx := ctx, qnum := qnum, tagw := tagw, arg := f.arg / 128 * 128 + m.off }

/-- FABERR, the record and FABRIC of one failed access (R405). -/
def State.fabError (s : State) (f : FabOp) : State := ((s.count f.part .faberr 1).notice f.record).markFabric f

/-- What a remote read was for receives its bytes: registers, an element of a copy command that is on its way, or an instruction that waits
to read a record. -/
def State.fabFill (s : State) (f : FabOp) (ws : List (Nat × RegLoc × Word)) (bs : List Byte) : State :=
  match f.into with
  | .regs =>
    let es := ws.map (fun e => Eff.reg e.1 e.2.1 e.2.2)
    (s.effs f.core f.slot f.who es).coolAt f.core f.slot 0 (targetsOf es)
  | .copy id bar n =>
    let fill := fun (q : CopyCmd) => if q.id = id ∧ q.bar = bar then (match q.work with
      | .box ms => { q with work := .box (ms.zipIdx.map (fun m => if m.2 = n then { m.1 with src := .fixed bs } else m.1)) }
      | _ => q) else q
    s.modCore f.core (fun k => { k with copyQ := k.copyQ.map fill })
  | .record =>
    let got := fun (sp : Split) => if sp.status = .parked (.recRead f.cid none) then { sp with status := .parked (.recRead f.cid (some bs)) } else sp
    s.modWarp f.core f.slot (fun w => { w with splits := w.splits.map (fun e => (e.1, got e.2)) })

/-- A remote access fails (R405): what was to be read is all ones, FABERR counts, the record goes out and FABRIC is due, for each store that
a buffer entry carries. -/
def State.fabFail (s : State) (f : FabOp) : State :=
  let s := (s.fabFill f (f.dests.map (fun d => (d.1, d.2, BitVec.allOnes 32))) (List.replicate f.n (BitVec.allOnes 8))).fabDone f
  match f.entry with
  | some e => e.marks.foldl (fun (s : State) m => s.fabError (s.markOp f m)) s
  | none => s.fabError f

/-- The payload of a WR frame that carries stores of the LS path: the release scope of an STL, the count of bytes, the bytes, and one more
where the length would be that of 16-byte words (assumption 21). -/
def lsPayload (tag : Option Scope) (bs : List Byte) : List Byte :=
  let p := BitVec.ofNat 8 (match tag with
    | some sc => sc.ctorIdx + 1
    | none => 0) :: BitVec.ofNat 8 bs.length :: bs
  if p.length % 16 = 0 then p ++ [0] else p

/-- The kind and payload of the frame of a remote operation (Table 15-16); what an LS-path access to a window sends is the
model's choice (assumption 21). -/
def FabOp.frame (f : FabOp) : Nat × List Byte :=
  match f.kind with
  | .wr => (0x01, match f.entry with
    | some e => lsPayload e.tag f.data
    | none => f.data)
  | .rd => (0x02, leBytes 4 f.n)
  | .sig => (0x04, f.data)
  | .atom => (0x05, f.data)
  | .amo op => (0x05, BitVec.ofNat 8 op.ctorIdx :: f.data)

/-- May a remote operation be sent now?  One of the CO path leaves its queue in order and when no guard holds it (R27, R29), and an FSIG
waits for every earlier CO access of its warp to the device (R403); a buffer entry keeps the marker order (R122), and a read of a window page
waits for the core's own buffered writes of its line (R121). -/
def State.fabSendable (s : State) (f : FabOp) : Bool :=
  let before := s.fabOps.takeWhile (· ≠ f)
  f.seq.isNone && f.guardPend.isEmpty && !s.eidsOpen f.after &&
    !(f.co && before.any (fun x => x.co && x.core == f.core && x.seq.isNone && x.cid != f.cid)) &&
    (match f.entry with
      | some e => s.entryReady f.core e
      | none => true) &&
    (match f.kind with
      | .sig => !(before.any (fun x => x.co && x.wg == f.wg && x.index == f.index && x.dev == f.dev && x.cid != f.cid))
      | _ => true)

/-- Replace the first element that equals `x`. -/
def replaceFirst {α : Type} [DecidableEq α] (x y : α) : List α → List α
  | [] => []
  | z :: r => if z = x then y :: r else z :: replaceFirst x y r

/-- Send one remote operation; one for an absent device fails at once (R397). -/
def State.sendOp (s : State) (f : FabOp) : State :=
  if s.devPresent f.dev then
    let p := f.frame
    let t := s.sendFrame f.dev f.part p.1 f.arg p.2
    { t.1 with fabOps := replaceFirst f { f with seq := some t.2 } t.1.fabOps }
  else s.fabFail f

/-- Send every remote operation that may go, the oldest first. -/
def State.sendFab (s : State) : State :=
  s.fabOps.foldl (fun (s : State) f => if s.fabOps.contains f && s.fabSendable f then s.sendOp f else s) s

end Sys2Proof.Machine
end

