-- ==== Sys2Proof/Machine/Drain.lean ====
section
/-! DEFINITION. The write-combining buffer: entries allocated, filled and drained, and the forced publishes that drain it
(05_memory_model.md R121, R122, R132, R140). -/

namespace Sys2Proof.Machine

/-- The runs of consecutive bytes of an entry. -/
def runsOf : NatMap Byte → List (Nat × List Byte)
  | [] => []
  | (o, b) :: r => match runsOf r with
    | (p, bs) :: t => if p = o + 1 then (o, b :: bs) :: t else (o, [b]) :: (p, bs) :: t
    | [] => [(o, [b])]

/-- The operation that carries a run of an entry of a window page to its device (R249). -/
def State.entryOp (s : State) (core : Nat) (e : WcbEntry) (run : Nat × List Byte) : FabOp :=
  let pa := e.line * 128 + run.1
  let marks := e.marks.filter (fun m => decide (run.1 ≤ m.off) && decide (m.off < run.1 + run.2.length))
  let home := match marks with
    | m :: _ => (m.wg, m.index, m.slot, m.t, m.who)
    | [] => (0, 0, 0, 0, .split 0)
  { cid := e.eid, core := core, slot := home.2.2.1, who := home.2.2.2.2, wg := home.1, index := home.2.1, t := home.2.2.2.1, qnum := 0, tagw := 0, ctx := 0,
    part := (s.partOfPlot (plotOf core)).getD 0, dev := bitsOf pa 48 4, kind := .wr, arg := pa % 2 ^ 48, n := run.2.length, data := run.2, dests := [],
    ext := .none, co := false, seq := none, since := s.elapsed, guardPend := [], acquire := none, entry := some { e with marks := marks } }

/-- An entry leaves the buffer toward its coherence point; one for host-coherent memory goes to the host port, and one for a window page over
the fabric (R122, R123, R249). -/
def State.sendEntry (s : State) (core : Nat) (e : WcbEntry) : State :=
  if e.space = .fabric then ({ s with fabOps := s.fabOps ++ (runsOf e.bytes).map (s.entryOp core e) } : State).sendFab else
  if e.space = .host then
    { s with
      hostReqs := s.hostReqs ++ [{ cid := e.eid, core := core, slot := 0, who := .split 0, part := (s.partOfPlot (plotOf core)).getD 0,
                                   kind := .store, accs := [], entry := some e, after := [], acquire := none }] }
  else s.modCore core (fun k => { k with drains := k.drains ++ [e] })

/-- The 2 µs limit of R122: every entry that has been allocated so long leaves its buffer, and AGEDR counts it. -/
def State.ageEntry (s : State) (core : Nat) (e : WcbEntry) : State :=
  ((s.modCore core (fun k => { k with wcb := k.wcb.erase e })).sendEntry core e).countAt core .agedr 1

def State.ageAll (s : State) : State :=
  (mkeys s.cores).foldl (fun (s : State) c =>
    ((s.core c).wcb.filter (fun e => decide (e.since + 2000 ≤ s.elapsed))).foldl (fun (s : State) e => s.ageEntry c e) s) s

/-- Time passes: no entry stays in a buffer longer than its limit (R122, R140). -/
def State.timeTo (s : State) (ns : Nat) : State := ({ s with elapsed := ns } : State).ageAll

/-- Drain the whole buffer of a core (R122): every entry leaves, in order. -/
def State.drainAll (s : State) (core : Nat) : State :=
  (s.core core).wcb.foldl (fun s e => s.sendEntry core e) (s.modCore core (fun k => { k with wcb := [] }))

/-- Drain a core's entries for one line. -/
def State.drainLine (s : State) (core : Nat) (sp : Space) (pa : Nat) : State :=
  let hit := fun (e : WcbEntry) => e.space == sp && e.line == pa / 128
  ((s.core core).wcb.filter hit).foldl (fun s e => s.sendEntry core e)
    (s.modCore core (fun k => { k with wcb := k.wcb.filter (fun e => !hit e) }))

/-- A forced publish (R132): every holder drains its whole buffer, and FPUBS counts each. -/
def State.publish (s : State) (part : Option Nat) (targets : List Nat) : State :=
  let s := targets.foldl (fun s c => s.drainAll c) s
  match part with
  | some p => s.count p .fpubs targets.length
  | none => s

/-- The forced publish of an access by a core to a line, and the entries whose acknowledgement it waits for (R132, R136). -/
def State.publishLine (s : State) (core : Nat) (sp : Space) (pa : Nat) : State × List Nat :=
  let ts := s.publishTo (plotOf core) (lineKey (plotOf core) sp pa) (some core)
  let s := s.publish (s.partOfPlot (plotOf core)) ts
  (s, s.eidsOf ts)

/-- Allocate a buffer entry (R122): the oldest leaves when all 32 are taken, and a holder notice goes out to the line's directory, which a
window page has on another device. -/
def State.wcbAlloc (s : State) (core slot : Nat) (who : Who) (cid : Nat) (sp : Space) (key pa : Nat) (m : NatMap Byte)
    (tag : Option Scope) (mark : List StoreMark) : State :=
  let s :=
    if (s.core core).wcb.length < Config.wcbEntries then s
    else match (s.core core).wcb with
      | [] => s
      | e :: r => (s.setCore core { s.core core with wcb := r }).sendEntry core e
  let e : WcbEntry :=
    { eid := s.nextId, line := pa / 128, space := sp, key := key, bytes := m, epoch := (s.core core).epoch,
      since := s.elapsed, owners := [(slot, who, cid)], tag := tag, wg := none, bad := false, marks := mark }
  let s := s.modCore core (fun k => { k with wcb := k.wcb ++ [e] })
  let s := if sp = .fabric then s else s.holderAdd core (lineKey (plotOf core) sp pa)
  { s with nextId := s.nextId + 1 }

/-- The last element of a list that satisfies a test, with its place. -/
def lastOf {α : Type} (p : α → Bool) : List α → Option (Nat × α)
  | [] => none
  | x :: r => match lastOf p r with
    | some (i, y) => some (i + 1, y)
    | none => if p x then some (0, x) else none

/-- Store bytes of one line into the write-combining buffer (R122).  They combine into the newest entry of the line unless a
marker or an STL's write stands between; otherwise a new entry is allocated.  A full entry leaves at once. -/
def State.wcbPut (s : State) (core slot : Nat) (who : Who) (cid : Nat) (sp : Space) (key pa : Nat) (bs : List Byte)
    (tag : Option Scope) (mark : List StoreMark) : State :=
  let k := s.core core
  let put := fun (m : NatMap Byte) => (bs.zipIdx).foldl (fun m e => mset m (pa % 128 + e.2) e.1) m
  let same := fun (e : WcbEntry) => e.space == sp && e.line == pa / 128 && e.key == key
  match lastOf same k.wcb with
  | some (i, e) =>
    if e.epoch = k.epoch ∧ e.tag = none ∧ tag = none then
      let e' := { e with bytes := put e.bytes, owners := e.owners ++ [(slot, who, cid)], marks := e.marks ++ mark }
      if e'.bytes.length = 128 then (s.setCore core { k with wcb := dropAt k.wcb i }).sendEntry core e'
      else s.setCore core { k with wcb := setAt k.wcb i e' }
    else s.wcbAlloc core slot who cid sp key pa (put []) tag mark
  | none => s.wcbAlloc core slot who cid sp key pa (put []) tag mark

end Sys2Proof.Machine
end

