-- ==== Sys2Proof/Machine/MemOps.lean ====
section
/-! DEFINITION. How a memory instruction runs: the verdict strand by strand, parking on page faults, and the execution of its
accesses in each memory space (10_memory_engine.md R236 to R260, 05_memory_model.md R114 to R136). -/

namespace Sys2Proof.Machine

/-- A cause of one thread of a memory instruction and the address it is about. -/
abbrev MemCause := Cause × Nat

/-- The units of an instruction over some threads: each thread, or with u = 1 each strand, with the threads it serves
(R237). -/
def Iss.units (c : Iss) (u : Bool) (ts : List Nat) : List (Nat × List Nat) :=
  if u then (upto 16).filterMap (fun l =>
    match ts.filter (fun t => t / 4 == l) with
    | [] => none
    | t :: r => some (t, t :: r))
  else ts.map (fun t => (t, [t]))

/-- The verdict of an instruction (R239): the accesses of the threads that go ahead, the strands that park with the threads
of their replay mask and the pages they ask for, and the cause that the other strands take. -/
structure Verdict where
  go : List Access
  performs : Bool
  parked : Nat
  replay : Nat
  pages : List Nat
  trap : Option MemCause
  deriving DecidableEq, Repr

/-- The lowest of some causes, the first of equals (R159). -/
def lowestCause : List MemCause → Option MemCause
  | [] => none
  | c :: r =>
    match lowestCause r with
    | none => some c
    | some d => if c.1.code ≤ d.1.code then some c else some d

/-- Is a cause the parking one? -/
def MemCause.parks (e : MemCause) : Bool := e.1 == .pageAbsent

/-- Decide over the checked units (R239).  `checked` holds each unit with the answer of its checks. -/
def decideVerdict (checked : List ((Nat × List Nat) × Except MemCause (List Access))) : Verdict :=
  let causes := fun (l : Nat) => checked.filterMap (fun e => if e.1.1 / 4 = l then
    (match e.2 with
      | .error c => some c
      | .ok _ => none) else none)
  let lanes := (checked.map (fun e => e.1.1 / 4)).dedup
  let parks := lanes.filter (fun l => (causes l).any MemCause.parks)
  let stays := lanes.filter (fun l => !parks.contains l)
  let trap := lowestCause (stays.flatMap causes)
  let mixed := parks.filter (fun l => (causes l).any (fun c => !c.parks))
  let goes := fun (l : Nat) => if parks.contains l then !mixed.contains l else trap.isNone
  let okAcc := fun (e : (Nat × List Nat) × Except MemCause (List Access)) =>
    match e.2 with
    | .ok a => if goes (e.1.1 / 4) then a else []
    | .error _ => []
  let replayOf := fun (e : (Nat × List Nat) × Except MemCause (List Access)) =>
    if parks.contains (e.1.1 / 4) then
      match e.2 with
      | .error c => if c.parks || mixed.contains (e.1.1 / 4) then e.1.2 else []
      | .ok _ => if mixed.contains (e.1.1 / 4) then e.1.2 else []
    else []
  { go := checked.flatMap okAcc,
    performs := checked.isEmpty || checked.any (fun e => goes (e.1.1 / 4) && e.2.toBool),
    parked := maskOf parks,
    replay := maskOf (checked.flatMap replayOf),
    pages := ((checked.filterMap (fun e => match e.2 with
      | .error c => if c.parks then some (c.2 / 4096) else none
      | .ok _ => none)).dedup),
    trap := trap }

/-- Page requests of a parked issuer (R245): one record for each distinct page. -/
def State.askPages (s : State) (c : Iss) (pages : List Nat) : State × List PageAsk :=
  pages.foldl (fun acc p =>
    let r := { acc.1.warpRecord c.core c.slot c.w Cause.pageAbsent.code 0 c.pc.toNat (p * 4096) with kind := .pagereq }
    let n := acc.1.nextSeq r.ctx
    (acc.1.post r, acc.2 ++ [{ page := p, seq := n, answer := .waiting }])) (s, [])

/-- Park the whole issuer for page requests, to replay the given threads (R239, R245). -/
def State.parkPages (s : State) (c : Iss) (pages : List Nat) (replay : Option Nat) : State :=
  let (s, asks) := s.askPages c pages
  let s := s.park c (.page asks)
  s.modSplit c (fun sp => { sp with replay := replay })

/-- Take some strands out of the issuing split as a new parked split (R239), and the context of what remains. -/
def State.splitOff (s : State) (c : Iss) (parked : Nat) (asks : List PageAsk) (replay : Nat) : State × Iss :=
  match c.who, c.split with
  | .split e, some sp =>
    let s := s.modWarp c.core c.slot (fun w =>
      match mget? w.splits e, firstBelow 16 (fun i => (mget? w.splits i).isNone) with
      | some cur, some n =>
        let off : Split := { cur with strands := parked, status := .parked (.page asks), reserve := none, replay := some replay }
        { w with splits := mset (mset w.splits e { cur with strands := sp.strands - parked }) n off }
      | _, _ => w)
    match s.issFor c.core c.slot c.who c.cost with
    | some c' => (s, c')
    | none => (s, c)
  | _, _ => (s, c)

/-- End a memory instruction by its verdict (R239): `run` performs the accesses that go ahead; strands park, and the rest
finishes or takes its cause. -/
def State.settle (s : State) (c : Iss) (v : Verdict) (run : State → State) : State :=
  let s := if v.performs then run s else s
  if v.parked = 0 then
    match v.trap with
    | some (cause, a) => s.takeTrap c cause a
    | none => s.finish c []
  else
    match c.who, c.split with
    | .helper _, _ => s.parkPages c v.pages none
    | .split _, none => s
    | .split _, some sp =>
      if sp.strands = v.parked then s.parkPages c v.pages (some v.replay)
      else
        let (s, asks) := s.askPages c v.pages
        let (s, c') := s.splitOff c v.parked asks v.replay
        match v.trap with
        | some (cause, a) => s.takeTrap c' cause a
        | none => s.finish c' []

/-! ### The prologue of an asynchronous command -/

/-- The operands of a memory instruction. -/
structure MemSpec where
  /-- Permitted in a helper (Table 11-4). -/
  inHelper : Bool
  g : Bool
  u : Bool
  cls : Option CounterCls
  srcs : List (Opnd × Nat)
  dst : Option (Opnd × Nat)
  /-- The destination is operand x, which resolves last, not d (R48). -/
  dstLast : Bool := false
  /-- A fab form: it enters the fabric engine's queue, not the memory engine's (R27). -/
  fab : Bool := false
  deriving DecidableEq, Repr

/-- Is the engine queue of a command full (R27)?  A remote operation leaves the fabric engine's queue as its frame is sent
(assumption 90). -/
def State.queueFull (s : State) (core : Nat) (fab : Bool) : Bool :=
  decide (Config.queueDepth ≤ if fab then ((s.fabOps.filter (fun f => f.core == core && f.co && f.seq.isNone)).map (fun f => f.cid)).dedup.length
    else (s.core core).memQ.length)

/-- Predicates of guards that are still being written, over some threads (R28). -/
def State.pendingGuards (s : State) (c : Iss) (ts : List Nat) : List Nat :=
  let sel := (ts.map (fun t => match c.hel with
    | some h => h.guardP
    | none => (c.w.strand (t / 4)).guardP)).dedup
  sel.filterMap (fun p =>
    let key := predKey c.who p
    if p ≠ 0 ∧ (s.core c.core).stages.any (fun st => st.slot == c.slot && st.preds.contains key) then some key else none)

/-- Guard slots of the issuer (R28). -/
def Iss.slotsHeld (c : Iss) : List Nat :=
  match c.hel with
  | some h => h.guardSlots
  | none => c.w.guardSlots

/-- Would the command need a fifth guard slot (R28)? -/
def Iss.slotsFull (c : Iss) (ps : List Nat) : Bool := decide (4 < (c.slotsHeld ++ ps.filter (fun p => !c.slotsHeld.contains p)).length)

/-- Take guard slots (R28). -/
def State.takeSlots (s : State) (c : Iss) (ps : List Nat) : State :=
  let add := fun (held : List Nat) => held ++ ps.filter (fun p => !held.contains p)
  match c.who with
  | .split _ => s.modWarp c.core c.slot (fun w => { w with guardSlots := add w.guardSlots })
  | .helper l => s.modHelper c.core c.slot l (fun h => { h with guardSlots := add h.guardSlots })

/-- Is an LDA of this slot outstanding?  No later access is performed before it (R126). -/
def State.ldaOpen (s : State) (core slot : Nat) : Bool :=
  (s.core core).loadsPending.any (fun l => l.slot == slot && l.acquire.isSome) ||
  (s.core core).memQ.any (fun m => m.slot == slot && m.acquire.isSome) ||
  s.hostReqs.any (fun r => r.core == core && r.slot == slot && r.acquire.isSome) ||
  s.fabOps.any (fun f => f.core == core && f.slot == slot && f.acquire.isSome)

/-- The operands of a memory instruction in their order: a destination d comes first, a destination x last (R48). -/
def MemSpec.checks (m : MemSpec) (c : Iss) : Checks :=
  let srcs := m.srcs.map (fun o => (c.srcTids m.u c.tids, o))
  let dst := c.checkAll m.dst.toList
  if m.dstLast then srcs ++ dst else dst ++ srcs

/-- The checks before a memory instruction acts: what it may name, operands, registers still to be written, soft errors,
frozen registers, queue, counter and guard slots (R48, R149, R27, R28, R31, R281). -/
def memPrologue (m : MemSpec) (s : State) (c : Iss) (k : List Nat → State) : State :=
  let stids := c.srcTids m.u c.tids
  if c.hel.isSome && !m.inHelper then s.decodeTrap c .illegalOp
  else match c.checksCause (m.checks c) with
    | some e => s.decodeTrap c e
    | none =>
      let ps := if m.g then s.pendingGuards c c.tids else []
      if c.pendingRead (s.pendingLocs c.core c.slot) stids m.srcs || (s.pendingLocs c.core c.slot).hasIx c.tids m.dst.toList then s.stall
      else if (match m.dst with
          | some d => c.sharedWrite (c.exec m.g) d.1 d.2
          | none => false) then s.takeTrap c .sharedWrite 0
      else if c.badRead stids m.srcs then s.takeTrap c .eccUncorrectable 0
      else if s.queueFull c.core m.fab ||
          (match m.cls with
            | some cl => decide (cl.max ≤ c.counterOf cl)
            | none => false) ||
          c.slotsFull ps || s.ldaOpen c.core c.slot then s.stall
      else k ps

/-! ### Running a memory command -/

/-- The register words that a unit's load fills: for each thread served, the resolved destination. -/
def Iss.destsOf (c : Iss) (ts : List Nat) (o : Opnd) (n : Nat) : List (Nat × RegLoc) :=
  ts.flatMap (fun t => match c.resolve t o n with
    | .ok ls => ls.map (fun l => (t, l))
    | .error _ => [])

/-- Bytes as register words under the extension of a load (R246). -/
def loadWords (ext : Extend) (bs : List Byte) : List Word :=
  match ext with
  | .none => natWords (bs.length / 4) (leNat bs)
  | .zero => [BitVec.ofNat 32 (leNat bs)]
  | .sign => [BitVec.ofInt 32 (signed (8 * bs.length) (leNat bs))]

/-- The words written to the destinations of a unit: the same value to every thread it serves (R237). -/
def fillDests (dests : List (Nat × RegLoc)) (ws : List Word) : List (Nat × RegLoc × Word) :=
  dests.zipIdx.map (fun e => (e.1.1, e.1.2, (ws[e.2 % ws.length]?).getD 0))

/-- The new value of an atomic (R258). -/
def AtomOp.apply (op : AtomOp) (old v w : Word) : Word :=
  match op with
  | .add => old + v
  | .incw => if old.toNat ≥ v.toNat then 0 else old + 1
  | .exch => v
  | .cas => if old = v then w else old
  | .min => if old.toInt ≤ v.toInt then old else v
  | .max => if old.toInt ≤ v.toInt then v else old
  | .minu => if old.toNat ≤ v.toNat then old else v
  | .maxu => if old.toNat ≤ v.toNat then v else old
  | .and => old &&& v
  | .or => old ||| v
  | .xor => old ^^^ v

/-- A word of bytes. -/
def bytesWord (bs : List Byte) : Word := BitVec.ofNat 32 (leNat bs)

/-- Threads of an atomic in the order the agenda names, the others after it in rising order (R114). -/
def orderAccs (order : List Nat) (accs : List Access) : List Access :=
  order.flatMap (fun t => accs.filter (fun a => a.t == t)) ++ accs.filter (fun a => !order.contains a.t)

/-- One atomic access at its coherence point (R136, R258): the word as it was, and the state after it. -/
def State.atomAccess (s : State) (core : Nat) (op : AtomOp) (a : Access) : State × Word :=
  let v := bytesWord (a.data.take 4)
  let w := bytesWord (a.data.drop 4)
  match a.space with
  | .scratch =>
    let old := bytesWord ((s.core core).scrRead a.addr 4)
    (s.modCore core (fun k => k.scrWrite a.addr (leBytes 4 (op.apply old v w).toNat)), old)
  | sp =>
    let old := bytesWord (s.memRead (plotOf core) sp a.aux a.addr 4)
    let s := s.performWrite (plotOf core) sp a.aux a.addr (leBytes 4 (op.apply old v w).toNat)
    (s.l1Drop core a.aux a.addr, old)

/-- The atomics of one instruction, one after another (R114): the state and the words that return. -/
def State.atomAll (s : State) (core : Nat) (op : AtomOp) : List Access → State × List (Nat × RegLoc × Word)
  | [] => (s, [])
  | a :: r =>
    let (s, old) := s.atomAccess core op a
    let (s, ws) := s.atomAll core op r
    (s, fillDests a.dests [old] ++ ws)

/-- Is an access one to the scratchpad of another unit's choosing: a remote one, which travels (R252)? -/
def Access.remote (a : Access) : Bool := a.space == .scratch && a.aux != 0

/-- May two accesses of a core touch one location: global ones of one line, own scratchpad ones of one line, or an own one and a remote one
that names the own core? -/
def Access.meets (core : Nat) (a b : Access) : Bool :=
  a.space == b.space &&
    (if a.remote || b.remote then (if a.remote then a.aux == core + 1 else b.aux == core + 1) && a.remote != b.remote
    else a.addr / 128 == b.addr / 128)

/-- Does an access to the own scratchpad touch a word that a remote access is on its way to? -/
def Remote.meets (r : Remote) (core : Nat) (a : Access) : Bool :=
  a.space == .scratch && !a.remote && r.target == core && decide (r.word * 4 < (a.addr + a.n : Nat)) && decide ((a.addr : Int) < (r.word + r.words) * 4)

/-- Do accesses meet an earlier access of the slot that has not been performed, on one line (Table 5-1 case 1)? -/
def State.overlaps (s : State) (core slot : Nat) (accs : List Access) : Bool :=
  let k := s.core core
  let pend := ((k.loadsPending.filter (fun l => l.slot == slot)).flatMap (fun l => l.accs)) ++
    ((k.storesPending.filter (fun p => p.slot == slot)).flatMap (fun p => match p.work with
      | .ack => []
      | .release as _ => as
      | .red _ as => as)) ++
    ((k.memQ.filter (fun m => m.slot == slot)).flatMap (fun m => m.accs)) ++
    ((s.hostReqs.filter (fun r => r.core == core && r.slot == slot && r.entry.isNone)).flatMap (fun r => r.accs))
  accs.any (fun a => pend.any (fun b => a.meets core b)) ||
  accs.any (fun a => s.remotes.any (fun r => r.core == core && r.slot == slot && r.go && r.meets core a)) ||
  accs.any (fun a => a.space == .fabric && s.fabOps.any (fun f => f.core == core && f.slot == slot && f.ls && f.dev == bitsOf a.addr 48 4 && f.arg / 128 == a.addr % 2 ^ 48 / 128))

/-- Is a memory command a CPA16, whose accesses are on the GA path (R137)? -/
def MemCmd.ga (m : MemCmd) : Bool := match m.kind with
  | .copier _ => true
  | _ => false

/-- LS commands of some issuers of a core, by number, with an access that has not been performed and does not stand in the buffer (R118,
R125, R139). -/
def State.lsOpenBy (s : State) (core : Nat) (by' : Nat → Who → Bool) : List Nat :=
  let k := s.core core
  ((k.loadsPending.filter (fun l => by' l.slot l.who && (!l.accs.isEmpty || l.acquire.isSome))).map (fun l => l.cid)) ++
  ((k.storesPending.filter (fun p => by' p.slot p.who)).map (fun p => p.cid)) ++
  ((k.memQ.filter (fun m => by' m.slot m.who && !m.ga)).map (fun m => m.cid)) ++
  ((s.remotes.filter (fun r => r.core == core && by' r.slot r.who && r.go)).map (fun r => r.cid)) ++
  ((s.hostReqs.filter (fun r => r.core == core && by' r.slot r.who && r.entry.isNone)).map (fun r => r.cid)) ++
  ((s.fabOps.filter (fun f => f.core == core && by' f.slot f.who && f.ls)).map (fun f => f.cid))

/-- Those of a slot. -/
def State.lsOpen (s : State) (core slot : Nat) : List Nat := s.lsOpenBy core (fun sl _ => sl == slot)

/-- Did a helper issue an access that a fault has ended since (R287)? -/
def Who.orphaned : Who → Bool
  | .helper l => decide (16 ≤ l)
  | .split _ => false

/-- Is one outstanding that a helper of the slot left when a fault ended it (R287)? -/
def State.orphansOpen (s : State) (core slot : Nat) : Bool := !(s.lsOpenBy core (fun sl w => sl == slot && w.orphaned)).isEmpty

/-- Is one of a core not yet performed, nor a store of it acknowledged?  No counter of a warp counts it (R287), and yet it comes before the
completion of its grid (R437). -/
def State.orphansLeft (s : State) (core : Nat) : Bool :=
  !(s.lsOpenBy core (fun _ w => w.orphaned)).isEmpty || (s.unacked core).any (fun e => e.owners.any (fun o => o.2.1.orphaned))

/-- The target device and window address of a window page's physical address (R402). -/
def fabricDev (pa : Nat) : Nat := bitsOf pa 48 4
def fabricArg (pa : Nat) : Nat := pa % 2 ^ 48

/-- LS-path reads and atomics of window pages become remote operations (R249, R405), which wait for the given buffer entries. -/
def State.fabricOps (s : State) (core : Nat) (m : MemCmd) (kind : FabKind) (ext : Extend) (accs : List Access) (after : List Nat) : State :=
  let w := s.warp? core m.slot
  let ctx := match w with
    | some w => w.ctx
    | none => 0
  let part := match mget? s.ctxs ctx with
    | some x => x.part
    | none => 0
  let home := match w with
    | some w => (w.wg, w.index, s.rootTag w)
    | none => (0, 0, 0, 0)
  if accs.isEmpty then s
  else
    let f := fun (a : Access) =>
      ({ cid := m.cid, core := core, slot := m.slot, who := m.who, wg := home.1, index := home.2.1, t := a.t, qnum := home.2.2.1, tagw := home.2.2.2,
         ctx := ctx, part := part, dev := fabricDev a.addr, kind := kind,
         arg := fabricArg a.addr, n := a.n, data := a.data, dests := a.dests, ext := ext, co := false, seq := none, since := s.elapsed,
         guardPend := [], acquire := m.acquire, after := after } : FabOp)
    let s' : State := { s with fabOps := s.fabOps ++ accs.map f }
    s'.sendFab

/-- Stores of global memory, window pages included (R116), enter the write-combining buffer and update a present L1 line (R247); the threads in rising
order, so that the highest sr.tid stands (R114). -/
def State.storeAccs (s : State) (core slot : Nat) (who : Who) (cid : Nat) (tag : Option Scope) (accs : List Access) : State :=
  accs.foldl (fun s a =>
    let s := if a.space = .hbm then s.l1Store core a.aux a.addr a.data else s
    let w := s.warp? core slot
    if a.space = .fabric then
      s.wcbPut core slot who cid a.space 0 a.addr a.data tag (w.toList.map (fun w => { wg := w.wg, index := w.index, slot := slot, t := a.t, who := who, off := a.addr % 128 }))
    else s.wcbPut core slot who cid a.space a.aux a.addr a.data tag []) s

/-- The store commands of a slot that are outstanding, by number. -/
def State.storeCids (s : State) (core slot : Nat) : List Nat :=
  let k := s.core core
  (((k.storesPending.filter (fun p => p.slot == slot)).map (fun p => p.cid)) ++
   ((k.memQ.filter (fun m => m.slot == slot)).filterMap (fun m => match m.kind with
      | .store | .privStore | .atom _ false => some m.cid
      | _ => none)) ++
   ((s.unacked core).flatMap (fun e => e.owners.filterMap (fun o => if o.1 = slot then some o.2.2 else none))) ++
   ((s.remotes.filter (fun r => r.core == core && r.slot == slot && r.dests.isEmpty)).map (fun r => r.cid)) ++
   ((s.hostReqs.filter (fun r => r.core == core && r.slot == slot && r.entry.isNone && r.accs.all (fun a => a.dests.isEmpty))).map (fun r => r.cid)) ++
   ((s.fabOps.filter (fun f => f.core == core && f.slot == slot && f.cls == some .stores)).map (fun f => f.cid))).dedup

/-- A pending load or atomic (R31). -/
def State.pushLoad (s : State) (core : Nat) (l : Load) : State :=
  s.modCore core (fun k => { k with loadsPending := k.loadsPending ++ [l] })

def State.pushStore (s : State) (core : Nat) (p : StorePend) : State :=
  s.modCore core (fun k => { k with storesPending := k.storesPending ++ [p] })

/-- Forced publishes for a list of accesses where `others`, and the entries to wait for; own entries of each line drain too where `own`
(R132, R136). -/
def State.publishAccs (s : State) (core : Nat) (own others : Bool) (accs : List Access) : State × List Nat :=
  let lines := ((accs.filter (fun a => a.space == .hbm || a.space == .plot || a.space == .host || a.space == .fabric)).map (fun a => (a.space, a.addr / 128 * 128))).dedup
  lines.foldl (fun acc l =>
    let s := if own then acc.1.drainLine core l.1 l.2 else acc.1
    let mine := if own then (s.unacked core).filterMap (fun e => if e.space = l.1 ∧ e.line = l.2 / 128 then some e.eid else none) else []
    if others && l.1 != .fabric then
      let (s, es) := s.publishLine core l.1 l.2
      (s, acc.2 ++ mine ++ es)
    else (s, acc.2 ++ mine)) (s, [])

/-- Is a command an LDA or an atomic, whose access of a held line sends the forced publish of R132? -/
def MemCmd.publishes (m : MemCmd) : Bool := m.acquire.isSome || (match m.kind with
  | .atom _ _ => true
  | _ => false)

/-- Host-coherent accesses of a command go to the host port (R249), after the core's own buffered writes of their lines, and for an LDA or
an atomic after those of the other holders (R132, R136). -/
def State.hostAccs (s : State) (core : Nat) (m : MemCmd) (accs : List Access) : State :=
  if accs.isEmpty then s
  else
    let (s, eids) := s.publishAccs core true m.publishes accs
    { s with
      hostReqs := s.hostReqs ++ [{ cid := m.cid, core := core, slot := m.slot, who := m.who,
                                   part := (s.partOfPlot (plotOf core)).getD 0, kind := m.kind, accs := accs, entry := none, after := eids,
                                   acquire := m.acquire }] }

/-- Reads and atomics of window pages (R249), after the core's own buffered writes of their lines (R121, R136). -/
def State.fabricLs (s : State) (core : Nat) (m : MemCmd) (kind : FabKind) (ext : Extend) (accs : List Access) : State :=
  if accs.isEmpty then s
  else
    let (s, eids) := s.publishAccs core true false accs
    s.fabricOps core m kind ext accs eids

/-- Does a read of a core take a byte from a buffer entry that carries an uncorrectable error (R272)? -/
def State.bufferEcc (s : State) (core : Nat) (sp : Space) (key pa n : Nat) : Bool :=
  (s.unacked core).any (fun e => e.bad && e.space == sp && e.key == key && e.line == pa / 128 && (upto n).any (fun i => (mget? e.bytes ((pa + i) % 128)).isSome))

/-- Does an LDP read a dirty private line, or a buffer entry, that carries one (R272)?  A clean line is fetched again. -/
def State.privEcc (s : State) (core slot key pa n : Nat) : Bool :=
  match (s.core core).l1.find? (fun l => l.isPrivate slot key (pa / 128)) with
  | some l => l.bad && !l.dirty.isEmpty
  | none => s.bufferEcc core .hbm key pa n

/-- Private bytes of a warp slot as LDP reads them: the private line in L1, else what the core finds beyond (R257). -/
def State.privBytes (s : State) (core slot key pa n : Nat) : List Byte :=
  match (s.core core).l1.find? (fun l => l.isPrivate slot key (pa / 128)) with
  | some l => (upto n).map (fun i => (l.data[(pa + i) % 128]?).getD 0)
  | none => s.beyond core .hbm key pa n

/-- Bring a private line into L1 or make it most recently used (R257). -/
def State.privTouch (s : State) (core slot key pa : Nat) : State :=
  match (s.core core).l1.find? (fun l => l.isPrivate slot key (pa / 128)) with
  | some l => s.l1Put core l
  | none => s.l1Put core { line := pa / 128, key := key, data := s.beyond core .hbm key (pa / 128 * 128) 128, owner := some slot, dirty := [], bad := false }

/-- Write private bytes into the warp's L1 line, which becomes dirty (R257). -/
def State.privWrite (s : State) (core slot key pa : Nat) (bs : List Byte) : State :=
  (s.privTouch core slot key pa).modCore core (fun k => { k with
    l1 := k.l1.map (fun l => if l.isPrivate slot key (pa / 128) then
      { l with data := patch l.data (pa % 128) bs,
               dirty := bs.zipIdx.foldl (fun m e => mset m (pa % 128 + e.2) e.1) l.dirty } else l) })

/-- Accesses of one space. -/
def inSpace (sp : Space) (accs : List Access) : List Access := accs.filter (fun a => a.space == sp)

/-- Run a load (R246 to R248, R251): data of HBM, plot memory and the own scratchpad are read now, an LDA's at its return;
host and window accesses travel.  Each part of an LDA acquires as its read returns (R126). -/
def State.runLoad (s : State) (core : Nat) (m : MemCmd) (ext : Extend) : State :=
  let glob := inSpace .hbm m.accs ++ inSpace .plot m.accs
  let scr := (inSpace .scratch m.accs).flatMap (fun a => fillDests a.dests (loadWords ext (if a.data.isEmpty then (s.core core).scrRead a.addr a.n else a.data)))
  let s := (s.hostAccs core m (inSpace .host m.accs)).fabricLs core m .rd ext (inSpace .fabric m.accs)
  match m.acquire with
  | some sc =>
    let (s, eids) := s.publishAccs core false true glob
    let travels := glob.isEmpty && m.accs.any (fun a => a.space == .host || a.space == .fabric)
    s.pushLoad core { cid := m.cid, slot := m.slot, who := m.who, writes := scr, kind := m.kind, accs := glob, after := eids,
                      acquire := if travels then none else some sc }
  | none =>
    let ws := glob.flatMap (fun a => fillDests a.dests (loadWords ext (s.loadBytes core a.space a.aux a.addr a.n)))
    let s := glob.foldl (fun s a => if a.space = .hbm then s.l1Load core a.aux a.addr else s) s
    s.pushLoad core { cid := m.cid, slot := m.slot, who := m.who, writes := scr ++ ws, kind := m.kind, accs := [], after := [], acquire := none,
                      hbm := (inSpace .hbm m.accs).flatMap (fun a => a.dests) }

/-- Run a store (R247, R248, R251).  An STL's write, to a window page too, waits for every earlier access of the split that is still to be
performed (Table 5-1 case 3) and for its release actions (R125, Table 5-2). -/
def State.runStore (s : State) (core : Nat) (m : MemCmd) : State :=
  let glob := m.accs.filter (fun a => a.space != .scratch)
  let s := s.modCore core (fun k => (inSpace .scratch m.accs).foldl (fun k a => k.scrWrite a.addr a.data) k)
  match m.release with
  | some sc =>
    let before := (s.lsOpen core m.slot).filter (fun n => decide (n < m.cid))
    if sc.ctorIdx < 4 then
      s.pushStore core { cid := m.cid, slot := m.slot, who := m.who, work := .release glob sc, after := [], afterCids := before }
    else
      let before := (before ++ (s.storeCids core m.slot).filter (fun n => decide (n < m.cid))).dedup
      let s := s.drainAll core
      s.pushStore core { cid := m.cid, slot := m.slot, who := m.who, work := .release glob sc, after := s.eidsOf [core], afterCids := before }
  | none =>
    if glob.isEmpty then
      s.pushStore core { cid := m.cid, slot := m.slot, who := m.who, work := .ack, after := [], afterCids := [] }
    else s.storeAccs core m.slot m.who m.cid none glob

/-- Run an atomic (R136, R258, R259): the own scratchpad's now, the others at their coherence point once buffered writes of
their lines have drained. -/
def State.runAtom (s : State) (core : Nat) (m : MemCmd) (op : AtomOp) (returns : Bool) : State :=
  let order := s.tidOrder
  let (s, ws) := s.atomAll core op (orderAccs order (inSpace .scratch m.accs))
  let glob := orderAccs order (inSpace .hbm m.accs ++ inSpace .plot m.accs)
  let s := (s.hostAccs core m (orderAccs order (inSpace .host m.accs))).fabricLs core m (.amo op) .none (orderAccs order (inSpace .fabric m.accs))
  let (s, eids) := s.publishAccs core true true glob
  let s := { s with tidOrder := [] }
  if returns then
    s.pushLoad core { cid := m.cid, slot := m.slot, who := m.who, writes := ws, kind := m.kind, accs := glob, after := eids, acquire := none }
  else
    s.pushStore core { cid := m.cid, slot := m.slot, who := m.who, work := if glob.isEmpty then .ack else .red op glob, after := eids, afterCids := [] }

/-- Run an LDP or STP (R256, R257): private lines of HBM live in L1; a private page elsewhere is accessed as global memory. -/
def State.runPriv (s : State) (core : Nat) (m : MemCmd) (store : Bool) : State :=
  let priv := inSpace .hbm m.accs
  let other := m.accs.filter (fun a => a.space != .hbm)
  if store then
    let s := priv.foldl (fun s a => s.privWrite core m.slot a.aux a.addr a.data) s
    if other.isEmpty then s.pushStore core { cid := m.cid, slot := m.slot, who := m.who, work := .ack, after := [], afterCids := [] }
    else s.runStore core { m with accs := other }
  else
    let ws := priv.flatMap (fun a => fillDests a.dests (loadWords .none (s.privBytes core m.slot a.aux a.addr a.n)))
    let s := priv.foldl (fun s a => s.privTouch core m.slot a.aux a.addr) s
    let s := s.pushLoad core { cid := m.cid, slot := m.slot, who := m.who, writes := ws, kind := m.kind, accs := [], after := [], acquire := none,
                               hbm := priv.flatMap (fun a => a.dests) }
    if other.isEmpty then s else s.runLoad core { m with accs := other } .none

/-- Run a memory command that has reached the head of its engine (R27, R29). -/
def State.runMem (s : State) (core : Nat) (m : MemCmd) : State :=
  match m.kind with
  | .load ext => s.runLoad core m ext
  | .store => s.runStore core m
  | .atom op returns => s.runAtom core m op returns
  | .privLoad => s.runPriv core m false
  | .privStore => s.runPriv core m true
  | .copier qs => s.modCore core (fun k => { k with copyQ := k.copyQ ++ qs })

/-- Run queued commands from the head while no guard slot holds them (R29). -/
def State.runMemQ (s : State) (core : Nat) : Nat → State
  | 0 => s
  | n + 1 =>
    match (s.core core).memQ with
    | [] => s
    | m :: r =>
      if m.guardPend.isEmpty then
        ((s.modCore core (fun k => { k with memQ := r })).runMem core m).runMemQ core n
      else s

/-- Give a command to the engine: it runs at once unless it, or an earlier command, waits on a guard slot (R27, R29). -/
def State.giveMem (s : State) (core : Nat) (m : MemCmd) : State :=
  if m.guardPend.isEmpty && (s.core core).memQ.isEmpty then s.runMem core m
  else s.modCore core (fun k => { k with memQ := k.memQ ++ [m] })

/-- A replayed command, whose destinations a shuffle from its threads waits for (R222). -/
def State.noteReplay (s : State) (c : Iss) (cid : Nat) : State :=
  match c.split.bind (fun sp => sp.replay) with
  | some r => s.modWarp c.core c.slot (fun w => { w with replays := (w.replays.filter (fun (x : Nat × Nat) => s.writing c.core c.slot x.2)) ++ [(r, cid)] })
  | none => s

/-- Issue a command of the LS path that has passed its verdict: its counter rises, its guard slots are taken and the engine
has it (R28, R31).  Threads whose guard is false make no access (R115). -/
def State.issueMem (s : State) (c : Iss) (m : MemSpec) (ps : List Nat) (kind : MemKind) (acq rel : Option Scope) (accs : List Access) : State :=
  let ex := c.exec m.g
  let accs := (accs.map (fun a => { a with dests := a.dests.filter (fun d => ex.contains d.1) })).filter
    (fun a => ex.any (fun t => if m.u then t / 4 == a.t / 4 else t == a.t))
  let cid := s.nextId
  let s := s.takeId.takeSlots c ps
  let s := match m.cls with
    | some cl => s.addCounter c.core c.slot c.who cl 1
    | none => s
  let s := s.noteReplay c cid
  s.giveMem c.core { cid := cid, slot := c.slot, who := c.who, kind := kind, accs := accs, acquire := acq, release := rel, guardPend := ps }

/-- The threads over which the verdict is reached (R238): every active one when a guard slot is taken.  A replay reaches it anew, by the guard
as it then is (assumption 99). -/
def Iss.verdictTids (c : Iss) (g : Bool) (ps : List Nat) : List Nat := if ps.isEmpty then c.exec g else c.tids

/-- Translation of a data access, with its address for the record. -/
def State.xlate (s : State) (c : Iss) (kind : AccessKind) (va : Nat) : Except MemCause Target :=
  match s.translate c.core c.w.ctx kind va with
  | .ok t => .ok t
  | .error e => .error (e, va)

/-- Keep the translations that an instruction's threads used (R244). -/
def State.fillTlbs (s : State) (c : Iss) (vas : List Nat) : State := vas.foldl (fun s va => s.tlbFill c.core c.w.ctx va) s

end Sys2Proof.Machine
end

