-- ==== Sys2Proof/Machine/Memory.lean ====
section
/-! DEFINITION. The memory engine: loads, stores, atomics, fences, cache control and MARM, one meaning for each instruction
(10_memory_engine.md R236 to R264, 06_sequencer.md R175). -/

namespace Sys2Proof

/-- Bytes and registers of an access width (Table 2-7). -/
def MWidth.bytes : MWidth → Nat
  | .w32 => 4 | .w64 => 8 | .w128 => 16

def MWidth.words : MWidth → Nat
  | .w32 => 1 | .w64 => 2 | .w128 => 4

def NarrowLoad.bytes : NarrowLoad → Nat
  | .zx8 | .sx8 => 1
  | .zx16 | .sx16 => 2

def NarrowLoad.extend : NarrowLoad → Machine.Extend
  | .zx8 | .zx16 => .zero
  | .sx8 | .sx16 => .sign

def NarrowStore.bytes : NarrowStore → Nat
  | .b8 => 1 | .b16 => 2

end Sys2Proof

namespace Sys2Proof.Machine

/-- The global address of thread t: the pair and the offset, wrapping modulo 2^64 (R240). -/
def Iss.globalVa (c : Iss) (u : Bool) (t : Nat) (a : Opnd) (off : Int) : Nat :=
  wrap 64 ((c.read (srcTid u t) a 2 : Int) + off)

/-- The byte offset of an M-format instruction (R57). -/
def byteOff (off : BitVec 7) (n : Nat) : Int := off.toInt * n

/-- The access of one unit to global memory (R239, R240): alignment, then translation; a load that takes a bad word from the buffer goes
to its warp as an error (R272). -/
def State.globalCheck (s : State) (c : Iss) (kind : AccessKind) (va n : Nat) (t : Nat) (data : List Byte) (dests : List (Nat × RegLoc)) :
    Except MemCause (List Access) :=
  if va % n ≠ 0 then .error (.align, va)
  else match s.xlate c kind va with
    | .error e => .error e
    | .ok tg =>
      if kind = .load ∧ s.bufferEcc c.core tg.space tg.key tg.pa n then .error (.eccUncorrectable, va)
      else .ok [{ t := t, space := tg.space, addr := tg.pa, n := n, data := data, dests := dests, aux := tg.key }]

/-- An instruction on global memory (R246, R248): its verdict, then its command. -/
def globalAccess (m : MemSpec) (s : State) (a : Opnd) (off : Int) (n : Nat) (kind : MemKind) (acc : AccessKind) (acq rel : Option Scope)
    (dst : Option (Opnd × Nat)) (data : Option (Opnd × Nat)) : Result :=
  withIss s (fun c => memPrologue m s c (fun ps =>
    let units := c.units m.u (c.verdictTids m.g ps)
    let va := fun (t : Nat) => c.globalVa m.u t a off
    let check := fun (x : Nat × List Nat) =>
      s.globalCheck c acc (va x.1) n x.1
        (match data with
          | some d => leBytes n (c.read (srcTid m.u x.1) d.1 d.2)
          | none => [])
        (match dst with
          | some d => c.destsOf x.2 d.1 d.2
          | none => [])
    let v := decideVerdict (units.map (fun x => (x, check x)))
    if s.overlaps c.core c.slot v.go then s.stall
    else (s.fillTlbs c (units.map (fun x => va x.1))).settle c v (fun s => s.issueMem c m ps kind acq rel v.go)))

/-- A load of global memory. -/
def globalLoad (s : State) (a d : Opnd) (off : Int) (n words : Nat) (ext : Extend) (acq : Option Scope) (g u : Bool) : Result :=
  globalAccess { inHelper := true, g := g, u := u, cls := some .loads, srcs := [(a, 2)], dst := some (d, words) } s a off n (.load ext) .load acq none
    (some (d, words)) none

/-- A store to global memory. -/
def globalStore (s : State) (a d : Opnd) (off : Int) (n words : Nat) (rel : Option Scope) (g u : Bool) : Result :=
  globalAccess { inHelper := true, g := g, u := u, cls := some .stores, srcs := [(d, words), (a, 2)], dst := none } s a off n .store .store none rel
    none (some (d, words))

/-- LD (R246). -/
def execLd (w : MWidth) (f : MForm) (s : State) : Result :=
  globalLoad s f.a f.d (byteOff f.off w.bytes) w.bytes w.words .none none f.g f.u

/-- LDN (R246). -/
def execLdn (k : NarrowLoad) (f : MForm) (s : State) : Result :=
  globalLoad s f.a f.d (byteOff f.off k.bytes) k.bytes 1 k.extend none f.g f.u

/-- ST (R246). -/
def execSt (w : MWidth) (f : MForm) (s : State) : Result :=
  globalStore s f.a f.d (byteOff f.off w.bytes) w.bytes w.words none f.g f.u

/-- STN (R246). -/
def execStn (k : NarrowStore) (f : MForm) (s : State) : Result :=
  globalStore s f.a f.d (byteOff f.off k.bytes) k.bytes 1 none f.g f.u

/-- LDA (R126, R248). -/
def execLda (w : MWidth) (sc : Scope) (f : ScopedForm) (s : State) : Result :=
  globalLoad s f.a f.d 0 w.bytes w.words .none (some sc) f.g f.u

/-- STL (R125, R248). -/
def execStl (w : MWidth) (sc : Scope) (f : ScopedForm) (s : State) : Result :=
  globalStore s f.a f.d 0 w.bytes w.words (some sc) f.g f.u

/-! ### Scratchpad -/

/-- What a scratchpad address names (R251). -/
inductive ScrTarget where
  /-- A byte of the core's scratchpad, in the own allocation. -/
  | local (byte : Nat)
  /-- The own handle. -/
  | handle
  | remote (core : Nat) (word : Int) (gen : Nat)
  deriving DecidableEq, Repr

/-- Resolve a scratchpad address (R250, R251, R254). -/
def State.scrTarget (s : State) (c : Iss) (addr : Nat) (off : Int) (n : Nat) (handleRead : Bool) : Except MemCause ScrTarget :=
  if hasBit addr 31 then
    let word : Int := (bitsOf addr 0 15 : Nat) + off / 4
    if word % ((n / 4 : Nat) : Int) ≠ 0 then .error (.align, addr)
    else .ok (.remote (plotOf c.core * 256 + bitsOf addr 15 8) word (bitsOf addr 23 8))
  else
    let byte : Int := (addr : Int) + off
    if addr = 0x40000000 ∧ handleRead then .ok .handle
    else match (s.core c.core).allocOf c.w.wg with
      | none => .error (.scratchRange, addr)
      | some al =>
        if bitsOf addr 17 14 ≠ 0 ∨ byte < 0 ∨ byte + n > (al.words * 4 : Nat) then .error (.scratchRange, addr)
        else if byte % (n : Int) ≠ 0 then .error (.align, addr)
        else .ok (.local (al.base * 4 + byte.toNat))

/-- The own handle (R254). -/
def State.ownHandle (s : State) (c : Iss) : Nat :=
  match (s.core c.core).allocOf c.w.wg with
  | some al => 0x80000000 + al.gen % 256 * 2 ^ 23 + c.core % 256 * 2 ^ 15 + al.base
  | none => 0x80000000 + (s.core c.core).gen % 256 * 2 ^ 23 + c.core % 256 * 2 ^ 15

/-- Does a range of scratchpad bytes hold an uncorrectable error (R272)? -/
def Core.scrEcc (k : Core) (byte n : Nat) : Bool := k.scrBad.any (fun w => decide (byte / 4 ≤ w ∧ w ≤ (byte + n - 1) / 4))

/-- The answer of a unit's checks in scratchpad: an own access, a remote one by its target's verdict, or a cause.  A remote
access is listed with its target in `aux`, and one whose handle names the own core is performed with the local ones once it is accepted, so
that the threads of the instruction keep their order (R114, R252). -/
def State.scrCheck (s : State) (c : Iss) (aux : Option Nat) (reads : Bool) (t n : Nat) (tgt : Except MemCause ScrTarget)
    (data : List Byte) (dests : List (Nat × RegLoc)) : Except MemCause (List Access) :=
  match tgt with
  | .error e => .error e
  | .ok (.local b) =>
    if reads && (s.core c.core).scrEcc b n then .error (.eccUncorrectable, b)
    else .ok [{ t := t, space := .scratch, addr := b, n := n, data := data, dests := dests, aux := 0 }]
  | .ok .handle => .ok [{ t := t, space := .scratch, addr := 0, n := 4, data := leBytes 4 (s.ownHandle c), dests := dests, aux := 0 }]
  | .ok (.remote core w _) =>
    match aux with
    | none => .ok []
    | some id =>
      match s.remotes.find? (fun r => r.id == id && r.t == t) with
      | some r =>
        match r.verdict with
        | some (some e) => .error (e, w.toNat)
        | _ =>
          if core = c.core then
            if reads && (s.core core).scrEcc (w.toNat * 4) n then .error (.eccUncorrectable, w.toNat * 4)
            else .ok [{ t := t, space := .scratch, addr := w.toNat * 4, n := n, data := data, dests := dests, aux := 0 }]
          else .ok [{ t := t, space := .scratch, addr := 0, n := 0, data := [], dests := dests, aux := core + 1 }]
      | none => .ok []

/-- An accepted remote write toward an allocation: its inbound count (R252, R253). -/
def Core.inbound (k : Core) (word gen : Nat) (f : Nat → Nat) : Core :=
  { k with allocs := k.allocs.map (fun a =>
      if a.gen == gen && decide (a.base ≤ word) && decide (word < a.base + a.words) then { a with inbound := f a.inbound } else a) }

/-- Is a memory kind a write at its target that the inbound count covers (R253)? -/
def MemKind.inboundCounts : MemKind → Bool
  | .store | .atom _ false => true
  | _ => false

/-- Let the accepted remote accesses of an instruction go ahead, to write the destinations of the executing threads `ex`, and withdraw the
others (R237, R252). -/
def State.releaseRemotes (s : State) (id cid : Nat) (ts ex : List Nat) : State :=
  s.remotes.foldl (fun s r =>
    if r.id ≠ id then { s with remotes := s.remotes ++ [r] }
    else if ts.contains r.t then { s with remotes := s.remotes ++ [{ r with go := true, cid := cid, dests := r.dests.filter (fun d => ex.contains d.1) }] }
    else if r.verdict = some none ∧ r.kind.inboundCounts then s.modCore r.target (fun k => k.inbound r.word.toNat r.gen (· - 1))
    else s) { s with remotes := [] }

/-- An instruction that may reach scratchpads (R251, R252, R259): `target` resolves each unit, `glob` checks the units that
name global memory.  With remote units it first sends them and waits for their verdicts; it parks with twice their number, and one more if
its guard was still to be written at issue, since the verdict then covers every active thread (R238). -/
def scratchAccess (m : MemSpec) (s : State) (n : Nat) (kind : MemKind) (reads : Bool)
    (target : Iss → Nat → Option (Except MemCause ScrTarget)) (glob : Iss → (Nat × List Nat) → Except MemCause (List Access))
    (vas : Iss → List Nat → List Nat) (data : Iss → Nat → List Byte) : Result :=
  withIss s (fun c => memPrologue m s c (fun ps =>
    let asked := c.resumed.map (fun n => n / 2)
    let units := c.units m.u (if c.resumed.any (fun n => n % 2 == 1) then c.tids else c.verdictTids m.g ps)
    let dests := fun (x : Nat × List Nat) => match m.dst with
      | some d => c.destsOf x.2 d.1 d.2
      | none => []
    let remote := units.filterMap (fun x => match target c x.1 with
      | some (.ok (.remote core w gen)) => some (x, core, w, gen)
      | _ => none)
    let waiting := match asked with
      | some id => s.remotes.any (fun r => r.id == id && r.verdict.isNone)
      | none => false
    if waiting then s.stall
    else if asked.isNone && !remote.isEmpty then
      let id := s.nextId
      let rs := remote.map (fun r =>
        { id := id, cid := id, core := c.core, slot := c.slot, who := c.who, t := r.1.1, target := r.2.1, word := r.2.2.1,
          words := n / 4, gen := r.2.2.2, ctx := c.w.ctx, kind := kind, data := data c r.1.1, dests := dests r.1, verdict := none, go := false : Remote })
      ({ s.takeId with remotes := s.remotes ++ rs }).park c (.instr (2 * id + if ps.isEmpty then 0 else 1))
    else
      let check := fun (x : Nat × List Nat) => match target c x.1 with
        | some tg => s.scrCheck c asked reads x.1 n tg (data c x.1) (dests x)
        | none => glob c x
      let v := decideVerdict (units.map (fun x => (x, check x)))
      if s.overlaps c.core c.slot v.go then s.stall
      else
        let ex := c.exec m.g
        let run := fun (s : State) =>
          let cid := s.nextId
          let goes := (v.go.filter (fun a => a.remote && ex.any (fun t => if m.u then t / 4 == a.t / 4 else t == a.t))).map (fun a => a.t)
          let s := match asked with
            | some id => s.releaseRemotes id cid goes ex
            | none => s
          s.issueMem c m ps kind none none (v.go.filter (fun a => !a.remote))
        let s := (s.fillTlbs c (vas c (units.map (fun x => x.1)))).settle c v run
        match asked with
        | some id => if v.performs then s else s.releaseRemotes id 0 [] []
        | none => s))

/-- An LDS or STS (R251). -/
def scrAccess (m : MemSpec) (s : State) (w : MWidth) (f : MForm) (kind : MemKind) (load : Bool) : Result :=
  scratchAccess m s w.bytes kind load
    (fun c t => some (s.scrTarget c (c.read (srcTid m.u t) f.a 1) (byteOff f.off w.bytes) w.bytes (load && w == .w32 && f.off == 0)))
    (fun _ _ => .ok []) (fun _ _ => [])
    (fun c t => if load then [] else leBytes w.bytes (c.read (srcTid m.u t) f.d w.words))

/-- LDS (R251, R252, R254). -/
def execLds (w : MWidth) (f : MForm) (s : State) : Result :=
  scrAccess { inHelper := true, g := f.g, u := f.u, cls := some .loads, srcs := [(f.a, 1)], dst := some (f.d, w.words) } s w f (.load .none) true

/-- STS (R251, R252). -/
def execSts (w : MWidth) (f : MForm) (s : State) : Result :=
  scrAccess { inHelper := true, g := f.g, u := f.u, cls := some .stores, srcs := [(f.d, w.words), (f.a, 1)], dst := none } s w f .store false

/-! ### Private memory -/

/-- The address of word w at byte offset p of thread t's private region (R255). -/
def privVa (pbase wg warps warp plim t p : Nat) : Nat :=
  pbase + (wg * warps + warp) * 64 * plim + 256 * (p / 4) + 4 * t + p % 4

/-- The checks of one unit of an LDP or STP (R256): alignment, the limit, then the translation of each word. -/
def State.privCheck (s : State) (c : Iss) (store : Bool) (p : Int) (w : MWidth) (t : Nat) (data : List Byte)
    (ts : List Nat) (d : Option Opnd) : Except MemCause (List Access) :=
  let plim : Nat := match s.ctxOf c.w with
    | some x => x.plim
    | none => 0
  if p % (w.bytes : Int) ≠ 0 then .error (.align, p.toNat)
  else if p < 0 ∨ p + w.bytes > (plim : Int) then .error (.stackLimit, p.toNat)
  else match s.gridOf c.w with
    | none => .error (.stackLimit, p.toNat)
    | some (_, g) =>
      let va := fun (i : Nat) => privVa g.pbase (c.w.wg % 2 ^ 32) g.warps c.w.index plim t (p.toNat + 4 * i) % 2 ^ 64
      let word := fun (i : Nat) => ((s.xlate c (if store then .store else .load) (va i)).bind (fun tg =>
        if !store && (if tg.space = .hbm then s.privEcc c.core c.slot tg.key tg.pa 4 else s.bufferEcc c.core tg.space tg.key tg.pa 4)
        then .error (.eccUncorrectable, va i) else .ok tg)).map (fun tg =>
        { t := t, space := tg.space, addr := tg.pa, n := 4, data := (data.drop (4 * i)).take (if store then 4 else 0),
          dests := match d with
            | some o => ts.flatMap (fun t' => match c.resolve t' o w.words with
                | .ok ls => ((ls[i]?).map (fun l => (t', l))).toList
                | .error _ => [])
            | none => [],
          aux := tg.key : Access })
      let as := (upto w.words).map word
      match lowestCause (as.filterMap (fun e => match e with
        | .error c => some c
        | .ok _ => none)) with
      | some e => .error e
      | none => .ok (as.filterMap Except.toOption)

/-- An LDP or STP (R256). -/
def privAccess (m : MemSpec) (s : State) (w : MWidth) (f : MForm) (store : Bool) : Result :=
  withIss s (fun c => memPrologue m s c (fun ps =>
    let units := c.units m.u (c.verdictTids m.g ps)
    let off := fun (t : Nat) => ((c.read (srcTid m.u t) f.a 1 : Nat) : Int) + byteOff f.off w.bytes
    let check := fun (x : Nat × List Nat) =>
      s.privCheck c store (off x.1) w (srcTid m.u x.1) (if store then leBytes w.bytes (c.read (srcTid m.u x.1) f.d w.words) else []) x.2
        (if store then none else some f.d)
    let v := decideVerdict (units.map (fun x => (x, (check x).map (fun as => as.map (fun a => { a with t := x.1 })))))
    if s.overlaps c.core c.slot v.go then s.stall
    else s.settle c v (fun s => s.issueMem c m ps (if store then .privStore else .privLoad) none none v.go)))

/-- LDP (R256). -/
def execLdp (w : MWidth) (f : MForm) (s : State) : Result :=
  privAccess { inHelper := false, g := f.g, u := f.u, cls := some .loads, srcs := [(f.a, 1)], dst := some (f.d, w.words) } s w f false

/-- STP (R256). -/
def execStp (w : MWidth) (f : MForm) (s : State) : Result :=
  privAccess { inHelper := false, g := f.g, u := f.u, cls := some .stores, srcs := [(f.d, w.words), (f.a, 1)], dst := none } s w f true

/-! ### Atomics -/

/-- Does an atomic exist on host-coherent pages (R259)? -/
def hostAtomOk (op : AtomOp) (returns : Bool) : Bool :=
  match op, returns with
  | .add, _ => true
  | .exch, true => true
  | .cas, true => true
  | _, _ => false

/-- ATOM and RED (R258, R259). -/
def atomAccess (s : State) (op : AtomOp) (a b : Opnd) (x : Option Opnd) (g u : Bool) : Result :=
  let bw := if op = .cas then 2 else 1
  let m : MemSpec := { inHelper := true, g := g, u := u, cls := some (if x.isSome then .loads else .stores), srcs := [(a, 2), (b, bw)], dst := x.map (fun o => (o, 1)), dstLast := true }
  let data := fun (c : Iss) (t : Nat) => leBytes (4 * bw) (c.read (srcTid u t) b bw)
  let va := fun (c : Iss) (t : Nat) => c.read (srcTid u t) a 2
  scratchAccess m s 4 (.atom op x.isSome) true
    (fun c t =>
      if hasBit (va c t) 63 then
        if bitsOf (va c t) 32 31 ≠ 0 then some (.error (.scratchRange, va c t))
        else some (s.scrTarget c (va c t % 2 ^ 32) 0 4 false)
      else none)
    (fun c un =>
      let r := s.globalCheck c .atomic (va c un.1) 4 un.1 (data c un.1) (match x with
        | some o => c.destsOf un.2 o 1
        | none => [])
      match r with
      | .ok (acc :: rest) => if acc.space = .host ∧ hostAtomOk op x.isSome = false then .error (.pagePerm, va c un.1) else .ok (acc :: rest)
      | r => r)
    (fun c ts => (ts.map (va c)).filter (fun v => !hasBit v 63))
    data

/-- ATOM.add (R258). -/
def execAtomAdd (f : AtomForm) (s : State) : Result := atomAccess s .add f.a f.b (some f.x) f.g f.u
/-- ATOM.incw (R258). -/
def execAtomIncw (f : AtomForm) (s : State) : Result := atomAccess s .incw f.a f.b (some f.x) f.g f.u
/-- ATOM.exch (R258). -/
def execAtomExch (f : AtomForm) (s : State) : Result := atomAccess s .exch f.a f.b (some f.x) f.g f.u
/-- ATOM.cas (R258). -/
def execAtomCas (f : AtomForm) (s : State) : Result := atomAccess s .cas f.a f.b (some f.x) f.g f.u
/-- ATOM.min (R258). -/
def execAtomMin (f : AtomForm) (s : State) : Result := atomAccess s .min f.a f.b (some f.x) f.g f.u
/-- ATOM.max (R258). -/
def execAtomMax (f : AtomForm) (s : State) : Result := atomAccess s .max f.a f.b (some f.x) f.g f.u
/-- ATOM.minu (R258). -/
def execAtomMinu (f : AtomForm) (s : State) : Result := atomAccess s .minu f.a f.b (some f.x) f.g f.u
/-- ATOM.maxu (R258). -/
def execAtomMaxu (f : AtomForm) (s : State) : Result := atomAccess s .maxu f.a f.b (some f.x) f.g f.u
/-- ATOM.and (R258). -/
def execAtomAnd (f : AtomForm) (s : State) : Result := atomAccess s .and f.a f.b (some f.x) f.g f.u
/-- ATOM.or (R258). -/
def execAtomOr (f : AtomForm) (s : State) : Result := atomAccess s .or f.a f.b (some f.x) f.g f.u
/-- ATOM.xor (R258). -/
def execAtomXor (f : AtomForm) (s : State) : Result := atomAccess s .xor f.a f.b (some f.x) f.g f.u
/-- RED.add (R258). -/
def execRedAdd (f : RedForm) (s : State) : Result := atomAccess s .add f.a f.b none f.g f.u
/-- RED.incw (R258). -/
def execRedIncw (f : RedForm) (s : State) : Result := atomAccess s .incw f.a f.b none f.g f.u
/-- RED.min (R258). -/
def execRedMin (f : RedForm) (s : State) : Result := atomAccess s .min f.a f.b none f.g f.u
/-- RED.max (R258). -/
def execRedMax (f : RedForm) (s : State) : Result := atomAccess s .max f.a f.b none f.g f.u
/-- RED.minu (R258). -/
def execRedMinu (f : RedForm) (s : State) : Result := atomAccess s .minu f.a f.b none f.g f.u
/-- RED.maxu (R258). -/
def execRedMaxu (f : RedForm) (s : State) : Result := atomAccess s .maxu f.a f.b none f.g f.u
/-- RED.and (R258). -/
def execRedAnd (f : RedForm) (s : State) : Result := atomAccess s .and f.a f.b none f.g f.u
/-- RED.or (R258). -/
def execRedOr (f : RedForm) (s : State) : Result := atomAccess s .or f.a f.b none f.g f.u
/-- RED.xor (R258). -/
def execRedXor (f : RedForm) (s : State) : Result := atomAccess s .xor f.a f.b none f.g f.u

/-! ### Fences and cache control -/

/-- Every LS access of the slot issued before a number has been performed or stands in the buffer (R127). -/
def State.lsIssuedDone (s : State) (core slot before : Nat) : Bool :=
  let k := s.core core
  !(k.loadsPending.any (fun l => l.slot == slot && decide (l.cid < before))) &&
  !(k.storesPending.any (fun p => p.slot == slot && decide (p.cid < before))) &&
  !(k.memQ.any (fun m => m.slot == slot && !m.ga && decide (m.cid < before))) &&
  !(s.remotes.any (fun r => r.core == core && r.slot == slot && r.go && decide (r.cid < before))) &&
  !(s.hostReqs.any (fun r => r.core == core && r.slot == slot && r.entry.isNone && decide (r.cid < before))) &&
  !(s.fabOps.any (fun f => f.core == core && f.slot == slot && f.ls && decide (f.cid < before)))

/-- The release actions of a scope for everything before a number (Table 5-2). -/
def State.releaseDone (s : State) (c : Iss) (sc : Scope) (before : Nat) : Bool :=
  s.lsIssuedDone c.core c.slot before &&
  (decide (sc.ctorIdx < 4) || ((s.unacked c.core).all (fun e => decide (before ≤ e.eid)) && c.counterOf .stores == 0))

/-- Start the release actions of a scope: at pair scope and wider the whole buffer drains. -/
def State.releaseStart (s : State) (c : Iss) (sc : Scope) : State := if sc.ctorIdx < 4 then s else s.drainAll c.core

/-- Wait at a fence: `done` tells whether everything before a number is performed, `after` is what the fence does then. -/
def fenceWait (s : State) (c : Iss) (start : State → State) (done : State → Nat → Bool) (after : State → State) : State :=
  match c.resumed with
  | some n => if done s n then (after s).finish c [] else s.stall
  | none =>
    let n := s.nextId
    let s := start s.takeId
    if done s n then (after s).finish c [] else s.park c (.instr n)

/-- FENCE.s (R127). -/
def execFence (sc : Scope) (s : State) : Result :=
  withIss s (fun c => fenceWait s c (fun s => s.releaseStart c sc) (fun s n => s.releaseDone c sc n) (fun s => s.acquire c.core sc))

/-- Is a frame of a fabric launch still to be answered or acknowledged (R138, R398, R401)? -/
def State.launchOpen (s : State) (l : FabLaunch) : Bool :=
  (!l.committed && !l.timedOut) ||
    l.targets.any (fun d => (s.stream d l.part).unacked.any (fun f => f.arg == l.arg && (f.kind == 0x10 || f.kind == 0x12 || f.kind == 0x13)))

/-- Every access of the warp on a path issued before a number has been performed (R138). -/
def State.pathDone (s : State) (c : Iss) (p : Path) (sc : Scope) (before : Nat) : Bool :=
  let k := s.core c.core
  match p with
  | .ls => s.releaseDone c sc before
  | .ga => !(k.copyQ.any (fun q => q.slot == c.slot && q.ga && decide (q.id < before))) &&
      !(k.memQ.any (fun m => m.slot == c.slot && m.ga && decide (m.cid < before)))
  | .cp => !(k.copyQ.any (fun q => q.slot == c.slot && !q.ga && decide (q.id < before))) &&
      !(s.mcasts.any (fun m => m.core == c.core && m.wg == c.w.wg && decide (m.cmd < before)))
  | .mx => !(k.matQ.any (fun q => q.slot == c.slot && decide (q.id < before)))
  | .ws => !(k.streamQ.any (fun q => q.slot == c.slot && decide (q.id < before)))
  | .co => !(s.fabOps.any (fun f => f.wg == c.w.wg && f.index == c.w.index && f.co && decide (f.cid < before))) &&
      !(s.arrivals.any (fun a => a.from? == some (c.core, c.slot) && decide (a.id < before))) &&
      !(s.fab.launches.any (fun l => l.wg == c.w.wg && decide (l.id < before) && s.launchOpen l))

/-- FENCE.X.s pa, pb (R138). -/
def execFenceX (pa pb : Path) (sc : Scope) (s : State) : Result :=
  withIss s (fun c =>
    if c.hel.isSome then s.decodeTrap c .illegalOp
    else fenceWait s c (fun s => if pa = .ls then s.releaseStart c sc else s) (fun s n => s.pathDone c pa sc n)
      (fun s => match pb with
        | .mx => s.modCore c.core (fun k => { k with staged := [] })
        | .ls => s.acquire c.core sc
        | _ => s))

/-- CINV (R262). -/
def execCinv (s : State) : Result :=
  withIss s (fun c => (s.modCore c.core Core.dropGlobal).finish c [])

/-- The operands of the cache-control forms with an address. -/
def msysSpec (a : Opnd) (g u : Bool) : MemSpec := { inHelper := true, g := g, u := u, cls := none, srcs := [(a, 2)], dst := none }

/-- CINV [va] (R262): the line of each active thread, where it translates. -/
def execCinvAddr (a : Opnd) (s : State) : Result :=
  withIss s (fun c => memPrologue (msysSpec a false false) s c (fun _ =>
    let vas := c.tids.map (fun t => c.read t a 2)
    let s := vas.foldl (fun s va => match s.translate c.core c.w.ctx .load va with
      | .ok tg => if tg.space = .hbm then
          s.modCore (s.l1Core c.core (tg.pa / 128)) (fun k => { k with l1 := k.l1.filter (fun l => l.owner.isSome || l.line != tg.pa / 128) })
        else s
      | .error _ => s) (s.fillTlbs c vas)
    s.finish c []))

/-- CWB.wcb (R263). -/
def execCwbWcb (s : State) : Result :=
  withIss s (fun c =>
    if c.hel.isSome then s.decodeTrap c .illegalOp
    else fenceWait s c (fun s => s.drainAll c.core) (fun s n => (s.unacked c.core).all (fun e => decide (n ≤ e.eid))) (fun s => s))

/-- Write back the dirty private lines of a warp slot, which stay valid and clean (R263). -/
def State.cleanPrivate (s : State) (core slot : Nat) : State :=
  let wg := s.wgOfSlot core slot
  let s := ((s.core core).l1.filter (fun l => l.owner == some slot)).foldl (fun s l => s.writeBack core wg l) s
  s.modCore core (fun k => { k with l1 := k.l1.map (fun l => if l.owner = some slot then { l with dirty := [] } else l) })

/-- CWB.priv (R263): it waits for the private write-backs of the workgroup's lines. -/
def execCwbPriv (s : State) : Result :=
  withIss s (fun c =>
    if c.hel.isSome then s.decodeTrap c .illegalOp
    else match c.resumed with
      | some n => if (s.core c.core).drains.any (fun e => e.wg == some c.w.wg && decide (e.eid < n)) then s.stall else s.finish c []
      | none =>
        let s := s.cleanPrivate c.core c.slot
        if (s.core c.core).drains.any (fun e => e.wg == some c.w.wg) then s.park c (.instr s.nextId) else s.finish c [])

/-- PREF.l2 (R264): the L2 slices are coherent with memory, so a fill there changes nothing that a program can observe. -/
def execPrefL2 (a : Opnd) (g u : Bool) (s : State) : Result :=
  withIss s (fun c => memPrologue (msysSpec a g u) s c (fun _ =>
    (s.fillTlbs c ((c.units u (c.exec g)).map (fun x => c.globalVa u x.1 a 0))).finish c []))

/-- PREF.l1 (R264): the lines of the executing threads are filled into L1 where a load would meet no cause. -/
def execPrefL1 (a : Opnd) (g u : Bool) (s : State) : Result :=
  withIss s (fun c => memPrologue (msysSpec a g u) s c (fun _ =>
    let vas := (c.units u (c.exec g)).map (fun x => c.globalVa u x.1 a 0)
    let s := vas.foldl (fun s va => match s.translate c.core c.w.ctx .load va with
      | .ok tg => if tg.space = .hbm then s.l1Load c.core tg.key tg.pa else s
      | .error _ => s) (s.fillTlbs c vas)
    s.finish c []))

/-- MARM (R175): the address of the lowest active thread, translated as a 1-byte load; a page fault parks the whole split. -/
def execMarm (a : Opnd) (k : Fin 4) (s : State) : Result :=
  withIss s (fun c =>
    if c.hel.isSome then s.decodeTrap c .illegalOp
    else memPrologue { inHelper := false, g := false, u := false, cls := none, srcs := [(a, 2)], dst := none } s c (fun _ =>
      match c.tids with
      | [] => s.finish c []
      | t :: _ =>
        let va := c.read t a 2
        match s.xlate c .load va with
        | .error (.pageAbsent, v) => s.parkPages c [v / 4096] (some (maskOf c.tids))
        | .error (e, v) => s.takeTrap c e v
        | .ok tg =>
          let s := s.fillTlbs c [va]
          let (s, _) := s.publishLine c.core tg.space tg.pa
          let key := lineKey (plotOf c.core) tg.space tg.pa
          (s.modWarp c.core c.slot (fun w => { w with monitors := setAt w.monitors k.val { line := key, armed := true, fired := false } })).finish c []))

end Sys2Proof.Machine
end

