-- ==== Sys2Proof/Machine/MemEvents.lean ====
section
/-! DEFINITION. The events of the memory engine: guard slots resolving, load data returning, writes performed, the buffer's age
limit, page walks and replays, remote scratchpad accesses, releases, carve changes and host completions (01_machine.md R28 to
R31, 05_memory_model.md R122 to R136, 10_memory_engine.md R244 to R267). -/

namespace Sys2Proof.Machine

/-- A guard predicate of a slot has been written (R29): its guard slots free, commands that waited on it go on, and the memory
engine runs its queue. -/
def State.resolveGuard (s : State) (core slot p : Nat) : State :=
  let free := fun (g : List Nat) => g.filter (· != p)
  let s := s.modCore core (fun k =>
    { k with
      stages := k.stages.map (fun st => if st.slot = slot then { st with preds := st.preds.filter (· != p) } else st),
      memQ := k.memQ.map (fun m => if m.slot = slot then { m with guardPend := m.guardPend.filter (· != p) } else m),
      copyQ := k.copyQ.map (fun m => if m.slot = slot then { m with guardPend := free m.guardPend } else m),
      matQ := k.matQ.map (fun m => if m.slot = slot then { m with guardPend := free m.guardPend } else m),
      streamQ := k.streamQ.map (fun m => if m.slot = slot then { m with guardPend := free m.guardPend } else m) })
  let s : State := { s with fabOps := s.fabOps.map (fun (f : FabOp) => if f.core = core ∧ f.slot = slot then { f with guardPend := free f.guardPend } else f) }
  let s := s.modWarp core slot (fun w => { w with guardSlots := w.guardSlots.filter (· != p) })
  let s := s.modCore core (fun k => k.modPricking (slot / 2) (fun pk =>
    if pk.slot = slot then { pk with helpers := pk.helpers.map (fun (h : Nat × Helper) => (h.1, { h.2 with guardSlots := h.2.guardSlots.filter (· != p) })) } else pk))
  (s.runMemQ core (s.core core).memQ.length).sendFab

/-- GUARD_SLOT_RESOLVE (R29): the pending write of a predicate of a slot completes.  `p` names it by predKey. -/
def execGuardSlotResolve (core slot p : Nat) (s : State) : Result :=
  if (s.core core).stages.any (fun st => st.slot == slot && st.preds.contains p) then .next (s.resolveGuard core slot p) else .next s

/-- Is core c within scope t of core k, judged at core granularity (R133)?  A release that came over the fabric is named by a core number of
its device's own (remoteCore). -/
def inScope (t : Scope) (k c : Nat) : Bool :=
  c == k || (decide (4 ≤ t.ctorIdx) && pairOfCore k == c) || (decide (5 ≤ t.ctorIdx) && plotOf k == plotOf c) ||
    (decide (6 ≤ t.ctorIdx) && parcelOf k == parcelOf c) || (decide (7 ≤ t.ctorIdx) && k / 2048 == c / 2048) || decide (9 ≤ t.ctorIdx)

/-- The smallest scope that contains two cores (R120). -/
def commonScope (k c : Nat) : Scope :=
  if inScope .pai k c then .pai else if inScope .plo k c then .plo else if inScope .pcl k c then .pcl else if inScope .dev k c then .dev else .dom

/-- The scope at which an LDA of a line acquires (R133), if it is widened. -/
def State.widened (s : State) (core : Nat) (sc : Scope) (a : Access) : Option Scope :=
  match (s.dirLine (lineKey (plotOf core) a.space a.addr)).tag with
  | some (k, t) => if k ≠ core ∧ (inScope t k core = false ∨ inScope sc core k = false) then some (commonScope k core) else none
  | none => none

/-- The acquire of an LDA that returns (R126, R133): for each line it read, at the widened scope where the line carries such a tag, else at
its own.  An LDA that widens at all counts once (assumption 74). -/
def State.ldaAcquire (s : State) (core : Nat) (sc : Scope) (accs : List Access) : State :=
  let ws := accs.map (s.widened core sc)
  let s := accs.foldl (fun s a => if a.space = .hbm then s.l1Drop core a.aux a.addr else s) s
  let scs := if accs.isEmpty then [sc] else (ws.map (fun w => w.getD sc)).dedup
  let s := scs.foldl (fun s w => s.acquire core w) s
  if ws.any Option.isSome then s.countAt core .widen 1 else s

/-- Write loaded words to the registers of a slot (R237), which then have their latency to pass (R68). -/
def State.fillRegs (s : State) (core slot : Nat) (who : Who) (ws : List (Nat × RegLoc × Word)) : State :=
  let es := ws.map (fun e => Eff.reg e.1 e.2.1 e.2.2)
  (s.effs core slot who es).coolAt core slot 0 (targetsOf es)

/-- Remove the first element that satisfies a test. -/
def dropFirst {α : Type} (p : α → Bool) : List α → List α
  | [] => []
  | x :: r => if p x then r else x :: dropFirst p r

/-- LOAD_DATA_RETURN (R237, R31): the n-th outstanding load of a slot returns, once the entries it waits for are acknowledged. -/
def execLoadDataReturn (core slot n : Nat) (s : State) : Result :=
  match ((s.core core).loadsPending.filter (fun l => l.slot == slot))[n]? with
  | none => .next s
  | some l =>
    if s.eidsOpen l.after then .next s
    else
      let (s, ws) : State × List (Nat × RegLoc × Word) := match l.kind with
        | .atom op _ => s.atomAll core op l.accs
        | .load ext =>
          let ws := l.accs.flatMap (fun (a : Access) => fillDests a.dests (loadWords ext (s.beyond core a.space a.aux a.addr a.n)))
          let s := match l.acquire with
            | some sc => s.ldaAcquire core sc l.accs
            | none => s
          (s, ws)
        | _ => (s, [])
      let s := s.modCore core (fun k => { k with loadsPending := dropFirst (fun x => x.cid == l.cid && x.slot == slot && x == l) k.loadsPending })
      let s := s.fillRegs core slot l.who (l.writes ++ ws)
      .next (s.partDone core slot l.who .loads l.cid)

/-- The acknowledgement of an entry: its store commands complete (R31), and frames that waited for it go (R122). -/
def State.ackOwners (s : State) (core : Nat) (owners : List (Nat × Who × Nat)) : State := (s.ownersDone core owners).sendFab

/-- An uncorrectable error goes to a warp as a fault record (R272, R349): its ready splits stop under the record. -/
def State.eccRecord (s : State) (core slot addr : Nat) : State :=
  match s.warp? core slot with
  | none => s
  | some w =>
    let pc := match w.splits with
      | (_, sp) :: _ => (match bitsList 16 sp.strands with
        | l :: _ => (w.strand l).pc.toNat
        | [] => 0)
      | [] => 0
    let n := s.nextSeq w.ctx
    (s.post (s.warpRecord core slot w Cause.eccUncorrectable.code 0 pc addr)).modWarp core slot (fun w =>
      { w with splits := w.splits.map (fun x => if x.2.status = .ready then (x.1, { x.2 with status := .parked (.record n), reserve := none }) else x) })

/-- An uncorrectable error in a word that is written back or drained goes to the warp that owns it (R272). -/
def State.entryEcc (s : State) (core : Nat) (e : WcbEntry) : State :=
  match (match e.owners with
    | o :: _ => some o.1
    | [] => (match e.wg with
      | some g => (mget? s.wgs g).bind (fun x => x.slots.head?)
      | none => none)) with
  | some slot => s.eccRecord core slot (e.line * 128)
  | none => s

/-- An entry is performed at its coherence point and acknowledged (R123, R124). -/
def State.performEntry (s : State) (core : Nat) (e : WcbEntry) : State :=
  let bytes := if e.bad then (e.bytes.zipIdx).map (fun x => (x.1.1, Config.freeByte (s.fresh + x.2))) else e.bytes
  let s := if e.bad then { s with fresh := s.fresh + e.bytes.length }.entryEcc core e else s
  let s := s.performBytes (plotOf core) e.space e.key e.line bytes (e.tag.map (fun t => (core, t)))
  s.holderDrop core (lineKey (plotOf core) e.space (e.line * 128))

/-- Perform the draining entries of a core, each as soon as the marker order allows and acknowledged at once (R122, R123). -/
def State.performDrains (s : State) (core : Nat) : Nat → State
  | 0 => s
  | n + 1 =>
    match (s.core core).drains.find? (s.entryReady core) with
    | none => s
    | some e =>
      (((s.modCore core (fun k => { k with drains := k.drains.erase e })).performEntry core e).ackOwners core e.owners).performDrains core n

/-- A pending store command completes (R31). -/
def State.storeDone (s : State) (core : Nat) (p : StorePend) : State :=
  (s.modCore core (fun k => { k with storesPending := dropFirst (fun x => x.cid == p.cid) k.storesPending })).partDone core p.slot p.who .stores p.cid

/-- WRITE_PERFORMED (R123): the n-th draining entry of a core, or past those a pending store command, is performed. -/
def execWritePerformed (core n : Nat) (s : State) : Result :=
  let k := s.core core
  match k.drains[n]? with
  | some e =>
    if s.entryReady core e then
      let s := s.modCore core (fun k => { k with drains := dropAt k.drains n })
      .next ((s.performEntry core e).ackOwners core e.owners)
    else .next s
  | none =>
    match k.storesPending[n - k.drains.length]? with
    | none => .next s
    | some p =>
      if s.eidsOpen p.after || p.afterCids.any (fun c => s.cidOpen core c) then .next s
      else match p.work with
        | .ack => .next (s.storeDone core p)
        | .release accs sc =>
          let s := if sc.ctorIdx < 4 then s.marker core else s
          .next ((s.storeAccs core p.slot p.who p.cid (some sc) accs).storeDone core p)
        | .red op accs => .next ((s.atomAll core op accs).1.storeDone core p)

/-- WCB_AGE_DRAIN (R122): an entry that has been allocated for 2 µs drains. -/
def execWcbAgeDrain (core n : Nat) (s : State) : Result :=
  match (s.core core).wcb[n]? with
  | some e => .next (if e.since + 2000 ≤ s.elapsed then s.ageEntry core e else s)
  | none => .next s

/-- PAGE_WALK (R241, R242, R244): a walk ends and its translation is cached. -/
def execPageWalk (core ctx va : Nat) (s : State) : Result := .next (s.tlbFill core ctx va)

/-- PAGE_REPLAY (R245): every request of a parked split has been answered.  Retry wakes it for its replay threads; a decline
delivers PAGE_ABSENT.  `sp` is the split-table entry, or 16 + lane for a helper. -/
def execPageReplay (core slot sp : Nat) (s : State) : Result :=
  let who : Who := if sp < 16 then .split sp else .helper (sp - 16)
  match s.issFor core slot who Cost.free with
  | none => .next s
  | some c =>
    let wait := match c.hel, c.split with
      | some h, _ => h.wait
      | none, some x => (match x.status with
        | .parked w => some w
        | _ => none)
      | none, none => none
    let blocked := match c.split with
      | some x => c.w.heldByTrap x || x.stopped.isSome
      | none => false
    match wait with
    | some (.page asks) =>
      if asks.any (fun a => a.answer == .waiting) || blocked then .next s
      else if asks.any (fun a => a.answer == .decline) then
        let a := match asks.find? (fun a => a.answer == .decline) with
          | some x => x.page * 4096
          | none => 0
        .next (s.enterTrap c .pageAbsent 0 c.pc a)
      else match c.who with
        | .split _ => .next (s.modSplit c (fun x => { x with status := .ready }))
        | .helper l => .next (s.modHelper core slot l (fun h => { h with wait := none }))
    | _ => .next s

/-- The tests of R252 at a target core: words from `word` on, for a handle's generation and a context. -/
def State.targetVerdict (s : State) (target : Nat) (word : Int) (words gen ctx : Nat) : Option Cause :=
  let k := s.core target
  let live := k.allocs.filter (fun a => a.released.isNone && a.ctx == ctx)
  let inA := fun (a : Alloc) (w : Int) => decide ((a.base : Int) ≤ w) && decide (w < (a.base + a.words : Nat))
  let ws := (upto words).map (fun (i : Nat) => word + i)
  if ws.any (fun w => decide (32768 ≤ w)) then some .scratchRange
  else if live.any (fun a => a.gen == gen && ws.all (inA a)) then none
  else if live.any (fun a => a.gen != gen && ws.any (inA a)) then some .scratchStale
  else if live.any (fun a => a.gen == gen && ws.any (inA a)) then some .scratchRange
  else if !(live.any (fun a => ws.any (inA a))) && gen != k.gen then some .scratchStale
  else some .scratchRange

/-- The verdict of a target on a remote access (R252). -/
def State.remoteVerdict (s : State) (r : Remote) : Option Cause := s.targetVerdict r.target r.word r.words r.gen r.ctx

/-- An uncorrectable error in the target's scratchpad goes to the warp that reads the word (R272); the value that it then has is free. -/
def State.remoteRead (s : State) (r : Remote) (n : Nat) : State × List Byte :=
  let byte := r.word.toNat * 4
  if (s.core r.target).scrEcc byte n then
    (({ s with fresh := s.fresh + n } : State).eccRecord r.core r.slot byte, (upto n).map (fun i => Config.freeByte (s.fresh + i)))
  else (s, (s.core r.target).scrRead byte n)

/-- The words of a write still lie in an allocation of their generation (R253). -/
def Core.genHolds (k : Core) (word gen : Nat) : Bool :=
  k.allocs.any (fun a => a.gen == gen && decide (a.base ≤ word) && decide (word < a.base + a.words))

/-- A remote access lands at its target: a read returns, a write or atomic is made, or is dropped when its allocation is gone
(R252, R253). -/
def State.remoteLand (s : State) (r : Remote) : State :=
  let word := r.word.toNat
  let holds := (s.core r.target).genHolds word r.gen
  match r.kind with
  | .load ext =>
    let (s, bs) := s.remoteRead r (r.words * 4)
    (s.fillRegs r.core r.slot r.who (fillDests r.dests (loadWords ext bs))).partDone r.core r.slot r.who .loads r.cid
  | .store =>
    let s := if holds then s.modCore r.target (fun k => (k.scrWrite (word * 4) r.data).inbound word r.gen (· - 1))
      else s.countAt r.target .sdrop 1
    s.partDone r.core r.slot r.who .stores r.cid
  | .atom op returns =>
    let (s, bs) := s.remoteRead r 4
    let old := bytesWord bs
    let new := op.apply old (bytesWord (r.data.take 4)) (bytesWord (r.data.drop 4))
    let s := if holds then s.modCore r.target (fun k =>
        let k := k.scrWrite (word * 4) (leBytes 4 new.toNat)
        if returns then k else k.inbound word r.gen (· - 1))
      else s.countAt r.target .sdrop 1
    if returns then (s.fillRegs r.core r.slot r.who (fillDests r.dests [old])).partDone r.core r.slot r.who .loads r.cid
    else s.partDone r.core r.slot r.who .stores r.cid
  | _ => s

/-- Must a remote access wait for an earlier one of its slot to the same word (Table 5-1 case 1)?  Of the threads of one store the highest
lands last; those of one atomic have no order (R114). -/
def Remote.follows (r x : Remote) : Bool :=
  x.go && x.core == r.core && x.slot == r.slot && x.target == r.target && decide (x.word < r.word + r.words) && decide (r.word < x.word + x.words) &&
    !(x.cid == r.cid && (match r.kind with
      | .atom _ _ => true
      | _ => false))

/-- Is a remote access the atomic of another thread of one instruction on the same word (R114)? -/
def Remote.joins (r x : Remote) : Bool :=
  x.go && x.core == r.core && x.slot == r.slot && x.cid == r.cid && x.target == r.target && x.word == r.word && (match r.kind with
    | .atom _ _ => true
    | _ => false)

/-- REMOTE_SCRATCH_ACCESS (R252): the n-th remote access reaches its target, which first judges it and, once the sender's
verdict has let it go, performs it, after the earlier ones of its split that it must follow.  The atomics of one instruction on one word are
performed one after another, with no other access between them (R114). -/
def execRemoteScratchAccess (n : Nat) (s : State) : Result :=
  match s.remotes[n]? with
  | none => .next s
  | some r =>
    match r.verdict with
    | none =>
      let v := s.remoteVerdict r
      let s := { s with remotes := setAt s.remotes n { r with verdict := some v } }
      .next (if v = none ∧ r.kind.inboundCounts then s.modCore r.target (fun k => k.inbound r.word.toNat r.gen (· + 1)) else s)
    | some _ =>
      if r.go && !(s.remotes.take n).any r.follows then
        let rest := dropAt s.remotes n
        let same := rest.filter r.joins
        let s : State := { s with remotes := rest.filter (fun x => !r.joins x) }
        let order := s.tidOrder
        let same := order.flatMap (fun t => same.filter (fun x => x.t == t)) ++ same.filter (fun x => !order.contains x.t)
        let s := if same.isEmpty then s else { s with tidOrder := [] }
        .next (same.foldl (fun (s : State) x => s.remoteLand x) (s.remoteLand r))
      else .next s

/-- ALLOCATION_RELEASE (R253): the words of an allocation under release free when its inbound count is zero or after 4 µs, and
the generation counter rises; the staged copies of the words go (R346). -/
def execAllocationRelease (core n : Nat) (s : State) : Result :=
  match (s.core core).allocs[n]? with
  | some a =>
    match a.released with
    | some t =>
      if a.inbound = 0 ∨ s.elapsed - t ≥ 4000 then
        .next (s.modCore core (fun k => { k.unstage a.base a.words with allocs := dropAt k.allocs n, gen := (k.gen + 1) % 256 }))
      else .next s
    | none => .next s
  | none => .next s

/-- Words of scratchpad under a carve code (R265). -/
def carveWords (code : Nat) : Nat := (4 - code) * 8192

/-- CARVE_WAY_MOVE (R267): one way changes hands.  Toward scratchpad, the lines that no longer fit leave L1, dirty private ones
written back; toward L1, the way must hold no allocation. -/
def execCarveWayMove (core : Nat) (s : State) : Result :=
  let k := s.core core
  if k.carveTo < k.carve then
    let code := k.carve - 1
    let keep := k.l1.zipIdx.filter (fun e => decide (((k.l1.take e.2).filter (fun x => x.line % 256 == e.1.line % 256)).length < l1Ways code))
    let kept := keep.map (fun e => e.1)
    let gone := k.l1.filter (fun l => !kept.contains l)
    let s := gone.foldl (fun s l => match l.owner with
      | some o => s.writeBack core (s.wgOfSlot core o) l
      | none => s) s
    .next (s.modCore core (fun k => { k with l1 := kept, carve := code }))
  else if k.carve < k.carveTo then
    let code := k.carve + 1
    if k.allocs.any (fun a => decide (carveWords code < a.base + a.words)) then .next s
    else .next (s.modCore core (fun k => { k with carve := code, scratch := k.scratch.filter (fun e => decide (e.1 < carveWords code)) }))
  else .next s

/-- Bytes that a host-port request brings toward the device: what a load or an atomic with a return reads (R474). -/
def HostReq.bytesIn (r : HostReq) : Nat := match r.entry, r.kind with
  | none, .load _ | none, .privLoad | none, .atom _ true => (r.accs.foldl (fun m a => m + a.n) 0)
  | _, _ => 0

/-- Bytes that a host-port request takes from the device: a drained entry's, or the operands of an atomic (R474). -/
def HostReq.bytesOut (r : HostReq) : Nat := match r.entry, r.kind with
  | some e, _ => e.bytes.length
  | none, .atom _ _ => (r.accs.foldl (fun m a => m + a.n) 0)
  | none, _ => 0

/-- HOST_COMPLETION (R249): the n-th access at the host port completes.  With any status but Successful Completion a read
delivers all ones, a write or atomic leaves host memory unchanged, an ATOM returns all ones and HOSTERR rises. -/
def execHostCompletion (n : Nat) (ok : Bool) (s : State) : Result :=
  match s.hostReqs[n]? with
  | none => .next s
  | some r =>
    if s.eidsOpen r.after || (match r.entry with
      | some e => !s.entryReady r.core e
      | none => false) then .next s
    else
      let s := { s with hostReqs := dropAt s.hostReqs n }
      let s := if ok then s.meterHost (some r.part) .host r.bytesIn r.bytesOut else s.count r.part .hosterr 1
      match r.entry with
      | some e =>
        .next ((if ok then s.performEntry r.core e else s.holderDrop r.core (lineKey (plotOf r.core) e.space (e.line * 128))).ackOwners r.core e.owners)
      | none =>
        match r.kind with
        | .atom op returns =>
          let (s, ws) : State × List (Nat × RegLoc × Word) := if ok then s.atomAll r.core op r.accs
            else (s, r.accs.flatMap (fun a => fillDests a.dests [BitVec.allOnes 32]))
          let s := if returns then s.fillRegs r.core r.slot r.who ws else s
          .next (s.partDone r.core r.slot r.who (if returns then .loads else .stores) r.cid)
        | .load ext =>
          let ws := r.accs.flatMap (fun a => fillDests a.dests (loadWords ext
            (if ok then s.memRead (plotOf r.core) .host a.aux a.addr a.n else List.replicate a.n (BitVec.allOnes 8))))
          let s := match r.acquire with
            | some sc => s.ldaAcquire r.core sc r.accs
            | none => s
          .next ((s.fillRegs r.core r.slot r.who ws).partDone r.core r.slot r.who .loads r.cid)
        | .privLoad =>
          let ws := r.accs.flatMap (fun a => fillDests a.dests (loadWords .none
            (if ok then s.memRead (plotOf r.core) .host a.aux a.addr a.n else List.replicate a.n (BitVec.allOnes 8))))
          .next ((s.fillRegs r.core r.slot r.who ws).partDone r.core r.slot r.who .loads r.cid)
        | _ => .next s

end Sys2Proof.Machine
end

