-- ==== Sys2Proof/Machine/Alu.lean ====
section
/-! DEFINITION. The shared operation of the synchronous register instructions: operand checks, the executing threads, the
uniform form, holds, and writing results, predicates and flags (R16, R45, R48, R62, R66, R69, R72, R106, R189). -/

namespace Sys2Proof.Machine

/-- What one thread's function reads: the values of d, a and b, sr.fmt and the guard. -/
structure AluIn where
  t : Nat
  d : Nat
  a : Nat
  b : Nat
  fmt : Word
  guard : Bool
  deriving DecidableEq, Repr

/-- What it gives: the result, a predicate result, and the flags it raises. -/
structure AluOut where
  val : Nat
  flags : Nat
  p : Bool
  deriving DecidableEq, Repr

/-- A result without flags. -/
def AluOut.ofNat (v : Nat) : AluOut := { val := v, flags := 0, p := false }
/-- A 32-bit result without flags. -/
def AluOut.word (v : Word) : AluOut := .ofNat v.toNat
/-- A predicate result. -/
def AluOut.ofBool (b : Bool) : AluOut := { val := 0, flags := 0, p := b }

/-- The operands of an instruction: the register destination with its width in registers, the predicate destination,
whether d is read, the sources with their widths, hold, guard and uniform bits. -/
structure AluSpec where
  dst : Option (Opnd × Nat)
  pdst : Option Nat
  readsD : Bool
  a : Option (Opnd × Nat)
  b : Option (Opnd × Nat)
  h : Hold
  g : Bool
  u : Bool
  deriving DecidableEq, Repr

/-- A helper may name no hold and no predicate above p15 (R278). -/
def AluSpec.helperBad (sp : AluSpec) (c : Iss) : Bool :=
  c.hel.isSome && (sp.h.isSome || (match sp.pdst with
    | some p => decide (16 ≤ p)
    | none => false))

/-- The source operands in their order. -/
def AluSpec.srcs (sp : AluSpec) : List (Opnd × Nat) :=
  (if sp.readsD then sp.dst.toList else []) ++ sp.a.toList ++ sp.b.toList

/-- The decode causes of operand resolution, in operand order d, a, b (R48). -/
def AluSpec.cause (sp : AluSpec) (c : Iss) : Option Cause :=
  if sp.helperBad c then some .illegalOp
  else match (match sp.dst with
      | some o => c.opCause c.tids o.1 o.2
      | none => none) with
    | some e => if c.hel.isSome && c.opsCause c.tids sp.srcs = some .illegalOp then some .illegalOp else some e
    | none => c.opsCause (c.srcTids sp.u c.tids) sp.srcs

/-- Does a source have to wait for an outstanding load or for its latency (R149, R68)? -/
def AluSpec.waits (sp : AluSpec) (s : State) (c : Iss) : Bool :=
  let pend := s.pendingLocs c.core c.slot
  c.pendingRead pend (c.srcTids sp.u c.tids) sp.srcs || pend.hasIx c.tids sp.dst.toList

/-- The value of an optional source. -/
def Iss.src (c : Iss) (t : Nat) : Option (Opnd × Nat) → Nat
  | some o => c.read t o.1 o.2
  | none => 0

/-- What thread t's function reads: sources from slot 0 for a uniform instruction (R16). -/
def AluSpec.input (sp : AluSpec) (c : Iss) (t : Nat) : AluIn :=
  { t := t, d := if sp.readsD then c.src (srcTid sp.u t) sp.dst else 0, a := c.src (srcTid sp.u t) sp.a,
    b := c.src (srcTid sp.u t) sp.b, fmt := c.fmt t, guard := c.guard (srcTid sp.u t) }

/-- The effects of one executing thread: hold, then destination, predicate and flags (R66). -/
def AluSpec.threadEffs (sp : AluSpec) (c : Iss) (f : AluIn → AluOut) (t : Nat) : List Eff :=
  let i := sp.input c t
  let o := f i
  holdEff sp.h t (BitVec.ofNat 32 i.a) ++
  (match sp.dst with
    | some d => c.writeEffs t d.1 d.2 o.val
    | none => []) ++
  (match sp.pdst with
    | some p => [.pred t p o.p]
    | none => []) ++
  (if o.flags = 0 then [] else [.flags t o.flags])

/-- The effects over the executing threads. -/
def AluSpec.effects (sp : AluSpec) (c : Iss) (f : AluIn → AluOut) : List Eff :=
  (c.exec sp.g).flatMap (sp.threadEffs c f)

/-- Does a destination break the frozen share range (R281)? -/
def AluSpec.shared (sp : AluSpec) (c : Iss) : Bool :=
  match sp.dst with
  | some d => c.sharedWrite (c.exec sp.g) d.1 d.2
  | none => false

/-- Meter the executing threads of an integer, float or exchange instruction by timing class (Table 18-4). -/
def State.vop (s : State) (c : Iss) (n : Nat) : State :=
  s.meterAt c.core (match c.cost.cls with
    | .c0 => .vop0 | .c1 => .vop1 | .c2 => .vop2 | .c3 => .vop3) n

/-- The outcome of a synchronous register instruction.  Of two causes that its threads meet the lower code is taken (R159), and a source in
error is found in every active thread (assumption 97). -/
def aluState (sp : AluSpec) (f : AluIn → AluOut) (s : State) (c : Iss) : State :=
  match sp.cause c with
  | some e => s.decodeTrap c e
  | none =>
    if sp.waits s c then s.stall
    else if sp.shared c then s.takeTrap c .sharedWrite 0
    else if c.badRead (c.srcTids sp.u c.tids) sp.srcs then s.takeTrap c .eccUncorrectable 0
    else ((s.effsBy c (sp.effects c f)).vop c (c.exec sp.g).length).finish c sp.pdst.toList

/-- A synchronous register instruction. -/
def aluStep (sp : AluSpec) (f : AluIn → AluOut) (s : State) : Result := withIss s (aluState sp f s)

/-- R format, 32-bit operands. -/
def specR (f : RForm) (readsD : Bool) : AluSpec :=
  { dst := some (f.d, 1), pdst := none, readsD := readsD, a := some (f.a, 1), b := some (f.b, 1), h := f.h, g := f.g, u := f.u }

/-- R format of the pair instructions; `wb` is the width of b. -/
def specPair (f : PairForm) (wb : Nat) (readsD : Bool) : AluSpec :=
  { dst := some (f.d, 2), pdst := none, readsD := readsD, a := some (f.a, 2), b := some (f.b, wb), h := none, g := f.g, u := f.u }

/-- X format. -/
def specX (f : XForm) (wd wa : Nat) : AluSpec :=
  { dst := some (f.d, wd), pdst := none, readsD := false, a := some (f.a, wa), b := none, h := f.h, g := f.g, u := f.u }

/-- C format of the comparisons. -/
def specC (f : CmpForm) (n : Nat) : AluSpec :=
  { dst := none, pdst := some f.p.val, readsD := false, a := some (f.a, n), b := some (f.b, n), h := none, g := f.g, u := f.u }

/-- I format. -/
def specI (f : IForm) : AluSpec :=
  { dst := some (f.d, 1), pdst := none, readsD := false, a := some (f.a, 1), b := none, h := none, g := f.g, u := f.u }

/-- The immediate shifts. -/
def specSh (f : ShForm) : AluSpec :=
  { dst := some (f.d, 1), pdst := none, readsD := false, a := some (f.a, 1), b := none, h := none, g := f.g, u := f.u }

/-- L format; `readsD` for MOVH. -/
def specL (f : LForm) (readsD : Bool) : AluSpec :=
  { dst := some (f.d, 1), pdst := none, readsD := readsD, a := none, b := none, h := none, g := f.g, u := f.u }

/-- A 32-bit function of a and b. -/
def alu2 (f : RForm) (fn : Word → Word → Word) (s : State) : Result :=
  aluStep (specR f false) (fun i => .word (fn (BitVec.ofNat 32 i.a) (BitVec.ofNat 32 i.b))) s

/-- A 32-bit function of a. -/
def alu1 (f : XForm) (fn : Word → Word) (s : State) : Result :=
  aluStep (specX f 1 1) (fun i => .word (fn (BitVec.ofNat 32 i.a))) s

end Sys2Proof.Machine
end

