-- ==== Sys2Proof/Machine/Control.lean ====
section
/-! DEFINITION. Divergence and reconvergence: transfers of strands, the split table, RECONV and its release
(06_sequencer.md R143 to R148, R170). -/

namespace Sys2Proof.Machine

/-- The threads of a list with equal keys, in groups ordered by their lowest thread (R145). -/
def groupBy (key : Nat → Nat) : List Nat → List (List Nat)
  | [] => []
  | t :: r =>
    let gs := groupBy key r
    match gs.find? (fun g => match g with
      | x :: _ => key x == key t
      | [] => false) with
    | some g => (t :: g) :: gs.filter (fun h => h != g)
    | none => [t] :: gs

/-- The mask of threads in their strand (R145). -/
def slotMask (ts : List Nat) : BitVec 4 := BitVec.ofNat 4 (maskOf (ts.map (fun t => t % 4)))

/-- The size of a reconvergence stack (Table 6-1). -/
def stackLimit : Nat := 16

/-- One strand at a transfer of control (R145, R168, R170): threads with equal keys stay together, the group of the lowest
active thread goes first, the others and a JOIN entry are pushed; none where the stack is full. -/
def transferStrand (st : Strand) (l : Nat) (key : Nat → Nat) (pcOf : Nat → DWord) : Option Strand :=
  let ts := (upto 4).filterMap (fun k => if st.active.getLsbD k then some (4 * l + k) else none)
  match groupBy key ts with
  | [] => some st
  | [g] => some { st with pc := pcOf (g.headD 0) }
  | g :: rest =>
    if st.stack.length + 1 + rest.length > stackLimit then none
    else
      let join : StackEntry := { kind := .join, mask := st.active, pc := none, fmt := st.fmt }
      let paths := rest.map (fun h => ({ kind := .path, mask := slotMask h, pc := some (pcOf (h.headD 0)), fmt := st.fmt } : StackEntry))
      some { st with pc := pcOf (g.headD 0), active := slotMask g, stack := paths ++ join :: st.stack }

/-- Record the first join point reached on the nearest JOIN entry (R146). -/
def recordJoin (pc : DWord) : List StackEntry → List StackEntry
  | [] => []
  | e :: r =>
    match e.kind with
    | .join => (match e.pc with
      | none => { e with pc := some pc } :: r
      | some _ => e :: r)
    | .path => e :: recordJoin pc r

/-- What the RECONV step does to a strand: it goes on at its program counter, waits at the RECONV, or has finished. -/
inductive ReconvEnd where
  | goes | waits | finished
  deriving DecidableEq, Repr

/-- The RECONV step of a strand at `pc`, performed again while its active mask is empty (R146). -/
def reconvStep (pc : DWord) (st : Strand) : Nat → Strand × ReconvEnd
  | 0 => (st, .finished)
  | n + 1 =>
    match st.stack with
    | [] => (st, if st.active = 0 then .finished else .waits)
    | e :: r =>
      let r' := if e.kind = .path ∧ st.active ≠ 0 then recordJoin pc r else r
      let st' : Strand := { st with
        active := e.mask, fmt := e.fmt, stack := r',
        pc := match e.kind with
          | .path => e.pc.getD pc
          | .join => e.pc.getD pc + 4 }
      if st'.active = 0 then reconvStep pc st' n else (st', .goes)

/-- Regroup a split after a transfer (R144): live strands with equal next program counters stay together, those that wait at a
RECONV apart; the group of the lowest strand keeps the entry, the others take free entries with its age; finished strands
leave the table. -/
def Warp.regroup (w : Warp) (e waiting : Nat) : Warp :=
  match mget? w.splits e with
  | none => w
  | some sp =>
    let lanes := (bitsList 16 sp.strands).filter (fun l => (w.strand l).active != 0)
    let key := fun (l : Nat) => 2 * (w.strand l).pc.toNat + (if hasBit waiting l then 1 else 0)
    let mk := fun (g : List Nat) =>
      ({ sp with strands := maskOf g, replay := none, status := if hasBit waiting (g.headD 0) then .held else .ready,
                 reserve := sp.reserve } : Split)
    match groupBy key lanes with
    | [] => { w with splits := mdel w.splits e }
    | g :: rest =>
      rest.foldl (fun w h => match firstBelow 16 (fun i => (mget? w.splits i).isNone) with
        | some i => { w with splits := mset w.splits i (mk h) }
        | none => w) { w with splits := mset w.splits e (mk g) }

/-- A hold ends the CLASS reservation of what it holds (R185). -/
def Warp.endHeldReserves (w : Warp) : Warp :=
  { w with splits := w.splits.map (fun e => (e.1, if e.2.status = .held then { e.2 with reserve := none } else e.2)) }

/-- Replace the strands of a split by their new states. -/
def Warp.setStrands (w : Warp) (ns : List (Nat × Strand)) : Warp := ns.foldl (fun w e => w.modStrand e.1 (fun _ => e.2)) w

/-- A transfer of control of the issuing split (R144, R145): STACK_LIMIT where a strand's stack is full, else the effects `es`,
the new program counters and the new splits.  Where some thread moves, control is transferred and a CLASS reservation ends (R185). -/
def State.branch (s : State) (c : Iss) (moves : Bool) (key : Nat → Nat) (pcOf : Nat → DWord) (es : List Eff) : State :=
  match c.who, c.hel with
  | .helper l, some _ => ((s.retire c []).wake c).modHelper c.core c.slot l (fun h => { h with pc := pcOf (4 * l), reserve := if moves then none else h.reserve })
  | .helper _, none => s
  | .split e, _ =>
    let ns := c.lanes.map (fun l => (transferStrand (c.w.strand l) l key pcOf).map (fun st => (l, st)))
    if ns.any Option.isNone then s.takeTrap c .stackLimit 0
    else
      let s := (s.effsBy c es).retire c []
      (s.modSplit c (fun sp => { sp with reserve := if moves then none else sp.reserve })).modWarp c.core c.slot (fun w => (w.setStrands (ns.filterMap id)).regroup e 0)

/-- A split that a release of RECONV does not wait for (R147): held, parked for a reason other than a page fault, or held by
a trap. -/
def Warp.notWaitedFor (w : Warp) (sp : Split) : Bool :=
  (match sp.status with
    | .held => true
    | .parked (.page _) => false
    | .parked (.record _) => false
    | .parked _ => true
    | .ready => false) || w.heldByTrap sp

/-- May held splits be released (R147)? -/
def Warp.canRelease (w : Warp) : Bool :=
  w.splits.any (fun e => e.2.status == .held) && w.splits.all (fun e => w.notWaitedFor e.2)

/-- The program counter of a split. -/
def Warp.splitPc (w : Warp) (sp : Split) : DWord :=
  match bitsList 16 sp.strands with
  | l :: _ => (w.strand l).pc
  | [] => 0

/-- The held splits of a warp. -/
def Warp.heldSplits (w : Warp) : List (Nat × Split) := w.splits.filter (fun e => e.2.status == .held)

/-- Merge the held splits that stand at one RECONV into one entry: the lowest of theirs, with its age (R147, assumption 70). -/
def Warp.mergeAt (w : Warp) (pc : Nat) : Warp :=
  match w.heldSplits.filter (fun e => (w.splitPc e.2).toNat == pc) with
  | [] => w
  | (e, sp) :: rest =>
    let merged := { sp with strands := rest.foldl (fun m x => m ||| x.2.strands) sp.strands, replay := none }
    { w with splits := mset (rest.foldl (fun m x => mdel m x.1) w.splits) e merged }

/-- Merge the held splits that stand at the same RECONV, and let the merged split at the lowest go on at that address plus 4 (R147). -/
def Warp.release (w : Warp) : Warp :=
  let pcs := (w.heldSplits.map (fun e => (w.splitPc e.2).toNat)).dedup
  let w := pcs.foldl Warp.mergeAt w
  match minOf? pcs with
  | none => w
  | some pc =>
    match w.heldSplits.filter (fun e => (w.splitPc e.2).toNat == pc) with
    | [] => w
    | (e, sp) :: _ =>
      (bitsList 16 sp.strands).foldl (fun (w : Warp) l => w.modStrand l (fun st => { st with pc := st.pc + 4 }))
        { w with splits := mset w.splits e { sp with status := .ready } }

/-- RECONV (R146, R147, R171): in a helper it acts as NOP (Table 11-4).  A split that need wait for no other passes at once: nothing holds
it, and its CLASS reservation goes on (R185).  A strand that takes an entry off its stack takes its sr.fmt, which then has its latency
(R68). -/
def execReconv (s : State) : Result :=
  withIss s (fun c =>
    match c.who with
    | .helper _ => s.finish c []
    | .split e =>
      let ns := c.lanes.map (fun l => (l, reconvStep c.pc (c.w.strand l) (stackLimit + 1)))
      let waiting := maskOf ((ns.filter (fun x => x.2.2 == .waits)).map (fun x => x.1))
      let jumps := ns.any (fun x => x.2.2 == .goes && x.2.1.pc != c.pc + 4)
      let popped := maskOf ((ns.filter (fun x => x.2.1.stack.length != (c.w.strand x.1).stack.length)).flatMap (fun x => (upto 4).map (fun i => 4 * x.1 + i)))
      let s := if popped = 0 then s else s.cool c c.parkedAt [(.special .fmt, popped)]
      ((s.retire c []).modSplit c (fun sp => if jumps then { sp with reserve := none } else sp)).modWarp c.core c.slot (fun w =>
        let w := (w.setStrands (ns.map (fun x => (x.1, x.2.1)))).regroup e waiting
        if w.splits.length = 1 ∧ w.canRelease then w.release else w.endHeldReserves))

/-- Has a pre-emption request reached the workgroup of a warp (R161)? -/
def State.stopping (s : State) (w : Warp) : Bool := match mget? s.wgs w.wg with
  | some g => g.preempt.isSome && g.reached
  | none => false

/-- SPLIT_RELEASE (R147): the sequencer releases held splits of a warp; none while its workgroup is being stopped (R161). -/
def execSplitRelease (core slot : Nat) (s : State) : Result :=
  match s.warp? core slot with
  | some w => if w.canRelease && !s.stopping w then .next (s.modWarp core slot Warp.release) else .next s
  | none => .next s

end Sys2Proof.Machine
end

