-- ==== Sys2Proof/Machine/Sequencer.lean ====
section
/-! DEFINITION. The instructions that the sequencer executes itself: one meaning for each (06_sequencer.md R167 to R186).
MARM stands with the memory engine, EXIT with the recruiter, SNAP with the power controller. -/

namespace Sys2Proof.Machine

/-- A sequencer instruction that a helper may not issue (Table 11-4), with its decode checks on register operands (R48, R149,
R189). -/
def seqOps (s : State) (inHelper : Bool) (tids : Iss → List Nat) (srcs : List (Opnd × Nat)) (dst : Option (Opnd × Nat))
    (k : Iss → State) : Result :=
  withIss s (fun c =>
    if c.hel.isSome && !inHelper then s.decodeTrap c .illegalOp
    else match c.opsCause (tids c) srcs with
      | some e => s.decodeTrap c e
      | none =>
        match (match dst with
          | some d => c.opCause c.tids d.1 d.2
          | none => none) with
        | some e => s.decodeTrap c e
        | none =>
          if c.pendingRead (s.pendingLocs c.core c.slot) (tids c) srcs || (s.pendingLocs c.core c.slot).hasIx c.tids dst.toList then s.stall
          else if c.badRead (tids c) srcs then s.takeTrap c .eccUncorrectable 0
          else k c)

/-- The lowest active thread, as a list (R143). -/
def Iss.lowest (c : Iss) : List Nat := c.tids.take 1

/-- BRP (R168). -/
def execBrp (f : BForm) (s : State) : Result :=
  withIss s (fun c =>
    if c.hel.isSome && decide (16 ≤ f.p.val) then s.decodeTrap c .illegalOp
    else
      let taken := fun (t : Nat) => c.pred t f.p.val != f.n
      let pc := c.pc
      let target := pc + (f.off.signExtend 64) * 4
      s.branch c (c.tids.any taken) (fun t => if taken t then 1 else 0) (fun t => if taken t then target else pc + 4) [])

/-- BR (R168). -/
def execBr (off : BitVec 17) (s : State) : Result :=
  withIss s (fun c => s.branch c true (fun _ => 0) (fun _ => c.pc + (off.signExtend 64) * 4) [])

/-- The link registers v62:v63 (R168). -/
def linkOpnd : Opnd := .win ⟨62, by decide⟩

/-- The link of some threads (R168). -/
def Iss.linkEffs (c : Iss) (ts : List Nat) : List Eff := ts.flatMap (fun t => c.writeEffs t linkOpnd 2 (c.pc + 4).toNat)

/-- CALL (R168). -/
def execCall (f : BForm) (s : State) : Result :=
  seqOps s false (fun c => c.tids) [] (some (linkOpnd, 2)) (fun c =>
    let taken := fun (t : Nat) => c.pred t f.p.val != f.n
    let pc := c.pc
    let target := pc + (f.off.signExtend 64) * 4
    let ts := c.tids.filter taken
    if c.sharedWrite ts linkOpnd 2 then s.takeTrap c .sharedWrite 0
    else s.branch c (!ts.isEmpty) (fun t => if taken t then 1 else 0) (fun t => if taken t then target else pc + 4) (c.linkEffs ts))

/-- An indirect transfer (R170): ALIGN and PAGE_PERM on any active thread's target, the lower code first. -/
def indirect (a : Opnd) (link : Bool) (s : State) : Result :=
  seqOps s false (fun c => c.tids) [(a, 2)] (if link then some (linkOpnd, 2) else none) (fun c =>
    let target := fun (t : Nat) => c.read64 t a
    match c.tids.find? (fun t => (target t).toNat % 4 != 0), c.tids.find? (fun t => decide (2 ^ 57 ≤ (target t).toNat)) with
    | some t, _ => s.takeTrap c .align (target t).toNat
    | none, some t => s.takeTrap c .pagePerm (target t).toNat
    | none, none =>
      if link && c.sharedWrite c.tids linkOpnd 2 then s.takeTrap c .sharedWrite 0
      else s.branch c true (fun t => (target t).toNat) target (if link then c.linkEffs c.tids else []))

/-- BRI (R170). -/
def execBri (a : Opnd) (s : State) : Result := indirect a false s
/-- CALLI (R170). -/
def execCalli (a : Opnd) (s : State) : Result := indirect a true s
/-- RET (R170): BRI through v62:v63. -/
def execRet (s : State) : Result := indirect linkOpnd false s

/-- NOP (R185). -/
def execNop (s : State) : Result := withIss s (fun c => s.finish c [])

/-- YIELD (R185): it closes the class run that its split's last issue opened, be that the YIELD itself or the issue before it
(assumption 71). -/
def execYield (s : State) : Result :=
  withIss s (fun c =>
    (s.finish c []).modCore c.core (fun k => { k with
      run := k.run.bind (fun r => if r.slot = c.slot ∧ r.who = c.who ∧ r.since ≤ 1 then none else some r) }))

/-- BKPT (R184). -/
def execBkpt (_code : BitVec 9) (s : State) : Result :=
  withIss s (fun c => if c.hel.isSome then s.decodeTrap c .illegalOp else s.takeTrap c .bkpt 0)

/-- TRAP (R184): with g = 1 and no active thread's guard true it completes as NOP. -/
def execTrap (_code : BitVec 9) (g : Bool) (s : State) : Result :=
  withIss s (fun c =>
    if c.hel.isSome then s.decodeTrap c .illegalOp
    else if (c.exec g).isEmpty then s.finish c []
    else s.takeTrap c .trap 0)

/-- RFT (R184): outside trap state it raises ILLEGAL_OP.  A misaligned or out-of-range sr.trappc traps as a transfer does
(R50, R170). -/
def execRft (s : State) : Result :=
  withIss s (fun c =>
    if c.hel.isSome then s.decodeTrap c .illegalOp
    else match c.w.trap with
      | none => s.takeTrap c .illegalOp 0
      | some _ =>
        if c.w.trappc.toNat % 4 ≠ 0 then s.takeTrap c .align c.w.trappc.toNat
        else if 2 ^ 57 ≤ c.w.trappc.toNat then s.takeTrap c .pagePerm c.w.trappc.toNat
        else s.returnTrap c)

/-- Set the guard selector of every strand of the split, or of the helper (R172). -/
def setGuard (p : Fin 64) (inv : Bool) (s : State) : Result :=
  withIss s (fun c =>
    match c.who with
    | .helper l =>
      if 16 ≤ p.val then s.decodeTrap c .illegalOp
      else (s.modHelper c.core c.slot l (fun h => { h with guardP := p.val, guardInv := inv })).finish c []
    | .split _ =>
      (s.modWarp c.core c.slot (fun w =>
        c.lanes.foldl (fun w l => w.modStrand l (fun st => { st with guardP := p.val, guardInv := inv })) w)).finish c [])

/-- GUARD (R172). -/
def execGuard (p : Fin 64) (s : State) : Result := setGuard p false s
/-- GUARDN (R172). -/
def execGuardn (p : Fin 64) (s : State) : Result := setGuard p true s

/-- ELECT (R174).  In a helper it writes true (Table 11-4). -/
def execElect (p : Fin 64) (g : Bool) (s : State) : Result :=
  withIss s (fun c =>
    if c.hel.isSome && decide (16 ≤ p.val) then s.decodeTrap c .illegalOp
    else
      let elected := (c.exec g).take 1
      let es := c.tids.map (fun t => Eff.pred t p.val (if c.hel.isSome then true else elected.contains t))
      (s.effsBy c es).finish c [p.val])

/-- The result of MWAIT (R176): the fired bits and the timeout bit, which every active thread receives; the reported bits
clear, and the split goes on. -/
def State.mwaitReturn (s : State) (c : Iss) (d : Opnd) (timeout : Bool) : State :=
  let fired := maskOf ((upto 4).filter (fun k => match c.w.monitors[k]? with
    | some m => m.fired
    | none => false))
  let s := s.effsBy c (c.tids.flatMap (fun t => c.writeEffs t d 1 (fired + (if timeout then 16 else 0))))
  (s.modWarp c.core c.slot (fun w => { w with monitors := w.monitors.map (fun m => { m with fired := false }) })).finish c []

/-- Has a monitor of the warp fired? -/
def Warp.anyFired (w : Warp) : Bool := w.monitors.any (fun m => m.fired)

/-- MWAIT (R176). -/
def execMwait (d : Opnd) (t : BitVec 9) (s : State) : Result :=
  seqOps s false (fun c => c.tids) [] (some (d, 1)) (fun c =>
    let parked := match c.split with
      | some sp => (match sp.status with
        | .parked (.mwait _ _) => some false
        | .parked (.woken _) => some true
        | _ => none)
      | none => none
    if parked.isSome then
      if c.w.anyFired || parked == some true then s.mwaitReturn c d false else s.stall
    else if c.sharedWrite c.tids d 1 then s.takeTrap c .sharedWrite 0
    else if c.w.anyFired || (t == 0 && !c.w.monitors.any (fun m => m.armed)) then s.mwaitReturn c d false
    else s.park c (.mwait (if t = 0 then none else some (s.elapsed + 1000 * t.toNat)) d))

/-- MWAIT_TIMEOUT (R176): the time of a parked MWAIT has passed with no monitor fired; another split's trap does not hold it back
(assumption 89). -/
def execMwaitTimeout (core slot sp : Nat) (s : State) : Result :=
  match s.issFor core slot (.split sp) Cost.free with
  | none => .next s
  | some c =>
    match c.split with
    | some x =>
      match x.status with
      | .parked (.mwait (some dl) d) =>
        if dl ≤ s.elapsed ∧ c.w.anyFired = false ∧ x.stopped = none then
          .next ((s.askLanes core slot x.strands).mwaitReturn c d true)
        else .next s
      | _ => .next s
    | none => .next s

/-- FENCEB (R178, R32): it closes the open batch, and stalls while 8 closed batches are incomplete. -/
def execFenceb (s : State) : Result :=
  withIss s (fun c =>
    if c.hel.isSome then s.decodeTrap c .illegalOp
    else if 8 ≤ c.w.batches.length then s.stall
    else ((s.modWarp c.core c.slot (fun w =>
      { w with batch := w.batch + 1, openBatch := 0, batches := pruneBatches (w.batches ++ [(w.nextBatch, w.openBatch)]) })).coolSpecial c .batch).finish c [])

/-- Is batch n later than sr.batch in the window of R32? -/
def batchLater (n cur : Nat) : Bool := n != cur && decide ((n + 2 ^ 32 - cur) % 2 ^ 32 < 2 ^ 31)

/-- WAITB (R178): n counts as sr.batch where it is later; the split is parked until batch n and every earlier one is
complete. -/
def execWaitb (a : Opnd) (n : BitVec 9) (s : State) : Result :=
  seqOps s false Iss.lowest [(a, 1)] none (fun c =>
    let cur := c.w.batch.toNat
    let v := match c.tids with
      | t :: _ => (c.read t a 1 + n.toNat) % 2 ^ 32
      | [] => n.toNat
    let target := match c.resumed with
      | some m => m
      | none => if batchLater v cur then cur else v
    if c.w.batches.any (fun b => !batchLater b.1 target) then s.await c target else s.finish c [])

/-- WBASE (R179): va + imm9 is an exact integer (R7). -/
def execWbase (a : Opnd) (n : BitVec 9) (s : State) : Result :=
  seqOps s false Iss.lowest [(a, 1)] none (fun c =>
    let v := match c.tids with
      | t :: _ => c.read t a 1 + n.toNat
      | [] => n.toNat
    let max := if c.w.fileSize = 256 then 136 else if c.w.fileSize = 128 then 8 else 0
    if v % 8 ≠ 0 ∨ v > max ∨ 1 < c.w.splits.length then s.takeTrap c .window 0
    else ((s.modWarp c.core c.slot (fun w => { w with wbase := v })).coolSpecial c .wbase).finish c [])

/-- IXSET (R180, R65). -/
def execIxset (a : Opnd) (k : Fin 4) (g u : Bool) (s : State) : Result :=
  seqOps s false (fun c => (c.tids.map (srcTid u)).dedup) [(a, 1)] none (fun c =>
    let v := fun (t : Nat) => c.read (srcTid u t) a 1
    let ts := c.exec g
    if ts.any (fun t => decide (c.w.fileSize < bitsOf (v t) 24 8 + bitsOf (v t) 19 5 + 1)) then s.takeTrap c .regIndex 0
    else (s.effsBy c (ts.map (fun t =>
      Eff.index t k.val (BitVec.ofNat 32 (bitsOf (v t) 24 8 * 2 ^ 24 + bitsOf (v t) 19 5 * 2 ^ 19 + bitsOf (v t) 0 8))))).finish c [])

/-- IXADD (R180): IDX is added to modulo 256; with u = 1 the strand's threads receive slot 0's IDX. -/
def execIxadd (a : Opnd) (k : Fin 4) (m : BitVec 7) (g u : Bool) (s : State) : Result :=
  seqOps s false (fun c => (c.tids.map (srcTid u)).dedup) [(a, 1)] none (fun c =>
    let idx := fun (t : Nat) => wrap 8 ((bitsOf (c.w.ix (srcTid u t) k.val).toNat 0 8 : Nat) + (c.read (srcTid u t) a 1 : Int) + m.toInt)
    (s.effsBy c ((c.exec g).map (fun t =>
      Eff.index t k.val (BitVec.ofNat 32 (setBits (c.w.ix t k.val).toNat 0 8 (idx t)))))).finish c [])

/-- Codes of sr.fmt.ELEM, RND and SAT (Table 2-13). -/
def elemCode (e : Elem) : Nat := e.ctorIdx
def rndCode (r : Rnd) : Nat := r.ctorIdx
def satCode (t : Sat) : Nat := t.ctorIdx

/-- Change sr.fmt of a strand or a helper. -/
def State.setFmt (s : State) (c : Iss) (l : Nat) (v : Nat) : State :=
  match c.who with
  | .helper h => s.modHelper c.core c.slot h (fun x => { x with fmt := BitVec.ofNat 32 v })
  | .split _ => s.modWarp c.core c.slot (fun w => w.modStrand l (fun st => { st with fmt := BitVec.ofNat 32 v }))

/-- The strands of the issue with their lowest active thread; a helper's own (R181). -/
def Iss.strandHeads (c : Iss) : List (Nat × Nat) :=
  ((c.tids.map (fun t => t / 4)).dedup).filterMap (fun l => (c.tids.find? (fun t => t / 4 == l)).map (fun t => (l, t)))

/-- FMT (R181). -/
def execFmt (a : Opnd) (e : Elem) (r : Rnd) (t : Sat) (s : State) : Result :=
  seqOps s true (fun c => c.strandHeads.map (fun x => x.2)) [(a, 1)] none (fun c =>
    let new := fun (x : Nat × Nat) =>
      let old := (c.fmt x.2).toNat
      let v := setBits (setBits (setBits old 12 4 (elemCode e)) 9 3 (rndCode r)) 6 2 (satCode t)
      if a = .vz then v
      else
        let va := c.read x.2 a 1
        setBits (setBits (setBits v 24 4 (bitsOf va 24 4)) 16 8 (bitsOf va 16 8)) 8 1 (bitsOf va 8 1)
    ((c.strandHeads.foldl (fun s x => s.setFmt c x.1 (new x)) s).coolSpecial c .fmt).finish c [])

/-- Does a value of sr.fmt carry a reserved code (R70)? -/
def fmtReserved (v : Nat) : Bool := decide (11 ≤ bitsOf v 12 4) || decide (5 ≤ bitsOf v 9 3) || decide (3 ≤ bitsOf v 6 2)

/-- The bits of sr.fmt that are not reserved (Table 2-13). -/
def fmtBits (v : Nat) : Nat := bitsOf v 6 22 * 64

/-- The context of the issuer as RDSR reads it. -/
def State.ctxFields (s : State) (c : Iss) : Nat × Nat × Nat × Nat :=
  match s.ctxOf c.w with
  | some x => (x.part, x.key, x.plim, x.trapbase.toNat)
  | none => (0, 0, 0, 0)

/-- A special register as thread t reads it (Table 2-14, R182). -/
def State.readSpec (s : State) (c : Iss) (r : SpecReg) (t : Nat) : Nat :=
  let (part, key, plim, base) := s.ctxFields c
  match r with
  | .tid => t
  | .lane => t / 4
  | .slot => t % 4
  | .warp => c.w.index
  | .wg => c.w.wg % 2 ^ 32
  | .core => c.core
  | .plot => plotOf c.core
  | .parcel => parcelOf c.core
  | .cycles => c.w.cycles
  | .elapsed => s.elapsed
  | .iiu => c.w.iiu
  | .tax => c.w.tax / 36
  | .fmt => (c.fmt t).toNat
  | .fpst => (match c.hel with
    | some h => h.fpst
    | none => mgetD c.w.fpst t 0)
  | .trapcause => c.w.trapcause.toNat
  | .trappc => c.w.trappc.toNat
  | .trapbase => base
  | .wbase => c.w.wbase
  | .batch => c.w.batch.toNat
  | .part => part
  | .key => key
  | .plim => plim

/-- RDSR (R182): each executing thread receives its own value, or with u = 1 slot 0's.  A helper reads its own fields and the registers of
the recruiter's warp and context, which are all there are (R278, assumption 72).  sr.iiu is read before the RDSR's own charge
(assumption 73). -/
def execRdsr (d : Opnd) (r : SpecReg) (g u : Bool) (s : State) : Result :=
  let n := if r.wide then 2 else 1
  seqOps s true (fun c => c.tids) [] (some (d, n)) (fun c =>
    if c.sharedWrite (c.exec g) d n then s.takeTrap c .sharedWrite 0
    else (s.effsBy c ((c.exec g).flatMap (fun t => c.writeEffs t d n (s.readSpec c r (srcTid u t))))).finish c [])

/-- WRSR (R183).  What is written per strand or per split comes from the lowest active thread, whatever u says and though its own guard be
false, where some thread of the strand or split executes (assumption 94). -/
def execWrsr (a : Opnd) (r : SpecReg) (g u : Bool) (s : State) : Result :=
  let n := if r.wide then 2 else 1
  let perThread := r == .fpst
  seqOps s true (fun c => if perThread then (c.tids.map (srcTid u)).dedup else if r == .fmt then c.strandHeads.map (fun x => x.2) else c.lowest) [(a, n)] none (fun c =>
    let ex := c.exec g
    match r with
    | .fpst =>
      let v := fun (t : Nat) => c.read (srcTid u t) a 1 % 32
      ((match c.who with
        | .helper l => s.modHelper c.core c.slot l (fun h => if ex.isEmpty then h else { h with fpst := v (4 * l) })
        | .split _ => s.modWarp c.core c.slot (fun w => { w with fpst := ex.foldl (fun m t => mput 0 m t (v t)) w.fpst })).coolSpecial c .fpst).finish c []
    | .fmt =>
      let heads := c.strandHeads.filter (fun x => ex.any (fun t => t / 4 == x.1))
      if heads.any (fun x => fmtReserved (c.read x.2 a 1)) then s.takeTrap c .illegalOp 0
      else ((heads.foldl (fun s x => s.setFmt c x.1 (fmtBits (c.read x.2 a 1))) s).coolSpecial c .fmt).finish c []
    | .trappc =>
      if c.hel.isSome then s.decodeTrap c .illegalOp
      else ((match ex, c.tids with
        | _ :: _, t :: _ => s.modWarp c.core c.slot (fun w => { w with trappc := c.read64 t a })
        | _, _ => s).coolSpecial c .trappc).finish c []
    | .trapbase =>
      if c.hel.isSome then s.decodeTrap c .illegalOp
      else ((match ex, c.tids with
        | _ :: _, t :: _ => s.modCtx c.w.ctx (fun x => { x with trapbase := (c.read64 t a) &&& ~~~3#64 })
        | _, _ => s).coolSpecial c .trapbase).finish c []
    | _ => s.decodeTrap c .illegalOp)

/-- CLASS (R185): the next n instructions of the split are run-eligible in an open run of the class. -/
def execClassHint (cl : TimingClass) (n : Fin 8) (s : State) : Result :=
  withIss s (fun c => (s.finish c []).setReserve c (some (cl, n.val + 1)))

/-- Is the context of the issuer privileged (R48)? -/
def State.privileged (s : State) (c : Iss) : Bool :=
  match s.ctxOf c.w with
  | some x => x.priv
  | none => false

/-- SCLR (R186): privileged; it marks the plot. -/
def execSclr (s : State) : Result :=
  withIss s (fun c =>
    if c.hel.isSome then s.decodeTrap c .illegalOp
    else if !s.privileged c then s.decodeTrap c .privOp
    else (s.modPlot (plotOf c.core) (fun p => { p with sclr := true })).finish c [])

/-- The plog group (R173). -/
def plog (pd : Nat) (srcs : List Nat) (g u : Bool) (fn : (Nat → Bool) → Bool) (s : State) : Result :=
  withIss s (fun c =>
    if c.hel.isSome && (pd :: srcs).any (fun p => decide (16 ≤ p)) then s.decodeTrap c .illegalOp
    else
      let es := (c.exec g).map (fun t => Eff.pred t pd (fn (fun p => c.pred (srcTid u t) p)))
      (s.effsBy c es).finish c [pd])

/-- PAND (R173). -/
def execPand (f : PLogForm) (s : State) : Result := plog f.p.val [f.q.val, f.r.val] f.g f.u (fun v => v f.q.val && v f.r.val) s
/-- POR (R173). -/
def execPor (f : PLogForm) (s : State) : Result := plog f.p.val [f.q.val, f.r.val] f.g f.u (fun v => v f.q.val || v f.r.val) s
/-- PXOR (R173). -/
def execPxor (f : PLogForm) (s : State) : Result := plog f.p.val [f.q.val, f.r.val] f.g f.u (fun v => v f.q.val != v f.r.val) s
/-- PNOT (R173). -/
def execPnot (f : PUnForm) (s : State) : Result := plog f.p.val [f.q.val] f.g f.u (fun v => !v f.q.val) s
/-- PMOV (R173). -/
def execPmov (f : PUnForm) (s : State) : Result := plog f.p.val [f.q.val] f.g f.u (fun v => v f.q.val) s

/-- WAITC (R177): a helper's own loads and stores counters (R279). -/
def execWaitc (cps : BitVec 5) (lds sts : BitVec 6) (tls : BitVec 4) (s : State) : Result :=
  withIss s (fun c =>
    let ok := decide (c.counterOf .loads ≤ lds.toNat) && decide (c.counterOf .stores ≤ sts.toNat) &&
      (c.hel.isSome || (decide (c.w.copies ≤ cps.toNat) && decide (c.w.tiles ≤ tls.toNat)))
    if ok then s.finish c [] else s.await c 0)

/-- UNUSED_ENCODING (R49): a word that decode refuses raises ILLEGAL_OP. -/
def execUnusedEncoding (_w : Word) (s : State) : Result := withIss s (fun c => s.decodeTrap c .illegalOp)

end Sys2Proof.Machine
end

