-- ==== Sys2Proof/Machine/Barrier.lean ====
section
/-! DEFINITION. Named barriers: arrivals, counted transfers, completion of a generation, and the bar group (01_machine.md R33
to R35, 12_copy_engine.md R316 to R329). -/

namespace Sys2Proof.Machine

/-- A named barrier of a workgroup. -/
def State.barrier (s : State) (wg k : Nat) : Barrier :=
  match mget? s.wgs wg with
  | some g => mgetD g.barriers k Barrier.clear
  | none => Barrier.clear

def State.setBarrier (s : State) (wg k : Nat) (b : Barrier) : State :=
  s.modWg wg (fun g => { g with barriers := mput Barrier.clear g.barriers k b })

/-- Number of set bits of an arrival mask. -/
def arrivals (m : Nat) : Nat := (bitsList 256 m).length

/-- Do the conditions of R318 hold?  The copy engine arrives as soon as the first two do (R34). -/
def Barrier.complete (b : Barrier) : Bool := b.init && decide (b.exp ≤ arrivals b.cur) && b.inflCur == 0

/-- The next generation becomes current (R318); a registered continuation becomes a pending spawn (R320). -/
def Barrier.advance (b : Barrier) : Barrier :=
  { b with
    gen := (b.gen + 1) % 2 ^ 32, cur := b.next, next := 0, inflCur := b.inflNext, inflNext := 0, cpa := false, err := b.errNext,
    errNext := false, errLast := b.err, cont := none,
    spawn := b.spawn ++ (match b.cont with
      | some c => [(c, b.err)]
      | none => []) }

/-- What the completion of a generation does to a split's wait (R319, R326). -/
def Wait.barrierDone (k gen : Nat) (err : Bool) : Wait → Wait
  | .barw k' joined last e ended =>
    if k' = k ∧ ended = none ∧ joined.contains gen then .barw k' joined last (e || err) (if last = gen then some true else none)
    else .barw k' joined last e ended
  | w => w

/-- BARX ends the waits on a barrier (R329). -/
def Wait.barrierCleared (k : Nat) : Wait → Wait
  | .barw k' a b e ended => if k' = k ∧ ended = none then .barw k' a b e (some false) else .barw k' a b e ended
  | w => w

/-- Change what the parked splits of a warp wait for. -/
def Warp.mapWaits (w : Warp) (f : Wait → Wait) : Warp :=
  { w with splits := w.splits.map (fun e => match e.2.status with
      | .parked x => (e.1, { e.2 with status := .parked (f x) })
      | _ => e) }

/-- The strands of a warp's splits whose BARW has ended. -/
def Warp.barwWoken (w : Warp) : Nat :=
  w.splits.foldl (fun m e => match e.2.status with
    | .parked (.barw _ _ _ _ (some _)) => m ||| e.2.strands
    | _ => m) 0

/-- Change the waits of a resident workgroup's warps; woken owners ask their lent lanes back (R276). -/
def State.mapWgWaits (s : State) (wg : Nat) (f : Wait → Wait) : State :=
  match mget? s.wgs wg with
  | some g =>
    match g.core with
    | some core => g.slots.foldl (fun s slot =>
        let s := s.modWarp core slot (fun w => w.mapWaits f)
        match s.warp? core slot with
        | some w => s.askLanes core slot w.barwWoken
        | none => s) s
    | none => s
  | none => s

/-- The partition of a workgroup's context. -/
def State.partOfWg (s : State) (wg : Nat) : Nat :=
  match (mget? s.wgs wg).bind (fun g => (mget? s.grids g.grid).bind (fun x => mget? s.ctxs x.ctx)) with
  | some x => x.part
  | none => 0

/-- Complete generations while the conditions hold (R318): the state and the generations completed with their errors. -/
def State.barrierSettle (s : State) (wg k : Nat) : Nat → State × List (Nat × Bool)
  | 0 => (s, [])
  | n + 1 =>
    let b := s.barrier wg k
    if b.complete then
      let s := s.setBarrier wg k b.advance
      let s := if b.cpm && b.err then s.count (s.partOfWg wg) .cperr 1 else s
      let s := s.mapWgWaits wg (Wait.barrierDone k b.gen b.err)
      let r := s.barrierSettle wg k n
      (r.1, (b.gen, b.err) :: r.2)
    else (s, [])

/-- One arrival (R317): the state, the generation joined, and the generations that it completed. -/
def State.arriveOne (s : State) (wg k who : Nat) : State × Nat × List (Nat × Bool) :=
  let b := s.barrier wg k
  let r := if hasBit b.cur who then (s.setBarrier wg k { b with next := setBits b.next who 1 1 }, (b.gen + 1) % 2 ^ 32)
    else (s.setBarrier wg k { b with cur := setBits b.cur who 1 1 }, b.gen)
  let t := r.1.barrierSettle wg k 3
  (t.1, r.2, t.2)

/-- Arrivals of some threads in rising order: the generations joined, in order, and those completed (R317). -/
def State.arriveAll (s : State) (wg k : Nat) : List Nat → State × List Nat × List (Nat × Bool)
  | [] => (s, [], [])
  | who :: r =>
    let a := s.arriveOne wg k who
    let t := a.1.arriveAll wg k r
    (t.1, a.2.1 :: t.2.1, a.2.2 ++ t.2.2)

/-- A thread as a barrier counts it (Table 12-4). -/
def Iss.barWho (c : Iss) (t : Nat) : Nat := 64 * c.w.index + t

/-- May some threads arrive, each judged at its turn: the barrier is initialised, and no thread has both its bits set as it arrives (R316,
R317)? -/
def State.mayArrive (s : State) (wg k : Nat) : List Nat → Bool
  | [] => (s.barrier wg k).init
  | who :: r =>
    let b := s.barrier wg k
    b.init && !(hasBit b.cur who && hasBit b.next who) && (s.arriveOne wg k who).1.mayArrive wg k r

/-- A transfer is counted into a barrier at its issue (R34, R317): the state and the generation it counts into. -/
def State.countTransfer (s : State) (wg k who : Nat) : State × Nat :=
  let b := s.barrier wg k
  if hasBit b.cur who then (s.setBarrier wg k { b with inflNext := b.inflNext + 1 }, (b.gen + 1) % 2 ^ 32)
  else (s.setBarrier wg k { b with inflCur := b.inflCur + 1 }, b.gen)

/-- A counted transfer has landed, with an error arrival where words of it were dropped (R313, R318). -/
def State.transferLanded (s : State) (wg : Nat) (kg : Nat × Nat) (err : Bool) : State :=
  let b := s.barrier wg kg.1
  let b := if kg.2 = b.gen then { b with inflCur := b.inflCur - 1, err := b.err || err }
    else if kg.2 = (b.gen + 1) % 2 ^ 32 then { b with inflNext := b.inflNext - 1, errNext := b.errNext || err }
    else b
  ((s.setBarrier wg kg.1 b).barrierSettle wg kg.1 3).1

/-- Does a split of the workgroup wait at BARW on a barrier? -/
def State.barWaiter (s : State) (wg k : Nat) : Bool :=
  match mget? s.wgs wg with
  | some g =>
    match g.core with
    | some core => g.slots.any (fun slot => match s.warp? core slot with
        | some w => w.splits.any (fun e => match e.2.status with
          | .parked (.barw k' _ _ _ none) => k' == k
          | _ => false)
        | none => false)
    | none => false
  | none => false

/-- BARI (R325). -/
def execBari (a : Opnd) (k : Fin 16) (s : State) : Result :=
  seqOps s false Iss.lowest [(a, 1)] none (fun c =>
    let v := match c.tids with
      | t :: _ => c.read t a 1
      | [] => 0
    let b := s.barrier c.w.wg k.val
    let busy := b.init && (b.cur != 0 || b.next != 0 || b.inflCur != 0 || b.inflNext != 0 || b.cont.isSome || s.barWaiter c.w.wg k.val)
    if v % 512 = 0 ∨ 256 < v % 512 ∨ v / 1024 ≠ 0 ∨ busy then s.takeTrap c .barrier 0
    else (s.setBarrier c.w.wg k.val { b with
        init := true, exp := v % 512, cpm := hasBit v 9, err := false, errNext := false, errLast := false }).finish c [])

/-- BARA (R326).  It waits until the LS accesses of its warp are performed or stand in the core's buffer, so that they happen before what
follows the barrier (R139, assumption 76). -/
def execBara (k : Fin 16) (g : Bool) (s : State) : Result :=
  seqOps s false (fun c => c.tids) [] none (fun c =>
    let whos := (c.exec g).map c.barWho
    if whos.isEmpty then s.finish c []
    else if !s.mayArrive c.w.wg k.val whos then s.takeTrap c .barrier 0
    else if !(s.lsOpen c.core c.slot).isEmpty then s.stall
    else (s.arriveAll c.w.wg k.val whos).1.finish c [])

/-- BARW (R319, R326): it parks until the generation that its last arriving thread joined has completed; an error generation
delivers SCRATCH_STALE, and BARX delivers BARRIER (R329). -/
def execBarw (k : Fin 16) (g : Bool) (s : State) : Result :=
  seqOps s false (fun c => c.tids) [] none (fun c =>
    let waits := match c.split with
      | some sp => (match sp.status with
        | .parked (.barw _ _ _ e ended) => some (e, ended)
        | _ => none)
      | none => none
    match waits with
    | some (_, none) => s.stall
    | some (_, some false) => (s.wake c).takeTrap c .barrier 0
    | some (e, some true) => if e then (s.wake c).takeTrap c .scratchStale 0 else s.finish c []
    | none =>
      let whos := (c.exec g).map c.barWho
      if whos.isEmpty then s.finish c []
      else if !s.mayArrive c.w.wg k.val whos then s.takeTrap c .barrier 0
      else if !(s.lsOpen c.core c.slot).isEmpty then s.stall
      else
        let r := s.arriveAll c.w.wg k.val whos
        let last := r.2.1.getLastD 0
        let err := r.2.2.any (fun x => r.2.1.contains x.1 && x.2)
        if r.2.2.any (fun x => x.1 == last) then
          (if err then r.1.takeTrap c .scratchStale 0 else r.1.finish c [])
        else r.1.park c (.barw k.val r.2.1.dedup last err none))

/-- BARC (R327). -/
def execBarc (a : Opnd) (k : Fin 16) (s : State) : Result :=
  seqOps s false Iss.lowest [(a, 2)] none (fun c =>
    let v := match c.tids with
      | t :: _ => c.read t a 2
      | [] => 0
    let off := v % 2 ^ 32
    let b := s.barrier c.w.wg k.val
    let size := match s.gridOf c.w with
      | some (_, g) => g.codeSize
      | none => 0
    if !b.init || b.cont.isSome then s.takeTrap c .barrier 0
    else if off % 4 ≠ 0 then s.takeTrap c .align off
    else if size ≤ off then s.takeTrap c .pagePerm off
    else (s.setBarrier c.w.wg k.val { b with cont := some { off := off, word := BitVec.ofNat 32 (v / 2 ^ 32) } }).finish c [])

/-- The status word of BARQ (Table 12-7). -/
def Barrier.status (b : Barrier) : Nat :=
  (if b.init then 2 ^ 31 else 0) + (if b.cpm then 2 ^ 30 else 0) + (if b.errLast then 2 ^ 29 else 0) + (if b.cont.isSome then 2 ^ 28 else 0) +
    (if b.cpa then 2 ^ 27 else 0) + arrivals b.cur % 512 * 2 ^ 18 + b.exp % 512 * 2 ^ 9 + b.inflCur % 512

/-- BARQ (R328). -/
def execBarq (d : Opnd) (k : Fin 16) (g : Bool) (s : State) : Result :=
  seqOps s false (fun c => c.tids) [] (some (d, 2)) (fun c =>
    let b := s.barrier c.w.wg k.val
    if c.sharedWrite (c.exec g) d 2 then s.takeTrap c .sharedWrite 0
    else (s.effsBy c ((c.exec g).flatMap (fun t => c.writeEffs t d 2 (b.status + 2 ^ 32 * b.gen)))).finish c [])

/-- BARX (R329). -/
def execBarx (k : Fin 16) (s : State) : Result :=
  seqOps s false (fun c => c.tids) [] none (fun c =>
    let b := s.barrier c.w.wg k.val
    if !b.init then s.finish c []
    else if b.inflCur ≠ 0 ∨ b.inflNext ≠ 0 then s.await c 0
    else ((s.setBarrier c.w.wg k.val Barrier.clear).mapWgWaits c.w.wg (Wait.barrierCleared k.val)).finish c [])

end Sys2Proof.Machine
end

