-- ==== Sys2Proof/Machine/Flags.lean ====
section
/-! DEFINITION. Floating-point formats, exact values, rounding and the sticky flags (04_number_formats.md R93 to R107,
02_words_registers.md R70, R72). -/

namespace Sys2Proof.Machine

/-- The sticky flags of sr.fpst (Table 2-15). -/
def flagNX : Nat := 1
def flagUF : Nat := 2
def flagOF : Nat := 4
def flagDZ : Nat := 8
def flagNV : Nat := 16

/-- A floating-point format (Table 4-2): width, exponent and fraction widths, bias, and whether it has infinities. -/
structure FltFmt where
  width : Nat
  eb : Nat
  fb : Nat
  bias : Nat
  inf : Bool
  deriving DecidableEq, Repr

def fp64 : FltFmt := { width := 64, eb := 11, fb := 52, bias := 1023, inf := true }
def fp32 : FltFmt := { width := 32, eb := 8, fb := 23, bias := 127, inf := true }
def fp16 : FltFmt := { width := 16, eb := 5, fb := 10, bias := 15, inf := true }
def bf16 : FltFmt := { width := 16, eb := 8, fb := 7, bias := 127, inf := true }
def e4m3 : FltFmt := { width := 8, eb := 4, fb := 3, bias := 7, inf := false }
def e2m1 : FltFmt := { width := 4, eb := 2, fb := 1, bias := 1, inf := false }

/-- The exponent of the smallest normal. -/
def FltFmt.emin (F : FltFmt) : Int := 1 - F.bias

/-- An exact value: NaN, an infinity, or (−1)^s × m × 2^e with a sign also for zero. -/
inductive FVal where
  | nan
  | inf (s : Bool)
  | fin (s : Bool) (m : Nat) (e : Int)
  deriving DecidableEq, Repr

/-- What sr.fmt says of rounding: RND, FTZ and SAT (Table 2-13). -/
structure FEnv where
  rnd : Nat
  ftz : Bool
  sat : Nat
  deriving DecidableEq, Repr

def FEnv.of (fmt : Word) : FEnv := { rnd := bitsOf fmt.toNat 9 3, ftz := hasBit fmt.toNat 8, sat := bitsOf fmt.toNat 6 2 }

/-- Round to nearest even, no flush, SAT 0: what reductions use (R111). -/
def FEnv.plain : FEnv := { rnd := 0, ftz := false, sat := 0 }

/-- Is a bit pattern a NaN of the format (R93, R94)? -/
def isNanBits (F : FltFmt) (b : Nat) : Bool :=
  if F.inf then bitsOf b F.fb F.eb == 2 ^ F.eb - 1 && bitsOf b 0 F.fb != 0
  else F.width == 8 && bitsOf b 0 7 == 127

/-- Is it a signalling NaN (R94)? -/
def isSnanBits (F : FltFmt) (b : Nat) : Bool := F.inf && isNanBits F b && !hasBit b (F.fb - 1)

/-- decode_float (R107): a denormal reads as zero of its sign under flush, except in FP4 E2M1. -/
def decodeFloat (F : FltFmt) (ftz : Bool) (b : Nat) : FVal :=
  let s := hasBit b (F.width - 1)
  let e := bitsOf b F.fb F.eb
  let f := bitsOf b 0 F.fb
  if isNanBits F b then .nan
  else if F.inf && e == 2 ^ F.eb - 1 then .inf s
  else if e = 0 then
    if ftz && F.width != 4 then .fin s 0 0 else .fin s f (F.emin - F.fb)
  else .fin s (2 ^ F.fb + f) ((e : Int) - F.bias - F.fb)

/-- The canonical NaN (Table 4-2). -/
def canonicalNan (F : FltFmt) : Nat :=
  if F.inf then (2 ^ F.eb - 1) * 2 ^ F.fb + 2 ^ (F.fb - 1) else if F.width = 8 then 0x7F else 0

/-- The sign bit in place. -/
def signBits (F : FltFmt) (s : Bool) : Nat := if s then 2 ^ (F.width - 1) else 0

/-- The largest finite magnitude as bits. -/
def maxBits (F : FltFmt) : Nat :=
  if F.inf then (2 ^ F.eb - 1) * 2 ^ F.fb - 1 else if F.width = 8 then 0x7E else 0x7

/-- m × 2^e as a multiple of 2^q, rounded in the mode (round_int of R107 on the magnitude, R102), and whether it is exact. -/
def roundAt (rnd : Nat) (s : Bool) (m : Nat) (e q : Int) : Nat × Bool :=
  if q ≤ e then (m * 2 ^ (e - q).toNat, true)
  else
    let d := 2 ^ (q - e).toNat
    let lo := m / d
    let r := m % d
    if r = 0 then (lo, true)
    else
      let up := match rnd with
        | 1 => false
        | 2 => s
        | 3 => !s
        | 4 => decide (d ≤ 2 * r)
        | _ => decide (d < 2 * r) || (decide (2 * r = d) && lo % 2 == 1)
      (if up then lo + 1 else lo, false)

/-- The bits of a magnitude y × 2^q that the format holds exactly. -/
def encodeMag (F : FltFmt) (y : Nat) (q : Int) : Nat :=
  if y = 0 then 0
  else
    let k : Int := Nat.log2 y + q
    if k < F.emin then (if q ≤ F.emin - F.fb then y / 2 ^ (F.emin - F.fb - q).toNat else y * 2 ^ (q - (F.emin - F.fb)).toNat)
    else (k + F.bias).toNat * 2 ^ F.fb + (y * 2 ^ F.fb / 2 ^ Nat.log2 y - 2 ^ F.fb)

/-- Table 4-4: the word delivered on overflow. -/
def overflowBits (F : FltFmt) (s : Bool) (env : FEnv) : Nat :=
  let toInf := env.sat == 0 && (match env.rnd with
    | 1 => false
    | 2 => s
    | 3 => !s
    | _ => true)
  if toInf then
    if F.inf then signBits F s + (2 ^ F.eb - 1) * 2 ^ F.fb else if F.width = 8 then 0x7F else signBits F s + maxBits F
  else signBits F s + maxBits F

/-- a × 2^q > b × 2^p. -/
def gtScaled (a : Nat) (q : Int) (b : Nat) (p : Int) : Bool :=
  if p ≤ q then decide (b < a * 2 ^ (q - p).toNat) else decide (b * 2 ^ (p - q).toNat < a)

/-- round_to_format (R107): the bits and the flags. -/
def roundToFormat (F : FltFmt) (env : FEnv) : FVal → Nat × Nat
  | .nan => if env.sat = 2 ∨ F.width = 4 then (0, flagNV) else (canonicalNan F, 0)
  | .inf s =>
    if F.inf && env.sat == 0 then (signBits F s + (2 ^ F.eb - 1) * 2 ^ F.fb, 0)
    else (overflowBits F s env, flagOF + flagNX)
  | .fin s m e =>
    if m = 0 then (signBits F s, 0)
    else
      let k : Int := Nat.log2 m + e
      let q : Int := (if k < F.emin then F.emin else k) - F.fb
      let y := roundAt env.rnd s m e q
      let u := roundAt env.rnd s m e (k - F.fb)
      let maxM := 2 ^ F.fb + bitsOf (maxBits F) 0 F.fb
      let maxE : Int := (bitsOf (maxBits F) F.fb F.eb : Int) - F.bias - F.fb
      if gtScaled y.1 q maxM maxE then (overflowBits F s env, flagOF + flagNX)
      else if env.ftz && F.width != 4 && gtScaled 1 F.emin y.1 q then (signBits F s, flagUF + flagNX)
      else
        let tiny := gtScaled 1 F.emin u.1 (k - F.fb)
        (signBits F s + encodeMag F y.1 q, (if y.2 then 0 else flagNX) + (if tiny && !y.2 then flagUF else 0))

/-- round_int (R107) of an exact finite value: the integer and whether it is exact. -/
def roundInt (rnd : Nat) (s : Bool) (m : Nat) (e : Int) : Int × Bool :=
  let r := roundAt rnd s m e 0
  (if s then -(r.1 : Int) else r.1, r.2)

/-- Value of an E2M1 code in halves, with its sign (R107). -/
def e2m1Val (c : Nat) : FVal := decodeFloat e2m1 false (c % 16)

/-- Value of an E3M5 scale: numerator over 2^7 (R97). -/
def e3m5Num (b : Nat) : Nat :=
  let e := bitsOf b 5 3
  let m := bitsOf b 0 5
  if e = 0 then m else (32 + m) * 2 ^ (e - 1)

/-- A BF16 band scale is invalid: zero, negative, denormal, infinite or NaN (R98). -/
def betaInvalid (b : Nat) : Bool := hasBit b 15 || bitsOf b 7 8 == 0 || bitsOf b 7 8 == 255

end Sys2Proof.Machine
end

