-- ==== Sys2Proof/Machine/Arith.lean ====
section
/-! DEFINITION. Exact float arithmetic rounded once: sums, products, quotients, roots, exponential and logarithm, selection,
comparison and conversion (08_float_engine.md R211 to R219, 04_number_formats.md R105, 09_exchange_engine.md R226, R234). -/

namespace Sys2Proof.Machine

/-- An exact result with the flags that stand before rounding (Table 8-3). -/
abbrev FRes := FVal × Nat

/-- The invalid result. -/
def invalid : FRes := (.nan, flagNV)

/-- The signed value of a finite number over 2^e. -/
def sgn (s : Bool) (m : Nat) : Int := if s then -(m : Int) else m

/-- x + y (the sum rows of Table 8-3); `rnd` decides the sign of an exact zero. -/
def fsum (rnd : Nat) (x y : FVal) : FRes :=
  match x, y with
  | .nan, _ | _, .nan => (.nan, 0)
  | .inf a, .inf b => if a = b then (.inf a, 0) else invalid
  | .inf a, .fin _ _ _ => (.inf a, 0)
  | .fin _ _ _, .inf b => (.inf b, 0)
  | .fin a m e, .fin b n f =>
    let g := min e f
    let v := sgn a (m * 2 ^ (e - g).toNat) + sgn b (n * 2 ^ (f - g).toNat)
    if v = 0 then
      if m = 0 ∧ n = 0 ∧ a = true ∧ b = true then (.fin true 0 0, 0) else (.fin (rnd == 2) 0 0, 0)
    else (.fin (decide (v < 0)) v.natAbs g, 0)

/-- x × y (the product rows of Table 8-3). -/
def fprod (x y : FVal) : FRes :=
  match x, y with
  | .nan, _ | _, .nan => (.nan, 0)
  | .inf a, .inf b => (.inf (a != b), 0)
  | .inf a, .fin b n _ => if n = 0 then invalid else (.inf (a != b), 0)
  | .fin a m _, .inf b => if m = 0 then invalid else (.inf (a != b), 0)
  | .fin a m e, .fin b n f => (.fin (a != b) (m * n) (e + f), 0)

/-- x × y + z with one rounding; an invalid product is invalid whatever z holds. -/
def ffused (rnd : Nat) (x y z : FVal) : FRes :=
  match fprod x y with
  | (p, 0) => fsum rnd p z
  | r => r

/-- The negative of a value. -/
def FVal.neg : FVal → FVal
  | .nan => .nan
  | .inf s => .inf (!s)
  | .fin s m e => .fin (!s) m e

/-- A non-dyadic value that lies strictly between m and m + 1 times 2^e, by a value that rounds as it does: the midpoint. -/
def between (s : Bool) (m : Nat) (e : Int) : FVal := .fin s (2 * m + 1) (e - 1)

/-- m ÷ n × 2^e for non-zero m, n: exact, or a value that rounds as it does at any position of the formats. -/
def quotient (s : Bool) (m n : Nat) (e : Int) : FVal :=
  let k := Nat.log2 n + 80
  let q := m * 2 ^ k / n
  if m * 2 ^ k % n = 0 then .fin s q (e - k) else between s q (e - k)

/-- x ÷ y (Table 8-3). -/
def fquot (x y : FVal) : FRes :=
  match x, y with
  | .nan, _ | _, .nan => (.nan, 0)
  | .inf _, .inf _ => invalid
  | .inf a, .fin b _ _ => (.inf (a != b), 0)
  | .fin a _ _, .inf b => (.fin (a != b) 0 0, 0)
  | .fin a m e, .fin b n f =>
    if n = 0 then (if m = 0 then invalid else (.inf (a != b), flagDZ))
    else if m = 0 then (.fin (a != b) 0 0, 0)
    else (quotient (a != b) m n (e - f), 0)

/-- Integer square root by bits, from bit n − 1 down. -/
def isqrtBits (v : Nat) : Nat → Nat → Nat
  | 0, r => r
  | n + 1, r => if (r + 2 ^ n) * (r + 2 ^ n) ≤ v then isqrtBits v n (r + 2 ^ n) else isqrtBits v n r

/-- floor(√v). -/
def isqrt (v : Nat) : Nat := isqrtBits v (Nat.log2 v / 2 + 1) 0

/-- The root of m × 2^e: exact, or a value that rounds as it does. -/
def rootOf (m : Nat) (e : Int) : FVal :=
  let odd : Nat := if e % 2 = 0 then 0 else 1
  let v := m * 2 ^ odd * 2 ^ 128
  let r := isqrt v
  let e' : Int := (e - odd) / 2 - 64
  if r * r = v then .fin false r e' else between false r e'

/-- √x (Table 8-3). -/
def froot : FVal → FRes
  | .nan => (.nan, 0)
  | .inf s => if s then invalid else (.inf false, 0)
  | .fin s m e => if m = 0 then (.fin s 0 0, 0) else if s then invalid else (rootOf m e, 0)

/-- 1 ÷ x (Table 8-3). -/
def frecip (x : FVal) : FRes := fquot (.fin false 1 0) x

/-- 1 ÷ √x (Table 8-3). -/
def frsqrt : FVal → FRes
  | .nan => (.nan, 0)
  | .inf s => if s then invalid else (.fin false 0 0, 0)
  | .fin s m e =>
    if m = 0 then (.inf s, flagDZ)
    else if s then invalid
    else
      let odd : Nat := if e % 2 = 0 then 0 else 1
      let n := m * 2 ^ odd
      let v := 2 ^ 256 / n
      let r := isqrt v
      let e' : Int := -((e - odd) / 2) - 128
      (if r * r * n = 2 ^ 256 then .fin false r e' else between false r e', 0)

/-! The exponential and the logarithm are irrational at every other argument than the exact ones, and lie much farther from
every rounding boundary of FP32 than the fixed-point error below. -/

/-- Fraction bits of the fixed-point series. -/
def fxBits : Nat := 320

/-- The odd powers of the inverse hyperbolic tangent: z + z³/3 + … in fixed point, `n` terms; `p` is the current power. -/
def atanhTerms (zz : Nat) : Nat → Nat → Nat → Nat
  | 0, _, _ => 0
  | n + 1, p, k => p / k + atanhTerms zz n (p * zz / 2 ^ fxBits) (k + 2)

/-- ln y for 1 ≤ y < 2, y = m / 2^k, in fixed point. -/
def lnFx (m k : Nat) : Nat :=
  let z := (m - 2 ^ k) * 2 ^ fxBits / (m + 2 ^ k)
  2 * atanhTerms (z * z / 2 ^ fxBits) 110 z 1

/-- ln 2 in fixed point. -/
def ln2Fx : Nat :=
  let z := 2 ^ fxBits / 3
  2 * atanhTerms (z * z / 2 ^ fxBits) 110 z 1

/-- e^t − 1 by its series in fixed point, `n` terms; `p` is the current term. -/
def expTerms (t : Nat) : Nat → Nat → Nat → Nat
  | 0, _, _ => 0
  | n + 1, p, k => p + expTerms t n (p * t / 2 ^ fxBits / k) (k + 1)

/-- 2^x for finite non-zero x = ±m × 2^e (R216). -/
def exp2Of (s : Bool) (m : Nat) (e : Int) : FVal :=
  let k : Int := Nat.log2 m + e
  if k ≥ 9 then (if s then .fin false 1 (-400) else .fin false 1 400)
  else
    let fx : Int := sgn s (if 0 ≤ e + fxBits then m * 2 ^ (e + fxBits).toNat else m / 2 ^ (-(e + fxBits)).toNat)
    let n := fx / ((2 ^ fxBits : Nat) : Int)
    let f := (fx - n * ((2 ^ fxBits : Nat) : Int)).toNat
    if f = 0 then .fin false 1 n
    else
      let t := f * ln2Fx / 2 ^ fxBits
      let r := 2 ^ fxBits + expTerms t 80 t 2
      between false (r / 2 ^ 40) (n - fxBits + 40)

/-- 2^x (Table 8-3). -/
def fexp2 : FVal → FRes
  | .nan => (.nan, 0)
  | .inf s => if s then (.fin false 0 0, 0) else (.inf false, 0)
  | .fin s m e => if m = 0 then (.fin false 1 0, 0) else (exp2Of s m e, 0)

/-- log2 x (Table 8-3, R216). -/
def flog2 : FVal → FRes
  | .nan => (.nan, 0)
  | .inf s => if s then invalid else (.inf false, 0)
  | .fin s m e =>
    if m = 0 then (.inf true, flagDZ)
    else if s then invalid
    else
      let k := Nat.log2 m
      let n : Int := k + e
      if m = 2 ^ k then (.fin (decide (n < 0)) n.natAbs 0, 0)
      else
        let l := lnFx m k * 2 ^ fxBits / ln2Fx
        let v := n * ((2 ^ fxBits : Nat) : Int) + l
        (between (decide (v < 0)) (v.natAbs / 2 ^ 40) (40 - (fxBits : Int)), 0)

/-- One float operation on source bits (R211): NV for a signalling NaN, the exact result, one rounding. -/
def fltOp (F : FltFmt) (env : FEnv) (srcs : List Nat) (r : FRes) : Nat × Nat :=
  let snan := if srcs.any (isSnanBits F) then flagNV else 0
  let out := roundToFormat F env r.1
  (out.1, snan ||| r.2 ||| out.2)

/-- Two-source and fused operations, and the functions of one source. -/
def fltAdd (F : FltFmt) (env : FEnv) (a b : Nat) : Nat × Nat :=
  fltOp F env [a, b] (fsum env.rnd (decodeFloat F env.ftz a) (decodeFloat F env.ftz b))
def fltSub (F : FltFmt) (env : FEnv) (a b : Nat) : Nat × Nat :=
  fltOp F env [a, b] (fsum env.rnd (decodeFloat F env.ftz a) (decodeFloat F env.ftz b).neg)
def fltMul (F : FltFmt) (env : FEnv) (a b : Nat) : Nat × Nat :=
  fltOp F env [a, b] (fprod (decodeFloat F env.ftz a) (decodeFloat F env.ftz b))
def fltFma (F : FltFmt) (env : FEnv) (a b d : Nat) : Nat × Nat :=
  fltOp F env [a, b, d] (ffused env.rnd (decodeFloat F env.ftz a) (decodeFloat F env.ftz b) (decodeFloat F env.ftz d))
def fltDiv (F : FltFmt) (env : FEnv) (a b : Nat) : Nat × Nat :=
  fltOp F env [a, b] (fquot (decodeFloat F env.ftz a) (decodeFloat F env.ftz b))
def fltFn (F : FltFmt) (env : FEnv) (fn : FVal → FRes) (a : Nat) : Nat × Nat := fltOp F env [a] (fn (decodeFloat F env.ftz a))

/-- The order of two values that are no NaN: −1, 0 or 1; −0 and +0 are equal. -/
def fcmp (x y : FVal) : Int :=
  match x, y with
  | .inf a, .inf b => if a = b then 0 else if a then -1 else 1
  | .inf a, _ => if a then -1 else 1
  | _, .inf b => if b then 1 else -1
  | .fin a m e, .fin b n f =>
    let g := min e f
    let v := sgn a (m * 2 ^ (e - g).toNat) - sgn b (n * 2 ^ (f - g).toNat)
    if v < 0 then -1 else if v = 0 then 0 else 1
  | _, _ => 0

/-- The sign of a value. -/
def FVal.sign : FVal → Bool
  | .nan => false
  | .inf s => s
  | .fin s _ _ => s

/-- FMIN or FMAX selection (R217). -/
def fselect (isMax : Bool) (x y : FVal) : FVal :=
  match x, y with
  | .nan, .nan => .nan
  | .nan, y => y
  | x, .nan => x
  | x, y =>
    let c := fcmp x y
    let xLess := decide (c < 0) || (decide (c = 0) && x.sign && !y.sign)
    if isMax then (if xLess then y else if decide (c = 0) && y.sign && !x.sign then x else if c < 0 then y else x)
    else (if xLess then x else if c = 0 then y else if c < 0 then x else y)

def fltMinMax (F : FltFmt) (env : FEnv) (isMax : Bool) (a b : Nat) : Nat × Nat :=
  fltOp F env [a, b] (fselect isMax (decodeFloat F env.ftz a) (decodeFloat F env.ftz b), 0)

/-- FCLASS (Table 8-4). -/
def fclassMask (b : Nat) : Nat :=
  let s := hasBit b 31
  let e := bitsOf b 23 8
  let f := bitsOf b 0 23
  2 ^ (if isNanBits fp32 b then (if isSnanBits fp32 b then 8 else 9)
    else if e = 255 then (if s then 0 else 7)
    else if e ≠ 0 then (if s then 1 else 6)
    else if f ≠ 0 then (if s then 2 else 5)
    else (if s then 3 else 4))

/-- FSETP and DSETP (Table 8-5): the predicate and the flags. -/
def fltCompare (F : FltFmt) (env : FEnv) (cc : FltCc) (a b : Nat) : Bool × Nat :=
  let x := decodeFloat F env.ftz a
  let y := decodeFloat F env.ftz b
  let un := x == .nan || y == .nan
  let snan := isSnanBits F a || isSnanBits F b
  let c := fcmp x y
  let p := match cc with
    | .eq => !un && decide (c = 0)
    | .ne => un || decide (c ≠ 0)
    | .lt => !un && decide (c < 0)
    | .le => !un && decide (c ≤ 0)
    | .gt => !un && decide (c > 0)
    | .ge => !un && decide (c ≥ 0)
    | .num => !un
    | .nan => un
  let nv := match cc with
    | .lt | .le | .gt | .ge => un
    | _ => snan
  (p, if nv then flagNV else 0)

/-- The kinds of a conversion's sides (R226). -/
inductive NumKind where
  | int (signed : Bool) (n : Nat)
  | flt (F : FltFmt)
  deriving DecidableEq, Repr

def wideKind : WideFmt → NumKind
  | .s32 => .int true 32 | .z32 => .int false 32 | .s64 => .int true 64 | .z64 => .int false 64
  | .f32 => .flt fp32 | .f64 => .flt fp64 | .f16 => .flt fp16 | .bf16 => .flt bf16

def narrowKind : NarrowFmt → NumKind
  | .s8 => .int true 8 | .z8 => .int false 8 | .s16 => .int true 16 | .z16 => .int false 16
  | .e4m3 => .flt e4m3 | .e2m1 => .flt e2m1

def sideKind : NarrowSide → NumKind
  | .s32 => .int true 32 | .f32 => .flt fp32 | .f16 => .flt fp16 | .bf16 => .flt bf16

/-- Destination and source kinds of a CVT (R55). -/
def cvtKinds : CvtFn → NumKind × NumKind
  | .wide d s => (wideKind d, wideKind s)
  | .narrow d s => (narrowKind d, sideKind s)
  | .widen d s => (sideKind d, narrowKind s)

/-- The bounds of an integer kind (Table 4-1). -/
def intLo (sg : Bool) (n : Nat) : Int := if sg then -((2 ^ (n - 1) : Nat) : Int) else 0
def intHi (sg : Bool) (n : Nat) : Int := if sg then ((2 ^ (n - 1) : Nat) : Int) - 1 else ((2 ^ n : Nat) : Int) - 1

/-- An exact integer delivered to an integer kind: in range, or kept bits or the nearest bound with NV (R105, R226). -/
def toInt (sg : Bool) (n : Nat) (sat : Nat) (v : Int) (inexact : Bool) : Nat × Nat :=
  if intLo sg n ≤ v ∧ v ≤ intHi sg n then (wrap n v, if inexact then flagNX else 0)
  else if sat = 0 then (wrap n v, flagNV)
  else (wrap n (if v < intLo sg n then intLo sg n else intHi sg n), flagNV)

/-- A float delivered to an integer kind (R105). -/
def fltToInt (sg : Bool) (n : Nat) (env : FEnv) : FVal → Nat × Nat
  | .nan => (0, flagNV)
  | .inf s => if env.sat = 0 then (0, flagNV) else (wrap n (if s then intLo sg n else intHi sg n), flagNV)
  | .fin s m e =>
    let r := roundInt env.rnd s m e
    toInt sg n env.sat r.1 (!r.2)

/-- CVT (R226): the result bits and the flags. -/
def convert (fn : CvtFn) (env : FEnv) (a : Nat) : Nat × Nat :=
  match cvtKinds fn with
  | (.int sg n, .int ss w) => toInt sg n env.sat (if ss then signed w a else ((a % 2 ^ w : Nat) : Int)) false
  | (.int sg n, .flt F) =>
    let b := a % 2 ^ F.width
    let r := fltToInt sg n env (decodeFloat F env.ftz b)
    (r.1, r.2 ||| (if isSnanBits F b then flagNV else 0))
  | (.flt F, .int ss w) =>
    let v : Int := if ss then signed w a else ((a % 2 ^ w : Nat) : Int)
    roundToFormat F env (.fin (decide (v < 0)) v.natAbs 0)
  | (.flt F, .flt G) =>
    let b := a % 2 ^ G.width
    let r := roundToFormat F env (decodeFloat G env.ftz b)
    (r.1, r.2 ||| (if isSnanBits G b then flagNV else 0))

/-- A REDX node (R234, R111): RNE, no flush, SAT 0. -/
def redNode (op : RedOp) (x y : Nat) : Nat × Nat :=
  let sx := signed 32 x
  let sy := signed 32 y
  match op with
  | .add => ((x + y) % 2 ^ 32, 0)
  | .min => (if sx ≤ sy then x else y, 0)
  | .max => (if sx ≤ sy then y else x, 0)
  | .minu => (if x ≤ y then x else y, 0)
  | .maxu => (if x ≤ y then y else x, 0)
  | .and => (x &&& y, 0)
  | .or => (x ||| y, 0)
  | .xor => (x ^^^ y, 0)
  | .fadd => fltAdd fp32 .plain x y
  | .fmin => fltMinMax fp32 .plain false x y
  | .fmax => fltMinMax fp32 .plain true x y
  | .dadd => fltAdd fp64 .plain x y

end Sys2Proof.Machine
end

