-- ==== Sys2Proof/Machine/Exchange.lean ====
section
/-! DEFINITION. The exchange engine: conversion, the quantiser, shuffles, votes, reductions and match (09_exchange_engine.md R220 to
R235, 04_number_formats.md R97 to R111). -/

namespace Sys2Proof

open Sys2Proof.Machine

/-- Bits of an element code (R99, Table 9-5); none for the formats that the quantiser refuses. -/
def Elem.codeBits : Elem → Option Nat
  | .e2m1 | .int4 => some 4
  | .int8 | .bfp8 => some 8
  | .bfp12 => some 12
  | .int16 | .bfp16 => some 16
  | _ => none

/-- Is it a BFP format? -/
def Elem.isBfp : Elem → Bool
  | .bfp8 | .bfp12 | .bfp16 => true
  | _ => false

/-- Bits of the field that holds a code in a register (Table 9-5). -/
def Elem.slotBits (e : Elem) : Nat :=
  match e.codeBits with
  | some 4 => 4
  | some 8 => 8
  | _ => 16

/-- The format of a reduction's terms, for the floating-point operations. -/
def RedOp.fmt : RedOp → Option FltFmt
  | .fadd | .fmin | .fmax => some fp32
  | .dadd => some fp64
  | _ => none

/-- Registers of a reduction's terms. -/
def RedOp.regs (op : RedOp) : Nat := if op = .dadd then 2 else 1

end Sys2Proof

namespace Sys2Proof.Machine

/-! ### Conversion, packing and unpacking -/

/-- Registers of a kind of a conversion (R226). -/
def NumKind.regs : NumKind → Nat
  | .int _ 64 => 2
  | .int _ _ => 1
  | .flt F => if F.width = 64 then 2 else 1

/-- CVT (R226). -/
def execCvt (fn : CvtFn) (f : XForm) (s : State) : Result :=
  aluStep (specX f (cvtKinds fn).1.regs (cvtKinds fn).2.regs)
    (fun i => let r := convert fn (.of i.fmt) i.a
      { val := r.1, flags := r.2, p := false }) s

/-- PACK (R227). -/
def execPack (f : RForm) (s : State) : Result := alu2 f (fun a b => ((b.setWidth 16).append (a.setWidth 16) : BitVec 32)) s

/-- The element that UNPK extracts (R228). -/
def unpackWord (k : UnpkKind) (e : Nat) (a : Word) : Word :=
  let zx := fun (w : Nat) => BitVec.ofNat 32 (bitsOf a.toNat (w * e) w)
  let sx := fun (w : Nat) => BitVec.ofInt 32 (signed w (bitsOf a.toNat (w * e) w))
  match k with
  | .zx8 => zx 8 | .sx8 => sx 8 | .zx16 => zx 16 | .sx16 => sx 16 | .zx4 => zx 4 | .sx4 => sx 4

/-- UNPK (R228). -/
def execUnpk (k : UnpkKind) (e : Fin 8) (f : XForm) (s : State) : Result := alu1 f (fun a => unpackWord k e.val a) s

/-! ### The shape of the other exchange instructions -/

/-- Does a list of effects write a frozen register (R281)? -/
def Iss.effsFrozen (c : Iss) (es : List Eff) : Bool :=
  es.any (fun e => match e with
    | .reg t l _ => c.frozenLoc t l
    | _ => false)

/-- An exchange instruction that no helper may issue: the decode causes of its operands in their order, each in the threads where it
resolves, then the waits of its reads, given as thread and operand, then its execute-time causes, the lower code first, then its effects
(R48, R159, R220, R221, assumption 97). -/
def exchStep (g : Bool) (checks : Iss → Checks) (reads : Iss → List (Nat × Opnd × Nat)) (bad : Iss → Bool) (es : Iss → List Eff)
    (preds : List Nat) (s : State) : Result :=
  withIss s (fun c =>
    if c.hel.isSome then s.decodeTrap c .illegalOp
    else match c.checksCause (checks c) with
      | some e => s.decodeTrap c e
      | none =>
        let rs := reads c
        let pend := s.pendingLocs c.core c.slot
        if rs.any (fun r => c.pendingRead pend [r.1] [r.2]) || pend.hasIxOf (checks c) then s.stall
        else if bad c then s.takeTrap c .illegalOp 0
        else if c.effsFrozen (es c) then s.takeTrap c .sharedWrite 0
        else if rs.any (fun r => c.badRead [r.1] [r.2]) then s.takeTrap c .eccUncorrectable 0
        else ((s.effsBy c (es c)).vop c (c.exec g).length).finish c preds)

/-- Operands that are read in some threads. -/
def readIn (ts : List Nat) (ops : List (Opnd × Nat)) : List (Nat × Opnd × Nat) := ts.flatMap (fun t => ops.map (fun o => (t, o)))

/-! ### The quantiser -/

/-- The element format that a code of sr.fmt.ELEM names (Table 2-13). -/
def elemOf (code : Nat) : Option Elem :=
  [Elem.fp32, .fp16, .bf16, .e4m3, .e2m1, .int4, .int8, .int16, .bfp8, .bfp12, .bfp16][code]?

/-- A finite magnitude m × 2^e. -/
abbrev Mag := Nat × Int

/-- log8 of a positive magnitude (R108). -/
def log8 (m : Mag) : Int :=
  let k := Nat.log2 m.1
  8 * ((k : Int) + m.2) + ((m.1 * 8 / 2 ^ k : Nat) : Int) - 8

/-- The larger of two magnitudes. -/
def magMax (a b : Mag) : Mag := if gtScaled b.1 b.2 a.1 a.2 then b else a

/-- The largest finite magnitude of some elements, 0 if none (R108). -/
def granuleMag (xs : List FVal) : Mag :=
  xs.foldl (fun m x => match x with
    | .fin _ n e => magMax m (n, e)
    | _ => m) (0, 0)

/-- What form_blocks carries from granule to granule (R108). -/
structure BlockState where
  bits : List Bool
  len : Nat
  ref : Option Int
  deriving DecidableEq, Repr

/-- One granule of form_blocks (R108). -/
def blockStep (maxblk jthr : Nat) (b : BlockState) (m : Mag) : BlockState :=
  let jump := match b.ref with
    | some r => decide (m.1 ≠ 0) && decide (jthr < (log8 m - r).natAbs)
    | none => false
  let start := b.bits.isEmpty || decide (b.len = maxblk + 1) || jump
  let ref := if start then none else b.ref
  { bits := b.bits ++ [start], len := (if start then 0 else b.len) + 1,
    ref := if m.1 = 0 then ref else match ref with
      | none => some (log8 m)
      | some r => some (if log8 m > r then log8 m else r) }

/-- form_blocks (R108): the boundary bit of each granule. -/
def formBlocks (maxblk jthr : Nat) (ms : List Mag) : List Bool :=
  (ms.foldl (blockStep maxblk jthr) { bits := [], len := 0, ref := none }).bits

/-- The largest magnitude of the block of each granule. -/
def blockMags (bits : List Bool) (ms : List Mag) : List Mag :=
  let blockOf := fun (g : Nat) => ((bits.take (g + 1)).filter id).length
  (upto ms.length).map (fun g => (upto ms.length).foldl (fun m h => if blockOf h = blockOf g then magMax m ((ms[h]?).getD (0, 0)) else m) (0, 0))

/-- The scale code of a block (R109); β = bm × 2^be.  With M = 0 it is 0x00 in the INT formats too (assumption 85). -/
def blockScale (elem : Elem) (beta : Mag) (m : Mag) : Nat :=
  if m.1 = 0 then 0
  else if elem = .e2m1 then
    ((upto 256).find? (fun b => !gtScaled m.1 (m.2 + 7) (e3m5Num b * 6 * beta.1) beta.2)).getD 0xFF
  else if elem.isBfp then
    match (upto 7).find? (fun (k : Nat) => !gtScaled m.1 m.2 beta.1 (beta.2 + (k : Int) - 2)) with
    | some k => (k + 1) * 32
    | none => 0xE0
  else 0x60

/-- round_int of x ÷ d for a finite x and a positive d, clamped to n bits (R110). -/
def clampedCode (n rnd : Nat) (s : Bool) (m : Nat) (e : Int) (d : Mag) : Nat × Nat :=
  if m = 0 then (0, 0)
  else
    match quotient s m d.1 (e - d.2) with
    | .fin s m e =>
      let r := roundInt rnd s m e
      let v := r.1
      if v < intLo true n then (wrap 16 (intLo true n), flagOF + flagNX)
      else if intHi true n < v then (wrap 16 (intHi true n), flagOF + flagNX)
      else (wrap 16 v, if r.2 then 0 else flagNX)
    | _ => (0, 0)

/-- The flags of a quantised FP4 element: an inexact one raises NX alone (Table 9-6, assumption 67). -/
def noUnderflow (fl : Nat) : Nat := if hasBit fl 1 then fl - flagUF else fl

/-- The code of one element (R110): its bits, wider codes sign-extended to 16, and its flags. -/
def elemCodeOf (elem : Elem) (env : FEnv) (beta : Mag) (scale : Nat) (x : FVal) : Nat × Nat :=
  let n := elem.codeBits.getD 16
  if scale = 0 then
    match x with
    | .nan => (0, flagNV)
    | .inf _ => (0, flagOF + flagNX)
    | .fin _ _ _ => (0, 0)
  else
    let d : Mag := (e3m5Num scale * beta.1, beta.2 - 7)
    if elem = .e2m1 then
      let r := roundToFormat e2m1 { env with ftz := false } (match x with
        | .fin s m e => if m = 0 then .fin s 0 0 else quotient s m d.1 (e - d.2)
        | v => v)
      (r.1, noUnderflow r.2)
    else match x with
      | .nan => (0, flagNV)
      | .inf s => (wrap 16 (if s then intLo true n else intHi true n), flagOF + flagNX)
      | .fin s m e =>
        if elem.isBfp then clampedCode n env.rnd s m (e + n - 1) d else clampedCode n env.rnd s m e beta

/-- The magnitude of a valid BF16 band scale (R98). -/
def betaMag (b : Nat) : Mag := (128 + bitsOf b 0 7, (bitsOf b 7 8 : Int) - 134)

/-- The eight elements of a granule (R230). -/
def granuleElems (bfin ftz : Bool) (v : Nat) : List FVal :=
  (upto 8).map (fun i => if bfin then decodeFloat bf16 ftz (bitsOf v (16 * i) 16) else decodeFloat fp32 ftz (bitsOf v (32 * i) 32))

/-- The codes of a granule side by side, and their flags together (Table 9-5). -/
def placeCodes (w : Nat) (cs : List (Nat × Nat)) : Nat × Nat :=
  cs.foldr (fun c acc => (c.1 % 2 ^ w + 2 ^ w * acc.1, c.2 ||| acc.2)) (0, 0)

/-- A run of QNT: what its lowest executing thread says (R230). -/
structure QntRun where
  elem : Option Elem
  beta : Nat
  bfin : Bool
  fmt : Nat
  deriving DecidableEq, Repr

/-- The executing threads of a run. -/
def runThreads (ts : List Nat) (len r : Nat) : List Nat := ts.filter (fun t => t / len == r)

/-- The settings of a run (R230). -/
def Iss.qntRun (c : Iss) (b : Opnd) (t0 : Nat) : QntRun :=
  let w := c.read t0 b 1
  let fmt := (c.fmt t0).toNat
  { elem := elemOf (bitsOf fmt 12 4), beta := bitsOf w 16 16, bfin := hasBit w 15, fmt := fmt }

/-- The execute-time refusals of R230 that a run meets. -/
def QntRun.bad (q : QntRun) : Bool :=
  (match q.elem with
    | some e => e.codeBits.isNone
    | none => true) || betaInvalid q.beta

/-- The effects of QNT on one run (R230). -/
def Iss.qntEffs (c : Iss) (f : QForm) (len r : Nat) (ts : List Nat) : List Eff :=
  match ts with
  | [] => []
  | t0 :: _ =>
    let q := c.qntRun f.b t0
    let elem := q.elem.getD .int4
    let env := FEnv.of (BitVec.ofNat 32 q.fmt)
    let grans := (upto len).map (fun g => if ts.contains (len * r + g) then granuleElems q.bfin env.ftz (c.read (len * r + g) f.a 8)
      else List.replicate 8 (.fin false 0 0))
    let ms := grans.map granuleMag
    let bits := formBlocks (bitsOf q.fmt 24 4) (bitsOf q.fmt 16 8) ms
    let mags := blockMags bits ms
    ts.flatMap (fun t =>
      let g := t - len * r
      let sc := blockScale elem (betaMag q.beta) ((mags[g]?).getD (0, 0))
      let cs := ((grans[g]?).getD []).map (elemCodeOf elem env (betaMag q.beta) sc)
      let code := placeCodes elem.slotBits cs
      let b := bitsOf (c.read t f.b 1) 12 20 * 4096 + (if (bits[g]?).getD false then 256 else 0) + sc
      c.writeEffs t f.x (elem.slotBits / 4) code.1 ++ c.writeEffs t f.b 1 b ++
        (if code.2 = 0 then [] else [.flags t code.2]))

/-- The run length that QNT takes from the lowest executing thread (R230). -/
def Iss.qntLen (c : Iss) (f : QForm) : Nat :=
  match c.exec f.g with
  | [] => 0
  | t :: _ => bitsOf (c.read t f.b 1) 12 3

/-- The lowest executing thread of each run. -/
def Iss.runHeads (c : Iss) (f : QForm) : List Nat :=
  let ts := c.exec f.g
  let len := 2 ^ c.qntLen f
  (upto (64 / len)).filterMap (fun r => (runThreads ts len r).head?)

/-- Source registers of the granule of thread t: four where its run takes BF16 elements (Table 9-5). -/
def Iss.qntRegs (c : Iss) (f : QForm) (t : Nat) : Nat :=
  let len := 2 ^ c.qntLen f
  match runThreads (c.exec f.g) len (t / len) with
  | t0 :: _ => if (c.qntRun f.b t0).bfin then 4 else 8
  | [] => 8

/-- QNT (R229, R230). -/
def execQnt (f : QForm) (s : State) : Result :=
  exchStep f.g (fun c => c.checkAll [(f.a, 8), (f.b, 1), (f.x, 4)]) (fun c => c.tids.flatMap (fun t => [(t, f.b, 1), (t, f.a, c.qntRegs f t)]))
    (fun c => !(c.exec f.g).isEmpty && (c.qntLen f == 7 || (c.runHeads f).any (fun t => (c.qntRun f.b t).bad)))
    (fun c =>
      let len := 2 ^ c.qntLen f
      (upto (64 / len)).flatMap (fun r => c.qntEffs f len r (runThreads (c.exec f.g) len r))) [] s

/-- The exact value of a code under its scales (R99, R231). -/
def codeValue (elem : Elem) (scale : Nat) (beta : Mag) (code : Nat) : FVal :=
  let n := elem.codeBits.getD 16
  if elem = .e2m1 then
    match e2m1Val code with
    | .fin s m e => .fin s (m * e3m5Num scale * beta.1) (e - 7 + beta.2)
    | v => v
  else
    let q := signed n code
    let e : Int := (if elem.isBfp then 1 - (n : Int) else 0) - 7 + beta.2
    .fin (decide (q < 0) && decide (e3m5Num scale ≠ 0)) (q.natAbs * e3m5Num scale * beta.1) e

/-- Source registers of the codes of thread t: eight codes of 4, 8 or 16 bits (Table 9-5). -/
def Iss.dqntRegs (c : Iss) (t : Nat) : Nat := ((elemOf (bitsOf (c.fmt t).toNat 12 4)).getD .int16).slotBits / 4

/-- DQNT (R231). -/
def execDqnt (f : QForm) (s : State) : Result :=
  exchStep f.g (fun c => c.checkAll [(f.a, 4), (f.b, 1), (f.x, 8)]) (fun c => c.tids.flatMap (fun t => [(t, f.a, c.dqntRegs t), (t, f.b, 1)]))
    (fun c => (c.exec f.g).any (fun t => (c.qntRun f.b t).bad))
    (fun c => (c.exec f.g).flatMap (fun t =>
      let q := c.qntRun f.b t
      let elem := q.elem.getD .int4
      let v := c.read t f.a 4
      let sc := bitsOf (c.read t f.b 1) 0 8
      let rs := (upto 8).map (fun i => roundToFormat fp32 (.of (c.fmt t))
        (codeValue elem sc (betaMag q.beta) (bitsOf v (elem.slotBits * i) elem.slotBits)))
      let out := placeCodes 32 rs
      c.writeEffs t f.x 8 out.1 ++ (if out.2 = 0 then [] else [.flags t out.2]))) [] s

/-! ### Shuffles -/

/-- Is a thread parked by a page fault, or waiting for its replay, in a split of the warp (Table 9-2)?  Where only some threads of the split
have to replay, the others are not; a fetch parks the active ones. -/
def Warp.pageParked (w : Warp) (j : Nat) : Bool :=
  w.splits.any (fun e => hasBit e.2.strands (j / 4) && w.activeBit j && (match e.2.replay, e.2.status with
    | some m, _ => hasBit m j
    | none, .parked (.page _) => true
    | none, _ => false))

/-- Has thread j still to replay an instruction that a page fault parked, or its replay to write its destinations (Table 9-2)? -/
def State.replaying (s : State) (c : Iss) (j : Nat) : Bool :=
  c.w.pageParked j || c.w.replays.any (fun r => hasBit r.1 j && s.writing c.core c.slot r.2)

/-- The source threads, outside the issuing split, whose replay a shuffle waits for (R222). -/
def State.shuffleStall (s : State) (c : Iss) (g u : Bool) (srcOf : Iss → Nat → Option Nat) : List Nat :=
  if c.hel.isSome then []
  else (c.exec g).filterMap (fun t => (srcOf c (srcTid u t)).filter (fun j => c.w.liveBit j && s.replaying c j && !(match c.split with
    | some sp => hasBit sp.strands (j / 4)
    | none => false)))

/-- The live source thread that thread t of a shuffle names. -/
def Iss.liveSource (c : Iss) (u : Bool) (srcOf : Iss → Nat → Option Nat) (t : Nat) : Option Nat :=
  (srcOf c (srcTid u t)).filter (fun j => c.w.liveBit j)

/-- The operands of a shuffle in their order: d in the active threads; a in their source threads, its window in any case; b where the
active threads read it (R48, R222). -/
def Iss.shuffleChecks (c : Iss) (d a : Opnd) (own : List (Opnd × Nat)) (u : Bool) (srcOf : Iss → Nat → Option Nat) : Checks :=
  let ts := match a with
    | .ix _ => c.tids.filterMap (c.liveSource u srcOf)
    | _ => c.tids
  (c.tids, d, 1) :: (ts, a, 1) :: own.map (fun o => (c.srcTids u c.tids, o))

/-- What a shuffle reads: its own sources, and a in the source threads of the executing ones. -/
def Iss.shuffleReads (c : Iss) (a : Opnd) (own : List (Opnd × Nat)) (g u : Bool) (srcOf : Iss → Nat → Option Nat) : List (Nat × Opnd × Nat) :=
  readIn (c.srcTids u c.tids) own ++ ((c.exec g).filterMap (c.liveSource u srcOf)).map (fun j => (j, a, 1))

/-- A shuffle (R222, R232): `srcOf` names the source thread, if it is in range, as thread t computes it.  A thread whose source is not
available has no value to hold (assumption 98). -/
def shuffle (d a : Opnd) (own : List (Opnd × Nat)) (h : Hold) (g u : Bool) (srcOf : Iss → Nat → Option Nat) (s : State) : Result :=
  match s.iss with
  | some c =>
    if !(s.shuffleStall c g u srcOf).isEmpty then .next s.stall
    else exchStep g (fun c => c.shuffleChecks d a own u srcOf) (fun c => c.shuffleReads a own g u srcOf)
      (fun _ => false)
      (fun c => (c.exec g).flatMap (fun t =>
        match c.liveSource u srcOf t with
        | some j => holdEff h t (c.read32 j a) ++ c.writeEffs t d 1 (c.read j a 1) ++ [.pred t 63 true]
        | none => [.pred t 63 false])) [63] s
  | none => .fault .noIssuer

/-- The source threads that the shuffles name (Table 9-7), where in range; none where b does not resolve. -/
def srcReg (b : Opnd) (c : Iss) (t : Nat) : Option Nat :=
  match c.resolve t b 1 with
  | .ok _ => if c.read t b 1 < 64 then some (c.read t b 1) else none
  | .error _ => none
def srcUp (k : Nat) (_ : Iss) (t : Nat) : Option Nat := if k ≤ t then some (t - k) else none
def srcDown (k : Nat) (_ : Iss) (t : Nat) : Option Nat := if t + k < 64 then some (t + k) else none
def srcXor (k : Nat) (_ : Iss) (t : Nat) : Option Nat := some (t ^^^ k)
def srcAll (k : Nat) (_ : Iss) (_ : Nat) : Option Nat := some k

/-- SHFL (R232). -/
def execShfl (f : RForm) (s : State) : Result := shuffle f.d f.a [(f.b, 1)] f.h f.g f.u (srcReg f.b) s

/-- SHFLU (R232). -/
def execShflu (f : ShflForm) (s : State) : Result := shuffle f.d f.a [] none f.g f.u (srcUp f.k.val) s

/-- SHFLD (R232). -/
def execShfld (f : ShflForm) (s : State) : Result := shuffle f.d f.a [] none f.g f.u (srcDown f.k.val) s

/-- SHFLX (R232). -/
def execShflx (f : ShflForm) (s : State) : Result := shuffle f.d f.a [] none f.g f.u (srcXor f.k.val) s

/-- BCAST (R232). -/
def execBcast (f : ShflForm) (s : State) : Result := shuffle f.d f.a [] none f.g f.u (srcAll f.k.val) s

/-- The parked source threads on which an instruction stalls (R222). -/
def State.stallsOn (s : State) (c : Iss) : Instr → List Nat
  | .shfl f => s.shuffleStall c f.g f.u (srcReg f.b)
  | .shflu f => s.shuffleStall c f.g f.u (srcUp f.k.val)
  | .shfld f => s.shuffleStall c f.g f.u (srcDown f.k.val)
  | .shflx f => s.shuffleStall c f.g f.u (srcXor f.k.val)
  | .bcast f => s.shuffleStall c f.g f.u (srcAll f.k.val)
  | _ => []

/-! ### Votes, reductions and match -/

/-- The threads whose terms a collective takes: the executing ones, or with u = 1 slot 0 of each of their strands (R233, R234). -/
def Iss.termTids (c : Iss) (g u : Bool) : List Nat := ((c.exec g).map (srcTid u)).dedup

/-- VOTE into a predicate (R233). -/
def votePred (f : VoteForm) (all : Bool) (s : State) : Result :=
  exchStep f.g (fun _ => []) (fun _ => []) (fun _ => false)
    (fun c =>
      let ts := c.termTids f.g f.u
      let r := if all then ts.all (fun t => c.pred t f.q.val) else ts.any (fun t => c.pred t f.q.val)
      (c.exec f.g).map (fun t => .pred t f.p.val r)) [f.p.val] s

/-- VOTE.all (R233). -/
def execVoteAll (f : VoteForm) (s : State) : Result := votePred f true s
/-- VOTE.any (R233). -/
def execVoteAny (f : VoteForm) (s : State) : Result := votePred f false s

/-- VOTE.ballot (R233). -/
def execVoteBallot (f : BallotForm) (s : State) : Result :=
  exchStep f.g (fun c => c.checkAll [(f.d, 2)]) (fun _ => []) (fun _ => false)
    (fun c =>
      let m := maskOf ((c.termTids f.g f.u).filter (fun t => c.pred t f.q.val))
      (c.exec f.g).flatMap (fun t => c.writeEffs t f.d 2 m)) [] s

/-- A node of the tree of R111: an absent input passes the other. -/
def treeNode (op : RedOp) (x y : Option (Nat × Nat)) : Option (Nat × Nat) :=
  match x, y with
  | some a, some b =>
    let r := redNode op a.1 b.1
    some (r.1, a.2 ||| b.2 ||| r.2)
  | some a, none => some a
  | none, y => y

/-- One level of the tree: neighbours are combined. -/
def treeLevel (op : RedOp) : List (Option (Nat × Nat)) → List (Option (Nat × Nat))
  | x :: y :: r => treeNode op x y :: treeLevel op r
  | l => l

/-- The six levels over 64 terms (R111). -/
def treeReduce (op : RedOp) (terms : List (Option (Nat × Nat))) : Option (Nat × Nat) :=
  ((upto 6).foldl (fun l _ => treeLevel op l) terms).headD none

/-- What REDX delivers: of a NaN only the canonical one (R94, R111). -/
def redDeliver (op : RedOp) (v : Nat) : Nat := match op.fmt with
  | some F => if isNanBits F v then canonicalNan F else v
  | none => v

/-- The operands of REDX: d in the active threads, a where they read it (R16, R48). -/
def Iss.redxChecks (c : Iss) (op : RedOp) (f : XForm) : Checks := [(c.tids, f.d, op.regs), (c.srcTids f.u c.tids, f.a, op.regs)]

/-- REDX (R234). -/
def execRedx (op : RedOp) (f : XForm) (s : State) : Result :=
  exchStep f.g (fun c => c.redxChecks op f) (fun c => readIn (c.srcTids f.u c.tids) [(f.a, op.regs)]) (fun _ => false)
    (fun c =>
      let ts := c.termTids f.g f.u
      let term := fun (t : Nat) => c.read t f.a op.regs
      let snan := match op.fmt with
        | some F => if ts.any (fun t => isSnanBits F (term t)) then flagNV else 0
        | none => 0
      match treeReduce op ((upto 64).map (fun t => if ts.contains t then some (term t, 0) else none)) with
      | none => []
      | some (v, fl) =>
        (c.exec f.g).flatMap (fun t => holdEff f.h t (BitVec.ofNat 32 (c.read (srcTid f.u t) f.a op.regs)) ++ c.writeEffs t f.d op.regs (redDeliver op v) ++
          (if fl ||| snan = 0 then [] else [.flags t (fl ||| snan)]))) [] s

/-- MATCH (R235). -/
def execMatchMask (f : MatchForm) (s : State) : Result :=
  exchStep f.g (fun c => c.checkAll [(f.d, 2), (f.a, 1), (f.b, 1)]) (fun c => readIn c.tids [(f.a, 1), (f.b, 1)]) (fun _ => false)
    (fun c =>
      let ts := c.exec f.g
      ts.flatMap (fun i =>
        let b := c.read32 i f.b
        let m := maskOf (ts.filter (fun j => (c.read32 j f.a &&& b) == (c.read32 i f.a &&& b)))
        holdEff f.h i (c.read32 i f.a) ++ c.writeEffs i f.d 2 m)) [] s

end Sys2Proof.Machine
end

