-- ==== Sys2Proof/Machine/Copy.lean ====
section
/-! DEFINITION. The copy engine: layout records, the verdict, boxes, multicasts and bit-plane copies, CPA16, and the landing of
transfers (12_copy_engine.md R300 to R315, 10_memory_engine.md R260). -/

namespace Sys2Proof.Machine

/-! ### Layout records -/

/-- The fields of a layout record (Table 12-1), and whether a reserved field is set. -/
structure Layout where
  base : Nat
  str : List Int
  ext : List Nat
  box : List Nat
  fill : Nat
  spitch : Nat
  esz : Nat
  oob : Nat
  pfmt : Nat
  pln : Nat
  rsv : Bool
  deriving DecidableEq, Repr

/-- Read a layout record from its 512 bits (Table 12-1). -/
def Layout.of (v : Nat) : Layout :=
  { base := bitsOf v 0 64, str := (upto 4).map (fun i => signed 32 (bitsOf v (64 + 32 * i) 32)),
    ext := (upto 4).map (fun i => bitsOf v (192 + 32 * i) 32), box := (upto 4).map (fun i => bitsOf v (320 + 8 * i) 8 + 1),
    fill := bitsOf v 352 32, spitch := bitsOf v 384 16, esz := bitsOf v 402 3, oob := bitsOf v 405 2, pfmt := bitsOf v 407 4,
    pln := bitsOf v 411 5, rsv := bitsOf v 416 96 != 0 || bitsOf v 400 2 != 0 }

/-- An entry of a list of four. -/
def nth4 (l : List Nat) (d : Nat) : Nat := (l[d]?).getD 0

/-- Element size in bytes (Table 12-1). -/
def Layout.bytes (r : Layout) : Nat := 2 ^ r.esz

/-- The scratchpad pitch (R305). -/
def Layout.pitch (r : Layout) : Nat := if r.spitch = 0 then nth4 r.box 0 * r.bytes else r.spitch

/-- Rows of the box. -/
def Layout.rows (r : Layout) : Nat := nth4 r.box 1 * nth4 r.box 2 * nth4 r.box 3

/-- The record fields that every command checks (R305, R306). -/
def Layout.badFields (r : Layout) (tw : Nat) : Bool := r.rsv || bitsOf tw 17 10 != 0 || r.ext.any (fun e => e == 0)

/-- The field checks of CPB and CPBM (R304, R305). -/
def Layout.badBox (r : Layout) : Bool :=
  decide (5 ≤ r.esz) || r.pfmt != 0 || r.pln != 0 ||
  (r.spitch != 0 && (r.spitch % r.bytes != 0 || decide (r.spitch < nth4 r.box 0 * r.bytes))) ||
  decide (131072 < r.pitch * r.rows)

/-- An element of a box (R307): its byte from the start of the box in scratchpad, and its global address unless it is out of
bounds. -/
structure BoxElem where
  sa : Nat
  ga : Option Nat
  deriving DecidableEq, Repr

/-- The address that coordinates name (R307). -/
def Layout.addr (r : Layout) (cs : List Int) : Nat :=
  wrap 64 ((r.base : Int) + ((cs.zip r.str).map (fun e => e.1 * e.2)).foldl (· + ·) 0)

/-- Is a coordinate quad outside the tensor? -/
def Layout.outside (r : Layout) (cs : List Int) : Bool := (cs.zip r.ext).any (fun e => decide (e.1 < 0) || decide ((e.2 : Int) ≤ e.1))

/-- One element at box position b (R307); `reads` tells that the command reads global memory. -/
def Layout.elem (r : Layout) (c : List Int) (reads : Bool) (b : List Nat) : BoxElem :=
  let cs := (c.zip b).map (fun e => e.1 + (e.2 : Int))
  let sa := nth4 b 0 * r.bytes + r.pitch * (nth4 b 1 + nth4 r.box 1 * (nth4 b 2 + nth4 r.box 2 * nth4 b 3))
  let wrapped := (cs.zip r.ext).map (fun e => e.1 % (e.2 : Int))
  let clamped := (cs.zip r.ext).map (fun e => if e.1 < 0 then 0 else if (e.2 : Int) ≤ e.1 then (e.2 : Int) - 1 else e.1)
  if r.oob = 2 then { sa := sa, ga := some (r.addr wrapped) }
  else if r.oob = 3 && reads then { sa := sa, ga := some (r.addr clamped) }
  else { sa := sa, ga := if r.outside cs then none else some (r.addr cs) }

/-- The elements of a box in box order (R307). -/
def Layout.elems (r : Layout) (c : List Int) (reads : Bool) : List BoxElem :=
  (upto (nth4 r.box 3)).flatMap (fun b3 => (upto (nth4 r.box 2)).flatMap (fun b2 => (upto (nth4 r.box 1)).flatMap (fun b1 =>
    (upto (nth4 r.box 0)).map (fun b0 => r.elem c reads [b0, b1, b2, b3]))))

/-- The bytes of an element that is out of bounds (R308). -/
def Layout.fillBytes (r : Layout) : List Byte :=
  if r.oob = 1 then
    (if r.esz ≤ 2 then leBytes r.bytes r.fill else ((upto (r.bytes / 4)).flatMap (fun _ => leBytes 4 r.fill)))
  else List.replicate r.bytes 0

/-! ### The verdict -/

/-- A failed verdict: its cause, an address, and the pages that are absent. -/
abbrev CopyFail := Cause × Nat × List Nat

/-- A failure other than a page fault. -/
def failWith (e : Cause) (a : Nat) : CopyFail := (e, a, [])

/-- The pages of some addresses, with their translations (R301 step 6): a page fault names every absent page, else the lowest
cause stands.  A window page raises PAGE_PERM where the rule says so (`data`). -/
def State.xlatePages (s : State) (c : Iss) (data : Bool) (kind : AccessKind) (vas : List Nat) : Except CopyFail (NatMap Target) :=
  let pages := (vas.map (fun v => v / 4096)).dedup
  let one := fun (p : Nat) => (match s.xlate c kind (p * 4096) with
    | .ok t => if data && t.space == Space.fabric then Except.error (Cause.pagePerm, p * 4096) else Except.ok t
    | .error e => Except.error e : Except MemCause Target)
  let rs := pages.map (fun p => (p, one p))
  let absent := rs.filterMap (fun r => match r.2 with
    | .error e => if e.1 = .pageAbsent then some r.1 else none
    | .ok _ => none)
  match absent with
  | p :: _ => .error (.pageAbsent, p * 4096, absent)
  | [] =>
    match lowestCause (rs.filterMap (fun r => match r.2 with
      | .error e => some e
      | .ok _ => none)) with
    | some e => .error (failWith e.1 e.2)
    | none => .ok (rs.foldl (fun m r => match r.2 with
      | .ok t => mset m r.1 t
      | .error _ => m) [])

/-- The number of distinct pages of some addresses, by the size of each page (R304); the plot-memory window is not translated (R269). -/
def State.pageCount (s : State) (c : Iss) (vas : List Nat) : Nat :=
  let pages := ((vas.filter (fun v => decide (v < plotWindow))).map (fun v => v / 4096)).dedup
  if pages.length ≤ 256 then pages.length
  else
    let shift := fun (p : Nat) => match (mget? s.ctxs c.w.ctx).map (fun x => s.walk x (p * 4096)) with
      | some (.ok (_, sh)) => sh
      | _ => 12
    ((pages.map (fun p => (p * 4096 / 2 ^ shift p * 2 ^ shift p, shift p))).dedup).length

/-- The physical side of a global address whose page is translated. -/
def memSrc (pages : NatMap Target) (va : Nat) : CopySrc :=
  match mget? pages (va / 4096) with
  | some t => .mem t.space t.key (t.pa + va % 4096)
  | none => .fixed []

def memDst (pages : NatMap Target) (va : Nat) : CopyDst :=
  match mget? pages (va / 4096) with
  | some t => .mem t.space t.key (t.pa + va % 4096)
  | none => .scratch 0

/-- The first byte of the own allocation and its size, in bytes of the core's scratchpad (R251). -/
def State.ownBytes (s : State) (c : Iss) : Nat × Nat :=
  match (s.core c.core).allocOf c.w.wg with
  | some a => (a.base * 4, a.words * 4)
  | none => (0, 0)

/-- The target word of a copy command (Table 12-2). -/
def twOff (tw : Nat) : Nat := bitsOf tw 0 17
def twBar (tw : Nat) : Option Nat := if hasBit tw 31 then some (bitsOf tw 27 4) else none

/-- The barrier check of a counted transfer (R316). -/
def State.badBar (s : State) (c : Iss) (bar : Option Nat) : Bool :=
  match bar with
  | some k => !((s.barrier c.w.wg k).init && (s.barrier c.w.wg k).cpm)
  | none => false

/-- The bytes of n LD.128 of the issuing thread from an address on, which all lie in one page that is no window page (R247, R249). -/
def State.loadWide (s : State) (c : Iss) (t : Target) (n : Nat) : State × List Byte :=
  let part := fun (i : Nat) => if t.space = .host then s.farRead c.core i t.space t.key (t.pa + 16 * i) 16
    else s.loadBytes c.core t.space t.key (t.pa + 16 * i) 16
  let bs := (upto n).flatMap part
  match t.space with
  | .hbm => (s.l1Load c.core t.key t.pa, bs)
  | .host =>
    let bad := ((upto n).filter s.hostFailed).length
    (((({ s with fresh := s.fresh + n } : State).countAt c.core .hosterr bad).meterHost (s.partOfPlot (plotOf c.core)) .host (16 * (n - bad)) 0), bs)
  | _ => (s, bs)

/-- The window page that a record lies in, where its bytes are still to be read (R249). -/
def State.recordFar (s : State) (c : Iss) (va size : Nat) : Option Target :=
  if va % size ≠ 0 ∨ c.recorded.isSome then none
  else match s.xlatePages c false .load [va] with
    | .error _ => none
    | .ok pages => ((mget? pages (va / 4096)).filter (fun t => t.space == .fabric)).map (fun t => { t with pa := t.pa + va % 4096 })

/-- Read a record that lies in a window page: the instruction waits for the remote read (R249, R405). -/
def State.askRecord (s : State) (c : Iss) (t : Target) (size : Nat) : State :=
  let id := s.nextId
  let q := s.rootTag c.w
  let f : FabOp :=
    { cid := id, core := c.core, slot := c.slot, who := c.who, wg := c.w.wg, index := c.w.index, t := c.tids.headD 0, qnum := q.1, tagw := q.2, ctx := c.w.ctx,
      part := s.ctxPart c.w.ctx, dev := fabricDev t.pa, kind := .rd, arg := fabricArg t.pa, n := size, data := [], dests := [], ext := .none, co := false,
      seq := none, since := s.elapsed, guardPend := [], acquire := none, into := .record }
  let (s, eids) := (s.takeId.park c (.recRead id none)).publishAccs c.core true false
    [{ t := 0, space := .fabric, addr := t.pa, n := size, data := [], dests := [], aux := t.key }]
  ({ s with fabOps := s.fabOps ++ [{ f with after := eids }] } : State).sendFab

/-- Read a record of the given size, a power of two, as LD.128 of the issuing thread would (R301 step 1, R385 step 2): its bytes, or the
cause of such a load. -/
def State.readRecord (s : State) (c : Iss) (va size : Nat) : State × Except CopyFail (List Byte) :=
  if va % size ≠ 0 then (s, .error (failWith .align va))
  else match s.xlatePages c false .load [va] with
    | .error e => (s, .error e)
    | .ok pages =>
      match mget? pages (va / 4096) with
      | none => (s, .error (failWith .pagePerm va))
      | some t =>
        let t := { t with pa := t.pa + va % 4096 }
        match c.recorded with
        | some bs => (s.fillTlbs c [va], .ok bs)
        | none =>
        if s.bufferEcc c.core t.space t.key t.pa size then (s, .error (failWith .eccUncorrectable va))
        else
          let r := (s.fillTlbs c [va]).loadWide c t (size / 16)
          (r.1, .ok r.2)

/-- The access that such a read makes, for its place in the split's local order (R118). -/
def State.recordAccs (s : State) (c : Iss) (va size : Nat) : List Access :=
  match s.xlate c .load va with
  | .ok t => [{ t := 0, space := t.space, addr := t.pa, n := size, data := [], dests := [], aux := t.key }]
  | .error _ => []

/-- Must loads of the split that an engine makes wait: for queued commands of the memory engine, for an LDA, or for an earlier access to one
location that is not performed (R29, R118, R126)? -/
def State.loadsWait (s : State) (c : Iss) (accs : List Access) : Bool :=
  !(s.core c.core).memQ.isEmpty || s.ldaOpen c.core c.slot || s.overlaps c.core c.slot accs

/-- The verdict of CPB (R301): the moves of the box. -/
def State.boxVerdict (s : State) (c : Iss) (r : Layout) (cs : List Int) (tw : Nat) (g2s : Bool) : Except CopyFail CopyWork :=
  let off := twOff tw
  if r.badFields tw || r.badBox then .error (failWith .layoutRecord 0)
  else
    let es := r.elems cs g2s
    let vas := es.filterMap (fun e => e.ga)
    let own := s.ownBytes c
    if 256 < s.pageCount c vas then .error (failWith .layoutRecord 0)
    else if own.2 < off + r.pitch * r.rows then .error (failWith .scratchRange off)
    else if s.badBar c (twBar tw) then .error (failWith .barrier 0)
    else match vas.find? (fun v => v % r.bytes != 0) with
      | some v => .error (failWith .align v)
      | none =>
        match s.xlatePages c true (if g2s then .load else .store) vas with
        | .error e => .error e
        | .ok pages =>
          .ok (.box (es.filterMap (fun e =>
            let sa := own.1 + off + e.sa
            if g2s then some { src := (match e.ga with
                | some v => memSrc pages v
                | none => .fixed r.fillBytes), dst := .scratch sa, n := r.bytes }
            else e.ga.map (fun v => { src := .scratch sa, dst := memDst pages v, n := r.bytes }))))

/-- The verdict of CPBM (R310): the box and its targets.  The target list is read as LDS.128 would read it. -/
def State.castVerdict (s : State) (c : Iss) (r : Layout) (cs : List Int) (tw : Nat) : Except CopyFail CopyWork :=
  let off := twOff tw
  let own := s.ownBytes c
  let list := (upto 16).map (fun i => ((s.core c.core).word ((own.1 + off) / 4 + i)).toNat)
  let targets := list.filter (fun h => h != 0)
  let es := r.elems cs true
  let vas := es.filterMap (fun e => e.ga)
  if r.badFields tw || r.badBox || decide (256 < s.pageCount c vas) || r.pitch * r.rows % 4 != 0 then .error (failWith .layoutRecord 0)
  else if own.2 < off + 64 then .error (failWith .scratchRange off)
  else if off % 16 ≠ 0 then .error (failWith .align off)
  else if (s.core c.core).scrEcc (own.1 + off) 64 then .error (failWith .eccUncorrectable off)
  else if targets.isEmpty || targets.any (fun h => !hasBit h 31) then .error (failWith .layoutRecord 0)
  else if s.badBar c (twBar tw) then .error (failWith .barrier 0)
  else match vas.find? (fun v => v % r.bytes != 0) with
    | some v => .error (failWith .align v)
    | none =>
      match s.xlatePages c true .load vas with
      | .error e => .error e
      | .ok pages =>
        let srcOf := fun (e : BoxElem) => (match e.ga with
          | some v => memSrc pages v
          | none => CopySrc.fixed r.fillBytes)
        .ok (.multicast (es.map (fun e => { src := srcOf e, dst := .scratch e.sa, n := r.bytes })) targets)

/-- The bits of a code in memory, and the planes of a format (R314, Table 4-3). -/
def planeWidth (e : Elem) : Nat := e.slotBits
def planesOf (e : Elem) : Nat := e.codeBits.getD 16

/-- One row of a CPBP box: the bit address of its code 0 and, for each code, whether it is in the tensor (R314). -/
structure PlaneRow where
  bit : Int
  inside : List Bool
  deriving DecidableEq, Repr

/-- The rows of a CPBP box in order (R314). -/
def Layout.planeRows (r : Layout) (cs : List Int) (w : Nat) : List PlaneRow :=
  (upto (nth4 r.box 3)).flatMap (fun b3 => (upto (nth4 r.box 2)).flatMap (fun b2 => (upto (nth4 r.box 1)).map (fun b1 =>
    let at' := fun (b0 : Nat) => (cs.zip [b0, b1, b2, b3]).map (fun e => e.1 + (e.2 : Int))
    let stride := (((at' 0).zip r.str).drop 1).foldl (fun a e => a + e.1 * e.2) (0 : Int)
    { bit := 8 * ((r.base : Int) + stride) + (cs.headD 0) * w, inside := (upto (nth4 r.box 0)).map (fun b0 => !r.outside (at' b0)) })))

/-- The verdict of CPBP (R314). -/
def State.planeVerdict (s : State) (c : Iss) (r : Layout) (cs : List Int) (tw : Nat) (s2s : Bool) : Except CopyFail CopyWork :=
  let off := twOff tw
  let own := s.ownBytes c
  match (elemOf r.pfmt).filter (fun e => e.codeBits.isSome) with
  | none => .error (failWith .layoutRecord 0)
  | some e =>
    let n := planesOf e
    let q := if r.pln = 0 then n else r.pln
    let p := if e = .e2m1 then q + 1 else q
    let groups := nth4 r.box 0 / 32
    let size := 4 * p * groups * r.rows
    if r.badFields tw || r.esz != 0 || (r.str.headD 0) != 0 || nth4 r.box 0 % 32 != 0 || decide (2 ≤ r.oob) || decide (n < r.pln) ||
        decide (131072 < size) || (s2s && r.base / 2 ^ 17 != 0) then .error (failWith .layoutRecord 0)
    else
      let w := planeWidth e
      let rows := r.planeRows cs w
      -- every code: its byte address and bit in it, where it is read
      let codes := rows.map (fun row => row.inside.zipIdx.map (fun x =>
        if x.1 then some (wrap 64 ((row.bit + (w * x.2 : Nat)) / 8), ((row.bit + (w * x.2 : Nat)) % 8).toNat) else none))
      let reads := (codes.flatMap (fun l => l.filterMap id)).map (fun x => x.1)
      let srcN := (w + 7) / 8
      let lo := off
      let hi := off + size
      if !s2s && decide (256 < s.pageCount c reads) then .error (failWith .layoutRecord 0)
      else if s2s && reads.any (fun b => decide (lo < b + srcN) && decide (b < hi)) then .error (failWith .layoutRecord 0)
      else if own.2 < hi then .error (failWith .scratchRange off)
      else if s2s && reads.any (fun b => decide (own.2 < b + srcN)) then .error (failWith .scratchRange off)
      else if s.badBar c (twBar tw) then .error (failWith .barrier 0)
      else match rows.find? (fun row => row.inside.any id && row.bit % 32 != 0) with
        | some row => .error (failWith .align (wrap 64 (row.bit / 8)))
        | none =>
          match (if s2s then Except.ok [] else s.xlatePages c true .load reads) with
          | .error e => .error e
          | .ok pages =>
            let fillCode := if r.oob = 1 then r.fill % 2 ^ w else 0
            let src := fun (x : Option (Nat × Nat)) => match x with
              | some (b, bit) => (if s2s then CopySrc.scratch (own.1 + b) else memSrc pages b, bit)
              | none => (CopySrc.fixed (leBytes srcN fillCode), 0)
            .ok (.planes e q ((codes.zipIdx).flatMap (fun row => (upto groups).map (fun g =>
              { codes := ((row.1.drop (32 * g)).take 32).map src, dst := own.1 + off + 4 * p * (row.2 * groups + g) }))))

/-! ### Issue -/

/-- The issue of a copy command that has passed its verdict (R300, R317). -/
def State.issueCopy (s : State) (c : Iss) (t : Nat) (g : Bool) (bar : Option Nat) (work : CopyWork) : State :=
  let ps := if g then s.pendingGuards c [t] else []
  let gen := match (s.core c.core).allocOf c.w.wg with
    | some a => a.gen
    | none => 0
  let (s, kg) : State × Option (Nat × Nat) := match bar with
    | some k =>
      let r := s.countTransfer c.w.wg k (c.barWho t)
      (r.1, some (k, r.2))
    | none => (s, none)
  let q : CopyCmd :=
    { id := s.nextId, ga := false, slot := c.slot, tid := t, wg := c.w.wg, work := work, allocGen := gen, bar := kg, batch := c.w.nextBatch,
      guardPend := ps, guardVal := !g || c.guard t, out := none, dropped := false }
  let s := (s.takeId.takeSlots c ps).opIssue c.core c.slot .copies
  (s.countAt c.core .cpxfer 1).modCore c.core (fun k => { k with copyQ := k.copyQ ++ [q] })

/-- The coordinates of a copy command (R305). -/
def coordsOf (v : Nat) : List Int := (upto 4).map (fun i => signed 32 (bitsOf v (32 * i) 32))

/-- The target list of a CPBM as a scratchpad access of the issuing thread, for its place in the LS path's local order (R310). -/
def State.listAccs (s : State) (c : Iss) (tw : Nat) : List Access :=
  [{ t := 0, space := .scratch, addr := (s.ownBytes c).1 + twOff tw, n := 64, data := [], dests := [], aux := 0 }]

/-- A copy command (R300 to R302): the operands of the lowest active thread, then the verdict, which reads the record and, for a CPBM, the
target list as loads of that thread; a page fault parks that thread's strand. -/
def copyCmd (f : CopyForm) (cast : Bool) (verdict : State → Iss → Layout → List Int → Nat → Except CopyFail CopyWork) (s : State) : Result :=
  withIss s (fun c =>
    let ops := [(f.a, 2), (f.b, 4), (f.x, 1)]
    match c.tids with
    | [] => s.finish c []
    | t :: _ =>
      if c.hel.isSome then s.decodeTrap c .illegalOp
      else match c.opsCause [t] ops with
        | some e => s.decodeTrap c e
        | none =>
          let ps := if f.g then s.pendingGuards c [t] else []
          if c.pendingRead (s.pendingLocs c.core c.slot) [t] ops then s.stall
          else if c.badRead [t] ops then s.takeTrap c .eccUncorrectable 0
          else if decide (Config.queueDepth ≤ ((s.core c.core).copyQ.filter (fun q => !q.ga)).length) ||
              decide (CounterCls.copies.max ≤ c.w.copies) || c.slotsFull ps ||
              s.loadsWait c (s.recordAccs c (c.read t f.a 2) 64 ++ if cast then s.listAccs c (c.read t f.x 1) else []) then s.stall
          else match s.recordFar c (c.read t f.a 2) 64 with
          | some far => s.askRecord c far 64
          | none =>
            let tw := c.read t f.x 1
            let (s, r) := s.readRecord c (c.read t f.a 2) 64
            match r.bind (fun bs => verdict s c (Layout.of (leNat bs)) (coordsOf (c.read t f.b 4)) tw) with
            | .ok w => (s.issueCopy c t f.g (twBar tw) w).finish c []
            | .error (e, a, pages) =>
              if pages.isEmpty then s.takeTrap c e a
              else s.settle c { go := [], performs := false, parked := 2 ^ (t / 4), replay := 2 ^ t, pages := pages, trap := none } id)

/-- CPB.g2s (R308). -/
def execCpbG2s (f : CopyForm) (s : State) : Result := copyCmd f false (fun s c r cs tw => s.boxVerdict c r cs tw true) s
/-- CPB.s2g (R308). -/
def execCpbS2g (f : CopyForm) (s : State) : Result := copyCmd f false (fun s c r cs tw => s.boxVerdict c r cs tw false) s
/-- CPBM (R310). -/
def execCpbm (f : CopyForm) (s : State) : Result := copyCmd f true (fun s c r cs tw => s.castVerdict c r cs tw) s
/-- CPBP.g2s (R314). -/
def execCpbpG2s (f : CopyForm) (s : State) : Result := copyCmd f false (fun s c r cs tw => s.planeVerdict c r cs tw false) s
/-- CPBP.s2s (R314). -/
def execCpbpS2s (f : CopyForm) (s : State) : Result := copyCmd f false (fun s c r cs tw => s.planeVerdict c r cs tw true) s

/-! ### CPA16 -/

/-- The checks of one thread of CPA16, in the order of R239 and R260.  The scratchpad byte of the destination stands in `dests`. -/
def State.cpaCheck (s : State) (c : Iss) (va x : Nat) (bar : Option Nat) (t : Nat) : Except MemCause (List Access) :=
  let own := s.ownBytes c
  if va % 16 ≠ 0 ∨ x % 16 ≠ 0 then .error (.align, va)
  else if bitsOf x 17 15 ≠ 0 ∨ own.2 < x + 16 then .error (.scratchRange, x)
  else match s.xlate c .load va with
    | .error e => .error e
    | .ok tg =>
      if s.badBar c bar then .error (.barrier, 0)
      else .ok [{ t := t, space := tg.space, addr := tg.pa, n := 16, data := [], dests := [(own.1 + x, .zero)], aux := tg.key }]

/-- The issue of a CPA16: one entry of the memory engine's queue, which it passes to its copier, counted into its barrier by the generation
of each thread (R260, R317); with u a copy goes where any thread of its strand executes (R237). -/
def State.issueCpa (s : State) (c : Iss) (g u : Bool) (bar : Option Nat) (ps : List Nat) (accs : List Access) : State :=
  let ex := c.exec g
  let id := s.nextId
  let gen := match (s.core c.core).allocOf c.w.wg with
    | some a => a.gen
    | none => 0
  let move := fun (a : Access) => ({ src := .mem a.space a.aux a.addr, dst := .scratch ((a.dests.map Prod.fst).headD 0), n := 16 } : Move)
  let goes := fun (a : Access) => ex.any (fun t => if u then t / 4 == a.t / 4 else t == a.t)
  let cmd := fun (as : List Access) (kg : Option (Nat × Nat)) =>
    ({ id := id, ga := true, slot := c.slot, tid := (as.map (fun a => a.t)).headD 0, wg := c.w.wg, work := .box ((as.filter goes).map move), tids := (as.filter goes).map (fun a => a.t),
       allocGen := gen, bar := kg, batch := c.w.nextBatch, guardPend := [], guardVal := true, out := none, dropped := false } : CopyCmd)
  let s := (s.takeId.takeSlots c ps).opIssue c.core c.slot .copies
  let (s, cmds) : State × List CopyCmd := match bar with
    | none => (s, [cmd accs none])
    | some k =>
      let b := s.barrier c.w.wg k
      let parts := [accs.filter (fun a => !hasBit b.cur (c.barWho a.t)), accs.filter (fun a => hasBit b.cur (c.barWho a.t))]
      let parts := parts.filter (fun p => !p.isEmpty)
      if parts.isEmpty then (s, [cmd [] none])
      else parts.foldl (fun (acc : State × List CopyCmd) as =>
        let r := acc.1.countTransfer c.w.wg k (c.barWho ((as.map (fun a => a.t)).headD 0))
        (r.1, acc.2 ++ [cmd as (some (k, r.2))])) (s, [])
  s.giveMem c.core { cid := id, slot := c.slot, who := c.who, kind := .copier cmds, accs := [], acquire := none, release := none, guardPend := ps }

/-- CPA16 (R260). -/
def cpa16 (x a : Opnd) (bar : Option Nat) (g u : Bool) (s : State) : Result :=
  let m : MemSpec := { inHelper := false, g := g, u := u, cls := some .copies, srcs := [(a, 2), (x, 1)], dst := none }
  withIss s (fun c => memPrologue m s c (fun ps =>
    let units := c.units u (c.verdictTids g ps)
    let va := fun (t : Nat) => c.read (srcTid u t) a 2
    let v := decideVerdict (units.map (fun un => (un, s.cpaCheck c (va un.1) (c.read (srcTid u un.1) x 1) bar un.1)))
    (s.fillTlbs c (units.map (fun un => va un.1))).settle c v (fun s => s.issueCpa c g u bar ps v.go)))

/-- CPA16.bar (R260). -/
def execCpa16Bar (x a : Opnd) (k : Fin 16) (g u : Bool) (s : State) : Result := cpa16 x a (some k.val) g u s
/-- CPA16.nb (R260). -/
def execCpa16Nb (x a : Opnd) (g u : Bool) (s : State) : Result := cpa16 x a none g u s

/-! ### Landing -/

/-- The bytes of the i-th source of a transfer (R308, R309): global memory at its coherence point. -/
def State.copyRead (s : State) (core i : Nat) (src : CopySrc) (n : Nat) : List Byte :=
  match src with
  | .mem .host key pa => if s.hostFailed i then List.replicate n (BitVec.allOnes 8) else s.memRead (plotOf core) .host key pa n
  | .mem sp key pa => s.memRead (plotOf core) sp key pa n
  | .scratch b => if (s.core core).scrEcc b n then s.freeBytes (256 * i) n else (s.core core).scrRead b n
  | .fixed bs => bs

/-- Does the i-th source fail at the host port (R249)? -/
def State.copyFails (s : State) (i : Nat) : CopySrc → Bool
  | .mem .host _ _ => s.hostFailed i
  | _ => false

/-- Does a source meet an uncorrectable error (R272)? -/
def State.copyEcc (s : State) (core : Nat) (src : CopySrc) (n : Nat) : Bool :=
  match src with
  | .scratch b => (s.core core).scrEcc b n
  | _ => false

/-- Drop every L1 line of a core that holds a physical line (R309). -/
def State.l1DropLine (s : State) (core pa : Nat) : State :=
  let drop := fun (k : Core) => { k with l1 := k.l1.filter (fun l => l.line != pa / 128) }
  (s.modCore core drop).modCore (s.l1Core core (pa / 128)) drop

/-- Where the free values of a transfer's writes begin, past those of its reads: a box has at most 131,072 elements (R304). -/
def copyWriteNo : Nat := 2 ^ 26

/-- Write bytes at the i-th destination of a transfer (R308, R309, R313): the words of a freed allocation are dropped, and a write that the
host fails leaves its memory unchanged (R249). -/
def State.copyWrite (s : State) (core gen i : Nat) (dst : CopyDst) (bs : List Byte) : State × Nat :=
  match dst with
  | .mem .host key pa =>
    if s.hostFailed (copyWriteNo + i) then (s.countAt core .hosterr 1, 0) else (s.performWrite (plotOf core) .host key pa bs, 0)
  | .mem sp key pa => ((if sp = .hbm then s.l1DropLine core pa else s).performWrite (plotOf core) sp key pa bs, 0)
  | .scratch b =>
    if (s.core core).genHolds (b / 4) gen then (s.modCore core (fun k => k.scrWrite b bs), 0)
    else (s, (b + bs.length + 3) / 4 - b / 4)

/-- Write a list of elements in order: the later one prevails (R308).  The number counts dropped words. -/
def State.copyWrites (s : State) (core gen : Nat) (ws : List (CopyDst × List Byte)) : State × Nat :=
  ws.zipIdx.foldl (fun (acc : State × Nat) w =>
    let r := acc.1.copyWrite core gen w.2 w.1.1 w.1.2
    (r.1, acc.2 + r.2)) (s, 0)

/-- The plane words of a group of codes (Table 4-3, R314). -/
def planeWords (e : Elem) (q : Nat) (codes : List Nat) : List Nat :=
  let n := planesOf e
  let plane := fun (f : Nat → Nat) (b : Nat) => maskOf ((codes.zipIdx.filter (fun x => hasBit (f x.1) b)).map (fun x => x.2))
  let mag := fun (c : Nat) => ([0, 1, 2, 3, 4, 6, 8, 12][c % 8]?).getD 0
  if e = .e2m1 then plane id 3 :: (upto q).map (fun j => plane mag (3 - j))
  else (upto q).map (fun j => plane id (n - 1 - j))

/-- What a box or plane command writes. -/
def State.copyOutput (s : State) (core : Nat) (w : CopyWork) : List (CopyDst × List Byte) :=
  match w with
  | .box moves => moves.zipIdx.map (fun m => (m.1.dst, s.copyRead core m.2 m.1.src m.1.n))
  | .planes e q groups =>
    let nb := (planeWidth e + 7) / 8
    groups.zipIdx.map (fun g =>
      let codes := g.1.codes.zipIdx.map (fun x => bitsOf (leNat (s.copyRead core (32 * g.2 + x.2) x.1.1 nb)) x.1.2 (planesOf e))
      (.scratch g.1.dst, (planeWords e q codes).flatMap (fun v => leBytes 4 v)))
  | .multicast _ _ => []

/-- Scratchpad sources of a command that meet an uncorrectable error (R272). -/
def State.workEcc (s : State) (core : Nat) (w : CopyWork) : Bool :=
  match w with
  | .box moves => moves.any (fun m => s.copyEcc core m.src m.n)
  | .planes e _ groups => groups.any (fun g => g.codes.any (fun x => s.copyEcc core x.1 ((planeWidth e + 7) / 8)))
  | .multicast _ _ => false

/-- Reads of a transfer that the host fails (R249). -/
def State.workFails (s : State) (w : CopyWork) : Nat :=
  match w with
  | .box moves | .multicast moves _ => (moves.zipIdx.filter (fun m => s.copyFails m.2 m.1.src)).length
  | .planes _ _ groups => (groups.flatMap (fun g => g.codes)).zipIdx.countP (fun x => s.copyFails x.2 x.1.1)

/-- A transfer has read: the reads that the host failed are counted (R249), and its free values are used up. -/
def State.workRead (s : State) (core : Nat) (w : CopyWork) : State :=
  let n := s.workFails w
  let s : State := { s with fresh := s.fresh + 2 * copyWriteNo }
  if n = 0 then s else s.countAt core .hosterr n

/-- Bytes that a landing reads from host memory (R474). -/
def CopyWork.hostIn (w : CopyWork) : Nat :=
  let of := fun (x : CopySrc) (n : Nat) => match x with
    | .mem .host _ _ => n
    | _ => 0
  match w with
  | .box moves | .multicast moves _ => (moves.map (fun m => of m.src m.n)).foldl (· + ·) 0
  | .planes e _ groups => (groups.flatMap (fun g => g.codes.map (fun x => of x.1 ((planeWidth e + 7) / 8)))).foldl (· + ·) 0

/-- Bytes that a landing writes to host memory (R474). -/
def CopyWork.hostOut (w : CopyWork) : Nat := match w with
  | .box moves => (moves.map (fun m => match m.dst with
    | .mem .host _ _ => m.n
    | _ => 0)).foldl (· + ·) 0
  | .multicast _ _ | .planes _ _ _ => 0

/-- A copy command ends (R31, R32, R303, R313): its barrier arrival, and its counter when no other part of it is queued. -/
def State.copyDone (s : State) (core : Nat) (q : CopyCmd) (err : Bool) : State :=
  let s := s.modCore core (fun k => { k with copyQ := dropFirst (fun x => x.id == q.id && x.bar == q.bar) k.copyQ })
  let s := match q.bar with
    | some kg => s.transferLanded q.wg kg err
    | none => s
  if (s.core core).copyQ.any (fun x => x.id == q.id) then s else s.opDone core q.slot .copies q.batch

/-- Start a multicast (R310, R311): the box is read once and a word for each target goes out. -/
def State.castStart (s : State) (core : Nat) (q : CopyCmd) (moves : List Move) (targets : List Nat) : State :=
  let image := moves.zipIdx.foldl (fun (m : NatMap Byte) mv => match mv.1.dst with
    | .scratch b => ((s.copyRead core mv.2 mv.1.src mv.1.n).zipIdx).foldl (fun m x => mset m (b + x.2) x.1) m
    | .mem _ _ _ => m) []
  let words := (image.map (fun e => e.1 / 4)).dedup
  let ctx := match s.warp? core q.slot with
    | some w => w.ctx
    | none => 0
  let part := (s.partOfPlot (plotOf core)).getD 0
  let out := targets.flatMap (fun h => words.map (fun i =>
    ({ core := core, wg := q.wg, accepted := false, cmd := q.id, part := part, ctx := ctx, target := plotOf core * 256 + bitsOf h 15 8, word := bitsOf h 0 15 + i,
       gen := bitsOf h 23 8, data := (image.filter (fun e => e.1 / 4 == i)).map (fun e => (e.1 % 4, e.2)) } : McastWord)))
  let sent := fun (x : CopyCmd) => if x.id = q.id then { x with out := some out.length } else x
  { s with mcasts := s.mcasts ++ out }.modCore core (fun k => { k with copyQ := k.copyQ.map sent })

/-- May the n-th queue entry go on (R29, R303)?  A CPA16 has left the memory engine's queue; of the CP commands no earlier one waits for a
guard, and one is among the first four. -/
def copyReady (qs : List CopyCmd) (n : Nat) (q : CopyCmd) : Bool :=
  let before := (qs.take n).filter (fun x => x.ga == q.ga)
  q.guardPend.isEmpty && before.all (fun x => x.guardPend.isEmpty) && (q.ga || decide (before.length < 4))

/-- The window addresses that a command reads, by the place of the element (R249). -/
def CopyWork.farReads : CopyWork → List (Nat × Nat × Nat)
  | .box moves => moves.zipIdx.filterMap (fun m => match m.1.src with
    | .mem .fabric key pa => some (m.2, key, pa)
    | _ => none)
  | .multicast _ _ => []
  | .planes _ _ _ => []

/-- A CPA16 whose sources lie in window pages reads them over the fabric first, after the core's own buffered writes of their lines (R121, R249,
R260). -/
def State.askCopy (s : State) (core : Nat) (q : CopyCmd) (far : List (Nat × Nat × Nat)) : State :=
  let (ctx, index, tag) := match s.warp? core q.slot with
    | some w => (w.ctx, w.index, s.rootTag w)
    | none => (0, 0, (0, 0))
  let (s, eids) := s.publishAccs core true false (far.map (fun e => { t := q.tid, space := .fabric, addr := e.2.2, n := 16, data := [], dests := [], aux := e.2.1 }))
  let op := fun (e : Nat × Nat × Nat) =>
    ({ cid := q.id, core := core, slot := q.slot, who := .split 0, wg := q.wg, index := index, t := (q.tids[e.1]?).getD q.tid, qnum := tag.1, tagw := tag.2,
       ctx := ctx, part := s.ctxPart ctx, dev := fabricDev e.2.2, kind := .rd, arg := fabricArg e.2.2, n := 16, data := [], dests := [], ext := .none, co := false,
       seq := none, since := s.elapsed, guardPend := [], acquire := none, after := eids, into := .copy q.id q.bar e.1 } : FabOp)
  let mark := fun (x : CopyCmd) => if x.id = q.id ∧ x.bar = q.bar then { x with asked := true } else x
  (({ s with fabOps := s.fabOps ++ far.map op } : State).modCore core (fun k => { k with copyQ := k.copyQ.map mark })).sendFab

/-- COPY_LAND (R303, R311): the n-th copy command lands.  A multicast first sends its words and lands when all have been accepted
or dropped. -/
def execCopyLand (core n : Nat) (s : State) : Result :=
  let qs := (s.core core).copyQ
  match qs[n]? with
  | none => .next s
  | some q =>
    if !copyReady qs n q then .next s
    else if !q.work.farReads.isEmpty then .next (if q.asked then s else s.askCopy core q q.work.farReads)
    else if !q.guardVal then .next ((s.countAt core .cpzero 1).copyDone core q false)
    else match q.work, q.out with
      | .multicast moves targets, none =>
        .next (((s.castStart core q moves targets).workRead core q.work).meterHost (s.partOfPlot (plotOf core)) .host q.work.hostIn 0)
      | .multicast _ _, some (_ + 1) => .next s
      | .multicast _ _, some 0 => .next (s.copyDone core q q.dropped)
      | w, _ =>
        let bad := s.workEcc core w
        let r := s.copyWrites core q.allocGen (s.copyOutput core w)
        let s := r.1.workRead core w
        let s := if bad then s.eccRecord core q.slot 0 else s
        let s := if r.2 = 0 then s else s.countAt core .sdrop r.2
        .next ((s.meterHost (s.partOfPlot (plotOf core)) .host w.hostIn w.hostOut).copyDone core q (r.2 != 0))

/-- A target's crossbar port judges a multicast word (R311, R312): it accepts it, which raises the allocation's inbound count (R253), or
drops it. -/
def State.castAccept (s : State) (n : Nat) (m : McastWord) : State :=
  let ok := (s.targetVerdict m.target m.word 1 m.gen m.ctx).isNone
  let s := if ok then ({ s with mcasts := setAt s.mcasts n { m with accepted := true } } : State).modCore m.target (fun k => k.inbound m.word m.gen (· + 1))
    else ({ s with mcasts := dropAt s.mcasts n } : State).count m.part .sdrop 1
  let taken := fun (x : CopyCmd) => if x.id = m.cmd then { x with out := x.out.map (· - 1), dropped := x.dropped || !ok } else x
  s.modCore m.core (fun k => { k with copyQ := k.copyQ.map taken })

/-- An accepted multicast word is written, or dropped where a release has freed it (R253, R313). -/
def State.castLand (s : State) (n : Nat) (m : McastWord) : State :=
  let s : State := { s with mcasts := dropAt s.mcasts n }
  if (s.core m.target).genHolds m.word m.gen then
    s.modCore m.target (fun k => (m.data.foldl (fun k e => k.setScrByte (m.word * 4 + e.1) e.2) k).inbound m.word m.gen (· - 1))
  else (s.count m.part .sdrop 1).modCore m.core (fun k => { k with copyQ := k.copyQ.map (fun x => if x.id = m.cmd then { x with dropped := true } else x) })

/-- MULTICAST_WRITE (R311, R312): the n-th word reaches its target, which accepts it or drops it; one that has been accepted is written. -/
def execMulticastWrite (n : Nat) (s : State) : Result :=
  match s.mcasts[n]? with
  | none => .next s
  | some m => .next (if m.accepted then s.castLand n m else s.castAccept n m)

end Sys2Proof.Machine
end

