-- ==== Sys2Proof/Machine/Policy.lean ====
section
/-! DEFINITION. The policy engines: traverse bytecode, its verifier and interpreter, allowances and overdraft, and how a level of
a call answers (16_policy_engines.md R412 to R429). -/

namespace Sys2Proof.Machine

/-- The decision points in the order of their codes (Table 16-1). -/
inductive Point where
  | enq | pick | tick | block | wake | migr
  deriving DecidableEq, Repr

/-- The compute die of a plot: two clusters to a die (Table 1-1). -/
def dieOf (plot : Nat) : Nat := plot / 2

/-- The allowance of a point in cycles (R426). -/
def allowance : Nat → Nat
  | 0 => 64 | 1 => 128 | 2 => 512 | 3 => 64 | 4 => 64 | _ => 1024

/-- May a level hold a traverse for a point (Table 16-1)?  Level 0 is the tenant's, 1 the hypervisor's. -/
def levelOk (point level : Nat) : Bool :=
  match point with
  | 0 | 1 | 2 => decide (level ≤ 1)
  | 3 | 4 => level == 0
  | 5 => level == 1
  | _ => false

/-- The decision registers that Table 16-2 names for a point and level. -/
def decisionRegs (point level : Nat) : List Nat :=
  match point, level with
  | 0, _ => [0, 1]
  | 1, 0 => [0, 1]
  | 5, _ => [0, 1]
  | _, _ => [0]

/-- The full overdraft (R427). -/
def overdraftMax : Nat := 768

/-! ### Bytecode -/

/-- A bytecode word (R421). -/
structure Code where
  op : Nat
  a : Nat
  b : Nat
  c : Nat
  imm : Nat
  deriving DecidableEq, Repr

def Code.of (w : Nat) : Code := { op := bitsOf w 26 6, a := bitsOf w 22 4, b := bitsOf w 18 4, c := bitsOf w 14 4, imm := bitsOf w 0 14 }

/-- Is an opcode used, with zero in every field that its form does not have (Table 16-4)? -/
def Code.formOk (x : Code) : Bool :=
  let a0 := x.a == 0
  let b0 := x.b == 0
  let c0 := x.c == 0
  let i0 := x.imm == 0
  if x.op = 1 ∨ x.op = 2 then b0 && c0
  else if x.op = 3 then c0 && i0
  else if 4 ≤ x.op ∧ x.op ≤ 14 then true
  else if x.op = 0x10 then b0 && c0
  else if x.op = 0x11 then a0 && b0 && c0
  else if x.op = 0x12 ∨ x.op = 0x1F then a0 && b0 && c0 && i0
  else if x.op = 0x13 then b0 && c0 && i0
  else if x.op = 0x18 ∨ x.op = 0x19 ∨ x.op = 0x1A ∨ x.op = 0x1B then c0
  else if x.op = 0x1C then b0 && c0
  else false

/-- The cycles of an opcode, an RDS or WRS taken at the given cost (Table 16-4). -/
def Code.cycles (x : Code) (scratch : Nat) : Nat :=
  if x.op = 0x1A ∨ x.op = 0x1B then scratch else if x.op = 0x18 ∨ x.op = 0x19 then 2 else 1

/-- The enclosing loops of each word as indices of their LOOP words, innermost first; none where LOOP and ENDL do not nest, nest
deeper than 2, count outside 1 to 256, or BRK stands outside a loop (check 3 of R425). -/
def loopsOf : List Code → Nat → List Nat → Option (List (List Nat))
  | [], _, st => if st.isEmpty then some [] else none
  | x :: r, i, st =>
    if x.op = 0x11 then
      if x.imm = 0 ∨ 256 < x.imm ∨ 2 ≤ st.length then none else (loopsOf r (i + 1) (i :: st)).map (fun l => st :: l)
    else if x.op = 0x12 then
      match st with
      | [] => none
      | _ :: up => (loopsOf r (i + 1) up).map (fun l => st :: l)
    else if x.op = 0x13 ∧ st = [] then none
    else (loopsOf r (i + 1) st).map (fun l => st :: l)

/-- Check 4 of R425: every BRF goes to a later word of the same loop body or the same top level. -/
def branchesOk (cs : List Code) (ls : List (List Nat)) : Bool :=
  (cs.zipIdx).all (fun e =>
    if e.1.op = 0x10 then
      decide (1 ≤ e.1.imm ∧ e.1.imm ≤ 255 ∧ e.2 + e.1.imm < cs.length) && (ls[e.2]? == ls[e.2 + e.1.imm]?)
    else true)

/-- Check 6 of R425. -/
def Code.fieldsOk (point level : Nat) (x : Code) : Bool :=
  if x.op = 0x1A ∨ x.op = 0x1B then decide (x.imm < 128)
  else if x.op = 0x19 then decide (x.imm % 16 < 15)
  else if x.op = 0x1C then (decisionRegs point level).contains x.imm || decide (2 ≤ x.imm ∧ x.imm ≤ 7)
  else true

/-- The worst-case cost (check 7 of R425). -/
def worstCost (cs : List Code) (ls : List (List Nat)) : Nat :=
  ((cs.zip ls).map (fun e => e.1.cycles 48 * (e.2.foldl (fun m j => m * (match cs[j]? with
    | some x => x.imm
    | none => 1)) 1))).foldl (· + ·) 0

/-- The header of an image (Table 16-6). -/
structure ImageHeader where
  magic : Nat
  level : Nat
  point : Nat
  len : Nat
  rsv : Bool
  deriving DecidableEq, Repr

def ImageHeader.of (v : Nat) : ImageHeader :=
  { magic := bitsOf v 0 32, level := bitsOf v 43 1, point := bitsOf v 44 4, len := bitsOf v 48 16, rsv := bitsOf v 32 11 != 0 || bitsOf v 64 64 != 0 }

/-- Check 1 of R425. -/
def ImageHeader.ok (h : ImageHeader) : Bool :=
  h.magic == 0x504F4C59 && decide (1 ≤ h.len ∧ h.len ≤ 256) && decide (h.point ≤ 5) && !h.rsv && levelOk h.point h.level

/-- The verifier (R425): 0, or the code of the first check that fails. -/
def verifyImage (h : ImageHeader) (ws : List Nat) (room : Bool) : Nat :=
  let cs := ws.map Code.of
  if !h.ok then 1
  else if !cs.all Code.formOk then 2
  else match loopsOf cs 0 [] with
    | none => 3
    | some ls =>
      if !branchesOk cs ls then 4
      else if (cs.getLast?.map (fun x => x.op)) ≠ some 0x1F then 5
      else if !cs.all (Code.fieldsOk h.point h.level) then 6
      else if allowance h.point + overdraftMax < worstCost cs ls then 7
      else if !room then 8
      else 0

/-! ### A run -/

def Run.start : Run := { k := [], d := [], writes := [], loops := [], pc := 0, used := 0 }

/-- A level that is answered without running takes a cycle (R417). -/
def LevelRun.robin : LevelRun := { d := none, ran := false, cycles := 1, writes := [] }

def Run.reg (r : Run) (n : Nat) : Nat := if n = 0 then 0 else mgetD r.k n 0

def Run.setReg (r : Run) (n v : Nat) : Run := if n = 0 then r else { r with k := mput 0 r.k n (v % 2 ^ 64) }

/-- imm14 sign-extended to 64 bits. -/
def simm (imm : Nat) : Nat := wrap 64 (signed 14 imm)

/-- The result of a two-source opcode (R422). -/
def aluCode (op x y : Nat) : Nat :=
  let sx := signed 64 x
  let sy := signed 64 y
  match op with
  | 4 => (x + y) % 2 ^ 64
  | 5 => (x + 2 ^ 64 - y) % 2 ^ 64
  | 6 => x &&& y
  | 7 => x ||| y
  | 8 => x ^^^ y
  | 9 => x * 2 ^ (y % 64) % 2 ^ 64
  | 10 => x / 2 ^ (y % 64)
  | 11 => if sx ≤ sy then x else y
  | 12 => if sx ≤ sy then y else x
  | 13 => if sx < sy then 1 else 0
  | _ => if x = y then 1 else 0

/-- The word after the ENDL that matches an open loop, from a word on. -/
def afterLoop (cs : List Code) : Nat → Nat → Nat → Nat
  | 0, i, _ => i
  | n + 1, i, depth =>
    match cs[i]? with
    | none => i
    | some x =>
      if x.op = 0x11 then afterLoop cs n (i + 1) (depth + 1)
      else if x.op = 0x12 then (if depth = 0 then i + 1 else afterLoop cs n (i + 1) (depth - 1))
      else afterLoop cs n (i + 1) depth

/-- Key of a policy scratch word (R420). -/
def scratchKey (part level w : Nat) : Nat := 256 * part + 128 * level + w % 128

/-- The line of a policy scratch word: 128 bytes hold sixteen (assumption 22). -/
def scratchLine (key : Nat) : Nat := key / 16

/-- Does a die hold the line of a word (R423)? -/
def State.dieHolds (s : State) (die key : Nat) : Bool := hasBit (mgetD s.pol.lines (scratchLine key) 0) die

/-- A die uses a word (R420): it then holds the line.  After a write the manual leaves open which others keep their copies, kept coherent, and
which lose them (assumption 22). -/
def State.useLine (s : State) (die key : Nat) (write : Bool) : State :=
  let m := mgetD s.pol.lines (scratchLine key) 0
  let others := if write then m &&& (Config.freeByte (s.fresh + 1)).toNat else m
  { s with fresh := s.fresh + 2, pol := { s.pol with lines := mput 0 s.pol.lines (scratchLine key) (setBits others die 1 1) } }

/-- System software writes a word of policy scratch: which dies then still hold the line is open (assumption 22). -/
def State.looseLine (s : State) (key : Nat) : State :=
  let m := mgetD s.pol.lines (scratchLine key) 0 &&& (Config.freeByte s.fresh).toNat
  { s with fresh := s.fresh + 1, pol := { s.pol with lines := mput 0 s.pol.lines (scratchLine key) m } }

/-- Writes to policy scratch are performed (R420). -/
def State.putScratch (s : State) (ws : NatMap Nat) : State := { s with cmd := { s.cmd with scratch := ws.foldl (fun m e => mput 0 m e.1 e.2) s.cmd.scratch } }

/-- A field of an entry of the snapshot (Table 16-5). -/
def rdqField (cands : List (List Nat)) (i f : Nat) : Nat :=
  if f = 13 then cands.length
  else match cands[i]? with
    | some e => (e[f]?).getD 0
    | none => 0xFFFFFFFF

/-- Free panels and idle cores of a plot: panel slots of its cores that hold no warp. -/
def Core.freePanels (k : Core) : Nat := 4 - (k.warps.foldl (fun n e => n + e.2.panels) 0)

def State.plotCores (s : State) (plot : Nat) : List Core := (s.cores.filter (fun e => plotOf e.1 == plot)).map Prod.snd

def State.idleCores (s : State) (plot : Nat) : Nat := 256 - ((s.plotCores plot).filter (fun k => !k.warps.isEmpty)).length

def State.freePanelsOf (s : State) (plot : Nat) : Nat := 1024 - ((s.plotCores plot).foldl (fun n k => n + (4 - k.freePanels)) 0)

/-- A counter as RDC reads it (Table 16-5). -/
def State.rdc (s : State) (part plot id : Nat) : Nat :=
  if id ≤ 0x1D then mgetD s.counters (256 * part + id) 0
  else if 0x20 ≤ id ∧ id ≤ 0x25 then mgetD s.counters (256 * part + (id - 2)) 0
  else if id = 0x40 then s.elapsed % 2 ^ 64
  else if id = 0x41 then s.idleCores plot
  else if id = 0x42 then s.freePanelsOf plot
  else if id = 0x43 then (s.plot plot).withheld
  else if id = 0x44 then (s.plot plot).withdrawn
  else 0

/-- The cost of a scratch access (R423): 2 cycles where the die holds the line, else at most 48 (assumption 22). -/
def State.scratchCost (s : State) (die key : Nat) : Nat := if s.dieHolds die key then 2 else 2 + (Config.freeByte s.fresh).toNat % 47

/-- The key of a traverse, and of its overdraft on a plot. -/
def imageKey (level owner point : Nat) : Nat := 8 * (1024 * level + owner) + point
def overdraftKey (image plot : Nat) : Nat := 8 * image + plot

/-- Refill every overdraft of a plot at its TICK call (R427); a displaced traverse keeps its own (Table 16-8). -/
def State.refillOverdrafts (s : State) (plot : Nat) : State :=
  { s with pol := { s.pol with overdraft := s.pol.overdraft.filter (fun e =>
      !(e.1 % 8 == plot) || (match mget? s.pol.images (e.1 / 8) with
        | some img => img.disp
        | none => false)) } }

/-- The status word of a traverse on a plot (Table 16-7); zero for a number that no decision point has (assumption 102). -/
def State.traverseStatus (s : State) (level owner point plot : Nat) : Nat :=
  let key := imageKey level owner point
  let ov := mgetD s.pol.overdraft (overdraftKey key plot) overdraftMax
  if 6 ≤ point then 0 else match mget? s.pol.images key with
  | none => overdraftMax * 2 ^ 16
  | some img => (if img.words.isEmpty then 0 else 2 ^ 31) + (if img.disp then 2 ^ 30 else 0) + ov % 1024 * 2 ^ 16 + img.vcode % 256

/-- Is there room for an image in the engines of a partition (R419)? -/
def State.engineRoom (s : State) (part key : Nat) : Bool :=
  let mine := s.pol.images.filter (fun e => !e.2.words.isEmpty && e.1 != key &&
    (if e.1 / 8 < 1024 then (match mget? s.ctxs (e.1 / 8) with
      | some x => x.part == part
      | none => false) else e.1 / 8 - 1024 == part))
  decide (mine.length < 96)

/-- Install a verified image, or keep the refusal of one (R425, R429). -/
def State.installImage (s : State) (key vcode : Nat) (words : List Nat) (qnum ctx : Nat) : State :=
  if vcode = 0 then
    { s with pol := { s.pol with images := mset s.pol.images key { words := words, qnum := qnum, ctx := ctx, disp := false, vcode := 0, load := s.nextId },
                                 overdraft := s.pol.overdraft.filter (fun e => e.1 / 8 != key) },
             nextId := s.nextId + 1 }
  else
    let old := mgetD s.pol.images key { words := [], qnum := qnum, ctx := ctx, disp := false, vcode := 0 }
    { s with pol := { s.pol with images := mset s.pol.images key { old with vcode := vcode } } }

/-! ### Candidates -/

/-- What MISS counts (Table 16-5): a workgroup, a grid or a plot. -/
inductive MissOf where
  | wg (id : Nat)
  | grid (gid : Nat)
  | plot
  deriving DecidableEq, Repr

def MissOf.key : MissOf → Nat
  | .wg id => 3 * id
  | .grid gid => 3 * gid + 1
  | .plot => 2

/-- MISS in the last completed TICK window of a plot, which the manual does not give, saturating as Table 16-5 says (assumption 23). -/
def State.missOf (s : State) (plot : Nat) (m : MissOf) : Nat := Nat.min (Config.misses plot (s.plot plot).ticks m.key) 0xFFFFFFFE

/-- µs since a time, saturating (Table 16-5). -/
def State.ageUs (s : State) (since : Nat) : Nat := Nat.min ((s.elapsed - since) / 1000) 0xFFFFFFFE

/-- The REGS code of a file size (Table 3-4). -/
def regsCode (f : Nat) : Nat := if f = 256 then 2 else if f = 128 then 1 else 0

/-- Sum of a window statistic over some workgroups on a plot. -/
def State.winSum (s : State) (plot : Nat) (mine : Nat → Bool) (f : WinStat → Nat) : Nat :=
  (s.pol.last.filter (fun e => e.1 % 8 == plot && mine (e.1 / 8))).foldl (fun n e => n + f e.2) 0

/-- The work entry of a grid, or of one of its workgroups (Table 16-5). -/
def State.workEntry (s : State) (plot gid : Nat) (g : Grid) (wg : Option (Nat × Workgroup)) (flags count : Nat) : List Nat :=
  let mine := fun (k : Nat) => match wg with
    | some (id, _) => k == id
    | none => k / 2 ^ 32 == gid
  let home := match wg with
    | some (_, w) => (match w.core, w.saved with
      | some c, _ => plotOf c
      | none, some sv => plotOf sv.core
      | none, none => 0)
    | none => 0
  let since := match wg with
    | some (_, w) => (match w.saved with
      | some sv => sv.since
      | none => w.since)
    | none => g.since
  [gid, g.ctx, g.ptag, (match wg with
      | some (_, w) => w.prio
      | none => g.prio), s.ageUs since, s.missOf plot (match wg with
      | some (id, _) => .wg id
      | none => .grid gid), s.winSum plot mine (fun x => x.iiu), s.winSum plot mine (fun x => x.whld),
    s.winSum plot mine (fun x => x.tax) / 36, g.waiting.length, g.scratch / 1024 + (g.warps - 1) * 2 ^ 16 + regsCode g.fileSize * 2 ^ 18, home, flags, count,
    (match wg with
      | some (_, w) => w.slice
      | none => 0)]

/-- The entry of a context at the hypervisor level of PICK: the fields that have no meaning for a context read 0. -/
def ctxEntry (ctx count : Nat) : List Nat := [0, ctx, 0, 0, 0, 0, 0, 0, 0, 0, 0, 0, 0, count, 0]

/-- The first candidate that comes after a key cyclically (Table 16-1): the smallest key above the last one, else the smallest. -/
def cyclicNext (keys : List Nat) (last : Option Nat) : Option Nat :=
  match minOf? (keys.filter (fun k => match last with
    | some l => decide (l < k)
    | none => true)) with
  | some k => some k
  | none => minOf? keys

/-- Does a call run on the engine of a plot, which performs one at a time (R417)? -/
def State.engineBusy (s : State) (plot : Nat) : Bool := (mget? s.pol.calls plot).isSome

/-- One opcode of a run that touches nothing but the run (R422): RDQ reads the snapshot. -/
def Run.local (cs : List Code) (cands : List (List Nat)) (x : Code) (r : Run) : Run :=
  let next := { r with pc := r.pc + 1 }
  let y := (r.reg x.c + simm x.imm) % 2 ^ 64
  if x.op = 1 then next.setReg x.a (simm x.imm)
  else if x.op = 2 then next.setReg x.a (r.reg x.a * 2 ^ 14 + x.imm)
  else if x.op = 3 then next.setReg x.a (r.reg x.b)
  else if x.op ≤ 14 then next.setReg x.a (aluCode x.op (r.reg x.b) y)
  else if x.op = 0x10 then (if x.a = 0 ∨ r.reg x.a ≠ 0 then { r with pc := r.pc + x.imm } else next)
  else if x.op = 0x11 then { next with loops := (x.imm, r.pc + 1) :: r.loops }
  else if x.op = 0x12 then
    match r.loops with
    | (c, top) :: up => if 1 < c then { r with pc := top, loops := (c - 1, top) :: up } else { next with loops := up }
    | [] => next
  else if x.op = 0x13 then
    (if x.a = 0 ∨ r.reg x.a ≠ 0 then { r with pc := afterLoop cs cs.length (r.pc + 1) 0, loops := r.loops.drop 1 } else next)
  else if x.op = 0x19 then next.setReg x.a (rdqField cands ((r.reg x.b + x.imm / 16) % 2 ^ 64) (x.imm % 16))
  else if x.op = 0x1C then { next with d := mset next.d x.imm (r.reg x.a) }
  else next

/-- Is an opcode performed at its own time: one that reads or writes more than the run, or ends it (R418, R420, R423)? -/
def Code.timed (x : Code) : Bool := x.op == 0x18 || x.op == 0x1A || x.op == 0x1B || x.op == 0x1F

/-- Run on to the next opcode of that kind, or to one that does not fit the budget (R422, R428).  The fuel is the budget: every opcode takes a
cycle. -/
def Run.go (cs : List Code) (cands : List (List Nat)) (budget : Nat) (r : Run) : Nat → Run
  | 0 => r
  | n + 1 =>
    match cs[r.pc]? with
    | none => r
    | some x =>
      if x.timed || decide (budget < r.used + x.cycles 0) then r
      else Run.go cs cands budget { r.local cs cands x with used := r.used + x.cycles 0 } n

def Running.go (r : Running) : Running :=
  { r with run := Run.go (r.words.map Code.of) r.job.cands r.budget r.run (r.budget + 1) }

/-! ### Calls -/

def CallKind.point : CallKind → Point
  | .enq _ _ _ => .enq
  | .pick _ _ _ => .pick
  | .tick _ _ _ => .tick
  | .block _ _ _ => .block
  | .wake _ _ _ _ => .wake
  | .migr _ _ _ _ => .migr

/-- The decision registers of a level that have a range, with its bound (Table 16-2). -/
def CallKind.ranges (k : CallKind) (level count : Nat) : List (Nat × Nat) :=
  match k with
  | .enq _ _ _ => [(1, 8)]
  | .pick _ _ _ => if level = 1 then [(0, count)] else [(0, count), (1, 65536)]
  | .tick _ _ _ => [(0, count + 1)]
  | .block _ _ _ => []
  | .wake _ _ _ _ => [(0, 8)]
  | .migr _ _ _ _ => [(0, count), (1, 8)]

/-- A decision register of a level (R413): its value if the call wrote it in range, else none. -/
def LevelRun.value (l : LevelRun) (n : Nat) (bound : Option Nat) : Option Nat :=
  (l.d.bind (fun m => mget? m n)).filter (fun v => match bound with
    | some b => decide (v < b)
    | none => true)

/-- The n-th level of a call that is over. -/
def PolicyCall.level (c : PolicyCall) (n : Nat) : LevelRun := (c.results[n]?).getD LevelRun.robin

/-- The context whose tenant level a PICK runs, with whether the hypervisor level named it, and its list (R413). -/
def PolicyCall.pickCtx (c : PolicyCall) (robin : Nat) (lists : List (Nat × List (Nat × Pick × List Nat))) : Nat × Bool × List (Nat × Pick × List Nat) :=
  match ((c.level 0).value 0 (some lists.length)).bind (fun i => lists[i]?) with
  | some e => (e.1, true, e.2)
  | none => (robin, false, mgetD lists robin [])

/-- The workgroup that the hypervisor level of a TICK chose (R413), with whether a register named it. -/
def PolicyCall.tickHyper (c : PolicyCall) (wgs : List (Nat × Nat × List Nat)) (robin : Option Nat) : Option Nat × Bool :=
  match (c.level 0).value 0 (some (wgs.length + 1)) with
  | some v => (if v = 0 then none else (wgs[v - 1]?).map Prod.fst, true)
  | none => (robin, false)

/-- The context of the tenant level of a TICK, that of the workgroup that the hypervisor level named; none where it named none (R413). -/
def PolicyCall.tickCtx (c : PolicyCall) (wgs : List (Nat × Nat × List Nat)) (robin : Option Nat) : Option Nat :=
  (c.tickHyper wgs robin).1.bind (fun id => (wgs.find? (fun e => e.1 == id)).map (fun e => e.2.1))

/-- The level that a call runs next, in the order of Table 16-1; none where all are over. -/
def PolicyCall.next (c : PolicyCall) : Option LevelJob :=
  match c.kind, c.results.length with
  | .enq g e _, 0 => some { level := 0, owner := g.ctx, cands := [e] }
  | .enq _ e _, 1 => some { level := 1, owner := c.part, cands := [e] }
  | .pick _ _ lists, 0 => some { level := 1, owner := c.part, cands := lists.map (fun e => ctxEntry e.1 lists.length) }
  | .pick _ robin lists, 1 =>
    let x := c.pickCtx robin lists
    some { level := 0, owner := x.1, cands := x.2.2.map (fun e => e.2.2) }
  | .tick wgs _ _, 0 => some { level := 1, owner := c.part, cands := wgs.map (fun e => e.2.2) }
  | .tick wgs robin _, 1 => (c.tickCtx wgs robin).map (fun ctx => { level := 0, owner := ctx, cands := (wgs.filter (fun e => e.2.1 == ctx)).map (fun e => e.2.2) })
  | .block _ ctx e, 0 => some { level := 0, owner := ctx, cands := [e] }
  | .wake _ ctx _ e, 0 => some { level := 0, owner := ctx, cands := [e] }
  | .migr _ _ plots _, 0 => some { level := 1, owner := c.part, cands := plots.map Prod.snd }
  | _, _ => none

/-- The traverse that a level runs: one that is loaded and not displaced (R417, R428). -/
def State.traverse (s : State) (point : Point) (job : LevelJob) : Option Traverse :=
  (mget? s.pol.images (imageKey job.level job.owner point.ctorIdx)).filter (fun img => !img.disp && !img.words.isEmpty)

/-- The nanoseconds of some cycles of the cluster clock, 1.8 GHz (Table 1-1), rounded up. -/
def clusterNs (cycles : Nat) : Nat := (5 * cycles + 8) / 9

def State.setCall (s : State) (plot : Nat) (c : PolicyCall) : State := { s with pol := { s.pol with calls := mset s.pol.calls plot c } }

/-- A call goes on: levels without a traverse take the round-robin answer at once, in a cycle each (R417); one with a traverse begins to run,
and stands before its first opcode that is performed at its own time (R418, R426, R427).  Once a level has run, the call ends when its cycles
have passed; the answer is the call where none has. -/
def State.callGo (s : State) (plot : Nat) (c : PolicyCall) : Nat → State × Option PolicyCall
  | 0 => (s, some c)
  | n + 1 =>
    match c.next with
    | none =>
      if c.results.any (fun l => l.ran) then (s.setCall plot { c with running := none, ends := c.since + clusterNs c.cycles }, none)
      else (s, some { c with running := none })
    | some job =>
      match s.traverse c.kind.point job with
      | none => (s.count c.part .prrall 1).callGo plot { c with results := c.results ++ [LevelRun.robin], cycles := c.cycles + 1 } n
      | some img =>
        let pt := c.kind.point.ctorIdx
        let budget := allowance pt + mgetD s.pol.overdraft (overdraftKey (imageKey job.level job.owner pt) plot) overdraftMax
        let r := ({ job := job, words := img.words, load := img.load, budget := budget, run := Run.start } : Running).go
        ((s.count c.part .pcalls 1).setCall plot { c with running := some r, ends := c.since + clusterNs (c.cycles + r.run.used) }, none)

/-- Begin a call on the engine of a plot: the answer is the call where no level runs. -/
def State.beginCall (s : State) (plot part : Nat) (k : CallKind) : State × Option PolicyCall :=
  s.callGo plot { part := part, kind := k, results := [], running := none, cycles := 0, since := s.elapsed, ends := s.elapsed } 3

/-- A level of a call is over: its values out of range count in PINVAL (R413), and the call goes on. -/
def State.levelOver (s : State) (plot : Nat) (c : PolicyCall) (job : LevelJob) (l : LevelRun) : State :=
  let bad := (c.kind.ranges job.level job.cands.length).filter (fun r => match l.d.bind (fun m => mget? m r.1) with
    | some v => decide (r.2 ≤ v)
    | none => false)
  let s := if bad.isEmpty then s else s.count c.part .pinval bad.length
  (s.callGo plot { c with results := c.results ++ [l], running := none, cycles := c.cycles + l.cycles } 3).1

/-- A run is overrun (R428): the traverse, where no image has been loaded in its place, is displaced and has no overdraft; POVER counts, the
record goes out, and the level takes the round-robin answer. -/
def State.overrun (s : State) (plot : Nat) (c : PolicyCall) (r : Running) : State :=
  let pt := c.kind.point.ctorIdx
  let key := imageKey r.job.level r.job.owner pt
  let stopped : LevelRun := { d := none, ran := true, cycles := r.run.used, writes := r.run.writes }
  let s := s.count c.part .pover 1
  match (mget? s.pol.images key).filter (fun img => img.load == r.load) with
  | none => s.levelOver plot c r.job stopped
  | some img =>
    let s : State := { s with pol := { s.pol with overdraft := mset s.pol.overdraft (overdraftKey key plot) 0, images := mset s.pol.images key { img with disp := true } } }
    (s.notice { Record.blank with ctx := img.ctx, qnum := img.qnum, cause := 0x27, detail := pt + 16 * r.job.level }).levelOver plot c r.job stopped

/-- A run reaches RET: the cycles beyond its allowance are drawn from the overdraft of its traverse (R427). -/
def State.runEnds (s : State) (plot : Nat) (c : PolicyCall) (r : Running) (used : Nat) : State :=
  let pt := c.kind.point.ctorIdx
  let key := imageKey r.job.level r.job.owner pt
  let s : State := if (mget? s.pol.images key).any (fun img => img.load == r.load) then
      { s with pol := { s.pol with overdraft := mput overdraftMax s.pol.overdraft (overdraftKey key plot) (Nat.min (r.budget - used) (r.budget - allowance pt)) } }
    else s
  s.levelOver plot c r.job { d := some r.run.d, ran := true, cycles := used, writes := r.run.writes }

/-- The opcode before which a run stands is performed (R418, R420, R422, R423, R428); the run reads its own writes, which other calls see at its
end (assumption 79). -/
def State.runOp (s : State) (plot : Nat) (c : PolicyCall) (r : Running) : State :=
  let q := r.run
  match (r.words.map Code.of)[q.pc]? with
  | none => s.runEnds plot c r q.used
  | some x =>
    let scr := decide (x.op = 0x1A ∨ x.op = 0x1B)
    let idx := (q.reg x.b + x.imm) % 2 ^ 64
    let word := scratchKey c.part r.job.level (idx % 128)
    let cost := x.cycles (s.scratchCost (dieOf plot) word)
    let s := if scr then { s with fresh := s.fresh + 1 } else s
    if r.budget < q.used + cost then s.overrun plot c r
    else if x.op = 0x1F then s.runEnds plot c r (q.used + cost)
    else
      let s := if scr then s.useLine (dieOf plot) word (x.op == 0x1B) else s
      let next : Run := { q with pc := q.pc + 1, used := q.used + cost }
      let q := if x.op = 0x18 then next.setReg x.a (s.rdc c.part plot idx)
        else if x.op = 0x1A then next.setReg x.a (mgetD q.writes word (mgetD s.cmd.scratch word 0))
        else { next with writes := mset q.writes word (q.reg x.a) }
      let r := ({ r with run := q } : Running).go
      s.setCall plot { c with running := some r, ends := c.since + clusterNs (c.cycles + r.run.used) }

/-- The writes to policy scratch of the levels of a call, in order. -/
def PolicyCall.writes (c : PolicyCall) : NatMap Nat := c.results.foldl (fun m l => l.writes.foldl (fun m e => mset m e.1 e.2) m) []

/-- What an ENQ has decided (R413, R414): accepted with its PRIO, or refused, which PREFUSE counts. -/
def State.enqDecide (s : State) (c : PolicyCall) : State × Option Nat :=
  let t := c.level 0
  let h := c.level 1
  let prio := if (h.d.bind (fun m => mget? m 1)).isSome then (h.value 1 (some 8)).getD 3 else (t.value 1 (some 8)).getD 3
  if t.value 0 none = some 0 ∨ h.value 0 none = some 0 then (s.count c.part .prefuse 1, none) else (s, some prio)

/-- Ask the ENQ traverses of an engine about a grid (R385 step 4, R414): the decision where no level runs. -/
def State.enqCall (s : State) (part plot : Nat) (g : Grid) (entry : List Nat) (asker : Asker) : State × Option (Option Nat) :=
  match s.beginCall plot part (.enq g entry asker) with
  | (s, none) => (s, none)
  | (s, some c) =>
    let r := s.enqDecide c
    (r.1, some r.2)

end Sys2Proof.Machine
end

