-- ==== Sys2Proof/Machine/Placement.lean ====
section
/-! DEFINITION. Launch records, kernel descriptors and station tables; acceptance of a grid; where a workgroup fits, its
placement and its end; completion of a grid (01_machine.md R18 to R24, 03_assembly.md R86 to R91, 10_memory_engine.md R265 to
R270, 15_launch_engine.md R382 to R387). -/

namespace Sys2Proof.Machine

/-! ### Records -/

/-- A launch record (Table 15-1). -/
structure LaunchRec where
  kdesc : Nat
  data : Nat
  pbase : Nat
  nwg : Nat
  conf : Nat
  unit : Nat
  ninit : Nat
  fmtv : Bool
  fmt : Nat
  ptag : Nat
  devm : Nat
  inits : List Nat
  rsv : Bool
  deriving DecidableEq, Repr

def LaunchRec.of (v : Nat) : LaunchRec :=
  let inits := (upto 10).map (fun k => bitsOf v (384 + 64 * k) 64)
  { kdesc := bitsOf v 0 64, data := bitsOf v 64 64, pbase := bitsOf v 128 64, nwg := bitsOf v 192 32, conf := bitsOf v 224 2,
    unit := bitsOf v 226 3, ninit := bitsOf v 245 4, fmtv := hasBit v 249, fmt := bitsOf v 256 32, ptag := bitsOf v 288 32,
    devm := bitsOf v 336 16, inits := inits,
    rsv := bitsOf v 229 16 != 0 || bitsOf v 250 6 != 0 || bitsOf v 320 16 != 0 || bitsOf v 352 32 != 0 || inits.any (fun e => bitsOf e 40 24 != 0) }

/-- The kernel that a descriptor and its station table describe (Tables 3-4 to 3-6). -/
structure Kernel where
  code : Nat
  codeSize : Nat
  fileSize : Nat
  warps : Nat
  scratch : Nat
  fuse : Nat
  pmem : Nat
  stations : List Station
  deriving DecidableEq, Repr

/-- Read bytes of a context as one number; none on a translation cause. -/
def State.ctxNat (s : State) (ctx va n : Nat) : Option Nat :=
  match s.ctxRead ctx va n with
  | .ok bs => some (leNat bs)
  | .error _ => none

/-- Read and check entries of a station table (R91): `last` is the previous PCOFF. -/
def State.readStations (s : State) (ctx codeSize fileSize : Nat) : Nat → Nat → Option Nat → Option (List Station)
  | 0, _, _ => some []
  | n + 1, va, last =>
    match s.ctxNat ctx va 48 with
    | none => none
    | some v =>
      let off := bitsOf v 0 32
      let first := match last with
        | none => off == 0
        | some l => decide (l < off)
      if !first || off % 4 != 0 || decide (codeSize ≤ off) || bitsOf v 35 13 != 0 || bitsOf v 56 8 != 0 || hasBit v 64 ||
          bitsOf v 128 256 / 2 ^ fileSize != 0 then none
      else (s.readStations ctx codeSize fileSize n (va + 48) (some off)).map (fun r =>
        { pcoff := off, masks := { filem := bitsOf v 128 256, predm := bitsOf v 64 64, ixm := bitsOf v 52 4, accm := bitsOf v 48 4 } } :: r)

/-- Read a descriptor and its station table (R86, R91); none where either refuses the launch, a
SCRATCH that is no multiple of 256 among the reasons (assumption 88). -/
def State.readKernel (s : State) (ctx kdesc : Nat) : Option Kernel :=
  match s.ctxNat ctx kdesc 32 with
  | none => none
  | some d =>
    let code := bitsOf d 0 64
    let stn := bitsOf d 64 64
    let scratch := bitsOf d 128 32
    let regs := bitsOf d 160 2
    if bitsOf d 162 6 ≠ 0 ∨ hasBit d 170 ∨ bitsOf d 176 80 ≠ 0 ∨ regs = 3 ∨ 4 ≤ bitsOf d 172 4 ∨ scratch % 256 ≠ 0 ∨ 131072 < scratch ∨
        code % 4 ≠ 0 ∨ stn % 8 ≠ 0 then none
    else match s.ctxNat ctx stn 16 with
      | none => none
      | some h =>
        let count := bitsOf h 64 32
        let size := bitsOf h 96 32
        if bitsOf h 0 32 ≠ 0x4E545354 ∨ bitsOf h 32 16 ≠ 1 ∨ bitsOf h 48 16 ≠ 48 ∨ count = 0 ∨ size < 4 * count - 3 then none
        else (s.readStations ctx size (64 * 2 ^ regs) count (stn + 16) none).map (fun st =>
          { code := code, codeSize := size, fileSize := 64 * 2 ^ regs, warps := bitsOf d 168 2 + 1, scratch := scratch,
            fuse := bitsOf d 171 1, pmem := bitsOf d 172 4, stations := st })

/-- What the checks of a launch read of a kernel's descriptor and station table, as addresses and sizes. -/
def State.kernelReads (s : State) (ctx kdesc : Nat) : List (Nat × Nat) := match s.readKernel ctx kdesc, s.ctxNat ctx kdesc 32 with
  | some k, some d => [(kdesc, 32), (bitsOf d 64 64, 16 + 48 * k.stations.length)]
  | _, _ => [(kdesc, 32)]

/-- The plots of a confinement, before the partition's are taken (R21): CONF 2 and 3 name no plot. -/
def LaunchRec.plots (r : LaunchRec) : Nat :=
  match r.conf with
  | 0 => 2 ^ r.unit
  | 1 => 3 * 4 ^ r.unit
  | _ => 255

/-- The checks of R383 for a context; `fabric` tells that FLNCH reads it, at the source or, with `target`, at the target. -/
def State.checkLaunch (s : State) (ctx : Nat) (r : LaunchRec) (fabric target : Bool) : Option Kernel :=
  match mget? s.ctxs ctx with
  | none => none
  | some x =>
    match mget? s.parts x.part with
    | none => none
    | some p =>
      let unitOk := match r.conf with
        | 0 => true
        | 1 => decide (r.unit ≤ 3)
        | _ => r.unit == 0
      if r.rsv || r.nwg == 0 || decide (2 ^ 24 < r.nwg) || decide (10 < r.ninit) || !unitOk || (r.conf == 3 && !fabric) || ((r.devm != 0) != (r.conf == 3)) ||
          r.pbase % 256 != 0 || r.kdesc % 32 != 0 then none
      else match s.readKernel ctx r.kdesc with
        | none => none
        | some k =>
          if (r.inits.take r.ninit).any (fun e => decide (k.fileSize ≤ bitsOf e 32 8)) || decide (carveWords x.carve * 4 < k.scratch) ||
              decide (p.pmemmax < k.pmem) || (k.fuse == 1 && !p.fuseok) ||
              ((!fabric || target) && decide (r.conf ≤ 1) && (r.plots &&& p.plots) != r.plots) then none
          else some k

/-- The plots of a partition on which its calls start: those that do not leave it (R430). -/
def State.stayingPlots (s : State) (part : Nat) : List Nat :=
  match mget? s.parts part with
  | some p => (bitsList 8 p.plots).filter (fun i => !(s.plot i).leaving)
  | none => []

/-- The engine of a call that would run on the first of some plots (R417): the first that does not leave its partition, else the
partition's lowest that does not (R430, assumption 80); none where every plot leaves. -/
def State.engineOf (s : State) (part : Nat) (plots : List Nat) : Option Nat :=
  match plots.find? (fun i => !(s.plot i).leaving) with
  | some i => some i
  | none => (s.stayingPlots part).head?

/-- Must a call wait for its engine: for one that stays in the partition, or for another call on it (R417, R430)? -/
def State.engineWaits (s : State) (engine : Option Nat) : Bool := match engine with
  | some i => s.engineBusy i
  | none => true

/-- The engine of an ENQ that no core asks for: of the lowest plot of a confinement that belongs to a partition (R417). -/
def State.lowestPlot (s : State) (part conf : Nat) : Option Nat :=
  match mget? s.parts part with
  | some p => s.engineOf part (bitsList 8 (conf &&& p.plots))
  | none => some 0

/-- The grid that a record launches (R382).  Its FMT stands as given but for reserved bits (assumption 87). -/
def LaunchRec.grid (r : LaunchRec) (s : State) (ctx : Nat) (k : Kernel) (qnum tagw : Nat) (launcher : Launcher) (wgs : List Nat) (held : Bool) :
    Grid :=
  { ctx := ctx, code := k.code, codeSize := k.codeSize, stations := k.stations, fileSize := k.fileSize, warps := k.warps, scratch := k.scratch,
    fuse := k.fuse, pmem := k.pmem, nwg := r.nwg, pbase := r.pbase, data := r.data,
    fmt := if r.fmtv then BitVec.ofNat 32 (bitsOf r.fmt 6 22 * 64) else Strand.idle.fmt,
    init := (r.inits.take r.ninit).map (fun e => (bitsOf e 32 8, BitVec.ofNat 32 (bitsOf e 0 32))), wepoch := s.wepoch, qnum := qnum, tagw := tagw, ptag := r.ptag,
    conf := r.plots, prio := 3, waiting := wgs, left := wgs.length, since := s.elapsed, launcher := launcher, heldPart := held }

/-- Ask the ENQ traverses about a grid (R385 step 4, R414): the decision where no level runs. -/
def State.enqGrid (s : State) (plot : Nat) (g : Grid) (asker : Asker) : State × Option (Option Nat) :=
  let part := match mget? s.ctxs g.ctx with
    | some x => x.part
    | none => 0
  let flags := match mget? s.ctxs g.ctx with
    | some x => if x.prot then 1 else 0
    | none => 0
  s.enqCall part plot g (s.workEntry plot s.gridSeq g none flags 1) asker

/-- Accept a grid (R385 step 5): it takes the next acceptance number. -/
def State.acceptGrid (s : State) (g : Grid) (prio : Nat) : State × Nat :=
  ({ s with grids := mset s.grids s.gridSeq { g with prio := prio }, gridSeq := s.gridSeq + 1 }, s.gridSeq)

/-! ### How a packet's step ends -/

/-- The address of the packet that a queue starts next (R433). -/
def Queue.packetAddr (q : Queue) : Nat := q.rbase + 64 * (q.qrd % 2 ^ q.rlog)

/-- A packet faults (R443, R444): its record goes out, and its queue waits for the answer. -/
def State.packetFault (s : State) (qnum : Nat) (q : Queue) (tag cause inner addr : Nat) : State :=
  let n := s.nextSeq q.ctx
  (s.post { Record.blank with kind := .packet, ctx := q.ctx, qnum := qnum, cause := cause, inner := inner, wh := q.qrd % 2 ^ 13, pc := q.packetAddr,
                              addr := addr, tagw := tag }).modQueue qnum (fun q => { q with pending := some n, block := none })

/-- A packet's step ends (R436). -/
def State.endStep (s : State) (qnum : Nat) : State :=
  s.modQueue qnum (fun q => { q with qrd := (q.qrd + 1) % 2 ^ 32, packet := none, block := none })

/-- A packet's step waits (R436). -/
def State.blockStep (s : State) (qnum : Nat) (b : Block) : State := s.modQueue qnum (fun q => { q with block := some b })

/-! ### Where a workgroup fits -/

/-- Does a slot's panel hold a warp, its own or the upper half of a pair's (R18)? -/
def Core.slotBusy (k : Core) (slot : Nat) : Bool :=
  k.warps.any (fun e => e.1 == slot || (e.2.panels == 2 && e.1 + 1 == slot))

/-- Slots where a warp of a file size may stand (R18). -/
def Core.freeSlots (k : Core) (fileSize : Nat) : List Nat :=
  if fileSize = 256 then [0, 2].filter (fun i => !k.slotBusy i && !k.slotBusy (i + 1)) else (upto 4).filter (fun i => !k.slotBusy i)

/-- Slots for warps, those with a pricking on panel pairs that have none, one to a pair (R273, R292). -/
def chooseSlots (free : List Nat) (pairsUsed : List Nat) : List (Nat × Bool) → Option (List (Nat × Nat))
  | [] => some []
  | (w, pricks) :: r =>
    match free.find? (fun i => !pricks || !pairsUsed.contains (i / 2)) with
    | none => none
    | some i => (chooseSlots (free.filter (· != i)) (if pricks then (i / 2) :: pairsUsed else pairsUsed) r).map (fun l => (w, i) :: l)

/-- Can an allocation start at a word (R265)? -/
def Core.roomAt (k : Core) (limit words base : Nat) : Bool :=
  base % 64 == 0 && decide (base + words ≤ limit) && k.allocs.all (fun a => decide (base + words ≤ a.base) || decide (a.base + a.words ≤ base) || a.words == 0)

/-- Where an allocation goes (R265): where the agenda says if it may, else the lowest place (assumption 24). -/
def Core.allocBase (k : Core) (limit words : Nat) (pick : Option Nat) : Option Nat :=
  if words = 0 then some 0
  else match pick.filter (k.roomAt limit words) with
    | some b => some b
    | none => ((upto (limit / 64)).map (· * 64)).find? (k.roomAt limit words)

/-- May the carve-out of a core change to a code now (R267)?  Every allocation must lie in what stays scratchpad. -/
def Core.canCarve (k : Core) (code : Nat) : Bool := k.allocs.all (fun a => a.words == 0 || decide (a.base + a.words ≤ carveWords code))

/-- The words in which a workgroup of a carve code may be allocated on a core (R265, R267): none in ways that are to leave the scratchpad,
whatever the code of the workgroup that comes. -/
def Core.allocLimit (k : Core) (code : Nat) : Nat :=
  if k.carve < k.carveTo then Nat.min (carveWords k.carveTo) (carveWords code) else carveWords code

/-- A place for a workgroup: the slot of each warp, and its allocation's first word. -/
structure Fit where
  slots : List (Nat × Nat)
  base : Nat
  deriving DecidableEq, Repr

/-- Workgroups resident on a plot. -/
def State.residents (s : State) (plot : Nat) : List (Nat × Workgroup) :=
  s.wgs.filter (fun e => match e.2.core with
    | some c => plotOf c == plot
    | none => false)

/-- The class that a context's workgroups give a plot (R24). -/
def classOf (ctx : Nat) (x : Context) : PlotClass := if x.prot then .prot ctx else .ordinary

/-- Does a plot's class admit a context, now or without a clear sequence (R24)? -/
def Plot.admits (p : Plot) (cl : PlotClass) : Bool := p.cls == .clean || p.cls == cl

/-- Do the plot settings of a kernel match a plot, or may they be applied (R270)? -/
def State.settingsFit (s : State) (plot : Nat) (g : Grid) : Bool :=
  let p := s.plot plot
  (p.fuse == g.fuse && p.pmem == g.pmem) || (s.residents plot).isEmpty

/-- Partitions whose work a CHKPT in its step holds (R453). -/
def State.chkptHolds (s : State) (part : Nat) : Bool := s.cmd.chkpts.any (fun c => hasBit c.parts part)

/-- May work of a grid be placed on a plot at all: its partition's, its confinement's, and no mark, departure or class against it
(R21 to R24, R186, R430, R453)? -/
def State.plotOpen (s : State) (plot : Nat) (g : Grid) : Bool :=
  match mget? s.ctxs g.ctx with
  | none => false
  | some x =>
    match mget? s.parts x.part with
    | none => false
    | some p =>
      let pl := s.plot plot
      hasBit p.plots plot && hasBit g.conf plot && !pl.sclr && !pl.leaving && pl.admits (classOf g.ctx x) && s.settingsFit plot g &&
        !g.heldPart && !s.chkptHolds x.part

/-- The accumulators that a saved workgroup keeps are free on a core (R333). -/
def Core.accFree (k : Core) (accs : List (Nat × Nat)) : Bool :=
  accs.all (fun a => (mget? k.accOwner a.1).isNone && !k.accReleasing.contains a.1)

/-- Where a workgroup of a grid fits on a core (R18, R19, R267, R270, R333); `saved` is its saved state if it has one. -/
def State.fits (s : State) (core : Nat) (g : Grid) (saved : Option Saved) : Option Fit :=
  match mget? s.ctxs g.ctx with
  | none => none
  | some x =>
    let k := s.core core
    if !s.plotOpen (plotOf core) g || !(k.carve == x.carve || k.canCarve x.carve) then none
    else
      let warps : List (Nat × Bool) := match saved with
        | some sv => (sv.warps.map (fun e => (e.1, (mget? sv.prickings e.1).isSome)))
        | none => (upto g.warps).map (fun i => (i, false))
      let ordered := warps.filter (fun e => e.2) ++ warps.filter (fun e => !e.2)
      let accOk := match saved with
        | some sv => k.accFree sv.accs
        | none => true
      if !accOk then none
      else match chooseSlots (k.freeSlots g.fileSize) (mkeys k.prickings) ordered, k.allocBase (k.allocLimit x.carve) (g.scratch / 4) s.placePick with
        | some sl, some b => some { slots := sl, base := b }
        | _, _ => none

/-- Move the ways of a core one after another until its carve-out has the given code (R267). -/
def State.carveTo (s : State) (core code : Nat) : Nat → State
  | 0 => s
  | n + 1 =>
    if (s.core core).carve = code then s
    else match execCarveWayMove core (s.modCore core (fun k => { k with carveTo := code })) with
      | .next s => s.carveTo core code n
      | _ => s

/-- Change the carve-out of a core for a workgroup that is placed on it; a change toward L1 that waits goes on to wait (R267). -/
def State.recarve (s : State) (core code : Nat) : State :=
  let k := s.core core
  let s := s.carveTo core code 5
  if k.carve < k.carveTo ∧ code < k.carveTo then s.modCore core (fun x => { x with carveTo := k.carveTo }) else s

/-- The state of a warp of a grid as it starts (R20, R70, R156, R382). -/
def Grid.newWarp (g : Grid) (wg index : Nat) (pc : DWord) : Warp :=
  { wg := wg, index := index, ctx := g.ctx, fileSize := g.fileSize, panels := if g.fileSize = 256 then 2 else 1, wbase := 0,
    regs := (upto 64).foldl (fun m t => g.init.foldl (fun m e => mput 0 m (256 * t + e.1) e.2) m) [], preds := [], ixs := [], latches := [],
    bad := [], latchBad := [], fpst := [], strands := List.replicate 16 { pc := pc, active := 15, stack := [], guardP := 0, guardInv := false, fmt := g.fmt },
    splits := [(0, { strands := 0xFFFF, status := .ready, age := 0, reserve := none, replay := none, sinceRequest := 0, stopped := none, fabric := false })],
    trapcause := 0, trappc := 0, trap := none, monitors := List.replicate 4 { line := 0, armed := false, fired := false }, batch := 0, batches := [],
    openBatch := 0, loads := 0, stores := 0, copies := 0, tiles := 0, cycles := 0, iiu := 0, tax := 0, guardSlots := [], attach := none, replays := [] }

/-- RATE of a core (R486). -/
def State.rate (s : State) (core : Nat) : Nat :=
  match s.partOfPlot (plotOf core) with
  | some p => mgetD s.pwr.prates p 0 * s.pwr.scale / 2 ^ 16
  | none => 0

/-- The allowance and the floor after n cycles of class C0 without an issue (R483): A only rises, so the cycles that end below 1,024 come
before those that end at 2,048 or above. -/
def allowanceIdle (a f : Int) (rate n : Nat) : Int × Int :=
  let step : Int := rate * 10
  let below := fun (x : Int) => if step = 0 then (if a < x then n else 0) else Nat.min n ((x - a - 1) / step).toNat
  (min 8192 (a + step * n), max 0 (min 8 (f + below 1024) - (n - below 2048 : Nat)))

/-- Whole cycles that a core has missed at a time were idle ones (R153): its warps were resident in them (R154), and it drew its rate. -/
def Core.idle (k : Core) (rate t : Nat) : Core :=
  let n := (t - k.clock) / 10
  let (a, f) := allowanceIdle k.allow k.floor rate n
  { k with
    allow := a, floor := f, clock := k.start t,
    warps := k.warps.map (fun x => (x.1, { x.2 with cycles := (x.2.cycles + n) % 2 ^ 64, splits := x.2.splits.map (fun e => (e.1, { e.2 with age := e.2.age + n })) })),
    prickings := k.prickings.map (fun p => (p.1, { p.2 with helpers := p.2.helpers.map (fun h => (h.1, { h.2 with age := h.2.age + n })) })) }

/-- The cores make up the cycles that they have missed, as time passes without them. -/
def State.catchUp (s : State) : State := { s with cores := s.cores.map (fun e => (e.1, e.2.idle (s.rate e.1) (36 * s.elapsed))) }

/-- Work comes to a core, whose missed cycles end before it does. -/
def State.enterCore (s : State) (core : Nat) : State := s.modCore core (fun k => k.idle (s.rate core) (36 * s.elapsed))

/-- Bring a plot to the settings, the class and the context of work that is placed on it (R24, R269, R270). -/
def State.enterPlot (s : State) (plot : Nat) (g : Grid) : State :=
  s.modPlot plot (fun p =>
    let keep := p.pmem == g.pmem && p.memCtx == some g.ctx
    { p with cls := (match mget? s.ctxs g.ctx with
               | some x => classOf g.ctx x
               | none => p.cls),
             fuse := g.fuse, pmem := g.pmem, mem := if keep then p.mem else [], memCtx := some g.ctx })

/-- Allocate and zero scratchpad for a workgroup (R20, R253). -/
def State.allocScratch (s : State) (core wg : Nat) (g : Grid) (base : Nat) : State :=
  let words := g.scratch / 4
  s.modCore core (fun k =>
    { k with scratch := k.scratch.filter (fun (e : Nat × Word) => decide (e.1 < base) || decide (base + words ≤ e.1)),
             scrBad := k.scrBad.filter (fun w => decide (w < base) || decide (base + words ≤ w)),
             allocs := k.allocs ++ [{ base := base, words := words, gen := k.gen, wg := wg, ctx := g.ctx, inbound := 0, released := none }] })

/-- An entry of a pending-launch queue frees (R384). -/
def State.freeEntry (s : State) (wg : Nat) (e : PendEntry) : State := s.modWg wg (fun g => { g with entries := g.entries.erase e })

/-- The grid has become wholly resident or has ended: its launcher's entry frees (R384). -/
def State.freeGridEntry (s : State) (gid : Nat) (g : Grid) : State :=
  match g.launcher with
  | .parent wg => s.freeEntry wg (.grid gid)
  | _ => s

/-- A warp takes a slot whose free lanes may be lent: they receive a release request (R276). -/
def State.askSlot (s : State) (core slot fileSize : Nat) : State :=
  let s := s.askLanes core slot 0xFFFF
  if fileSize = 256 then s.askLanes core (slot + 1) 0xFFFF else s

/-- Place a workgroup of a grid on a core (R19, R20, R267, R382), with its slice (R415).  What its launch happens after must be what it
reads (R139, R437): the core's L1 is made fresh as by an acquire of device scope. -/
def State.placeWg (s : State) (core gid index : Nat) (g : Grid) (f : Fit) (slice : Nat) : State :=
  let id := wgKey gid index
  let carve := match mget? s.ctxs g.ctx with
    | some x => x.carve
    | none => 1
  let s := (((s.enterCore core).recarve core carve).enterPlot (plotOf core) g).allocScratch core id g f.base
  let s := { s with placePick := none }
  let w : Workgroup :=
    { grid := gid, index := index, core := some core, slots := f.slots.map Prod.snd, barriers := [], preempt := none, reached := false, prio := g.prio, slice := slice,
      expired := none, wantTick := false, issued := 0, done := 0, entries := [], since := s.elapsed, saved := none, blocked := false }
  let s := ({ s with wgs := mset s.wgs id w } : State).acquire core .dev
  let s := f.slots.foldl (fun s e => (s.modCore core (fun k => k.setWarp e.2 (g.newWarp id e.1 (BitVec.ofNat 64 g.code)))).askSlot core e.2 g.fileSize) s
  let rest := g.waiting.erase index
  let s := s.modGrid gid (fun g => { g with waiting := rest })
  if rest.isEmpty then s.freeGridEntry gid g else s

/-! ### Ends -/

/-- Insert a waiter on a mailbox word in the order of R440. -/
def insertWaiter (w : MboxWaiter) : List MboxWaiter → List MboxWaiter
  | [] => [w]
  | x :: r =>
    let rank := fun (o : MboxOp) => match o with
      | .background _ _ _ => (0 : Nat)
      | .produce q _ => q + 1
      | .consume q _ => q + 1
    if x.since = w.since ∧ rank w.op < rank x.op then w :: x :: r else x :: insertWaiter w r

def State.pushWaiter (s : State) (part word : Nat) (op : MboxOp) : State :=
  { s with cmd := { s.cmd with mboxQ := insertWaiter { part := part, word := word, op := op, since := s.elapsed } s.cmd.mboxQ } }

/-- (DONE − n) mod 2^32 < 2^31 (R388). -/
def reached (done n : Nat) : Bool := decide ((done + 2 ^ 32 - n % 2 ^ 32) % 2 ^ 32 < 2 ^ 31)

/-- DONE of a workgroup rises (R386); one saved at a JOIN becomes ready when its count is reached (R388). -/
def State.doneUp (s : State) (wg : Nat) : State :=
  let now := s.elapsed
  s.modWg wg (fun g =>
    let done := (g.done + 1) % 2 ^ 32
    { g with done := done, saved := g.saved.map (fun sv => match sv.why with
        | .join n => if reached done n ∧ sv.ready = false ∧ sv.failed = none then { sv with ready := true, wantWake := true, since := now } else sv
        | _ => sv) })

/-- A grid completes (R386, R400, R439). -/
def State.completeGrid (s : State) (gid : Nat) (g : Grid) : State :=
  let s := ({ s with grids := mdel s.grids gid }).freeGridEntry gid g
  let part := match mget? s.ctxs g.ctx with
    | some x => x.part
    | none => 0
  match g.launcher with
  | .packet none => s
  | .packet (some (word, value)) => s.pushWaiter part word (.background g.qnum g.ctx value)
  | .parent wg => s.doneUp wg
  | .fabric dev p arg => (s.sendFrame dev p 0x14 arg []).1

/-- A workgroup has ended or is discarded (R148, R253, R333, R386): its allocation is released, its accumulators are free and its
grid counts it. -/
def State.wgGone (s : State) (id : Nat) : State :=
  match mget? s.wgs id with
  | none => s
  | some w =>
    let now := s.elapsed
    let s := match w.core with
      | some c => (s.forgetAccs c ((s.core c).accsOf id)).modCore c (fun k =>
          { k with allocs := k.allocs.map (fun (a : Alloc) => if a.wg = id ∧ a.released = none then { a with released := some now } else a),
                   accOwner := k.accOwner.filter (fun (e : Nat × Nat) => e.2 != id) })
      | none => s
    let s := { s with wgs := mdel s.wgs id, grids := s.grids.filter (fun e => !(e.2.heldPart && e.2.launcher == .parent id)) }
    match mget? s.grids w.grid with
    | none => s
    | some g =>
      let s := s.modGrid w.grid (fun g => { g with left := g.left - 1 })
      if g.left ≤ 1 then s.completeGrid w.grid { g with left := 0 } else s

/-- Is a matrix command the zeroing of an accumulator, which is performed whatever becomes of the warp (R355)? -/
def MatWork.isClear : MatWork → Bool
  | .clear _ _ => true
  | _ => false

/-- The head of a matrix queue reaches it now, if it has not before (R344). -/
def headFrom (now : Nat) : List MatCmd → List MatCmd
  | [] => []
  | q :: r => { q with headAt := some (q.headAt.getD now) } :: r

/-- Take a warp away with everything it has outstanding: its context or workgroup is discarded (R444, R448). -/
def State.dropWarp (s : State) (core slot : Nat) : State :=
  let now := s.elapsed
  let mine := fun (wg index : Nat) => (s.warp? core slot).any (fun w => wg == w.wg && index == w.index)
  let forget := fun (e : WcbEntry) => { e with owners := e.owners.filter (fun o => o.1 != slot), marks := e.marks.filter (fun m => !mine m.wg m.index) }
  let s : State := { s with
    fabOps := (s.fabOps.filter (fun f => f.entry.isSome || !mine f.wg f.index)).map (fun f => if f.core = core then { f with entry := f.entry.map forget } else f) }
  let s := s.modCore core (fun k =>
    { k with
      loadsPending := k.loadsPending.filter (fun x => x.slot != slot), storesPending := k.storesPending.filter (fun x => x.slot != slot),
      memQ := k.memQ.filter (fun x => x.slot != slot), copyQ := k.copyQ.filter (fun x => x.slot != slot),
      matQ := headFrom now (k.matQ.filter (fun x => x.slot != slot || x.work.isClear)), streamQ := k.streamQ.filter (fun x => x.slot != slot),
      stages := k.stages.filter (fun x => x.slot != slot), cooling := k.cooling.filter (fun x => x.slot != slot),
      wcb := k.wcb.map forget, drains := k.drains.map forget, lchQ := k.lchQ.filter (fun x => x.1 != slot),
      l1 := k.l1.filter (fun l => l.owner != some slot),
      prickings := (k.prickings.filter (fun e => e.2.slot != slot)).map (fun e =>
        (e.1, { e.2 with helpers := e.2.helpers.filter (fun h => h.2.lentFrom != slot) })),
      warps := mdel k.warps slot })
  let led := match (s.core (pairOfCore core)).hold with
    | some h => h.leader == core && !(s.core core).matQ.any (fun m => m.started)
    | none => false
  let s := if led then (s.modCore (pairOfCore core) (fun k => { k with hold := none })).pairUnstage core else s
  { s with remotes := s.remotes.filter (fun r => !(r.core == core && r.slot == slot)),
           hostReqs := s.hostReqs.filter (fun r => !(r.core == core && r.slot == slot && r.entry.isNone)) }

/-- Discard a workgroup (R444, R448), with the grids that its LNCH instructions have asked an ENQ about. -/
def State.discardWg (s : State) (id : Nat) : State :=
  match mget? s.wgs id with
  | none => s
  | some w =>
    let s := match w.core with
      | some c => w.slots.foldl (fun (s : State) slot => s.dropWarp c slot) s
      | none => s
    ({ s with pol := { s.pol with enqs := s.pol.enqs.filter (fun e => e.2.launcher != .parent id) } } : State).wgGone id

/-- Remove a grid that has not started, or what remains of one that is discarded: nothing is told of its completion (R401,
R448). -/
def State.dropGrid (s : State) (gid : Nat) : State :=
  match mget? s.grids gid with
  | none => s
  | some g => ({ s with grids := mdel s.grids gid }).freeGridEntry gid g

end Sys2Proof.Machine
end

