-- ==== Sys2Proof/Machine/Launch.lean ====
section
/-! DEFINITION. The launch engine: device-side launches, JOIN, group barriers and the issue of remote operations, one meaning for
each instruction (15_launch_engine.md R382 to R410). -/

namespace Sys2Proof.Machine

/-- The guard of the lowest active thread (R406). -/
def Iss.guardLow (c : Iss) (g : Bool) : Bool := !g || (match c.tids with
  | t :: _ => c.guard t
  | [] => false)

/-- A 32-bit operand of the lowest active thread. -/
def Iss.low (c : Iss) (o : Opnd) (n : Nat) : Nat := match c.tids with
  | t :: _ => c.read t o n
  | [] => 0

/-- Perform the release actions of a scope, then go on; the instruction waits for them (R139). -/
def releaseThen (s : State) (c : Iss) (sc : Scope) (k : State → State) : State :=
  match c.resumed with
  | some n => if s.releaseDone c sc n then k s else s.stall
  | none =>
    let n := s.nextId
    let s := s.takeId.releaseStart c sc
    if s.releaseDone c sc n then k s else s.park c (.instr n)

def State.wgOf (s : State) (c : Iss) : Option Workgroup := mget? s.wgs c.w.wg

/-- Entries taken in the pending-launch queue of the issuer's workgroup (R384). -/
def State.entriesOf (s : State) (c : Iss) : Nat := match s.wgOf c with
  | some w => w.entries.length
  | none => 0

/-- Count for the partition of the issuer's context. -/
def State.countCtx (s : State) (c : Iss) (k : Counter) : State :=
  match s.ctxOf c.w with
  | some x => s.count x.part k 1
  | none => s

/-- Read and check a launch record (R385 steps 2 and 3), `fabric` for FLNCH: the record's bytes and its kernel, or the state after the
cause that ends the instruction. -/
def State.readLaunch (s : State) (c : Iss) (va : Nat) (fabric : Bool) : Except State (State × List Byte × Kernel) :=
  match s.readRecord c va 128 with
  | (s, .error (e, a, pages)) => .error (if e = .pageAbsent then s.parkPages c pages (some (maskOf c.tids)) else s.takeTrap c e a)
  | (s, .ok bs) =>
    let r := LaunchRec.of (leNat bs)
    let t := s.noteReads c.w.ctx (s.kernelReads c.w.ctx r.kdesc)
    match s.checkLaunch c.w.ctx r fabric false with
    | none => .error (t.takeTrap c .launchRecord va)
    | some k => .ok (t, bs, k)

/-- The engine that decides an LNCH (R417, R430). -/
def State.launchEngine (s : State) (c : Iss) : Option Nat :=
  s.engineOf (match s.ctxOf c.w with
    | some x => x.part
    | none => 0) [plotOf c.core]

/-- Must it wait for that engine (R417)? -/
def State.launchBusy (s : State) (c : Iss) : Bool := s.engineWaits (s.launchEngine c)

/-- Steps 2 to 4 of R385: the checked grid with its PRIO, none where it is refused; or the state after the cause that ends the decision, or in
which the split waits for its ENQ. -/
def State.decideLaunch (s : State) (c : Iss) (va : Nat) : Except State (State × Grid × Option Nat) :=
  (s.readLaunch c va false).bind (fun r =>
    let q := r.1.rootTag c.w
    let rec' := LaunchRec.of (leNat r.2.1)
    let g := rec'.grid r.1 c.w.ctx r.2.2 q.1 q.2 (.parent c.w.wg) (upto rec'.nwg) true
    let id := r.1.nextId
    match r.1.enqGrid ((r.1.launchEngine c).getD 0) g (.warp c.core c.slot id) with
    | (s, some d) => .ok (s, g, d)
    | (s, none) => .error (({ s.takeId with pol := { s.pol with enqs := mset s.pol.enqs id g } } : State).park c (.enq id none)))

/-- The release actions of an accepted launch are complete (R385 step 5): it counts, and its workgroups may be placed. -/
def State.acceptLaunch (s : State) (c : Iss) (x : Opnd) (p gid : Nat) : State :=
  let issued := (match s.wgOf c with
    | some w => w.issued + 1
    | none => 1) % 2 ^ 32
  let (now, epoch) := (s.elapsed, s.wepoch)
  let s := s.modGrid gid (fun g => { g with heldPart := false, since := now, wepoch := epoch })
  let s := (s.modWg c.w.wg (fun w => { w with issued := issued })).countCtx c .lnacc
  (s.effsBy c (c.tids.flatMap (fun t => c.writeEffs t x 1 issued ++ [.pred t p true]))).finish c [p]

/-- Step 5 of R385: the release actions begin, and the grid takes its entry; it is accepted when they are complete, for which the split waits
under their number and, in its upper bits, the grid's. -/
def State.beginAccept (s : State) (c : Iss) (x : Opnd) (p : Nat) (g : Grid) (prio : Nat) : State :=
  let n := s.nextId
  let (s, gid) := (s.takeId.releaseStart c .dev).acceptGrid g prio
  let s := s.modWg c.w.wg (fun w => { w with entries := w.entries ++ [.grid gid] })
  if s.releaseDone c .dev n then s.acceptLaunch c x p gid else s.park c (.instr (n + 2 ^ 64 * gid))

/-- ENQ has decided about the grid of an LNCH (R385 steps 4 and 5). -/
def State.decidedLaunch (s : State) (c : Iss) (x : Opnd) (p va : Nat) (g : Grid) : Option Nat → State
  | none => s.takeTrap c .policyRefused va
  | some prio => s.beginAccept c x p g prio

/-- May an entry of the launch engine's queue not go on for now: its warp runs a trap handler in another split, or stands under a record
(assumption 90)? -/
def State.queueStuck (s : State) (core : Nat) (e : Nat × Who) : Bool := match s.warp? core e.1 with
  | none => true
  | some w => w.recordStopped || (match e.2 with
    | .split n => (match mget? w.splits n with
      | some sp => w.heldByTrap sp
      | none => true)
    | .helper _ => false)

/-- A command of the launch engine (R27): it acts at once where nothing waits before it, and else enters the core's queue of 16, which the
engine takes in the order of arrival; a full queue lets it not issue.  `busy` where the engine cannot take it now. -/
def launchTurn (busy : State → Iss → Bool) (k : State → Iss → State) (s : State) (c : Iss) : State :=
  let q := (s.core c.core).lchQ
  let me := (c.slot, c.who)
  if q.contains me then
    if busy s c || (q.takeWhile (· ≠ me)).any (fun e => !s.queueStuck c.core e) then s.stall
    else k (s.modCore c.core (fun x => { x with lchQ := q.erase me })) { c with split := c.split.map (fun sp => { sp with status := .ready }), charged := true }
  else if c.resumed.isSome || c.issued || (q.isEmpty && !busy s c) then k s c
  else if Config.queueDepth ≤ q.length then s.stall
  else (s.modCore c.core (fun x => { x with lchQ := q ++ [me] })).park c (.instr 0)

/-- A command that the engine can always take. -/
def neverBusy (_ : State) (_ : Iss) : Bool := false

/-- LNCH (R385, R407). -/
def execLnch (x a : Opnd) (p : Fin 64) (g : Bool) (s : State) : Result :=
  seqOps s false Iss.lowest [(a, 2)] (some (x, 1)) (launchTurn (fun s c => c.guardLow g && s.launchBusy c) (fun s c =>
    match c.asked with
    | some (_, none) => s.stall
    | some (id, some d) => (match mget? s.pol.enqs id with
      | some g => ({ s with pol := { s.pol with enqs := mdel s.pol.enqs id } } : State).decidedLaunch c x p.val (c.low a 2) g d
      | none => s.stall)
    | none =>
    if !c.guardLow g then s.finish c []
    else if c.sharedWrite c.tids x 1 then s.takeTrap c .sharedWrite 0
    else match c.resumed with
      | some n => if s.releaseDone c .dev (n % 2 ^ 64) then s.acceptLaunch c x p.val (n / 2 ^ 64) else s.stall
      | none =>
        if 4 ≤ s.entriesOf c then
          ((s.countCtx c .lnfull).effsBy c (c.tids.map (fun t => .pred t p.val false))).finish c [p.val]
        else if s.loadsWait c (s.recordAccs c (c.low a 2) 128) then s.stall
        else match s.recordFar c (c.low a 2) 128 with
        | some t => s.askRecord c t 128
        | none => match s.decideLaunch c (c.low a 2) with
          | .error s => s
          | .ok (s, g, d) => s.decidedLaunch c x p.val (c.low a 2) g d) s)

/-- The value of n that JOIN uses (R388). -/
def joinTarget (n issued : Nat) : Nat :=
  let d := (n + 2 ^ 32 - issued % 2 ^ 32) % 2 ^ 32
  if 1 ≤ d ∧ d < 2 ^ 31 then issued else n

/-- A pre-emption request for a workgroup (R161); one already made stands. -/
def State.askPreempt (s : State) (wg : Nat) (why : Why) : State :=
  s.modWg wg (fun w => if w.preempt.isSome || w.saved.isSome then w else { w with preempt := some why, reached := false })

/-- JOIN (R388, R389): with too few grids complete it parks and asks for its workgroup to be swapped out. -/
def execJoin (a : Opnd) (g : Bool) (s : State) : Result :=
  seqOps s false Iss.lowest [(a, 1)] none (launchTurn neverBusy (fun s c =>
    if !c.guardLow g then s.finish c []
    else
      let (issued, done) := match s.wgOf c with
        | some w => (w.issued, w.done)
        | none => (0, 0)
      let n := match c.resumed with
        | some m => m
        | none => joinTarget (c.low a 1) issued
      if reached done n then (s.acquire c.core .dev).finish c []
      else if c.resumed.isSome then s.stall
      else (s.park c (.instr n)).askPreempt c.w.wg (.join n)) s)

/-- LQW (R390). -/
def execLqw (g : Bool) (s : State) : Result :=
  seqOps s false Iss.lowest [] none (launchTurn neverBusy (fun s c =>
    if !c.guardLow g then s.finish c []
    else if s.entriesOf c < 4 then s.finish c []
    else s.await c 0) s)

/-! ### Fabric launches -/

/-- The status word of Table 15-7 from the answers of the targets: 0 accepts, else the reason. -/
def flnchStatus (answers : NatMap Nat) : Nat :=
  let acc := maskOf ((answers.filter (fun e => e.2 == 0)).map Prod.fst)
  let rsn := match answers.find? (fun e => e.2 != 0) with
    | some e => e.2
    | none => 0
  acc % 2 ^ 16 * 2 ^ 16 + rsn % 16 * 16

/-- Give a waiting split the answer with a number (R398, R409). -/
def State.giveReply (s : State) (core slot id v : Nat) : State :=
  s.modWarp core slot (fun w => { w with splits := w.splits.map (fun e => (e.1, match e.2.status with
    | .parked (.reply i none) => if i = id then { e.2 with status := .parked (.reply i (some v)) } else e.2
    | _ => e.2)) })

/-- Every target of a fabric launch has answered within its time: commits go out and the issuer has its answer (R400, R401). -/
def State.answerLaunch (s : State) (f : FabLaunch) : State :=
  let acc := (f.answers.filter (fun e => e.2 == 0)).map Prod.fst
  let s := acc.foldl (fun (s : State) d => (s.sendFrame d f.part 0x12 f.arg []).1) s
  let s := s.freeEntry f.wg (.flnch f.id)
  let issued := (match mget? s.wgs f.wg with
    | some w => w.issued + 1
    | none => 1) % 2 ^ 32
  let s := if acc.isEmpty then s
    else (s.modWg f.wg (fun w => { w with issued := issued })).count f.part .lnacc 1
  let keep := s.fab.launches.filter (fun l => l.id != f.id)
  let s := { s with fab := { s.fab with launches := if acc.isEmpty then keep else keep ++ [{ f with committed := true, open_ := acc }] } }
  s.giveReply f.core f.slot f.id (flnchStatus f.answers + 2 ^ 32 * issued + (if acc.isEmpty then 0 else 2 ^ 64))

/-- An answer to a fabric launch (R401). -/
def State.launchAnswer (s : State) (f : FabLaunch) (dev rsn : Nat) : State :=
  let f' := { f with answers := mset f.answers dev rsn }
  let s := { s with fab := { s.fab with launches := s.fab.launches.map (fun l => if l.id = f.id then f' else l) } }
  if f'.targets.all (fun d => (mget? f'.answers d).isSome) then s.answerLaunch f' else s

/-- The payload of a LAUNCH frame: the record, TGTQ and the sender's key (Table 15-16; their places are assumption 25). -/
def launchPayload (bytes : List Byte) (tgtq key : Nat) : List Byte := bytes ++ leBytes 2 tgtq ++ leBytes 2 key

/-- Send a fabric launch to its targets (R398); a part for an absent device is refused with RSN 1 (R397). -/
def State.sendLaunch (s : State) (c : Iss) (bytes : List Byte) (targets : List Nat) (tgtq : Nat) : State :=
  let q := s.rootTag c.w
  let id := s.nextId
  let arg := match s.wgOf c with
    | some w => w.issued
    | none => 0
  let (part, key) := match s.ctxOf c.w with
    | some x => (x.part, x.key)
    | none => (0, 0)
  let here := targets.filter s.devPresent
  let f : FabLaunch :=
    { id := id, arg := arg, core := c.core, slot := c.slot, ctx := c.w.ctx, part := part, wg := c.w.wg, qnum := q.1, tagw := q.2, targets := targets,
      answers := ((targets.filter (fun d => !s.devPresent d)).map (fun d => (d, 1))).foldl (fun m e => mset m e.1 e.2) [], since := s.elapsed, timedOut := false, lost := [],
      open_ := [], committed := false }
  let s := (s.takeId.modWg c.w.wg (fun w => { w with entries := w.entries ++ [.flnch id] })).park c (.reply id none)
  let s := { s with fab := { s.fab with launches := s.fab.launches ++ [f] } }
  let s := here.foldl (fun (s : State) d => (s.sendFrame d part 0x10 arg (launchPayload bytes tgtq key)).1) s
  if here.isEmpty then s.answerLaunch f else s

/-- Send a fabric launch whose record has been read, or refuse it where the pending-launch queue is full (R398). -/
def State.trySend (s : State) (c : Iss) (x : Opnd) (bytes : List Byte) (tw : Nat) : State :=
  let r := LaunchRec.of (leNat bytes)
  if 4 ≤ s.entriesOf c then
    ((s.countCtx c .lnfull).effsBy c (c.tids.flatMap (fun t => (c.writeEffs t x 2 0x80).take 1))).finish c []
  else s.sendLaunch c bytes (if r.conf = 3 then bitsList 16 r.devm else [bitsOf tw 28 4]) (bitsOf tw 0 10)

/-- The release actions before a fabric launch goes out (R139): the split waits for them under their number and, in its upper bits, the
record. -/
def State.beginSend (s : State) (c : Iss) (x : Opnd) (bytes : List Byte) (tw : Nat) : State :=
  if 4 ≤ s.entriesOf c then s.trySend c x bytes tw
  else
    let n := s.nextId
    let s := s.takeId.releaseStart c .dom
    if s.releaseDone c .dom n then s.trySend c x bytes tw else s.park c (.instr (n + 2 ^ 64 * leNat bytes))

/-- FLNCH (R398 to R401, R408). -/
def execFlnch (x a b : Opnd) (g : Bool) (s : State) : Result :=
  seqOps s false Iss.lowest [(a, 2), (b, 1)] (some (x, 2)) (launchTurn neverBusy (fun s c =>
    match c.replied with
    | some none => s.stall
    | some (some v) =>
      (s.effsBy c (c.tids.flatMap (fun t => (c.writeEffs t x 2 (v % 2 ^ 64)).take (if 2 ^ 64 ≤ v then 2 else 1)))).finish c []
    | none =>
      if !c.guardLow g then s.finish c []
      else if c.sharedWrite c.tids x 2 then s.takeTrap c .sharedWrite 0
      else if bitsOf (c.low b 1) 10 18 ≠ 0 then s.takeTrap c .illegalOp 0
      else match c.resumed with
        | some n => if s.releaseDone c .dom (n % 2 ^ 64) then s.trySend c x (leBytes 128 (n / 2 ^ 64)) (c.low b 1) else s.stall
        | none =>
          if s.loadsWait c (s.recordAccs c (c.low a 2) 128) then s.stall
          else match s.recordFar c (c.low a 2) 128 with
          | some t => s.askRecord c t 128
          | none => match s.readLaunch c (c.low a 2) true with
            | .error s => s
            | .ok (s, bs, _) => s.beginSend c x bs (c.low b 1)) s)

/-! ### Group barriers -/

/-- Fields of a membership pair (Table 15-5). -/
def pairPlots (p : Nat) : Nat := bitsOf p 0 8
def pairExp (p : Nat) : Nat := bitsOf p 8 20
def pairDom (p : Nat) : Bool := hasBit p 31
def pairDevs (p : Nat) : Nat := bitsOf p 32 16

/-- A group of a partition (Table 15-4). -/
def State.group (s : State) (key : Nat) : Group := mgetD s.groups key Group.none

def State.setGroup (s : State) (key : Nat) (g : Group) : State := { s with groups := mput Group.none s.groups key g }

/-- Is a group configured (R391)? -/
def Group.configured (g : Group) : Bool := pairPlots g.pair != 0 || pairDom g.pair

/-- The scope of a group's release and acquire actions (R409). -/
def Group.scope (g : Group) : Scope := if pairDom g.pair then .dom else .dev

/-- Has a generation been passed (R409)? -/
def passed (gen n : Nat) : Bool :=
  let d := (gen + 2 ^ 32 - n % 2 ^ 32) % 2 ^ 32
  decide (1 ≤ d ∧ d < 2 ^ 31)

/-- The waits on a group that has been unconfigured take BARRIER, but for those whose generation has been passed, which wake (R392, R393). -/
def Wait.groupBad (key gen : Nat) : Wait → Wait
  | .gwait k n bad => .gwait k n (bad || (k == key && !passed gen n))
  | w => w

/-- Change the waits of every warp of the device, those saved included. -/
def State.mapWaits (s : State) (f : Wait → Wait) : State :=
  { s with cores := s.cores.map (fun e => (e.1, { e.2 with warps := e.2.warps.map (fun w => (w.1, w.2.mapWaits f)) })),
           wgs := s.wgs.map (fun e => (e.1, { e.2 with saved := e.2.saved.map (fun sv => { sv with warps := sv.warps.map (fun w => (w.1, w.2.mapWaits f)) }) })) }

/-- Does a saved warp wait at GWAIT for a generation that has passed? -/
def Warp.gwaitMet (w : Warp) (key gen : Nat) : Bool :=
  w.splits.any (fun e => match e.2.status with
    | .parked (.gwait k n bad) => k == key && (bad || passed gen n)
    | _ => false)

/-- A workgroup saved by BLOCK becomes ready when a generation that it awaits completes (R497). -/
def State.wakeSaved (s : State) (met : Warp → Bool) : State :=
  { s with wgs := s.wgs.map (fun e => (e.1, { e.2 with saved := e.2.saved.map (fun sv =>
      if sv.why = .block ∧ sv.ready = false ∧ sv.failed = none ∧ sv.warps.any (fun w => met w.2) then { sv with ready := true, wantWake := true, since := s.elapsed }
      else sv) })) }

/-- The pending pair becomes current (R393); one that unconfigures the group fails its waiters. -/
def State.settleGroup (s : State) (key : Nat) : State :=
  let g := s.group key
  match g.pend with
  | none => s
  | some p =>
    let s := s.setGroup key { g with pair := p, pend := none }
    if pairPlots p = 0 ∧ pairDom p = false then
      (s.mapWaits (Wait.groupBad key g.gen)).wakeSaved (fun w => w.gwaitMet key g.gen)
    else s

/-- An arrival counts into the current generation of a group (R392): the new state and the generation joined. -/
def State.countArrival (s : State) (key : Nat) : State × Nat :=
  let g := s.group key
  if g.count + 1 < pairExp g.pair then (s.setGroup key { g with count := g.count + 1 }, g.gen)
  else
    let gen := (g.gen + 1) % 2 ^ 32
    let s := (s.setGroup key { g with count := 0, gen := gen }).settleGroup key
    let s := s.wakeSaved (fun w => w.gwaitMet key gen)
    let part := key / 64
    let others := if pairDom g.pair then (bitsList 16 (pairDevs g.pair)).filter (· != s.fab.dev) else []
    (others.foldl (fun (s : State) d => (s.sendFrame d part 0x21 (key % 64 + 2 ^ 32 * gen) []).1) s, g.gen)

/-- The home of a domain-wide group (R394). -/
def pairHome (p : Nat) : Nat := (bitsList 16 (pairDevs p)).headD 0

/-- A member sends an arrival on to the home, which counts it; the member counts it as one of its own in the generation (R393, assumption
77).  The arrival stays listed until its frame is acknowledged. -/
def State.sendArrival (s : State) (n : Nat) (a : Arrival) (key : Nat) : State :=
  let g := s.group key
  let home := pairHome g.pair
  let r := s.sendFrame home a.part 0x20 (key % 64 + 2 ^ 32 * g.gen) []
  ({ r.1 with arrivals := s.arrivals.take n ++ { a with sent := some (home, r.2) } :: s.arrivals.drop n } : State).setGroup key { g with count := g.count + 1 }

/-- GROUP_ARRIVAL (R392, R394): the n-th arrival on its way reaches its group, or goes on to the home device. -/
def execGroupArrival (n : Nat) (s : State) : Result :=
  match s.arrivals[n]? with
  | none => .next s
  | some a =>
    if a.sent.isSome then .next s
    else
    let s := { s with arrivals := dropAt s.arrivals n }
    let key := 64 * a.part + a.group
    let g := s.group key
    let answer := fun (r : State × Nat) => match a.from? with
      | some (core, slot) => r.1.giveReply core slot a.id r.2
      | none => r.1
    match a.dev with
    | some d =>
      if pairDom g.pair && hasBit (pairDevs g.pair) d then .next (s.countArrival key).1 else .next (s.count a.part .gbdrop 1)
    | none =>
      if !hasBit (pairPlots g.pair) a.plot then .next (answer (s.count a.part .gbdrop 1, g.gen))
      else if pairDom g.pair && pairHome g.pair != s.fab.dev then
        .next (answer (s.sendArrival n a key, g.gen))
      else .next (answer (s.countArrival key))

/-- The key of the group that an operand names in the issuer's partition; none where bits [31:6] are not 0 (R409). -/
def State.groupKey (s : State) (c : Iss) (v : Nat) : Option Nat :=
  if 64 ≤ v then none
  else some (64 * (match s.ctxOf c.w with
    | some x => x.part
    | none => 0) + v)

/-- GARR (R409). -/
def execGarr (x a : Opnd) (g : Bool) (s : State) : Result :=
  seqOps s false Iss.lowest [(a, 1)] (some (x, 1)) (launchTurn neverBusy (fun s c =>
    match c.replied with
    | some none => s.stall
    | some (some v) => (s.effsBy c (c.tids.flatMap (fun t => c.writeEffs t x 1 v))).finish c []
    | none =>
      if !c.guardLow g then s.finish c []
      else match s.groupKey c (c.low a 1) with
        | none => s.takeTrap c .illegalOp 0
        | some key =>
          if c.sharedWrite c.tids x 1 then s.takeTrap c .sharedWrite 0
          else if c.resumed.isNone && !(s.group key).configured then s.takeTrap c .barrier 0
          else releaseThen s c (s.group key).scope (fun s =>
            let id := s.nextId
            let ar : Arrival := { part := key / 64, group := key % 64, plot := plotOf c.core, dev := none, from? := some (c.core, c.slot), id := id, sent := none }
            ({ s.takeId with arrivals := s.arrivals ++ [ar] }).park c (.reply id none))) s)

/-- GWAIT (R409). -/
def execGwait (x a b : Opnd) (g : Bool) (s : State) : Result :=
  seqOps s false Iss.lowest [(a, 1), (b, 1)] (some (x, 1)) (launchTurn neverBusy (fun s c =>
    let parked := match c.split with
      | some sp => (match sp.status with
        | .parked (.gwait k n bad) => some (k, n, bad)
        | _ => none)
      | none => none
    let go := fun (s : State) (key n : Nat) (wait : Bool) =>
      let gr := s.group key
      if passed gr.gen n then
        ((s.acquire c.core gr.scope).effsBy c (c.tids.flatMap (fun t => c.writeEffs t x 1 gr.gen))).finish c []
      else if wait then s.stall
      else s.park c (.gwait key n false)
    match parked with
    | some (_, _, true) => s.takeTrap c .barrier 0
    | some (k, n, false) => go s k n true
    | none =>
      if !c.guardLow g then s.finish c []
      else match s.groupKey c (c.low a 1) with
        | none => s.takeTrap c .illegalOp 0
        | some key =>
          if c.sharedWrite c.tids x 1 then s.takeTrap c .sharedWrite 0
          else if !(s.group key).configured then s.takeTrap c .barrier 0
          else go s key (c.low b 1) false) s)

/-- A membership pair that GMEM refuses (R397, R409). -/
def State.badPair (s : State) (part p : Nat) : Bool :=
  let plots := match mget? s.parts part with
    | some x => x.plots
    | none => 0
  (pairPlots p &&& plots) != pairPlots p || bitsOf p 28 3 != 0 || bitsOf p 48 16 != 0 ||
    (pairDom p && !hasBit (pairDevs p) s.fab.dev) || (!pairDom p && pairDevs p != 0) || (pairExp p == 0 && p != 0) ||
    (bitsList 16 (pairDevs p)).any (fun d => d != s.fab.dev && !s.devPresent d)

/-- GMEM (R393, R409). -/
def execGmem (a b : Opnd) (g : Bool) (s : State) : Result :=
  seqOps s false Iss.lowest [(a, 1), (b, 2)] none (launchTurn neverBusy (fun s c =>
    if !c.guardLow g then s.finish c []
    else match s.groupKey c (c.low a 1) with
      | none => s.takeTrap c .illegalOp 0
      | some key =>
        let p := c.low b 2
        if s.badPair (key / 64) p then s.takeTrap c .barrier 0
        else
          let gr := s.group key
          let s := s.setGroup key { gr with pend := some p }
          (if gr.count = 0 then s.settleGroup key else s).finish c []) s)

/-! ### Remote operations -/

/-- The checks of one unit of a remote operation (R402): alignment, then a page that is a window page. -/
def State.fabCheck (s : State) (c : Iss) (kind : AccessKind) (va align n t : Nat) (data : List Byte) (dests : List (Nat × RegLoc)) :
    Except MemCause (List Access) :=
  if va % align ≠ 0 then .error (.align, va)
  else match s.xlate c kind va with
    | .error e => .error e
    | .ok tg =>
      if tg.space = .fabric then .ok [{ t := t, space := .fabric, addr := tg.pa, n := n, data := data, dests := dests, aux := tg.key }]
      else .error (.pagePerm, va)

/-- Give the remote operations of an instruction to the fabric interface (R403). -/
def State.issueFab (s : State) (c : Iss) (m : MemSpec) (ps : List Nat) (kind : FabKind) (accs : List Access) : State :=
  let ex := c.exec m.g
  let accs := (accs.map (fun a => { a with dests := a.dests.filter (fun d => ex.contains d.1) })).filter
    (fun a => ex.any (fun t => if m.u then t / 4 == a.t / 4 else t == a.t))
  if accs.isEmpty then s
  else
    let cid := s.nextId
    let part := match s.ctxOf c.w with
      | some x => x.part
      | none => 0
    let s := s.takeId.takeSlots c ps
    let s := match m.cls with
      | some cl => s.addCounter c.core c.slot c.who cl 1
      | none => s
    let s := s.noteReplay c cid
    let op := fun (a : Access) =>
      ({ cid := cid, core := c.core, slot := c.slot, who := c.who, wg := c.w.wg, index := c.w.index, t := a.t, qnum := (s.rootTag c.w).1,
         tagw := (s.rootTag c.w).2, ctx := c.w.ctx, part := part, dev := fabricDev a.addr, kind := kind, arg := fabricArg a.addr,
         n := a.n, data := a.data, dests := a.dests, ext := .none, co := true, seq := none, since := s.elapsed, guardPend := ps, acquire := none } : FabOp)
    let s : State := { s with fabOps := s.fabOps ++ accs.map op }
    s.sendFab

/-- A fab form (R402, R403, R410). -/
def fabAccess (m : MemSpec) (s : State) (a : Opnd) (kind : FabKind) (acc : AccessKind) (align n : Nat) (data : Option (Opnd × Nat)) : Result :=
  withIss s (fun c => memPrologue m s c (fun ps =>
    let units := c.units m.u (c.verdictTids m.g ps)
    let va := fun (t : Nat) => c.read (srcTid m.u t) a 2
    let check := fun (un : Nat × List Nat) =>
      s.fabCheck c acc (va un.1) align n un.1
        (match data with
          | some d => leBytes (4 * d.2) (c.read (srcTid m.u un.1) d.1 d.2)
          | none => [])
        (match m.dst with
          | some d => c.destsOf un.2 d.1 d.2
          | none => [])
    let v := decideVerdict (units.map (fun un => (un, check un)))
    (s.fillTlbs c (units.map (fun un => va un.1))).settle c v (fun s => s.issueFab c m ps kind v.go)))

/-- FWR (R410). -/
def execFwr (x a : Opnd) (g u : Bool) (s : State) : Result :=
  fabAccess { inHelper := false, g := g, u := u, cls := some .stores, srcs := [(a, 2), (x, 4)], dst := none, fab := true } s a .wr .store 16 16 (some (x, 4))

/-- FRD (R410). -/
def execFrd (x a : Opnd) (g u : Bool) (s : State) : Result :=
  fabAccess { inHelper := false, g := g, u := u, cls := some .loads, srcs := [(a, 2)], dst := some (x, 4), dstLast := true, fab := true } s a .rd .load 16 16 none

/-- FSIG (R404, R410). -/
def execFsig (a b : Opnd) (g u : Bool) (s : State) : Result :=
  fabAccess { inHelper := false, g := g, u := u, cls := none, srcs := [(a, 2), (b, 2)], dst := none, fab := true } s a .sig .store 8 8 (some (b, 2))

/-- FATOM (R410). -/
def execFatom (x a b : Opnd) (g u : Bool) (s : State) : Result :=
  fabAccess { inHelper := false, g := g, u := u, cls := some .loads, srcs := [(a, 2), (b, 4)], dst := some (x, 2), dstLast := true, fab := true } s a .atom .atomic 8 8 (some (b, 4))

end Sys2Proof.Machine
end

