-- ==== Sys2Proof/Machine/FabricEvents.lean ====
section
/-! DEFINITION. Etrak Fabric Transport, the receiving side: one meaning for each kind of frame, and the timers of the fabric
interface (15_launch_engine.md R394 to R405, 17_command_processors.md R451). -/

namespace Sys2Proof.Machine

/-! ### Coherence of accesses that come from outside -/

/-- A forced publish of a line for an agent outside the cores, completed at once (R132). -/
def State.publishOutside (s : State) (part : Option Nat) (line : Nat) : State :=
  let ts := (upto 8).flatMap (fun plot => s.publishTo plot (lineNum .hbm (line * 128)) none)
  if ts.isEmpty then s
  else ts.foldl (fun (s : State) c => s.performDrains c (s.core c).drains.length) (s.publish part ts)

/-- Forced publishes for a range of HBM. -/
def State.publishRange (s : State) (part : Option Nat) (pa n : Nat) : State :=
  (((upto n).map (fun i => (pa + i) / 128)).dedup).foldl (fun (s : State) l => s.publishOutside part l) s

/-! ### Receiving a frame -/

/-- Fill the registers of a remote operation and complete it (R410); an LDA of a window page acquires (R126). -/
def State.fabAnswer (s : State) (f : FabOp) (bs : List Byte) : State :=
  let s := if f.acquire.isSome then s.ldaAcquire f.core .dom [] else s
  (s.fabFill f (fillDests f.dests (loadWords f.ext bs)) bs).fabDone f

/-- Is a SEQ below an acknowledgement, in a space of 32 bits that wraps (R396)? -/
def seqBelow (seq ack : Nat) : Bool := decide (1 ≤ (ack + 2 ^ 32 - seq % 2 ^ 32) % 2 ^ 32 ∧ (ack + 2 ^ 32 - seq % 2 ^ 32) % 2 ^ 32 < 2 ^ 31)

/-- The acknowledgement that a frame carries (R396): acknowledged WR and SIG frames are performed, and arrivals at their home. -/
def State.takeAck (s : State) (dev part ack : Nat) : State :=
  let x := s.stream dev part
  let done := x.unacked.filter (fun f => seqBelow f.seq ack)
  if done.isEmpty then s
  else
    let s := s.setStream dev part { x with unacked := x.unacked.filter (fun f => !seqBelow f.seq ack), progress := s.elapsed, tries := 0 }
    let s : State := { s with arrivals := s.arrivals.filter (fun a => !(a.part == part && done.any (fun f => a.sent == some (dev, f.seq)))) }
    let ops := done.filterMap (fun f => if f.kind = 1 ∨ f.kind = 4 then
      s.fabOps.find? (fun o => o.dev == dev && o.part == part && o.seq == some f.seq) else none)
    (ops.foldl (fun (s : State) o => s.fabDone o) s).sendFab

/-- Is a frame EFT for this domain and device (R395)? -/
def State.frameOk (s : State) (f : Frame) : Bool :=
  s.devPresent f.sdev && f.tdev == s.fab.dev && decide (f.payload.length ≤ 8192) && decide (f.spart < 8)

/-- Discard a frame (R395). -/
def State.dropFrame (s : State) : State := { s with fab := { s.fab with dropped := s.fab.dropped + 1 } }

/-- A frame of a kind arrives (R396): it is acknowledged and delivered in the order of its stream, once. -/
def receive (kind : Nat) (f : Frame) (s : State) (deliver : State → State) : Result :=
  if f.kind ≠ kind then .next s
  else if !s.frameOk f then .next s.dropFrame
  else
    let s := s.takeAck f.sdev f.spart f.ack
    let x := s.stream f.sdev f.spart
    if f.seq ≠ x.expect then .next s
    else
      let due := match x.due with
        | some t => some t
        | none => some s.elapsed
      .next (deliver (s.setStream f.sdev f.spart { x with expect := (x.expect + 1) % 2 ^ 32, due := due }))

/-- The window that a remote access goes through, or the reason to refuse it (R405, R451). -/
def State.window (s : State) (arg : Nat) (kind : AccessKind) : Except Nat (WinEntry × Nat) :=
  match (s.fab.wintab.find? (fun e => e.2.v && e.2.page == arg / 4096 % 2 ^ 36)).map Prod.snd with
  | none => .error 1
  | some e =>
    let ok := match kind with
      | .load => e.r
      | .store => e.w
      | _ => e.r && e.w
    if !ok then .error 2
    else if (mget? s.parts e.part).isNone then .error 3
    else .ok (e, e.pa * 2 ^ 17 + arg % 4096)

/-- Refuse a remote access (Table 15-16). -/
def State.refuse (s : State) (f : Frame) (reason : Nat) : State := (s.sendFrame f.sdev f.spart 0x07 f.seq [BitVec.ofNat 8 reason]).1

/-- Make a remote access through its window, or refuse it. -/
def State.throughWindow (s : State) (f : Frame) (kind : AccessKind) (publish : Bool) (n : Nat) (k : State → WinEntry → Nat → State) : State :=
  match s.window f.arg kind with
  | .error r => s.refuse f r
  | .ok (e, pa) =>
    let s := s.meter e.part .fabin f.payload.length
    k (if !publish then s else s.publishRange (some e.part) pa n) e pa

/-- The core number by which a release tag names a release of another device: beyond every core of this one. -/
def remoteCore (dev : Nat) : Nat := 2048 * (dev + 1)

/-- A line that a release of another device has written carries its tag (R124, R128, R404, assumption 100). -/
def State.remoteTag (s : State) (dev pa : Nat) (sc : Scope) : State :=
  let dk := lineKey 0 .hbm pa
  s.setDir dk { s.dirLine dk with tag := some (remoteCore dev, sc) }

/-- The bytes of a WR frame, and the scope of the STL among what it carries of the LS path (assumption 21). -/
def lsStore (p : List Byte) : List Byte × Option Scope :=
  if p.length % 16 = 0 then (p, none)
  else match p with
    | sc :: n :: bs => (bs.take n.toNat, [Scope.thr, .str, .wrp, .wkg, .pai, .plo, .pcl, .dev, .sys, .dom][sc.toNat - 1]?.filter (fun _ => sc != 0))
    | bs => (bs, none)

/-- EFT_WR (R402, R410): data of consecutive 16-byte words, or what a buffer entry held (assumption 21). -/
def execEftWr (f : Frame) (s : State) : Result :=
  receive 0x01 f s (fun s => s.throughWindow f .store false f.payload.length (fun s e pa =>
    let w := lsStore f.payload
    let s := s.performWrite 0 .hbm e.key pa w.1
    match w.2 with
    | some sc => s.remoteTag f.sdev pa sc
    | none => s))

/-- EFT_RD (R402, R410). -/
def execEftRd (f : Frame) (s : State) : Result :=
  let n := leNat f.payload
  receive 0x02 f s (fun s => s.throughWindow f .load true n (fun s e pa => (s.sendFrame f.sdev f.spart 0x03 f.seq (s.hbmRead e.key pa n)).1))

/-- The outstanding operation that an answer is for. -/
def State.answered (s : State) (f : Frame) : Option FabOp :=
  s.fabOps.find? (fun o => o.dev == f.sdev && o.part == f.spart && o.seq == some f.arg)

/-- EFT_RDRSP (R410). -/
def execEftRdrsp (f : Frame) (s : State) : Result :=
  receive 0x03 f s (fun s => match s.answered f with
    | some o => if o.kind = .rd then ((s.meter f.spart .fabin f.payload.length).fabAnswer o f.payload).sendFab else s
    | none => s)

/-- EFT_SIG (R404): a 64-bit atomic add, with which an acquire that reads the sum synchronises. -/
def execEftSig (f : Frame) (s : State) : Result :=
  receive 0x04 f s (fun s => s.throughWindow f .store true 8 (fun s e pa =>
    (s.performWrite 0 .hbm e.key pa (leBytes 8 ((leNat (s.hbmRead e.key pa 8) + leNat f.payload) % 2 ^ 64))).remoteTag f.sdev pa .dom))

/-- The operations of an LS-path atomic by their number in an ATOM frame (assumption 21). -/
def atomOps : List AtomOp := [.add, .incw, .exch, .cas, .min, .max, .minu, .maxu, .and, .or, .xor]

/-- EFT_ATOM (R402, R410): a 64-bit compare and swap; a frame of an LS-path atomic names its operation on 32 bits. -/
def execEftAtom (f : Frame) (s : State) : Result :=
  receive 0x05 f s (fun s => s.throughWindow f .atomic true 8 (fun s e pa =>
    match f.payload with
    | op :: r =>
      if f.payload.length = 16 then
        let old := s.hbmRead e.key pa 8
        let s := if old = f.payload.take 8 then s.performWrite 0 .hbm e.key pa (f.payload.drop 8) else s
        (s.sendFrame f.sdev f.spart 0x06 f.seq old).1
      else
        let old := s.hbmRead e.key pa 4
        let new := match atomOps[op.toNat]? with
          | some o => o.apply (bytesWord old) (bytesWord (r.take 4)) (bytesWord (r.drop 4))
          | none => bytesWord old
        ((s.performWrite 0 .hbm e.key pa (leBytes 4 new.toNat)).sendFrame f.sdev f.spart 0x06 f.seq old).1
    | [] => s))

/-- EFT_ATOMRSP (R410). -/
def execEftAtomrsp (f : Frame) (s : State) : Result :=
  receive 0x06 f s (fun s => match s.answered f with
    | some o => (match o.kind with
      | .atom | .amo _ => ((s.meter f.spart .fabin f.payload.length).fabAnswer o f.payload).sendFab
      | _ => s)
    | none => s)

/-- EFT_REFUSE (R405).  The refused operation fails before the acknowledgement that the frame carries, which covers its frame, is taken. -/
def execEftRefuse (f : Frame) (s : State) : Result :=
  let now := decide (f.kind = 0x07) && s.frameOk f && f.seq == (s.stream f.sdev f.spart).expect
  receive 0x07 f (match now, s.answered f with
    | true, some o => s.fabFail o
    | _, _ => s) (fun s => s.sendFab)

/-! ### Fabric launches -/

/-- Parts of fabric launches that a queue holds (R399 test 5). -/
def State.heldParts (s : State) (qnum : Nat) : Nat := (s.grids.filter (fun e => e.2.heldPart && e.2.qnum == qnum && (match e.2.launcher with
    | .fabric _ _ _ => true
    | _ => false))).length

/-- Has a target queue room (R399; assumption 26)? -/
def State.queueRoom (s : State) (qnum : Nat) : Bool :=
  match mget? s.cmd.queues qnum with
  | some q => decide ((q.qdb + 2 ^ 32 - q.qrd) % 2 ^ 32 + s.heldParts qnum < 2 ^ q.rlog)
  | none => false

/-- The answer to an arriving launch (R399): the reason of Table 15-7, 0 for accepted; none while its ENQ runs (R418). -/
def State.admission (s : State) (f : Frame) : State × Option Nat :=
  let r := LaunchRec.of (leNat (f.payload.take 128))
  let tgtq := leNat ((f.payload.drop 128).take 2)
  let key := leNat ((f.payload.drop 130).take 2)
  match s.fab.fltab.find? (fun e => e.2.v && e.2.srcDev == f.sdev && e.2.srcPart == f.spart && e.2.tgtq == tgtq) with
  | none => (s, some 1)
  | some (i, e) =>
    if r.kdesc < e.kdlo ∨ e.kdhi < r.kdesc then (s, some 2)
    else if e.key ≠ key then (s, some 3)
    else if e.tokens = 0 then (s, some 4)
    else
      let s := { s with fab := { s.fab with fltab := mset s.fab.fltab i { e with tokens := e.tokens - 1 } } }
      match mget? s.cmd.queues tgtq with
      | none => (s, some 5)
      | some q =>
        if !s.queueRoom tgtq then (s, some 5)
        else
          let k? := s.checkLaunch q.ctx r true true
          let s := s.noteReads q.ctx (s.kernelReads q.ctx r.kdesc)
          match k? with
          | none => (s, some 6)
          | some k =>
            let devs := bitsList 16 r.devm
            let wgs := if r.conf = 3 then (upto r.nwg).filter (fun w => devs[w % devs.length]? == some s.fab.dev) else upto r.nwg
            let g := r.grid s q.ctx k tgtq 0 (.fabric f.sdev f.spart f.arg) wgs true
            let part := match mget? s.ctxs q.ctx with
              | some x => x.part
              | none => 0
            match s.enqGrid ((s.lowestPlot part g.conf).getD 0) g (.frame f.sdev f.spart f.arg tgtq) with
            | (s, none) => (s, none)
            | (s, some none) => (s, some 7)
            | (s, some (some prio)) => ((s.acceptGrid g prio).1, some 0)

/-- Does an arriving launch wait for the engine that decides it, on which another call runs (R399 test 7, R417)? -/
def State.admissionBusy (s : State) (f : Frame) : Bool :=
  match (mget? s.cmd.queues (leNat ((f.payload.drop 128).take 2))).bind (fun q => mget? s.ctxs q.ctx) with
  | some x => s.engineWaits (s.lowestPlot x.part (LaunchRec.of (leNat (f.payload.take 128))).plots)
  | none => false

/-- The partition that a refused part is counted for: that of the target queue's context. -/
def State.partOfQueue (s : State) (qnum : Nat) : Nat :=
  match (mget? s.cmd.queues qnum).bind (fun q => mget? s.ctxs q.ctx) with
  | some x => x.part
  | none => 0

/-- Answer an arriving launch (R399, R401): a refusal counts. -/
def State.answerPart (s : State) (dev part arg qnum rsn : Nat) : State :=
  ((if rsn = 0 then s else s.count (s.partOfQueue qnum) .flref 1).sendFrame dev part 0x11 arg [BitVec.ofNat 8 rsn]).1

/-- EFT_LAUNCH (R399). -/
def execEftLaunch (f : Frame) (s : State) : Result :=
  if s.admissionBusy f then .next s
  else receive 0x10 f s (fun s =>
    match s.admission f with
    | (s, none) => s
    | (s, some rsn) => s.answerPart f.sdev f.spart f.arg (leNat ((f.payload.drop 128).take 2)) rsn)

/-- Does an abandoned launch await no answer any more (R401)? -/
def FabLaunch.over (l : FabLaunch) : Bool := l.timedOut && l.targets.all (fun d => (mget? l.answers d).isSome || l.lost.contains d)

/-- Change a fabric launch; an abandoned one goes when no answer to it can come. -/
def State.setLaunch (s : State) (l : FabLaunch) : State :=
  { s with fab := { s.fab with launches := if l.over then s.fab.launches.filter (fun x => x.id != l.id) else s.fab.launches.map (fun x => if x.id = l.id then l else x) } }

/-- The answers of a device to some launches of a partition are lost with a stream (R396, R401). -/
def State.loseAnswers (s : State) (dev part : Nat) (which : FabLaunch → Bool) : State :=
  (s.fab.launches.filter (fun l => l.part == part && !l.committed && l.targets.contains dev && which l)).foldl
    (fun (s : State) l => s.setLaunch { l with lost := dev :: l.lost }) s

/-- The stream by which a device answers has formed again (R396): what it had answered to launches that are over is lost, and of those still
waiting it may be, which shows as their time ends. -/
def State.doubtAnswers (s : State) (dev part : Nat) : State :=
  ((s.fab.launches.filter (fun l => l.part == part && !l.committed && !l.timedOut && l.targets.contains dev && (mget? l.answers dev).isNone)).foldl
    (fun (s : State) l => s.setLaunch { l with doubt := dev :: l.doubt }) s).loseAnswers dev part (fun l => l.timedOut)

/-- EFT_LANS (R401): an answer in time counts; a late acceptance is abandoned. -/
def execEftLans (f : Frame) (s : State) : Result :=
  let rsn := match f.payload with
    | b :: _ => b.toNat
    | [] => 0
  receive 0x11 f s (fun s =>
    match s.fab.launches.find? (fun l => l.part == f.spart && l.arg == f.arg && !l.committed && l.targets.contains f.sdev && !l.lost.contains f.sdev && (mget? l.answers f.sdev).isNone) with
    | none => s
    | some l =>
      if l.timedOut then
        let s := if rsn = 0 then (s.sendFrame f.sdev f.spart 0x13 f.arg []).1 else s
        s.setLaunch { l with answers := mset l.answers f.sdev rsn }
      else s.launchAnswer l f.sdev rsn)

/-- The held part that a commit or an abandon is for. -/
def State.heldGrid (s : State) (f : Frame) : Option (Nat × Grid) :=
  s.grids.find? (fun e => e.2.heldPart && e.2.launcher == .fabric f.sdev f.spart f.arg)

/-- EFT_COMMIT (R401): the held part may be placed; one with no workgroup here is complete. -/
def execEftCommit (f : Frame) (s : State) : Result :=
  receive 0x12 f s (fun s => match s.heldGrid f with
    | some (id, g) =>
      let now := s.elapsed
      let s := s.modGrid id (fun g => { g with heldPart := false, since := now })
      if g.left = 0 then s.completeGrid id { g with heldPart := false } else s
    | none => s)

/-- EFT_ABANDON (R401). -/
def execEftAbandon (f : Frame) (s : State) : Result :=
  receive 0x13 f s (fun s => match s.heldGrid f with
    | some (id, _) => s.dropGrid id
    | none => s)

/-- A part of a committed launch has ended for its source (R400, R401). -/
def State.partEnded (s : State) (l : FabLaunch) (dev : Nat) : State :=
  let rest := l.open_.erase dev
  if rest.isEmpty then ({ s with fab := { s.fab with launches := s.fab.launches.filter (fun x => x.id != l.id) } }).doneUp l.wg
  else { s with fab := { s.fab with launches := s.fab.launches.map (fun x => if x.id = l.id then { l with open_ := rest } else x) } }

/-- EFT_DONE (R400). -/
def execEftDone (f : Frame) (s : State) : Result :=
  receive 0x14 f s (fun s => match s.fab.launches.find? (fun l => l.part == f.spart && l.arg == f.arg && l.committed && l.open_.contains f.sdev) with
    | some l => s.partEnded l f.sdev
    | none => s)

/-! ### Groups, management and the timers -/

/-- EFT_GARR (R394): the arrival goes on to its group. -/
def execEftGarr (f : Frame) (s : State) : Result :=
  receive 0x20 f s (fun s =>
    { s with arrivals := s.arrivals ++ [{ part := f.spart, group := f.arg % 64, plot := 0, dev := some f.sdev, from? := none, id := 0, sent := none }] })

/-- EFT_GGEN (R394): the new GEN reaches a member; its generation has ended here too, so that a pending pair becomes current. -/
def execEftGgen (f : Frame) (s : State) : Result :=
  receive 0x21 f s (fun s =>
    let key := 64 * f.spart + f.arg % 64
    let gen := bitsOf f.arg 32 32
    ((s.setGroup key { s.group key with gen := gen, count := 0 }).settleGroup key).wakeSaved (fun w => w.gwaitMet key gen))

/-- The source of a held part can no longer commit it: it is discarded, and FLREF counts it (R401). -/
def State.discardHeld (s : State) (dev part : Nat) : State :=
  (s.grids.filter (fun e => e.2.heldPart && (match e.2.launcher with
    | .fabric d p _ => d == dev && p == part
    | _ => false))).foldl (fun (s : State) e => (s.dropGrid e.1).count (s.partOfQueue e.2.qnum) .flref 1) s

/-- A port's secure association is renewed (R395). -/
def State.renewAssoc (s : State) (port : Nat) : State :=
  { s with fab := { s.fab with assoc := mset s.fab.assoc port (mgetD s.fab.assoc port 0 + 1) } }

/-- EFT_MGMT (R395, R396): outside the sequence of any stream.  A frame with no payload re-forms the stream of its partition; any
other carries SPDM messages, which agree the keys of the port's secure association (assumption 27).  Answers to launches that had not come
by then are lost. -/
def execEftMgmt (f : Frame) (s : State) : Result :=
  if f.kind ≠ 0x30 then .next s
  else if !s.frameOk f then .next s.dropFrame
  else if f.payload.isEmpty then
    .next (((s.setStream f.sdev f.spart { s.stream f.sdev f.spart with expect := 0, due := none }).discardHeld f.sdev f.spart).doubtAnswers
      f.sdev f.spart)
  else .next (s.renewAssoc (s.stream f.sdev f.spart).port)

/-- EFT_ACKONLY (R396): it carries an acknowledgement and takes no number. -/
def execEftAckonly (f : Frame) (s : State) : Result :=
  if f.kind ≠ 0x3F then .next s
  else if !s.frameOk f then .next s.dropFrame
  else .next (s.takeAck f.sdev f.spart f.ack)

/-- FRAME_DROP (R395). -/
def execFrameDrop (_f : Frame) (s : State) : Result := .next s.dropFrame

/-- EFT_ACK_TIMEOUT (R396): an ACKONLY frame goes out. -/
def execEftAckTimeout (dev part : Nat) (s : State) : Result :=
  let x := s.stream dev part
  match x.due with
  | some t => if t + 2000 ≤ s.elapsed then .next (s.setStream dev part { x with due := none }) else .next s
  | none => .next s

/-- The NOTICE of a part whose commit was not delivered (R401). -/
def State.commitNotice (s : State) (l : FabLaunch) (dev : Nat) : State :=
  s.notice { Record.blank with ctx := l.ctx, qnum := l.qnum, cause := Cause.fabric.code, tagw := l.tagw, detail := dev, addr := l.arg }

/-- The arrivals that a failed stream carried are dropped (R396). -/
def State.dropArrivals (s : State) (dev part : Nat) : State :=
  let mine := fun (a : Arrival) => a.part == part && (match a.sent with
    | some x => x.1 == dev
    | none => false)
  let t : State := { s with arrivals := s.arrivals.filter (fun a => !mine a) }
  (s.arrivals.filter mine).foldl (fun (t : State) a =>
    let g := t.group (64 * part + a.group)
    t.setGroup (64 * part + a.group) { g with count := g.count - 1 }) t

/-- A stream fails (R396): its accesses fail, undelivered commits count as completed parts, launches that it had not delivered get no answer,
and its arrivals are dropped. -/
def State.failStream (s : State) (dev part : Nat) : State :=
  let x := s.stream dev part
  let undelivered := (x.unacked.filter (fun f => f.kind == 0x10)).map (fun f => f.arg)
  let s := (s.dropArrivals dev part).loseAnswers dev part (fun l => undelivered.contains l.arg)
  let commits := (x.unacked.filter (fun f => f.kind == 0x12)).map (fun f => f.arg)
  let s := s.setStream dev part { x with unacked := [], failed := true, tries := 0, due := none }
  let ops := s.fabOps.filter (fun o => o.dev == dev && o.part == part && o.seq.isSome)
  let s := ops.foldl (fun (s : State) o => s.fabFail o) s
  let ls := s.fab.launches.filter (fun l => l.part == part && l.committed && l.open_.contains dev && commits.contains l.arg)
  ls.foldl (fun (s : State) l => (s.partEnded l dev).commitNotice l dev) s

/-- EFT_RETRANSMIT (R396): frames go out again by another port, or the stream fails. -/
def execEftRetransmit (dev part : Nat) (s : State) : Result :=
  let x := s.stream dev part
  let mask := match mget? s.fab.domain dev with
    | some (_, m) => m
    | none => 0
  if x.unacked.isEmpty || decide (s.elapsed < x.progress + 8000) then .next s
  else if 8 ≤ x.tries then .next (s.failStream dev part).sendFab
  else .next (s.setStream dev part { x with tries := x.tries + 1, progress := s.elapsed, port := portOf mask (x.port + 1) })

/-- FLNCH_TIMEOUT (R401): the n-th fabric launch has gone 50 µs without every answer. -/
def execFlnchTimeout (n : Nat) (s : State) : Result :=
  match s.fab.launches[n]? with
  | none => .next s
  | some l =>
    if l.committed || l.timedOut || decide (s.elapsed < l.since + 50000) then .next s
    else
      let s := (l.targets.filter s.devPresent).foldl (fun (s : State) d => (s.sendFrame d l.part 0x13 l.arg []).1) s
      let s := (s.freeEntry l.wg (.flnch l.id)).count l.part .faberr 1
      let s := s.setLaunch { l with timedOut := true, lost := l.doubt.filter (fun d => (mget? l.answers d).isNone) ++ l.lost }
      .next (s.modWarp l.core l.slot (fun w => { w with splits := w.splits.map (fun e => (e.1, match e.2.status with
        | .parked (.reply i none) => if i = l.id then { e.2 with status := .ready, fabric := true } else e.2
        | _ => e.2)) }))

/-- RATE_BUCKET_REFILL (R399). -/
def execRateBucketRefill (s : State) : Result :=
  if s.fab.refills < s.elapsed / 10000 then
    .next { s with fab := { s.fab with refills := s.fab.refills + 1, fltab := s.fab.fltab.map (fun e => (e.1, { e.2 with tokens := Nat.min e.2.rate (e.2.tokens + e.2.rate) })) } }
  else .next s

/-- REMOTE_ACCESS_TIMEOUT (R405): the n-th remote access has gone 100 µs without an answer. -/
def execRemoteAccessTimeout (n : Nat) (s : State) : Result :=
  match s.fabOps[n]? with
  | some f => if f.since + 100000 ≤ s.elapsed ∧ f.seq.isSome then .next ((s.fabFail f).sendFab) else .next s
  | none => .next s

/-- SECURE_ASSOCIATION_RENEWAL (R395). -/
def execSecureAssociationRenewal (port : Nat) (s : State) : Result := if port < 16 then .next (s.renewAssoc port) else .next s

end Sys2Proof.Machine
end

