-- ==== Sys2Proof/Machine/Cost.lean ====
section
/-! DEFINITION. What issuing an instruction costs: timing class, issued-instruction units, lane cycles and allowance weight
(R16, R151, R152, R167, R484 and the class columns of Tables 7-1, 8-1, 9-1, 10-1, 11-5, 12-5, 13-7, 14-4 and R406). -/

namespace Sys2Proof.Machine

/-- An engine instruction: 4 units over 4 lane cycles, or 1 when uniform; the weight of a uniform one is a quarter, rounded
up. -/
def engineCost (cls : TimingClass) (w : Nat) (u : Bool) : Cost :=
  { cls := cls, units := if u then 1 else 4, lanes := if u then 1 else 4, weight := w, uni := u }

/-- A sequencer instruction: class C0, 1 unit, 1 lane cycle (R167). -/
def seqCost : Cost := { cls := .c0, units := 1, lanes := 1, weight := 10, uni := false }

/-- A sequencer instruction that may be uniform (R16, R46), which then debits a quarter of its weight (R484). -/
def seqUniform (u : Bool) : Cost := { seqCost with uni := u }

/-- The plog group and RDSR occupy the lanes under R16 (R167). -/
def seqLaneCost (u : Bool) : Cost :=
  { cls := .c0, units := 1, lanes := if u then 1 else 4, weight := 10, uni := u }

/-- The class of a CVT: C2 when either side is .f64 (Table 9-1). -/
def cvtClass : CvtFn → TimingClass
  | .wide .f64 _ | .wide _ .f64 => .c2
  | _ => .c1

/-- The weight of the exchange engine by class (Table 19-1). -/
def exchangeWeight : TimingClass → Nat
  | .c2 => 90
  | _ => 60

/-- The cost of an encoded instruction; none for a machine event. -/
def costOf : Instr → Option Cost
  | .add f => some (engineCost .c0 40 f.u)
  | .sub f => some (engineCost .c0 40 f.u)
  | .addc f => some (engineCost .c1 60 f.u)
  | .subb f => some (engineCost .c1 60 f.u)
  | .adds f => some (engineCost .c0 40 f.u)
  | .subs f => some (engineCost .c0 40 f.u)
  | .addsu f => some (engineCost .c0 40 f.u)
  | .subsu f => some (engineCost .c0 40 f.u)
  | .mul f => some (engineCost .c1 60 f.u)
  | .mulh f => some (engineCost .c1 60 f.u)
  | .mulhu f => some (engineCost .c1 60 f.u)
  | .mad f => some (engineCost .c1 60 f.u)
  | .divs f => some (engineCost .c3 60 f.u)
  | .divu f => some (engineCost .c3 60 f.u)
  | .rems f => some (engineCost .c3 60 f.u)
  | .remu f => some (engineCost .c3 60 f.u)
  | .min f => some (engineCost .c0 40 f.u)
  | .max f => some (engineCost .c0 40 f.u)
  | .minu f => some (engineCost .c0 40 f.u)
  | .maxu f => some (engineCost .c0 40 f.u)
  | .and f => some (engineCost .c0 40 f.u)
  | .or f => some (engineCost .c0 40 f.u)
  | .xor f => some (engineCost .c0 40 f.u)
  | .sel f => some (engineCost .c0 40 f.u)
  | .shl f => some (engineCost .c0 40 f.u)
  | .shr f => some (engineCost .c0 40 f.u)
  | .shra f => some (engineCost .c0 40 f.u)
  | .rol f => some (engineCost .c0 40 f.u)
  | .lea f => some (engineCost .c1 60 f.u)
  | .mov f => some (engineCost .c0 40 f.u)
  | .not f => some (engineCost .c0 40 f.u)
  | .neg f => some (engineCost .c0 40 f.u)
  | .abs f => some (engineCost .c0 40 f.u)
  | .negs f => some (engineCost .c0 40 f.u)
  | .abss f => some (engineCost .c0 40 f.u)
  | .clz f => some (engineCost .c0 40 f.u)
  | .popc f => some (engineCost .c0 40 f.u)
  | .brev f => some (engineCost .c0 40 f.u)
  | .setp _ f => some (engineCost .c0 40 f.u)
  | .addi f => some (engineCost .c0 40 f.u)
  | .andi f => some (engineCost .c0 40 f.u)
  | .ori f => some (engineCost .c0 40 f.u)
  | .xori f => some (engineCost .c0 40 f.u)
  | .shli f => some (engineCost .c0 40 f.u)
  | .shri f => some (engineCost .c0 40 f.u)
  | .shrai f => some (engineCost .c0 40 f.u)
  | .movl f => some (engineCost .c0 40 f.u)
  | .movh f => some (engineCost .c0 40 f.u)
  | .fadd f => some (engineCost .c0 80 f.u)
  | .fsub f => some (engineCost .c0 80 f.u)
  | .fmul f => some (engineCost .c0 80 f.u)
  | .ffma f => some (engineCost .c0 80 f.u)
  | .fmin f => some (engineCost .c0 80 f.u)
  | .fmax f => some (engineCost .c0 80 f.u)
  | .fdiv f => some (engineCost .c3 100 f.u)
  | .frcp f => some (engineCost .c2 120 f.u)
  | .frsq f => some (engineCost .c2 120 f.u)
  | .fsqrt f => some (engineCost .c3 100 f.u)
  | .fexp2 f => some (engineCost .c2 120 f.u)
  | .flog2 f => some (engineCost .c2 120 f.u)
  | .fclass f => some (engineCost .c0 80 f.u)
  | .dadd f => some (engineCost .c2 120 f.u)
  | .dmul f => some (engineCost .c2 120 f.u)
  | .dfma f => some (engineCost .c2 120 f.u)
  | .fsetp _ f => some (engineCost .c0 80 f.u)
  | .dsetp _ f => some (engineCost .c2 120 f.u)
  | .hadd2 f => some (engineCost .c0 80 f.u)
  | .hmul2 f => some (engineCost .c0 80 f.u)
  | .hfma2 f => some (engineCost .c0 80 f.u)
  | .hadd2Bf f => some (engineCost .c0 80 f.u)
  | .hmul2Bf f => some (engineCost .c0 80 f.u)
  | .hfma2Bf f => some (engineCost .c0 80 f.u)
  | .cvt fn f => some (engineCost (cvtClass fn) (exchangeWeight (cvtClass fn)) f.u)
  | .qnt _ => some (engineCost .c2 90 false)
  | .dqnt _ => some (engineCost .c1 60 false)
  | .pack f => some (engineCost .c0 60 f.u)
  | .unpk _ _ f => some (engineCost .c0 60 f.u)
  | .shfl f => some (engineCost .c0 60 f.u)
  | .shflu f => some (engineCost .c0 60 f.u)
  | .shfld f => some (engineCost .c0 60 f.u)
  | .shflx f => some (engineCost .c0 60 f.u)
  | .bcast f => some (engineCost .c0 60 f.u)
  | .voteAll f => some (engineCost .c0 60 f.u)
  | .voteAny f => some (engineCost .c0 60 f.u)
  | .voteBallot f => some (engineCost .c0 60 f.u)
  | .redx op f => some (engineCost (if op = .dadd then .c2 else .c1) (if op = .dadd then 90 else 60) f.u)
  | .matchMask _ => some (engineCost .c1 60 false)
  | .lnch _ _ _ _ => some (engineCost .c0 50 false)
  | .join _ _ => some (engineCost .c0 50 false)
  | .lqw _ => some (engineCost .c0 50 false)
  | .flnch _ _ _ _ => some (engineCost .c0 50 false)
  | .garr _ _ _ => some (engineCost .c0 50 false)
  | .gwait _ _ _ _ => some (engineCost .c0 50 false)
  | .gmem _ _ _ => some (engineCost .c0 50 false)
  | .fwr _ _ _ u => some (engineCost .c0 50 u)
  | .frd _ _ _ u => some (engineCost .c0 50 u)
  | .fsig _ _ _ u => some (engineCost .c0 50 u)
  | .fatom _ _ _ _ u => some (engineCost .c0 50 u)
  | .ld _ f => some (engineCost .c0 50 f.u)
  | .st _ f => some (engineCost .c0 50 f.u)
  | .lds _ f => some (engineCost .c0 50 f.u)
  | .sts _ f => some (engineCost .c0 50 f.u)
  | .ldp _ f => some (engineCost .c0 50 f.u)
  | .stp _ f => some (engineCost .c0 50 f.u)
  | .ldn _ f => some (engineCost .c0 50 f.u)
  | .stn _ f => some (engineCost .c0 50 f.u)
  | .lda _ _ f => some (engineCost .c0 50 f.u)
  | .stl _ _ f => some (engineCost .c0 50 f.u)
  | .atomAdd f => some (engineCost .c0 50 f.u)
  | .atomIncw f => some (engineCost .c0 50 f.u)
  | .atomExch f => some (engineCost .c0 50 f.u)
  | .atomCas f => some (engineCost .c0 50 f.u)
  | .atomMin f => some (engineCost .c0 50 f.u)
  | .atomMax f => some (engineCost .c0 50 f.u)
  | .atomMinu f => some (engineCost .c0 50 f.u)
  | .atomMaxu f => some (engineCost .c0 50 f.u)
  | .atomAnd f => some (engineCost .c0 50 f.u)
  | .atomOr f => some (engineCost .c0 50 f.u)
  | .atomXor f => some (engineCost .c0 50 f.u)
  | .redAdd f => some (engineCost .c0 50 f.u)
  | .redIncw f => some (engineCost .c0 50 f.u)
  | .redMin f => some (engineCost .c0 50 f.u)
  | .redMax f => some (engineCost .c0 50 f.u)
  | .redMinu f => some (engineCost .c0 50 f.u)
  | .redMaxu f => some (engineCost .c0 50 f.u)
  | .redAnd f => some (engineCost .c0 50 f.u)
  | .redOr f => some (engineCost .c0 50 f.u)
  | .redXor f => some (engineCost .c0 50 f.u)
  | .cpa16Bar _ _ _ _ u => some (engineCost .c0 50 u)
  | .cpa16Nb _ _ _ u => some (engineCost .c0 50 u)
  | .fence _ => some (engineCost .c0 50 false)
  | .fenceX _ _ _ => some (engineCost .c0 50 false)
  | .cinv => some (engineCost .c0 50 false)
  | .cinvAddr _ => some (engineCost .c0 50 false)
  | .cwbWcb => some (engineCost .c0 50 false)
  | .cwbPriv => some (engineCost .c0 50 false)
  | .prefL2 _ _ u => some (engineCost .c0 50 u)
  | .prefL1 _ _ u => some (engineCost .c0 50 u)
  | .cpbG2s _ => some (engineCost .c0 50 false)
  | .cpbS2g _ => some (engineCost .c0 50 false)
  | .cpbm _ => some (engineCost .c0 50 false)
  | .cpbpG2s _ => some (engineCost .c0 50 false)
  | .cpbpS2s _ => some (engineCost .c0 50 false)
  | .bari _ _ => some (engineCost .c0 50 false)
  | .bara _ _ => some (engineCost .c0 50 false)
  | .barw _ _ => some (engineCost .c0 50 false)
  | .barc _ _ => some (engineCost .c0 50 false)
  | .barq _ _ _ => some (engineCost .c0 50 false)
  | .barx _ => some (engineCost .c0 50 false)
  | .rcrt _ _ _ _ => some (engineCost .c0 50 false)
  | .rnext _ _ => some (engineCost .c0 50 false)
  | .rpart32 _ _ => some (engineCost .c0 50 false)
  | .rpart64 _ _ => some (engineCost .c0 50 false)
  | .rjoin _ _ _ => some (engineCost .c1 50 false)
  | .rlse => some (engineCost .c0 50 false)
  | .rqry _ _ => some (engineCost .c0 50 false)
  | .mma _ _ _ _ => some (engineCost .c0 40 false)
  | .mmaZ _ _ _ _ => some (engineCost .c0 40 false)
  | .mmap _ _ _ _ => some (engineCost .c0 80 false)
  | .mmapZ _ _ _ _ => some (engineCost .c0 80 false)
  | .mscl _ _ _ => some (engineCost .c0 50 false)
  | .msclBand _ _ => some (engineCost .c0 50 false)
  | .maepi _ _ _ => some (engineCost .c0 80 false)
  | .mard _ _ _ => some (engineCost .c0 50 false)
  | .mardCol _ _ _ => some (engineCost .c0 50 false)
  | .maclr _ _ => some (engineCost .c0 50 false)
  | .maclrRel _ _ => some (engineCost .c0 50 false)
  | .mstat _ _ => some (engineCost .c0 50 false)
  | .mtest _ => some (engineCost .c0 10 false)
  | .wsbind _ _ => some (engineCost .c0 50 false)
  | .wstrm _ _ _ _ => some (engineCost .c0 50 false)
  | .wsqry _ _ _ => some (engineCost .c0 50 false)
  | .wsrel _ => some (engineCost .c0 50 false)
  | .brp _ => some seqCost
  | .br _ => some seqCost
  | .call _ => some seqCost
  | .nop => some seqCost
  | .yield => some seqCost
  | .bkpt _ => some seqCost
  | .trap _ _ => some seqCost
  | .rft => some seqCost
  | .exit _ => some seqCost
  | .ret => some seqCost
  | .reconv => some seqCost
  | .bri _ => some seqCost
  | .calli _ => some seqCost
  | .guard _ => some seqCost
  | .guardn _ => some seqCost
  | .elect _ _ => some seqCost
  | .marm _ _ => some seqCost
  | .mwait _ _ => some seqCost
  | .fenceb => some seqCost
  | .waitb _ _ => some seqCost
  | .wbase _ _ => some seqCost
  | .ixset _ _ _ u => some (seqUniform u)
  | .ixadd _ _ _ _ u => some (seqUniform u)
  | .fmt _ _ _ _ => some seqCost
  | .wrsr _ _ _ u => some (seqUniform u)
  | .classHint _ _ => some seqCost
  | .sclr => some seqCost
  | .snap _ => some seqCost
  | .pand f => some (seqLaneCost f.u)
  | .por f => some (seqLaneCost f.u)
  | .pxor f => some (seqLaneCost f.u)
  | .pnot f => some (seqLaneCost f.u)
  | .pmov f => some (seqLaneCost f.u)
  | .waitc _ _ _ _ => some seqCost
  | .rdsr _ _ _ u => some (seqLaneCost u)
  | _ => none

/-- Is it a float or an exchange instruction, which merges its flags as it completes (R207)? -/
def mergesFlags : Instr → Bool
  | .fadd _ | .fsub _ | .fmul _ | .ffma _ | .fmin _ | .fmax _ | .fdiv _ | .frcp _ | .frsq _ | .fsqrt _ | .fexp2 _ | .flog2 _ | .fclass _ | .dadd _
  | .dmul _ | .dfma _ | .fsetp _ _ | .dsetp _ _ | .hadd2 _ | .hmul2 _ | .hfma2 _ | .hadd2Bf _ | .hmul2Bf _ | .hfma2Bf _ | .cvt _ _ | .qnt _
  | .dqnt _ | .pack _ | .unpk _ _ _ | .shfl _ | .shflu _ | .shfld _ | .shflx _ | .bcast _ | .voteAll _ | .voteAny _ | .voteBallot _ | .redx _ _
  | .matchMask _ => true
  | _ => false

/-- A helper's issue: 1 unit, 1 lane cycle, and the uniform weight, a quarter rounded up (R280, R484). -/
def Cost.helper (c : Cost) : Cost := { c with units := 1, lanes := 1, uni := true }

end Sys2Proof.Machine
end

