-- ==== Sys2Proof/Machine/Matrix.lean ====
section
/-! DEFINITION. The matrix engine: operand words and verdicts, attachments, the product and its segments, pairs, self-test and
fencing, staged copies, epilogues, and the events that start and retire an operation (13_matrix_engine.md R331 to R358). -/

namespace Sys2Proof.Machine

/-! ### Operands -/

/-- The format code of an operand word and its n(FMT) (Table 13-3). -/
def matFmt (code : Nat) : Option (Elem × Nat) :=
  match code with
  | 4 => some (.e2m1, 4) | 5 => some (.int4, 4) | 6 => some (.int8, 8) | 7 => some (.int16, 16)
  | 8 => some (.bfp8, 8) | 9 => some (.bfp12, 12) | 10 => some (.bfp16, 16)
  | _ => none

/-- n(FMT) of a format of the array (R337). -/
def matBits (e : Elem) : Nat := e.codeBits.getD 16

/-- Words of a plane group as stored (R338). -/
def MatOperand.words (o : MatOperand) : Nat := if o.fmt = .e2m1 then 1 + o.sp else o.sp

/-- Words of a plane group that the array reads (R339). -/
def MatOperand.readWords (o : MatOperand) : Nat := if o.fmt = .e2m1 then 1 + o.q else o.q

/-- Read an operand word (Table 13-3); `none` where a field is outside it.  The offset is that of the allocation. -/
def matOperand (w : Nat) : Option MatOperand :=
  match matFmt (bitsOf w 28 4) with
  | none => none
  | some (e, n) =>
    let q := bitsOf w 23 5
    let sp := bitsOf w 18 5
    if 1 ≤ q ∧ q ≤ sp ∧ sp ≤ n ∧ hasBit w 17 = false then some { fmt := e, q := q, sp := sp, off := bitsOf w 0 17 } else none

/-- Bytes of an operand of some rows over K elements (R338). -/
def MatOperand.bytes (o : MatOperand) (rows k : Nat) : Nat := 4 * o.words * rows * (k / 32)

/-- The stride of a scale record entry (R340). -/
def recordStride (k : Nat) : Nat := 4 * ((k + 255) / 256 + k / 32)

/-- The cycle count of an operation (R336). -/
def matCycles (a b : MatOperand) (k : Nat) : Nat := a.q * b.q * k / 16

/-! ### Reading the scratchpad as the array does -/

/-- A scratchpad word as an MX read sees it: its staged copy where the array has one and reads it (R346). -/
def Core.mxWord (k : Core) (pick : List Nat) (w : Nat) : Word :=
  match mget? k.staged w, pick.contains w with
  | some v, true => v
  | _, _ => k.word w

/-- The bit of an element in a plane word. -/
def planeBit (w : Word) (t : Nat) : Bool := hasBit w.toNat t

/-- The integer of one element of a group from the words read (R339). -/
def planeInt (o : MatOperand) (ws : List Word) (t : Nat) : Int :=
  let n := matBits o.fmt
  match o.fmt, ws with
  | .e2m1, sw :: ms =>
    let m := (ms.zipIdx).foldl (fun a e => a + if planeBit e.1 t then 2 ^ (3 - e.2) else 0) 0
    if planeBit sw t then -(m : Int) else m
  | _, sw :: ms =>
    (if planeBit sw t then -((2 ^ (n - 1) : Nat) : Int) else 0) +
      (((ms.zipIdx).foldl (fun a e => a + if planeBit e.1 t then 2 ^ (n - 2 - e.2) else 0) 0 : Nat) : Int)
  | _, [] => 0

/-- The elements of one row of an operand (R338, R339). -/
def Core.matRow (k : Core) (pick : List Nat) (o : MatOperand) (kk row : Nat) : List Int :=
  (upto (kk / 32)).flatMap (fun g =>
    let ws := (upto o.readWords).map (fun j => k.mxWord pick ((o.off + 4 * o.words * (row * (kk / 32) + g)) / 4 + j))
    (upto 32).map (planeInt o ws))

/-- The scratchpad words that reading a row touches. -/
def MatOperand.touched (o : MatOperand) (kk rows : Nat) : List Nat :=
  (upto (rows * (kk / 32))).flatMap (fun g => (upto o.readWords).map (fun j => (o.off + 4 * o.words * g) / 4 + j))

/-- One row of a scale record: for each granule, whether it starts a block, and its scale byte (R340, R341). -/
structure RowScale where
  starts : List Bool
  scales : List Nat
  deriving DecidableEq, Repr

/-- What forming the blocks of a row carries: the answers so far, granules in the open block, blocks so far (R341). -/
structure RowForm where
  starts : List Bool
  blocks : List Nat
  len : Nat
  n : Nat
  deriving DecidableEq, Repr

/-- One granule (R341): granule 0, a set bit, or sixteen granules before it start a block. -/
def RowForm.step (f : RowForm) (bit : Bool) : RowForm :=
  if f.starts.isEmpty || bit || f.len == 16 then { starts := f.starts ++ [true], blocks := f.blocks ++ [f.n], len := 1, n := f.n + 1 }
  else { starts := f.starts ++ [false], blocks := f.blocks ++ [f.n - 1], len := f.len + 1, n := f.n }

/-- The blocks of a row from its bitmap bits and scale bytes. -/
def rowScale (bits : List Bool) (scale : Nat → Nat) : RowScale :=
  let f := bits.foldl RowForm.step { starts := [], blocks := [], len := 0, n := 0 }
  { starts := f.starts, scales := f.blocks.map scale }

/-- The entry of one row of a scale record (Table 13-5). -/
def Core.recordRow (k : Core) (pick : List Nat) (off kk row : Nat) : RowScale :=
  let base := (off + row * recordStride kk) / 4
  let w := (kk + 255) / 256
  let bit := fun (g : Nat) => hasBit (k.mxWord pick (base + g / 32)).toNat (g % 32)
  let scale := fun (b : Nat) => bitsOf (k.mxWord pick (base + w + b / 4)).toNat (8 * (b % 4)) 8
  rowScale ((upto (kk / 8)).map bit) scale

/-- A row without a record: a block at every sixteenth granule, with scale 1.0 (R342). -/
def plainRow (kk : Nat) : RowScale := rowScale (List.replicate (kk / 8) false) (fun _ => 0x60)

/-- Scale and bitmap words that a record's rows occupy. -/
def recordWords (off kk rows : Nat) : List Nat := (upto (rows * recordStride kk / 4)).map (fun i => off / 4 + i)

/-! ### The product -/

/-- The power of two of a format factor (R339). -/
def matFactor (e : Elem) : Int := if e = .e2m1 then -1 else if e.isBfp then 1 - (matBits e : Int) else 0

/-- A segment: first granule, granules, and the product of the two scales times 2^14 (R343). -/
structure Segment where
  g0 : Nat
  n : Nat
  scale : Nat
  deriving DecidableEq, Repr

/-- The segments of an output element, in ascending order (R343). -/
def segments (a b : RowScale) : List Segment :=
  let gs := (a.starts.zip b.starts).zip (a.scales.zip b.scales)
  ((gs.zipIdx).foldl (fun (acc : List Segment) e =>
    match acc, e.1.1.1 || e.1.1.2 with
    | x :: r, false => { x with n := x.n + 1 } :: r
    | acc, _ => { g0 := e.2, n := 1, scale := e3m5Num e.1.2.1 * e3m5Num e.1.2.2 } :: acc) []).reverse

/-- The sum of the products of two rows over some elements (R343). -/
def dot : List Int → List Int → Int
  | x :: r, y :: t => x * y + dot r t
  | _, _ => 0

/-- One segment added to an element (R343): the element, and the status bits it sets. -/
def addSegment (e : Nat) (v : FVal) : Nat × Nat :=
  match v, decodeFloat fp32 false e with
  | .fin s m _, .inf t =>
    if m = 0 then (e, 0) else if s = t then (e, 0) else (e, 4)
  | .fin s m q, x =>
    if m = 0 then (e, 0)
    else
      let r := roundToFormat fp32 FEnv.plain (fsum 0 x (.fin s m q)).1
      (r.1, if r.2 / 4 % 2 = 1 then 1 else 0)
  | _, _ => (e, 0)

/-- One output element (R343); `mag` and `exp` give the format factors and band scales of its row and column. -/
def outElement (e : Nat) (ra rb : List Int) (sa sb : RowScale) (mag : Nat) (exp : Int) : Nat × Nat :=
  (segments sa sb).foldl (fun (acc : Nat × Nat) g =>
    let s := dot ((ra.drop (8 * g.g0)).take (8 * g.n)) ((rb.drop (8 * g.g0)).take (8 * g.n))
    let r := addSegment acc.1 (.fin (decide (s < 0)) (s.natAbs * g.scale * mag) (exp - 14))
    (r.1, acc.2 ||| r.2)) (e, 0)

/-- What an MMA or MMAP writes: the elements of its accumulators and their status bits (R343, R344). -/
def Core.matProduct (k : Core) (pick : List Nat) (acc : Nat) (zero pair : Bool) (a b : MatOperand) (kk : Nat) (att : Option Attachment) : MatOut :=
  let rows := if pair then 128 else 64
  let recs := att.bind (fun x => x.records)
  let rowA := (upto rows).map (fun i => (k.matRow pick a kk i, match recs with
    | some r => k.recordRow pick r.1 kk i
    | none => plainRow kk))
  let rowB := (upto 64).map (fun j => (k.matRow pick b kk j, match recs with
    | some r => k.recordRow pick r.2 kk j
    | none => plainRow kk))
  let beta := fun (i : Nat) => match att with
    | some x => betaMag (if i < 64 then x.bandA0 else x.bandA1)
    | none => (1, 0)
  let betaB := match att with
    | some x => betaMag x.bandB
    | none => (1, 0)
  let exp := matFactor a.fmt + matFactor b.fmt
  let outs := (rowA.zipIdx).flatMap (fun ra =>
    let m := beta ra.2
    (rowB.zipIdx).map (fun rb =>
      let key := 4096 * (acc + ra.2 / 64) + 64 * (ra.2 % 64) + rb.2
      let e := if zero then 0 else (mgetD k.acc key 0).toNat
      (key, outElement e ra.1.1 rb.1.1 ra.1.2 rb.1.2 (m.1 * betaB.1) (exp + m.2 + betaB.2))))
  let bits := fun (n : Nat) => (outs.filter (fun o => o.1 / 4096 == n)).foldl (fun x o => x ||| o.2.2) 0
  { acc := outs.map (fun o => (o.1, BitVec.ofNat 32 o.2.1)),
    status := (acc, bits acc) :: (if pair then [(acc + 1, bits (acc + 1))] else []), scr := [], flags := 0 }

/-! ### Epilogue and drain -/

/-- The output formats of MAEPI (Table 13-9). -/
def epiFmt (code : Nat) : Option (FltFmt × Nat) :=
  match code with
  | 0 => some (fp32, 4) | 1 => some (fp16, 2) | 2 => some (bf16, 2) | 3 => some (e4m3, 1)
  | _ => none

/-- Pack values of `esz` bytes into words. -/
def packWords (esz : Nat) (vs : List Nat) : List Word :=
  let per := 4 / esz
  (upto (vs.length / per)).map (fun i => BitVec.ofNat 32 (((upto per).foldl (fun a j => a + (vs[i * per + j]?).getD 0 * 2 ^ (8 * esz * j)) 0)))

/-- One element of an epilogue (R353): its bits, and its flags. -/
def epiElement (F : FltFmt) (env : FEnv) (sigma : FVal) (e : Nat) : Nat × Nat :=
  let r := fprod (decodeFloat fp32 false e) sigma
  let o := roundToFormat F env r.1
  (o.1, o.2 ||| r.2 ||| (if isSnanBits fp32 e then flagNV else 0))

/-- What MAEPI writes, and the number of elements that overflow (R353). -/
def Core.epilogue (k : Core) (pick : List Nat) (acc ofmt dst : Nat) (sigma fmt : Word) : MatOut × Nat :=
  match epiFmt ofmt with
  | none => ({ acc := [], status := [], scr := [], flags := 0 }, 0)
  | some (F, esz) =>
    let env := FEnv.of fmt
    let env := if env.sat = 0 then { env with sat := 1 } else env
    let sg := decodeFloat fp32 false sigma.toNat
    let outs := (upto 4096).map (fun i => epiElement F env sg (mgetD k.acc (4096 * acc + i) 0).toNat)
    let n := (outs.filter (fun o => hasBit o.2 2)).length
    let words := packWords esz (outs.map Prod.fst)
    let cw := dst / 4 + 1024 * esz
    let c := (k.mxWord pick cw).toNat + n
    ({ acc := [], status := if n = 0 then [] else [(acc, 2)],
       scr := (words.zipIdx).map (fun e => (dst / 4 + e.2, e.1)) ++ [(cw, BitVec.ofNat 32 (if c < 2 ^ 32 then c else 2 ^ 32 - 1))],
       flags := outs.foldl (fun x o => x ||| o.2) 0 }, n)

/-- What MARD writes (R354). -/
def Core.drainTile (k : Core) (acc : Nat) (col : Bool) (dst : Nat) : MatOut :=
  let at' := fun (x : Nat) => if col then 64 * (x % 64) + x / 64 else x
  { acc := [], status := [],
    scr := (upto 4096).map (fun x => (dst / 4 + x, mgetD k.acc (4096 * acc + at' x) 0)) ++
      [(dst / 4 + 4096, BitVec.ofNat 32 (mgetD k.accStatus acc 0))],
    flags := 0 }

/-! ### Verdicts -/

/-- Does a workgroup own an accumulator of a core? -/
def Core.owns (k : Core) (wg acc : Nat) : Bool := mget? k.accOwner acc == some wg

/-- Is a scratchpad range outside the allocation of a size (R335)? -/
def outOf (size off bytes : Nat) : Bool := decide (size < off + bytes)

/-- The verdict of MMA and MMAP (R335, R351): the operands with their offsets in the core's scratchpad. -/
def State.mmaVerdict (s : State) (c : Iss) (acc : Nat) (pair : Bool) (wa wb shape : Nat) : Except Cause (MatOperand × MatOperand × Nat) :=
  let k := s.core c.core
  let att := c.w.attach
  let own := s.ownBytes c
  if !(k.owns c.w.wg acc && (!pair || k.owns c.w.wg (acc + 1))) then .error .matrixOperand
  else match matOperand wa, matOperand wb with
    | some a, some b =>
      let kk := 32 * (shape % 256 + 1)
      let rows := if pair then 128 else 64
      let badBeta := match att with
        | some x => pair && betaInvalid x.bandA1
        | none => false
      if shape / 256 ≠ 0 ∨ badBeta = true then .error .matrixOperand
      else if 8192 < matCycles a b kk then .error .matrixOperand
      else if (pair && (k.fence != 0 || (s.core (pairOfCore c.core)).fence != 0)) ||
          (!pair && k.fence != 0 && decide (8192 < 2 * matCycles a b kk)) then .error .matrixFenced
      else if a.off % 4 ≠ 0 ∨ b.off % 4 ≠ 0 then .error .align
      else if outOf own.2 a.off (a.bytes rows kk) || outOf own.2 b.off (b.bytes 64 kk) ||
          (match att.bind (fun x => x.records) with
            | some r => outOf own.2 r.1 (rows * recordStride kk) || outOf own.2 r.2 (64 * recordStride kk)
            | none => false) then .error .scratchRange
      else .ok ({ a with off := own.1 + a.off }, { b with off := own.1 + b.off }, kk)
    | _, _ => .error .matrixOperand

/-! ### Issue -/

/-- A matrix queue that takes no command now: full, or its array is held by the partner (R27, R344). -/
def Core.matFull (k : Core) : Bool := decide (Config.queueDepth ≤ k.matQ.length) || k.hold.isSome

/-- Put a command into the matrix queue. -/
def State.pushMat (s : State) (core : Nat) (q : MatCmd) : State :=
  s.modCore core (fun k => { k with matQ := k.matQ ++ [if k.matQ.isEmpty then { q with headAt := some s.elapsed } else q] })

/-- What a matrix operation that has not started will write: nothing yet. -/
def MatOut.none : MatOut := { acc := [], status := [], scr := [], flags := 0 }

/-- A command of a thread. -/
def Iss.matCmd (c : Iss) (id tid : Nat) (g : Bool) (ps : List Nat) (work : MatWork) : MatCmd :=
  { id := id, slot := c.slot, tid := tid, wg := c.w.wg, work := work, batch := c.w.nextBatch, guardPend := ps,
    guardVal := !g || c.guard tid, started := false, dropped := false, out := MatOut.none, headAt := Option.none }

/-- Issue a tile operation that has passed its verdict (R334). -/
def State.issueMat (s : State) (c : Iss) (tid : Nat) (g : Bool) (work : MatWork) : State :=
  let ps := if g then s.pendingGuards c [tid] else []
  let q := c.matCmd s.nextId tid g ps work
  ((s.takeId.takeSlots c ps).opIssue c.core c.slot .tiles).pushMat c.core q

/-- A queued matrix command of the lowest active thread (R334): operands, then the answer of its verdict. -/
def matStep (ops : List (Opnd × Nat)) (g : Bool) (k : Iss → Nat → Except (Cause × Nat) (State → State)) (s : State) : Result :=
  withIss s (fun c =>
    match c.tids with
    | [] => s.finish c []
    | t :: _ =>
      if c.hel.isSome then s.decodeTrap c .illegalOp
      else match c.opsCause [t] ops with
        | some e => s.decodeTrap c e
        | none =>
          let ps := if g then s.pendingGuards c [t] else []
          if c.pendingRead (s.pendingLocs c.core c.slot) [t] ops then s.stall
          else if c.badRead [t] ops then s.takeTrap c .eccUncorrectable 0
          else if (s.core c.core).matFull || decide (CounterCls.tiles.max ≤ c.w.tiles) || c.slotsFull ps then s.stall
          else match k c t with
            | .error (e, a) => s.takeTrap c e a
            | .ok f => (f s).finish c [])

/-- MMA and MMAP (R351): the attachment register is bound to the command and cleared; the issue weighs by its cycles
(Table 19-1). -/
def mmaStep (acc : Nat) (pair zero : Bool) (a b : Opnd) (g : Bool) (s : State) : Result :=
  matStep [(a, 2), (b, 1)] g (fun c t =>
    let ab := c.read t a 2
    match s.mmaVerdict c acc pair (ab % 2 ^ 32) (ab / 2 ^ 32) (c.read t b 1) with
    | .error e => .error (e, 0)
    | .ok (oa, ob, kk) =>
      let base := (s.ownBytes c).1
      let att := c.w.attach.map (fun x => { x with records := x.records.map (fun r => (base + r.1, base + r.2)) })
      .ok (fun s => (s.issueMat c t g (.mma acc zero pair oa ob kk att)).modWarp c.core c.slot (fun w => { w with attach := none }))) s

/-- The allowance weight of an MMA or MMAP (Table 19-1). -/
def mmaWeight (pair : Bool) (c : Nat) : Nat := if pair then 80 + c else 40 + (c + 1) / 2

/-- MMA (R351). -/
def execMma (k : Fin 4) (a b : Opnd) (g : Bool) (s : State) : Result := mmaStep k.val false false a b g s
/-- MMA.z (R351, R343). -/
def execMmaZ (k : Fin 4) (a b : Opnd) (g : Bool) (s : State) : Result := mmaStep k.val false true a b g s
/-- MMAP (R344, R351). -/
def execMmap (k : Fin 2) (a b : Opnd) (g : Bool) (s : State) : Result := mmaStep (2 * k.val) true false a b g s
/-- MMAP.z (R344, R351). -/
def execMmapZ (k : Fin 2) (a b : Opnd) (g : Bool) (s : State) : Result := mmaStep (2 * k.val) true true a b g s

/-- MSCL and MSCL.band (R352): the attachment register takes the values at issue. -/
def msclStep (a : Opnd) (recs : Option Opnd) (g : Bool) (s : State) : Result :=
  matStep ((a, 2) :: (match recs with
    | some b => [(b, 2)]
    | none => [])) g (fun c t =>
    let va := c.read t a 2
    let offs := recs.map (fun b => (c.read t b 2 % 2 ^ 32, c.read t b 2 / 2 ^ 32))
    let att : Attachment := { id := s.nextId, bandA0 := bitsOf va 0 16, bandA1 := bitsOf va 16 16, bandB := bitsOf va 32 16, records := offs }
    let wild := match offs with
      | some r => decide (2 ^ 17 ≤ r.1) || decide (2 ^ 17 ≤ r.2)
      | none => false
    let odd := match offs with
      | some r => r.1 % 4 != 0 || r.2 % 4 != 0
      | none => false
    if betaInvalid att.bandA0 || betaInvalid att.bandB || bitsOf va 48 16 != 0 || wild then .error (.matrixOperand, 0)
    else if odd then .error (.align, 0)
    else .ok (fun s => (s.issueMat c t g (.mscl att.id)).modWarp c.core c.slot (fun w => { w with attach := some att }))) s

/-- MSCL (R352). -/
def execMscl (a b : Opnd) (g : Bool) (s : State) : Result := msclStep a (some b) g s
/-- MSCL.band (R352). -/
def execMsclBand (a : Opnd) (g : Bool) (s : State) : Result := msclStep a none g s

/-- MAEPI (R353). -/
def execMaepi (k : Fin 4) (a : Opnd) (g : Bool) (s : State) : Result :=
  matStep [(a, 2)] g (fun c t =>
    let va := c.read t a 2
    let d := bitsOf va 0 17
    let sigma := va / 2 ^ 32
    let own := s.ownBytes c
    if !(s.core c.core).owns c.w.wg k.val then .error (.matrixOperand, 0)
    else match epiFmt (bitsOf va 28 4) with
      | none => .error (.matrixOperand, 0)
      | some (_, esz) =>
        if bitsOf va 17 11 ≠ 0 ∨ bitsOf sigma 23 8 = 255 then .error (.matrixOperand, 0)
        else if d % 4 ≠ 0 then .error (.align, d)
        else if outOf own.2 d (4096 * esz + 4) then .error (.scratchRange, d)
        else .ok (fun s => s.issueMat c t g (.maepi k.val (bitsOf va 28 4) (own.1 + d) (BitVec.ofNat 32 sigma) (c.fmt t)))) s

/-- MARD and MARD.col (R354). -/
def mardStep (k : Fin 4) (col : Bool) (a : Opnd) (g : Bool) (s : State) : Result :=
  matStep [(a, 1)] g (fun c t =>
    let d := c.read t a 1
    let own := s.ownBytes c
    if !(s.core c.core).owns c.w.wg k.val then .error (.matrixOperand, 0)
    else if d % 4 ≠ 0 then .error (.align, d)
    else if outOf own.2 d 16388 then .error (.scratchRange, d)
    else .ok (fun s => s.issueMat c t g (.mard k.val col (own.1 + d)))) s

/-- MARD (R354). -/
def execMard (k : Fin 4) (a : Opnd) (g : Bool) (s : State) : Result := mardStep k false a g s
/-- MARD.col (R354). -/
def execMardCol (k : Fin 4) (a : Opnd) (g : Bool) (s : State) : Result := mardStep k true a g s

/-- MACLR and MACLR.rel (R355): ownership changes at issue, and the zeroing takes a queue entry. -/
def maclrStep (k : Fin 4) (rel : Bool) (p : Fin 64) (s : State) : Result :=
  withIss s (fun c =>
    if c.hel.isSome then s.decodeTrap c .illegalOp
    else
      let x := s.core c.core
      let free := (mget? x.accOwner k.val).isNone && !x.accReleasing.contains k.val
      let ok := x.owns c.w.wg k.val || (!rel && free)
      if x.matFull then s.stall
      else if p.val = 0 ∧ ok = false then s.takeTrap c .matrixOperand 0
      else
        let s :=
          if ok then
            let s := s.modCore c.core (fun x => if rel then { x with accOwner := mdel x.accOwner k.val, accReleasing := x.accReleasing ++ [k.val] }
              else { x with accOwner := mset x.accOwner k.val c.w.wg })
            s.takeId.pushMat c.core (c.matCmd s.nextId 0 false [] (.clear k.val rel))
          else s
        if p.val = 0 then s.finish c []
        else (s.effsBy c (c.tids.map (fun t => Eff.pred t p.val ok))).finish c [p.val])

/-- MACLR (R355). -/
def execMaclr (k : Fin 4) (p : Fin 64) (s : State) : Result := maclrStep k false p s
/-- MACLR.rel (R355). -/
def execMaclrRel (k : Fin 4) (p : Fin 64) (s : State) : Result := maclrStep k true p s

/-- The word of MSTAT (Table 13-10). -/
def State.mstatWord (s : State) (c : Iss) (k : Nat) : Nat :=
  let x := s.core c.core
  x.fence % 16 * 2 ^ 28 + (s.core (pairOfCore c.core)).fence % 16 * 2 ^ 24 +
    (if x.owns c.w.wg k then 2 ^ 8 + mgetD x.accStatus k 0 % 16 else 0)

/-- MSTAT (R356): it waits for the matrix commands that the warp issued earlier. -/
def execMstat (d : Opnd) (k : Fin 4) (s : State) : Result :=
  seqOps s false (fun c => c.tids) [] (some (d, 1)) (fun c =>
    let n := match c.resumed with
      | some n => n
      | none => s.nextId
    if c.resumed.isNone && (s.core c.core).hold.isSome then s.stall
    else if c.sharedWrite c.tids d 1 then s.takeTrap c .sharedWrite 0
    else if (s.core c.core).matQ.any (fun q => q.slot == c.slot && q.wg == c.w.wg && decide (q.id < n)) then s.await c n
    else (s.effsBy c (c.tids.flatMap (fun t => c.writeEffs t d 1 (s.mstatWord c k.val)))).finish c [])

/-! ### Self-test -/

/-- The sub-arrays of some mask whose self-test fails now. -/
def State.failing (s : State) (core : Nat) (mask : Nat) : Nat := mgetD s.defects core 0 &&& mask

/-- Number of set bits of a 4-bit mask. -/
def bits4 (m : Nat) : Nat := (bitsList 4 m).length

/-- Set a status bit of an accumulator. -/
def Core.setStatus (k : Core) (acc bits : Nat) : Core := { k with accStatus := mput 0 k.accStatus acc (mgetD k.accStatus acc 0 ||| bits) }

/-- Fence sub-arrays (R345): SUSP in every accumulator, still owned, that the array's previous operation wrote. -/
def State.fenceArrays (s : State) (core bad : Nat) : State :=
  if bad = 0 then s
  else
    let new := bits4 bad - bits4 (bad &&& (s.core core).fence)
    let s := (s.modCore core (fun k => { k with fence := k.fence ||| bad })).countAt core .mxfence new
    (s.core core).accPrev.foldl (fun s e =>
      s.modCore e.1 (fun k => if (mget? k.accOwner e.2).isSome then k.setStatus e.2 8 else k)) s

/-- The self-test of an array before an operation, on its unfenced sub-arrays (R345). -/
def State.selfTest (s : State) (core : Nat) : State := s.fenceArrays core (s.failing core (15 - (s.core core).fence % 16))

/-- MTEST (R357): privileged; once the queue is empty and the array is not held, the full test runs on all four sub-arrays. -/
def execMtest (d : Opnd) (s : State) : Result :=
  withIss s (fun c =>
    if c.hel.isSome then s.decodeTrap c .illegalOp
    else if !s.privileged c then s.decodeTrap c .privOp
    else match c.opCause c.tids d 1 with
      | some e => s.decodeTrap c e
      | none =>
        if c.sharedWrite c.tids d 1 then s.takeTrap c .sharedWrite 0
        else if !(s.core c.core).matQ.isEmpty || (s.core c.core).hold.isSome then s.await c 0
        else
          let bad := s.failing c.core 15
          let s := s.fenceArrays c.core bad
          let v := bad + 16 * ((s.core c.core).fence % 16)
          (s.effsBy c (c.tids.flatMap (fun t => c.writeEffs t d 1 v))).finish c [])

/-! ### The queue head -/

/-- The head leaves the queue, and the next entry reaches it. -/
def State.popMat (s : State) (core : Nat) : State :=
  s.modCore core (fun k => { k with matQ := match k.matQ with
    | _ :: q :: r => { q with headAt := some s.elapsed } :: r
    | _ => [] })

/-- A tile operation ends (R31, R32, R334). -/
def State.matDone (s : State) (core : Nat) (q : MatCmd) : State := (s.popMat core).opDone core q.slot .tiles q.batch

/-- Withdraw a discarded attachment wherever it stands (R351, R352). -/
def State.dropAttach (s : State) (core : Nat) (q : MatCmd) (id : Nat) : State :=
  let keep := fun (a : Option Attachment) => match a with
    | some x => if x.id = id then none else some x
    | none => none
  let fix := fun (w : MatWork) => match w with
    | .mma k z p a b kk att => MatWork.mma k z p a b kk (keep att)
    | w => w
  (s.modWarp core q.slot (fun w => { w with attach := keep w.attach })).modCore core (fun k => { k with
    matQ := k.matQ.map (fun x => { x with work := fix x.work }) })

/-- Discard the head under a false guard (R29, R351, R352). -/
def State.matDiscard (s : State) (core : Nat) (q : MatCmd) : State :=
  match q.work with
  | .mscl id => (s.dropAttach core q id).matDone core q
  | _ => s.matDone core q

/-- Accumulators whose elements a command reads. -/
def MatWork.reads : MatWork → List Nat
  | .mma k zero pair _ _ _ _ => if zero then [] else k :: (if pair then [k + 1] else [])
  | .maepi k _ _ _ _ => [k]
  | .mard k _ _ => [k]
  | _ => []

/-- Accumulators that a command names. -/
def MatWork.accs : MatWork → List Nat
  | .mma k _ pair _ _ _ _ => k :: (if pair then [k + 1] else [])
  | .maepi k _ _ _ _ => [k]
  | .mard k _ _ => [k]
  | .clear k _ => [k]
  | .mscl _ => []

/-- Scratchpad words that a command reads. -/
def MatWork.touched : MatWork → List Nat
  | .mma _ _ pair a b kk att =>
    let rows := if pair then 128 else 64
    a.touched kk rows ++ b.touched kk 64 ++ (match att.bind (fun x => x.records) with
      | some r => recordWords r.1 kk rows ++ recordWords r.2 kk 64
      | none => [])
  | .maepi _ ofmt dst _ _ => match epiFmt ofmt with
    | some (_, esz) => [dst / 4 + 1024 * esz]
    | none => []
  | _ => []

/-- An operation is dropped (R345, R349): it completes, its accumulators keep their elements and become suspect. -/
def State.matDrop (s : State) (core : Nat) (q : MatCmd) : State :=
  ((q.work.accs.foldl (fun s a => s.modCore core (fun k => k.setStatus a 8)) s).countAt core .mxdrop 1).matDone core q

/-- A scratchpad word with an uncorrectable error reads as an open value (R272; assumption 5). -/
def Core.openWords (k : Core) (fresh : Nat) (ws : List Nat) : Core :=
  (ws.filter (fun w => k.scrBad.contains w)).foldl (fun k w =>
    { k with scratch := mput 0 k.scratch w (BitVec.ofNat 32 (leNat ((upto 4).map (fun i => Config.freeByte (fresh + 4 * w + i))))) }) k

/-- Start the head: the array reads its operands now, and the results stand by until it retires (R336, R346). -/
def State.matBegin (s : State) (core : Nat) (q : MatCmd) : State :=
  let ws := q.work.touched
  let pick := mgetD s.stagedPick core []
  let k0 := s.core core
  let ecc := k0.scrBad.any (fun w => ws.contains w)
  let k := k0.openWords s.fresh ws
  let r : MatOut × Nat := match q.work with
    | .mma acc zero pair a b kk att => (k.matProduct pick acc zero pair a b kk att, 0)
    | .maepi acc ofmt dst sigma fmt => k.epilogue pick acc ofmt dst sigma fmt
    | .mard acc col dst => (k.drainTile acc col dst, 0)
    | .mscl _ | .clear _ _ => (MatOut.none, 0)
  let s := s.modCore core (fun x => { x with
    staged := ws.foldl (fun m w => mset m w (k.mxWord pick w)) x.staged,
    matQ := match x.matQ with
      | _ :: rest => { q with started := true, out := r.1 } :: rest
      | [] => [] })
  let s := { s with stagedPick := mdel s.stagedPick core, fresh := if ecc then s.fresh + 131072 else s.fresh }
  let s := if r.2 = 0 then s else s.countAt core .mxsat r.2
  if ecc then s.eccRecord core q.slot 0 else s

/-- Must an MMAP at the head wait for its partner (R344)?  One whose guard is still pending stands at its head all the same. -/
def State.pairWaits (s : State) (core : Nat) (q : MatCmd) : Bool :=
  let k := s.core (pairOfCore core)
  k.hold.isSome || (match k.matQ with
    | [] => false
    | x :: _ =>
      x.started || (match x.work with
        | .mma _ _ pair _ _ _ _ =>
          pair && (!x.guardPend.isEmpty || x.guardVal) &&
            (decide (x.headAt.getD 0 < q.headAt.getD 0) || (x.headAt == q.headAt && decide (pairOfCore core < core)))
        | _ => false))

/-- Does an MMAP that stands at the partner's head, and reached it no later than a command reached this core's, wait for this array, which it
then holds (R344)?  Commands that have not started wait behind it. -/
def State.pairLeads (s : State) (core : Nat) (q : MatCmd) : Bool := match (s.core (pairOfCore core)).matQ with
  | [] => false
  | x :: _ => !x.started && x.guardPend.isEmpty && x.guardVal && decide (x.headAt.getD 0 ≤ q.headAt.getD 0) && (match x.work with
    | .mma _ _ pair _ _ _ _ => pair
    | _ => false)

/-- An element that a command reads carries an uncorrectable error (R349). -/
def Core.readsBad (k : Core) (w : MatWork) : Bool := k.accBad.any (fun e => w.reads.contains (e / 4096))

/-- MATRIX_QUEUE_HEAD (R29, R336, R344, R345, R349): the head resolves its guard; a command that runs is tested, held or dropped as
the rules say, and starts. -/
def execMatrixQueueHead (core : Nat) (s : State) : Result :=
  let k := s.core core
  match k.matQ with
  | [] => .next s
  | q :: _ =>
    if q.started || k.hold.isSome || !q.guardPend.isEmpty then .next s
    else if !q.guardVal then .next (s.matDiscard core q)
    else match q.work with
      | .mscl _ => .next (if s.pairLeads core q then s else s.matDone core q)
      | .mma _ _ pair a b kk _ =>
        if (if pair then s.pairWaits core q else s.pairLeads core q) then .next s
        else
          let s := if pair then ((s.modCore (pairOfCore core) (fun k => { k with hold := some { leader := core } })).pairUnstage core).selfTest (pairOfCore core) else s
          let s := s.selfTest core
          let fenced := (s.core core).fence != 0
          let drop := if pair then fenced || (s.core (pairOfCore core)).fence != 0 else fenced && decide (8192 < 2 * matCycles a b kk)
          let unhold := fun (s : State) => if pair then (s.modCore (pairOfCore core) (fun k => { k with hold := none })).pairUnstage core else s
          if drop then .next ((unhold s).matDrop core q)
          else if k.readsBad q.work then .next (((unhold s).eccRecord core q.slot 0).matDrop core q)
          else .next (s.matBegin core q)
      | _ =>
        if s.pairLeads core q then .next s
        else if k.readsBad q.work then .next ((s.eccRecord core q.slot 0).matDrop core q)
        else .next (s.matBegin core q)

/-- The meter of an operation's bit-products, by the wider of its two formats (R351, Table 18-4). -/
def matMeter (a b : MatOperand) : Meter :=
  match (if matBits a.fmt < matBits b.fmt then matBits b.fmt else matBits a.fmt) with
  | 4 => .mbp4
  | 8 => .mbp8
  | 12 => .mbp12
  | _ => .mbp16

/-- The counts and meters of an operation performed (R351, R358). -/
def State.matCount (s : State) (core : Nat) (w : MatWork) : State :=
  match w with
  | .mma _ _ pair a b kk _ =>
    let s := (s.countAt core .mxops 1).meterAt core (matMeter a b) ((if pair then 2 else 1) * 4096 * a.q * b.q * kk)
    if pair then s.countAt core .mxpair 1 else s
  | _ => s

/-- The writes of an operation that retires (R343, R346, R353, R354). -/
def Core.matWrite (k : Core) (o : MatOut) : Core :=
  let k := { k with acc := o.acc.foldl (fun m e => mput 0 m e.1 e.2) k.acc, accBad := k.accBad.filter (fun e => !(o.acc.any (fun x => x.1 == e))) }
  let k := o.status.foldl (fun k e => k.setStatus e.1 e.2) k
  o.scr.foldl (fun k e => { k.setWord e.1 e.2 with staged := mset k.staged e.1 e.2 }) k

/-- What an array remembers of an operation that it performed (R345), and the end of a pair hold (R344). -/
def State.matAfter (s : State) (core : Nat) (w : MatWork) : State :=
  match w with
  | .mma acc _ pair _ _ _ _ =>
    let s := s.modCore core (fun k => { k with accPrev := [(core, acc)] })
    if pair then (s.modCore (pairOfCore core) (fun k => { k with hold := none, accPrev := [(core, acc + 1)] })).pairUnstage core else s
  | _ => s

/-- Zero an accumulator (R355). -/
def Core.matClear (k : Core) (acc : Nat) (rel : Bool) : Core :=
  { k with acc := k.acc.filter (fun e => e.1 / 4096 != acc), accBad := k.accBad.filter (fun e => e / 4096 != acc),
           accStatus := mdel k.accStatus acc, accReleasing := if rel then k.accReleasing.erase acc else k.accReleasing }

/-- MATRIX_RETIRE (R336): the started operation at the head retires. -/
def execMatrixRetire (core : Nat) (s : State) : Result :=
  match (s.core core).matQ with
  | [] => .next s
  | q :: _ =>
    if !q.started then .next s
    else match q.work with
      | .clear acc rel =>
        let s := if rel then s.forgetAccs core [acc] else s
        .next ((s.modCore core (fun k => k.matClear acc rel)).popMat core)
      | w =>
        let s := ((s.modCore core (fun k => k.matWrite q.out)).matAfter core w).matCount core w
        let s := if q.out.flags = 0 then s else s.effs core q.slot (.split 0) [.flags q.tid q.out.flags]
        .next (s.matDone core q)

end Sys2Proof.Machine
end

