-- ==== Sys2Proof/Machine/Fetch.lean ====
section
/-! DEFINITION. Selecting and fetching the next instruction of a core: bank conflicts, cost, the candidates and their order, stops
at stations, and withholding (02_words_registers.md R67, 06_sequencer.md R149 to R163, 11_recruiter.md R280,
19_power_clock_controller.md R485). -/

namespace Sys2Proof.Machine

/-! ### Bank conflicts -/

/-- The source operands that an instruction reads from the register file, with their widths in registers (R67). -/
def bankReads : Instr → List (Opnd × Nat)
  | .add f | .sub f | .adds f | .subs f | .addsu f | .subsu f | .mul f | .mulh f | .mulhu f | .divs f | .divu f | .rems f | .remu f | .min f
  | .max f | .minu f | .maxu f | .and f | .or f | .xor f | .shl f | .shr f | .shra f | .rol f | .fadd f | .fsub f | .fmul f | .fmin f | .fmax f
  | .fdiv f | .hadd2 f | .hmul2 f | .hadd2Bf f | .hmul2Bf f | .pack f | .shfl f => [(f.a, 1), (f.b, 1)]
  | .mad f | .ffma f | .hfma2 f | .hfma2Bf f => [(f.d, 1), (f.a, 1), (f.b, 1)]
  | .addc f | .subb f | .dadd f | .dmul f => [(f.a, 2), (f.b, 2)]
  | .dfma f => [(f.d, 2), (f.a, 2), (f.b, 2)]
  | .lea f => [(f.a, 2), (f.b, 1)]
  | .sel f => [(f.a, 1), (f.b, 1)]
  | .mov f | .not f | .neg f | .abs f | .negs f | .abss f | .clz f | .popc f | .brev f | .frcp f | .frsq f | .fsqrt f | .fexp2 f | .flog2 f
  | .fclass f | .unpk _ _ f => [(f.a, 1)]
  | .setp _ f | .fsetp _ f => [(f.a, 1), (f.b, 1)]
  | .dsetp _ f => [(f.a, 2), (f.b, 2)]
  | .addi f | .andi f | .ori f | .xori f => [(f.a, 1)]
  | .shli f | .shri f | .shrai f => [(f.a, 1)]
  | .movh f => [(f.d, 1)]
  | .cvt fn f => [(f.a, (cvtKinds fn).2.regs)]
  | .qnt f => [(f.a, 8), (f.b, 1)]
  | .dqnt f => [(f.a, 4), (f.b, 1)]
  | .shflu f | .shfld f | .shflx f | .bcast f => [(f.a, 1)]
  | .redx op f => [(f.a, op.regs)]
  | .matchMask f => [(f.a, 1), (f.b, 1)]
  | .ld _ f | .ldn _ f => [(f.a, 2)]
  | .st w f => [(f.d, w.words), (f.a, 2)]
  | .stn _ f => [(f.d, 1), (f.a, 2)]
  | .lda _ _ f => [(f.a, 2)]
  | .stl w _ f => [(f.d, w.words), (f.a, 2)]
  | .lds _ f | .ldp _ f => [(f.a, 1)]
  | .sts w f | .stp w f => [(f.d, w.words), (f.a, 1)]
  | .atomAdd f | .atomIncw f | .atomExch f | .atomMin f | .atomMax f | .atomMinu f | .atomMaxu f | .atomAnd f | .atomOr f | .atomXor f =>
    [(f.a, 2), (f.b, 1)]
  | .atomCas f => [(f.a, 2), (f.b, 2)]
  | .redAdd f | .redIncw f | .redMin f | .redMax f | .redMinu f | .redMaxu f | .redAnd f | .redOr f | .redXor f => [(f.a, 2), (f.b, 1)]
  | .cpa16Bar x a _ _ _ | .cpa16Nb x a _ _ => [(a, 2), (x, 1)]
  | .fwr x a _ _ => [(x, 4), (a, 2)]
  | .frd _ a _ _ => [(a, 2)]
  | .fsig a b _ _ => [(a, 2), (b, 2)]
  | .fatom _ a b _ _ => [(a, 2), (b, 4)]
  | .ret => [(linkOpnd, 2)]
  | .bri a | .calli a | .marm a _ | .cinvAddr a | .prefL2 a _ _ | .prefL1 a _ _ | .barc a _ | .rpart64 a _ => [(a, 2)]
  | .mscl a b _ => [(a, 2), (b, 2)]
  | .waitb a _ | .wbase a _ | .ixset a _ _ _ | .ixadd a _ _ _ _ | .fmt a _ _ _ | .join a _ | .garr _ a _ | .bari a _ | .rpart32 a _
  | .msclBand a _ | .maepi _ a _ | .mard _ a _ | .mardCol _ a _ | .wsbind _ a | .wsrel a => [(a, 1)]
  | .wrsr a r _ _ => [(a, if r.wide then 2 else 1)]
  | .lnch _ a _ _ => [(a, 2)]
  | .flnch _ a b _ | .mma _ a b _ | .mmaZ _ a b _ | .mmap _ a b _ | .mmapZ _ a b _ => [(a, 2), (b, 1)]
  | .gwait _ a b _ | .wsqry _ a b => [(a, 1), (b, 1)]
  | .gmem a b _ | .rcrt _ a b _ => [(a, 1), (b, 2)]
  | .cpbG2s f | .cpbS2g f | .cpbm f | .cpbpG2s f | .cpbpS2s f => [(f.a, 2), (f.b, 4), (f.x, 1)]
  | .wstrm x a b _ => [(a, 2), (b, 4), (x, 1)]
  | _ => []

/-- What an instruction reads beside its operands (R68, R149): its guard, named predicates, index and special registers. -/
structure Uses where
  guard : Bool
  preds : List Nat
  locs : List RegLoc
  deriving DecidableEq, Repr

/-- What a synchronous instruction reads beside its operands; a queued command takes guard slots instead (R28). -/
def usesOf : Instr → Uses
  | .add f | .sub f | .adds f | .subs f | .addsu f | .subsu f | .mul f | .mulh f | .mulhu f | .mad f | .divs f | .divu f | .rems f | .remu f
  | .min f | .max f | .minu f | .maxu f | .and f | .or f | .xor f | .shl f | .shr f | .shra f | .rol f | .pack f | .shfl f =>
    { guard := f.g, preds := [], locs := [] }
  | .fadd f | .fsub f | .fmul f | .ffma f | .fmin f | .fmax f | .fdiv f | .hadd2 f | .hmul2 f | .hfma2 f | .hadd2Bf f | .hmul2Bf f | .hfma2Bf f =>
    { guard := f.g, preds := [], locs := [.special .fmt] }
  | .addc f | .subb f | .lea f => { guard := f.g, preds := [], locs := [] }
  | .dadd f | .dmul f | .dfma f => { guard := f.g, preds := [], locs := [.special .fmt] }
  | .sel _ => { guard := true, preds := [], locs := [] }
  | .mov f | .not f | .neg f | .abs f | .negs f | .abss f | .clz f | .popc f | .brev f | .fclass f | .unpk _ _ f =>
    { guard := f.g, preds := [], locs := [] }
  | .frcp f | .frsq f | .fsqrt f | .fexp2 f | .flog2 f | .cvt _ f | .redx _ f => { guard := f.g, preds := [], locs := [.special .fmt] }
  | .setp _ f => { guard := f.g, preds := [], locs := [] }
  | .fsetp _ f | .dsetp _ f => { guard := f.g, preds := [], locs := [.special .fmt] }
  | .addi f | .andi f | .ori f | .xori f => { guard := f.g, preds := [], locs := [] }
  | .shli f | .shri f | .shrai f => { guard := f.g, preds := [], locs := [] }
  | .movl f | .movh f => { guard := f.g, preds := [], locs := [] }
  | .qnt f | .dqnt f => { guard := f.g, preds := [], locs := [.special .fmt] }
  | .shflu f | .shfld f | .shflx f | .bcast f => { guard := f.g, preds := [], locs := [] }
  | .voteAll f | .voteAny f => { guard := f.g, preds := [f.q.val], locs := [] }
  | .voteBallot f => { guard := f.g, preds := [f.q.val], locs := [] }
  | .matchMask f => { guard := f.g, preds := [], locs := [] }
  | .pand f | .por f | .pxor f => { guard := f.g, preds := [f.q.val, f.r.val], locs := [] }
  | .pnot f | .pmov f => { guard := f.g, preds := [f.q.val], locs := [] }
  | .brp f | .call f => { guard := false, preds := [f.p.val], locs := [] }
  | .wrsr _ r g _ => { guard := g, preds := [], locs := if r = .fpst then [.special .fpst] else [] }
  | .trap _ g | .exit g | .elect _ g | .ixset _ _ g _ | .lnch _ _ _ g | .join _ g | .lqw g | .flnch _ _ _ g | .garr _ _ g
  | .gwait _ _ _ g | .gmem _ _ g | .bara _ g | .barw _ g | .barq _ _ g | .rcrt _ _ _ g | .rpart32 _ g | .rpart64 _ g | .rqry _ g
  | .prefL2 _ g _ | .prefL1 _ g _ => { guard := g, preds := [], locs := [] }
  | .ixadd _ k _ g _ => { guard := g, preds := [], locs := [.index k.val] }
  | .rdsr _ r g _ => { guard := g, preds := [], locs := [.special r] }
  | .waitb _ _ => { guard := false, preds := [], locs := [.special .batch] }
  | .maepi _ _ _ | .fmt _ _ _ _ => { guard := false, preds := [], locs := [.special .fmt] }
  | .rft => { guard := false, preds := [], locs := [.special .trappc] }
  | _ => { guard := false, preds := [], locs := [] }

/-- Does an instruction wait for a predicate that is being written, or for an index or special register (R68, R149)? -/
def State.lacks (s : State) (c : Iss) (u : Uses) : Bool :=
  let k := s.core c.core
  let writing := fun (p : Nat) => p != 0 && k.stages.any (fun st => st.slot == c.slot && st.preds.contains (predKey c.who p))
  let pend := s.pendingLocs c.core c.slot
  (u.guard && !(s.pendingGuards c c.tids).isEmpty) || u.preds.any writing || u.locs.any (fun l => c.tids.any (fun t => pend.has t l))

/-- Is an instruction uniform (R16)? -/
def uniformInstr (i : Instr) : Bool := match costOf i with
  | some k => k.units == 1
  | none => false

/-- The source operands that thread t's part of an instruction reads: QNT takes four registers of BF16 elements, DQNT the registers that
hold its eight codes (Table 9-5). -/
def Iss.bankReads (c : Iss) (i : Instr) (t : Nat) : List (Opnd × Nat) :=
  match i with
  | .qnt f => [(f.a, c.qntRegs f t), (f.b, 1)]
  | .dqnt f => [(f.a, c.dqntRegs t), (f.b, 1)]
  | _ => Sys2Proof.Machine.bankReads i

/-- The bank of a register word, if it lies in one (R67, R278). -/
def bankOf : RegLoc → Option Nat
  | .file n => some (n % 4)
  | .frozen n => some (n % 4)
  | _ => none

/-- Cycles of bank conflict: the largest number of reads on one bank less 1, over the active threads (R67). -/
def Iss.conflicts (c : Iss) (u : Bool) (ops : Nat → List (Opnd × Nat)) : Nat :=
  (c.srcTids u c.tids).foldl (fun m t =>
    let bs := (ops t).flatMap (fun o => match c.resolve t o.1 o.2 with
      | .ok ls => ls.filterMap bankOf
      | .error _ => [])
    Nat.max m (((upto 4).foldl (fun n b => Nat.max n (bs.filter (· == b)).length) 0) - 1)) 0

/-! ### Fetch and cost -/

/-- The word at the issuer's program counter, at the coherence point, or the cause of its fetch (R243). -/
def State.fetchWord (s : State) (c : Iss) : Except Cause Word :=
  match s.translate c.core c.w.ctx .fetch c.pc.toNat with
  | .error e => .error e
  | .ok t => match t.space with
    | .fabric => .error .pagePerm
    | .host => .ok (if Config.hostFails s.fresh then BitVec.allOnes 32 else bytesWord (s.memRead (plotOf c.core) .host t.key t.pa 4))
    | sp => .ok (bytesWord (s.memRead (plotOf c.core) sp t.key t.pa 4))

/-- An instruction fetched from a host-coherent page has used its answer, which HOSTERR counts where the host failed it, and HOSTIN's bytes
where it did not (R249, R474). -/
def State.noteFetch (s : State) (c : Iss) : State :=
  match s.translate c.core c.w.ctx .fetch c.pc.toNat with
  | .ok t => if t.space = .host then
      let u : State := { s with fresh := s.fresh + 1 }
      if Config.hostFails s.fresh then u.countAt c.core .hosterr 1 else u.meterHost (s.partOfPlot (plotOf c.core)) .host 4 0
    else s
  | .error _ => s

/-- What a fetch gives: an instruction, or a word that decode refuses (R49). -/
inductive Fetched where
  | instr (i : Instr)
  | unused (w : Word)
  deriving DecidableEq, Repr

/-- What a word is (R49). -/
def Fetched.of (w : Word) : Fetched := match Sys2Proof.decode w with
  | .ok i => .instr i
  | .error _ => .unused w

/-- Does what was fetched wait so? -/
def State.fetchedLacks (s : State) (c : Iss) : Fetched → Bool
  | .instr i => s.lacks c (usesOf i)
  | .unused _ => false

/-- The meaning of what was fetched; `run` is exec. -/
def Fetched.exec (run : Instr → State → Result) (f : Fetched) (s : State) : Result := match f with
  | .instr i => run i s
  | .unused w => execUnusedEncoding w s

/-- What stands at the issuer's program counter. -/
def State.fetch (s : State) (c : Iss) : Except Cause Fetched :=
  match s.fetchWord c with
  | .error e => .error e
  | .ok w => .ok (Fetched.of w)

/-- The array cycles of an MMA or MMAP by its operands (R336). -/
def Iss.mmaCycles (c : Iss) (a b : Opnd) : Nat :=
  match c.tids with
  | [] => 0
  | t :: _ =>
    let ab := c.read t a 2
    match matOperand (ab % 2 ^ 32), matOperand (ab / 2 ^ 32) with
    | some x, some y => matCycles x y (32 * (c.read t b 1 % 256 + 1))
    | _, _ => 0

/-- The weight of an instruction (Table 19-1), where it depends on its operands. -/
def Iss.weightOf (c : Iss) (i : Instr) (w : Nat) : Nat :=
  match i with
  | .mma _ a b _ | .mmaZ _ a b _ => mmaWeight false (c.mmaCycles a b)
  | .mmap _ a b _ | .mmapZ _ a b _ => mmaWeight true (c.mmaCycles a b)
  | _ => w

/-- What issuing an instruction costs whoever issues it (R16, R67, R151, R280, R484). -/
def Iss.costOf (c : Iss) (i : Instr) : Cost :=
  match Sys2Proof.Machine.costOf i with
  | none => Cost.free
  | some k =>
    let k := { k with weight := c.weightOf i k.weight, fp := mergesFlags i }
    let n := c.conflicts (uniformInstr i) (c.bankReads i)
    if c.hel.isSome then { k.helper with lanes := 1 + n } else { k with lanes := k.lanes * (1 + n) }

/-- What issuing what was fetched costs. -/
def Iss.fetchedCost (c : Iss) : Fetched → Cost
  | .instr i => c.costOf i
  | .unused _ => Cost.free

/-! ### Stations -/

/-- Every mask full (R162). -/
def StationMasks.full : StationMasks := { filem := 2 ^ 256 - 1, predm := 2 ^ 64 - 1, ixm := 15, accm := 15 }

/-- An instruction that parks until a condition holds: an implicit station (R162). -/
def waitsAt (f : Fetched) : Bool :=
  match f with
  | .unused _ => false
  | .instr i => match i with
    | .barw _ _ | .barx _ | .waitc _ _ _ _ | .waitb _ _ | .gwait _ _ _ _ | .lqw _ | .join _ _ | .rjoin _ _ _ | .mstat _ _ | .mtest _ | .fence _
    | .fenceX _ _ _ | .cwbWcb | .cwbPriv => true
    | _ => false

/-- Is a latch entry of the split alive, or an MSCL attachment pending (R162, R163)? -/
def Iss.clinging (c : Iss) (sp : Split) : Bool :=
  c.w.attach.isSome || c.w.latches.any (fun e => hasBit sp.strands (e.1 / 16) && decide (0 < e.2.life))

/-- The listed station at the issuer's program counter (R91, R161), and whether that counter lies in the kernel's code. -/
def State.listed (s : State) (c : Iss) : Option StationMasks × Bool :=
  match s.gridOf c.w with
  | none => (none, false)
  | some (_, g) =>
    let inside := s.inCode c
    (if inside then (g.stations.find? (fun x => x.pcoff == c.pc.toNat - g.code)).map (fun x => x.masks) else none, inside)

/-- The parked source threads on which the next instruction of an issuer stalls (R222, R225). -/
def State.fetchedStall (s : State) (c : Iss) : Fetched → List Nat
  | .instr i => s.stallsOn c i
  | .unused _ => []

/-- Is the split one whose replay another split of the warp waits for at an exchange that it may not stop before, a latch entry
being alive or an MSCL attachment pending (R225)? -/
def State.awaited (s : State) (c : Iss) (sp : Split) : Bool :=
  c.w.splits.any (fun e => e.2.status == .ready && (match s.issFor c.core c.slot (.split e.1) Cost.free with
    | some o => o.clinging e.2 && (match s.fetch o with
        | .ok f => (s.fetchedStall o f).any (fun j => hasBit sp.strands (j / 4))
        | .error _ => false)
    | none => false))

/-- Does the issuing split stop here for a pre-emption request, and with which masks (R161 to R163)?  A split that has yet to replay an
instruction which is also a listed station stops with the masks of that station (assumption 95). -/
def State.stopAt (s : State) (c : Iss) (sp : Split) (i : Fetched) : Option StationMasks :=
  let asked := match s.wgOf c with
    | some w => w.preempt.isSome && w.reached
    | none => false
  if !asked then none
  else match sp.status with
    | .parked (.mwait _ _) => some StationMasks.full
    | .parked (.woken _) => some StationMasks.full
    | .parked _ => if waitsAt i then some StationMasks.full else none
    | .held => some StationMasks.full
    | .ready =>
      let (st, inside) := s.listed c
      match st with
      | some m => some m
      | none =>
        let cling := c.clinging sp
        match i with
        | .instr (.mwait _ _) => some StationMasks.full
        | _ =>
          if !cling && ((sp.replay.isSome && !s.awaited c sp) || !(s.fetchedStall c i).isEmpty || decide (256 ≤ sp.sinceRequest) || !inside)
          then some StationMasks.full else none

/-- The splits that a page fault parks and that stopped, though the issuing split must wait for their replay (R225), stopped no
more; none where there is none. -/
def State.unstopSources (s : State) (c : Iss) (f : Fetched) : Option State :=
  let js := s.fetchedStall c f
  let hit := fun (sp : Split) => sp.stopped.isSome && js.any (fun j => hasBit sp.strands (j / 4))
  if c.w.splits.any (fun e => hit e.2) then
    some (s.modWarp c.core c.slot (fun w => { w with splits := w.splits.map (fun e => (e.1, if hit e.2 then { e.2 with stopped := none } else e.2)) }))
  else none

/-! ### Candidates -/

/-- Lanes of a slot that its panel pair's pricking has lent (R276). -/
def Core.lentLanes (k : Core) (slot : Nat) : Nat :=
  match mget? k.prickings (slot / 2) with
  | some p => maskOf ((p.helpers.filter (fun h => h.2.lentFrom == slot)).map Prod.fst)
  | none => 0

/-- Has a group wait been decided (R409)? -/
def State.gwaitOver (s : State) (key n : Nat) (bad : Bool) : Bool := bad || passed (s.group key).gen n

/-- May a wait end now, as far as its own record tells? -/
def State.waitOver (s : State) (w : Warp) : Wait → Bool
  | .mwait _ _ => w.anyFired
  | .woken _ => true
  | .page _ => false
  | .barw _ _ _ _ ended => ended.isSome
  | .gwait key n bad => s.gwaitOver key n bad
  | .reply _ val => val.isSome
  | .recRead _ bytes => bytes.isSome
  | .enq _ res => res.isSome
  | .instr _ => true
  | .record _ => false

/-- May a split go on: it issues, or tries the instruction at which it is parked (R149, R158, R160, R276)? -/
def State.splitOpen (s : State) (k : Core) (slot : Nat) (w : Warp) (sp : Split) : Bool :=
  sp.stopped.isNone && !w.recordStopped && !w.heldByTrap sp && (sp.strands &&& k.lentLanes slot) == 0 &&
  (match sp.status with
    | .ready => true
    | .held => false
    | .parked x => s.waitOver w x)

/-- May a helper go on? -/
def State.helperOpen (s : State) (w : Warp) (h : Helper) : Bool := match h.wait with
  | none => true
  | some x => s.waitOver w x

/-- A candidate: slot, issuer, age, rank among equal ages, and whether it resumes a wait rather than issue. -/
structure Cand where
  slot : Nat
  who : Who
  age : Nat
  rank : Nat
  resumes : Bool
  reserve : Option TimingClass
  deriving DecidableEq, Repr

/-- Every split and helper of a core that may go on. -/
def State.candidates (s : State) (core : Nat) : List Cand :=
  let k := s.core core
  k.warps.flatMap (fun x =>
    let (slot, w) := x
    let splits := (w.splits.filter (fun e => s.splitOpen k slot w e.2)).map (fun e =>
      ({ slot := slot, who := .split e.1, age := e.2.age, rank := 64 * slot + e.1, resumes := e.2.status != .ready,
         reserve := reservedClass e.2.reserve } : Cand))
    let helpers := match mget? k.prickings (slot / 2) with
      | some p => if p.slot = slot then (p.helpers.filter (fun e => s.helperOpen w e.2)).map (fun e =>
          ({ slot := slot, who := .helper e.1, age := e.2.age, rank := 64 * slot + 16 + e.1, resumes := e.2.wait.isSome, reserve := reservedClass e.2.reserve } : Cand)) else []
      | none => []
    splits ++ helpers)

/-- Does one candidate go before another: greater age, then lower slot, splits before helpers, lower entry (R150, R280)? -/
def Cand.before (a b : Cand) : Bool := decide (b.age < a.age) || (a.age == b.age && decide (a.rank < b.rank))

/-- Candidates in order. -/
def insertCand (a : Cand) : List Cand → List Cand
  | [] => [a]
  | b :: r => if a.before b then a :: b :: r else b :: insertCand a r

def sortCands (l : List Cand) : List Cand := l.foldr insertCand []

/-- The instruction of a candidate and its cost, where its fetch gives one. -/
def State.candInstr (s : State) (core : Nat) (a : Cand) : Option (Fetched × Cost) :=
  match s.issFor core a.slot a.who Cost.free with
  | none => none
  | some c => match s.fetch c with
    | .ok i => some (i, c.fetchedCost i)
    | .error _ => none

/-- Is a candidate run-eligible in the open class run (R150)? -/
def State.runEligible (s : State) (core : Nat) (a : Cand) : Bool :=
  match (s.core core).run with
  | some r => decide (r.count < 8) && (a.reserve == some r.cls || (match s.candInstr core a with
      | some x => x.2.cls == r.cls
      | none => false))
  | none => false

/-- Are the lanes free (R149, R153)?  An instruction holds them up to its last issue cycle. -/
def Core.lanesFree (k : Core) : Bool := k.stages.all (fun st => decide (st.left ≤ 3))

/-- The order in which a core tries its candidates: those that resume, which need no lanes; then by class run and age (R150). -/
def State.tryOrder (s : State) (core : Nat) : List Cand :=
  let l := sortCands (s.candidates core)
  let go := l.filter (fun a => a.resumes)
  if (s.core core).lanesFree then
    let iss := l.filter (fun a => !a.resumes)
    go ++ iss.filter (s.runEligible core) ++ iss.filter (fun a => !s.runEligible core a)
  else go

/-- Does the allowance withhold an issue of a warp (R485)? -/
def State.withholds (s : State) (core : Nat) (w : Warp) (cost : Cost) : Bool :=
  let k := s.core core
  let prio := match mget? s.wgs w.wg with
    | some g => g.prio
    | none => 0
  decide (k.allow < (cost.weight : Int)) || decide ((prio : Int) < k.floor)

/-- Park a split or helper whose fetch meets an absent page (R245). -/
def State.parkFetch (s : State) (c : Iss) : State :=
  let (s, asks) := s.askPages c [c.pc.toNat / 4096]
  match c.who with
  | .split _ => s.modSplit c (fun sp => { sp with status := .parked (.page asks), reserve := none })
  | .helper l => s.modHelper c.core c.slot l (fun h => { h with wait := some (.page asks), reserve := none })

/-- Let a split or helper issue one instruction: none where it cannot issue in this cycle.  `run` is exec. -/
def State.tryIssue (run : Instr → State → Result) (s : State) (core slot : Nat) (who : Who) : Option Result :=
  match s.issFor core slot who Cost.free with
  | none => none
  | some c =>
    let ready := match c.split, c.hel with
      | some sp, _ => sp.status == .ready
      | none, some h => h.wait.isNone
      | none, none => false
    let failed := match c.split with
      | some sp => sp.fabric && ready
      | none => false
    if failed then some (.next ((s.modSplit c (fun sp => { sp with fabric := false })).enterTrap c .fabric 0 c.pc 0))
    else match s.fetch c with
      | .error e => some (.next (if e = .pageAbsent then s.parkFetch c else s.decodeTrap c e))
      | .ok i =>
        match c.split.bind (fun sp => s.stopAt c sp i) with
        | some m => some (.next (s.modSplit c (fun sp => { sp with stopped := some m })))
        | none =>
          match s.unstopSources c i with
          | some t => some (.next t)
          | none =>
          let cost := c.fetchedCost i
          if ready && (s.withholds core c.w cost || s.fetchedLacks c i) then none
          else match i.exec run { (if ready then s.noteFetch c else s) with issuer := some { core := core, slot := slot, who := who, cost := cost, stalled := false } } with
            | .next t => if (match t.issuer with
                | some x => x.stalled
                | none => false) then none else some (.next t)
            | r => some r

/-- The first candidate of a core that can issue. -/
def State.tryAll (run : Instr → State → Result) (s : State) (core : Nat) : List Cand → Option Result
  | [] => none
  | a :: r => match s.tryIssue run core a.slot a.who with
    | some x => some x
    | none => s.tryAll run core r

/-- Warps of a core, by 4 core + slot, with a withheld split or helper: one that would issue but for the allowance (R485). -/
def State.withheldSlots (run : Instr → State → Result) (s : State) (core : Nat) : List Nat :=
  let k := s.core core
  if !k.lanesFree then []
  else (((s.candidates core).filter (fun a => !a.resumes && (match s.warp? core a.slot, s.candInstr core a with
      | some w, some (i, cost) => s.withholds core w cost && !(match s.issFor core a.slot a.who cost with
          | some c => s.fetchedLacks c i
          | none => false) && (match i.exec run { s with issuer := some { core := core, slot := a.slot, who := a.who, cost := cost, stalled := false } } with
          | .next t => (match t.issuer with
            | some x => !x.stalled
            | none => false)
          | _ => true)
      | _, _ => false))).map (fun a => 4 * core + a.slot)).dedup

/-- Withheld warps of a core's current cycle are recorded, beside those that an earlier issue of the cycle has found (R485). -/
def State.noteWithheld (run : Instr → State → Result) (s : State) (core : Nat) : State :=
  { s with withheld := (s.withheld ++ s.withheldSlots run core).dedup }

/-- One issue of a core (R149, R150). -/
def State.issueCore (run : Instr → State → Result) (s : State) (core : Nat) : Option Result :=
  let s := s.noteWithheld run core
  s.tryAll run core (s.tryOrder core)

end Sys2Proof.Machine
end

