-- ==== Sys2Proof/Machine/Recruiter.lean ====
section
/-! DEFINITION. The recruiter engine: prickings, helpers, chunks, partials and their ordered fold, one meaning for each instruction
(11_recruiter.md R273 to R299). -/

namespace Sys2Proof.Machine

/-! ### Lanes -/

/-- Has strand l of a warp no live thread (R275)? -/
def Warp.strandDead (w : Warp) (l : Nat) : Bool := !((upto 4).any (fun k => w.liveBit (4 * l + k)))

/-- Does strand l belong to a split that MWAIT or BARW parks (R275)?  One whose wait has ended has woken. -/
def Warp.lendable (w : Warp) (l : Nat) : Bool :=
  w.splits.any (fun e => hasBit e.2.strands l && (match e.2.status with
    | .parked (.mwait _ _) => !w.anyFired
    | .parked (.barw _ _ _ _ none) => true
    | _ => false))

/-- An idle lane: its slot, its number, and whether its owner's context admits the grant (R275). -/
structure IdleLane where
  slot : Nat
  lane : Nat
  ours : Bool
  deriving DecidableEq, Repr

/-- Free lanes of a slot, and lendable ones (R275). -/
def Core.freeLanes (k : Core) (ctx slot mine : Nat) : List IdleLane :=
  ((upto 16).filter (fun l => l != mine)).filterMap (fun l => match mget? k.warps slot with
    | none => some { slot := slot, lane := l, ours := true }
    | some w => if w.strandDead l then some { slot := slot, lane := l, ours := w.ctx == ctx } else none)

def Core.lendLanes (k : Core) (ctx slot mine : Nat) : List IdleLane :=
  ((upto 16).filter (fun l => l != mine)).filterMap (fun l => match mget? k.warps slot with
    | none => none
    | some w => if !w.strandDead l && w.lendable l then some { slot := slot, lane := l, ours := w.ctx == ctx } else none)

/-- The neighbouring slot, unless the recruiter's own warp occupies it (R273, R275). -/
def Core.neighbour (k : Core) (slot : Nat) : List Nat := match mget? k.warps slot with
  | some w => if w.panels = 2 then [] else [if slot % 2 = 0 then slot + 1 else slot - 1]
  | none => []

/-- Idle lanes in the order of R277. -/
def Core.idleLanes (k : Core) (ctx slot mine : Nat) : List IdleLane :=
  let nb := k.neighbour slot
  k.freeLanes ctx slot mine ++ nb.flatMap (fun n => k.freeLanes ctx n mine) ++ k.lendLanes ctx slot mine ++ nb.flatMap (fun n => k.lendLanes ctx n mine)

/-- At most one lane of each number: the first (R275, R277). -/
def firstOfLane : List IdleLane → List IdleLane
  | [] => []
  | x :: r => x :: (firstOfLane r).filter (fun y => y.lane != x.lane)

/-- The lanes granted and the reason code (R277). -/
def Core.grant (k : Core) (ctx slot mine want count : Nat) (withheld : Bool) : List IdleLane × Nat :=
  let idle := k.idleLanes ctx slot mine
  let ours := if withheld then [] else firstOfLane (idle.filter (fun x => x.ours))
  let need := Nat.min want count
  let got := ours.take need
  let rsn := if got.length = want then 0
    else if withheld then 3
    else if ours.length < need then (if need ≤ (firstOfLane idle).length then 4 else 2)
    else 5
  (got, rsn)

/-! ### The record -/

/-- A chunk that ends a member's claim is done (R283). -/
def Pricking.chunkDone (p : Pricking) (j : Option Nat) : Pricking :=
  match j with
  | some n => { p with chunks := setAt p.chunks n .done }
  | none => p

/-- The recruiter completes the chunk it holds (R283). -/
def Pricking.recruiterDone (p : Pricking) : Pricking := { p.chunkDone p.held with held := none }

/-- The status word of Table 11-9. -/
def Pricking.status (p : Pricking) (isOpen : Bool) : Nat :=
  let count := fun (f : Chunk → Bool) => (p.chunks.filter f).length
  (if isOpen then 2 ^ 31 else 0) + (match p.fault with
    | some (c, _, _) => 2 ^ 30 + c % 128 * 2 ^ 23
    | none => 0) + p.rsn % 8 * 2 ^ 20 + (if isOpen then p.helpers.length % 16 * 2 ^ 16 else 0) +
    count (fun c => c == .done || c == .cancelled) % 256 * 2 ^ 8 + count (fun c => c == .unclaimed) % 256

/-- Close a pricking: its panel pair keeps the status word (R298). -/
def Core.closePricking (k : Core) (pair : Nat) (p : Pricking) : Core :=
  { k with prickings := mdel k.prickings pair, rqry := mput 0 k.rqry pair (p.status false) }

/-- The pricking whose recruiter is among some threads of the issuing split (R273). -/
def Iss.mine (c : Iss) (ts : List Nat) : Option Pricking :=
  match c.hel, c.pk with
  | none, some p => if p.slot == c.slot && ts.contains p.tid then some p else none
  | _, _ => none

/-- Change the pricking of the issuer's panel pair. -/
def State.modPk (s : State) (c : Iss) (f : Pricking → Pricking) : State := s.modCore c.core (fun k => k.modPricking (c.slot / 2) f)

/-- The end of a helper at its own instruction: charged, its chunk done, its lane returned (R286). -/
def State.endOwn (s : State) (c : Iss) (lane : Nat) : State := (s.retire c []).modPk c (fun p => p.endHelper lane .done)

/-- A helper waits at RNEXT and RLSE for its accesses (R283). -/
def Helper.busy (h : Helper) : Bool := h.loads != 0 || h.stores != 0

/-! ### Instructions -/

/-- The pricking that RCRT opens (R282, R293). -/
def Iss.opened (c : Iss) (s : State) (r ctl n entry : Nat) : Pricking :=
  let size := Nat.max (bitsOf ctl 0 15) ((n + 63) / 64)
  let count := (n + size - 1) / size
  let (lanes, rsn) := (s.core c.core).grant c.w.ctx c.slot (r / 4) (bitsOf ctl 15 4) count (s.withheld.any (fun x => x / 4 == c.core))
  let code := match s.gridOf c.w with
    | some (_, g) => g.code
    | none => 0
  let helper := fun (x : IdleLane) =>
    ({ lentFrom := x.slot, pc := BitVec.ofNat 64 (code + entry), regs := [], preds := 1, fmt := (c.w.strand (r / 4)).fmt, fpst := 0, guardP := 0,
       guardInv := false, chunk := none, loads := 0, stores := 0, guardSlots := [], release := Release.none, wait := none, age := 0,
       reserve := none, bad := [] } : Helper)
  { slot := c.slot, tid := r, entry := entry, shareBase := c.w.wbase + bitsOf ctl 25 7, shareLen := bitsOf ctl 19 6, n := n, c := size,
    chunks := List.replicate count .unclaimed, parts := [], helpers := lanes.foldl (fun m x => mset m x.lane (helper x)) [], fault := none, flags := 0,
    rsn := rsn, held := none, claims := [], served := [] }

/-- RCRT (R293). -/
def execRcrt (x a b : Opnd) (g : Bool) (s : State) : Result :=
  seqOps s false (fun c => c.reader g) [(a, 1), (b, 2)] (some (x, 1)) (fun c =>
    match c.exec g with
    | [] => s.finish c []
    | r :: rest =>
      let ctl := c.read r b 2 % 2 ^ 32
      let n := c.read r b 2 / 2 ^ 32
      let entry := c.read r a 1
      let first := c.w.wbase + bitsOf ctl 25 7
      let len := bitsOf ctl 19 6
      let size := match s.gridOf c.w with
        | some (_, gr) => gr.codeSize
        | none => 0
      let pend := s.pendingLocs c.core c.slot
      let answer := fun (s : State) (v : Nat) =>
        (s.effsBy c (c.writeEffs r x 1 v ++ rest.flatMap (fun t => c.writeEffs t x 1 0))).finish c []
      if 32 < len ∨ bitsOf ctl 0 15 = 0 then s.takeTrap c .illegalOp 0
      else if 120 < bitsOf ctl 25 7 + len ∨ c.w.fileSize < first + len then s.takeTrap c .window 0
      else if entry % 4 ≠ 0 then s.takeTrap c .align entry
      else if size ≤ entry then s.takeTrap c .pagePerm entry
      else if c.sharedWrite (r :: rest) x 1 then s.takeTrap c .sharedWrite 0
      else if (upto len).any (fun i => pend.has r (.file (first + i))) then s.stall
      else if c.pk.isSome then answer ((s.modPk c (fun p => { p with rsn := 1 })).countAt c.core .rcut 1) 0x10
      else
        let p := c.opened s r ctl n entry
        let s := (s.modCore c.core (fun k => { k with prickings := mset k.prickings (c.slot / 2) p })).countAt c.core .rgrant p.helpers.length
        answer (if p.rsn = 0 then s else s.countAt c.core .rcut 1) (0x80 + p.rsn * 16 + p.helpers.length))

/-- The pricking of the issuer with the claims served that are due. -/
def State.servedPk (s : State) (c : Iss) (p : Pricking) : Pricking := p.serve (s.core c.core).clusterCycle p.claims.length

/-- A member's RNEXT completes its chunk and reaches the pricking (R283, R292, R294; assumption 84). -/
def State.sendClaim (s : State) (c : Iss) (lane : Nat) (f : Pricking → Pricking) : State :=
  let now := (s.core c.core).clusterCycle
  let s := s.modPk c (fun p => { f p with claims := mset p.claims lane now })
  if c.resumed.isSome then s else s.park c (.instr 0)

/-- What a served claim writes for its thread (R294). -/
def Iss.claimEffs (c : Iss) (p : Pricking) (t : Nat) (j : Option Nat) (x : Opnd) (pa : Nat) : List Eff := match j with
  | some j => c.writeEffs t x 2 (j * p.c + 2 ^ 32 * Nat.min p.c (p.n - j * p.c)) ++ [.pred t pa true]
  | none => [.pred t pa false]

/-- A helper waits at an RNEXT or RLSE, which it has reached: that counts against no release request (R288). -/
def State.helperWait (s : State) (c : Iss) (l : Nat) (h : Helper) : State :=
  (s.await c 0).modHelper c.core c.slot l (fun x => { x with release := h.release })

/-- RNEXT (R294).  A member's claim is served when its turn comes (R283); a release request that comes before is answered first (R288). -/
def execRnext (x : Opnd) (pa : Fin 64) (s : State) : Result :=
  seqOps s true (fun c => c.tids) [] (some (x, 2)) (fun c =>
    match c.who, c.hel, c.pk with
    | .helper l, some h, some p =>
      let p' := s.servedPk c p
      if 16 ≤ pa.val then s.decodeTrap c .illegalOp
      else if h.busy then s.helperWait c l h
      else match mget? p'.served l with
        | some j =>
          let s := (s.modPk c (fun _ => { p' with served := mdel p'.served l })).modHelper c.core c.slot l (fun h => { h with chunk := j })
          (s.effsBy c (c.claimEffs p (4 * l) j x pa.val)).finish c [pa.val]
        | none =>
          if h.release.asked then (s.countAt c.core .rfrel 1).endOwn c l
          else if (mget? p.claims l).isSome then s.stall
          else if p.nextChunk.isSome && c.sharedWrite c.tids x 2 then s.takeTrap c .sharedWrite 0
          else (s.sendClaim c l (fun p => p.chunkDone h.chunk)).modHelper c.core c.slot l (fun x => { x with chunk := none, release := h.release })
    | _, _, _ =>
      let others := fun (ts : List Nat) => ts.map (fun t => Eff.pred t pa.val false)
      match c.mine c.tids with
      | none => (s.effsBy c (others c.tids)).finish c [pa.val]
      | some p =>
        let p' := s.servedPk c p
        match mget? p'.served (p.tid / 4) with
        | some j =>
          let s := s.modPk c (fun _ => { p' with held := j, served := mdel p'.served (p.tid / 4) })
          (s.effsBy c (others (c.tids.filter (· != p.tid)) ++ c.claimEffs p p.tid j x pa.val)).finish c [pa.val]
        | none =>
          if (mget? p.claims (p.tid / 4)).isSome then s.stall
          else if p.nextChunk.isSome && c.sharedWrite [p.tid] x 2 then s.takeTrap c .sharedWrite 0
          else s.sendClaim c (p.tid / 4) Pricking.recruiterDone)

/-- Deposit a partial into the chunk that the member holds (R284). -/
def Pricking.deposit (p : Pricking) (chunk : Option Nat) (v : Nat) : Pricking :=
  match chunk with
  | some j => { p with parts := mset p.parts j v }
  | none => p

/-- RPART (R295). -/
def depositStep (a : Opnd) (n : Nat) (g : Bool) (s : State) : Result :=
  seqOps s true (fun c => c.tids) [(a, n)] none (fun c =>
    match c.hel with
    | some h =>
      (match c.exec g with
        | t :: _ => s.modPk c (fun p => p.deposit h.chunk (c.read t a n))
        | [] => s).finish c []
    | none =>
      (match c.mine (c.exec g) with
        | some p => s.modPk c (fun q => q.deposit p.held (c.read p.tid a n))
        | none => s).finish c [])

/-- RPART.32 (R295). -/
def execRpart32 (a : Opnd) (g : Bool) (s : State) : Result := depositStep a 1 g s
/-- RPART.64 (R295). -/
def execRpart64 (a : Opnd) (g : Bool) (s : State) : Result := depositStep a 2 g s

/-- The left fold of R285 over the slots that are present, in rising chunk number; a signalling NaN among them sets NV even where it meets
no other (R104). -/
def Pricking.fold (p : Pricking) (op : RedOp) : Option (Nat × Nat) :=
  let word := fun (v : Nat) => if op.regs = 2 then v else v % 2 ^ 32
  let snan := match op.fmt with
    | some F => if p.parts.any (fun e => isSnanBits F (word e.2)) then flagNV else 0
    | none => 0
  (p.parts.foldl (fun acc e => treeNode op acc (some (word e.2, 0))) none).map (fun r => (r.1, r.2 ||| snan))

/-- A cancelled chunk's slot is absent (R284). -/
def Pricking.present (p : Pricking) : Pricking := { p with parts := p.parts.filter (fun e => p.chunks[e.1]? != some .cancelled) }

/-- The return of RJOIN in the recruiter, with no helper running and no chunk unclaimed (R296). -/
def State.joinFold (s : State) (c : Iss) (p : Pricking) (op : RedOp) (x : Opnd) (pa : Nat) : State :=
  let others := (c.tids.filter (· != p.tid)).map (fun t => Eff.pred t pa false)
  let flags := fun (f : Nat) => if f = 0 then [] else [Eff.flags p.tid f]
  let s := s.modCore c.core (fun k => k.closePricking (c.slot / 2) p)
  match p.fault with
  | some (_, hidx, inner) =>
    ((s.effsBy c (flags p.flags)).retire c []).enterTrap c .helperFault (hidx % 16 * 2 ^ 16 + inner % 256 * 2 ^ 8) c.pc 0
  | none =>
    let es := match p.present.fold op with
      | some (v, f) => c.writeEffs p.tid x op.regs v ++ flags (p.flags ||| f)
      | none => flags p.flags
    (s.effsBy c (others ++ es ++ [.pred p.tid pa true])).finish c [pa]

/-- RJOIN (R296).  What helpers issued before a fault ended them must be performed or stand in the buffer too (R139, R287, R290;
assumption 76). -/
def execRjoin (op : RedOp) (x : Opnd) (pa : Fin 64) (s : State) : Result :=
  seqOps s false (fun c => c.tids) [] (some (x, op.regs)) (fun c =>
    let no := c.tids.map (fun t => Eff.pred t pa.val false)
    match c.mine c.tids with
    | none => (s.effsBy c no).finish c [pa.val]
    | some p =>
      if c.resumed.isNone && c.sharedWrite [p.tid] x op.regs then s.takeTrap c .sharedWrite 0
      else
        let p := p.recruiterDone
        let s := s.modPk c (fun _ => p)
        if !p.helpers.isEmpty then s.await c 0
        else if s.orphansOpen c.core c.slot then s.await c 0
        else if p.nextChunk.isSome then (s.effsBy c no).finish c [pa.val]
        else s.joinFold c p op x pa.val)

/-- The recruiter's RLSE (R297): release requests to every helper; none while one still runs, else the pricking closed. -/
def State.recruiterRelease (s : State) (c : Iss) (p : Pricking) : State × Bool :=
  let p := p.recruiterDone
  if p.helpers.isEmpty then
    (s.modCore c.core (fun k => k.closePricking (c.slot / 2) { p with parts := [], fault := none, flags := 0 }), true)
  else
    (s.modPk c (fun _ => p.ask (s.core c.core).clusterCycle (fun _ _ => true) (fun r => { r with close := true })), false)

/-- RLSE (R297). -/
def execRlse (s : State) : Result :=
  seqOps s true (fun c => c.tids) [] none (fun c =>
    match c.who, c.hel with
    | .helper l, some h => if h.busy then s.helperWait c l h else s.endOwn c l
    | _, _ =>
      match c.mine c.tids with
      | none => s.finish c []
      | some p =>
        let (s, ended) := s.recruiterRelease c p
        if ended then s.finish c [] else s.await c 0)

/-- RQRY (R298). -/
def execRqry (x : Opnd) (g : Bool) (s : State) : Result :=
  seqOps s true (fun c => c.tids) [] (some (x, 1)) (fun c =>
    let v := match c.pk with
      | some p => p.status true
      | none => mgetD (s.core c.core).rqry (c.slot / 2) 0
    if c.sharedWrite (c.exec g) x 1 then s.takeTrap c .sharedWrite 0
    else (s.effsBy c ((c.exec g).flatMap (fun t => c.writeEffs t x 1 v))).finish c [])

/-- HELPER_CANCEL (R288): a helper has issued 1,024 instructions since a release request of R276. -/
def execHelperCancel (core pair lane : Nat) (s : State) : Result :=
  match mget? (s.core core).prickings pair with
  | none => .next s
  | some p =>
    match (mget? p.helpers lane).bind (fun h => h.release.owner) with
    | some n => if 1024 ≤ n then .next ((s.helperFault core p.slot lane 0).countAt core .rover 1) else .next s
    | none => .next s

end Sys2Proof.Machine
end

