-- ==== Sys2Proof/Machine/Exit.lean ====
section
/-! DEFINITION. EXIT, the end of a workgroup and the spawning of continuations (06_sequencer.md R146, R148, R171,
11_recruiter.md R289, 12_copy_engine.md R320 to R322). -/

namespace Sys2Proof.Machine

/-- A strand without its exiting threads (R148): they leave its mask and every mask of its stack. -/
def Strand.leave (st : Strand) (m : BitVec 4) : Strand :=
  { st with active := st.active &&& ~~~m, stack := st.stack.map (fun e => { e with mask := e.mask &&& ~~~m }) }

/-- A strand after EXIT (R146, R148): one that is left empty with entries on its stack performs the RECONV step at once. -/
def Strand.afterExit (pc : DWord) (st : Strand) (m : BitVec 4) : Strand :=
  let st := st.leave m
  if st.active = 0 then (reconvStep pc st (stackLimit + 1)).1 else { st with pc := pc + 4 }

/-- EXIT of some threads of the issuing split (R148, R171).  It transfers control where a strand goes on elsewhere, which ends a CLASS
reservation (R185). -/
def State.exitThreads (s : State) (c : Iss) (e : Nat) (ts : List Nat) : State :=
  let ns := c.lanes.map (fun l => (l, (c.w.strand l).afterExit c.pc (slotMask (ts.filter (fun t => t / 4 == l)))))
  let jumps := ns.any (fun x => x.2.active != 0 && x.2.pc != c.pc + 4)
  (((s.retire c []).modSplit c (fun sp => if jumps then { sp with reserve := none } else sp)).modWarp c.core c.slot (fun w => (w.setStrands ns).regroup e 0)).reap c.core c.slot

/-- EXIT (R148, R171).  The recruiter of an open pricking performs RLSE first (R289). -/
def execExit (g : Bool) (s : State) : Result :=
  seqOps s false (fun c => c.tids) [] none (fun c =>
    match c.who with
    | .helper _ => s.decodeTrap c .illegalOp
    | .split e =>
      let ts := c.exec g
      if ts.isEmpty then s.finish c []
      else match c.mine ts with
        | none => s.exitThreads c e ts
        | some p =>
          let (s, closed) := s.recruiterRelease c p
          if closed then s.exitThreads c e ts else s.await c 0)

/-- Registered continuations of a workgroup's barriers. -/
def Workgroup.continued (w : Workgroup) : List Barrier := (w.barriers.map Prod.snd).filter (fun b => b.cont.isSome)

/-- The queue and tag word of a grid (R443). -/
def State.gridTag (s : State) (gid : Nat) : Nat × Nat × Nat := match mget? s.grids gid with
  | some g => (g.ctx, g.qnum, g.tagw)
  | none => (0, 0, 0)

/-- WORKGROUP_END (R148, R321): every warp has ended, private write-backs are acknowledged, no spawn is pending and no continuation
can still be spawned.  One whose arrivals can no longer come is discarded under a NOTICE.  What helpers issued before a fault ended them
is performed first: the completion of the grid drains the buffer (R437, R120). -/
def execWorkgroupEnd (grid wg : Nat) (s : State) : Result :=
  let id := wgKey grid wg
  match mget? s.wgs id with
  | none => .next s
  | some w =>
    match w.core with
    | none => .next s
    | some core =>
      if !w.slots.isEmpty || (s.core core).drains.any (fun e => e.wg == some id) || w.barriers.any (fun e => !e.2.spawn.isEmpty) ||
          w.continued.any (fun b => b.inflCur != 0) then .next s
      else if s.orphansLeft core then .next (s.drainAll core)
      else
        let (ctx, qnum, tagw) := s.gridTag grid
        let s := if w.continued.isEmpty then s
          else s.notice { Record.blank with ctx := ctx, qnum := qnum, cause := Cause.barrier.code, tagw := tagw, grid := grid, wg := id, core := core }
        .next (s.wgGone id)

/-- The lowest warp index of a workgroup that no live warp holds (R320). -/
def State.freeIndex (s : State) (core : Nat) (w : Workgroup) : Option Nat :=
  firstBelow 4 (fun i => !w.slots.any (fun slot => match s.warp? core slot with
    | some x => x.index == i
    | none => false))

/-- The warp that a continuation spawns (R320). -/
def Grid.spawned (g : Grid) (id index : Nat) (k : Continuation) (err : Bool) : Warp :=
  let w := g.newWarp id index (BitVec.ofNat 64 (g.code + k.off))
  { w with regs := (upto 64).foldl (fun m t => mput 0 (mput 0 m (256 * t) k.word) (256 * t + 1) (if err then 0x0B else 0)) w.regs }

/-- Spawn the first pending continuation of a barrier, where a panel and an index are free (R320). -/
def State.spawn (s : State) (id k : Nat) : Option State :=
  match mget? s.wgs id with
  | none => none
  | some w =>
    match w.core, mget? s.grids w.grid, (s.barrier id k).spawn with
    | some core, some g, (c, err) :: rest =>
      match (s.core core).freeSlots g.fileSize, s.freeIndex core w with
      | slot :: _, some index =>
        let s := s.setBarrier id k { s.barrier id k with spawn := rest }
        let s := s.modWg id (fun w => { w with slots := w.slots ++ [slot] })
        let s := (s.modCore core (fun x => x.setWarp slot (g.spawned id index c err))).askSlot core slot g.fileSize
        some (s.countAt core .cpspawn 1)
      | _, _ => none
    | _, _, _ => none

/-- CONTINUATION_SPAWN (R320); none during a pre-emption drain (R322). -/
def execContinuationSpawn (grid wg k : Nat) (s : State) : Result :=
  let id := wgKey grid wg
  match mget? s.wgs id with
  | none => .next s
  | some w => if w.preempt.isSome && w.reached then .next s else .next ((s.spawn id k).getD s)

end Sys2Proof.Machine
end

