-- ==== Sys2Proof/Machine/Image.lean ====
section
/-! DEFINITION. The control section of a save image (18_security_engine.md R479): what it holds is the spec's list; where each item
stands in it is the model's choice (assumption 33). -/

namespace Sys2Proof.Machine

/-- The number in `n` bytes from an offset. -/
def numAt (bs : List Byte) (off n : Nat) : Nat := leNat ((bs.drop off).take n)

/-- The i-th of some pieces of a size, from an offset. -/
def pieceAt (bs : List Byte) (off size i : Nat) : List Byte := (bs.drop (off + size * i)).take size

/-- Bytes in a space of a size; what they do not use is zero (R479). -/
def padTo (size : Nat) (bs : List Byte) : List Byte := (bs ++ List.replicate (size - bs.length) 0).take size

/-- Flags as bits, the first the lowest. -/
def flagBits : List Bool → Nat
  | [] => 0
  | b :: r => (if b then 1 else 0) + 2 * flagBits r

/-! ### The workgroup part -/

/-- A named barrier (Table 12-4), 128 bytes. -/
def Barrier.image (b : Barrier) : List Byte :=
  let c := b.cont.getD { off := 0, word := 0 }
  padTo 128 (leBytes 2 (flagBits [b.init, b.cpm, b.cpa, b.err, b.errNext, b.errLast, b.cont.isSome, !b.spawn.isEmpty]) ++ leBytes 2 b.exp ++ leBytes 4 b.gen ++
    leBytes 2 b.inflCur ++ leBytes 2 b.inflNext ++ leBytes 4 c.off ++ leBytes 4 c.word.toNat ++ leBytes 32 b.cur ++ leBytes 32 b.next)

/-- A named barrier as an image gives it; `old` is the one that was saved, whose spawns stay pending where the image's are. -/
def Barrier.ofImage (old : Barrier) (bs : List Byte) : Barrier :=
  let f := numAt bs 0 2
  let c : Continuation := { off := numAt bs 12 4, word := bytesWord ((bs.drop 16).take 4) }
  { init := hasBit f 0, cpm := hasBit f 1, cpa := hasBit f 2, err := hasBit f 3, errNext := hasBit f 4, errLast := hasBit f 5,
    cont := if hasBit f 6 then some c else none,
    spawn := if !hasBit f 7 then [] else if old.spawn.isEmpty then [(c, hasBit f 5)] else old.spawn,
    exp := numAt bs 2 2, gen := numAt bs 4 4, inflCur := numAt bs 8 2, inflNext := numAt bs 10 2, cur := numAt bs 20 32, next := numAt bs 52 32 }

/-- A chunk of a pricking (Table 11-1). -/
def Chunk.image : Chunk → Nat
  | .unclaimed => 0
  | .held l => 1 + 4 * l
  | .done => 2
  | .cancelled => 3

def Chunk.ofImage (n : Nat) : Chunk :=
  if n % 4 = 0 then .unclaimed else if n % 4 = 1 then .held (n / 4) else if n % 4 = 2 then .done else .cancelled

/-- A pricking record (Table 11-1) of the warp of an index, 640 bytes. -/
def Pricking.image (index : Nat) (p : Pricking) : List Byte :=
  let f := p.fault.getD (0, 0, 0)
  padTo 640 (leBytes 1 (flagBits [true, p.fault.isSome, p.held.isSome]) ++
    [index, p.tid, p.shareBase, p.shareLen, p.chunks.length, p.flags, p.rsn].flatMap (leBytes 1) ++ [p.entry, p.n, p.c].flatMap (leBytes 4) ++
    [f.1, f.2.1, f.2.2, p.held.getD 0].flatMap (leBytes 1) ++ padTo 64 (p.chunks.flatMap (fun c => leBytes 1 c.image)) ++
    leBytes 8 (maskOf (mkeys p.parts)) ++ (upto 64).flatMap (fun j => leBytes 8 (mgetD p.parts j 0)))

/-- A pricking as an image gives it, with its warp index; none where the image holds none.  No helper runs when it is saved. -/
def Pricking.ofImage (bs : List Byte) : Option (Nat × Pricking) :=
  let f := numAt bs 0 1
  let b := fun i => numAt bs i 1
  if !hasBit f 0 then none
  else some (b 1,
    { slot := 0, tid := b 2 % 64, entry := numAt bs 8 4, shareBase := b 3, shareLen := b 4, n := numAt bs 12 4, c := numAt bs 16 4,
      chunks := (upto (Nat.min 64 (b 5))).map (fun j => Chunk.ofImage (b (24 + j))),
      parts := (bitsList 64 (numAt bs 88 8)).map (fun j => (j, numAt bs (96 + 8 * j) 8)), helpers := [],
      fault := if hasBit f 1 then some (b 20, b 21, b 22) else none, flags := b 6 % 32, rsn := b 7 % 8,
      held := if hasBit f 2 then some (b 23) else none, claims := [], served := [] })

/-- An entry of the pending-launch queue (R384), 12 bytes. -/
def PendEntry.image : PendEntry → List Byte
  | .grid g => leBytes 4 1 ++ leBytes 8 g
  | .flnch id => leBytes 4 2 ++ leBytes 8 id

def PendEntry.ofImage (bs : List Byte) : Option PendEntry :=
  match numAt bs 0 4 with
  | 1 => some (.grid (numAt bs 4 8))
  | 2 => some (.flnch (numAt bs 4 8))
  | _ => none

/-- The workgroup part of a control section (R479), 4,096 bytes: barriers, prickings by warp index, launches, accumulators and lease. -/
def Workgroup.image (w : Workgroup) (prickings : NatMap Pricking) (accs : List (Nat × Nat)) (lease : Option Nat) : List Byte :=
  padTo 4096 ((upto 16).flatMap (fun k => (mgetD w.barriers k Barrier.clear).image) ++
    padTo 1280 (prickings.flatMap (fun e => e.2.image e.1)) ++ leBytes 4 w.issued ++ leBytes 4 w.done ++ padTo 48 (w.entries.flatMap PendEntry.image) ++
    leBytes 4 (maskOf (accs.map Prod.fst)) ++ (upto 4).flatMap (fun a => leBytes 4 (mgetD accs a 0)) ++
    leBytes 1 (flagBits [lease.isSome]) ++ leBytes 8 (lease.getD 0))

/-- The barriers of an image. -/
def imageBarriers (old : NatMap Barrier) (bs : List Byte) : NatMap Barrier :=
  (upto 16).foldl (fun m k => mput Barrier.clear m k (Barrier.ofImage (mgetD old k Barrier.clear) (pieceAt bs 0 128 k))) []

/-- The prickings of an image, by warp index. -/
def imagePrickings (bs : List Byte) : NatMap Pricking := ((upto 2).filterMap (fun i => Pricking.ofImage (pieceAt bs 2048 640 i))).foldl (fun m e => mset m e.1 e.2) []

/-- The pending launches of an image (R384, R386): a launch that has ended since the save is one no more, and what has completed since is
counted. -/
def Workgroup.ofImage (w : Workgroup) (sv : Saved) (bs : List Byte) : Workgroup :=
  let entries := (upto 4).filterMap (fun i => PendEntry.ofImage (pieceAt bs 3336 12 i))
  { w with
    barriers := imageBarriers w.barriers bs, issued := numAt bs 3328 4, done := (numAt bs 3332 4 + (w.done + 2 ^ 32 - sv.doneAt)) % 2 ^ 32,
    entries := entries.filter (fun e => w.entries.contains e || !sv.entriesAt.contains e) }

/-- The accumulators of an image: the numbers kept for the saved workgroup (R333) that it still names, with their status words. -/
def imageAccs (accs : List (Nat × Nat)) (bs : List Byte) : List (Nat × Nat) :=
  (accs.filter (fun a => hasBit (numAt bs 3384 4) a.1)).map (fun a => (a.1, numAt bs (3388 + 4 * a.1) 4))

/-! ### A warp part -/

/-- An entry of a reconvergence stack (R145), 16 bytes. -/
def StackEntry.image (e : StackEntry) : List Byte :=
  leBytes 8 (e.pc.getD 0).toNat ++ leBytes 4 e.fmt.toNat ++ leBytes 4 (e.mask.toNat + 16 * flagBits [e.kind == .path, e.pc.isSome])

def StackEntry.ofImage (bs : List Byte) : StackEntry :=
  let f := numAt bs 12 4
  { kind := if hasBit f 4 then .path else .join, mask := BitVec.ofNat 4 f, pc := if hasBit f 5 then some (BitVec.ofNat 64 (numAt bs 0 8)) else none,
    fmt := bytesWord ((bs.drop 8).take 4) }

/-- A strand (Table 6-1), 272 bytes. -/
def Strand.image (st : Strand) : List Byte :=
  leBytes 8 st.pc.toNat ++ leBytes 4 st.fmt.toNat ++ leBytes 1 st.active.toNat ++ leBytes 1 (st.guardP + 64 * flagBits [st.guardInv]) ++ leBytes 2 st.stack.length ++
    padTo 256 (st.stack.flatMap StackEntry.image)

def Strand.ofImage (bs : List Byte) : Strand :=
  let g := numAt bs 13 1
  { pc := BitVec.ofNat 64 (numAt bs 0 8), fmt := bytesWord ((bs.drop 8).take 4), active := BitVec.ofNat 4 (numAt bs 12 1), guardP := g % 64, guardInv := hasBit g 6,
    stack := (upto (Nat.min 16 (numAt bs 14 2))).map (fun i => StackEntry.ofImage (pieceAt bs 16 16 i)) }

/-- The state of a split-table entry (Table 6-1): 0 where the entry is unused. -/
def SplitStatus.image : SplitStatus → Nat
  | .ready => 1
  | .held => 2
  | .parked (.mwait _ _) => 3
  | .parked (.woken _) => 3
  | .parked (.page _) => 4
  | .parked (.barw _ _ _ _ _) => 5
  | .parked (.gwait _ _ _) => 6
  | .parked (.reply _ _) => 7
  | .parked (.recRead _ _) => 8
  | .parked (.enq _ _) => 9
  | .parked (.instr _) => 10
  | .parked (.record _) => 11

/-- The state that an image gives an entry.  What a parked split waits for stays with the device; one that the image alone says to be
parked tries its instruction again (assumption 33). -/
def SplitStatus.ofImage (old : SplitStatus) (n : Nat) : SplitStatus :=
  if n = old.image then old else if n = 2 then .held else if n = 1 ∨ n = 4 then .ready else .parked (.instr 0)

/-- A split-table entry, 32 bytes. -/
def Split.image (sp : Split) : List Byte :=
  padTo 32 (leBytes 2 sp.strands ++ leBytes 1 sp.status.image ++ leBytes 1 (flagBits [sp.fabric, sp.replay.isSome]) ++ leBytes 8 sp.age ++ leBytes 8 (sp.replay.getD 0))

/-- The split-table entry of an image; none where it is unused. -/
def Split.ofImage (old : Option Split) (bs : List Byte) : Option Split :=
  let n := numAt bs 2 1
  let f := numAt bs 3 1
  if n = 0 then none
  else some { strands := numAt bs 0 2, status := SplitStatus.ofImage ((old.map (fun sp => sp.status)).getD .ready) n, age := numAt bs 4 8, reserve := none,
              replay := if hasBit f 1 then some (numAt bs 12 8) else none, sinceRequest := 0, stopped := none, fabric := hasBit f 0 }

/-- A monitor of a warp (R175), 16 bytes. -/
def Monitor.image (m : Monitor) : List Byte := leBytes 8 m.line ++ leBytes 8 (flagBits [m.armed, m.fired])

def Monitor.ofImage (bs : List Byte) : Monitor := { line := numAt bs 0 8, armed := hasBit (numAt bs 8 8) 0, fired := hasBit (numAt bs 8 8) 1 }

/-- A warp part of a control section (R479), 8,192 bytes: the state of Table 6-1, predicates, index registers and sr.fpst, and the special
registers of Table 2-14 that a warp or its context holds. -/
def Warp.image (w : Warp) (x : Context) : List Byte :=
  padTo 8192 ((upto 16).flatMap (fun l => (w.strand l).image) ++
    (upto 16).flatMap (fun e => match mget? w.splits e with
      | some sp => sp.image
      | none => padTo 32 []) ++
    (upto 64).flatMap (fun t => leBytes 8 (mgetD w.preds t 1)) ++ (upto 256).flatMap (fun i => leBytes 4 (mgetD w.ixs i 0).toNat) ++
    (upto 64).flatMap (fun t => leBytes 4 (mgetD w.fpst t 0)) ++ padTo 64 (w.monitors.flatMap Monitor.image) ++
    [w.wbase, w.batch.toNat, w.trapcause.toNat, (w.trap.map (fun t => t.strands + 2 ^ 16)).getD 0, x.part, x.key, x.plim, w.monitors.length].flatMap (leBytes 4) ++
    [w.trappc.toNat, x.trapbase.toNat, w.cycles, w.iiu, w.tax].flatMap (leBytes 8))

/-- A warp as an image gives it; `w` is the one that was saved.  Special registers that the context holds stay as the context has them. -/
def Warp.ofImage (w : Warp) (bs : List Byte) : Warp :=
  let h := fun i => numAt bs (6720 + 4 * i) 4
  let d := fun i => numAt bs (6752 + 8 * i) 8
  { w with
    strands := (upto 16).map (fun l => Strand.ofImage (pieceAt bs 0 272 l)),
    splits := (upto 16).filterMap (fun e => (Split.ofImage (mget? w.splits e) (pieceAt bs 4352 32 e)).map (fun sp => (e, sp))),
    preds := (upto 64).foldl (fun m t => mput 1 m t (numAt bs (4864 + 8 * t) 8 ||| 1)) [],
    ixs := (upto 256).foldl (fun m i => mput 0 m i (bytesWord ((bs.drop (5376 + 4 * i)).take 4))) [],
    fpst := (upto 64).foldl (fun m t => mput 0 m t (numAt bs (6400 + 4 * t) 4)) [],
    monitors := (upto (Nat.min 4 (h 7))).map (fun i => Monitor.ofImage (pieceAt bs 6656 16 i)),
    wbase := h 0, batch := BitVec.ofNat 32 (h 1), trapcause := BitVec.ofNat 32 (h 2), trap := if hasBit (h 3) 16 then some { strands := h 3 % 2 ^ 16 } else none,
    trappc := BitVec.ofNat 64 (d 0), cycles := d 2, iiu := d 3, tax := d 4 }

end Sys2Proof.Machine
end

