-- ==== Sys2Proof/Machine/Preempt.lean ====
section
/-! DEFINITION. Pre-emption, save and restore of workgroups (06_sequencer.md R161 to R166, 11_recruiter.md R291, 16_policy_engines.md R497,
17_command_processors.md R454, 18_security_engine.md R478 to R480). -/

namespace Sys2Proof.Machine

/-! ### Requests -/

/-- The slots that a resident workgroup's warps stand in, with its core. -/
def Workgroup.place (w : Workgroup) : List (Nat × Nat) := match w.core with
  | some c => w.slots.map (fun slot => (c, slot))
  | none => []

/-- Does a split stand where a request stops it (R161, R162): held, by a RECONV or by a trap, parked, or in a warp that a record
stops? -/
def Warp.rests (w : Warp) (sp : Split) : Bool :=
  w.recordStopped || w.heldByTrap sp ||
  (match sp.status with
    | .held => true
    | .ready => false
    | .parked (.page _) => !(w.attach.isSome || w.latches.any (fun x => hasBit sp.strands (x.1 / 16) && decide (0 < x.2.life)))
    | .parked (.instr _) => false
    | .parked (.reply _ _) => false
    | .parked (.recRead _ _) => false
    | .parked (.enq _ _) => false
    | .parked _ => true)

/-- Change every split of a workgroup's warps. -/
def State.modSplits (s : State) (id : Nat) (f : Warp → Split → Split) : State :=
  match mget? s.wgs id with
  | none => s
  | some w => w.place.foldl (fun (s : State) x => s.modWarp x.1 x.2 (fun v => { v with splits := v.splits.map (fun e => (e.1, f v e.2)) })) s

/-- Change the helpers of the prickings that a workgroup's warps own. -/
def State.modHelpers (s : State) (id : Nat) (f : Helper → Helper) : State :=
  match mget? s.wgs id with
  | none => s
  | some w => w.place.foldl (fun (s : State) x => s.modCore x.1 (fun k => k.modPricking (x.2 / 2) (fun p =>
      if p.slot = x.2 then { p with helpers := p.helpers.map (fun h => (h.1, f h.2)) } else p))) s

/-- Release requests go to the helpers of those prickings (R291). -/
def State.askHelpers (s : State) (id : Nat) : State :=
  match mget? s.wgs id with
  | none => s
  | some w => w.place.foldl (fun (s : State) x => s.modCore x.1 (fun k => k.modPricking (x.2 / 2) (fun p =>
      if p.slot = x.2 then p.ask k.clusterCycle (fun _ _ => true) (fun r => { r with preempt := some 0 }) else p))) s

/-- Strands of a warp's splits that MWAIT or BARW parks: their lanes may be lent (R276). -/
def Warp.parkedLanes (w : Warp) : Nat :=
  w.splits.foldl (fun m e => match e.2.status with
    | .parked (.mwait _ _) => m ||| e.2.strands
    | .parked (.barw _ _ _ _ _) => m ||| e.2.strands
    | _ => m) 0

/-- Does the pricking of a slot's panel pair belong to a recruiter of a workgroup?  Its helpers' release requests are then those of R291. -/
def State.pairMine (s : State) (id core slot : Nat) : Bool := match mget? (s.core core).prickings (slot / 2) with
  | some p => s.wgOfSlot core p.slot == id
  | none => false

/-- PREEMPT_REQUEST (R161): the request reaches the workgroup.  Splits that rest stop where they stand; lent lanes are asked back
(R276) and the helpers of its own prickings are asked to end (R291). -/
def execPreemptRequest (grid wg : Nat) (s : State) : Result :=
  let id := wgKey grid wg
  match mget? s.wgs id with
  | none => .next s
  | some w =>
    if w.core.isNone || w.preempt.isNone || w.reached then .next s
    else
      let s := s.modWg id (fun w => { w with reached := true })
      let s := s.modSplits id (fun v sp => { sp with sinceRequest := 0, stopped := if v.rests sp then some StationMasks.full else none })
      let s := s.askHelpers id
      .next (w.place.foldl (fun (s : State) x => match s.warp? x.1 x.2 with
        | some v => if s.pairMine id x.1 x.2 then s else s.askLanes x.1 x.2 v.parkedLanes
        | none => s) s)

/-- A request is withdrawn (R163): the workgroup's warps go on, and PWDRAW and the plot count it. -/
def State.withdraw (s : State) (id : Nat) : State :=
  match mget? s.wgs id with
  | none => s
  | some w =>
    let s := s.modSplits id (fun _ sp => { sp with sinceRequest := 0, stopped := none })
    let s := s.modHelpers id (fun h => { h with release := { h.release with preempt := none } })
    let s := s.modWg id (fun w => { w with preempt := none, reached := false })
    match w.core with
    | some c => (s.modPlot (plotOf c) (fun p => { p with withdrawn := p.withdrawn + 1 })).countAt c .pwdraw 1
    | none => s

/-- The warps of a resident workgroup, with their slots. -/
def State.warpsOf (s : State) (w : Workgroup) : List (Nat × Warp) := w.place.filterMap (fun x => (s.warp? x.1 x.2).map (fun v => (x.2, v)))

/-- PREEMPT_WITHDRAW (R163): a split finds no boundary to stop at. -/
def execPreemptWithdraw (grid wg : Nat) (s : State) : Result :=
  let id := wgKey grid wg
  match mget? s.wgs id with
  | none => .next s
  | some w =>
    if w.reached && (s.warpsOf w).any (fun x => x.2.splits.any (fun e => e.2.stopped.isNone && decide (4352 ≤ e.2.sinceRequest))) then
      .next (s.withdraw id)
    else .next s

/-- PRICKING_WITHDRAW (R291): a helper reaches no chunk boundary within 4,096 of its instructions. -/
def execPrickingWithdraw (core pair : Nat) (s : State) : Result :=
  match mget? (s.core core).prickings pair with
  | none => .next s
  | some p =>
    if p.helpers.any (fun h => match h.2.release.preempt with
      | some n => decide (4096 ≤ n)
      | none => false) then .next (s.withdraw (s.wgOfSlot core p.slot))
    else .next s

/-! ### The save image -/

/-- The masks under which a split is saved (R162, R164). -/
def Split.masks (sp : Split) : StationMasks := sp.stopped.getD StationMasks.full

/-- The masks of the split that holds a thread; none where no split does. -/
def Warp.masksOf (w : Warp) (t : Nat) : Option StationMasks := (w.splits.find? (fun e => hasBit e.2.strands (t / 4))).map (fun e => e.2.masks)

/-- The live file registers of a warp's threads: key 64 index + thread (R479). -/
def Warp.liveRegs (w : Warp) : NatMap Nat :=
  (upto 64).filterMap (fun t => match w.masksOf t with
    | some m => if m.filem % 2 ^ w.fileSize = 0 then none else some (64 * w.index + t, m.filem % 2 ^ w.fileSize)
    | none => none)

/-- The bytes of the live file registers of a warp, thread by thread (R479). -/
def Warp.regBytes (w : Warp) : List Byte :=
  w.liveRegs.flatMap (fun e => (bitsList 256 e.2).flatMap (fun n => leBytes 4 (mgetD w.regs (256 * (e.1 % 64) + n) 0).toNat))

/-- A warp as it is kept beside its image: without file registers and latch entries, its predicates and index registers under the
masks (R74, R164). -/
def Warp.saved (w : Warp) : Warp :=
  let mask := fun (t : Nat) => (w.masksOf t).getD { filem := 0, predm := 0, ixm := 0, accm := 0 }
  { w with
    regs := [], latches := [], bad := [], latchBad := [], guardSlots := [], replays := [],
    preds := w.preds.filterMap (fun e => let v := e.2 &&& ((mask e.1).predm ||| 1); if v = 1 then none else some (e.1, v)),
    ixs := w.ixs.filter (fun e => hasBit (mask (e.1 / 4)).ixm (e.1 % 4)),
    splits := w.splits.map (fun e => (e.1, { e.2 with stopped := none, sinceRequest := 0, reserve := none })) }

/-- Bytes of one accumulator. -/
def Core.accBytes (k : Core) (acc : Nat) : List Byte := (upto 4096).flatMap (fun i => leBytes 4 (mgetD k.acc (4096 * acc + i) 0).toNat)

/-- The header of a save image without its TAG (Table 18-6). -/
def saveHeader (scnt len wgidx grid ctx : Nat) (prot : Bool) : Nat :=
  0x5356494D + 2 ^ 32 + (if prot then 2 ^ 96 else 0) + ctx % 1024 * 2 ^ 150 + grid % 2 ^ 64 * 2 ^ 160 + wgidx % 2 ^ 32 * 2 ^ 224 + len % 2 ^ 32 * 2 ^ 288 +
    scnt % 2 ^ 64 * 2 ^ 320

/-- Free bytes: what the manual does not say (assumption 5). -/
def State.takeFree (s : State) (n : Nat) : State × List Byte := ({ s with fresh := s.fresh + n }, (upto n).map (fun i => Config.freeByte (s.fresh + i)))

/-- Everything that the save of a workgroup has gathered. -/
structure Gathered where
  warps : NatMap Warp
  live : NatMap Nat
  accs : List (Nat × Nat)
  accLive : List Nat
  words : Nat
  body : List Byte
  prickings : NatMap Pricking
  deriving DecidableEq, Repr

/-- Gather the state of a stopped workgroup (R164, R479). -/
def State.gather (s : State) (id core : Nat) (x : Context) (w : Workgroup) : Gathered :=
  let k := s.core core
  let ws := s.warpsOf w
  let owned := (upto 4).filter (fun a => mget? k.accOwner a == some id)
  let union := ws.foldl (fun m x => x.2.splits.foldl (fun m e => m ||| e.2.masks.accm) m) 0
  let live := owned.filter (hasBit union)
  let order := ws.foldl (fun m x => mset m x.2.index x.2) ([] : NatMap Warp)
  let warps := order.map (fun e => (e.1, e.2.saved))
  let accs := owned.map (fun a => (a, mgetD k.accStatus a 0))
  let prickings := ws.filterMap (fun x => match mget? k.prickings (x.1 / 2) with
    | some p => if p.slot = x.1 then some (x.2.index, p) else none
    | none => none)
  let control := w.image prickings accs x.lease ++ warps.flatMap (fun e => e.2.image x)
  let alloc := k.allocOf id
  let scr := match alloc with
    | some a => k.scrRead (4 * a.base) (4 * a.words)
    | none => []
  { warps := warps, live := order.flatMap (fun e => e.2.liveRegs), accs := accs, accLive := live, words := (match alloc with
      | some a => a.words
      | none => 0), body := control ++ order.flatMap (fun e => e.2.regBytes) ++ live.flatMap k.accBytes ++ scr, prickings := prickings }

/-- Pages that saved images of a context take (R454). -/
def State.savePagesTaken (s : State) (ctx : Nat) : List (Nat × Nat) :=
  s.wgs.filterMap (fun e => match e.2.saved, mget? s.grids e.2.grid with
    | some sv, some g => if g.ctx = ctx then some (sv.page, sv.pages) else none
    | _, _ => none)

/-- The lowest free extent of pages in a save area (R454). -/
def freeExtent (taken : List (Nat × Nat)) (size pages : Nat) : Option Nat :=
  firstBelow (size + 1 - pages) (fun p => decide (p + pages ≤ size) && taken.all (fun t => decide (p + pages ≤ t.1) || decide (t.1 + t.2 ≤ p)))

/-- Translate the pages of an extent (R454): the key of each, or the first cause with its address. -/
def State.extentKeys (s : State) (ctx va : Nat) (kind : AccessKind) : Nat → Except (Cause × Nat) (List Nat)
  | 0 => .ok []
  | n + 1 =>
    match s.translateCtx ctx kind va with
    | .error c => .error (c, va)
    | .ok t =>
      if t.space = .fabric then .error (.pagePerm, va)
      else match s.extentKeys ctx (va + 4096) kind n with
        | .error e => .error e
        | .ok r => .ok (t.key :: r)

/-- The lowest-numbered queue of a context. -/
def State.lowestQueue (s : State) (ctx : Nat) : Nat := ((s.cmd.queues.find? (fun e => e.2.ctx == ctx)).map Prod.fst).getD 0

/-- Workgroups of protected contexts that are saved (R478). -/
def State.savedProtected (s : State) : Nat := (s.wgs.filter (fun e => e.2.saved.isSome && (match (mget? s.grids e.2.grid).bind (fun g => mget? s.ctxs g.ctx) with
  | some x => x.prot
  | none => false))).length

/-- Has every split stopped and everything drained (R164)?  A signal that no counter counts may still be on its way (R404). -/
def State.drained (s : State) (id core : Nat) (w : Workgroup) : Bool :=
  let k := s.core core
  let mine := fun (slot : Nat) => w.slots.contains slot
  (s.warpsOf w).all (fun x =>
    x.2.splits.all (fun e => e.2.stopped.isSome || x.2.rests e.2) && x.2.loads == 0 && x.2.stores == 0 && x.2.copies == 0 && x.2.tiles == 0) &&
  !k.stages.any (fun st => mine st.slot) && !k.memQ.any (fun m => mine m.slot) && !k.copyQ.any (fun m => mine m.slot) && !k.matQ.any (fun m => mine m.slot) &&
  !k.streamQ.any (fun m => mine m.slot) && !s.fabOps.any (fun f => f.wg == id && (f.kind != .sig || !f.guardPend.isEmpty)) && !s.remotes.any (fun r => r.core == core && mine r.slot) &&
  k.prickings.all (fun e => !mine e.2.slot || e.2.helpers.isEmpty) &&
  w.barriers.all (fun e => e.2.inflCur == 0 && e.2.inflNext == 0) && !s.mcasts.any (fun m => m.core == core && m.wg == id) && !k.accReleasing.any (fun a => k.matQ.any (fun m => m.wg == id && (match m.work with
      | .clear b _ => b == a
      | _ => false)))

/-- Could a split of a saved workgroup proceed (R497)? -/
def State.couldProceed (s : State) (w : Warp) : Bool :=
  w.anyFired || w.splits.any (fun e => match e.2.status with
    | .parked (.mwait (some t) _) => decide (t ≤ s.elapsed)
    | .parked (.gwait key n bad) => s.gwaitOver key n bad
    | _ => false)

/-- Take the warps of a saved workgroup from its core (R164): panels, allocation and accumulators are free, its prickings leave, and staged
copies of its words are discarded (R348). -/
def State.leaveCore (s : State) (id core : Nat) (w : Workgroup) : State :=
  let now := s.elapsed
  (s.forgetAccs core ((s.core core).accsOf id)).modCore core (fun k =>
    let k := match k.allocOf id with
      | some a => k.unstage a.base a.words
      | none => k
    let k := k.prickings.foldl (fun (k : Core) e => if w.slots.contains e.2.slot then k.closePricking e.1 e.2 else k) k
    { k with
      warps := k.warps.filter (fun e => !w.slots.contains e.1), l1 := k.l1.filter (fun l => match l.owner with
        | some o => !w.slots.contains o
        | none => true),
      stages := k.stages.map (fun st => w.slots.foldl (fun st slot => Stage.orphan slot st) st),
      cooling := k.cooling.filter (fun x => !w.slots.contains x.slot), lchQ := k.lchQ.filter (fun x => !w.slots.contains x.1), accOwner := k.accOwner.filter (fun e => e.2 != id),
      allocs := k.allocs.map (fun a => if a.wg = id ∧ a.released = none then { a with released := some now } else a) })

/-- Write the image of a workgroup to its extent (R454, R478, R479), and make the workgroup a saved one (R497). -/
def State.writeImage (s : State) (id core ctx page pages : Nat) (keys : List Nat) (x : Context) (w : Workgroup) (g : Gathered) (why : Why) : State :=
  let scnt := if x.prot then x.saveCtr + 1 else 0
  let head := saveHeader scnt g.body.length w.index w.grid ctx x.prot
  let (s, sealed) := if x.prot then s.takeFree g.body.length else (s, g.body)
  let tag := if x.prot then Config.digest (head :: g.body.map (fun b => b.toNat)) % 2 ^ 128 else 0
  let image := leBytes 64 (head + 2 ^ 384 * tag) ++ sealed
  let s := s.ctxPut ctx (x.saveBase + 4096 * page) image
  let s := if x.prot then s.modCtx ctx (fun x => { x with saveCtr := scnt }) else s
  let s := s.leaveCore id core w
  let s := match why with
    | .join _ => s.count x.part .joinsw 1
    | _ => s
  let ready := match why with
    | .block => g.warps.any (fun e => s.couldProceed e.2)
    | .join n => reached w.done n
    | _ => true
  let wake := match why with
    | .block | .join _ => ready
    | _ => false
  let left := (s.plot (plotOf core)).leaving
  let sv : Saved :=
    { why := why, ready := ready, page := page, pages := pages, image := image, body := g.body, keys := keys, scnt := scnt, warps := g.warps, live := g.live,
      accs := g.accs, accLive := g.accLive, words := g.words, prickings := g.prickings, core := core, prio := w.prio, migr := none, pick := none, failed := none,
      wantMigr := left, wantWake := wake, since := s.elapsed, doneAt := w.done, entriesAt := w.entries }
  s.modWg id (fun w => { w with core := none, slots := [], preempt := none, reached := false, expired := none, wantTick := false, saved := some sv, parkCalls := [] })

/-- The release of a save at device scope (R164, R139): the core's buffer drains, and what needs no answer from the host is performed. -/
def State.saveRelease (s : State) (core : Nat) (w : Workgroup) : State :=
  let s := (w.slots.foldl (fun (s : State) slot => s.cleanPrivate core slot) s).drainAll core
  s.performDrains core (s.core core).drains.length

/-- Has a save of a context at this time come from a higher core, so that one from this core takes its counter later (R478)? -/
def State.saveOutOfTurn (s : State) (ctx core : Nat) : Bool :=
  s.wgs.any (fun e => (match e.2.saved with
    | some sv => decide (sv.since = s.elapsed ∧ core < sv.core)
    | none => false) && (mget? s.grids e.2.grid).map (fun g => g.ctx) == some ctx)

/-- WORKGROUP_SAVE (R164, R454, R478): once the drain has completed and every write of the release is performed, the image is written and
the core freed; where it cannot be written, the request is withdrawn. -/
def execWorkgroupSave (grid wg : Nat) (s : State) : Result :=
  let id := wgKey grid wg
  match mget? s.wgs id with
  | none => .next s
  | some w =>
    match w.core, w.preempt, (mget? s.grids w.grid).bind (fun g => (mget? s.ctxs g.ctx).map (fun x => (g.ctx, x))) with
    | some core, some why, some (ctx, x) =>
      if !w.reached || !s.drained id core w || (x.prot && s.saveOutOfTurn ctx core) then .next s
      else
        let s := s.saveRelease core w
        let g := s.gather id core x w
        let pages := (64 + g.body.length + 4095) / 4096
        if !(s.unacked core).isEmpty then .next s
        else match (if x.prot && decide (65536 ≤ s.savedProtected) then none else freeExtent (s.savePagesTaken ctx) x.savePages pages) with
        | none => .next (s.withdraw id)
        | some page =>
          match s.extentKeys ctx (x.saveBase + 4096 * page) .store pages with
          | .error (e, a) =>
            .next ((s.withdraw id).notice { Record.blank with ctx := ctx, qnum := s.lowestQueue ctx, cause := e.code, addr := a, grid := grid, wg := id })
          | .ok keys => .next (s.writeImage id core ctx page pages keys x w g why)
    | _, _, _ => .next s

/-! ### Restore -/

/-- Read registers from an image, in the order they were written: what is left of the bytes, and the registers. -/
def readRegs (t : Nat) : List Nat → List Byte → NatMap Word → List Byte × NatMap Word
  | [], bs, m => (bs, m)
  | n :: r, bs, m => readRegs t r (bs.drop 4) (mput 0 m (256 * t + n) (bytesWord (bs.take 4)))

/-- Give the saved warps the registers of an image (R74): a register that it does not hold reads zero. -/
def loadWarps (live : NatMap Nat) : NatMap Warp → List Byte → NatMap Warp × List Byte
  | [], bs => ([], bs)
  | (i, w) :: r, bs =>
    let mine := live.filter (fun e => e.1 / 64 == i)
    let (bs, regs) := mine.foldl (fun (acc : List Byte × NatMap Word) e => readRegs (e.1 % 64) (bitsList 256 e.2) acc.1 acc.2) (bs, [])
    let (rest, bs) := loadWarps live r bs
    ((i, { w with regs := regs }) :: rest, bs)

/-- Words of bytes with the key of the first. -/
def readWords (key : Nat) : Nat → List Byte → NatMap Word → NatMap Word
  | 0, _, m => m
  | n + 1, bs, m => readWords (key + 1) n (bs.drop 4) (mput 0 m key (bytesWord (bs.take 4)))

/-- A split as it goes on after a restore (R165), with its saved age (Table 6-1): an MWAIT wakes, a page fault replays, the others resume their waits. -/
def Split.restored (sp : Split) : Split :=
  match sp.status with
  | .parked (.mwait _ d) => { sp with status := .parked (.woken d) }
  | .parked (.page _) => { sp with status := .ready }
  | _ => sp

/-- A warp as it goes on after a restore (R165): every armed monitor reports fired. -/
def Warp.restored (w : Warp) : Warp :=
  { w with splits := w.splits.map (fun e => (e.1, e.2.restored)), monitors := w.monitors.map (fun m => if m.armed then m.fire else m) }

/-- The check of an image that is restored (R480): a cause with its address, or its body. -/
def State.checkImage (s : State) (ctx : Nat) (x : Context) (w : Workgroup) (sv : Saved) : Except (Cause × Nat) (List Byte) :=
  let base := x.saveBase + 4096 * sv.page
  match s.extentKeys ctx base .load sv.pages with
  | .error e => .error e
  | .ok keys =>
    if keys ≠ sv.keys then .error (.pageKey, base + 4096 * ((upto keys.length).filter (fun i => keys[i]? != sv.keys[i]?)).headD 0)
    else match s.ctxRead ctx base sv.image.length with
      | .error c => .error (c, base)
      | .ok bs =>
        let h := leNat (bs.take 64)
        if !x.prot then .ok (bs.drop 64)
        else if bitsOf h 0 32 ≠ 0x5356494D ∨ bitsOf h 32 16 ≠ 1 ∨ bitsOf h 48 48 ≠ 0 ∨ bitsOf h 97 53 ≠ 0 ∨ bitsOf h 256 32 ≠ 0 ∨ bitsOf h 150 10 ≠ ctx ∨
            bitsOf h 160 64 ≠ w.grid ∨ bitsOf h 224 32 ≠ w.index ∨ sv.scnt < bitsOf h 320 64 then .error (.saveTag, base)
        else if bitsOf h 320 64 < sv.scnt then .error (.saveStale, base)
        else if bs = sv.image then .ok sv.body
        else .error (.saveTag, base)

/-- Load a workgroup into a core as its image stands (R165, R454, R479). -/
def State.loadWg (s : State) (id core : Nat) (w : Workgroup) (g : Grid) (x : Context) (sv : Saved) (f : Fit) (slice : Nat) (body : List Byte) : State :=
  let held := sv.warps.zipIdx.map (fun e => (e.1.1, e.1.2.ofImage (pieceAt body 4096 8192 e.2)))
  let (warps, rest) := loadWarps sv.live held (body.drop (4096 + 8192 * sv.warps.length))
  let accs := imageAccs sv.accs body
  let prickings := imagePrickings body
  let s := (((s.enterCore core).recarve core x.carve).enterPlot (plotOf core) g).allocScratch core id g f.base
  let s := { s with placePick := none }
  let (acc, rest) := sv.accLive.foldl (fun (st : NatMap Word × List Byte) a => (readWords (4096 * a) 4096 st.2 st.1, st.2.drop 16384))
    ((s.core core).acc.filter (fun e => !sv.accs.any (fun a => a.1 == e.1 / 4096)), rest)
  let s := s.modCore core (fun k =>
    { k with acc := acc, accBad := k.accBad.filter (fun e => !sv.accs.any (fun a => a.1 == e / 4096)),
             accStatus := accs.foldl (fun m a => mput 0 m a.1 a.2) k.accStatus, accOwner := accs.foldl (fun m a => mset m a.1 id) k.accOwner,
             scratch := readWords f.base sv.words rest k.scratch })
  let s := f.slots.foldl (fun (s : State) e => match mget? warps e.1 with
    | some v => (s.modCore core (fun k =>
        let k := k.setWarp e.2 v.restored
        match mget? prickings e.1 with
        | some p => { k with prickings := mset k.prickings (e.2 / 2) { p with slot := e.2 } }
        | none => k)).askSlot core e.2 g.fileSize
    | none => s) s
  let now := s.elapsed
  let s := s.modWg id (fun w => { w.ofImage sv body with core := some core, slots := f.slots.map Prod.snd, slice := slice, expired := none, wantTick := false, since := now, saved := none, blocked := false, parkCalls := [] })
  let s := f.slots.foldl (fun (s : State) e => s.reap core e.2) (s.acquire core .dev)
  (mkeys (imageBarriers w.barriers body)).foldl (fun (s : State) k => (s.spawn id k).getD s) s

/-- A restore fails (R480): the workgroup stays saved until its record is answered. -/
def State.failRestore (s : State) (id : Nat) (w : Workgroup) (g : Grid) (cause : Cause) (addr : Nat) : State :=
  let n := s.nextSeq g.ctx
  let s := s.post { Record.blank with kind := .restore, ctx := g.ctx, qnum := g.qnum, cause := cause.code, addr := addr, tagw := g.tagw, grid := w.grid, wg := id }
  s.modWg id (fun w => { w with saved := w.saved.map (fun sv => { sv with ready := false, pick := none, migr := sv.migr, failed := some n }) })

end Sys2Proof.Machine
end

