-- ==== Sys2Proof/Machine/PolicyCalls.lean ====
section
/-! DEFINITION. The calls of the policy engines: PICK, TICK, BLOCK, WAKE and MIGR, one meaning for each, what a call does at its end, and
the restore that PICK begins (16_policy_engines.md R412 to R418, R430, R497; ENQ stands with the launches). -/

namespace Sys2Proof.Machine

/-! ### Parked and woken workgroups -/

/-- Does a split stand at a wait of Table 16-1's BLOCK row that is not over, MWAIT, BARW, WAITB, WAITC or GWAIT, or is it held, by a RECONV
or by another's trap (R158)? -/
def State.blockedSplit (s : State) (core slot : Nat) (w : Warp) (e : Nat) (sp : Split) : Bool :=
  w.heldByTrap sp || (match sp.status with
  | .ready => false
  | .held => true
  | .parked (.mwait t d) => !s.waitOver w (.mwait t d)
  | .parked (.barw k j l x ended) => !s.waitOver w (.barw k j l x ended)
  | .parked (.gwait k n b) => !s.waitOver w (.gwait k n b)
  | .parked (.instr _) =>
    (match s.issFor core slot (.split e) Cost.free with
      | some c => (match s.fetch c with
        | .ok (.instr (.waitb _ _)) => true
        | .ok (.instr (.waitc _ _ _ _)) => true
        | _ => false)
      | none => false)
  | .parked _ => false)

/-- Is a resident workgroup wholly parked (Table 16-1)? -/
def State.whollyParked (s : State) (w : Workgroup) : Bool :=
  match w.core with
  | none => false
  | some core =>
    let ws := s.warpsOf w
    ws.any (fun x => !x.2.splits.isEmpty) && ws.all (fun x => x.2.splits.all (fun e => s.blockedSplit core x.1 x.2 e.1 e.2))

/-- Has a split of a resident workgroup woken: it may go on, and it is ready or its wait is over? -/
def State.hasWoken (s : State) (w : Workgroup) : Bool :=
  (s.warpsOf w).any (fun x => x.2.splits.any (fun e => !x.2.heldByTrap e.2 && (match e.2.status with
    | .ready => true
    | .held => false
    | .parked (.instr _) => false
    | .parked v => s.waitOver x.2 v)))

/-! ### Candidates -/

/-- The context of a workgroup, with its number. -/
def State.wgCtx (s : State) (w : Workgroup) : Option (Nat × Context) :=
  (mget? s.grids w.grid).bind (fun g => (mget? s.ctxs g.ctx).map (fun x => (g.ctx, x)))

/-- FLAGS of a workgroup's entry (Table 16-5). -/
def State.wgFlags (s : State) (w : Workgroup) : Nat :=
  let prot := match s.wgCtx w with
    | some (_, x) => x.prot
    | none => false
  (if prot then 1 else 0) + (if w.saved.isSome then 2 else 0) + (if s.whollyParked w then 4 else 0) + (if w.expired.isSome then 8 else 0)

/-- The entry of a workgroup as one of some candidates. -/
def State.wgEntry (s : State) (plot count : Nat) (e : Nat × Workgroup) : List Nat :=
  match mget? s.grids e.2.grid with
  | some g => s.workEntry plot e.2.grid g (some e) (s.wgFlags e.2) count
  | none => []

/-- The entries of workgroups. -/
def State.wgEntries (s : State) (plot : Nat) (l : List (Nat × Workgroup)) : List (List Nat) := l.map (s.wgEntry plot l.length)

/-- Is a saved workgroup ready for PICK on a plot (R430, R480, R497)? -/
def Saved.pickable (sv : Saved) (plot : Nat) : Bool :=
  sv.ready && sv.failed.isNone && sv.pick.isNone && !sv.wantMigr && (sv.migr.isNone || sv.migr == some plot)

/-- The tenant list of a context on a core, in acceptance order, a saved workgroup before an unplaced one of equal ID
(Table 16-1): the ID of each entry, and the entry. -/
def State.pickList (s : State) (core ctx : Nat) : List (Nat × Pick) :=
  ((s.grids.filter (fun e => e.2.ctx == ctx)).flatMap (fun e =>
    let saved := (s.wgs.filter (fun w => w.2.grid == e.1 && (match w.2.saved with
      | some sv => sv.pickable (plotOf core) && (s.fits core e.2 (some sv)).isSome
      | none => false))).map (fun w => (e.1, Pick.saved w.1))
    saved ++ (if !e.2.waiting.isEmpty && (s.fits core e.2 none).isSome then [(e.1, Pick.grid e.1)] else []))).take 1024

/-- The entry of a PICK candidate. -/
def State.pickEntry (s : State) (plot count : Nat) (e : Nat × Pick) : List Nat :=
  match e.2 with
  | .saved wg => (match mget? s.wgs wg with
    | some w => s.wgEntry plot count (wg, w)
    | none => [])
  | .grid gid => (match mget? s.grids gid with
    | some g => s.workEntry plot gid g none (match mget? s.ctxs g.ctx with
        | some x => if x.prot then 1 else 0
        | none => 0) count
    | none => [])

/-- The contexts that have a tenant list on a core, with their lists, in order of context number. -/
def State.pickContexts (s : State) (core part : Nat) : List (Nat × List (Nat × Pick)) :=
  (s.ctxs.filter (fun e => e.2.part == part)).filterMap (fun e =>
    let l := s.pickList core e.1
    if l.isEmpty then none else some (e.1, l))

/-- Does work of some context wait for a core of a plot: an unplaced workgroup or a ready saved one? -/
def State.pickWaits (s : State) (plot : Nat) (mine : Nat → Bool) : Bool :=
  s.grids.any (fun e => mine e.2.ctx && s.plotOpen plot e.2 && (!e.2.waiting.isEmpty || s.wgs.any (fun w => w.2.grid == e.1 && (match w.2.saved with
    | some sv => sv.pickable plot
    | none => false))))

/-- The entry of a plot at MIGR (Table 16-5). -/
def State.plotEntry (s : State) (plot count : Nat) : List Nat :=
  [plot, 0, 0, 0, 0, s.missOf plot .plot, 0, s.winSum plot (fun _ => true) (fun x => x.whld), 0, s.idleCores plot, s.freePanelsOf plot,
    ((s.plotCores plot).filter (fun k => k.fence % 16 != 0)).length, 0, count, 0]

/-! ### Round-robin answers -/

/-- The round-robin context of a PICK on a plot (Table 16-1). -/
def State.robinContext (s : State) (plot : Nat) (cs : List (Nat × List (Nat × Pick))) : Option Nat := cyclicNext (mkeys cs) (s.plot plot).lastCtx

/-- The round-robin entry of a tenant list on a plot (Table 16-1). -/
def State.robinEntry (s : State) (plot : Nat) (l : List (Nat × Pick)) : Option (Nat × Pick) :=
  (cyclicNext (l.map Prod.fst) (s.plot plot).lastId).bind (fun id => l.find? (fun e => e.1 == id))

/-- The workgroup whose slice expired longest ago; none where none has. -/
def longestExpired (l : List (Nat × Workgroup)) : Option Nat :=
  (minOf? (l.filterMap (fun e => e.2.expired))).bind (fun t => (l.find? (fun e => e.2.expired == some t)).map Prod.fst)

/-- The round-robin answer of a TICK level (Table 16-1). -/
def State.tickRobin (s : State) (plot : Nat) (mine : Nat → Bool) (l : List (Nat × Workgroup)) : Option Nat :=
  if s.idleCores plot = 0 && s.pickWaits plot mine then longestExpired l else none

/-- The plot with the most free cores, the lower number on a tie. -/
def State.freest (s : State) : List Nat → Option Nat
  | [] => none
  | p :: r => match s.freest r with
    | none => some p
    | some q => some (if s.idleCores q ≤ s.idleCores p then p else q)

/-- Does a context belong to a partition? -/
def State.ofPart (s : State) (part c : Nat) : Bool := match mget? s.ctxs c with
  | some x => x.part == part
  | none => false

/-- The workgroups of a context among some. -/
def State.ofCtx (s : State) (ctx : Nat) (l : List (Nat × Workgroup)) : List (Nat × Workgroup) := l.filter (fun w => (s.wgCtx w.2).map Prod.fst == some ctx)

/-! ### The end of a call -/

/-- Apply a PICK decision (R19, R415): the workgroup is placed, or its restore on the core begins. -/
def State.applyPick (s : State) (core slice : Nat) (p : Pick) : State :=
  match p with
  | .saved wg => s.modWg wg (fun w => { w with saved := w.saved.map (fun sv => { sv with pick := some (core, slice) }) })
  | .grid gid => (match mget? s.grids gid with
    | some g => (match g.waiting.head?, s.fits core g none with
      | some i, some f => s.placeWg core gid i g f slice
      | _, _ => s)
    | none => s)

/-- Place an entry of a context's list, which is then the last that was picked on the plot (Table 16-1). -/
def State.pickNow (s : State) (core ctx slice : Nat) (e : Nat × Pick) : State :=
  (s.applyPick core slice e.2).modPlot (plotOf core) (fun p => { p with lastCtx := some ctx, lastId := some e.1 })

/-- A choice that is no longer possible is replaced (R416), which PINVAL counts where a decision register named it. -/
def State.replaced (s : State) (part : Nat) (named : Bool) : State := if named then s.count part .pinval 1 else s

/-- Take a round-robin entry of what a core can still take of a context, or else of the first context after the last picked one. -/
def State.pickRobin (s : State) (part core ctx slice : Nat) : State :=
  let cs := s.pickContexts core part
  match (if (mget? cs ctx).isSome then some ctx else s.robinContext (plotOf core) cs) with
  | none => s
  | some c => match s.robinEntry (plotOf core) (mgetD cs c []) with
    | some e => s.pickNow core c slice e
    | none => s

/-- The end of a PICK call (R416): what it named is placed where it is still possible. -/
def State.endPick (s : State) (part core ctx : Nat) (named : Bool) (entry : Option (Nat × Pick)) (slice : Nat) : State :=
  let cs := if (s.plot (plotOf core)).leaving || s.partOfPlot (plotOf core) != some part then [] else s.pickContexts core part
  let l := mgetD cs ctx []
  match entry with
  | some e =>
    if l.contains e then s.pickNow core ctx slice e
    else
      let s := (s.replaced part true).replaced part (named && l.isEmpty)
      if cs.isEmpty then s else s.pickRobin part core ctx slice
  | none =>
    let s := s.replaced part (named && l.isEmpty)
    if cs.isEmpty then s else s.pickRobin part core ctx slice

/-- The end of a TICK call (R413, R416): at most one workgroup is asked to stop. -/
def State.endTick (s : State) (part plot : Nat) (hyper : Option Nat) (hyperNamed : Bool) (ctx : Nat) (tenant : Option Nat) (tenantNamed : Bool) : State :=
  let l := if (s.plot plot).leaving then [] else s.residents plot
  let here := fun (o : Option Nat) => match o with
    | some id => (mget? l id).isSome
    | none => true
  let lt := s.ofCtx ctx l
  let (s, h) := if here hyper then (s, hyper) else (s.replaced part hyperNamed, s.tickRobin plot (s.ofPart part) l)
  let (s, t) := if here tenant then (s, tenant) else (s.replaced part tenantNamed, s.tickRobin plot (fun c => c == ctx) lt)
  match (match t with
    | some id => some id
    | none => h) with
  | some id => s.askPreempt id .tick
  | none => s

/-- The plots to which a saved workgroup may go: those of its confinement that stay in the partition (Table 16-1, R430). -/
def State.migrPlots (s : State) (part : Nat) (w : Workgroup) : List Nat := match mget? s.grids w.grid with
  | some g => (s.stayingPlots part).filter (hasBit g.conf)
  | none => []

/-- The slice that d1 selects (Table 16-2). -/
def sliceOf (d : Nat) : Nat := if d = 0 then 1024 * 1024 else 1024 * d

/-- The end of a MIGR call (R412, R416). -/
def State.endMigr (s : State) (part wg prio : Nat) (target : Option Nat) (named : Bool) : State :=
  match mget? s.wgs wg with
  | none => s
  | some w =>
    let l := s.migrPlots part w
    let ok := match target with
      | some p => l.contains p
      | none => false
    let choice := if ok then target else s.freest l
    (if ok then s else s.replaced part named).modWg wg (fun w =>
      { w with prio := prio, saved := w.saved.map (fun sv => { sv with migr := choice, migrNamed := ok && named, wantMigr := choice.isNone }) })

/-- Give the split of an LNCH the answer of its ENQ. -/
def State.giveEnq (s : State) (core slot id : Nat) (d : Option Nat) : State :=
  s.modWarp core slot (fun w => { w with splits := w.splits.map (fun e => (e.1, match e.2.status with
    | .parked (.enq i none) => if i = id then { e.2 with status := .parked (.enq i (some d)) } else e.2
    | _ => e.2)) })

/-- The end of an ENQ call (R385, R399, R414): the split has its answer, the packet's step goes on, or the part is answered; one whose asker is
gone decides nothing. -/
def State.endEnq (s : State) (g : Grid) (asker : Asker) (d : Option Nat) : State :=
  match asker with
  | .warp core slot id => s.giveEnq core slot id d
  | .packet qnum ctx qrd tag ptr =>
    (match mget? s.cmd.queues qnum with
    | none => s
    | some q =>
      if q.ctx ≠ ctx ∨ q.qrd ≠ qrd ∨ q.block ≠ some .working then s
      else match d with
        | none => s.packetFault qnum q tag Cause.policyRefused.code 0 ptr
        | some prio => (s.acceptGrid g prio).1.endStep qnum)
  | .frame dev part arg qnum =>
    if (mget? s.cmd.queues qnum).all (fun q => q.ctx != g.ctx) then s.answerPart dev part arg qnum 5
    else match d with
      | none => s.answerPart dev part arg qnum 7
      | some prio => (s.acceptGrid g prio).1.answerPart dev part arg qnum 0

/-- The end of a call: its writes to policy scratch are performed, then its decisions take effect (R413, R416, R418, R420). -/
def State.endCall (s : State) (plot : Nat) (c : PolicyCall) : State :=
  let s := s.putScratch c.writes
  match c.kind with
  | .enq g _ asker =>
    let r := s.enqDecide c
    r.1.endEnq g asker r.2
  | .pick core robin lists =>
    let x := c.pickCtx robin lists
    let entry := ((c.level 1).value 0 (some x.2.2.length)).bind (fun i => x.2.2[i]?)
    s.endPick c.part core x.1 x.2.1 (entry.map (fun e => (e.1, e.2.1))) (sliceOf (((c.level 1).value 1 (some 65536)).getD 0))
  | .tick wgs robin robins =>
    let h := c.tickHyper wgs robin
    let ctx := (c.tickCtx wgs robin).getD 0
    let mine := wgs.filter (fun e => e.2.1 == ctx)
    let t := if (c.tickCtx wgs robin).isNone then (none, false) else match (c.level 1).value 0 (some (mine.length + 1)) with
      | some v => (if v = 0 then none else (mine[v - 1]?).map Prod.fst, true)
      | none => (mget? robins ctx, false)
    s.endTick c.part plot h.1 h.2 ctx t.1 t.2
  | .block wg _ _ => if ((c.level 0).value 0 none).getD 0 != 0 then s.askPreempt wg .block else s
  | .wake wg _ prio _ => s.modWg wg (fun w => { w with prio := ((c.level 0).value 0 (some 8)).getD prio })
  | .migr wg prio plots robin =>
    let named := ((c.level 0).value 0 (some plots.length)).bind (fun i => plots[i]?)
    let target := match named with
      | some e => some e.1
      | none => robin
    s.endMigr c.part wg (((c.level 0).value 1 (some 8)).getD prio) target named.isSome

/-- Start a call on a plot's engine: it ends at once where every level was answered without running (R417). -/
def State.startCall (s : State) (plot part : Nat) (k : CallKind) : State :=
  match s.beginCall plot part k with
  | (s, none) => s
  | (s, some c) => s.endCall plot c

/-- The next step of the call on a plot's engine, when its time has come: the opcode before which its run stands, or its end (R418). -/
def State.callStep (s : State) (plot : Nat) : Option State :=
  match mget? s.pol.calls plot with
  | none => none
  | some c =>
    if s.elapsed < c.ends then none
    else match c.running with
      | some r => some (s.runOp plot c r)
      | none => some (({ s with pol := { s.pol with calls := mdel s.pol.calls plot } } : State).endCall plot c)

/-! ### PICK -/

/-- PICK_CALL (R412, R413, R417): the engine of the core's plot takes one call at a time. -/
def execPickCall (core : Nat) (s : State) : Result :=
  let plot := plotOf core
  match s.partOfPlot plot with
  | none => .next s
  | some part =>
    let cs := s.pickContexts core part
    if (s.plot plot).leaving || cs.isEmpty || s.engineBusy plot then .next s
    else
      let lists := cs.map (fun e => (e.1, e.2.map (fun x => (x.1, x.2, s.pickEntry plot e.2.length x))))
      let now := s.elapsed
      .next ((s.modPlot plot (fun p => { p with picks := p.picks.erase core, picked := core :: (if p.pickTime = now then p.picked else []), pickTime := now })).startCall
        plot part (.pick core ((s.robinContext plot cs).getD 0) lists))

/-- WORKGROUP_RESTORE (R165, R416, R480): the workgroup that PICK chose for a core is placed there, before anything else happens. -/
def execWorkgroupRestore (grid wg core : Nat) (s : State) : Result :=
  let id := wgKey grid wg
  match mget? s.wgs id with
  | none => .next s
  | some w =>
    match w.saved, mget? s.grids grid with
    | some sv, some g =>
      match sv.pick, mget? s.ctxs g.ctx with
      | some (c, slice), some x =>
        if c ≠ core then .next s
        else match s.fits core g (some sv) with
          | none => .next (s.modWg id (fun w => { w with saved := some { sv with pick := none } }))
          | some f =>
            let image := s.checkImage g.ctx x w sv
            let s := s.noteReads g.ctx [(x.saveBase + 4096 * sv.page, sv.image.length)]
            match image with
            | .error (e, a) => .next (s.failRestore id w g e a)
            | .ok body => .next (s.loadWg id core w g x sv f slice body)
      | _, _ => .next s
    | _, _ => .next s

/-! ### TICK -/

/-- A TICK call of a plot (R412, R413, R427).  Both levels read the one snapshot (R418). -/
def State.tick (s : State) (plot : Nat) : State :=
  let s := s.refillOverdrafts plot
  match s.partOfPlot plot with
  | none => s
  | some part =>
    if (s.plot plot).leaving then s
    else
      let l := (s.residents plot).take 1024
      let ctxOf := fun (w : Workgroup) => ((s.wgCtx w).map Prod.fst).getD 0
      let robins := ((l.map (fun e => ctxOf e.2)).dedup).filterMap (fun ctx => (s.tickRobin plot (fun c => c == ctx) (s.ofCtx ctx l)).map (fun id => (ctx, id)))
      s.startCall plot part (.tick (l.map (fun e => (e.1, ctxOf e.2, s.wgEntry plot l.length e))) (s.tickRobin plot (s.ofPart part) l) (robins.foldl (fun m e => mset m e.1 e.2) []))

/-- The statistics of a plot's window become those of the last completed one (Table 16-5). -/
def State.moveWindow (s : State) (plot : Nat) : State :=
  let mine := fun (e : Nat × WinStat) => e.1 % 8 == plot
  { s with pol := { s.pol with last := (s.pol.now.filter mine).foldl (fun m e => mset m e.1 e.2) (s.pol.last.filter (fun e => !mine e)),
                               now := s.pol.now.filter (fun e => !mine e) } }

/-- TICK_CALL (R412): every 10 µs of the timebase. -/
def execTickCall (plot : Nat) (s : State) : Result :=
  if plot < 8 ∧ (s.plot plot).ticks < s.elapsed / 10000 ∧ s.engineBusy plot = false then
    .next (((s.modPlot plot (fun p => { p with ticks := p.ticks + 1 })).moveWindow plot).tick plot)
  else .next s

/-- SLICE_EXPIRY (R415): a slice has reached zero, and a TICK call is made on its plot. -/
def execSliceExpiry (grid wg : Nat) (s : State) : Result :=
  let id := wgKey grid wg
  match mget? s.wgs id with
  | none => .next s
  | some w =>
    match w.core with
    | none => .next s
    | some core =>
      if w.wantTick && !s.engineBusy (plotOf core) then .next ((s.modWg id (fun w => { w with wantTick := false })).tick (plotOf core)) else .next s

/-! ### BLOCK, WAKE and MIGR -/

/-- A resident workgroup has become wholly parked, or has woken since: the call that this makes is noted (R412), whether or not its engine
is free now. -/
def State.notePark (s : State) (id : Nat) : State :=
  match mget? s.wgs id with
  | none => s
  | some w =>
    if w.core.isNone then s
    else if !w.blocked && s.whollyParked w then s.modWg id (fun w => { w with blocked := true, parkCalls := w.parkCalls ++ [true] })
    else if w.blocked && s.hasWoken w then s.modWg id (fun w => { w with blocked := false, parkCalls := w.parkCalls ++ [false] })
    else s

/-- Is a saved workgroup due to become ready by itself: an MWAIT timeout of one that BLOCK saved has elapsed (R497)? -/
def State.deadlineDue (s : State) (sv : Saved) : Bool :=
  sv.why == .block && !sv.ready && sv.failed.isNone && sv.warps.any (fun w => s.couldProceed w.2)

/-- A saved workgroup whose wait is over is ready from now on, and its WAKE call is due (R497). -/
def State.noteReady (s : State) (id : Nat) : State :=
  match (mget? s.wgs id).bind (fun w => w.saved) with
  | none => s
  | some sv => if s.deadlineDue sv then s.modWg id (fun w => { w with saved := some { sv with ready := true, wantWake := true, since := s.elapsed } }) else s

/-- BLOCK_CALL (R412, R413, R417): a resident workgroup has become wholly parked.  Its park is noted when it comes, and its call starts once
the engine is free, before the call of a wake that came later. -/
def execBlockCall (grid wg : Nat) (s : State) : Result :=
  let id := wgKey grid wg
  let s := s.notePark id
  match mget? s.wgs id with
  | none => .next s
  | some w =>
    match w.core, s.wgCtx w, w.parkCalls with
    | some core, some (ctx, x), true :: rest =>
      let plot := plotOf core
      if (s.plot plot).leaving || s.engineBusy plot then .next s
      else .next ((s.modWg id (fun w => { w with parkCalls := rest })).startCall plot x.part (.block id ctx (s.wgEntry plot 1 (id, w))))
    | _, _, _ => .next s

/-- The engine of a WAKE call (R417): of the plot on which the workgroup is or was last resident, or of its partition's lowest. -/
def State.wakeEngine (s : State) (part : Nat) (w : Workgroup) : Option Nat :=
  match w.core, w.saved with
  | some core, _ => if (s.plot (plotOf core)).leaving then none else some (plotOf core)
  | none, some sv =>
    let stay := s.stayingPlots part
    if stay.contains (plotOf sv.core) then some (plotOf sv.core) else stay.head?
  | none, none => none

/-- Is a WAKE call due: a wholly parked resident workgroup has woken, or a saved one has become ready (Table 16-1, R497)? -/
def Workgroup.wakeDue (w : Workgroup) : Bool :=
  match w.core, w.saved with
  | some _, _ => w.parkCalls.head? == some false
  | none, some sv => sv.wantWake
  | none, none => false

/-- The workgroup once its WAKE call has started. -/
def Workgroup.woken (w : Workgroup) : Workgroup :=
  match w.core with
  | some _ => { w with parkCalls := w.parkCalls.tail }
  | none => { w with saved := w.saved.map (fun sv => { sv with wantWake := false }) }

/-- WAKE_CALL (R412, R417, R497): the tenant traverse sets the PRIO of a workgroup that has become ready, or that has woken.  Its call too
starts once the engine is free, in the order in which it became due. -/
def execWakeCall (grid wg : Nat) (s : State) : Result :=
  let id := wgKey grid wg
  let s := (s.notePark id).noteReady id
  match mget? s.wgs id with
  | none => .next s
  | some w =>
    match s.wgCtx w with
    | none => .next s
    | some (ctx, x) =>
      if !w.wakeDue then .next s
      else match s.wakeEngine x.part w with
        | none => .next s
        | some plot =>
          if s.engineBusy plot then .next s
          else .next ((s.modWg id Workgroup.woken).startCall plot x.part (.wake id ctx w.prio (s.wgEntry plot 1 (id, w))))

/-- Does a MIGR call for a workgroup run? -/
def State.migrRuns (s : State) (id : Nat) : Bool := s.pol.calls.any (fun c => match c.2.kind with
  | .migr wg _ _ _ => wg == id
  | _ => false)

/-- MIGR_CALL (R412, R430): the hypervisor traverse chooses a plot for a workgroup saved from one that has left. -/
def execMigrCall (grid wg : Nat) (s : State) : Result :=
  let id := wgKey grid wg
  match mget? s.wgs id with
  | none => .next s
  | some w =>
    match w.saved, s.wgCtx w with
    | some sv, some (_, x) =>
      let l := s.migrPlots x.part w
      match (s.stayingPlots x.part).head?, l with
      | some engine, _ :: _ =>
        if !sv.wantMigr || s.migrRuns id || s.engineBusy engine then .next s
        else .next (s.startCall engine x.part (.migr id sv.prio (l.map (fun p => (p, s.plotEntry p l.length))) (s.freest l)))
      | _, _ => .next s
    | _, _ => .next s

end Sys2Proof.Machine
end

