-- ==== Sys2Proof/Machine/Chain.lean ====
section
/-! DEFINITION. Operations that the hub's units share: the chain of a partition and its derate intervals, key slots, boost leases,
the clear sequence of a plot, and the end of a live update (01_machine.md R24, 17_command_processors.md R456,
18_security_engine.md R459 to R477, 19_power_clock_controller.md R487 to R490). -/

namespace Sys2Proof.Machine

def State.modPart (s : State) (p : Nat) (f : Partition → Partition) : State :=
  match mget? s.parts p with
  | some x => { s with parts := mset s.parts p (f x) }
  | none => s

/-! ### The chain -/

/-- The hash of an entry (R475). -/
def ChainEntry.hash (e : ChainEntry) : Nat :=
  Config.digest ([e.pinst, e.number, e.time, e.lgen, e.flags] ++ e.meters ++ e.derates.flatMap (fun d => [d.start, d.stop, d.factor]) ++ [e.prev])

/-- The causes of an entry (R475). -/
def chainTickFlag : Nat := 1
def chainLayoutFlag : Nat := 2
def chainDerateFlag : Nat := 4
def chainSealFlag : Nat := 8
def chainDebugFlag : Nat := 16

/-- The meters of a partition in table order (Table 18-4). -/
def State.metersOf (s : State) (part : Nat) : List Nat := (upto 18).map (fun i => mgetD s.meters (64 * part + i) 0)

/-- Append an entry to a partition's chain (R475, R476): events of one ns share one entry, and the last 1,024 are kept, newest
first. -/
def State.chainAppend (s : State) (part flag : Nat) : State :=
  match mget? s.parts part with
  | none => s
  | some p =>
    let meters := s.metersOf part
    let now := s.elapsed
    let fresh : ChainEntry :=
      { pinst := p.pinst, number := p.chainNo, time := now, lgen := p.lgen, flags := flag, meters := meters, derates := p.derates,
        prev := match p.chain with
          | e :: _ => e.hash
          | [] => Config.digest [p.pinst] }
    let chain := match p.chain with
      | e :: r => if e.time = now ∧ e.derates.length + p.derates.length ≤ 8
          then { e with lgen := p.lgen, flags := e.flags ||| flag, meters := meters, derates := e.derates ++ p.derates } :: r
          else fresh :: e :: r
      | [] => [fresh]
    let grown := decide (p.chain.length < chain.length)
    s.modPart part (fun p => { p with chain := chain.take 1024, chainNo := if grown then p.chainNo + 1 else p.chainNo, derates := [] })

/-- The 1 s tick of the chains, where it is due (R476). -/
def State.chainTick (s : State) : State :=
  if s.sec.seconds < s.elapsed / 1000000000 then
    (mkeys s.parts).foldl (fun (s : State) p => s.chainAppend p chainTickFlag) { s with sec := { s.sec with seconds := s.sec.seconds + 1 } }
  else s

/-! ### Derate intervals -/

/-- The delivered factor of a derate level in units of 2^−16 (R489). -/
def derateFactor (level : Nat) : Nat := if level = 0 then 65536 else if level = 1 then 49152 else 32768

/-- Does a partition own a slot of the HBM calendars (R490)? -/
def Partition.ownsHbm (p : Partition) : Bool := (p.slotMaps[1]?).getD 0 != 0

/-- Open a derate interval of a stack for a partition, where the stack is derated and none is open (R490). -/
def State.openDerate (s : State) (stack part : Nat) : State :=
  let level := mgetD s.pwr.derate stack 0
  if level = 0 ∨ (mget? s.pwr.opened (8 * stack + part)).isSome then s
  else { s with pwr := { s.pwr with opened := mset s.pwr.opened (8 * stack + part) (s.elapsed, derateFactor level) } }

/-- Close an interval (R490): DERATES counts it, and it waits for the chain, which takes it at the latest with the eighth (R476). -/
def State.closeDerate (s : State) (stack part : Nat) : State :=
  match mget? s.pwr.opened (8 * stack + part) with
  | none => s
  | some (start, factor) =>
    let now := s.elapsed
    let s : State := { s with pwr := { s.pwr with opened := mdel s.pwr.opened (8 * stack + part) } }
    let s := (s.meter part .derates 1).modPart part (fun p => { p with derates := p.derates ++ [{ start := start, stop := now, factor := factor }] })
    match mget? s.parts part with
    | some p => if 8 ≤ p.derates.length then s.chainAppend part chainDerateFlag else s
    | none => s

/-! ### Key slots -/

def KeySlot.free : KeySlot := { state := .free, part := 0, secret := 0, sess := 0, since := 0 }

def State.keySlot (s : State) (key : Nat) : KeySlot := mgetD s.sec.keys key KeySlot.free

def State.setKey (s : State) (key : Nat) (k : KeySlot) : State := { s with sec := { s.sec with keys := mput KeySlot.free s.sec.keys key k } }

/-- The lowest FREE slot (R459, R467); slot 0 is reserved (R460). -/
def State.freeKey (s : State) : Option Nat := ((upto 1024).drop 1).find? (fun k => (s.keySlot k).state == .free)

/-- Does a context record, a SHKEY or a weight version name a key id (Table 18-1)? -/
def State.keyNamed (s : State) (key : Nat) : Bool :=
  s.ctxs.any (fun x => x.2.key == key) || s.parts.any (fun p => p.2.shkey == key) || s.weights.any (fun v => v.v.key == key)

/-! ### Boost leases -/

/-- LPOOL of a partition (R487, Table 19-2). -/
def State.pool (s : State) (part : Nat) : Nat := mgetD s.pwr.lpools part 0

/-- Set LPOOL of a partition (R487, Table 19-2). -/
def State.setPool (s : State) (part n : Nat) : State := { s with pwr := { s.pwr with lpools := mset s.pwr.lpools part n } }

/-- The IIU left of a context's lease return to its partition's pool (R488). -/
def State.returnLease (s : State) (ctx : Nat) : State :=
  match mget? s.ctxs ctx with
  | none => s
  | some x =>
    match x.lease with
    | none => s
    | some n => (s.modCtx ctx (fun x => { x with lease := none })).setPool x.part ((s.pool x.part + n) % 2 ^ 48)

/-! ### The clear sequence -/

/-- Clear one core (R24, R463): buffers and private lines are written back, then everything that a context leaves is zeroed. -/
def State.clearCore (s : State) (core : Nat) : State :=
  let s := ((s.core core).l1.filter (fun l => l.owner.isSome)).foldl (fun (s : State) l => s.writeBack core (s.wgOfSlot core (l.owner.getD 0)) l) s
  let s := s.drainAll core
  let s := s.performDrains core (s.core core).drains.length
  s.modCore core (fun k =>
    { k with l1 := [], scratch := [], scrBad := [], acc := [], accBad := [], accStatus := [], accOwner := [], accReleasing := [], accPrev := [], staged := [],
             tlb := [], rqry := [] })

/-- Clear a plot (R24): its class is free again, and SCLRS of its partition counts (R463). -/
def State.clearPlot (s : State) (plot : Nat) : State :=
  let s := (mkeys s.cores).foldl (fun (s : State) c => if plotOf c = plot then s.clearCore c else s) s
  let s := match s.partOfPlot plot with
    | some p => s.meter p .sclrs 1
    | none => s
  s.modPlot plot (fun p => { p with sclr := false, cls := .clean, mem := [], memCtx := none })

/-- Return the lines of a granule to the zeroed state (R450, R496). -/
def State.zeroGranule (s : State) (g : Nat) : State :=
  { s with hbm := s.hbm.filter (fun e => e.1 / 2 ^ 30 != g), lineKeys := s.lineKeys.filter (fun e => e.1 / 2 ^ 23 != g) }

/-! ### Live updates -/

/-- Extend measurement index 4 or 5 with an event (R465). -/
def State.extend4 (s : State) (event : List Nat) : State := { s with sec := { s.sec with meas4 := Config.digest (s.sec.meas4 :: event) } }
def State.extend5 (s : State) (event : List Nat) : State := { s with sec := { s.sec with meas5 := Config.digest (s.sec.meas5 :: event) } }

/-- The image that the active complex runs. -/
def State.activeImage (s : State) : Option ImageInfo := (s.cmd.images[s.cmd.active]?).join

/-- Put an image into the standby complex, or none (R455). -/
def State.setStandby (s : State) (i : Option ImageInfo) : State := { s with cmd := { s.cmd with images := setAt s.cmd.images (1 - s.cmd.active) i } }

/-- Withdraw a staged update (R456, R470): the standby holds no image then. -/
def State.withdrawUpdate (s : State) (u : Update) : State :=
  (({ s with cmd := { s.cmd with update := none } } : State).setStandby none).extend4 [2, u.img.digest]

/-- A NOTICE to each context that an update has been withdrawn (Table 17-10); the manual gives it no cause code, which is free. -/
def State.updateNotices (s : State) : State :=
  (mkeys s.ctxs).foldl (fun (s : State) c =>
    ({ s with fresh := s.fresh + 1 }).notice { Record.blank with ctx := c, qnum := s.lowestQueue c, cause := (Config.freeByte s.fresh).toNat }) s

end Sys2Proof.Machine
end

