-- ==== Sys2Proof/Machine/Packets.lean ====
section
/-! DEFINITION. Packets and mailbox words: how a queue starts a packet, its checks and faults, and the packets other than PART_CFG
(17_command_processors.md R433 to R441). -/

namespace Sys2Proof.Machine

/-! ### Packets -/

/-- A packet as it was read: its count, its address and its 512 bits (R434). -/
structure Packet where
  count : Nat
  addr : Nat
  v : Nat
  deriving DecidableEq, Repr

def Packet.type (p : Packet) : Nat := bitsOf p.v 0 8
def Packet.ord (p : Packet) : Bool := hasBit p.v 9
def Packet.cmpl (p : Packet) : Bool := hasBit p.v 10
def Packet.tag (p : Packet) : Nat := bitsOf p.v 32 32
def Packet.mbx (p : Packet) : Nat := bitsOf p.v 64 16
def Packet.fn (p : Packet) : Nat := bitsOf p.v 64 8
def Packet.idx (p : Packet) : Nat := bitsOf p.v 80 16
/-- The address field, [191:128] (Table 17-4). -/
def Packet.ptr (p : Packet) : Nat := bitsOf p.v 128 64
/-- The value field, [255:192]. -/
def Packet.val (p : Packet) : Nat := bitsOf p.v 192 64

/-- What a packet asks for; a reserved TYPE and an unused FN stand with NOP, whose event answers them. -/
inductive PacketKind where
  | nop | launch | wait | signal | policy
  | cfg (fn : Nat)
  deriving DecidableEq, Repr

def Packet.kind (p : Packet) : PacketKind :=
  match p.type with
  | 1 => .launch
  | 2 => .wait
  | 3 => .signal
  | 4 => .policy
  | 5 => if p.fn ≤ 9 then .cfg p.fn else .nop
  | _ => .nop

/-- The reserved bits of a packet are zero, its TYPE and FN are used and its address is aligned (R434, R435, Table 17-9). -/
def Packet.formatOk (p : Packet) : Bool :=
  let z := fun (lo n : Nat) => bitsOf p.v lo n == 0
  z 11 21 && z 8 1 && (!p.cmpl || p.type == 1) &&
  (match p.type with
    | 0 => z 64 448
    | 1 => z 80 48 && z 256 256 && (p.cmpl || z 64 16) && p.ptr % 128 == 0
    | 2 => z 80 48 && z 192 320 && p.ptr % 8 == 0
    | 3 => z 80 112 && z 256 256
    | 4 => z 64 64 && z 192 320 && p.ptr % 16 == 0
    | 5 => z 72 8 && z 96 32 && z 192 320 && p.ptr % 64 == 0 && decide (p.fn ≤ 9)
    | _ => false)

/-- The first cause that a read of n bytes by the command processor meets, with its address. -/
def State.readCause (s : State) (ctx va : Nat) : Nat → Option (Cause × Nat)
  | 0 => none
  | n + 1 =>
    match s.translateCtx ctx .load va with
    | .error c => some (c, va)
    | .ok _ => s.readCause ctx (va + 1) n

/-- Read n bytes of a context as one number: the first cause and its address, or the value. -/
def State.ctxLoad (s : State) (ctx va n : Nat) : Except (Cause × Nat) Nat :=
  match s.readCause ctx va n with
  | some e => .error e
  | none => match s.ctxRead ctx va n with
    | .ok bs => .ok (leNat bs)
    | .error c => .error (c, va)

/-- The packet that a queue has started, or reads now: a slot is read once (R433). -/
def State.readPacket (s : State) (q : Queue) : Except (Cause × Nat) Packet :=
  match q.packet with
  | some bs => .ok { count := q.qrd, addr := q.packetAddr, v := leNat bs }
  | none => match s.ctxLoad q.ctx q.packetAddr 64 with
    | .ok v => .ok { count := q.qrd, addr := q.packetAddr, v := v }
    | .error e => .error e

/-- Does a quiesce or a SWITCH hold every queue at its packet boundary (R457)? -/
def State.quiescing (s : State) : Bool := match s.cmd.update with
  | some u => u.state == .quiesce || u.state == .switch
  | none => false


/-- May a queue start or repeat a packet's step (R433, R436, R444, R445, R453, R457)? -/
def State.queueReady (s : State) (x : Context) (q : Queue) : Bool :=
  !q.halted && q.pending.isNone && q.block.isNone && q.qrd != q.qdb && !s.quiescing && !s.chkptHolds x.part

/-- Have the grids of a queue's earlier packets completed, and are their produces performed (R434)? -/
def State.ordReady (s : State) (qnum : Nat) : Bool :=
  !s.grids.any (fun g => g.2.qnum == qnum && (match g.2.launcher with
    | .packet _ => true
    | _ => false)) &&
  !s.cmd.mboxQ.any (fun w => match w.op with
    | .background q _ _ => q == qnum
    | _ => false)

/-- The packet causes (Table 17-9). -/
def pktFormat : Nat := 0x20
def mbxRange : Nat := 0x21
def layoutConflict : Nat := 0x22
def verifyCause : Nat := 0x23
def weightRefused : Nat := 0x24
def contextRecord : Nat := 0x25
def hostPath : Nat := 0x26

/-- Start the next packet of a queue where it is of a kind (R433 to R436): its format, and the attribute that PART_CFG asks for
(R448), then its step, which may wait (none). -/
def packetStep (qnum : Nat) (kind : PacketKind) (go : State → Queue → Context → Packet → Option State) (s : State) : Result :=
  match mget? s.cmd.queues qnum with
  | none => .next s
  | some q =>
    match mget? s.ctxs q.ctx with
    | none => .next s
    | some x =>
      if !s.queueReady x q then .next s
      else match s.readPacket q with
        | .error (c, a) => .next (if kind = .nop then s.packetFault qnum q 0 c.code 0 a else s)
        | .ok p =>
          if p.kind ≠ kind ∨ (p.ord && !s.ordReady qnum) then .next s
          else
            let t := (if q.packet.isSome then s else s.noteReads q.ctx [(p.addr, 64)]).modQueue qnum (fun q => { q with packet := some (leBytes 64 p.v) })
            if !p.formatOk then .next (t.packetFault qnum q p.tag pktFormat 0 0)
            else if !x.priv && (match kind with
                | .cfg fn => !(fn == 2 || fn == 3)
                | _ => false) then .next (t.packetFault qnum q p.tag Cause.privOp.code 0 0)
            else .next ((go t q x p).getD s)

/-- NOP_PACKET (R436): a NOP, and every packet that no step exists for: a reserved TYPE, an unused FN, one that cannot be read. -/
def execNopPacket (qnum : Nat) (s : State) : Result :=
  packetStep qnum .nop (fun s _ _ _ => some (s.endStep qnum)) s

/-- The step of a LAUNCH: the record is read and checked, ENQ decides, and the grid is accepted (R383, R385, R414). -/
def State.launchStep (s : State) (qnum : Nat) (q : Queue) (x : Context) (p : Packet) : State :=
  if p.cmpl && decide (8192 ≤ p.mbx) then s.packetFault qnum q p.tag mbxRange 0 p.mbx
  else match s.ctxLoad q.ctx p.ptr 128 with
    | .error (c, a) => s.packetFault qnum q p.tag c.code 0 a
    | .ok v =>
      let r := LaunchRec.of v
      let k? := s.checkLaunch q.ctx r false false
      let s := s.noteReads q.ctx ((p.ptr, 128) :: s.kernelReads q.ctx r.kdesc)
      match k? with
      | none => s.packetFault qnum q p.tag Cause.launchRecord.code 0 p.ptr
      | some k =>
        let g := r.grid s q.ctx k qnum p.tag (.packet (if p.cmpl then some (p.mbx, p.val) else none)) (upto r.nwg) false
        match s.enqGrid ((s.lowestPlot x.part g.conf).getD 0) g (.packet qnum q.ctx q.qrd p.tag p.ptr) with
        | (s, none) => s.blockStep qnum .working
        | (s, some none) => s.packetFault qnum q p.tag Cause.policyRefused.code 0 p.ptr
        | (s, some (some prio)) => (s.acceptGrid g prio).1.endStep qnum

/-- Does the step of a LAUNCH wait for the engine that decides it, on which another call runs (R417)? -/
def State.launchWaits (s : State) (q : Queue) (x : Context) (p : Packet) : Bool :=
  match s.ctxLoad q.ctx p.ptr 128 with
  | .error _ => false
  | .ok v => s.engineWaits (s.lowestPlot x.part (LaunchRec.of v).plots)

/-- LAUNCH (R436). -/
def execLaunch (qnum : Nat) (s : State) : Result :=
  packetStep qnum .launch (fun s q x p => if s.launchWaits q x p then none else some (s.launchStep qnum q x p)) s

/-! ### Mailbox words -/

/-- The key of a mailbox word (R438). -/
def mboxKey (part word : Nat) : Nat := 8192 * part + word

/-- A mailbox word: full, and its value. -/
def State.mboxWord (s : State) (part word : Nat) : Bool × Nat := mgetD s.cmd.mbox (mboxKey part word) (false, 0)

def State.setMbox (s : State) (part word : Nat) (full : Bool) (v : Nat) : State :=
  { s with cmd := { s.cmd with mbox := mput (false, 0) s.cmd.mbox (mboxKey part word) (full, v % 2 ^ 64) } }

def MboxOp.consumes : MboxOp → Bool
  | .consume _ _ => true
  | _ => false

/-- The first operation of a kind that waits on a word, by its place among the waiters (R440). -/
def State.firstWaiter (s : State) (part word : Nat) (consumes : Bool) : Option (Nat × MboxWaiter) :=
  ((s.cmd.mboxQ.zipIdx).find? (fun e => e.1.part == part && e.1.word == word && e.1.op.consumes == consumes)).map (fun e => (e.2, e.1))

def State.dropWaiter (s : State) (n : Nat) : State := { s with cmd := { s.cmd with mboxQ := dropAt s.cmd.mboxQ n } }

/-- A consume (R439): the value is read, the word is empty, DEST is written, and the packet's step ends. -/
def State.consume (s : State) (part word qnum : Nat) (dest : Option (Space × Nat × Nat)) : State :=
  let v := (s.mboxWord part word).2
  let s := s.setMbox part word false v
  let s := match dest with
    | none => s
    | some (sp, pa, key) => ((if sp = Space.hbm then s.publishRange (some part) pa 8 else s).performWrite 0 sp key pa (leBytes 8 v)).meterHost (some part) sp 0 8
  s.endStep qnum

/-- The step of an MBOX_WAIT (R439). -/
def State.waitStep (s : State) (qnum : Nat) (q : Queue) (x : Context) (p : Packet) : State :=
  if 8192 ≤ p.mbx then s.packetFault qnum q p.tag mbxRange 0 p.mbx
  else
    let go := fun (dest : Option (Space × Nat × Nat)) =>
      if (s.mboxWord x.part p.mbx).1 && (s.firstWaiter x.part p.mbx true).isNone then s.consume x.part p.mbx qnum dest
      else (s.pushWaiter x.part p.mbx (.consume qnum dest)).blockStep qnum .mailbox
    if p.ptr = 0 then go none
    else match s.translateCtx q.ctx .store p.ptr with
      | .error c => s.packetFault qnum q p.tag c.code 0 p.ptr
      | .ok t => if t.space = .fabric then s.packetFault qnum q p.tag Cause.pagePerm.code 0 p.ptr else go (some (t.space, t.pa, t.key))

/-- MBOX_WAIT (R439). -/
def execMboxWait (qnum : Nat) (s : State) : Result := packetStep qnum .wait (fun s q x p => some (s.waitStep qnum q x p)) s

/-- The step of an MBOX_SIGNAL (R439). -/
def State.signalStep (s : State) (qnum : Nat) (q : Queue) (x : Context) (p : Packet) : State :=
  if 8192 ≤ p.mbx then s.packetFault qnum q p.tag mbxRange 0 p.mbx
  else if !(s.mboxWord x.part p.mbx).1 && (s.firstWaiter x.part p.mbx false).isNone then (s.setMbox x.part p.mbx true p.val).endStep qnum
  else (s.pushWaiter x.part p.mbx (.produce qnum p.val)).blockStep qnum .mailbox

/-- MBOX_SIGNAL (R439). -/
def execMboxSignal (qnum : Nat) (s : State) : Result := packetStep qnum .signal (fun s q x p => some (s.signalStep qnum q x p)) s

/-- MBOX_CONSUME (R440): the first consume that waits on a full word is served. -/
def execMboxConsume (part word : Nat) (s : State) : Result :=
  match s.firstWaiter part word true with
  | some (n, w) =>
    (match w.op with
      | .consume qnum dest => .next (if (s.mboxWord part word).1 then (s.dropWaiter n).consume part word qnum dest else s)
      | _ => .next s)
  | none => .next s

/-- MBOX_PRODUCE (R440): the first produce that waits on an empty word, one of a packet, fills it. -/
def execMboxProduce (part word : Nat) (s : State) : Result :=
  match s.firstWaiter part word false with
  | some (n, w) =>
    (match w.op with
      | .produce qnum v => .next (if (s.mboxWord part word).1 then s else ((s.dropWaiter n).setMbox part word true v).endStep qnum)
      | _ => .next s)
  | none => .next s

/-- BACKGROUND_PRODUCE (R439, R440): the n-th waiting operation, the completion produce of a grid, fills its word when it is the
first produce that waits on it and the word is empty. -/
def execBackgroundProduce (n : Nat) (s : State) : Result :=
  match s.cmd.mboxQ[n]? with
  | none => .next s
  | some w =>
    match w.op with
    | .background _ _ v =>
      .next (if (s.mboxWord w.part w.word).1 || (s.firstWaiter w.part w.word false).map Prod.fst != some n then s
        else (s.dropWaiter n).setMbox w.part w.word true v)
    | _ => .next s

/-! ### POLICY_LOAD -/

/-- The step of a POLICY_LOAD (R424, R425). -/
def State.policyStep (s : State) (qnum : Nat) (q : Queue) (x : Context) (p : Packet) : State :=
  match s.ctxLoad q.ctx p.ptr 16 with
  | .error (c, a) => s.packetFault qnum q p.tag c.code 0 a
  | .ok v =>
    let h := ImageHeader.of v
    let key := imageKey h.level (if h.level = 0 then q.ctx else x.part) h.point
    if h.level = 1 ∧ x.priv = false then
      (if h.point ≤ 5 then s.installImage key 1 [] qnum q.ctx else s).packetFault qnum q p.tag Cause.privOp.code 1 p.ptr
    else match s.ctxLoad q.ctx (p.ptr + 16) (if h.ok then 4 * h.len else 0) with
      | .error (c, a) => s.packetFault qnum q p.tag c.code 0 a
      | .ok body =>
        let s := s.noteReads q.ctx [(p.ptr, if h.ok then 16 + 4 * h.len else 16)]
        let words := (upto (if h.ok then h.len else 0)).map (fun i => bitsOf body (32 * i) 32)
        let code := verifyImage h words (s.engineRoom x.part key)
        let s := if h.point ≤ 5 then s.installImage key code words qnum q.ctx else s
        if code = 0 then s.endStep qnum else s.packetFault qnum q p.tag verifyCause code p.ptr

/-- POLICY_LOAD (R424, R425, R429; assumption 69). -/
def execPolicyLoad (qnum : Nat) (s : State) : Result := packetStep qnum .policy (fun s q x p => some (s.policyStep qnum q x p)) s

end Sys2Proof.Machine
end

