-- ==== Sys2Proof/Machine/Weights.lean ====
section
/-! DEFINITION. The weight-stream engine: versions and their visibility, bindings and handles, streams, queries, and the events
that land a stream and erase a version (14_weight_stream_engine.md R359 to R381). -/

namespace Sys2Proof.Machine

/-! ### Versions -/

/-- A stored version by name and number. -/
def State.version (s : State) (name ver : Nat) : Option StoredVersion :=
  s.weights.find? (fun x => x.v.name == name && x.v.ver == ver)

/-- The version of a name that a grid of some weight epoch sees (R363): of those published at or before it the one published last, which a
publish makes the current one whatever its number (R362, assumption 37). -/
def State.visible (s : State) (name epoch : Nat) : Option StoredVersion :=
  (s.weights.filter (fun x => x.v.name == name && (match x.published with
    | some e => decide (e ≤ epoch)
    | none => false))).foldl (fun best x => match best with
      | none => some x
      | some b => if b.published.getD 0 ≤ x.published.getD 0 then some x else some b) none

/-- May a context bind a version (R364, R365)? -/
def State.mayBind (s : State) (x : Context) (v : WeightVersion) : Bool :=
  let owner := hasBit v.owners x.part
  let shared := match mget? s.parts x.part with
    | some p => !x.prot && p.shkey != 0 && v.key == p.shkey
    | none => false
  (owner && v.key == x.key) || (shared && (v.hbm.isNone || owner))

/-- The slot of a binding table. -/
def State.binding (s : State) (ctx n : Nat) : Binding := mgetD s.binds (16 * ctx + n) { bound := none, gen := 0 }

def State.setBinding (s : State) (ctx n : Nat) (b : Binding) : State :=
  { s with binds := mput { bound := none, gen := 0 } s.binds (16 * ctx + n) b }

/-- The handle of a binding made (Table 14-2). -/
def handleWord (gen ver slot : Nat) : Nat := 2 ^ 31 + gen % 128 * 2 ^ 24 + ver % 2 ^ 16 * 2 ^ 8 + slot

/-- The version that a live handle names (R368), with its slot. -/
def State.liveHandle (s : State) (ctx h : Nat) : Option (StoredVersion × Nat) :=
  let n := h % 16
  let b := s.binding ctx n
  match b.bound with
  | some (name, ver) => if hasBit h 31 = true ∧ bitsOf h 24 7 = b.gen then (s.version name ver).map (fun v => (v, n)) else none
  | none => none

/-- Empty a binding slot: its generation rises (R367). -/
def State.unbind (s : State) (ctx n : Nat) : State :=
  let b := s.binding ctx n
  s.setBinding ctx n { bound := none, gen := (b.gen + 1) % 128 }

/-! ### WSBIND, WSQRY, WSREL -/

/-- The answer to WSBIND: the slot and version, or the refusal reason, first 1, then 2, 4, 3 (R370). -/
def State.bindAnswer (s : State) (c : Iss) (name : Nat) : Except Nat (Nat × WeightVersion) :=
  let epoch := match s.gridOf c.w with
    | some (_, g) => g.wepoch
    | none => 0
  match s.visible name epoch, s.ctxOf c.w with
  | none, _ => .error 1
  | some _, none => .error 2
  | some v, some x =>
    if !s.mayBind x v.v then .error 2
    else if v.v.hbm.isSome && !v.ready then .error 4
    else match firstBelow 16 (fun n => (s.binding c.w.ctx n).bound.isNone) with
      | some n => .ok (n, v.v)
      | none => .error 3

/-- WSBIND (R370). -/
def execWsbind (x a : Opnd) (s : State) : Result :=
  seqOps s false Iss.lowest [(a, 1)] (some (x, 1)) (fun c =>
    let name := match c.tids with
      | t :: _ => c.read t a 1
      | [] => 0
    if c.sharedWrite c.tids x 1 then s.takeTrap c .sharedWrite 0
    else
      let (s, h) : State × Nat := match s.bindAnswer c name with
        | .ok (n, v) =>
          let b := s.binding c.w.ctx n
          (s.setBinding c.w.ctx n { b with bound := some (v.name, v.ver) }, handleWord b.gen v.ver n)
        | .error r => (s.countAt c.core .wsrefuse 1, r * 16)
      (s.effsBy c (c.tids.flatMap (fun t => c.writeEffs t x 1 h))).finish c [])

/-- The code of a format (Table 13-3). -/
def fmtCode (e : Elem) : Nat := e.ctorIdx

/-- The HBM bytes of a range. -/
def State.rangeCells (s : State) (r : Nat × Nat) : List Host.Cell := s.hbm.filter (fun e => decide (r.1 ≤ e.1 ∧ e.1 < r.1 + r.2))

/-- Has a store changed the range of an HBM-resident version (R366)? -/
def State.rangeChanged (s : State) (v : StoredVersion) : Bool := match v.v.hbm with
  | some r => s.rangeCells r != v.image
  | none => false

/-- A word of a version as it is delivered: read under another key than it was stored under it is that key's decryption (R364, R461); of an
HBM-resident version whose range a store has changed, the i-th word is the old one or an open one (R366, assumption 82). -/
def State.deliver (s : State) (v : StoredVersion) (changed : Bool) (tidx key i : Nat) (w : Word) : Word :=
  let tok := s.keyToken v.v.key
  let w := if v.token = tok then w
    else bytesWord ((leBytes 4 w.toNat).zipIdx.map (fun b => Config.otherKeyByte v.token tok (2 ^ 64 * (tidx + 1) + 4 * key + b.2) (leBytes 4 w.toNat)))
  if !changed || hasBit (Config.freeByte (s.fresh + 8 * i)).toNat 0 then w else bytesWord (s.freeBytes (8 * i + 1) 4)

/-- The key of the stored word that holds a pair of band scales (R360). -/
def bandKey (n : Nat) : Nat := 2 ^ 53 + n

/-- A pair of band scales as it is stored, 0 beyond the last band (Table 14-8). -/
def tensorBands (t : Tensor) (n : Nat) : Nat :=
  let band := fun (i : Nat) => if i < (t.rows + 63) / 64 then (mgetD t.bands i 0).toNat % 2 ^ 16 else 0
  band (2 * n) + 2 ^ 16 * band (2 * n + 1)

/-- A pair of band scales as a query reads it: a part of the version, delivered like every stored word (R360, R364, R366). -/
def State.bandWord (s : State) (v : StoredVersion) (tidx : Nat) (t : Tensor) (n : Nat) : Nat :=
  let w := (s.deliver v (s.rangeChanged v) tidx (bandKey n) 0 (BitVec.ofNat 32 (tensorBands t n))).toNat
  (if 2 * n < (t.rows + 63) / 64 then w % 2 ^ 16 else 0) + (if 2 * n + 1 < (t.rows + 63) / 64 then w / 2 ^ 16 * 2 ^ 16 else 0)

/-- The answer to a query (R378, Table 14-8); `none` raises WEIGHT_SET. -/
def State.queryAnswer (s : State) (x : StoredVersion) (q : Nat) : Option Nat :=
  let v := x.v
  let n := bitsOf q 0 16
  match bitsOf q 16 4, v.tensors[bitsOf q 20 12]? with
  | 0, _ => some (v.ver % 2 ^ 32 + 2 ^ 32 * ((if v.hbm.isSome then 2 ^ 12 else 0) + (v.tensors.length - 1) % 2 ^ 12))
  | 1, some t => some (t.rows + 2 ^ 32 * t.k)
  | 2, some t => some (fmtCode t.fmt % 16 * 2 ^ 28 + t.spw % 32 * 2 ^ 23 + (if t.scl then 2 ^ 22 else 0))
  | 3, some t => if t.scl then some (s.bandWord x (bitsOf q 20 12) t n) else none
  | _, _ => none

/-- WSQRY (R378). -/
def execWsqry (x a b : Opnd) (s : State) : Result :=
  seqOps s false Iss.lowest [(a, 1), (b, 1)] (some (x, 2)) (fun c =>
    let rd := fun (o : Opnd) => match c.tids with
      | t :: _ => c.read t o 1
      | [] => 0
    match (s.liveHandle c.w.ctx (rd a)).bind (fun v => s.queryAnswer v.1 (rd b)) with
    | none => s.takeTrap c .weightSet 0
    | some v =>
      let s : State := if (s.liveHandle c.w.ctx (rd a)).any (fun v => s.rangeChanged v.1) then { s with fresh := s.fresh + 8 } else s
      if c.sharedWrite c.tids x 2 then s.takeTrap c .sharedWrite 0
      else (s.effsBy c (c.tids.flatMap (fun t => c.writeEffs t x 2 v))).finish c [])

/-- WSREL (R379): streams that have passed their verdict run on. -/
def execWsrel (a : Opnd) (s : State) : Result :=
  seqOps s false Iss.lowest [(a, 1)] none (fun c =>
    let h := match c.tids with
      | t :: _ => c.read t a 1
      | [] => 0
    match s.liveHandle c.w.ctx h with
    | none => s.takeTrap c .weightSet 0
    | some (_, n) => (s.unbind c.w.ctx n).finish c [])

/-! ### WSTRM -/

/-- Plane words of a delivered group (R373). -/
def streamWords (e : Elem) (q : Nat) : Nat := if e = .e2m1 then 1 + q else q

/-- Bytes of the scale range of one row (R373). -/
def streamScale (ng : Nat) : Nat := 4 * ((ng + 7) / 8 + ng)

/-- The verdict of WSTRM (R372): the stream with its offsets in the core's scratchpad, and its barrier number. -/
def State.streamVerdict (s : State) (c : Iss) (t tw h sw co : Nat) : Except Cause (StreamCmd × Option Nat) :=
  let tidx := bitsOf sw 20 12
  let q := bitsOf sw 15 5
  let row0 := bitsOf co 0 32
  let g0 := bitsOf co 32 32
  let ng := bitsOf co 80 8 + 1
  let nr := bitsOf co 64 8 + 1
  let scl := hasBit co 127
  let soff := bitsOf co 96 17
  let rsv := bitsOf sw 0 15 != 0 || bitsOf co 88 8 != 0 || bitsOf co 72 8 != 0 || bitsOf co 113 14 != 0
  let own := s.ownBytes c
  let off := twOff tw
  if bitsOf tw 17 10 ≠ 0 then .error .layoutRecord
  else match (s.liveHandle c.w.ctx h).bind (fun v => (v.1.v.tensors[tidx]?).map (fun x => (v.1.v, x))) with
    | none => .error .weightSet
    | some (v, x) =>
      let bytes := 4 * streamWords x.fmt q * nr * ng
      let sbytes := streamScale ng * nr
      if q = 0 ∨ x.spw < q ∨ rsv = true ∨ x.rows < row0 + nr ∨ x.k / 32 < g0 + ng ∨ (scl = true ∧ x.scl = false) then .error .weightSet
      else if off % 4 ≠ 0 ∨ (scl = true ∧ soff % 4 ≠ 0) then .error .align
      else if outOf own.2 off bytes || (scl && outOf own.2 soff sbytes) then .error .scratchRange
      else if scl && decide (off < soff + sbytes ∧ soff < off + bytes) then .error .weightSet
      else if s.badBar c (twBar tw) then .error .barrier
      else .ok ({ id := s.nextId, slot := c.slot, tid := t, wg := c.w.wg, name := v.name, ver := v.ver, tidx := tidx, q := q, row0 := row0,
                  g0 := g0, ng := ng, nr := nr, scl := scl, off := own.1 + off, soff := own.1 + soff, bar := none, batch := c.w.nextBatch,
                  guardPend := [], guardVal := true, pc := c.pc }, twBar tw)

/-- The issue of a WSTRM that has passed its verdict (R373). -/
def State.issueStream (s : State) (c : Iss) (t : Nat) (g : Bool) (q : StreamCmd) (bar : Option Nat) : State :=
  let ps := if g then s.pendingGuards c [t] else []
  let (s, kg) : State × Option (Nat × Nat) := match bar with
    | some k =>
      let r := s.countTransfer c.w.wg k (c.barWho t)
      (r.1, some (k, r.2))
    | none => (s, none)
  let q := { q with bar := kg, guardPend := ps, guardVal := !g || c.guard t }
  let s := (s.takeId.takeSlots c ps).opIssue c.core c.slot .copies
  (s.countAt c.core .wsxfer 1).modCore c.core (fun k => { k with streamQ := k.streamQ ++ [q] })

/-- WSTRM (R371 to R373). -/
def execWstrm (x a b : Opnd) (g : Bool) (s : State) : Result :=
  withIss s (fun c =>
    let ops := [(a, 2), (b, 4), (x, 1)]
    match c.tids with
    | [] => s.finish c []
    | t :: _ =>
      if c.hel.isSome then s.decodeTrap c .illegalOp
      else match c.opsCause [t] ops with
        | some e => s.decodeTrap c e
        | none =>
          let ps := if g then s.pendingGuards c [t] else []
          if c.pendingRead (s.pendingLocs c.core c.slot) [t] ops then s.stall
          else if c.badRead [t] ops then s.takeTrap c .eccUncorrectable 0
          else if decide (Config.queueDepth ≤ (s.core c.core).streamQ.length) || decide (CounterCls.copies.max ≤ c.w.copies) || c.slotsFull ps then s.stall
          else
            let va := c.read t a 2
            match s.streamVerdict c t (c.read t x 1) (va % 2 ^ 32) (va / 2 ^ 32) (c.read t b 4) with
            | .error e => s.takeTrap c e 0
            | .ok (q, bar) => (s.issueStream c t g q bar).finish c [])

/-! ### Landing -/

/-- Keys of a stored plane word, and of a granule of a row (R360). -/
def planeKey (row group plane : Nat) : Nat := (row * 2 ^ 15 + group) * 32 + plane
def granuleKey (row granule : Nat) : Nat := row * 2 ^ 17 + granule

/-- The plane words that a stream delivers: scratchpad word, and the key of the stored word (R373). -/
def StreamCmd.planeMoves (q : StreamCmd) (t : Tensor) : List (Nat × Nat) :=
  let p := streamWords t.fmt q.q
  (upto q.nr).flatMap (fun i => (upto q.ng).flatMap (fun g =>
    (upto p).map (fun j => (q.off / 4 + p * (i * q.ng + g) + j, planeKey (q.row0 + i) (q.g0 + g) j))))

/-- Does a stored granule of a row start a block (R341, R361)? -/
def startsBlock (t : Tensor) (row granule : Nat) : Bool := granule == 0 || mgetD t.bounds (granuleKey row granule) false

/-- Keys of the stored words of a scale record that hold the boundary bit and the scale byte of a granule (R360; assumption 81). -/
def bitmapKey (row granule : Nat) : Nat := 2 ^ 50 + row * 2 ^ 12 + granule / 32
def scaleKey (row granule : Nat) : Nat := 2 ^ 51 + row * 2 ^ 15 + granule / 4

/-- The row and the plane group of a stored word. -/
def keyPlace (key : Nat) : Nat × Nat :=
  if 2 ^ 51 ≤ key then ((key - 2 ^ 51) / 2 ^ 15, key % 2 ^ 15) else if 2 ^ 50 ≤ key then ((key - 2 ^ 50) / 2 ^ 12, key % 2 ^ 12 * 8)
  else (key / 2 ^ 20, key / 32 % 2 ^ 15)

/-- The scale words of one delivered row (R373), each with the keys of the stored words that it comes from. -/
def StreamCmd.scaleRow (q : StreamCmd) (t : Tensor) (row : Nat) : List (Nat × List Nat) :=
  let g1 := 4 * q.g0
  let gs := upto (4 * q.ng)
  let starts := gs.filter (fun h => h == 0 || startsBlock t row (g1 + h))
  let w := (q.ng + 7) / 8
  let bitmap := (upto w).map (fun i => (maskOf ((starts.filter (fun h => h / 32 == i)).map (· % 32)),
    ((gs.filter (fun h => h / 32 == i)).map (fun h => bitmapKey row (g1 + h))).dedup))
  let bytes := starts.map (fun h => (mgetD t.scales (granuleKey row (g1 + h)) 0).toNat)
  let at' := fun (b : Nat) => (bytes[b]?).getD 0
  bitmap ++ (upto q.ng).map (fun i => (at' (4 * i) + 2 ^ 8 * at' (4 * i + 1) + 2 ^ 16 * at' (4 * i + 2) + 2 ^ 24 * at' (4 * i + 3),
    (((starts.drop (4 * i)).take 4).map (fun h => scaleKey row (g1 + h))).dedup))

/-- The scale words that a stream delivers: scratchpad word, value, and the stored words that it comes from. -/
def StreamCmd.scaleMoves (q : StreamCmd) (t : Tensor) : List (Nat × Nat × List Nat) :=
  if q.scl then
    (upto q.nr).flatMap (fun i => ((q.scaleRow t (q.row0 + i)).zipIdx).map (fun e => ((q.soff + streamScale q.ng * i) / 4 + e.2, e.1)))
  else []

/-- The NOTICE for a stored word with an uncorrectable error (R376). -/
def State.streamNotice (s : State) (core : Nat) (q : StreamCmd) (key : Nat) : State :=
  let s := s.countAt core .wsecc 1
  match s.warp? core q.slot with
  | none => s
  | some w =>
    let r := s.warpRecord core q.slot w Cause.eccUncorrectable.code 0 q.pc.toNat ((keyPlace key).1 % 2 ^ 24 + (keyPlace key).2 % 2 ^ 15 * 2 ^ 24)
    s.post { r with kind := .notice, detail := q.tidx }

/-- A stream ends: its barrier, counter and batch (R31, R32, R373). -/
def State.streamDone (s : State) (core : Nat) (q : StreamCmd) : State :=
  let s := s.modCore core (fun k => { k with streamQ := k.streamQ.filter (fun x => x.id != q.id) })
  let s := match q.bar with
    | some kg => s.transferLanded q.wg kg false
    | none => s
  s.opDone core q.slot .copies q.batch

/-- May the n-th stream of a port land (R29, R375)? -/
def streamReady (qs : List StreamCmd) (n : Nat) (q : StreamCmd) : Bool :=
  decide (n < 4) && q.guardPend.isEmpty && (qs.take n).all (fun x => x.guardPend.isEmpty)

/-- The data of a stream are written (R373, R376, R381). -/
def State.streamWrite (s : State) (core : Nat) (q : StreamCmd) : State :=
  match s.version q.name q.ver with
  | none => s
  | some v =>
    match v.v.tensors[q.tidx]? with
    | none => s
    | some t =>
      let planes := q.planeMoves t
      let scales := q.scaleMoves t
      let isBad := fun (key : Nat) => v.bad.contains (q.tidx, key)
      let bad := planes.map Prod.snd ++ (scales.flatMap (fun e => e.2.2)).dedup
      let changed := s.rangeChanged v
      let words := planes.map (fun e => (e.1, e.2, isBad e.2, mgetD t.planes e.2 0)) ++
        scales.map (fun e => (e.1, e.2.2.headD (2 ^ 52), e.2.2.any isBad, BitVec.ofNat 32 e.2.1))
      let snap := s
      let s := s.modCore core (fun k => words.zipIdx.foldl (fun k e =>
        k.setWord e.1.1 (if e.1.2.2.1 then 0 else snap.deliver v changed q.tidx e.1.2.1 e.2 e.1.2.2.2)) k)
      let s : State := if changed then { s with fresh := s.fresh + 8 * words.length } else s
      let s := (bad.filter isBad).foldl (fun s e => s.streamNotice core q e) s
      s.meterAt core (if v.v.hbm.isSome then .hbmrd else .wsrd) (4 * (planes.length + scales.length))

/-- STREAM_LAND (R375): the n-th stream of a port writes its ranges and lands; a discarded one lands with no bytes. -/
def execStreamLand (core n : Nat) (s : State) : Result :=
  let qs := (s.core core).streamQ
  match qs[n]? with
  | none => .next s
  | some q =>
    if !streamReady qs n q then .next s
    else if !q.guardVal then .next ((s.countAt core .wsdisc 1).streamDone core q)
    else .next ((s.streamWrite core q).streamDone core q)

/-- May a version be erased (R363)? -/
def State.erasable (s : State) (v : StoredVersion) : Bool :=
  let later := match v.published with
    | some e => s.weights.any (fun x => x.v.name == v.v.name && (match x.published with
        | some f => decide (e < f)
        | none => false))
    | none => false
  later && !s.binds.any (fun b => b.2.bound == some (v.v.name, v.v.ver)) &&
    !s.cores.any (fun c => c.2.streamQ.any (fun q => q.name == v.v.name && q.ver == v.v.ver)) &&
    !s.grids.any (fun g => match s.visible v.v.name g.2.wepoch with
      | some x => x.v.ver == v.v.ver
      | none => false)

/-- VERSION_ERASE (R363): a superseded version that nothing refers to is erased. -/
def execVersionErase (name ver : Nat) (s : State) : Result :=
  match s.version name ver with
  | none => .next s
  | some v => .next (if s.erasable v then { s with weights := s.weights.filter (fun x => !(x.v.name == name && x.v.ver == ver)) } else s)

end Sys2Proof.Machine
end

