-- ==== Sys2Proof/Machine/PartConfig.lean ====
section
/-! DEFINITION. PART_CFG: layouts, memory limits, contexts, the fabric and window tables, weight programming, checkpoints and the
domain table, one meaning for each function, with the clear sequence and the switch of the slot maps that a layout waits for
(17_command_processors.md R431, R432, R448 to R453, 01_machine.md R24, 15_launch_engine.md R397). -/

namespace Sys2Proof.Machine

/-- Run the step of a PART_CFG function over its argument block of n bytes (R448). -/
def State.withArg (s : State) (qnum : Nat) (q : Queue) (p : Packet) (n : Nat) (k : State → Nat → State) : State :=
  match s.ctxLoad q.ctx p.ptr n with
  | .error (c, a) => s.packetFault qnum q p.tag c.code 0 a
  | .ok v => k (s.noteReads q.ctx [(p.ptr, n)]) v

/-- The step ends in a packet fault that names the argument block. -/
def State.cfgFault (s : State) (qnum : Nat) (q : Queue) (p : Packet) (cause : Nat) : State := s.packetFault qnum q p.tag cause 0 p.ptr

/-- Does any core of a plot have a fenced sub-array (R345)? -/
def State.plotFenced (s : State) (plot : Nat) : Bool := (s.plotCores plot).any (fun k => k.fence % 16 != 0)

/-! ### LAYOUT -/

/-- What a LAYOUT block asks for (R449). -/
structure LayoutBlock where
  plots : Nat
  granules : Nat
  maps : List Nat
  ok : Bool
  deriving DecidableEq, Repr

def LayoutBlock.of (v : Nat) : LayoutBlock :=
  let byte := fun (m i : Nat) => bitsOf v (1536 + 2048 * m + 8 * i) 8
  { plots := bitsOf v 0 8, granules := bitsOf v 512 1024, maps := (upto 4).map (fun m => maskOf ((upto 256).filter (fun i => byte m i == 1))),
    ok := bitsOf v 8 504 == 0 && (upto 4).all (fun m => byte m 0 == 0 && (upto 256).all (fun i => decide (byte m i ≤ 1))) }

/-- Plots, granules and slot maps that other partitions hold or are being given. -/
def State.heldElsewhere (s : State) (part : Nat) : Nat × Nat × List Nat :=
  let ps := s.parts.filter (fun e => e.1 != part)
  let ls := s.cmd.layouts.filter (fun l => l.part != part)
  let slot := fun (m : Nat) (l : List Nat) => (l[m]?).getD 0
  (ls.foldl (fun n l => n ||| l.plots) (ps.foldl (fun n e => n ||| e.2.plots) 0), ls.foldl (fun n l => n ||| l.granules ||| l.gone) (ps.foldl (fun n e => n ||| e.2.granules) 0),
    (upto 4).map (fun m => ls.foldl (fun n l => n ||| slot m l.slotMaps) (ps.foldl (fun n e => n ||| slot m e.2.slotMaps) 0)))

/-- The conflicts of R449, and a removal that would keep too many sealed reports (R477); removals under way will keep theirs. -/
def State.layoutConflicts (s : State) (part : Nat) (b : LayoutBlock) : Bool :=
  let (plots, granules, maps) := s.heldElsewhere part
  let fullht := match mget? s.parts part with
    | some p => p.fullht
    | none => false
  (b.plots &&& plots) != 0 || (b.granules &&& granules) != 0 || (b.maps.zip maps).any (fun e => (e.1 &&& e.2) != 0) ||
    (b.plots == 0 && (s.ctxs.any (fun x => x.2.part == part) ||
      ((mget? s.parts part).isSome && decide (64 ≤ s.sec.sealed.length + (s.cmd.layouts.filter (fun l => l.plots == 0)).length)))) ||
    (fullht && (bitsList 8 b.plots).any s.plotFenced)

/-- A partition as it is created (R20, R438, R449, R466, R474, Tables 10-6 and 19-2): it holds nothing yet. -/
def Partition.created (pinst : Nat) : Partition :=
  { plots := 0, granules := 0, shkey := 0, plimmax := 0, fullht := false, pmemmax := 0, fuseok := false, carvok := 2, slotMaps := [0, 0, 0, 0], lgen := 1,
    pinst := pinst, chain := [], chainNo := 0, derates := [] }

/-- Create a partition (R420, R438, R449, R474): its words are empty, its scratch and its meters are zero. -/
def State.createPart (s : State) (part : Nat) : State :=
  { s with parts := mset s.parts part (Partition.created s.sec.pinst), sec := { s.sec with pinst := (s.sec.pinst + 1) % 2 ^ 64 }, pwr := { s.pwr with prates := mset s.pwr.prates part 2 },
           meters := s.meters.filter (fun e => e.1 / 64 != part), groups := s.groups.filter (fun e => e.1 / 64 != part),
           cmd := { s.cmd with mbox := s.cmd.mbox.filter (fun e => e.1 / 8192 != part), scratch := s.cmd.scratch.filter (fun e => e.1 / 256 != part) } }

/-- Ask the resident work of leaving plots to stop (R430, R450). -/
def State.askLeaving (s : State) (plots : Nat) : State :=
  (bitsList 8 plots).foldl (fun (s : State) p => (s.residents p).foldl (fun (s : State) e => s.askPreempt e.1 .layout) s) s

/-- Choices of leaving plots that a register of MIGR has named for saved workgroups (R416, R430). -/
def State.lostChoices (s : State) (plots : Nat) : Nat :=
  (s.wgs.filter (fun e => match e.2.saved with
    | some sv => sv.migrNamed && sv.migr.any (hasBit plots)
    | none => false)).length

/-- Saved workgroups whose plot leaves are to be migrated (R412, R430); a choice of a leaving plot is discarded, which PINVAL counts where a
register named it (R416). -/
def State.migrateSaved (s : State) (part plots : Nat) : State :=
  let n := s.lostChoices plots
  let s := if n = 0 then s else s.count part .pinval n
  { s with wgs := s.wgs.map (fun e => (e.1, { e.2 with saved := e.2.saved.map (fun sv =>
      let home := sv.migr.getD (plotOf sv.core)
      if hasBit plots home then { sv with wantMigr := true, migr := none } else sv) })) }

/-- The step of a LAYOUT begins (R450). -/
def State.layoutBegin (s : State) (qnum part : Nat) (b : LayoutBlock) : State :=
  let creates := (mget? s.parts part).isNone
  let s := if creates then s.createPart part else s
  let old := match mget? s.parts part with
    | some p => p.plots
    | none => 0
  let leaving := old - (old &&& b.plots)
  let joining := b.plots - (old &&& b.plots)
  let s := (bitsList 8 leaving).foldl (fun (s : State) p => s.modPlot p (fun x => { x with leaving := true })) s
  let s := (s.askLeaving leaving).migrateSaved part leaving
  let l : LayoutStep :=
    { qnum := qnum, part := part, plots := b.plots, granules := b.granules, slotMaps := b.maps, leaving := leaving, joining := joining, gone := 0, maps := false, creates := creates }
  { s.blockStep qnum .working with cmd := { (s.blockStep qnum .working).cmd with layouts := s.cmd.layouts ++ [l] } }

/-- Is an update staged and not yet activated (R456)?  One whose QUIESCE has failed has been activated. -/
def Update.waits (u : Update) : Bool := u.state == .boot || (u.state == .ready && u.tries == 0)

/-- Does a LAYOUT for a partition wait: for another LAYOUT or CHKPT of it, or for a staged update (R450, R453, R456)? -/
def State.layoutWaits (s : State) (part : Nat) : Bool :=
  s.cmd.layouts.any (fun l => l.part == part) || s.chkptHolds part || (match s.cmd.update with
    | some u => u.waits
    | none => false)

/-- The start of a LAYOUT packet. -/
def State.layoutStart (s : State) (qnum : Nat) (q : Queue) (p : Packet) : Option State :=
  if 8 ≤ p.idx then some (s.cfgFault qnum q p pktFormat)
  else if s.layoutWaits p.idx then none
  else some (s.withArg qnum q p 1216 (fun s v =>
    let b := LayoutBlock.of v
    if !b.ok then s.cfgFault qnum q p pktFormat
    else if s.layoutConflicts p.idx b then s.cfgFault qnum q p layoutConflict
    else if b.plots = 0 ∧ (mget? s.parts p.idx).isNone then s.endStep qnum
    else s.layoutBegin qnum p.idx b))

/-- Is an access to HBM in one of some granules? -/
def Access.inGranules (gs : Nat) (a : Access) : Bool := a.space == .hbm && hasBit gs (a.addr / 2 ^ 30)

/-- Does a copy write to one of some granules? -/
def CopyCmd.inGranules (gs : Nat) (q : CopyCmd) : Bool := match q.work with
  | .box moves => moves.any (fun m => match m.dst with
    | .mem .hbm _ pa => hasBit gs (pa / 2 ^ 30)
    | _ => false)
  | _ => false

/-- Has a core accesses to some granules that have passed their translation and are not yet performed? -/
def Core.usesGranules (gs : Nat) (k : Core) : Bool :=
  k.memQ.any (fun m => m.accs.any (Access.inGranules gs) || (match m.kind with
    | .copier qs => qs.any (CopyCmd.inGranules gs)
    | _ => false)) || k.loadsPending.any (fun l => l.accs.any (Access.inGranules gs)) ||
  k.storesPending.any (fun p => match p.work with
    | .ack => false
    | .release accs _ => accs.any (Access.inGranules gs)
    | .red _ accs => accs.any (Access.inGranules gs)) || k.copyQ.any (CopyCmd.inGranules gs)

/-- Does an entry of a core's buffer lie in one of some granules? -/
def State.holdsGranules (s : State) (gs core : Nat) : Bool := (s.unacked core).any (fun e => e.space == .hbm && hasBit gs (e.line / 2 ^ 23))

/-- Private lines of a core that lie in some granules leave its L1, the dirty ones written back (R257). -/
def State.leaveGranules (s : State) (gs core : Nat) : State :=
  let mine := fun (l : L1Line) => l.owner.isSome && hasBit gs (l.line / 2 ^ 23)
  let s := ((s.core core).l1.filter mine).foldl (fun (s : State) l => s.writeBack core (match l.owner with
    | some o => s.wgOfSlot core o
    | none => 0) l) s
  s.modCore core (fun k => { k with l1 := k.l1.filter (fun l => !mine l) })

/-- What the buffers and the private lines of the cores hold for some granules goes out, and is performed where nothing keeps it back. -/
def State.flushGranules (s : State) (gs : Nat) : State :=
  (mkeys s.cores).foldl (fun (s : State) c =>
    let s := s.leaveGranules gs c
    if s.holdsGranules gs c then
      let s := s.drainAll c
      s.performDrains c (s.core c).drains.length
    else s) s

/-- A LAYOUT in its step goes on (R450): work that is still resident on leaving plots is asked again; once every plot has left or
joined, granules leave, and are zeroed when no access to them is on its way; then the slot maps wait for their period.  A partition that
is removed keeps none. -/
def State.layoutGoOn (s : State) (l : LayoutStep) : State :=
  if l.leaving ≠ 0 then s.askLeaving l.leaving
  else if l.joining ≠ 0 ∨ l.maps = true then s
  else
    let old := match mget? s.parts l.part with
      | some p => p.granules
      | none => 0
    let new := if l.plots = 0 then 0 else l.granules
    let gone := (old - (old &&& new)) ||| l.gone
    let mine := fun (s : State) (f : LayoutStep → LayoutStep) =>
      ({ s with cmd := { s.cmd with layouts := s.cmd.layouts.map (fun x => if x.qnum = l.qnum then f x else x) } } : State)
    let s := (s.modPart l.part (fun p => { p with granules := old &&& new })).flushGranules gone
    if s.cores.any (fun k => k.2.usesGranules gone || s.holdsGranules gone k.1) then mine s (fun x => { x with gone := gone })
    else
      let s := (bitsList 1024 gone).foldl (fun (s : State) g => s.zeroGranule g) (s.modPart l.part (fun p => { p with granules := new }))
      mine s (fun x => { x with gone := 0, maps := true })

/-- LAYOUT (R449, R450): the packet starts, or its step goes on. -/
def execLayout (qnum : Nat) (s : State) : Result :=
  match s.cmd.layouts.find? (fun l => l.qnum == qnum) with
  | some l => .next (s.layoutGoOn l)
  | none => packetStep qnum (.cfg 0) (fun s q _ p => s.layoutStart qnum q p) s

/-- Does work wait that a plot's class keeps out (R24)? -/
def State.classWaits (s : State) (plot : Nat) : Bool :=
  let p := s.plot plot
  p.cls != .clean && s.grids.any (fun e => (!e.2.waiting.isEmpty || s.wgs.any (fun w => w.2.grid == e.1 && w.2.saved.isSome)) && hasBit e.2.conf plot && (match mget? s.ctxs e.2.ctx with
    | some x => !p.admits (classOf e.2.ctx x) && (match mget? s.parts x.part with
      | some q => hasBit q.plots plot
      | none => false)
    | none => false))

/-- CLEAR_SEQUENCE (R24, R186, R450, R463): a plot on which nothing is resident is cleared, where SCLR has marked it, a layout change
takes it or gives it, or work of another class waits for it. -/
def execClearSequence (plot : Nat) (s : State) : Result :=
  if 8 ≤ plot ∨ !(s.residents plot).isEmpty ∨ (s.plotCores plot).any (fun k => !k.allocs.isEmpty) then .next s
  else
    let upd := fun (s : State) (f : LayoutStep → LayoutStep) => ({ s with cmd := { s.cmd with layouts := s.cmd.layouts.map f } } : State)
    match s.cmd.layouts.find? (fun l => hasBit l.leaving plot), s.cmd.layouts.find? (fun l => hasBit l.joining plot) with
    | some l, _ =>
      let s := (s.clearPlot plot).modPlot plot (fun p => { p with leaving := false })
      let s := s.modPart l.part (fun p => { p with plots := p.plots - 2 ^ plot })
      .next (upd s (fun x => if x.part = l.part then { x with leaving := x.leaving - 2 ^ plot } else x))
    | none, some l =>
      let now := s.elapsed
      let s := ((s.clearPlot plot).modPlot plot (fun p => { p with ticks := now / 10000, picks := [] })).modPart l.part (fun p => { p with plots := p.plots + 2 ^ plot })
      .next (upd s (fun x => if x.part = l.part then { x with joining := x.joining - 2 ^ plot } else x))
    | none, none => .next (if (s.plot plot).sclr || s.classWaits plot then s.clearPlot plot else s)

/-- Does a partition own an HBM slot? -/
def State.ownsHbm (s : State) (part : Nat) : Bool := match mget? s.parts part with
  | some p => p.ownsHbm
  | none => false

/-- The last two points of a LAYOUT (R450, R466, R476, R477, R490): the slot maps change, the layout generation of a partition that was there
before rises and the chain takes its entry, with a tick of this time; a partition that has become empty is sealed and removed, and its derate
intervals end.  Intervals that are open stay open under any other change. -/
def State.layoutEnd (s : State) (l : LayoutStep) : State :=
  let s := s.chainTick
  let before := s.ownsHbm l.part
  let s := s.modPart l.part (fun p => { p with slotMaps := l.slotMaps })
  let after := s.ownsHbm l.part
  let all := upto 16
  let s := if l.plots = 0 then all.foldl (fun (s : State) k => s.closeDerate k l.part) s
    else if after && !before then all.foldl (fun (s : State) k => s.openDerate k l.part) s else s
  let s := (if l.creates then s else s.modPart l.part (fun p => { p with lgen := (p.lgen + 1) % 2 ^ 32 })).chainAppend l.part chainLayoutFlag
  let s : State := { s with cmd := { s.cmd with layouts := s.cmd.layouts.filter (fun x => x.part != l.part) } }
  if l.plots ≠ 0 then s.endStep l.qnum
  else
    let s := s.chainAppend l.part chainSealFlag
    let sealed := match mget? s.parts l.part with
      | some p => (match p.chain with
        | e :: _ => [(l.part, e)]
        | [] => [])
      | none => []
    ({ s with parts := mdel s.parts l.part, sec := { s.sec with sealed := s.sec.sealed ++ sealed },
              pol := { s.pol with images := s.pol.images.filter (fun e => e.1 / 8 != 1024 + l.part) } }).endStep l.qnum

/-- SLOT_MAP_SWITCH (R450): at the start of a calendar period the new slot maps take effect on every calendar. -/
def execSlotMapSwitch (s : State) : Result :=
  .next ((s.cmd.layouts.filter (fun l => l.maps)).foldl (fun (s : State) l => s.layoutEnd l) s)

/-! ### MEPLIM -/

/-- MEPLIM (R266, Table 10-6). -/
def execMeplim (qnum : Nat) (s : State) : Result :=
  packetStep qnum (.cfg 1) (fun s q _ p => some (s.withArg qnum q p 8 (fun s v =>
    match mget? s.parts p.idx with
    | none => s.cfgFault qnum q p pktFormat
    | some old =>
      let full := hasBit v 11
      if bitsOf v 42 22 ≠ 0 ∨ bitsOf v 28 4 ≠ 0 ∨ bitsOf v 12 4 ≠ 0 ∨ bitsOf v 5 3 ≠ 0 then s.cfgFault qnum q p pktFormat
      else if full && !old.fullht && (bitsList 8 old.plots).any s.plotFenced then s.cfgFault qnum q p layoutConflict
      else (s.modPart p.idx (fun x => { x with shkey := bitsOf v 32 10, plimmax := bitsOf v 16 12, fullht := full, pmemmax := bitsOf v 9 2,
                                                fuseok := hasBit v 8, carvok := bitsOf v 0 5 })).endStep qnum))) s

/-! ### Contexts -/

/-- A queue descriptor (Table 17-2). -/
structure QueueDesc where
  eqbase : Nat
  rbase : Nat
  rlog : Nat
  eqlog : Nat
  qnum : Nat
  v : Bool
  /-- Reserved fields zero and, in a descriptor in use, every field in its range. -/
  ok : Bool
  deriving DecidableEq, Repr

def QueueDesc.of (v : Nat) : QueueDesc :=
  let rlog := bitsOf v 27 5
  let eqlog := bitsOf v 22 5
  { eqbase := bitsOf v 192 64, rbase := bitsOf v 128 64, rlog := rlog, eqlog := eqlog, qnum := bitsOf v 12 10, v := hasBit v 0,
    ok := bitsOf v 32 96 == 0 && bitsOf v 1 11 == 0 && (!hasBit v 0 || (decide (4 ≤ rlog ∧ rlog ≤ 16 ∧ 4 ≤ eqlog ∧ eqlog ≤ 16) &&
      bitsOf v 128 64 % 2 ^ (rlog + 6) == 0 && bitsOf v 192 64 % 2 ^ (eqlog + 6) == 0)) }

/-- The partition that a session is bound to, while that instance exists (R464, R474). -/
def State.sessionPart (s : State) (x : Session) : Option Partition := (mget? s.parts x.part).filter (fun p => p.pinst == x.pinst)

/-- Has a PEND slot 60 s behind it, or has its session ended (Table 18-1)? -/
def State.pendOver (s : State) (k : KeySlot) : Bool :=
  decide (k.since + 60000000000 ≤ s.elapsed) || (match mget? s.sec.sessions k.sess with
    | some x => (s.sessionPart x).isNone
    | none => true)

/-- The key rule of a new context (R460, R469). -/
def State.keyFits (s : State) (part key : Nat) (prot : Bool) : Bool :=
  let k := s.keySlot key
  key != 0 && k.part == part && (if prot then k.state == .pend && !s.pendOver k && !s.sec.debug else k.state == .ord)

/-- The first check of R432 that a context block fails. -/
def State.blockCause (s : State) (x : Context) (v : Nat) (qs : List QueueDesc) : Option Nat :=
  let part := bitsOf v 385 3
  let used := (qs.filter (fun d => d.v)).map (fun d => d.qnum)
  if bitsOf v 0 280 ≠ 0 ∨ bitsOf v 448 2 ≠ 0 ∨ !qs.all (fun d => d.ok) then some pktFormat
  else if bitsOf v 304 12 ≠ 0 then some pktFormat
  else if (mget? s.ctxs (bitsOf v 388 10)).isSome ∨ used.any (fun n => (mget? s.cmd.queues n).isSome) ∨ !decide (used.Nodup) then some contextRecord
  else match mget? s.parts part with
    | none => some contextRecord
    | some p =>
      if part ≠ x.part ∧ x.priv = false then some contextRecord
      else if p.plimmax < bitsOf v 371 12 ∨ !hasBit p.carvok (bitsOf v 368 3) ∨ 5 ≤ bitsOf v 368 3 then some contextRecord
      else if !inGranules p (bitsOf v 408 40 * 4096) then some contextRecord
      else if !s.keyFits part (bitsOf v 398 10) (hasBit v 383) then some contextRecord
      else if hasBit v 384 && !x.priv then some contextRecord
      else none

/-- A context as its record creates it (R431). -/
def contextOf (v : Nat) : Context :=
  { part := bitsOf v 385 3, priv := hasBit v 384, prot := hasBit v 383, key := bitsOf v 398 10, root := bitsOf v 408 40 * 4096,
    trapbase := BitVec.ofNat 64 (bitsOf v 448 64), plim := 16 * bitsOf v 371 12, carve := bitsOf v 368 3, saveBase := bitsOf v 304 64, savePages := bitsOf v 280 24,
    saveCtr := 0, lease := none, leaseRefused := false, mbxIdx := 0, psIdx := 0, psSel := 0, tlbPend := [] }

/-- A queue as its descriptor creates it. -/
def QueueDesc.queue (d : QueueDesc) (ctx idx : Nat) : Queue :=
  { ctx := ctx, idx := idx, eqbase := d.eqbase, rbase := d.rbase, rlog := d.rlog, eqlog := d.eqlog, qdb := 0, qrd := 0, eqrd := 0, eqwr := 0, eqlost := 0,
    halted := false, pending := none, ringFault := false, packet := none, block := none }

/-- Create a context and its queues (R431, R459). -/
def State.createCtx (s : State) (v : Nat) (qs : List QueueDesc) : State :=
  let ctx := bitsOf v 388 10
  let x := contextOf v
  let s := if x.prot then s.setKey x.key { s.keySlot x.key with state := .prot } else s
  { s with ctxs := mset s.ctxs ctx x,
           cmd := { s.cmd with queues := (qs.zipIdx).foldl (fun m e => if e.1.v then mset m e.1.qnum (e.1.queue ctx e.2) else m) s.cmd.queues } }

/-- CTX_CREATE (R431, R432). -/
def execCtxCreate (qnum : Nat) (s : State) : Result :=
  packetStep qnum (.cfg 2) (fun s q x p => some (s.withArg qnum q p 576 (fun s v =>
    let qs := (upto 16).map (fun i => QueueDesc.of (bitsOf v (512 + 256 * i) 256))
    match s.blockCause x v qs with
    | some c => s.cfgFault qnum q p c
    | none => (s.createCtx v qs).endStep qnum))) s

/-- Stop and discard a context's workgroups and grids (R448): each grid counts them as ended. -/
def State.discardCtxWork (s : State) (ctx : Nat) : State :=
  (s.grids.filter (fun e => e.2.ctx == ctx)).foldl (fun (s : State) e =>
    if e.2.heldPart then s.dropGrid e.1
    else
      let s := s.modGrid e.1 (fun g => { g with waiting := [], left := (s.wgs.filter (fun w => w.2.grid == e.1)).length })
      let s := (s.wgs.filter (fun w => w.2.grid == e.1)).foldl (fun (s : State) w => s.discardWg w.1) s
      match mget? s.grids e.1 with
      | some g => s.completeGrid e.1 g
      | none => s) s

/-- No context's number: the loader of a traverse, once its context is gone (R428, R443). -/
def noCtx : Nat := 1024

/-- Free what a context holds (R367, R448, R459, R488). -/
def State.freeCtx (s : State) (ctx : Nat) (x : Context) : State :=
  let s := s.returnLease ctx
  let mine := (s.cmd.queues.filter (fun e => e.2.ctx == ctx)).map Prod.fst
  let s := (upto 16).foldl (fun (s : State) n => if (s.binding ctx n).bound.isSome then s.unbind ctx n else s) s
  let s := if x.prot then s.setKey x.key { s.keySlot x.key with state := .zero } else s
  { s with plots := s.plots.map (fun p => (p.1, { p.2 with
             cls := if p.2.cls = .prot ctx then .removed else p.2.cls, memCtx := p.2.memCtx.filter (· != ctx) })),
           ctxs := mdel s.ctxs ctx, recSeq := mdel s.recSeq ctx, recQ := s.recQ.filter (fun r => r.ctx != ctx), recOpen := s.recOpen.filter (fun r => r.ctx != ctx),
           cores := s.cores.map (fun c => (c.1, { c.2 with tlb := c.2.tlb.filter (fun t => t.ctx != ctx) })),
           pol := { s.pol with images := (s.pol.images.filter (fun e => e.1 / 8 != ctx)).map (fun e => (e.1, if e.2.ctx = ctx then { e.2 with ctx := noCtx } else e.2)),
                               enqs := s.pol.enqs.filter (fun e => e.2.ctx != ctx) },
           cmd := { s.cmd with
             queues := s.cmd.queues.filter (fun e => e.2.ctx != ctx), layouts := s.cmd.layouts.filter (fun l => !mine.contains l.qnum),
             chkpts := s.cmd.chkpts.filter (fun l => !mine.contains l.qnum),
             mboxQ := s.cmd.mboxQ.filter (fun w => match w.op with
               | .background _ c _ => c != ctx
               | .consume n _ => !mine.contains n
               | .produce n _ => !mine.contains n) } }

/-- Destroy a context (R448): its records are answered with abort, its work is discarded, and it is freed. -/
def State.destroyCtx (s : State) (ctx : Nat) (x : Context) : State := (s.discardCtxWork ctx).freeCtx ctx x

/-- CTX_DESTROY (R448): its IDX must name a context, of the submitter's partition unless that is privileged. -/
def execCtxDestroy (qnum : Nat) (s : State) : Result :=
  packetStep qnum (.cfg 3) (fun s q x p => some (match mget? s.ctxs p.idx with
    | none => s.cfgFault qnum q p contextRecord
    | some y => if y.part ≠ x.part ∧ x.priv = false then s.cfgFault qnum q p contextRecord else (s.destroyCtx p.idx y).endStep qnum)) s

/-! ### The fabric's tables -/

/-- FLTAB (R399, Table 15-6).  How many tokens the bucket of a new entry holds is free. -/
def execFltab (qnum : Nat) (s : State) : Result :=
  packetStep qnum (.cfg 4) (fun s q _ p =>
    some (if 64 ≤ p.idx then s.cfgFault qnum q p pktFormat
      else s.withArg qnum q p 32 (fun s v =>
        if bitsOf v 112 6 ≠ 0 ∨ bitsOf v 1 78 ≠ 0 then s.cfgFault qnum q p pktFormat
        else
          let rate := bitsOf v 96 16
          let e : FlEntry :=
            { v := hasBit v 0, srcPart := bitsOf v 79 3, srcDev := bitsOf v 82 4, tgtq := bitsOf v 86 10, rate := rate, key := bitsOf v 118 10, kdlo := bitsOf v 128 64,
              kdhi := bitsOf v 192 64, tokens := leNat [Config.freeByte s.fresh, Config.freeByte (s.fresh + 1)] % (rate + 1) }
          ({ s with fresh := s.fresh + 2, fab := { s.fab with fltab := mset s.fab.fltab p.idx e } }).endStep qnum))) s

/-- WINTAB (R451).  The window page is bits [35:0] as they stand, V among them (assumption 29). -/
def execWintab (qnum : Nat) (s : State) : Result :=
  packetStep qnum (.cfg 5) (fun s q _ p =>
    some (if 4096 ≤ p.idx then s.cfgFault qnum q p pktFormat
      else s.withArg qnum q p 16 (fun s v =>
        if bitsOf v 36 28 ≠ 0 ∨ hasBit v 99 = true ∨ hasBit v 103 = true ∨ bitsOf v 116 12 ≠ 0 then s.cfgFault qnum q p pktFormat
        else
          let e : WinEntry :=
            { v := hasBit v 0, page := bitsOf v 0 36, pa := bitsOf v 64 35, part := bitsOf v 100 3, key := bitsOf v 104 10, r := hasBit v 114, w := hasBit v 115 }
          ({ s with fab := { s.fab with wintab := mset s.fab.wintab p.idx e } }).endStep qnum))) s

/-- A new domain table (R397): the streams to devices that it no longer names fail. -/
def State.setDomain (s : State) (dev : Nat) (table : NatMap (Nat × Nat)) : State :=
  let gone := (mkeys s.fab.domain).filter (fun d => (mget? table d).isNone)
  let s : State := { s with fab := { s.fab with dev := dev, domain := table } }
  if gone.isEmpty then s
  else ((gone.flatMap (fun d => (upto 8).map (fun p => (d, p)))).foldl
    (fun (s : State) k => if (mget? s.fab.streams (streamKey k.1 k.2)).isSome then s.failStream k.1 k.2 else s) s).sendFab

/-- DOMAIN (R397). -/
def execDomain (qnum : Nat) (s : State) : Result :=
  packetStep qnum (.cfg 9) (fun s q _ p =>
    some (s.withArg qnum q p 136 (fun s v =>
      if bitsOf v 4 60 ≠ 0 then s.cfgFault qnum q p pktFormat
      else
        let es := (upto 16).map (fun d => (d, bitsOf v (64 + 64 * d) 48, bitsOf v (112 + 64 * d) 16))
        (s.setDomain (bitsOf v 0 4) (es.filter (fun e => e.2.2 != 0))).endStep qnum))) s

/-! ### Weight versions -/

/-- Is a stored bitmap in order (R361): no block of more than 16 granules? -/
def boundsOk (t : Tensor) (row : Nat) : Nat → Nat → Nat → Bool
  | 0, _, _ => true
  | n + 1, g, run =>
    let run := if startsBlock t row g then 1 else run + 1
    decide (run ≤ 16) && boundsOk t row n (g + 1) run

/-- Is a band scale valid (R98): a positive normal BF16 number? -/
def bandOk (b : BitVec 16) : Bool := !hasBit b.toNat 15 && decide (1 ≤ bitsOf b.toNat 7 8 ∧ bitsOf b.toNat 7 8 ≤ 254)

/-- Is a tensor as Table 14-1, R361 and R98 ask?  Rows are checked where they list a boundary, and one that lists none. -/
def tensorOk (t : Tensor) : Bool :=
  let c := fmtCode t.fmt
  let most := if c = 4 ∨ t.fmt = .e2m1 then 4 else matBits t.fmt
  let listed := ((t.bounds.map (fun e => e.1 / 2 ^ 17)).filter (fun r => decide (r < t.rows))).dedup
  decide (4 ≤ c ∧ c ≤ 10 ∧ 1 ≤ t.spw ∧ t.spw ≤ most ∧ 1 ≤ t.rows ∧ t.rows ≤ 2 ^ 24 ∧ 32 ≤ t.k ∧ t.k ≤ 2 ^ 20 ∧ t.k % 32 = 0) &&
    (!t.scl || ((upto ((t.rows + 63) / 64)).all (fun i => bandOk (mgetD t.bands i 0)) &&
      ((0 :: listed).all (fun r => boundsOk t r (t.k / 8) 0 0) && (decide (t.k / 8 ≤ 16) || decide (t.rows ≤ listed.length)))))

/-- Bytes that a tensor takes in the store: its plane words, and its scale records. -/
def tensorSize (t : Tensor) : Nat := t.rows * (t.k / 32) * (4 * streamWords t.fmt t.spw + (if t.scl then 5 else 0))

def versionSize (v : WeightVersion) : Nat := v.tensors.foldl (fun n t => n + tensorSize t) 0

/-- The bytes of the weight store (Table 1-1). -/
def storeBytes : Nat := 2 ^ 42

/-- Does the residence of a version hold (R359, R365): room in the store, or an HBM range of its one owner? -/
def State.residenceOk (s : State) (v : WeightVersion) : Bool :=
  match v.hbm with
  | none => decide (versionSize v + (s.weights.filter (fun w => w.v.hbm.isNone)).foldl (fun n w => n + versionSize w.v) 0 ≤ storeBytes)
  | some (base, len) =>
    decide (versionSize v ≤ len) && (match bitsList 8 v.owners with
      | [p] => s.weights.all (fun w => match w.v.hbm with
        | some r => decide (r.1 + r.2 ≤ base) || decide (base + len ≤ r.1)
        | none => true) && (match mget? s.parts p with
        | some x => (upto ((base + len - 1) / 2 ^ 30 + 1 - base / 2 ^ 30)).all (fun i => hasBit x.granules (base / 2 ^ 30 + i))
        | none => false)
      | _ => false)

/-- The number of the newest version of a name; 0 where there is none. -/
def State.newestVersion (s : State) (name : Nat) : Nat :=
  (s.weights.filter (fun w => w.v.name == name)).foldl (fun n w => Nat.max n w.v.ver) 0

/-- The first cause that a read of a range meets, page by page, with its address. -/
def State.rangeCause (s : State) (ctx : Nat) : Nat → Nat → Option (Cause × Nat)
  | _, 0 => none
  | va, n + 1 => match s.translateCtx ctx .load va with
    | .error c => some (c, va)
    | .ok _ => s.rangeCause ctx ((va / 4096 + 1) * 4096) n

/-- The range of an HBM-resident version has been written and checked (R365): it is ready, and the WPROG that wrote it ends. -/
def State.wprogEnds (s : State) (qnum : Nat) : State :=
  ({ s with weights := s.weights.map (fun (x : StoredVersion) =>
      if x.prog = some qnum then { x with prog := none, ready := true, image := (x.v.hbm.map s.rangeCells).getD [] } else x) } : State).endStep qnum

/-- WPROG (R359 to R361, R365, R452): the version that the engine finds staged is programmed, or refused; or the step of one that writes a range
of HBM ends. -/
def execWprog (qnum : Nat) (v : WeightVersion) (s : State) : Result :=
  if s.weights.any (fun x => x.prog == some qnum) then .next (s.wprogEnds qnum)
  else packetStep qnum (.cfg 6) (fun s q _ p =>
    some (s.withArg qnum q p 64 (fun s _ =>
      match s.rangeCause q.ctx v.src.1 ((v.src.1 % 4096 + v.src.2 + 4095) / 4096) with
      | some (c, a) => s.packetFault qnum q p.tag c.code 0 a
      | none =>
      if v.key = 0 ∨ 1024 ≤ v.key ∨ 256 ≤ v.owners ∨ 2 ^ 32 ≤ v.name then s.cfgFault qnum q p pktFormat
      else if v.tensors.isEmpty ∨ 4096 < v.tensors.length ∨ !v.tensors.all tensorOk ∨ v.ver ≠ s.newestVersion v.name + 1 ∨ !s.residenceOk v then
        s.cfgFault qnum q p weightRefused
      else
        let x : StoredVersion :=
          { v := v, published := none, token := s.keyToken v.key, ready := v.hbm.isNone, image := [], prog := if v.hbm.isNone then none else some qnum, bad := [] }
        let s : State := { s with weights := s.weights ++ [x] }
        if v.hbm.isNone then s.endStep qnum else s.blockStep qnum .working))) s

/-- WPUB (R362, R452). -/
def execWpub (qnum : Nat) (s : State) : Result :=
  packetStep qnum (.cfg 7) (fun s q _ p =>
    some (s.withArg qnum q p 8 (fun s a =>
      let name := bitsOf a 0 32
      let ver := bitsOf a 32 32
      match s.version name ver with
      | none => s.cfgFault qnum q p weightRefused
      | some w =>
        if w.published.isSome then s.cfgFault qnum q p weightRefused
        else
          let e := s.wepoch + 1
          let s : State := { s with wepoch := e, weights := s.weights.map (fun (x : StoredVersion) => if x.v.name = name ∧ x.v.ver = ver then { x with published := some e } else x) }
          s.endStep qnum))) s

/-! ### CHKPT -/

/-- The ciphertext of a written line, as it stands in its stack (R461). -/
def cipherOf (token line : Nat) (plain : List Byte) : List Byte :=
  if token = 0 then plain else (upto 128).map (Config.cipherByte token line plain)

/-- Copy one granule to the safe tier as it is stored (R453): lines in the zeroed state as zero bytes. -/
def State.tierOut (s : State) (g base : Nat) : State :=
  let s : State := { s with hostMem := s.hostMem.filter (fun e => decide (e.1 < base) || decide (base + 2 ^ 30 ≤ e.1)) }
  (s.lineKeys.filter (fun e => e.1 / 2 ^ 23 == g)).foldl (fun (s : State) e =>
    let plain := readBytes s.hbm (128 * e.1) 128
    let bs := cipherOf e.2 e.1 plain
    { s with hostMem := writeBytes s.hostMem (base + 128 * (e.1 % 2 ^ 23)) bs,
             tier := if e.2 = 0 then s.tier else s.tier ++ [{ line := e.1, token := e.2, plain := plain, cipher := bs }] }) s

/-- Put one line back from the safe tier (R453): what its ciphertext stands for, under its key, where that was this line's. -/
def State.lineIn (s : State) (line : Nat) (bs : List Byte) : State :=
  match s.tier.find? (fun t => t.line == line && t.cipher == bs) with
  | some t => { s with hbm := writeBytes s.hbm (128 * line) t.plain, lineKeys := mset s.lineKeys line t.token }
  | none => { s with hbm := writeBytes s.hbm (128 * line) bs, lineKeys := mset s.lineKeys line 0 }

/-- Copy one granule from the safe tier (R453, R496): a line of zero bytes goes to the zeroed state. -/
def State.tierIn (s : State) (g base : Nat) : State :=
  let lines := ((s.hostMem.filter (fun e => decide (base ≤ e.1) && decide (e.1 < base + 2 ^ 30))).map (fun e => (e.1 - base) / 128)).dedup
  lines.foldl (fun (s : State) l => s.lineIn (g * 2 ^ 23 + l) (readBytes s.hostMem (base + 128 * l) 128)) (s.zeroGranule g)

/-- Copy granules in ascending order, each to or from its gigabyte; the bytes count for no partition (R453, R474). -/
def State.tierCopy (s : State) (toHbm : Bool) (base : Nat) : List Nat → State
  | [] => s
  | g :: r => (if toHbm then s.tierIn g base else s.tierOut g base).tierCopy toHbm (base + 2 ^ 30) r

/-- The granules of the partitions that a mask names; every granule where all are named. -/
def State.granulesOf (s : State) (idx : Nat) : Nat :=
  if idx = 8 then 2 ^ 1024 - 1 else match mget? s.parts idx with
    | some p => p.granules
    | none => 0

/-- Workgroups resident on the plots of partitions. -/
def State.residentOf (s : State) (parts : Nat) : List (Nat × Workgroup) :=
  s.wgs.filter (fun e => e.2.core.isSome && (match s.wgCtx e.2 with
    | some (_, x) => hasBit parts x.part
    | none => false))

/-- The start of a CHKPT (R453): the work of its partitions is asked to stop. -/
def State.chkptStart (s : State) (qnum : Nat) (q : Queue) (p : Packet) : State :=
  if 8 < p.idx then s.cfgFault qnum q p pktFormat
  else s.withArg qnum q p 192 (fun s v =>
    let granules := bitsOf v 512 1024
    if bitsOf v 0 12 ≠ 0 ∨ bitsOf v 65 447 ≠ 0 ∨ (granules &&& s.granulesOf p.idx) ≠ granules then s.cfgFault qnum q p pktFormat
    else
      let parts := if p.idx = 8 then 255 else 2 ^ p.idx
      let s := (s.residentOf parts).foldl (fun (s : State) e => s.askPreempt e.1 .chkpt) (s.blockStep qnum .working)
      { s with cmd := { s.cmd with chkpts := s.cmd.chkpts ++ [{ qnum := qnum, parts := parts, toHbm := hasBit v 64, base := bitsOf v 0 64, granules := granules }] } })

/-- A CHKPT in its step goes on (R453): it waits for the work of its partitions, then copies.  Where the host answers with an error,
how many granules had been copied is free. -/
def State.chkptGoOn (s : State) (c : ChkptStep) (hostOk : Bool) : State :=
  let busy := s.residentOf c.parts
  if !busy.isEmpty then busy.foldl (fun (s : State) e => s.askPreempt e.1 .chkpt) s
  else
    let s := (mkeys s.cores).foldl (fun (s : State) k => match s.partOfPlot (plotOf k) with
      | some p => if hasBit c.parts p then
          let s := s.drainAll k
          s.performDrains k (s.core k).drains.length else s
      | none => s) s
    let gs := bitsList 1024 c.granules
    let s : State := { s with cmd := { s.cmd with chkpts := s.cmd.chkpts.filter (fun x => x.qnum != c.qnum) } }
    if hostOk then (s.tierCopy c.toHbm c.base gs).endStep c.qnum
    else
      let n := leNat [Config.freeByte s.fresh, Config.freeByte (s.fresh + 1)] % (gs.length + 1)
      let s := ({ s with fresh := s.fresh + 2 }).tierCopy c.toHbm c.base (gs.take n)
      match mget? s.cmd.queues c.qnum with
      | some q =>
        let tag := match q.packet with
          | some bs => bitsOf (leNat bs) 32 32
          | none => 0
        s.packetFault c.qnum q tag hostPath 0 c.base
      | none => s

/-- CHKPT (R453): the packet starts, or its step goes on. -/
def execChkpt (qnum : Nat) (hostOk : Bool) (s : State) : Result :=
  match s.cmd.chkpts.find? (fun c => c.qnum == qnum) with
  | some c => .next (s.chkptGoOn c hostOk)
  | none => packetStep qnum (.cfg 8) (fun s q _ p => some (s.chkptStart qnum q p)) s

end Sys2Proof.Machine
end

