-- ==== Sys2Proof/Machine/ControlPage.lean ====
section
/-! DEFINITION. The control page of a context and the register pages of the hub: what a write of each register does, one meaning for
each, and what a read gives (17_command_processors.md R433, R441 to R447, 18_security_engine.md R481, 19_power_clock_controller.md
R493). -/

namespace Sys2Proof.Machine

/-! ### Queues and answers -/

/-- A queue of a context by its index. -/
def State.queueOf (s : State) (ctx idx : Nat) : Option (Nat × Queue) := s.cmd.queues.find? (fun e => e.2.ctx == ctx && e.2.idx == idx)

/-- QDB (R433, R444): the packet count; one more than the ring ahead of QRD, or behind it, is ignored with a NOTICE. -/
def execQdb (ctx q value : Nat) (s : State) : Result :=
  match s.queueOf ctx q with
  | none => .next s
  | some (n, x) =>
    if x.halted then .next s
    else if 2 ^ x.rlog < (value + 2 ^ 32 - x.qrd) % 2 ^ 32 ∨ 2 ^ 32 ≤ value then .next (s.notice { Record.blank with ctx := ctx, qnum := n, cause := pktFormat })
    else .next (s.modQueue n (fun y => { y with qdb := value }))

/-- EQRD (R445).  At an index with no queue the field keeps what is written (Table 0-3). -/
def execEqrd (ctx q value : Nat) (s : State) : Result :=
  match s.queueOf ctx q with
  | none => .next ((s.modCtx ctx (fun x => { x with eqrds := mput 0 x.eqrds q (value % 2 ^ 32) })).retryRings ctx)
  | some (n, _) => .next ((s.modQueue n (fun y => { y with eqrd := value % 2 ^ 32 })).retryRings ctx)

/-- QRESET (R444): halted queues of the mask go on behind the last doorbell. -/
def execQreset (ctx value : Nat) (s : State) : Result :=
  let qs := s.cmd.queues.map (fun e =>
    (e.1, if e.2.ctx = ctx ∧ hasBit value e.2.idx = true ∧ e.2.halted = true then { e.2 with qrd := e.2.qdb, halted := false, packet := none, block := none } else e.2))
  .next (({ s with cmd := { s.cmd with queues := qs } } : State).retryRings ctx)

/-- The three answers of EQANS. -/
inductive Answer where
  | resume | skip | abort
  deriving DecidableEq, Repr

/-- The answer to a WARP record in the warp that it stopped (R160, Table 17-9). -/
def Warp.answer (w : Warp) (seq : Nat) (a : Answer) : Warp :=
  w.splits.foldl (fun (w : Warp) e =>
    if e.2.status = .parked (.record seq) then
      match a with
      | .resume => { w with splits := mset w.splits e.1 { e.2 with status := .ready } }
      | .skip =>
        let w := (bitsList 16 e.2.strands).foldl (fun (w : Warp) l => w.modStrand l (fun st => { st with pc := st.pc + 4 })) w
        { w with splits := mset w.splits e.1 { e.2 with status := .ready, replay := none } }
      | .abort => { w with splits := [], trap := none, strands := w.strands.map (fun st => { st with active := 0, stack := [] }) }
    else w) w

/-- Does a warp stand under a record? -/
def Warp.under (w : Warp) (ctx seq : Nat) : Bool := w.ctx == ctx && w.splits.any (fun e => e.2.status == .parked (.record seq))

/-- An aborted warp's pricking closes: its helpers end (R160). -/
def State.abortPricking (s : State) (core slot : Nat) : State :=
  match mget? (s.core core).prickings (slot / 2) with
  | none => s
  | some p =>
    if p.slot ≠ slot then s
    else
      let s := (mkeys p.helpers).foldl (fun (s : State) l => s.orphan core slot l) s
      s.modCore core (fun k => k.closePricking (slot / 2) p)

/-- The last workgroup of a context is aborted: its boost lease returns (R488). -/
def State.abortLease (s : State) (ctx : Nat) (gone : Nat) : State :=
  if s.wgs.any (fun e => e.1 != gone && (s.wgCtx e.2).map Prod.fst == some ctx) then s else s.returnLease ctx

/-- The answer to a WARP record, wherever its warp is (R444).  Where no thread of the workgroup is left, an abort has ended it, whatever of it is
still on its way (R488). -/
def State.answerWarp (s : State) (r : Record) (a : Answer) : State :=
  let s : State := { s with wgs := s.wgs.map (fun e => (e.1, { e.2 with saved := e.2.saved.map (fun sv =>
    { sv with warps := sv.warps.map (fun w => (w.1, if w.2.under r.ctx r.seq then w.2.answer r.seq a else w.2)) }) })) }
  let places := s.cores.flatMap (fun c => (c.2.warps.filter (fun w => w.2.under r.ctx r.seq)).map (fun w => (c.1, w.1)))
  let s := places.foldl (fun (s : State) x =>
    let s := s.modWarp x.1 x.2 (fun w => w.answer r.seq a)
    if a = .abort then (s.abortPricking x.1 x.2).reap x.1 x.2 else s) s
  match a, mget? s.wgs r.wg with
  | .abort, some w =>
    let gone := match w.saved with
      | some sv => sv.warps.all (fun e => e.2.splits.isEmpty)
      | none => (s.warpsOf w).all (fun e => e.2.splits.isEmpty)
    if gone then s.abortLease r.ctx r.wg else s
  | _, _ => s

/-- The answer to a RESTORE record (R480, Table 17-9). -/
def State.answerRestore (s : State) (r : Record) (a : Answer) : State :=
  match mget? s.wgs r.wg with
  | none => s
  | some w =>
    match w.saved with
    | none => s
    | some sv =>
      if sv.failed ≠ some r.seq then s
      else match a with
        | .resume => s.modWg r.wg (fun w => { w with saved := some { sv with ready := true, failed := none } })
        | _ => (s.discardWg r.wg).abortLease r.ctx r.wg

/-- The answer to a PACKET record (R444, Table 17-9). -/
def State.answerPacket (s : State) (r : Record) (a : Answer) : State :=
  match s.cmd.queues.find? (fun e => e.2.ctx == r.ctx && e.2.pending == some r.seq) with
  | none => s
  | some (n, _) =>
    let s := s.modQueue n (fun q => { q with pending := none })
    match a with
    | .resume => s
    | .skip => s.endStep n
    | .abort => s.modQueue n (fun q => { q with halted := true, packet := none })

/-- A write of EQANS (R444): one that names no record awaiting an answer is ignored. -/
def State.answerRecord (s : State) (ctx seq : Nat) (a : Answer) : State :=
  match s.recOpen.find? (fun r => r.ctx == ctx && r.seq == seq && r.kind.answered) with
  | none => s
  | some r =>
    let s : State := { s with recOpen := s.recOpen.erase r }
    match r.kind with
    | .warp => s.answerWarp r a
    | .restore => s.answerRestore r a
    | .packet => s.answerPacket r a
    | _ => s

/-! ### Page requests and translations -/

/-- Answer one page request in a wait. -/
def Wait.answerPage (seq : Nat) (a : PageAnswer) : Wait → Wait
  | .page asks => .page (asks.map (fun x => if x.seq = seq then { x with answer := a } else x))
  | w => w

/-- Answer a page request in every split and helper of a context, those saved included (R447). -/
def State.answerPage (s : State) (ctx seq : Nat) (a : PageAnswer) : State :=
  let warp := fun (w : Warp) => if w.ctx = ctx then w.mapWaits (Wait.answerPage seq a) else w
  let core := fun (k : Core) =>
    { k with warps := k.warps.map (fun w => (w.1, warp w.2)),
             prickings := k.prickings.map (fun p => (p.1, match mget? k.warps p.2.slot with
               | some w => if w.ctx = ctx then { p.2 with helpers := p.2.helpers.map (fun h => (h.1, { h.2 with wait := h.2.wait.map (Wait.answerPage seq a) })) } else p.2
               | none => p.2)) }
  { s with cores := s.cores.map (fun c => (c.1, core c.2)),
           wgs := s.wgs.map (fun e => (e.1, { e.2 with saved := e.2.saved.map (fun sv => { sv with warps := sv.warps.map (fun w => (w.1, warp w.2)) }) })) }

/-- A write of FSREPLY (R447): one that names no request awaiting its answer is ignored. -/
def State.replyPage (s : State) (ctx seq : Nat) (a : PageAnswer) : State :=
  match s.recOpen.find? (fun r => r.ctx == ctx && r.seq == seq && r.kind == .pagereq) with
  | none => s
  | some r => ({ s with recOpen := s.recOpen.erase r } : State).answerPage ctx seq a

/-- The complex processes a host write (R441, R444, R447); PGDECL counts a page request that is declined. -/
def State.takeWrite (s : State) : HostWrite → State
  | .answer ctx seq act => s.answerRecord ctx seq (if act = 0 then .resume else if act = 1 then .skip else .abort)
  | .page ctx seq decline =>
    let known := s.recOpen.any (fun r => r.ctx == ctx && r.seq == seq && r.kind == .pagereq)
    let s := s.replyPage ctx seq (if decline then .decline else .retry)
    if decline && known then s.count (s.ctxPart ctx) .pgdecl 1 else s
  | .mailbox part word value => s.setMbox part word true value

/-- A host write that the complex processes; in a QUIESCE or a SWITCH the hub latches it (R457).  A doorbell needs no latch of its own: QDB
holds the count, and no packet starts. -/
def State.hostWrite (s : State) (x : HostWrite) : State :=
  if s.quiescing then { s with cmd := { s.cmd with latched := s.cmd.latched ++ [x] } } else s.takeWrite x

/-- The complex that is active now processes what was latched (R457, R458). -/
def State.unlatch (s : State) : State := s.cmd.latched.foldl State.takeWrite { s with cmd := { s.cmd with latched := [] } }

/-- EQANS with ACT 0 (R444). -/
def execEqansResume (ctx seq : Nat) (s : State) : Result := .next (s.hostWrite (.answer ctx seq 0))

/-- EQANS with ACT 1. -/
def execEqansSkip (ctx seq : Nat) (s : State) : Result := .next (s.hostWrite (.answer ctx seq 1))

/-- EQANS with ACT 2. -/
def execEqansAbort (ctx seq : Nat) (s : State) : Result := .next (s.hostWrite (.answer ctx seq 2))

/-- FSREPLY with DECLINE 0 (R447). -/
def execFsreplyRetry (ctx seq : Nat) (s : State) : Result := .next (s.hostWrite (.page ctx seq false))

/-- FSREPLY with DECLINE 1 (R447): PGDECL counts it. -/
def execFsreplyDecline (ctx seq : Nat) (s : State) : Result :=
  .next (s.hostWrite (.page ctx seq true))

/-- TLBINV (R447): an invalidation begins. -/
def execTlbinv (ctx value : Nat) (s : State) : Result :=
  .next ((s.modCtx ctx (fun x => { x with tlbPend := x.tlbPend ++ [(value / 4096 % 2 ^ 52, value % 8)] })).retryRings ctx)

/-- Does a cached translation lie in an invalidated page (R447)? -/
def TlbEntry.within (t : TlbEntry) (ctx page size : Nat) : Bool :=
  t.ctx == ctx && (size == 7 || (decide (t.page * 2 ^ t.shift < page * 4096 / 2 ^ sizeShift size * 2 ^ sizeShift size + 2 ^ sizeShift size) &&
    decide (page * 4096 / 2 ^ sizeShift size * 2 ^ sizeShift size < (t.page + 1) * 2 ^ t.shift)))

/-- TLBINV_COMPLETE (R447): no translation cache holds the page of the context's oldest invalidation any longer. -/
def execTlbinvComplete (ctx : Nat) (s : State) : Result :=
  match (mget? s.ctxs ctx).bind (fun x => x.tlbPend.head?) with
  | none => .next s
  | some (page, size) =>
    let s : State := { s with cores := s.cores.map (fun c => (c.1, { c.2 with tlb := c.2.tlb.filter (fun t => !t.within ctx page size) })) }
    .next (s.modCtx ctx (fun x => { x with tlbPend := x.tlbPend.drop 1 }))

/-! ### The other registers of the control page -/

/-- MBXDATA (R441): the word that MBXIDX names is set full. -/
def execMbxdata (ctx value : Nat) (s : State) : Result :=
  match mget? s.ctxs ctx with
  | some x => .next (s.hostWrite (.mailbox x.part x.mbxIdx value))
  | none => .next s

/-- MECARVE (R266, R267): a code outside CARVOK, or reserved, is refused; the cores that run the context change their carve-out. -/
def execMecarve (ctx value : Nat) (s : State) : Result :=
  match mget? s.ctxs ctx with
  | none => .next s
  | some x =>
    let code := value % 8
    match mget? s.parts x.part with
    | none => .next s
    | some p =>
      if 5 ≤ code ∨ !hasBit p.carvok code then .next s
      else
        let s := s.modCtx ctx (fun x => { x with carve := code })
        .next { s with cores := s.cores.map (fun c => (c.1, if c.2.warps.any (fun w => w.2.ctx == ctx) then { c.2 with carveTo := code } else c.2)) }

/-- The policy scratch word that PSIDX names (R420). -/
def Context.psKey (x : Context) : Nat := scratchKey x.part (if hasBit x.psIdx 7 then 1 else 0) (x.psIdx % 128)

/-- PSDATA (R420). -/
def execPsdata (ctx value : Nat) (s : State) : Result :=
  match mget? s.ctxs ctx with
  | some x => .next ((s.putScratch [(x.psKey, value % 2 ^ 64)]).looseLine x.psKey)
  | none => .next s

/-- A write of a plain register of a control page (Table 17-7). -/
def State.writeControl (s : State) (ctx : Nat) (hyper : Bool) (off value : Nat) : State :=
  if off = 0x228 then s.modCtx ctx (fun x => { x with mbxIdx := value % 2 ^ 13 })
  else if off = 0x240 then s.modCtx ctx (fun x => { x with psIdx := if hyper then value % 2 ^ 8 else x.psIdx / 128 * 128 + value % 128 })
  else if off = 0x250 then s.modCtx ctx (fun x => { x with psSel := bitsOf value 0 5 + bitsOf value 8 3 * 2 ^ 8 })
  else s

/-- The meter that SNAPCTL selects (R491). -/
def State.snapMeter (s : State) : Nat := mgetD s.meters (64 * bitsOf s.pwr.snapctl 16 3 + bitsOf s.pwr.snapctl 8 5) 0

/-- Reaching SNAPTHR is an edge (R491): a meter that stands at or above a threshold as it is set has not reached it. -/
def State.rearmMeter (s : State) : State := { s with pwr := { s.pwr with snapHit := decide (s.pwr.snapthr ≤ s.snapMeter) } }

/-- A write of a plain register of the power page (Table 19-2). -/
def State.writePower (s : State) (off value : Nat) : State :=
  let pwr := fun (f : Power → Power) => ({ s with pwr := f s.pwr } : State)
  if off = 0x008 then (if 1000 ≤ value % 2 ^ 16 ∧ value % 2 ^ 16 ≤ 3400 then pwr (fun p => { p with cap := value % 2 ^ 16 }) else s)
  else if 0x010 ≤ off ∧ off < 0x050 ∧ off % 8 = 0 then pwr (fun p => { p with prates := mset p.prates ((off - 0x010) / 8) (value % 2 ^ 8) })
  else if 0x050 ≤ off ∧ off < 0x090 ∧ off % 8 = 0 then s.setPool ((off - 0x050) / 8) (value % 2 ^ 48)
  else if off = 0x098 then pwr (fun p => { p with lsel := value % 2 ^ 10 })
  else if off = 0x0A8 then pwr (fun p => { p with boostok := value % 2 ^ 8 })
  else if off = 0x0C0 then (pwr (fun p => { p with snapctl := bitsOf value 0 4 + bitsOf value 8 5 * 2 ^ 8 + bitsOf value 16 3 * 2 ^ 16 })).rearmMeter
  else if off = 0x0C8 then (pwr (fun p => { p with snapthr := value % 2 ^ 64 })).rearmMeter
  else if off = 0x0F0 then pwr (fun p => { p with snapidx := value % 2 ^ 64 })
  else s

/-- REGISTER_WRITE (R5, R446, R481, R493): a register with no behaviour of its own; an offset that lists none ignores it. -/
def execRegisterWrite (page : RegPage) (off value : Nat) (s : State) : Result :=
  match page with
  | .control ctx hyper => .next (s.writeControl ctx hyper off value)
  | .security => .next (if off = 0x100 then { s with sec := { s.sec with midx := bitsOf value 0 5 + bitsOf value 8 3 * 2 ^ 8 } } else s)
  | .power => .next (s.writePower off value)

/-! ### Reads -/

/-- The state of a queue in QSTAT (Table 17-7, R445). -/
def State.queueState (s : State) (n : Nat) (q : Queue) : Nat :=
  if q.halted then 3
  else if q.pending.isSome || q.ringFault then 2
  else if q.block = some .mailbox then 1
  else if q.block = some .working ∨ q.qrd = q.qdb then 0
  else match s.readPacket q with
    | .ok p => if (p.ord && !s.ordReady n) || (p.kind == .cfg 0 && decide (p.idx < 8) && s.layoutWaits p.idx) then 1 else 0
    | .error _ => 0

/-- QSTAT (Table 17-7). -/
def State.qstat (s : State) (n : Nat) (q : Queue) : Nat := q.eqwr * 2 ^ 32 + q.eqlost * 2 ^ 16 + s.queueState n q

/-- A read of the control page of a context (Table 17-7): an offset that lists no readable register gives zero. -/
def State.readControl (s : State) (ctx off : Nat) : Nat :=
  match mget? s.ctxs ctx with
  | none => 0
  | some x =>
    if off < 0x200 then
      match s.queueOf ctx (off / 32) with
      | none => if off % 32 = 16 then mgetD x.eqrds (off / 32) 0 else 0
      | some (n, q) => if off % 32 = 8 then q.qrd else if off % 32 = 16 then q.eqrd else if off % 32 = 24 then s.qstat n q else 0
    else if off = 0x220 then x.tlbPend.length
    else if off = 0x228 then x.mbxIdx + (if (s.mboxWord x.part x.mbxIdx).1 then 2 ^ 63 else 0)
    else if off = 0x230 then (s.mboxWord x.part x.mbxIdx).2
    else if off = 0x238 then x.carve
    else if off = 0x240 then x.psIdx
    else if off = 0x248 then mgetD s.cmd.scratch x.psKey 0
    else if off = 0x250 then x.psSel
    else if off = 0x258 then
      let level := bitsOf x.psSel 4 1
      s.traverseStatus level (if level = 0 then ctx else x.part) (bitsOf x.psSel 0 4) (bitsOf x.psSel 8 3)
    else 0

/-- The lease word of the context that LSEL shows (Table 19-2). -/
def State.lstat (s : State) : Nat :=
  match mget? s.ctxs s.pwr.lsel with
  | none => 0
  | some x =>
    let active := s.wgs.any (fun e => (match e.2.core with
      | some c => hasBit s.pwr.boostok (plotOf c)
      | none => false) && (s.wgCtx e.2).map Prod.fst == some s.pwr.lsel)
    let st := if x.leaseRefused then 3 else match x.lease with
      | none => 0
      | some _ => if active then 1 else 2
    st * 2 ^ 62 + x.lease.getD 0

/-- The latched item that SNAPIDX names (R491, Table 19-2), its index a free value; with no snapshot held the word is free.  A core that the
machine does not list has been idle since reset (R483). -/
def Power.snapWord (p : Power) : Nat :=
  let (kind, key) := Config.snapItem p.snapidx
  match p.snap, kind with
  | some x, 0 => mgetD x.counters key 0
  | some x, 1 => mgetD x.meters key 0
  | some x, 2 => ((mgetD x.allow key (Core.initial.allow, Core.initial.floor)).1 % 2 ^ 64).toNat
  | some x, 3 => ((mgetD x.allow key (Core.initial.allow, Core.initial.floor)).2 % 2 ^ 64).toNat
  | some x, 4 => mgetD x.derates key 0
  | _, _ => key

/-- A read of the power register page (Table 19-2). -/
def State.readPower (s : State) (off : Nat) : Nat :=
  let p := s.pwr
  if off = 0x000 then p.watts * 2 ^ 48 + p.scale % 2 ^ 16
  else if off = 0x008 then p.cap
  else if 0x010 ≤ off ∧ off < 0x050 ∧ off % 8 = 0 then mgetD p.prates ((off - 0x010) / 8) 0
  else if 0x050 ≤ off ∧ off < 0x090 ∧ off % 8 = 0 then s.pool ((off - 0x050) / 8)
  else if off = 0x098 then p.lsel
  else if off = 0x0A0 then s.lstat
  else if off = 0x0A8 then p.boostok
  else if off = 0x0B0 then (upto 16).foldl (fun n k => n + mgetD p.derate k 0 * 4 ^ k) 0
  else if off = 0x0C0 then p.snapctl
  else if off = 0x0C8 then p.snapthr
  else if off = 0x0D8 then p.snapseq * 2 ^ 32 + (match p.snap with
    | some x => 2 ^ 31 + x.src * 2 ^ 16 + x.tag
    | none => 0)
  else if off = 0x0E8 then p.snapmiss
  else if off = 0x0F0 then p.snapidx
  else if off = 0x0F8 then p.snapWord % 2 ^ 64
  else if off = 0x100 then (match p.snap with
    | some x => x.time
    | none => 0)
  else 0

end Sys2Proof.Machine
end

