-- ==== Sys2Proof/Machine/Float.lean ====
section
/-! DEFINITION. The float engine: one meaning for each of its instructions (08_float_engine.md R205 to R219). -/

namespace Sys2Proof.Machine

/-- A float result with its flags (R211). -/
def AluOut.flt (r : Nat × Nat) : AluOut := { val := r.1, flags := r.2, p := false }

/-- A predicate with its flags (R219). -/
def AluOut.cmp (r : Bool × Nat) : AluOut := { val := 0, flags := r.2, p := r.1 }

/-- An FP32 operation of two sources (R213). -/
def flt2 (f : RForm) (fn : FltFmt → FEnv → Nat → Nat → Nat × Nat) (s : State) : Result :=
  aluStep (specR f false) (fun i => .flt (fn fp32 (.of i.fmt) i.a i.b)) s

/-- An FP32 function of one source (R216). -/
def flt1 (f : XForm) (fn : FVal → FRes) (s : State) : Result :=
  aluStep (specX f 1 1) (fun i => .flt (fltFn fp32 (.of i.fmt) fn i.a)) s

/-- Both elements of a packed pair: results side by side, flags merged (R215). -/
def packed (fn : Nat → Nat × Nat) : Nat × Nat :=
  let lo := fn 0
  let hi := fn 16
  (lo.1 + 2 ^ 16 * hi.1, lo.2 ||| hi.2)

/-- A packed operation of two sources (R215). -/
def pack2 (F : FltFmt) (f : RForm) (fn : FltFmt → FEnv → Nat → Nat → Nat × Nat) (s : State) : Result :=
  aluStep (specR f false) (fun i => .flt (packed (fun k => fn F (.of i.fmt) (bitsOf i.a k 16) (bitsOf i.b k 16)))) s

/-- A packed fused operation (R215). -/
def packFma (F : FltFmt) (f : RForm) (s : State) : Result :=
  aluStep (specR f true) (fun i => .flt (packed (fun k => fltFma F (.of i.fmt) (bitsOf i.a k 16) (bitsOf i.b k 16) (bitsOf i.d k 16)))) s

/-- FADD (R213). -/
def execFadd (f : RForm) (s : State) : Result := flt2 f fltAdd s
/-- FSUB (R213). -/
def execFsub (f : RForm) (s : State) : Result := flt2 f fltSub s
/-- FMUL (R213). -/
def execFmul (f : RForm) (s : State) : Result := flt2 f fltMul s
/-- FFMA (R213): d is the addend. -/
def execFfma (f : RForm) (s : State) : Result :=
  aluStep (specR f true) (fun i => .flt (fltFma fp32 (.of i.fmt) i.a i.b i.d)) s
/-- FMIN (R217). -/
def execFmin (f : RForm) (s : State) : Result := flt2 f (fun F e a b => fltMinMax F e false a b) s
/-- FMAX (R217). -/
def execFmax (f : RForm) (s : State) : Result := flt2 f (fun F e a b => fltMinMax F e true a b) s
/-- FDIV (R213). -/
def execFdiv (f : RForm) (s : State) : Result := flt2 f fltDiv s
/-- FRCP (R216). -/
def execFrcp (f : XForm) (s : State) : Result := flt1 f frecip s
/-- FRSQ (R216). -/
def execFrsq (f : XForm) (s : State) : Result := flt1 f frsqrt s
/-- FSQRT (R216). -/
def execFsqrt (f : XForm) (s : State) : Result := flt1 f froot s
/-- FEXP2 (R216). -/
def execFexp2 (f : XForm) (s : State) : Result := flt1 f fexp2 s
/-- FLOG2 (R216). -/
def execFlog2 (f : XForm) (s : State) : Result := flt1 f flog2 s
/-- FCLASS (R218). -/
def execFclass (f : XForm) (s : State) : Result := aluStep (specX f 1 1) (fun i => .ofNat (fclassMask i.a)) s
/-- DADD (R214). -/
def execDadd (f : PairForm) (s : State) : Result :=
  aluStep (specPair f 2 false) (fun i => .flt (fltAdd fp64 (.of i.fmt) i.a i.b)) s
/-- DMUL (R214). -/
def execDmul (f : PairForm) (s : State) : Result :=
  aluStep (specPair f 2 false) (fun i => .flt (fltMul fp64 (.of i.fmt) i.a i.b)) s
/-- DFMA (R214): d is the addend. -/
def execDfma (f : PairForm) (s : State) : Result :=
  aluStep (specPair f 2 true) (fun i => .flt (fltFma fp64 (.of i.fmt) i.a i.b i.d)) s
/-- FSETP (R219). -/
def execFsetp (cc : FltCc) (f : CmpForm) (s : State) : Result :=
  aluStep (specC f 1) (fun i => .cmp (fltCompare fp32 (.of i.fmt) cc i.a i.b)) s
/-- DSETP (R219). -/
def execDsetp (cc : FltCc) (f : CmpForm) (s : State) : Result :=
  aluStep (specC f 2) (fun i => .cmp (fltCompare fp64 (.of i.fmt) cc i.a i.b)) s
/-- HADD2 (R215). -/
def execHadd2 (f : RForm) (s : State) : Result := pack2 fp16 f fltAdd s
/-- HMUL2 (R215). -/
def execHmul2 (f : RForm) (s : State) : Result := pack2 fp16 f fltMul s
/-- HFMA2 (R215). -/
def execHfma2 (f : RForm) (s : State) : Result := packFma fp16 f s
/-- HADD2.bf (R215). -/
def execHadd2Bf (f : RForm) (s : State) : Result := pack2 bf16 f fltAdd s
/-- HMUL2.bf (R215). -/
def execHmul2Bf (f : RForm) (s : State) : Result := pack2 bf16 f fltMul s
/-- HFMA2.bf (R215). -/
def execHfma2Bf (f : RForm) (s : State) : Result := packFma bf16 f s

end Sys2Proof.Machine
end

