-- ==== Sys2Proof/Machine/Integer.lean ====
section
/-! DEFINITION. The integer engine: one meaning for each of its instructions (07_integer_engine.md R187 to R204). -/

namespace Sys2Proof.Machine

/-- An exact integer clamped to a range, as a 32-bit value (R194). -/
def clampWord (lo hi r : Int) : Word := BitVec.ofInt 32 (if r > hi then hi else if r < lo then lo else r)

/-- The bounds of a signed 32-bit value. -/
def int32Min : Int := -2147483648
def int32Max : Int := 2147483647

/-- Quotient truncated toward zero, with the fixed results of R198. -/
def divsWord (a b : Word) : Word :=
  if b.toInt = 0 then BitVec.ofInt 32 (-1)
  else if a.toInt = int32Min && b.toInt = -1 then BitVec.ofInt 32 int32Min
  else BitVec.ofInt 32 (Int.tdiv a.toInt b.toInt)

/-- Remainder with the sign of the dividend, with the fixed results of R198. -/
def remsWord (a b : Word) : Word :=
  if b.toInt = 0 then a
  else if a.toInt = int32Min && b.toInt = -1 then 0
  else BitVec.ofInt 32 (a.toInt - b.toInt * Int.tdiv a.toInt b.toInt)

def divuWord (a b : Word) : Word := if b.toNat = 0 then BitVec.ofInt 32 (-1) else BitVec.ofNat 32 (a.toNat / b.toNat)
def remuWord (a b : Word) : Word := if b.toNat = 0 then a else BitVec.ofNat 32 (a.toNat - b.toNat * (a.toNat / b.toNat))

/-- Shifts by a count that may exceed the width (R200). -/
def shlWord (x : Word) (c : Nat) : Word := if c ≥ 32 then 0 else x <<< c
def shrWord (x : Word) (c : Nat) : Word := if c ≥ 32 then 0 else x >>> c
def shraWord (x : Word) (c : Nat) : Word := x.sshiftRight (if c ≥ 31 then 31 else c)
def rolWord (x : Word) (c : Nat) : Word := x.rotateLeft (c % 32)

/-- Number of zero bits above the highest 1 bit (Table 7-2). -/
def clzWord (x : Word) : Word := BitVec.ofNat 32 (if x.toNat = 0 then 32 else 31 - Nat.log2 x.toNat)

/-- Number of 1 bits of the low `n` bits. -/
def popNat : Nat → Nat → Nat
  | 0, _ => 0
  | n + 1, v => v % 2 + popNat n (v / 2)

def popcWord (x : Word) : Word := BitVec.ofNat 32 (popNat 32 x.toNat)

/-- The low `n` bits reversed. -/
def revNat : Nat → Nat → Nat
  | 0, _ => 0
  | n + 1, v => v % 2 * 2 ^ n + revNat n (v / 2)

def brevWord (x : Word) : Word := BitVec.ofNat 32 (revNat 32 x.toNat)

/-- The conditions of SETP (R203, Table 2-8). -/
def intCompare : IntCc → Word → Word → Bool
  | .eq, a, b => a == b
  | .ne, a, b => a != b
  | .lt, a, b => decide (a.toInt < b.toInt)
  | .le, a, b => decide (a.toInt ≤ b.toInt)
  | .gt, a, b => decide (a.toInt > b.toInt)
  | .ge, a, b => decide (a.toInt ≥ b.toInt)
  | .lo, a, b => decide (a.toNat < b.toNat)
  | .hs, a, b => decide (a.toNat ≥ b.toNat)

/-- An immediate operation on a (R193, R199). -/
def aluImm (f : IForm) (fn : Word → Word → Word) (s : State) : Result :=
  aluStep (specI f) (fun i => .word (fn (BitVec.ofNat 32 i.a) (f.imm.signExtend 32))) s

/-- An immediate shift (R200). -/
def aluShift (f : ShForm) (fn : Word → Nat → Word) (s : State) : Result :=
  aluStep (specSh f) (fun i => .word (fn (BitVec.ofNat 32 i.a) f.c.val)) s

/-- ADD (R193). -/
def execAdd (f : RForm) (s : State) : Result := alu2 f (fun a b => a + b) s

/-- SUB (R193). -/
def execSub (f : RForm) (s : State) : Result := alu2 f (fun a b => a - b) s

/-- ADDS (R194). -/
def execAdds (f : RForm) (s : State) : Result := alu2 f (fun a b => clampWord int32Min int32Max (a.toInt + b.toInt)) s

/-- SUBS (R194). -/
def execSubs (f : RForm) (s : State) : Result := alu2 f (fun a b => clampWord int32Min int32Max (a.toInt - b.toInt)) s

/-- ADDSU (R194). -/
def execAddsu (f : RForm) (s : State) : Result := alu2 f (fun a b => clampWord 0 4294967295 (a.toNat + b.toNat)) s

/-- SUBSU (R194). -/
def execSubsu (f : RForm) (s : State) : Result := alu2 f (fun a b => clampWord 0 4294967295 ((a.toNat : Int) - b.toNat)) s

/-- MUL (R197). -/
def execMul (f : RForm) (s : State) : Result := alu2 f (fun a b => a * b) s

/-- MULH (R197): bits [63:32] of the signed product. -/
def execMulh (f : RForm) (s : State) : Result := alu2 f (fun a b => BitVec.ofInt 32 (a.toInt * b.toInt / 4294967296)) s

/-- MULHU (R197): bits [63:32] of the unsigned product. -/
def execMulhu (f : RForm) (s : State) : Result := alu2 f (fun a b => BitVec.ofNat 32 (a.toNat * b.toNat / 4294967296)) s

/-- DIVS (R198). -/
def execDivs (f : RForm) (s : State) : Result := alu2 f (fun a b => divsWord a b) s

/-- DIVU (R198). -/
def execDivu (f : RForm) (s : State) : Result := alu2 f (fun a b => divuWord a b) s

/-- REMS (R198). -/
def execRems (f : RForm) (s : State) : Result := alu2 f (fun a b => remsWord a b) s

/-- REMU (R198). -/
def execRemu (f : RForm) (s : State) : Result := alu2 f (fun a b => remuWord a b) s

/-- MIN (R199). -/
def execMin (f : RForm) (s : State) : Result := alu2 f (fun a b => if a.toInt ≤ b.toInt then a else b) s

/-- MAX (R199). -/
def execMax (f : RForm) (s : State) : Result := alu2 f (fun a b => if a.toInt ≤ b.toInt then b else a) s

/-- MINU (R199). -/
def execMinu (f : RForm) (s : State) : Result := alu2 f (fun a b => if a.toNat ≤ b.toNat then a else b) s

/-- MAXU (R199). -/
def execMaxu (f : RForm) (s : State) : Result := alu2 f (fun a b => if a.toNat ≤ b.toNat then b else a) s

/-- AND (R199). -/
def execAnd (f : RForm) (s : State) : Result := alu2 f (fun a b => a &&& b) s

/-- OR (R199). -/
def execOr (f : RForm) (s : State) : Result := alu2 f (fun a b => a ||| b) s

/-- XOR (R199). -/
def execXor (f : RForm) (s : State) : Result := alu2 f (fun a b => a ^^^ b) s

/-- SHL (R200). -/
def execShl (f : RForm) (s : State) : Result := alu2 f (fun a b => shlWord a b.toNat) s

/-- SHR (R200). -/
def execShr (f : RForm) (s : State) : Result := alu2 f (fun a b => shrWord a b.toNat) s

/-- SHRA (R200). -/
def execShra (f : RForm) (s : State) : Result := alu2 f (fun a b => shraWord a b.toNat) s

/-- ROL (R200). -/
def execRol (f : RForm) (s : State) : Result := alu2 f (fun a b => rolWord a b.toNat) s

/-- MAD (R197): d is the accumulator. -/
def execMad (f : RForm) (s : State) : Result := aluStep (specR f true) (fun i => .ofNat ((i.a * i.b + i.d) % 2 ^ 32)) s

/-- ADDC (R195). -/
def execAddc (f : PairForm) (s : State) : Result := aluStep (specPair f 2 false) (fun i => .ofNat ((i.a + i.b) % 2 ^ 64)) s

/-- SUBB (R195). -/
def execSubb (f : PairForm) (s : State) : Result :=
  aluStep (specPair f 2 false) (fun i => .ofNat (wrap 64 ((i.a : Int) - i.b))) s

/-- LEA (R196). -/
def execLea (f : PairForm) (s : State) : Result :=
  aluStep (specPair f 1 false) (fun i => .ofNat (wrap 64 ((i.a : Int) + signed 32 i.b))) s

/-- SEL (R201): a where the strand's guard is true, b where it is false. -/
def execSel (f : SelForm) (s : State) : Result :=
  aluStep (specR { d := f.d, a := f.a, b := f.b, h := f.h, g := false, u := f.u } false)
    (fun i => .ofNat (if i.guard then i.a else i.b)) s

/-- MOV (R202). -/
def execMov (f : XForm) (s : State) : Result := alu1 f (fun a => a) s

/-- NOT (R202). -/
def execNot (f : XForm) (s : State) : Result := alu1 f (fun a => ~~~a) s

/-- NEG (R202). -/
def execNeg (f : XForm) (s : State) : Result := alu1 f (fun a => 0 - a) s

/-- ABS (R202). -/
def execAbs (f : XForm) (s : State) : Result := alu1 f (fun a => BitVec.ofInt 32 (a.toInt.natAbs : Int)) s

/-- NEGS (R202). -/
def execNegs (f : XForm) (s : State) : Result := alu1 f (fun a => clampWord int32Min int32Max (-a.toInt)) s

/-- ABSS (R202). -/
def execAbss (f : XForm) (s : State) : Result := alu1 f (fun a => clampWord int32Min int32Max (a.toInt.natAbs : Int)) s

/-- CLZ (R202). -/
def execClz (f : XForm) (s : State) : Result := alu1 f (fun a => clzWord a) s

/-- POPC (R202). -/
def execPopc (f : XForm) (s : State) : Result := alu1 f (fun a => popcWord a) s

/-- BREV (R202). -/
def execBrev (f : XForm) (s : State) : Result := alu1 f (fun a => brevWord a) s

/-- SETP (R203). -/
def execSetp (cc : IntCc) (f : CmpForm) (s : State) : Result :=
  aluStep (specC f 1) (fun i => .ofBool (intCompare cc (BitVec.ofNat 32 i.a) (BitVec.ofNat 32 i.b))) s

/-- ADDI (R193). -/
def execAddi (f : IForm) (s : State) : Result := aluImm f (fun a y => a + y) s

/-- ANDI (R199). -/
def execAndi (f : IForm) (s : State) : Result := aluImm f (fun a y => a &&& y) s

/-- ORI (R199). -/
def execOri (f : IForm) (s : State) : Result := aluImm f (fun a y => a ||| y) s

/-- XORI (R199). -/
def execXori (f : IForm) (s : State) : Result := aluImm f (fun a y => a ^^^ y) s

/-- SHLI (R200). -/
def execShli (f : ShForm) (s : State) : Result := aluShift f shlWord s

/-- SHRI (R200). -/
def execShri (f : ShForm) (s : State) : Result := aluShift f shrWord s

/-- SHRAI (R200). -/
def execShrai (f : ShForm) (s : State) : Result := aluShift f shraWord s

/-- MOVL (R204). -/
def execMovl (f : LForm) (s : State) : Result := aluStep (specL f false) (fun _ => .word (f.imm.setWidth 32)) s

/-- MOVH (R204): the low half of d is kept. -/
def execMovh (f : LForm) (s : State) : Result :=
  aluStep (specL f true) (fun i => .ofNat (f.imm.toNat * 65536 + i.d % 65536)) s

end Sys2Proof.Machine
end

