-- ==== Sys2Proof/Machine/SecurityEngine.lean ====
section
/-! DEFINITION. The security engine: keys, sessions and evidence, firmware updates and the anti-rollback counter, debug unlock, links and
meters, one meaning for each event (17_command_processors.md R455 to R457, 18_security_engine.md R459 to R481). -/

namespace Sys2Proof.Machine

def State.modSec (s : State) (f : Security → Security) : State := { s with sec := f s.sec }

/-- The engine answers. -/
def State.reply (s : State) (k : ReplyKind) (fields : List Nat) : State := s.modSec (fun x => { x with reply := some { kind := k, fields := fields } })

/-- A fresh secret of the engine's random source (R459, R464, R468). -/
def State.secret (s : State) : State × Nat := ({ s with fresh := s.fresh + 1 }, Config.freshSecret s.fresh)

/-! ### Key slots -/

/-- KSTAT (Table 18-5). -/
def kstatWord (result key : Nat) : Nat := result * 2 ^ 28 + key

def State.kstat (s : State) (result key : Nat) : State := s.modSec (fun x => { x with kstat := kstatWord result key })

/-- KCMD generate (R459): an ordinary key goes into the lowest FREE slot. -/
def execKcmdGenerate (part : Nat) (s : State) : Result :=
  match s.freeKey with
  | none => .next (s.kstat 1 0)
  | some key =>
    if (mget? s.parts part).isNone then .next (s.kstat 3 0)
    else
      let (s, v) := s.secret
      .next ((s.setKey key { state := .ord, part := part, secret := v, sess := 0, since := s.elapsed }).kstat 0 key)

/-- KCMD retire (R459, Table 18-5). -/
def execKcmdRetire (part key : Nat) (s : State) : Result :=
  let k := s.keySlot key
  .next (if k.state ≠ .ord then s.kstat 2 key
    else if k.part ≠ part then s.kstat 3 key
    else if s.keyNamed key then s.kstat 4 key
    else (s.setKey key { k with state := .zero }).kstat 0 key)

/-- KEY_PEND_TIMEOUT (Table 18-1): 60 s have passed, or the session has ended. -/
def execKeyPendTimeout (key : Nat) (s : State) : Result :=
  let k := s.keySlot key
  .next (if k.state = .pend ∧ s.pendOver k = true then s.setKey key { k with state := .zero } else s)

/-- Is a buffered write under a key id still to reach its base die? -/
def State.keyBuffered (s : State) (key : Nat) : Bool :=
  s.cores.any (fun c => c.2.wcb.any (fun e => e.space == .hbm && e.key == key) || c.2.drains.any (fun e => e.space == .hbm && e.key == key))

/-- KEY_ZEROISE (Table 18-1): the slot is free and holds no key. -/
def execKeyZeroise (key : Nat) (s : State) : Result :=
  .next (if (s.keySlot key).state = .zero ∧ s.keyBuffered key = false then
    s.setKey key KeySlot.free else s)

/-! ### Sessions and evidence -/

/-- GET_VERSION (R464): SPDM 1.3. -/
def execGetVersion (s : State) : Result := .next (s.reply .version [1, 3])

/-- GET_CAPABILITIES (R464): how many requests the engine supports inside and outside a session. -/
def execGetCapabilities (s : State) : Result := .next (s.reply .capabilities [10, 4])

/-- NEGOTIATE_ALGORITHMS (R464): ECDSA P-384, SHA-384, AES-256-GCM. -/
def execNegotiateAlgorithms (s : State) : Result := .next (s.reply .algorithms [384, 384, 256])

/-- The certificate chain of slot 0, as the model's free value. -/
def certificateChain : Nat := Config.digest [0]

/-- GET_DIGESTS (R464). -/
def execGetDigests (s : State) : Result := .next (s.reply .digests [Config.digest [certificateChain]])

/-- GET_CERTIFICATE (R464). -/
def execGetCertificate (s : State) : Result := .next (s.reply .certificate [certificateChain])

/-- CHALLENGE (R464): the answer is signed with the identity key. -/
def execChallenge (nonce : Nat) (s : State) : Result := .next (s.reply .challenge [nonce, Config.digest [1, nonce, certificateChain]])

/-- The blocks that every requester sees (Table 18-2, indices 1 to 5). -/
def State.deviceBlocks (s : State) : List Nat :=
  let (d, v) := match s.activeImage with
    | some i => (i.digest, i.sv)
    | none => (0, 0)
  [Config.digest [2], Config.digest [3], d, v, s.sec.meas4, s.sec.meas5, s.sec.fuses]

/-- Blocks 6 and 7 of a session's partition (Table 18-2). -/
def State.partBlocks (s : State) (x : Session) : List Nat :=
  match s.sessionPart x with
  | none => []
  | some p => [p.plots, p.granules] ++ p.slotMaps ++ [p.lgen] ++ (match p.chain with
    | e :: _ => [e.hash, e.number]
    | [] => [])

/-- GET_MEASUREMENTS (R465): a session sees its own partition's blocks as well; the answer is signed. -/
def execGetMeasurements (sess : Nat) (s : State) : Result :=
  let bs := s.deviceBlocks ++ (match mget? s.sec.sessions sess with
    | some x => s.partBlocks x
    | none => [])
  .next (s.reply .measurements (bs ++ [Config.digest (4 :: bs)]))

/-- KEY_EXCHANGE (R464): a session of one partition, at most 4 for each. -/
def execKeyExchange (part : Nat) (s : State) : Result :=
  match mget? s.parts part with
  | none => .next (s.reply .error [])
  | some p =>
  if 4 ≤ (s.sec.sessions.filter (fun e => e.2.part == part && e.2.pinst == p.pinst)).length then .next (s.reply .error [])
  else
    let (s, v) := s.secret
    let n := s.sec.nextSession
    .next ((s.modSec (fun x => { x with sessions := mset x.sessions n { part := part, pinst := p.pinst, secret := v, done := false }, nextSession := n + 1 })).reply .keyExchange [n])

/-- FINISH (R464). -/
def execFinish (sess : Nat) (s : State) : Result :=
  match mget? s.sec.sessions sess with
  | some x => .next ((s.modSec (fun y => { y with sessions := mset y.sessions sess { x with done := true } })).reply .finish [sess])
  | none => .next (s.reply .error [])

/-- END_SESSION (R464): the keys that it imported and that no context has taken go to ZERO (Table 18-1). -/
def execEndSession (sess : Nat) (s : State) : Result :=
  match mget? s.sec.sessions sess with
  | some _ => .next ((s.modSec (fun y => { y with
      sessions := mdel y.sessions sess, keys := y.keys.map (fun k => (k.1, if k.2.state = .pend ∧ k.2.sess = sess then { k.2 with state := .zero } else k.2)) })).reply
        .endSession [sess])
  | none => .next (s.reply .error [])

/-- A finished session. -/
def State.session (s : State) (sess : Nat) : Option Session := (mget? s.sec.sessions sess).filter (fun x => x.done)

/-- KEY_IMPORT (R467). -/
def execKeyImport (sess gen wrapped : Nat) (s : State) : Result :=
  match s.session sess with
  | none => .next (s.reply .error [])
  | some x =>
    if (s.sessionPart x).map (fun p => p.lgen) ≠ some gen then .next (s.reply .staleEvidence [])
    else match s.freeKey with
      | none => .next (s.reply .noSlot [])
      | some key =>
        if s.sec.debug then .next (s.reply .debugLocked [])
        else .next ((s.setKey key { state := .pend, part := x.part, secret := wrapped, sess := sess, since := s.elapsed }).reply .keyImport [key])

/-- The kept entry of the chain of a session's partition with a number (R476), newest first. -/
def State.keptEntry (s : State) (x : Session) (n : Nat) : Option ChainEntry := match s.sessionPart x with
  | some p => p.chain.find? (fun e => e.number == n)
  | none => none

/-- Is a sealed report the one that a session of that tenant asks for (R474, R477)? -/
def sealedIs (x : Session) (n : Nat) (e : Nat × ChainEntry) : Bool := e.1 == x.part && e.2.pinst == x.pinst && e.2.number == n

/-- The words of an entry as METER_READ returns it. -/
def ChainEntry.words (e : ChainEntry) : List Nat := [e.pinst, e.number, e.time, e.lgen, e.flags] ++ e.meters ++ e.derates.flatMap (fun d => [d.start, d.stop, d.factor]) ++ [e.prev]

/-- METER_READ (R476, R477): a kept entry of the session's partition, or its sealed report, which is then fetched. -/
def execMeterRead (sess entry : Nat) (s : State) : Result :=
  match s.session sess with
  | none => .next (s.reply .error [])
  | some x =>
    match s.keptEntry x entry with
    | some e => .next (s.reply .meterRead e.words)
    | none => match s.sec.sealed.find? (sealedIs x entry) with
      | some e => .next ((s.modSec (fun y => { y with sealed := y.sealed.erase e })).reply .meterRead (e.2.words ++ [Config.digest (5 :: e.2.words)]))
      | none => .next (s.reply .error [])

/-- MDATA (R477): a read with index 18 marks the sealed report of the partition fetched. -/
def execMdata (s : State) : Result :=
  if s.sec.midx % 32 ≠ 18 then .next s
  else match s.sec.sealed.find? (fun e => e.1 == bitsOf s.sec.midx 8 3) with
    | some e => .next (s.modSec (fun y => { y with sealed := y.sealed.erase e }))
    | none => .next s

/-- CHAIN_TICK (R476): every 1 s of timebase. -/
def execChainTick (s : State) : Result := .next s.chainTick

/-! ### Debug unlock -/

/-- DBGNONCE (R468): a read makes a new nonce. -/
def execDbgnonce (s : State) : Result :=
  let (s, v) := s.secret
  .next (s.modSec (fun x => { x with nonce := some (v % 2 ^ 256, s.elapsed) }))

/-- NONCE_EXPIRY (R468). -/
def execNonceExpiry (s : State) : Result :=
  match s.sec.nonce with
  | some (_, t) => .next (if t + 60000000000 ≤ s.elapsed then s.modSec (fun x => { x with nonce := none }) else s)
  | none => .next s

/-- The digest of this device's identity public key, as the model's free value. -/
def deviceDigest : Nat := Config.digest [6] % 2 ^ 384

/-- The first check of Table 18-3 that a token fails; 0 for none. -/
def State.tokenCheck (s : State) (bs : List Byte) : Nat :=
  let v := leNat bs
  let live := match s.sec.nonce with
    | some (n, t) => decide (s.elapsed < t + 60000000000) && bitsOf v 416 256 == n
    | none => false
  if bitsOf v 0 32 ≠ 0x44424754 then 1
  else if bitsOf v 32 384 ≠ deviceDigest then 2
  else if !live then 3
  else if (bitsOf v 672 224 &&& Config.debugReserved) ≠ 0 then 4
  else if !Config.signatureOk (bs.take 112) (bs.drop 112) then 5
  else 0

/-- A new session on every link (R462). -/
def State.rekeyLinks (s : State) : State :=
  s.modSec (fun x => { x with links := (upto 24).map (fun i => (i, { session := (mgetD x.links i { session := 0, fails := 0, failed := false }).session + 1, fails := 0, failed := false })) })

/-- Every queue stops at its packet boundary (R469): a step that is blocked on a mailbox word has changed nothing (R457), and gives up. -/
def State.stopQueues (s : State) : State :=
  let stop := fun (q : Queue) => { q with halted := true, block := if q.block = some .mailbox then none else q.block }
  { s with cmd := { s.cmd with queues := s.cmd.queues.map (fun e => (e.1, stop e.2)), mboxQ := s.cmd.mboxQ.filter (fun w => match w.op with
    | .background _ _ _ => true
    | _ => false) } }

/-- An accepted debug unlock (R469): a partition's derate intervals close at its sealed entry (R490), which takes a tick of this time (R482). -/
def State.unlock (s : State) : State :=
  let s := s.stopQueues.chainTick
  let s := (mkeys s.ctxs).foldl (fun (s : State) c => s.discardCtxWork c) s
  let s := (mkeys s.parts).foldl (fun (s : State) p =>
    ((upto 16).foldl (fun (s : State) stack => s.closeDerate stack p) s).chainAppend p (chainSealFlag + chainDebugFlag)) s
  let s := s.modSec (fun x => { x with keys := x.keys.map (fun k => (k.1, { k.2 with state := .zero })), sessions := [], debug := true })
  s.rekeyLinks.extend5 [1]

/-- DBGTOK (R468, R469): an attempt, which uses the nonce. -/
def execDbgtok (addr : Nat) (s : State) : Result :=
  let r := s.tokenCheck (readBytes s.hostMem addr 208)
  let s := s.modSec (fun x => { x with dbgstat := r, nonce := none })
  .next (if r = 0 then s.unlock else s)

/-! ### Links -/

/-- A link takes a new session, which a failed one cannot (R462). -/
def State.rekeyLink (s : State) (link : Nat) : State :=
  let l := mgetD s.sec.links link { session := 0, fails := 0, failed := false }
  if l.failed then s else s.modSec (fun x => { x with links := mset x.links link { session := l.session + 1, fails := 0, failed := false } })

/-- LINK_TAG_FAILURE (R462): LNKTAG counts it; the fourth failure of one group brings a new session. -/
def execLinkTagFailure (link : Nat) (s : State) : Result :=
  if 24 ≤ link then .next s
  else
    let l := mgetD s.sec.links link { session := 0, fails := 0, failed := false }
    let s := s.modSec (fun x => { x with lnktag := x.lnktag + 1, links := mset x.links link { l with fails := l.fails + 1 } })
    .next (if 4 ≤ l.fails + 1 then s.rekeyLink link else s)

/-- LINK_REKEY (R462): the flit-group counter has reached its end. -/
def execLinkRekey (link : Nat) (s : State) : Result := .next (if 24 ≤ link then s else s.rekeyLink link)

/-! ### Firmware updates -/

/-- Does a boot accept a security version (R472, R473)? -/
def Security.accepts (x : Security) (sv : Nat) : Bool := decide (x.fuses ≤ sv) && x.recovery.all (fun c => decide (c + 2 ≤ sv))

/-- Partitions in RUN: those that hold a protected context (R470). -/
def State.runMask (s : State) : Nat := maskOf ((mkeys s.parts).filter (fun p => s.ctxs.any (fun x => x.2.part == p && x.2.prot)))

/-- UPDSTAGE (R470): an image is staged, and the standby, which gives up the one that it holds, begins to boot it; or it is refused. -/
def execUpdstage (win : Nat) (img : ImageInfo) (s : State) : Result :=
  if s.cmd.update.isSome ∨ !img.signed ∨ !s.sec.accepts img.sv ∨ 64 < img.sv ∨ win = 0 ∨ 86400 < win then .next s
  else
    let u : Update := { state := .boot, img := img, win := win, staged := s.elapsed, run := 0, owing := 0, tries := 0, since := s.elapsed }
    .next ((({ s with cmd := { s.cmd with update := some u } } : State).setStandby none).extend4 [0, img.digest])

/-- May a staged update be withdrawn: it is not in QUIESCE (Table 17-10)? -/
def Update.loose (u : Update) : Bool := u.state == .boot || u.state == .ready

/-- UPDWDR (R470). -/
def execUpdwdr (s : State) : Result :=
  match s.cmd.update with
  | some u => .next (if u.loose then s.withdrawUpdate u else s)
  | none => .next s

/-- UPDWIN_EXPIRY (R470): the window has passed. -/
def execUpdwinExpiry (s : State) : Result :=
  match s.cmd.update with
  | some u => .next (if u.loose = true ∧ u.staged + u.win * 1000000000 ≤ s.elapsed then s.withdrawUpdate u else s)
  | none => .next s

def State.setUpdate (s : State) (u : Update) : State := { s with cmd := { s.cmd with update := some u } }

/-- Activation (R470): READY to QUIESCE. -/
def State.activate (s : State) (u : Update) : State := (s.setUpdate { u with state := .quiesce, owing := 0, since := s.elapsed }).extend4 [1, u.img.digest]

/-- May an image import the state table (R455)?  With no complex running, there is none. -/
def State.tableFits (s : State) (img : ImageInfo) : Bool := match s.cmd.table with
  | some t => t.major == img.major && decide (t.minor ≤ img.minor)
  | none => true

/-- IMAGE_BOOT (R455, R456, R471): the standby has verified and booted the image, or not. -/
def execImageBoot (ok : Bool) (s : State) : Result :=
  match s.cmd.update with
  | none => .next s
  | some u =>
    if u.state ≠ .boot then .next s
    else
      if !ok || !s.tableFits u.img then .next (s.withdrawUpdate u).updateNotices
      else
        let run := s.runMask
        let s := s.setStandby (some u.img)
        let u := { u with state := .ready, run := run, owing := run, since := s.elapsed }
        .next (if run = 0 then s.activate u else s.setUpdate u)

/-- UPDATE_ACK (R470): the last one that is owed activates the update.  After a debug unlock none can arrive (R482). -/
def execUpdateAck (sess digest : Nat) (s : State) : Result :=
  match s.session sess, s.cmd.update with
  | some x, some u =>
    if s.sec.debug = true ∨ (s.sessionPart x).isNone = true ∨ u.state ≠ .ready ∨ digest ≠ u.img.digest ∨ u.tries ≠ 0 ∨ hasBit u.owing x.part = false ∨ u.staged + u.win * 1000000000 ≤ s.elapsed then .next (s.reply .error [])
    else
      let u := { u with owing := u.owing - 2 ^ x.part }
      .next ((if u.owing = 0 then s.activate u else s.setUpdate u).reply .updateAck [])
  | _, _ => .next (s.reply .error [])

/-- UPDATE_NAK (R470): one of any partition in RUN withdraws the update, whatever digest it carries. -/
def execUpdateNak (sess _digest : Nat) (s : State) : Result :=
  match s.session sess, s.cmd.update with
  | some x, some u =>
    if (s.sessionPart x).isNone = true ∨ u.state ≠ .ready ∨ hasBit u.run x.part = false then .next (s.reply .error [])
    else .next ((s.withdrawUpdate u).reply .updateNak [])
  | _, _ => .next (s.reply .error [])

/-- Is every queue at a packet boundary (R457)? -/
def State.atBoundary (s : State) : Bool := s.cmd.queues.all (fun e => e.2.block != some .working)

/-- A complex imports the state table (R455): sections that its image does not know are refused, and sections that it lacks take their creation
values.  What the spec lists as the table's content are sections 0 to 4. -/
def State.importTable (s : State) (img : ImageInfo) : State :=
  let has := fun (n : Nat) => img.sections.contains n && (match s.cmd.table with
    | some t => t.sections.contains n
    | none => false)
  let s : State := if has 4 then s else { s with ctxs := [], cmd := { s.cmd with queues := [] } }
  let s : State := if has 0 then s else { s with cmd := { s.cmd with queues := s.cmd.queues.map (fun e => (e.1, { e.2 with
    qdb := 0, qrd := 0, eqrd := 0, eqwr := 0, eqlost := 0, halted := false, ringFault := false, packet := none, block := none })) } }
  let s : State := if has 1 then s
    else { s with recQ := [], recOpen := [], cmd := { s.cmd with queues := s.cmd.queues.map (fun e => (e.1, { e.2 with pending := none })) } }
  let s : State := if has 2 then s else { s with cmd := { s.cmd with mboxQ := s.cmd.mboxQ.filter (fun w => match w.op with
    | .background _ _ _ => false
    | _ => true) } }
  if has 3 then s
  else { s with parts := s.parts.map (fun e => (e.1, Partition.created e.2.pinst)), fab := { s.fab with fltab := [], wintab := [], domain := [] } }

/-- SWITCH ends (R456): the standby has imported the table, the roles exchange, and what the hub latched is processed (R457). -/
def State.exchange (s : State) (u : Update) : State :=
  let old := s.cmd.active
  let s := s.importTable u.img
  ({ s with cmd := { s.cmd with update := none, active := 1 - old, table := some (imageTable u.img), switched := some (old, s.elapsed) } } : State).unlatch

/-- QUIESCE_COMPLETE (R456, R457): with every queue at a packet boundary the active complex writes the table and SWITCH begins; the import,
within 20 µs, ends it, and the roles of the complexes are exchanged. -/
def execQuiesceComplete (s : State) : Result :=
  match s.cmd.update with
  | none => .next s
  | some u =>
    if u.state = .switch then .next (s.exchange u)
    else if u.state ≠ .quiesce ∨ !s.atBoundary ∨ u.since + 500000 ≤ s.elapsed then .next s
    else .next (({ s with cmd := { s.cmd with table := s.activeImage.map imageTable } } : State).setUpdate { u with state := .switch, since := s.elapsed })

/-- Is the import of SWITCH due at the latest now (R456)? -/
def State.switchDue (s : State) : Bool := match s.cmd.update with
  | some u => u.state == .switch && decide (u.since + 20000 ≤ s.elapsed)
  | none => false

/-- QUIESCE_TIMEOUT (R456): 500 µs have passed.  What was latched is processed by the complex that stays active (R457). -/
def execQuiesceTimeout (s : State) : Result :=
  match s.cmd.update with
  | none => .next s
  | some u =>
    if u.state = .quiesce ∧ u.since + 500000 ≤ s.elapsed then .next (s.setUpdate { u with state := .ready, tries := u.tries + 1, since := s.elapsed }).unlatch else .next s

/-- QUIESCE_RETRY (R456): 10 ms after a failure the quiesce is tried again; after the 8th the update is withdrawn. -/
def execQuiesceRetry (s : State) : Result :=
  match s.cmd.update with
  | none => .next s
  | some u =>
    if u.state ≠ .ready ∨ u.tries = 0 then .next s
    else if 8 ≤ u.tries then .next (s.withdrawUpdate u)
    else if u.since + 10000000 ≤ s.elapsed then .next (s.setUpdate { u with state := .quiesce, since := s.elapsed })
    else .next s

/-- WATCHDOG_MISS (R456): within 1 s of SWITCH the former active complex imports the table and resumes, whatever its minor version
(assumption 103). -/
def execWatchdogMiss (s : State) : Result :=
  match s.cmd.switched with
  | some (old, t) =>
    if s.elapsed < t + 1000000000 then
      match (s.cmd.images[old]?).join with
      | some i =>
        let s := s.importTable i
        .next { s with cmd := { s.cmd with active := old, table := some (imageTable i), switched := none } }
      | none => .next s
    else .next s
  | none => .next s

/-- FUSE_ADVANCE (R472): one pair of fuses of the anti-rollback counter is blown, as far as its fuses verify. -/
def execFuseAdvance (first second : Bool) (s : State) : Result :=
  match s.cmd.switched, s.activeImage with
  | some (_, t), some i =>
    if s.elapsed < t + 1000000000 ∨ i.sv ≤ s.sec.fuses ∨ s.sec.half = true ∨ !first then .next s
    else if !second then .next (s.modSec (fun x => { x with half := true }))
    else .next ((s.modSec (fun x => { x with fuses := x.fuses + 1 })).extend5 [0, s.sec.fuses + 1])
  | _, _ => .next s

/-! ### Reads -/

/-- The state of an update as SECSTAT shows it (Table 18-5). -/
def State.updateCode (s : State) : Nat := match s.cmd.update with
  | some u => u.state.ctorIdx
  | none => 0

/-- A read of the security register page (Table 18-5). -/
def State.readSecurity (s : State) (off : Nat) : Nat :=
  let x := s.sec
  let b := fun (v : Bool) (k : Nat) => if v then 2 ^ k else 0
  if off = 0x000 then x.fuses % 256 * 2 ^ 56 + b (!x.recovery.isEmpty) 9 + b x.halfFound 8 + s.updateCode * 16 + b x.debug 0
  else if off = 0x010 then x.kstat
  else if 0x040 ≤ off ∧ off < 0x080 ∧ off % 8 = 0 then (match mget? s.parts ((off - 0x040) / 8) with
    | some p => p.lgen
    | none => 0)
  else if 0x080 ≤ off ∧ off ≤ 0x098 ∧ off % 8 = 0 then (match x.nonce with
    | some (n, _) => bitsOf n (8 * (off - 0x080)) 64
    | none => 0)
  else if off = 0x0A8 then x.dbgstat
  else if off = 0x0D0 then (match s.cmd.update with
    | some u => u.owing * 256 + u.run
    | none => 0)
  else if off = 0x100 then x.midx
  else if off = 0x108 then (if x.midx % 32 < 18 then mgetD s.meters (64 * bitsOf x.midx 8 3 + x.midx % 32) 0 else 0)
  else 0

end Sys2Proof.Machine
end

