-- ==== Sys2Proof/Machine/PowerClock.lean ====
section
/-! DEFINITION. The power and clock controller, the end of a core cycle, host accesses to device memory, and reset, one meaning for each
(19_power_clock_controller.md R483 to R495, 06_sequencer.md R152 to R155, R186, 05_memory_model.md R132). -/

namespace Sys2Proof.Machine

/-! ### Snapshots -/

/-- SNAP (R186): privileged; it fires the snapshot trigger. -/
def execSnap (tag : BitVec 9) (s : State) : Result :=
  withIss s (fun c =>
    if c.hel.isSome then s.decodeTrap c .illegalOp
    else if !s.privileged c then s.decodeTrap c .privOp
    else (s.trigger .snap tag.toNat (some c.core)).finish c [])

/-- SNAPTRIG (R491). -/
def execSnaptrig (tag : Nat) (s : State) : Result := .next (s.trigger .host (tag % 2 ^ 9) none)

/-- SNAP_THRESHOLD (R491): the selected meter of the selected partition reaches SNAPTHR. -/
def execSnapThreshold (s : State) : Result :=
  .next (if s.pwr.snapHit || decide (s.snapMeter < s.pwr.snapthr) || decide (18 ≤ bitsOf s.pwr.snapctl 8 5) || !hasBit s.pwr.snapctl 2 then s
    else ({ s with pwr := { s.pwr with snapHit := true } } : State).trigger .meter 0 none)

/-- SNAPACK (R492). -/
def execSnapack (s : State) : Result := .next { s with pwr := { s.pwr with snap := none } }

/-! ### Power and leases -/

/-- POWER_MEASURE (R486): every 100 µs the module scale follows the measured power; within 100 µs of the last measurement there is none. -/
def execPowerMeasure (watts : Nat) (s : State) : Result :=
  if s.elapsed < s.pwr.measured + 100000 then .next s
  else
    let p := s.pwr
    let scale := if p.cap < watts then Nat.max 4096 (p.scale - 4096) else if watts * 100 < p.cap * 95 then Nat.min 65536 (p.scale + 4096) else p.scale
    .next { s with pwr := { p with measured := s.elapsed, watts := watts % 2 ^ 16, scale := scale } }

/-- LEASE (R487, R488): IIU drawn from the partition's pool are added to the context's lease; 0 returns it; more than the pool holds is
refused. -/
def execLease (ctx iiu : Nat) (s : State) : Result :=
  let n := iiu % 2 ^ 48
  match mget? s.ctxs ctx with
  | none => .next s
  | some x =>
    if n = 0 then .next ((s.modCtx ctx (fun x => { x with leaseRefused := false })).returnLease ctx)
    else if s.pool x.part < n then .next (s.modCtx ctx (fun x => { x with leaseRefused := true }))
    else .next ((s.modCtx ctx (fun x => { x with lease := some (x.lease.getD 0 + n), leaseRefused := false })).setPool x.part (s.pool x.part - n))

/-- Has a lease reached zero, and is the cycle in which it did over on every core with warps of the context (R487, R494)? -/
def State.leaseOver (s : State) (ctx : Nat) (x : Context) : Bool :=
  x.lease == some 0 && s.cores.all (fun k => !k.2.warps.any (fun w => w.2.ctx == ctx) || decide (x.leaseAt < k.2.start (36 * s.elapsed)))

/-- LEASE_END (R487): at zero the lease ends, once the cycle in which it got there is over (R494). -/
def execLeaseEnd (ctx : Nat) (s : State) : Result :=
  match mget? s.ctxs ctx with
  | some x => .next (if s.leaseOver ctx x then s.modCtx ctx (fun x => { x with lease := none }) else s)
  | none => .next s

/-! ### Thermal derating -/

/-- The level of a stack that was at a level, at a temperature (R489). -/
def nextLevel (level : Nat) (celsius : Int) : Nat :=
  if 95 ≤ celsius ∨ (level = 2 ∧ 90 < celsius) then 2 else if 85 ≤ celsius ∨ (1 ≤ level ∧ 80 < celsius) then 1 else 0

/-- A stack's level changes (R490): its intervals close, and new ones open for every partition that owns a slot of it. -/
def State.setLevel (s : State) (stack level : Nat) : State :=
  let ps := (s.parts.filter (fun e => e.2.ownsHbm)).map Prod.fst
  let s := (mkeys s.parts).foldl (fun (s : State) p => s.closeDerate stack p) s
  let s : State := { s with pwr := { s.pwr with derate := mput 0 s.pwr.derate stack level } }
  ps.foldl (fun (s : State) p => s.openDerate stack p) s

/-- THERMAL_REPORT (R489): every 10 µs each stack reports its temperature. -/
def execThermalReport (stack : Nat) (celsius : Int) (s : State) : Result :=
  if 16 ≤ stack ∨ s.elapsed / 10000 ≤ mgetD s.pwr.reported stack 0 then .next s
  else
    let level := mgetD s.pwr.derate stack 0
    let s : State := { s with pwr := { s.pwr with reported := mset s.pwr.reported stack (s.elapsed / 10000) } }
    .next (if nextLevel level celsius = level then s else s.setLevel stack (nextLevel level celsius))

/-! ### The core cycle -/

/-- The period of a class in units of 1/36 ns (Table 6-2). -/
def classPeriod : TimingClass → Nat
  | .c0 => 10 | .c1 => 12 | .c2 => 15 | .c3 => 20

/-- The period of the slowest class among instructions in the execute stages; the C0 period for none (R153). -/
def slowest (l : List Stage) : Nat := l.foldl (fun n st => Nat.max n (classPeriod st.cls)) 10

/-- The allowance and the withhold floor after a cycle (R483). -/
def allowanceNext (a f debit : Int) (rate len : Nat) : Int × Int :=
  let a := min 8192 (a + rate * len - debit)
  (a, if a < 1024 then min 8 (f + 1) else if 2048 ≤ a then max 0 (f - 1) else f)

/-- One cycle of a warp (R154, R155): resident cycles and tax. -/
def Warp.cycle (w : Warp) (len : Nat) (mine : List Stage) : Warp :=
  { w with cycles := (w.cycles + 1) % 2 ^ 64, tax := if mine.isEmpty then w.tax else w.tax + (len - slowest mine),
           splits := w.splits.map (fun e => (e.1, { e.2 with age := e.2.age + 1 })) }

/-- The stages, the warps and the allowance of a core at the end of a cycle (R150, R153 to R155, R483), after whatever cycles it has missed. -/
def Core.cycle (k : Core) (rate now : Nat) : Core :=
  let k := k.idle rate (36 * now)
  let len := slowest k.stages
  let (a, f) := allowanceNext k.allow k.floor k.debit rate len
  { k with
    warps := k.warps.map (fun x => (x.1, x.2.cycle len (k.stages.filter (fun st => st.slot == x.1)))),
    prickings := k.prickings.map (fun p => (p.1, { p.2 with helpers := p.2.helpers.map (fun h => (h.1, { h.2 with age := h.2.age + 1 })) })),
    stages := (k.stages.map (fun (st : Stage) => { st with left := st.left - 1 })).filter (fun st => st.left != 0),
    cooling := (k.cooling.filter (fun x => decide (1 < x.left))).map (fun x => { x with left := x.left - 1 }), allow := a, floor := f, debit := 0,
    clock := k.clock + len }

/-- Predicates whose writes leave the execute stages with this cycle (R28): slot and predicate. -/
def Core.predsWritten (k : Core) : List (Nat × Nat) :=
  let gone := k.stages.filter (fun st => decide (st.left ≤ 1))
  let stay := k.stages.filter (fun st => !decide (st.left ≤ 1))
  gone.flatMap (fun st => (st.preds.filter (fun p => !stay.any (fun x => x.slot == st.slot && x.preds.contains p))).map (fun p => (st.slot, p)))

/-- The window statistics of the warps of a core after a cycle (Table 16-5, R485). -/
def State.windowCycle (s : State) (core : Nat) (k : Core) : State :=
  let len := slowest k.stages
  k.warps.foldl (fun (s : State) x =>
    let key := 8 * x.2.wg + plotOf core
    let mine := k.stages.filter (fun st => st.slot == x.1)
    let tax := if mine.isEmpty then 0 else len - slowest mine
    let whld := if s.withheld.contains (4 * core + x.1) then 1 else 0
    if tax = 0 ∧ whld = 0 then s
    else
      let v := mgetD s.pol.now key { iiu := 0, whld := 0, tax := 0 }
      { s with pol := { s.pol with now := mset s.pol.now key { v with whld := v.whld + whld, tax := v.tax + tax } } }) s

/-- CORE_CYCLE (R152 to R155, R483, R485): the end of a core cycle, at which leases that have reached zero end (R494). -/
def execCoreCycle (core : Nat) (s : State) : Result :=
  let k := s.core core
  let n := (s.withheld.filter (fun x => x / 4 == core)).length
  let s := s.windowCycle core k
  let s := if n = 0 then s else s.modPlot (plotOf core) (fun p => { p with withheld := p.withheld + n })
  let k' := k.cycle (s.rate core) s.elapsed
  let s := ({ s.setCore core k' with withheld := s.withheld.filter (fun x => x / 4 != core) } : State).timeTo (Nat.max s.elapsed (k'.clock / 36))
  let s : State := { s with ctxs := s.ctxs.map (fun x => (x.1, if s.leaseOver x.1 x.2 then { x.2 with lease := none } else x.2)) }
  .next (k.predsWritten.foldl (fun (s : State) e => s.resolveGuard core e.1 e.2) s)

/-! ### The host port -/

/-- HOST_ACCESS (R113, R132): the host is one agent; a read that reaches a line that a core holds is preceded by a forced publish. -/
def execHostAccess (op : HostOp) (s : State) : Result :=
  match op with
  | .read _ line => .next (s.publishOutside (s.partOfPa (line * 128)) line)
  | .write key pa bytes =>
    if Config.hbmBytes < pa + bytes.length then .next s else .next (s.performWrite 0 .hbm key pa bytes)
  | .writeHost pa bytes => .next (s.performWrite 0 .host 0 pa bytes)

/-! ### Reset and power -/

/-- The fuse field after the boot ROM has read it (R473): a half pair is completed, or RECOVERY is entered.  The half pairs of a RECOVERY, which
already count, are tried again at each boot, all with one outcome. -/
def Security.bootFuses (x : Security) (blown : Bool) : Security :=
  let halves := x.recovery ++ (if x.half then [x.fuses] else [])
  { x with fuses := x.fuses + (if x.half then 1 else 0), half := false, recovery := if blown then [] else halves }

/-- What lasts through reset and loss of power: the fuses, the store's versions and their publishes, the firmware of the active
complex, the host's memory, and what the model itself keeps (assumption 30). -/
def State.lasting (s : State) : State :=
  let old := s.sec
  let r := State.reset
  let img := s.activeImage
  { r with
    hostMem := s.hostMem, weights := s.weights.filter (fun w => w.v.hbm.isNone), wepoch := s.wepoch, tier := s.tier, defects := s.defects,
    agenda := s.agenda, fresh := s.fresh, nextId := s.nextId,
    cmd := { r.cmd with images := [img, img], table := img.map imageTable },
    sec := { r.sec with fuses := old.fuses, half := old.half, recovery := old.recovery, pinst := old.pinst, links := old.links } }

/-- MODULE_RESET (R473, R495). -/
def execModuleReset (blown : Bool) (s : State) : Result :=
  let t := s.lasting
  let x := t.sec.bootFuses blown
  let t : State := { t with sec := { x with halfFound := t.sec.half || !t.sec.recovery.isEmpty } }
  let ok := match t.activeImage with
    | some i => i.signed && x.accepts i.sv
    | none => false
  let t : State := if ok then t else { t with cmd := { t.cmd with images := [none, none], table := none } }
  let t := if t.sec.halfFound && blown then t.extend5 [0, x.fuses] else t
  .next t.rekeyLinks

/-- POWER_LOSS (R473): everything but what lasts is gone, a half pair of fuses among what lasts. -/
def execPowerLoss (s : State) : Result := .next s.lasting

end Sys2Proof.Machine
end

