-- ==== Sys2Proof/Machine/Dispatch.lean ====
section
/-! DEFINITION. exec: one arm for each constructor of Instr. -/

namespace Sys2Proof.Machine

/-- What an instruction or machine event does in a state. -/
def exec (i : Instr) (s : State) : Host.Outcome State Fault Refusal :=
  match i with
  | .brp f => Sys2Proof.Machine.execBrp f s
  | .br off => Sys2Proof.Machine.execBr off s
  | .call f => Sys2Proof.Machine.execCall f s
  | .nop => Sys2Proof.Machine.execNop s
  | .yield => Sys2Proof.Machine.execYield s
  | .bkpt code => Sys2Proof.Machine.execBkpt code s
  | .trap code g => Sys2Proof.Machine.execTrap code g s
  | .rft => Sys2Proof.Machine.execRft s
  | .exit g => Sys2Proof.Machine.execExit g s
  | .ret => Sys2Proof.Machine.execRet s
  | .reconv => Sys2Proof.Machine.execReconv s
  | .bri a => Sys2Proof.Machine.execBri a s
  | .calli a => Sys2Proof.Machine.execCalli a s
  | .guard p => Sys2Proof.Machine.execGuard p s
  | .guardn p => Sys2Proof.Machine.execGuardn p s
  | .elect p g => Sys2Proof.Machine.execElect p g s
  | .marm a k => Sys2Proof.Machine.execMarm a k s
  | .mwait d t => Sys2Proof.Machine.execMwait d t s
  | .fenceb => Sys2Proof.Machine.execFenceb s
  | .waitb a n => Sys2Proof.Machine.execWaitb a n s
  | .wbase a n => Sys2Proof.Machine.execWbase a n s
  | .ixset a k g u => Sys2Proof.Machine.execIxset a k g u s
  | .ixadd a k m g u => Sys2Proof.Machine.execIxadd a k m g u s
  | .fmt a e r t => Sys2Proof.Machine.execFmt a e r t s
  | .wrsr a r g u => Sys2Proof.Machine.execWrsr a r g u s
  | .classHint c n => Sys2Proof.Machine.execClassHint c n s
  | .sclr => Sys2Proof.Machine.execSclr s
  | .snap tag => Sys2Proof.Machine.execSnap tag s
  | .pand f => Sys2Proof.Machine.execPand f s
  | .por f => Sys2Proof.Machine.execPor f s
  | .pxor f => Sys2Proof.Machine.execPxor f s
  | .pnot f => Sys2Proof.Machine.execPnot f s
  | .pmov f => Sys2Proof.Machine.execPmov f s
  | .waitc c l t m => Sys2Proof.Machine.execWaitc c l t m s
  | .rdsr d r g u => Sys2Proof.Machine.execRdsr d r g u s
  | .add f => Sys2Proof.Machine.execAdd f s
  | .sub f => Sys2Proof.Machine.execSub f s
  | .addc f => Sys2Proof.Machine.execAddc f s
  | .subb f => Sys2Proof.Machine.execSubb f s
  | .adds f => Sys2Proof.Machine.execAdds f s
  | .subs f => Sys2Proof.Machine.execSubs f s
  | .addsu f => Sys2Proof.Machine.execAddsu f s
  | .subsu f => Sys2Proof.Machine.execSubsu f s
  | .mul f => Sys2Proof.Machine.execMul f s
  | .mulh f => Sys2Proof.Machine.execMulh f s
  | .mulhu f => Sys2Proof.Machine.execMulhu f s
  | .mad f => Sys2Proof.Machine.execMad f s
  | .divs f => Sys2Proof.Machine.execDivs f s
  | .divu f => Sys2Proof.Machine.execDivu f s
  | .rems f => Sys2Proof.Machine.execRems f s
  | .remu f => Sys2Proof.Machine.execRemu f s
  | .min f => Sys2Proof.Machine.execMin f s
  | .max f => Sys2Proof.Machine.execMax f s
  | .minu f => Sys2Proof.Machine.execMinu f s
  | .maxu f => Sys2Proof.Machine.execMaxu f s
  | .and f => Sys2Proof.Machine.execAnd f s
  | .or f => Sys2Proof.Machine.execOr f s
  | .xor f => Sys2Proof.Machine.execXor f s
  | .sel f => Sys2Proof.Machine.execSel f s
  | .shl f => Sys2Proof.Machine.execShl f s
  | .shr f => Sys2Proof.Machine.execShr f s
  | .shra f => Sys2Proof.Machine.execShra f s
  | .rol f => Sys2Proof.Machine.execRol f s
  | .lea f => Sys2Proof.Machine.execLea f s
  | .mov f => Sys2Proof.Machine.execMov f s
  | .not f => Sys2Proof.Machine.execNot f s
  | .neg f => Sys2Proof.Machine.execNeg f s
  | .abs f => Sys2Proof.Machine.execAbs f s
  | .negs f => Sys2Proof.Machine.execNegs f s
  | .abss f => Sys2Proof.Machine.execAbss f s
  | .clz f => Sys2Proof.Machine.execClz f s
  | .popc f => Sys2Proof.Machine.execPopc f s
  | .brev f => Sys2Proof.Machine.execBrev f s
  | .setp c f => Sys2Proof.Machine.execSetp c f s
  | .addi f => Sys2Proof.Machine.execAddi f s
  | .andi f => Sys2Proof.Machine.execAndi f s
  | .ori f => Sys2Proof.Machine.execOri f s
  | .xori f => Sys2Proof.Machine.execXori f s
  | .shli f => Sys2Proof.Machine.execShli f s
  | .shri f => Sys2Proof.Machine.execShri f s
  | .shrai f => Sys2Proof.Machine.execShrai f s
  | .movl f => Sys2Proof.Machine.execMovl f s
  | .movh f => Sys2Proof.Machine.execMovh f s
  | .fadd f => Sys2Proof.Machine.execFadd f s
  | .fsub f => Sys2Proof.Machine.execFsub f s
  | .fmul f => Sys2Proof.Machine.execFmul f s
  | .ffma f => Sys2Proof.Machine.execFfma f s
  | .fmin f => Sys2Proof.Machine.execFmin f s
  | .fmax f => Sys2Proof.Machine.execFmax f s
  | .fdiv f => Sys2Proof.Machine.execFdiv f s
  | .frcp f => Sys2Proof.Machine.execFrcp f s
  | .frsq f => Sys2Proof.Machine.execFrsq f s
  | .fsqrt f => Sys2Proof.Machine.execFsqrt f s
  | .fexp2 f => Sys2Proof.Machine.execFexp2 f s
  | .flog2 f => Sys2Proof.Machine.execFlog2 f s
  | .fclass f => Sys2Proof.Machine.execFclass f s
  | .dadd f => Sys2Proof.Machine.execDadd f s
  | .dmul f => Sys2Proof.Machine.execDmul f s
  | .dfma f => Sys2Proof.Machine.execDfma f s
  | .fsetp c f => Sys2Proof.Machine.execFsetp c f s
  | .dsetp c f => Sys2Proof.Machine.execDsetp c f s
  | .hadd2 f => Sys2Proof.Machine.execHadd2 f s
  | .hmul2 f => Sys2Proof.Machine.execHmul2 f s
  | .hfma2 f => Sys2Proof.Machine.execHfma2 f s
  | .hadd2Bf f => Sys2Proof.Machine.execHadd2Bf f s
  | .hmul2Bf f => Sys2Proof.Machine.execHmul2Bf f s
  | .hfma2Bf f => Sys2Proof.Machine.execHfma2Bf f s
  | .cvt fn f => Sys2Proof.Machine.execCvt fn f s
  | .qnt f => Sys2Proof.Machine.execQnt f s
  | .dqnt f => Sys2Proof.Machine.execDqnt f s
  | .pack f => Sys2Proof.Machine.execPack f s
  | .unpk k e f => Sys2Proof.Machine.execUnpk k e f s
  | .shfl f => Sys2Proof.Machine.execShfl f s
  | .shflu f => Sys2Proof.Machine.execShflu f s
  | .shfld f => Sys2Proof.Machine.execShfld f s
  | .shflx f => Sys2Proof.Machine.execShflx f s
  | .bcast f => Sys2Proof.Machine.execBcast f s
  | .voteAll f => Sys2Proof.Machine.execVoteAll f s
  | .voteAny f => Sys2Proof.Machine.execVoteAny f s
  | .voteBallot f => Sys2Proof.Machine.execVoteBallot f s
  | .redx op f => Sys2Proof.Machine.execRedx op f s
  | .matchMask f => Sys2Proof.Machine.execMatchMask f s
  | .lnch x a p g => Sys2Proof.Machine.execLnch x a p g s
  | .join a g => Sys2Proof.Machine.execJoin a g s
  | .lqw g => Sys2Proof.Machine.execLqw g s
  | .flnch x a b g => Sys2Proof.Machine.execFlnch x a b g s
  | .garr x a g => Sys2Proof.Machine.execGarr x a g s
  | .gwait x a b g => Sys2Proof.Machine.execGwait x a b g s
  | .gmem a b g => Sys2Proof.Machine.execGmem a b g s
  | .fwr x a g u => Sys2Proof.Machine.execFwr x a g u s
  | .frd x a g u => Sys2Proof.Machine.execFrd x a g u s
  | .fsig a b g u => Sys2Proof.Machine.execFsig a b g u s
  | .fatom x a b g u => Sys2Proof.Machine.execFatom x a b g u s
  | .ld w f => Sys2Proof.Machine.execLd w f s
  | .ldn k f => Sys2Proof.Machine.execLdn k f s
  | .st w f => Sys2Proof.Machine.execSt w f s
  | .stn k f => Sys2Proof.Machine.execStn k f s
  | .lda w sc f => Sys2Proof.Machine.execLda w sc f s
  | .stl w sc f => Sys2Proof.Machine.execStl w sc f s
  | .lds w f => Sys2Proof.Machine.execLds w f s
  | .sts w f => Sys2Proof.Machine.execSts w f s
  | .ldp w f => Sys2Proof.Machine.execLdp w f s
  | .stp w f => Sys2Proof.Machine.execStp w f s
  | .atomAdd f => Sys2Proof.Machine.execAtomAdd f s
  | .atomIncw f => Sys2Proof.Machine.execAtomIncw f s
  | .atomExch f => Sys2Proof.Machine.execAtomExch f s
  | .atomCas f => Sys2Proof.Machine.execAtomCas f s
  | .atomMin f => Sys2Proof.Machine.execAtomMin f s
  | .atomMax f => Sys2Proof.Machine.execAtomMax f s
  | .atomMinu f => Sys2Proof.Machine.execAtomMinu f s
  | .atomMaxu f => Sys2Proof.Machine.execAtomMaxu f s
  | .atomAnd f => Sys2Proof.Machine.execAtomAnd f s
  | .atomOr f => Sys2Proof.Machine.execAtomOr f s
  | .atomXor f => Sys2Proof.Machine.execAtomXor f s
  | .redAdd f => Sys2Proof.Machine.execRedAdd f s
  | .redIncw f => Sys2Proof.Machine.execRedIncw f s
  | .redMin f => Sys2Proof.Machine.execRedMin f s
  | .redMax f => Sys2Proof.Machine.execRedMax f s
  | .redMinu f => Sys2Proof.Machine.execRedMinu f s
  | .redMaxu f => Sys2Proof.Machine.execRedMaxu f s
  | .redAnd f => Sys2Proof.Machine.execRedAnd f s
  | .redOr f => Sys2Proof.Machine.execRedOr f s
  | .redXor f => Sys2Proof.Machine.execRedXor f s
  | .cpa16Bar x a k g u => Sys2Proof.Machine.execCpa16Bar x a k g u s
  | .cpa16Nb x a g u => Sys2Proof.Machine.execCpa16Nb x a g u s
  | .fence sc => Sys2Proof.Machine.execFence sc s
  | .fenceX pa pb sc => Sys2Proof.Machine.execFenceX pa pb sc s
  | .cinv => Sys2Proof.Machine.execCinv s
  | .cinvAddr a => Sys2Proof.Machine.execCinvAddr a s
  | .cwbWcb => Sys2Proof.Machine.execCwbWcb s
  | .cwbPriv => Sys2Proof.Machine.execCwbPriv s
  | .prefL2 a g u => Sys2Proof.Machine.execPrefL2 a g u s
  | .prefL1 a g u => Sys2Proof.Machine.execPrefL1 a g u s
  | .cpbG2s f => Sys2Proof.Machine.execCpbG2s f s
  | .cpbS2g f => Sys2Proof.Machine.execCpbS2g f s
  | .cpbm f => Sys2Proof.Machine.execCpbm f s
  | .cpbpG2s f => Sys2Proof.Machine.execCpbpG2s f s
  | .cpbpS2s f => Sys2Proof.Machine.execCpbpS2s f s
  | .bari a k => Sys2Proof.Machine.execBari a k s
  | .bara k g => Sys2Proof.Machine.execBara k g s
  | .barw k g => Sys2Proof.Machine.execBarw k g s
  | .barc a k => Sys2Proof.Machine.execBarc a k s
  | .barq d k g => Sys2Proof.Machine.execBarq d k g s
  | .barx k => Sys2Proof.Machine.execBarx k s
  | .rcrt x a b g => Sys2Proof.Machine.execRcrt x a b g s
  | .rnext x p => Sys2Proof.Machine.execRnext x p s
  | .rpart32 a g => Sys2Proof.Machine.execRpart32 a g s
  | .rpart64 a g => Sys2Proof.Machine.execRpart64 a g s
  | .rjoin op x p => Sys2Proof.Machine.execRjoin op x p s
  | .rlse => Sys2Proof.Machine.execRlse s
  | .rqry x g => Sys2Proof.Machine.execRqry x g s
  | .mma k a b g => Sys2Proof.Machine.execMma k a b g s
  | .mmaZ k a b g => Sys2Proof.Machine.execMmaZ k a b g s
  | .mmap k a b g => Sys2Proof.Machine.execMmap k a b g s
  | .mmapZ k a b g => Sys2Proof.Machine.execMmapZ k a b g s
  | .mscl a b g => Sys2Proof.Machine.execMscl a b g s
  | .msclBand a g => Sys2Proof.Machine.execMsclBand a g s
  | .maepi k a g => Sys2Proof.Machine.execMaepi k a g s
  | .mard k a g => Sys2Proof.Machine.execMard k a g s
  | .mardCol k a g => Sys2Proof.Machine.execMardCol k a g s
  | .maclr k p => Sys2Proof.Machine.execMaclr k p s
  | .maclrRel k p => Sys2Proof.Machine.execMaclrRel k p s
  | .mstat d k => Sys2Proof.Machine.execMstat d k s
  | .mtest d => Sys2Proof.Machine.execMtest d s
  | .wsbind x a => Sys2Proof.Machine.execWsbind x a s
  | .wstrm x a b g => Sys2Proof.Machine.execWstrm x a b g s
  | .wsqry x a b => Sys2Proof.Machine.execWsqry x a b s
  | .wsrel a => Sys2Proof.Machine.execWsrel a s
  | .guardSlotResolve core slot p => Sys2Proof.Machine.execGuardSlotResolve core slot p s
  | .loadDataReturn core slot n => Sys2Proof.Machine.execLoadDataReturn core slot n s
  | .writePerformed core n => Sys2Proof.Machine.execWritePerformed core n s
  | .wcbAgeDrain core n => Sys2Proof.Machine.execWcbAgeDrain core n s
  | .splitRelease core slot => Sys2Proof.Machine.execSplitRelease core slot s
  | .preemptRequest grid wg => Sys2Proof.Machine.execPreemptRequest grid wg s
  | .preemptWithdraw grid wg => Sys2Proof.Machine.execPreemptWithdraw grid wg s
  | .workgroupSave grid wg => Sys2Proof.Machine.execWorkgroupSave grid wg s
  | .workgroupRestore grid wg core => Sys2Proof.Machine.execWorkgroupRestore grid wg core s
  | .mwaitTimeout core slot sp => Sys2Proof.Machine.execMwaitTimeout core slot sp s
  | .pageWalk core ctx va => Sys2Proof.Machine.execPageWalk core ctx va s
  | .pageReplay core slot sp => Sys2Proof.Machine.execPageReplay core slot sp s
  | .remoteScratchAccess n => Sys2Proof.Machine.execRemoteScratchAccess n s
  | .allocationRelease core n => Sys2Proof.Machine.execAllocationRelease core n s
  | .carveWayMove core => Sys2Proof.Machine.execCarveWayMove core s
  | .hostCompletion n ok => Sys2Proof.Machine.execHostCompletion n ok s
  | .helperCancel core pair lane => Sys2Proof.Machine.execHelperCancel core pair lane s
  | .prickingWithdraw core pair => Sys2Proof.Machine.execPrickingWithdraw core pair s
  | .copyLand core n => Sys2Proof.Machine.execCopyLand core n s
  | .multicastWrite n => Sys2Proof.Machine.execMulticastWrite n s
  | .continuationSpawn grid wg k => Sys2Proof.Machine.execContinuationSpawn grid wg k s
  | .matrixQueueHead core => Sys2Proof.Machine.execMatrixQueueHead core s
  | .matrixRetire core => Sys2Proof.Machine.execMatrixRetire core s
  | .streamLand core n => Sys2Proof.Machine.execStreamLand core n s
  | .versionErase name ver => Sys2Proof.Machine.execVersionErase name ver s
  | .workgroupEnd grid wg => Sys2Proof.Machine.execWorkgroupEnd grid wg s
  | .groupArrival n => Sys2Proof.Machine.execGroupArrival n s
  | .eftWr f => Sys2Proof.Machine.execEftWr f s
  | .eftRd f => Sys2Proof.Machine.execEftRd f s
  | .eftRdrsp f => Sys2Proof.Machine.execEftRdrsp f s
  | .eftSig f => Sys2Proof.Machine.execEftSig f s
  | .eftAtom f => Sys2Proof.Machine.execEftAtom f s
  | .eftAtomrsp f => Sys2Proof.Machine.execEftAtomrsp f s
  | .eftRefuse f => Sys2Proof.Machine.execEftRefuse f s
  | .eftLaunch f => Sys2Proof.Machine.execEftLaunch f s
  | .eftLans f => Sys2Proof.Machine.execEftLans f s
  | .eftCommit f => Sys2Proof.Machine.execEftCommit f s
  | .eftAbandon f => Sys2Proof.Machine.execEftAbandon f s
  | .eftDone f => Sys2Proof.Machine.execEftDone f s
  | .eftGarr f => Sys2Proof.Machine.execEftGarr f s
  | .eftGgen f => Sys2Proof.Machine.execEftGgen f s
  | .eftMgmt f => Sys2Proof.Machine.execEftMgmt f s
  | .eftAckonly f => Sys2Proof.Machine.execEftAckonly f s
  | .frameDrop f => Sys2Proof.Machine.execFrameDrop f s
  | .eftAckTimeout dev part => Sys2Proof.Machine.execEftAckTimeout dev part s
  | .eftRetransmit dev part => Sys2Proof.Machine.execEftRetransmit dev part s
  | .flnchTimeout n => Sys2Proof.Machine.execFlnchTimeout n s
  | .rateBucketRefill => Sys2Proof.Machine.execRateBucketRefill s
  | .remoteAccessTimeout n => Sys2Proof.Machine.execRemoteAccessTimeout n s
  | .pickCall core => Sys2Proof.Machine.execPickCall core s
  | .tickCall plot => Sys2Proof.Machine.execTickCall plot s
  | .sliceExpiry grid wg => Sys2Proof.Machine.execSliceExpiry grid wg s
  | .blockCall grid wg => Sys2Proof.Machine.execBlockCall grid wg s
  | .wakeCall grid wg => Sys2Proof.Machine.execWakeCall grid wg s
  | .migrCall grid wg => Sys2Proof.Machine.execMigrCall grid wg s
  | .nopPacket qnum => Sys2Proof.Machine.execNopPacket qnum s
  | .launch qnum => Sys2Proof.Machine.execLaunch qnum s
  | .mboxWait qnum => Sys2Proof.Machine.execMboxWait qnum s
  | .mboxSignal qnum => Sys2Proof.Machine.execMboxSignal qnum s
  | .mboxConsume part word => Sys2Proof.Machine.execMboxConsume part word s
  | .mboxProduce part word => Sys2Proof.Machine.execMboxProduce part word s
  | .backgroundProduce n => Sys2Proof.Machine.execBackgroundProduce n s
  | .policyLoad qnum => Sys2Proof.Machine.execPolicyLoad qnum s
  | .layout qnum => Sys2Proof.Machine.execLayout qnum s
  | .meplim qnum => Sys2Proof.Machine.execMeplim qnum s
  | .ctxCreate qnum => Sys2Proof.Machine.execCtxCreate qnum s
  | .ctxDestroy qnum => Sys2Proof.Machine.execCtxDestroy qnum s
  | .fltab qnum => Sys2Proof.Machine.execFltab qnum s
  | .wintab qnum => Sys2Proof.Machine.execWintab qnum s
  | .wprog qnum v => Sys2Proof.Machine.execWprog qnum v s
  | .wpub qnum => Sys2Proof.Machine.execWpub qnum s
  | .chkpt qnum hostOk => Sys2Proof.Machine.execChkpt qnum hostOk s
  | .domain qnum => Sys2Proof.Machine.execDomain qnum s
  | .slotMapSwitch => Sys2Proof.Machine.execSlotMapSwitch s
  | .clearSequence plot => Sys2Proof.Machine.execClearSequence plot s
  | .qdb ctx q value => Sys2Proof.Machine.execQdb ctx q value s
  | .eqrd ctx q value => Sys2Proof.Machine.execEqrd ctx q value s
  | .qreset ctx value => Sys2Proof.Machine.execQreset ctx value s
  | .eqansResume ctx seq => Sys2Proof.Machine.execEqansResume ctx seq s
  | .eqansSkip ctx seq => Sys2Proof.Machine.execEqansSkip ctx seq s
  | .eqansAbort ctx seq => Sys2Proof.Machine.execEqansAbort ctx seq s
  | .fsreplyRetry ctx seq => Sys2Proof.Machine.execFsreplyRetry ctx seq s
  | .fsreplyDecline ctx seq => Sys2Proof.Machine.execFsreplyDecline ctx seq s
  | .tlbinv ctx value => Sys2Proof.Machine.execTlbinv ctx value s
  | .tlbinvComplete ctx => Sys2Proof.Machine.execTlbinvComplete ctx s
  | .mbxdata ctx value => Sys2Proof.Machine.execMbxdata ctx value s
  | .mecarve ctx value => Sys2Proof.Machine.execMecarve ctx value s
  | .psdata ctx value => Sys2Proof.Machine.execPsdata ctx value s
  | .registerWrite page off value => Sys2Proof.Machine.execRegisterWrite page off value s
  | .imageBoot ok => Sys2Proof.Machine.execImageBoot ok s
  | .quiesceComplete => Sys2Proof.Machine.execQuiesceComplete s
  | .quiesceTimeout => Sys2Proof.Machine.execQuiesceTimeout s
  | .quiesceRetry => Sys2Proof.Machine.execQuiesceRetry s
  | .watchdogMiss => Sys2Proof.Machine.execWatchdogMiss s
  | .updwinExpiry => Sys2Proof.Machine.execUpdwinExpiry s
  | .fuseAdvance first second => Sys2Proof.Machine.execFuseAdvance first second s
  | .updstage win img => Sys2Proof.Machine.execUpdstage win img s
  | .updwdr => Sys2Proof.Machine.execUpdwdr s
  | .kcmdGenerate part => Sys2Proof.Machine.execKcmdGenerate part s
  | .kcmdRetire part key => Sys2Proof.Machine.execKcmdRetire part key s
  | .keyPendTimeout key => Sys2Proof.Machine.execKeyPendTimeout key s
  | .keyZeroise key => Sys2Proof.Machine.execKeyZeroise key s
  | .getVersion => Sys2Proof.Machine.execGetVersion s
  | .getCapabilities => Sys2Proof.Machine.execGetCapabilities s
  | .negotiateAlgorithms => Sys2Proof.Machine.execNegotiateAlgorithms s
  | .getDigests => Sys2Proof.Machine.execGetDigests s
  | .getCertificate => Sys2Proof.Machine.execGetCertificate s
  | .challenge nonce => Sys2Proof.Machine.execChallenge nonce s
  | .getMeasurements sess => Sys2Proof.Machine.execGetMeasurements sess s
  | .keyExchange part => Sys2Proof.Machine.execKeyExchange part s
  | .finish sess => Sys2Proof.Machine.execFinish sess s
  | .endSession sess => Sys2Proof.Machine.execEndSession sess s
  | .keyImport sess gen wrapped => Sys2Proof.Machine.execKeyImport sess gen wrapped s
  | .updateAck sess digest => Sys2Proof.Machine.execUpdateAck sess digest s
  | .updateNak sess digest => Sys2Proof.Machine.execUpdateNak sess digest s
  | .meterRead sess entry => Sys2Proof.Machine.execMeterRead sess entry s
  | .linkTagFailure link => Sys2Proof.Machine.execLinkTagFailure link s
  | .linkRekey link => Sys2Proof.Machine.execLinkRekey link s
  | .dbgnonce => Sys2Proof.Machine.execDbgnonce s
  | .nonceExpiry => Sys2Proof.Machine.execNonceExpiry s
  | .dbgtok addr => Sys2Proof.Machine.execDbgtok addr s
  | .mdata => Sys2Proof.Machine.execMdata s
  | .chainTick => Sys2Proof.Machine.execChainTick s
  | .powerMeasure watts => Sys2Proof.Machine.execPowerMeasure watts s
  | .thermalReport stack celsius => Sys2Proof.Machine.execThermalReport stack celsius s
  | .lease ctx iiu => Sys2Proof.Machine.execLease ctx iiu s
  | .leaseEnd ctx => Sys2Proof.Machine.execLeaseEnd ctx s
  | .snaptrig tag => Sys2Proof.Machine.execSnaptrig tag s
  | .snapThreshold => Sys2Proof.Machine.execSnapThreshold s
  | .snapack => Sys2Proof.Machine.execSnapack s
  | .moduleReset blown => Sys2Proof.Machine.execModuleReset blown s
  | .coreCycle core => Sys2Proof.Machine.execCoreCycle core s
  | .hostAccess op => Sys2Proof.Machine.execHostAccess op s
  | .powerLoss => Sys2Proof.Machine.execPowerLoss s
  | .secureAssociationRenewal port => Sys2Proof.Machine.execSecureAssociationRenewal port s
  | .unusedEncoding w => Sys2Proof.Machine.execUnusedEncoding w s

end Sys2Proof.Machine
end

