-- ==== Sys2Proof/Machine/Pending.lean ====
section
/-! DEFINITION. What happens next where the agenda does not say: the model's own order of the machine's pending events
(assumption 2). -/

namespace Sys2Proof.Machine

/-- A state that differs from the one before it. -/
def changed (s : State) (r : Result) : Option State :=
  match r with
  | .next t => if t = s then none else some t
  | _ => none

/-- The first event of a list that changes the state. -/
def firstChange (s : State) : List (State → Result) → Option State
  | [] => none
  | f :: r => match changed s (f s) with
    | some t => some t
    | none => firstChange s r

/-- The grid and index of a workgroup's key. -/
def keyGrid (id : Nat) : Nat := id / 2 ^ 32
def keyIndex (id : Nat) : Nat := id % 2 ^ 32

/-- Pending events of the warps of one core. -/
def Core.warpEvents (core : Nat) (k : Core) : List (State → Result) :=
  k.warps.flatMap (fun x =>
    let splits := x.2.splits.flatMap (fun e => match e.2.status with
      | .held => [execSplitRelease core x.1]
      | .parked (.mwait (some _) _) => [execMwaitTimeout core x.1 e.1]
      | .parked (.page _) => [execPageReplay core x.1 e.1]
      | _ => [])
    let helpers := match mget? k.prickings (x.1 / 2) with
      | some p => if p.slot = x.1 then p.helpers.flatMap (fun h =>
          (match h.2.wait with
            | some (.page _) => [execPageReplay core x.1 (16 + h.1)]
            | _ => []) ++ (if h.2.release.owner.isSome then [execHelperCancel core (x.1 / 2) h.1] else []) ++
          (if h.2.release.preempt.isSome then [execPrickingWithdraw core (x.1 / 2)] else [])) else []
      | none => []
    splits ++ helpers)

/-- Pending events of one core. -/
def Core.events (core : Nat) (k : Core) : List (State → Result) :=
  (k.loadsPending.zipIdx.map (fun e => execLoadDataReturn core e.1.slot e.2)) ++
  ((upto (k.drains.length + k.storesPending.length)).map (execWritePerformed core)) ++
  ((upto k.copyQ.length).map (execCopyLand core)) ++
  (if k.matQ.isEmpty then [] else [execMatrixRetire core, execMatrixQueueHead core]) ++
  ((upto k.streamQ.length).map (execStreamLand core)) ++
  ((upto k.wcb.length).map (execWcbAgeDrain core)) ++
  (k.allocs.zipIdx.filterMap (fun e => if e.1.released.isSome then some (execAllocationRelease core e.2) else none)) ++
  (if k.carve = k.carveTo then [] else [execCarveWayMove core]) ++ k.warpEvents core

/-- Pending events of one workgroup. -/
def Workgroup.events (id : Nat) (w : Workgroup) : List (State → Result) :=
  let g := keyGrid id
  let i := keyIndex id
  (if w.preempt.isSome then [execPreemptRequest g i, execPreemptWithdraw g i, execWorkgroupSave g i] else []) ++
  (w.barriers.flatMap (fun b => if b.2.spawn.isEmpty then [] else [execContinuationSpawn g i b.1])) ++
  (if w.core.isSome && w.slots.isEmpty then [execWorkgroupEnd g i] else [])

/-- The packet at the head of a queue, where no step of it waits for the engine's answer about a staged image (WPROG, whose version
only the agenda can give). -/
def State.queueEvents (s : State) (n : Nat) (q : Queue) : List (State → Result) :=
  if q.qrd = q.qdb ∨ q.halted ∨ q.pending.isSome ∨ q.block.isSome then []
  else match s.readPacket q with
    | .error _ => [execNopPacket n]
    | .ok p => match p.kind with
      | .nop => [execNopPacket n]
      | .launch => [execLaunch n]
      | .wait => [execMboxWait n]
      | .signal => [execMboxSignal n]
      | .policy => [execPolicyLoad n]
      | .cfg 0 => [execLayout n]
      | .cfg 1 => [execMeplim n]
      | .cfg 2 => [execCtxCreate n]
      | .cfg 3 => [execCtxDestroy n]
      | .cfg 4 => [execFltab n]
      | .cfg 5 => [execWintab n]
      | .cfg 7 => [execWpub n]
      | .cfg 8 => [execChkpt n true]
      | .cfg 9 => [execDomain n]
      | .cfg _ => []

/-- Pending events of the command processors. -/
def State.commandEvents (s : State) : List (State → Result) :=
  (s.cmd.mboxQ.zipIdx.map (fun e => match e.1.op with
    | .consume _ _ => execMboxConsume e.1.part e.1.word
    | .produce _ _ => execMboxProduce e.1.part e.1.word
    | .background _ _ _ => execBackgroundProduce e.2)) ++
  s.cmd.queues.flatMap (fun e => s.queueEvents e.1 e.2) ++ (s.cmd.layouts.map (fun l => execLayout l.qnum)) ++
  (s.weights.filterMap (fun w => w.prog.map (fun n => execWprog n w.v))) ++
  (if s.cmd.layouts.any (fun l => l.maps) then [execSlotMapSwitch] else []) ++ (s.cmd.chkpts.map (fun c => execChkpt c.qnum true)) ++
  ((s.ctxs.filter (fun x => !x.2.tlbPend.isEmpty)).map (fun x => execTlbinvComplete x.1)) ++
  (if s.cmd.update.isSome then [execQuiesceComplete, execQuiesceTimeout, execQuiesceRetry, execUpdwinExpiry] else []) ++
  (if s.cmd.switched.isSome then [execFuseAdvance true true] else [])

/-- Pending events of the fabric interface. -/
def State.fabricEvents (s : State) : List (State → Result) :=
  ((upto s.arrivals.length).map execGroupArrival) ++
  (s.fab.streams.flatMap (fun e => [execEftAckTimeout (e.1 / 8) (e.1 % 8), execEftRetransmit (e.1 / 8) (e.1 % 8)])) ++
  ((upto s.fab.launches.length).map execFlnchTimeout) ++ ((upto s.fabOps.length).map execRemoteAccessTimeout) ++
  (if s.fab.fltab.isEmpty then [] else [execRateBucketRefill])

/-- Pending events of the security engine and the power controller. -/
def State.engineEvents (s : State) : List (State → Result) :=
  (s.sec.keys.flatMap (fun k => match k.2.state with
    | .zero => [execKeyZeroise k.1]
    | .pend => [execKeyPendTimeout k.1]
    | _ => [])) ++
  (if s.sec.nonce.isSome then [execNonceExpiry] else []) ++ (if s.parts.isEmpty then [] else [execChainTick]) ++
  (s.ctxs.filterMap (fun x => if x.2.lease = some 0 then some (execLeaseEnd x.1) else none)) ++ (if hasBit s.pwr.snapctl 2 then [execSnapThreshold] else []) ++
  (s.weights.map (fun w => execVersionErase w.v.name w.v.ver))

/-- Is there work that is not resident? -/
def State.work (s : State) : Bool := s.grids.any (fun e => !e.2.waiting.isEmpty) || s.wgs.any (fun e => e.2.saved.isSome)

/-- Clear sequences of the plots. -/
def State.plotEvents (s : State) : List (State → Result) :=
  ((upto 8).filter (fun p => (s.plot p).sclr || s.cmd.layouts.any (fun l => hasBit l.leaving p || hasBit l.joining p) || (s.work && s.classWaits p))).map execClearSequence

/-- Every pending event, in the model's order. -/
def State.pendingEvents (s : State) : List (State → Result) :=
  s.cores.flatMap (fun c => c.2.events c.1) ++ (upto s.remotes.length).map execRemoteScratchAccess ++
  (upto s.hostReqs.length).map (fun n => execHostCompletion n true) ++ (upto s.mcasts.length).map execMulticastWrite ++
  s.wgs.flatMap (fun e => e.2.events e.1) ++ s.fabricEvents ++ s.commandEvents ++ s.engineEvents ++ s.plotEvents

/-- A pending event happens. -/
def State.pending (s : State) : Option State := firstChange s s.pendingEvents

/-! ### Calls of the policy engines -/

/-- Insert by a key, after those of equal key. -/
def insertKey {α : Type} (x : Nat × α) : List (Nat × α) → List (Nat × α)
  | [] => [x]
  | y :: r => if x.1 < y.1 then x :: y :: r else y :: insertKey x r

/-- The place of a workgroup's call among those of its point (R417): call core, context, QNUM of the launching queue. -/
def State.callKey (s : State) (w : Workgroup) : Nat :=
  let core := match w.core, w.saved with
    | some c, _ => c
    | none, some sv => sv.core
    | none, none => 0
  let (ctx, qnum) := match mget? s.grids w.grid with
    | some g => (g.ctx, g.qnum)
    | none => (0, 0)
  core % 256 * 2 ^ 20 + ctx * 2 ^ 10 + qnum

/-- The calls of some workgroups in their order. -/
def State.callsOf (s : State) (due : Workgroup → Bool) (call : Nat → Nat → State → Result) : List (State → Result) :=
  (((s.wgs.filter (fun e => due e.2)).map (fun e => (s.callKey e.2, call (keyGrid e.1) (keyIndex e.1)))).foldl (fun l x => insertKey x l) []).map Prod.snd

/-- Cores of a plot that can take a workgroup and for which no PICK call is made yet: their calls are made together (R417), each once at a
time. -/
def State.newPicks (s : State) (plot : Nat) : List Nat :=
  let p := s.plot plot
  match s.partOfPlot plot with
  | none => []
  | some part =>
    if p.leaving || !s.pickWaits plot (s.ofPart part) then []
    else
      let told := p.picks ++ (if p.pickTime = s.elapsed then p.picked else []) ++ (match (mget? s.pol.calls plot).map (fun c => c.kind) with
        | some (.pick core _ _) => [core]
        | _ => [])
      ((upto 256).map (fun i => plot * 256 + i)).filter (fun c => !told.contains c && !(s.pickContexts c part).isEmpty)

/-- PICK calls are made for the cores of a plot (R417). -/
def State.notePicks (plot : Nat) (s : State) : Result :=
  let new := s.newPicks plot
  .next (if new.isEmpty then s else s.modPlot plot (fun p => { p with picks := p.picks ++ new }))

/-- The first PICK call of a plot that waits: it starts, or, where the core can take nothing more, it is over (R416, R417). -/
def State.pickTurn (s : State) (plot : Nat) : Option (Nat × (State → Result)) :=
  let p := s.plot plot
  match p.picks with
  | [] => none
  | core :: rest =>
    if s.engineBusy plot then none
    else
      let able := match s.partOfPlot plot with
        | some part => !p.leaving && !(s.pickContexts core part).isEmpty
        | none => false
      some (core % 256, if able then execPickCall core else fun s => .next (s.modPlot plot (fun p => { p with picks := rest })))

/-- Restores that PICK has decided, which take effect as its call ends (R416, R418). -/
def State.restores (s : State) : List (State → Result) :=
  s.wgs.filterMap (fun e => (e.2.saved.bind (fun sv => sv.pick)).map (fun x => execWorkgroupRestore (keyGrid e.1) (keyIndex e.1) x.1))

/-- What makes calls: workgroups that park, wake or become ready, and cores that can take work (R412, R497). -/
def State.callNotes (s : State) : List (State → Result) :=
  s.wgs.map (fun e => fun s => .next ((s.notePark e.1).noteReady e.1)) ++ (if s.work then (upto 8).map State.notePicks else [])

/-- Calls that are due, in the order of R417: MIGR, PICK, WAKE, BLOCK (ENQ belongs to the launches; assumption 78). -/
def State.dueCalls (s : State) : List (State → Result) :=
  s.callsOf (fun w => (w.saved.map (fun sv => sv.wantMigr)).getD false) execMigrCall ++
  ((((upto 8).filterMap s.pickTurn).foldl (fun l x => insertKey x l) []).map Prod.snd) ++
  s.callsOf Workgroup.wakeDue execWakeCall ++
  s.callsOf (fun w => w.core.isSome && w.parkCalls.head? == some true) execBlockCall

/-- Steps of calls whose time has come, then restores, what makes calls, and the calls that are due (R412, R416 to R418). -/
def State.urgent (s : State) : Option State :=
  match (mkeys s.pol.calls).findSome? s.callStep with
  | some t => some t
  | none => firstChange s (s.restores ++ s.callNotes ++ s.dueCalls)

/-- TICK calls that are due: they come last among the calls of their time (R417), before time passes on; and the import of a SWITCH at its
latest time (R456). -/
def State.ticksDue (s : State) : Option State :=
  firstChange s ((if s.switchDue then [execQuiesceComplete] else []) ++ ((upto 8).filter (fun p => (s.partOfPlot p).isSome && decide ((s.plot p).ticks < s.elapsed / 10000))).map execTickCall ++
    s.callsOf (fun w => w.core.isSome && w.wantTick) execSliceExpiry)

/-- The core whose turn it is, and the one after it: of the cores whose current cycle began first, the one at the cursor or the next. -/
def State.turn (s : State) : Option (Nat × Nat) :=
  let at' := s.cores.map (fun e => (e.1, e.2.start (36 * s.elapsed)))
  match minOf? (at'.map Prod.snd) with
  | none => none
  | some t =>
    let first := (at'.filter (fun e => e.2 == t)).map Prod.fst
    let here := (first.find? (fun c => decide (s.cursor ≤ c))).getD (first.headD 0)
    some (here, ((mkeys s.cores).find? (fun k => decide (here < k))).getD ((mkeys s.cores).headD 0))

end Sys2Proof.Machine
end

