-- ==== Sys2Proof/Machine/Schedule.lean ====
section
/-! DEFINITION. What one step does: the entries of the agenda, the model's own order where the agenda is empty, and a program
placed where the next step fetches (assumptions 2 and 31). -/

namespace Sys2Proof.Machine

/-- Is this a machine event of the opcode table, which happens without being fetched?  An encoded instruction and a word that
decode refuses are only ever run by an issue. -/
def isEvent (i : Instr) : Bool := (costOf i).isNone && (match i with
  | .unusedEncoding _ => false
  | _ => true)

/-- An uncorrectable soft error strikes (R189, R272, R349, R376). -/
def State.strike (s : State) : SoftError → State
  | .reg core slot tid n => s.modWarp core slot (fun w => { w with bad := (256 * tid + n) :: w.bad.filter (· != 256 * tid + n) })
  | .scratch core word => s.modCore core (fun k => { k with scrBad := word :: k.scrBad.filter (· != word) })
  | .latch core slot tid k => s.modWarp core slot (fun w =>
      if (mget? w.latches (4 * tid + k)).isSome then { w with latchBad := (4 * tid + k) :: w.latchBad.filter (· != 4 * tid + k) } else w)
  | .priv core slot lane n => s.modHelper core slot lane (fun h => { h with bad := n :: h.bad.filter (· != n) })
  | .line core n => s.modCore core (fun k => { k with l1 := modAt k.l1 n (fun (l : L1Line) => { l with bad := true }) })
  | .buffer core n => s.modCore core (fun k => { k with wcb := modAt k.wcb n (fun (e : WcbEntry) => { e with bad := true }) })
  | .element core key => s.modCore core (fun k => { k with accBad := key :: k.accBad.filter (· != key) })
  | .weight name ver tidx key => { s with weights := s.weights.map (fun (x : StoredVersion) =>
      if x.v.name = name ∧ x.v.ver = ver then { x with bad := (tidx, key) :: x.bad.filter (· != (tidx, key)) } else x) }

/-! ### Failed links -/

/-- Change a die-to-stack link (R462). -/
def State.modLink (s : State) (link : Nat) (f : Link → Link) : State :=
  if 24 ≤ link then s
  else s.modSec (fun x => { x with links := mset x.links link (f (mgetD x.links link { session := 0, fails := 0, failed := false })) })

/-- Has a link failed (R462)?  Which lines cross it is open: the manual places no line in a stack (assumption 91). -/
def State.linkDown (s : State) : Bool := s.sec.links.any (fun e => e.2.failed)

/-- A load or an atomic over a failed link ends with an error (R462, R272): its warp takes the record, the values that it returns are free, and
an atomic performs nothing. -/
def State.linkLoad (s : State) (core slot n : Nat) : State :=
  match ((s.core core).loadsPending.filter (fun l => l.slot == slot))[n]? with
  | none => s
  | some l =>
    if !s.linkDown || (l.accs.isEmpty && l.hbm.isEmpty) || l.accs.any (fun a => a.space != .hbm) then s
    else
      let ext := match l.kind with
        | .load ext => ext
        | _ => .none
      let read := l.writes.zipIdx.map (fun e => if l.hbm.contains (e.1.1, e.1.2.1) then (e.1.1, e.1.2.1, bytesWord (s.freeBytes (4 * e.2) 4)) else e.1)
      let ws := l.accs.zipIdx.flatMap (fun e => fillDests e.1.dests (loadWords ext (s.freeBytes (4 * read.length + 256 * e.2) e.1.n)))
      let s := { s with fresh := s.fresh + 4 * read.length + 256 * l.accs.length }.modCore core (fun k =>
        { k with loadsPending := dropFirst (fun x => x.cid == l.cid && x.slot == slot && x == l) k.loadsPending })
      ((s.eccRecord core slot ((l.accs.head?.map (fun a => a.addr)).getD 0)).fillRegs core slot l.who (read ++ ws)).partDone core slot l.who .loads l.cid

/-- An entry that drains over a failed link is in error (R462, R272). -/
def State.linkDrain (s : State) (core n : Nat) : State :=
  if s.linkDown then s.modCore core (fun k => { k with drains := modAt k.drains n (fun e => if e.space = .hbm then { e with bad := true } else e) }) else s

/-- A pending RED over a failed link is not performed, and completes in error (R462). -/
def State.linkRed (s : State) (core n : Nat) : State :=
  match (s.core core).storesPending[n]? with
  | none => s
  | some p => match p.work with
    | .red _ accs =>
      if !s.linkDown || accs.any (fun a => a.space != .hbm) then s
      else (s.eccRecord core p.slot ((accs.head?.map (fun a => a.addr)).getD 0)).storeDone core p
    | _ => s

/-- A copy's source or destination in HBM. -/
def Move.overLink (m : Move) : Bool := (match m.src with
  | .mem .hbm _ _ => true
  | _ => false) || (match m.dst with
  | .mem .hbm _ _ => true
  | _ => false)

/-- What a copy command moves to or from HBM over a failed link is free (R462): its sources are replaced by free bytes. -/
def State.failWork (s : State) : CopyWork → CopyWork
  | .box moves => .box (moves.zipIdx.map (fun m => if m.1.overLink then { m.1 with src := .fixed (s.freeBytes (copyWriteNo + 64 * m.2) m.1.n) } else m.1))
  | .multicast moves targets =>
    .multicast (moves.zipIdx.map (fun m => if m.1.overLink then { m.1 with src := .fixed (s.freeBytes (copyWriteNo + 64 * m.2) m.1.n) } else m.1)) targets
  | .planes e q groups => .planes e q (groups.zipIdx.map (fun g => { g.1 with codes := g.1.codes.zipIdx.map (fun x => match x.1.1 with
      | .mem .hbm _ _ => (.fixed (s.freeBytes (copyWriteNo + 64 * (32 * g.2 + x.2)) 8), x.1.2)
      | _ => x.1) }))

/-- A copy command whose requests go over a failed link (R462): its warp takes the record, and the command lands with free data. -/
def State.linkCopy (s : State) (core n : Nat) : State :=
  match (s.core core).copyQ[n]? with
  | none => s
  | some q =>
    let w := s.failWork q.work
    if !s.linkDown || w == q.work then s
    else (({ s with fresh := s.fresh + 2 * copyWriteNo } : State).modCore core (fun k => { k with copyQ := modAt k.copyQ n (fun q => { q with work := w }) })).eccRecord
      core q.slot 0

/-- A weight stream over a failed link (R462): its warp takes the record, and its words are free. -/
def State.linkStream (s : State) (core n : Nat) : State :=
  match (s.core core).streamQ[n]? with
  | none => s
  | some q =>
    if !s.linkDown || !streamReady (s.core core).streamQ n q || !q.guardVal then s
    else match (s.version q.name q.ver).bind (fun v => v.v.tensors[q.tidx]?) with
      | none => s
      | some t =>
        let words := (q.planeMoves t).map Prod.fst ++ (q.scaleMoves t).map Prod.fst
        let s := (s.modCore core (fun k => words.zipIdx.foldl (fun k e => k.setWord e.1 (bytesWord (s.freeBytes (4 * e.2) 4))) k)).eccRecord core q.slot 0
        ({ s with fresh := s.fresh + 4 * words.length } : State).streamDone core q

/-- Times at which something happens by itself: the next multiple of 10 µs, at which calls start and the hub measures (R412, R476, R486, R489),
the ends of the calls that run (R418), and the latest end of a SWITCH (R456). -/
def State.callTimes (s : State) : List Nat := (s.elapsed / 10000 + 1) * 10000 :: s.pol.calls.map (fun c => c.2.ends) ++ (match s.cmd.update with
  | some u => if u.state = .switch then [u.since + 20000] else []
  | none => [])

/-- Time passes, no further than to the next of those times; what is left of it stays on the agenda. -/
def State.passTime (s : State) (ns : Nat) : State :=
  match minOf? (s.callTimes.filter (fun t => decide (s.elapsed < t ∧ t < s.elapsed + ns))) with
  | some t => { (s.timeTo t).catchUp with agenda := .time (s.elapsed + ns - t) :: s.agenda }
  | none => (s.timeTo (s.elapsed + ns)).catchUp

/-- Perform one entry of the agenda; `run` is exec.  A fetch or a page walk over a failed link stops the warp under its record before the
instruction has begun (R462): a resume asks for it again. -/
def State.perform (run : Instr → State → Result) (s : State) : Sched → Result
  | .event i => if isEvent i then run i (match i with
      | .coreCycle core => s.noteWithheld run core
      | _ => s) else .next s
  | .issue core => (s.issueCore run core).getD (.next s)
  | .staged core words => .next { s with stagedPick := mset s.stagedPick core words }
  | .order tids => .next { s with tidOrder := tids }
  | .time ns => .next (s.passTime ns)
  | .place word => .next { s with placePick := some word }
  | .traffic part rd wr => .next ((s.meter part .hbmrd rd).meter part .hbmwr wr)
  | .softError e => .next (s.strike e)
  | .defect core mask => .next { s with defects := mset s.defects core mask }
  | .monitorDrop line => .next (s.fireLine line)
  | .linkPass link => .next (s.modLink link (fun l => { l with fails := 0 }))
  | .linkFail link => .next (s.modLink link (fun l => { l with failed := true }))
  | .linkLoad core slot n => .next (s.linkLoad core slot n)
  | .linkDrain core n => .next (s.linkDrain core n)
  | .linkRed core n => .next (s.linkRed core n)
  | .linkCopy core n => .next (s.linkCopy core n)
  | .linkStream core n => .next (s.linkStream core n)
  | .linkRequest core slot => .next (if s.linkDown then s.eccRecord core slot 0 else s)

/-- A pending event, or where no event changes anything a TICK call that is due, or the rest. -/
def State.pendingOr (s : State) (rest : State → Result) : Result :=
  match s.pending, s.ticksDue with
  | some t, _ => .next t
  | none, some t => .next t
  | none, none => rest s

/-- The model's own order: calls of the policy engines that are due come first; then the core whose turn it is issues; then a pending event
happens; with none left the TICK calls that are due are made; and then the core's cycle ends and the turn moves on, or time passes where no
core is in use. -/
def State.advance (run : Instr → State → Result) (s : State) : Result :=
  match s.urgent with
  | some t => .next t
  | none =>
    match s.turn with
    | none => s.pendingOr (fun s => .next (s.timeTo (s.elapsed + 1)))
    | some (core, after) =>
      match s.issueCore run core with
      | some r => r
      | none => s.pendingOr (fun s => execCoreCycle core { s.noteWithheld run core with cursor := after })

/-- Does time pass by an entry of the agenda?  TICK calls that are due come before (R417). -/
def Sched.passes : Sched → Bool
  | .time _ => true
  | .event (.coreCycle _) => true
  | _ => false

/-- What comes before an entry of the agenda (R412, R417): the calls of the policy engines that are due. -/
def State.before (s : State) (a : Sched) : Option State := match s.urgent with
  | some t => some t
  | none => if a.passes then s.ticksDue else none

/-- One step: the head of the agenda, or the model's own order. -/
def State.stepWith (run : Instr → State → Result) (s : State) : Result :=
  match s.agenda with
  | a :: rest => (match s.before a with
    | some t => .next t
    | none => ({ s with agenda := rest } : State).perform run a)
  | [] => s.advance run

/-! ### A program placed for the next step -/

/-- The page that holds the placed word, and the tables of a context that maps it: three tables, the last with a leaf of 1 GiB over
the first GiB of HBM, readable, writable and fetchable under key 1 (Table 10-2). -/
def placedCode : Nat := 0x10000
def placedRoot : Nat := 0x1000
def placedTable (next : Nat) : List Byte := leBytes 8 (next + 1)
def placedLeaf : List Byte := leBytes 8 (1 + 2 ^ 5 + 2 ^ 6 + 2 ^ 7 + 2 ^ 8 + 4 * 2 ^ 9 + 2 ^ 54)

/-- The partition, the context, the grid and the workgroup of a placed program: partition 0 with plot 0 and the first granule,
context 0, grid 0 of one workgroup of one warp of 64 threads with file size 64. -/
def placedPart : Partition :=
  { Partition.created 0 with plots := 1, granules := 1, pmemmax := 0, carvok := 31 }

def placedCtx : Context :=
  { part := 0, priv := true, prot := false, key := 1, root := placedRoot, trapbase := 0, plim := 65520, carve := 1, saveBase := 0, savePages := 0,
    saveCtr := 0, lease := none, leaseRefused := false, mbxIdx := 0, psIdx := 0, psSel := 0, tlbPend := [] }

def placedGrid : Grid :=
  { ctx := 0, code := placedCode, codeSize := 4, stations := [], fileSize := 64, warps := 1, scratch := 0, fuse := 0, pmem := 0, nwg := 1, pbase := 0,
    data := 0, fmt := Strand.idle.fmt, init := [], wepoch := 0, qnum := 0, tagw := 0, ptag := 0, conf := 1, prio := 3, waiting := [0], left := 1,
    since := 0, launcher := .packet none, heldPart := false }

/-- A machine whose core 0 is about to fetch at `placedCode`: the placed partition, context and grid, the workgroup resident on core 0
in warp slot 0, and an agenda that lets core 0 issue. -/
def State.placed (s : State) (word : List Byte) : State :=
  let s : State := { s with
    parts := mset s.parts 0 placedPart, ctxs := mset s.ctxs 0 placedCtx, grids := mset s.grids 0 placedGrid, gridSeq := Nat.max 1 s.gridSeq,
    cores := mset s.cores 0 Core.initial, agenda := [.issue 0], cursor := 0,
    sec := { s.sec with keys := mset s.sec.keys 1 { state := .ord, part := 0, secret := 0, sess := 0, since := 0 } } }
  let s := (((s.hbmWrite 1 placedRoot (placedTable 0x2000)).hbmWrite 1 0x2000 (placedTable 0x3000)).hbmWrite 1 0x3000 placedLeaf).hbmWrite 1 placedCode word
  s.placeWg 0 0 0 placedGrid { slots := [(0, 0)], base := 0 } 0

end Sys2Proof.Machine
end

