-- ==== Sys2Proof/Machine/Step.lean ====
section
/-! DEFINITION. One step of the machine, and a word placed where the next step fetches. -/

namespace Sys2Proof.Machine

/-- One step: what the agenda names, or the model's own order, with exec as the meaning of every instruction. -/
def step (s : State) : Host.Outcome State Fault Refusal := s.stepWith exec

/-- The state with a program of one word placed for the very next step (assumption 31).  Every Cheos instruction is one word. -/
def State.withFetchWord (s : State) (_nbits w : Nat) : State := s.placed (leBytes 4 w)

end Sys2Proof.Machine
end

