-- ==== Sys2Proof/Safety.lean ====
section
/-! DEFINITION. The terms in which statements about the machine are made: what an issue has written, what it has left alone, and
when the operands of an instruction are in order. -/

namespace Sys2Proof.Machine

/-! ### What is left alone -/

/-- Every byte of every memory reads as before, each read as the machine reads one byte: HBM under any key, host memory, the
memory of every plot, and the scratchpad of every core; and no accumulator element changes. -/
def SameMemory (s t : State) : Prop :=
  (∀ plot sp key a, t.memRead plot sp key a 1 = s.memRead plot sp key a 1) ∧
  (∀ core a, (t.core core).scrByte a = (s.core core).scrByte a) ∧
  (∀ core, (t.core core).acc = (s.core core).acc)

/-- What an instruction may change beside what every issue does: functions that put a fixed value for it in the device, in the
workgroups, in the contexts, in the issuing core, in the issuing warp, in its strands and in the issuing helper. -/
structure Footprint where
  device : State → State
  wg : Workgroup → Workgroup
  ctx : Context → Context
  core : Core → Core
  warp : Warp → Warp
  strand : Strand → Strand
  helper : Helper → Helper

/-- Nothing beside what every issue does. -/
def Footprint.plain : Footprint := { device := id, wg := id, ctx := id, core := id, warp := id, strand := id, helper := id }

/-- The device beside its cores is as before, but for what the frame names and the accounts that every issue keeps: meters, the window
statistics, the slice and the decision marks of a workgroup, and a context's lease. -/
def Footprint.SameDevice (fr : Footprint) (s t : State) : Prop :=
  fr.device { t with cores := [], wgs := [], ctxs := [], meters := [], pol := { t.pol with now := [] }, issuer := none } =
    fr.device { s with cores := [], wgs := [], ctxs := [], meters := [], pol := { s.pol with now := [] }, issuer := none } ∧
  (∀ id, (mget? t.wgs id).map (fun g => fr.wg { g with slice := 0, blocked := false, expired := none, wantTick := false }) =
    (mget? s.wgs id).map (fun g => fr.wg { g with slice := 0, blocked := false, expired := none, wantTick := false })) ∧
  (∀ id, (mget? t.ctxs id).map (fun x => fr.ctx { x with lease := none, leaseAt := 0 }) = (mget? s.ctxs id).map (fun x => fr.ctx { x with lease := none, leaseAt := 0 }))

/-- Everything of a core but its warps and prickings is as before, apart from what the frame names and the accounts of an issue: the
debit of the cycle, the class run, the execute stages and the latencies under way. -/
def Footprint.SameEngines (fr : Footprint) (k k' : Core) : Prop :=
  fr.core { k' with warps := [], prickings := [], debit := 0, run := none, stages := [], cooling := [] } =
    fr.core { k with warps := [], prickings := [], debit := 0, run := none, stages := [], cooling := [] }

/-- Everything of a warp but its registers, predicates, flags, latch entries and index registers, its strands and splits, its count of
issued-instruction units and what the frame names is as before. -/
def Footprint.SameWarp (fr : Footprint) (w w' : Warp) : Prop :=
  fr.warp { w' with regs := [], preds := [], fpst := [], latches := [], ixs := [], bad := [], latchBad := [], iiu := 0, splits := [], strands := [] } =
    fr.warp { w with regs := [], preds := [], fpst := [], latches := [], ixs := [], bad := [], latchBad := [], iiu := 0, splits := [], strands := [] }

/-- The strands of a warp are as before but for their program counters and, in the issuing split, for what the frame names; and so are
the splits that did not issue. -/
def Footprint.SameStrands (fr : Footprint) (c : Iss) (w' : Warp) : Prop :=
  w'.strands.length = c.w.strands.length ∧
  (∀ l, (c.lanes.contains l = true → fr.strand { w'.strand l with pc := 0 } = fr.strand { c.w.strand l with pc := 0 }) ∧
    (c.lanes.contains l = false → w'.strand l = c.w.strand l)) ∧
  ∀ e, c.who ≠ .split e → mget? w'.splits e = mget? c.w.splits e

/-- Everything of a helper but its registers, predicates, flags, program counter, issue accounts and what the frame names is as
before. -/
def Footprint.SameHelper (fr : Footprint) (h h' : Helper) : Prop :=
  fr.helper { h' with regs := [], preds := 0, fpst := 0, pc := 0, age := 0, release := Release.none, wait := none, reserve := none, bad := [] } =
    fr.helper { h with regs := [], preds := 0, fpst := 0, pc := 0, age := 0, release := Release.none, wait := none, reserve := none, bad := [] }

/-! ### What an issue writes -/

/-- The registers, predicates, flags and index registers that an issue may write, by thread. -/
structure Writes where
  reg : Nat → RegLoc → Bool
  pred : Nat → Nat → Bool
  flags : Nat → Bool
  index : Nat → Nat → Bool

/-- An issue that writes none of them. -/
def Writes.none : Writes := { reg := fun _ _ => false, pred := fun _ _ => false, flags := fun _ => false, index := fun _ _ => false }

/-- The issuer has gone on at the next instruction: every strand of its split, or the helper. -/
def WentOn (c : Iss) (w' : Warp) (h' : Option Helper) : Prop :=
  match c.hel with
  | some h => ∃ x, h' = some x ∧ x.pc = h.pc + 4
  | none => ∀ l, l < c.w.strands.length → (w'.strand l).pc = (c.w.strand l).pc + (if c.lanes.contains l then 4 else 0)

/-- The registers of the issuing warp after an issue that writes what `wr` names: every other register, predicate, flag and index
register is as before, and latch entries that are not written have one instruction less to live where the split's instruction has
ended. -/
def SameRegisters (c : Iss) (wr : Writes) (w' : Warp) : Prop :=
  (∀ th n, th < 64 → n < 256 → c.hel.isSome ∨ wr.reg th (.file n) = false →
    mgetD w'.regs (256 * th + n) 0 = mgetD c.w.regs (256 * th + n) 0) ∧
  (∀ th p, c.hel.isSome ∨ wr.pred th p = false → w'.pred th p = c.w.pred th p) ∧
  (∀ th, c.hel.isSome ∨ wr.flags th = false → mgetD w'.fpst th 0 = mgetD c.w.fpst th 0) ∧
  (∀ th k, k < 4 → c.hel.isSome ∨ wr.index th k = false → w'.ix th k = c.w.ix th k) ∧
  (∀ th k, k < 4 → c.hel.isSome ∨ wr.reg th (.latch k) = false →
    mget? w'.latches (4 * th + k) = (mget? c.w.latches (4 * th + k)).bind (fun e =>
      if (match c.split with
        | some sp => hasBit sp.strands (th / 4)
        | none => false) then (if e.life ≤ 1 then none else some { e with life := e.life - 1 }) else some e))

/-- The prickings of the issuing core after an issue: only the issuing helper has changed, and of it only what `wr` and the frame
name and the accounts of an issue. -/
def Footprint.SamePricking (fr : Footprint) (s t : State) (c : Iss) (wr : Writes) : Prop :=
  (∀ pair, pair ≠ c.slot / 2 → mget? (t.core c.core).prickings pair = mget? (s.core c.core).prickings pair) ∧
  (∀ pair, (mget? (t.core c.core).prickings pair).map (fun p => { p with helpers := [] }) =
    (mget? (s.core c.core).prickings pair).map (fun p => { p with helpers := [] })) ∧
  ∀ p, c.pk = some p → ∃ p', mget? (t.core c.core).prickings (c.slot / 2) = some p' ∧
    (∀ lane, c.who ≠ .helper lane → mget? p'.helpers lane = mget? p.helpers lane) ∧
    (∀ lane h, c.who = .helper lane → c.hel = some h → ∃ h', mget? p'.helpers lane = some h' ∧ fr.SameHelper h h' ∧
      (∀ n, wr.reg (4 * lane) (.priv n) = false → mgetD h'.regs n 0 = mgetD h.regs n 0) ∧
      (∀ p, wr.pred (4 * lane) p = false → (p == 0 || hasBit h'.preds p) = (p == 0 || hasBit h.preds p)) ∧
      (wr.flags (4 * lane) = false → h'.fpst = h.fpst))

/-- The frame of an issue: every other core, warp, pricking and helper is as before; of the rest only what `fr` names has changed, with
the accounts of an issue; and in the issuing warp, which becomes w', or in the issuing helper only what `wr` names. -/
def Footprint.Issue (fr : Footprint) (s t : State) (c : Iss) (wr : Writes) (w' : Warp) : Prop :=
  fr.SameDevice s t ∧
  (∀ core, core ≠ c.core → t.core core = s.core core) ∧
  fr.SameEngines (s.core c.core) (t.core c.core) ∧
  (∀ slot, slot ≠ c.slot → t.warp? c.core slot = s.warp? c.core slot) ∧
  fr.SamePricking s t c wr ∧ t.warp? c.core c.slot = some w' ∧ fr.SameWarp c.w w' ∧ SameRegisters c wr w'

/-- An instruction completes: it answers a next state in which `post` holds of the issue after and of the state, nothing but what `wr`
and the frame name has changed, no byte of memory either, and the issuer goes on. -/
def CompletesIn (fr : Footprint) (i : Instr) (s : State) (c : Iss) (wr : Writes) (post : Iss → State → Prop) : Prop :=
  ∃ t c', exec i s = .next t ∧ t.issFor c.core c.slot c.who c.cost = some c' ∧ post c' t ∧ SameMemory s t ∧
    fr.Issue s t c wr c'.w ∧ fr.SameStrands c c'.w ∧ WentOn c c'.w c'.hel

/-- An instruction of the plain frame completes. -/
def CompletesWith (i : Instr) (s : State) (c : Iss) (wr : Writes) (post : Iss → State → Prop) : Prop :=
  CompletesIn Footprint.plain i s c wr post

/-! ### Synchronous register instructions -/

/-- The operands of a synchronous register instruction are in order: none meets a decode cause, every source can be read, none
carries a soft error, and the destination does not break the frozen share range (R48, R149, R189, R281). -/
def AluSpec.Clear (sp : AluSpec) (s : State) (c : Iss) : Prop :=
  sp.cause c = none ∧ sp.waits s c = false ∧ c.badRead (c.srcTids sp.u c.tids) sp.srcs = false ∧ sp.shared c = false

/-- Does an operand of `n` registers resolve to a location in thread th? -/
def Iss.names (c : Iss) (th : Nat) (o : Opnd) (n : Nat) (l : RegLoc) : Bool :=
  match c.resolve th o n with
  | .ok ls => l != .zero && ls.contains l
  | .error _ => false

/-- What a synchronous register instruction may write: in its executing threads the destination, the held latch entry and the
predicate, and flags. -/
def AluSpec.writes (sp : AluSpec) (c : Iss) : Writes :=
  { reg := fun th l => (c.exec sp.g).contains th && ((match sp.dst with
      | some d => c.names th d.1 d.2 l
      | none => false) || (match sp.h with
      | some k => l == .latch k.val
      | none => false)),
    pred := fun th p => (c.exec sp.g).contains th && sp.pdst == some p,
    flags := fun th => (c.exec sp.g).contains th,
    index := fun _ _ => false }

/-- The flags of a thread (R72), of a helper where one issues. -/
def Iss.flagsOf (c : Iss) (th : Nat) : Nat := match c.hel with
  | some h => h.fpst
  | none => mgetD c.w.fpst th 0

/-- In each executing thread the destination holds the result, the low word in the first register; the predicate destination
holds the truth value, but p0 stays true; the held latch entry holds operand a; and the flags raised have been merged. -/
def AluSpec.Wrote (sp : AluSpec) (c c' : Iss) (f : AluIn → AluOut) : Prop :=
  ∀ th ∈ c.exec sp.g,
    (∀ d ls j l, sp.dst = some d → c.resolve th d.1 d.2 = .ok ls → ls[j]? = some l → l ≠ .zero →
      c'.readLoc th l = BitVec.ofNat 32 ((f (sp.input c th)).val / 2 ^ (32 * j))) ∧
    (∀ p, sp.pdst = some p → p ≠ 0 → c'.pred th p = (f (sp.input c th)).p) ∧
    (∀ k : Fin 3, sp.h = some k → (∀ d, sp.dst = some d → d.1 ≠ .latch k) →
      c'.readLoc th (.latch k.val) = BitVec.ofNat 32 (sp.input c th).a) ∧
    c'.flagsOf th = c.flagsOf th ||| (f (sp.input c th)).flags

/-- A synchronous register instruction completes: it answers a next state in which it has written what its function says, nothing
else has changed, and the issuer goes on. -/
def Completes (i : Instr) (s : State) (c : Iss) (sp : AluSpec) (f : AluIn → AluOut) : Prop :=
  CompletesWith i s c (sp.writes c) (fun c' _ => sp.Wrote c c' f)

/-! ### Exchange instructions -/

/-- The operands of an exchange instruction are in order: no helper issues it, no operand of its active threads and no source that
it reads in another thread meets a decode cause, every source can be read and none carries a soft error, and no destination that it
writes breaks the frozen share range (R220 to R222, R149, R281). -/
def ExchangeClear (s : State) (c : Iss) (checks : Checks) (reads writes : List (Nat × Opnd × Nat)) : Prop :=
  c.hel = none ∧ c.checksCause checks = none ∧
  (∀ r ∈ reads, c.pendingRead (s.pendingLocs c.core c.slot) [r.1] [r.2] = false ∧ c.badRead [r.1] [r.2] = false) ∧
  (s.pendingLocs c.core c.slot).hasIxOf checks = false ∧
  (∀ w ∈ writes, c.sharedWrite [w.1] w.2.1 w.2.2 = false)

/-- What an exchange instruction may write in the threads that `ts` names: a destination of `n` registers, a held latch entry, a
predicate, and flags. -/
def exchangeWrites (c : Iss) (ts : Nat → Bool) (d : Option (Opnd × Nat)) (h : Hold) (p : Nat → Option Nat) : Writes :=
  { reg := fun th l => ts th && ((match d with
      | some d => c.names th d.1 d.2 l
      | none => false) || (match h with
      | some k => l == .latch k.val
      | none => false)),
    pred := fun th q => p th == some q,
    flags := ts,
    index := fun _ _ => false }

/-- A destination of thread th holds a value, the low word in the first register. -/
def Iss.holds (c c' : Iss) (th : Nat) (d : Opnd) (n v : Nat) : Prop :=
  ∀ ls j l, c.resolve th d n = .ok ls → ls[j]? = some l → l ≠ .zero → c'.readLoc th l = BitVec.ofNat 32 (v / 2 ^ (32 * j))

/-- A held operand is in its latch entry, unless the destination is that entry (R66). -/
def Iss.held (c' : Iss) (th : Nat) (h : Hold) (d : Opnd) (v : Nat) : Prop :=
  ∀ k : Fin 3, h = some k → d ≠ .latch k → c'.readLoc th (.latch k.val) = BitVec.ofNat 32 v

/-! ### Sequencer instructions -/

/-- The operands of a sequencer instruction are in order: a helper may issue it, no source and no destination meets a decode cause, every
source can be read and none carries a soft error (R48, R149, R189, Table 11-4). -/
def SeqClear (s : State) (c : Iss) (inHelper : Bool) (tids : List Nat) (srcs : List (Opnd × Nat)) (dst : Option (Opnd × Nat)) : Prop :=
  (c.hel.isSome → inHelper = true) ∧ c.opsCause tids srcs = none ∧ (∀ d, dst = some d → c.opCause c.tids d.1 d.2 = none) ∧
  c.pendingRead (s.pendingLocs c.core c.slot) tids srcs = false ∧ (s.pendingLocs c.core c.slot).hasIx c.tids dst.toList = false ∧
  c.badRead tids srcs = false

/-- The lowest active thread reads an operand of `n` registers: its value, 0 with no active thread. -/
def Iss.first (c : Iss) (a : Opnd) (n : Nat) : Nat := match c.tids with
  | t :: _ => c.read t a n
  | [] => 0

/-- Every strand of the issuing split exists and has an active thread, as R143 has it of a split. -/
def Iss.Live (c : Iss) : Prop := ∀ e, c.who = .split e → c.lanes ≠ [] ∧ ∀ l ∈ c.lanes, l < c.w.strands.length ∧ (c.w.strand l).active ≠ 0

/-- A transfer of control completes: it answers a next state in which every strand of the split is what `go` says of it, a helper goes on
at `at'`, `post` holds, and nothing else has changed. -/
def Transfers (i : Instr) (s : State) (c : Iss) (wr : Writes) (go : Nat → Strand → Strand → Prop) (at' : Nat → DWord) (post : Iss → Prop) : Prop :=
  ∃ t c', exec i s = .next t ∧ t.issFor c.core c.slot c.who c.cost = some c' ∧ post c' ∧ SameMemory s t ∧
    Footprint.plain.Issue s t c wr c'.w ∧ c'.w.strands.length = c.w.strands.length ∧
    (∀ l, (l ∈ c.lanes → go l (c.w.strand l) (c'.w.strand l)) ∧ (l ∉ c.lanes → c'.w.strand l = c.w.strand l)) ∧
    (∀ lane h', c.who = .helper lane → c'.hel = some h' → h'.pc = at' (4 * lane))

/-- An instruction goes on at the next one: exec answers a next state in which `post` holds, no byte of memory and no other warp has
changed, in the issuing warp only what `wr` and the frame name, and the issuer goes on. -/
def GoesOn (fr : Footprint) (i : Instr) (s : State) (c : Iss) (wr : Writes) (post : Iss → State → Prop) : Prop :=
  ∃ t c', exec i s = .next t ∧ t.issFor c.core c.slot c.who c.cost = some c' ∧ post c' t ∧ SameMemory s t ∧
    (∀ core slot, core ≠ c.core ∨ slot ≠ c.slot → t.warp? core slot = s.warp? core slot) ∧
    fr.SameWarp c.w c'.w ∧ SameRegisters c wr c'.w ∧ fr.SameStrands c c'.w ∧ WentOn c c'.w c'.hel

/-- No register, predicate, flag, latch entry or index register of the warp has changed. -/
def SameRegistersNow (c : Iss) (w' : Warp) : Prop :=
  w'.regs = c.w.regs ∧ w'.preds = c.w.preds ∧ w'.fpst = c.w.fpst ∧ w'.latches = c.w.latches ∧ w'.ixs = c.w.ixs

/-- An instruction waits: exec answers a next state in which the issuer stands parked at it, `post` holds, and no byte of memory, no program
counter and no register has changed (R162). -/
def Waits (i : Instr) (s : State) (c : Iss) (post : Iss → State → Prop) : Prop :=
  ∃ t c', exec i s = .next t ∧ t.issFor c.core c.slot c.who c.cost = some c' ∧ SameMemory s t ∧ c'.w.strands = c.w.strands ∧
    SameRegistersNow c c'.w ∧ post c' t

/-- A split waits as its status says. -/
def ParkedAs (w : Wait) (c' : Iss) : Prop := ∃ sp', c'.split = some sp' ∧ sp'.status = .parked w

/-! ### Memory commands -/

/-- What a command of an engine changes in its issuer at issue: counters, the open batch and guard slots (R28, R31, R32). -/
def Footprint.command : Footprint :=
  { Footprint.plain with
    warp := fun w => { w with loads := 0, stores := 0, copies := 0, tiles := 0, openBatch := 0, guardSlots := [], replays := [] },
    helper := fun h => { h with loads := 0, stores := 0, guardSlots := [] } }

/-- The frame of a command: every other warp is as before, every special register of a context too, and in the issuing warp no
register, predicate, flag or index register has changed, nor anything but what the frame names. -/
def Footprint.Command (fr : Footprint) (s t : State) (c : Iss) (w' : Warp) : Prop :=
  (∀ core slot, core ≠ c.core ∨ slot ≠ c.slot → t.warp? core slot = s.warp? core slot) ∧
  (∀ id, (mget? t.ctxs id).map (fun x => { x with lease := none, leaseAt := 0 }) = (mget? s.ctxs id).map (fun x => { x with lease := none, leaseAt := 0 })) ∧
  fr.SamePricking s t c Writes.none ∧ t.warp? c.core c.slot = some w' ∧ fr.SameWarp c.w w' ∧ SameRegisters c Writes.none w'

/-- A command of an engine issues: exec answers a next state in which its counter has risen by one and no other has, no register has
changed, `post` holds, and the issuer goes on. -/
def CommandIssues (fr : Footprint) (i : Instr) (s : State) (c : Iss) (cl : Option CounterCls) (post : Iss → State → Prop) : Prop :=
  ∃ t c', exec i s = .next t ∧ t.issFor c.core c.slot c.who c.cost = some c' ∧ post c' t ∧
    (∀ k, c'.counterOf k = c.counterOf k + (if cl = some k then 1 else 0)) ∧
    fr.Command s t c c'.w ∧ fr.SameStrands c c'.w ∧ WentOn c c'.w c'.hel

/-- A memory instruction can go on to its accesses: its operands are in order, its engine's queue, its counter and its guard slots have
room, and no LDA of the slot is outstanding (R27, R28, R31, R48, R126, R149, R281). -/
def MemSpec.Clear (m : MemSpec) (s : State) (c : Iss) : Prop :=
  let stids := c.srcTids m.u c.tids
  (c.hel.isSome → m.inHelper = true) ∧ c.checksCause (m.checks c) = none ∧
  c.pendingRead (s.pendingLocs c.core c.slot) stids m.srcs = false ∧ (s.pendingLocs c.core c.slot).hasIx c.tids m.dst.toList = false ∧
  c.badRead stids m.srcs = false ∧ (∀ d, m.dst = some d → c.sharedWrite (c.exec m.g) d.1 d.2 = false) ∧
  s.queueFull c.core m.fab = false ∧ (∀ cl, m.cls = some cl → c.counterOf cl < cl.max) ∧
  c.slotsFull (if m.g then s.pendingGuards c c.tids else []) = false ∧ s.ldaOpen c.core c.slot = false

/-- The units whose verdict a memory instruction takes: of every active thread where a guard is still being written, else of the
executing ones (R237, R238). -/
def MemSpec.units (m : MemSpec) (s : State) (c : Iss) : List (Nat × List Nat) :=
  c.units m.u (c.verdictTids m.g (if m.g then s.pendingGuards c c.tids else []))

/-- The engine runs the command at once: no guard of it is still being written, and no earlier command waits (R28, R29). -/
def MemSpec.AtOnce (m : MemSpec) (s : State) (c : Iss) : Prop := (m.g = true → s.pendingGuards c c.tids = []) ∧ (s.core c.core).memQ = []

/-- Every device to which something may be sent over the fabric is present (R397, R405): that of a target on a window page, of a byte for one
that stands in a buffer, and of a remote operation that has not been sent. -/
def FabricClear (s : State) (tgs : List Target) : Prop :=
  (∀ t ∈ tgs, t.space = .fabric → s.devPresent (fabricDev t.pa) = true) ∧
  (∀ core, ∀ e ∈ (s.core core).wcb, e.space = .fabric → ∀ o ∈ mkeys e.bytes, s.devPresent (fabricDev (e.line * 128 + o)) = true) ∧
  (∀ f ∈ s.fabOps, f.seq = none → s.devPresent f.dev = true)

/-- Every unit's access to global memory is aligned and translates, to the target that `tg` names, and none meets an access of the slot
that is outstanding on its line (R114, R239, R240). -/
def GlobalClear (m : MemSpec) (s : State) (c : Iss) (a : Opnd) (off : Int) (n : Nat) (kind : AccessKind) (tg : Nat → Target) : Prop :=
  (∀ x ∈ m.units s c, c.globalVa m.u x.1 a off % n = 0 ∧ s.translate c.core c.w.ctx kind (c.globalVa m.u x.1 a off) = .ok (tg x.1) ∧
    (kind = .load → s.bufferEcc c.core (tg x.1).space (tg x.1).key (tg x.1).pa n = false)) ∧
  s.overlaps c.core c.slot ((m.units s c).map (fun x =>
    ({ t := x.1, space := (tg x.1).space, addr := (tg x.1).pa, n := n, data := [], dests := [], aux := (tg x.1).key } : Access))) = false ∧
  FabricClear s ((m.units s c).map (fun x => tg x.1))

/-- The key id under which a buffer holds bytes for a target; a window page's bytes have none there (R122, R249). -/
def Target.bufKey (tg : Target) : Nat := if tg.space = .fabric then 0 else tg.key

/-- Does an access at a target cover a byte? -/
def Target.covers (tg : Target) (n : Nat) (sp : Space) (key pa : Nat) : Prop := tg.space = sp ∧ tg.bufKey = key ∧ tg.pa ≤ pa ∧ pa < tg.pa + n

/-- A load is under way: among the loads of the core is the one just issued, which will fill each destination register of each executing
thread with its word of the bytes that the core reads at the target (R121, R237, R246). -/
def LoadUnderWay (m : MemSpec) (s t : State) (c : Iss) (d : Opnd) (words n : Nat) (ext : Extend) (tg : Nat → Target) : Prop :=
  ∃ l ∈ (t.core c.core).loadsPending, l.cid = s.nextId ∧ l.slot = c.slot ∧ l.who = c.who ∧
    ∀ x ∈ m.units s c, ((tg x.1).space = .hbm ∨ (tg x.1).space = .plot) → ∀ th ∈ x.2,
      ∀ (ls : List RegLoc) (j : Nat) (loc : RegLoc) (w : Word), c.resolve th d words = .ok ls → ls[j]? = some loc →
      (loadWords ext (s.loadBytes c.core (tg x.1).space (tg x.1).key (tg x.1).pa n))[j]? = some w → (th, loc, w) ∈ l.writes

/-- A store stands in the buffer: each byte of each unit's target that no unit of a higher thread covers is held by an unacknowledged
entry of the core (R114, R122). -/
def StoreBuffered (m : MemSpec) (s t : State) (c : Iss) (n : Nat) (tg : Nat → Target) (data : Nat → List Byte) : Prop :=
  ∀ x ∈ m.units s c, ∀ i b, (data x.1)[i]? = some b → i < n → (tg x.1).space ≠ .scratch →
    (∀ y ∈ m.units s c, x.1 < y.1 → ¬ (tg y.1).covers n (tg x.1).space (tg x.1).bufKey ((tg x.1).pa + i)) →
    ∃ e ∈ t.unacked c.core, e.space = (tg x.1).space ∧ e.key = (tg x.1).bufKey ∧ e.line = ((tg x.1).pa + i) / 128 ∧
      mget? e.bytes (((tg x.1).pa + i) % 128) = some b

/-- The operands of a queued command of the lowest active thread are in order, and its guard slots have room (R28, R48, R149, R189). -/
def QueueClear (s : State) (c : Iss) (th : Nat) (ops : List (Opnd × Nat)) (g : Bool) : Prop :=
  c.hel = none ∧ c.tids.head? = some th ∧ c.opsCause [th] ops = none ∧ c.pendingRead (s.pendingLocs c.core c.slot) [th] ops = false ∧
  c.badRead [th] ops = false ∧ c.slotsFull (if g then s.pendingGuards c [th] else []) = false

/-! ### Exceptions -/

/-- The trap base of the issuer's context. -/
def State.trapBase (s : State) (c : Iss) : DWord := match s.ctxOf c.w with
  | some x => x.trapbase
  | none => 0

/-- A split may take its trap at the handler: the warp is not in trap state, and its context has a trap base (R158, R160). -/
def CanTrap (s : State) (c : Iss) (e : Nat) : Prop := c.who = .split e ∧ c.w.trap = none ∧ s.trapBase c ≠ 0

/-- A trap has been taken (R157, R158): the cause and the address of the instruction are saved, the warp is in trap state with its other
splits held, the split goes on at the trap base with its active threads unchanged, latch entries have aged if the instruction issued (R66),
and no register, no other warp and no byte of memory has changed. -/
def TrapTaken (s t : State) (c : Iss) (e : Nat) (cause : Cause) (issued : Bool) : Prop :=
  SameMemory s t ∧ (∀ core slot, core ≠ c.core ∨ slot ≠ c.slot → t.warp? core slot = s.warp? core slot) ∧
  ∃ w', t.warp? c.core c.slot = some w' ∧
    w'.trapcause = BitVec.ofNat 32 cause.code ∧ w'.trappc = c.pc ∧ w'.trap = some { strands := c.w.strandsOf e } ∧
    ({ w' with trapcause := 0, trappc := 0, trap := none, iiu := 0, splits := [], strands := [], latches := [], latchBad := [] } : Warp) =
      { c.w with trapcause := 0, trappc := 0, trap := none, iiu := 0, splits := [], strands := [], latches := [], latchBad := [] } ∧
    w'.strands.length = c.w.strands.length ∧
    (∀ l, l < c.w.strands.length → w'.strand l = { c.w.strand l with pc := if c.lanes.contains l then s.trapBase c else (c.w.strand l).pc }) ∧
    (∀ e', e' ≠ e → mget? w'.splits e' = (mget? c.w.splits e').map (fun x => { x with reserve := none })) ∧
    ∃ sp sp', c.split = some sp ∧ w'.latches = (if issued then (c.w.ageLatches sp).latches else c.w.latches) ∧ mget? w'.splits e = some sp' ∧ sp'.status = .ready ∧ sp'.strands = sp.strands ∧ sp'.reserve = none

/-- A trap has become a fault record (R160): the split is stopped at its instruction under a record of the cause, which stands among the
records, and no register has changed. -/
def RecordTaken (t : State) (c : Iss) (e : Nat) (cause inner : Nat) : Prop :=
  ∃ w' sp' n, t.warp? c.core c.slot = some w' ∧ mget? w'.splits e = some sp' ∧ sp'.status = .parked (.record n) ∧
    w'.strands = c.w.strands ∧ w'.regs = c.w.regs ∧ w'.preds = c.w.preds ∧ w'.trap = c.w.trap ∧
    ∃ r ∈ t.recQ ++ t.recOpen, r.kind = .warp ∧ r.seq = n ∧ r.ctx = c.w.ctx ∧ r.cause = cause ∧ r.inner = inner ∧ r.pc = c.pc.toNat ∧
      r.core = c.core ∧ r.slot = c.slot

/-- A helper fault has ended the helper (R287): its lane has returned, its chunk is cancelled, and the pricking holds a fault. -/
def HelperEnded (t : State) (c : Iss) (lane : Nat) (p : Pricking) (h : Helper) (cause : Cause) : Prop :=
  t.warp? c.core c.slot = some c.w ∧
  ∃ p', mget? (t.core c.core).prickings (c.slot / 2) = some p' ∧ mget? p'.helpers lane = none ∧
    (∀ l, l ≠ lane → mget? p'.helpers l = mget? p.helpers l) ∧ p'.flags = p.flags ||| h.fpst ∧
    (∀ j, h.chunk = some j → p'.chunks = setAt p.chunks j .cancelled) ∧ (h.chunk = none → (mget? p.served lane).join = none → p'.chunks = p.chunks) ∧
    (p.fault = none → p'.fault = some (h.chunk.getD 0x7F, lane, cause.code))

end Sys2Proof.Machine
end

