-- ==== Sys2Proof/Certificates/Slice0/Obligations.lean ====
section
/-! DEFINITION. The statements of this row.  Each docstring names the rules of spec/ that its statement formalises. -/

open Sys2Proof Sys2Proof.Machine

namespace Sys2Proof

/-! ### Integer engine -/

/-- A word of a source, as the R format reads it. -/
def wordOf (v : Nat) : Word := BitVec.ofNat 32 v

/-- A pair of registers, as the pair instructions read it. -/
def pairOf (v : Nat) : DWord := BitVec.ofNat 64 v

/-- A function of two words as a result. -/
def wordFn2 (fn : Word → Word → Word) (i : AluIn) : AluOut := .word (fn (wordOf i.a) (wordOf i.b))

/-- A function of one word as a result. -/
def wordFn1 (fn : Word → Word) (i : AluIn) : AluOut := .word (fn (wordOf i.a))

/-- R193, R194, R197, R199, R200: the two-source integer instructions complete with the value of Table 7-1 in every executing
thread's destination, and change nothing else. -/
def IntegerTwoSourceBasic : Prop := ∀ (s : State) (c : Iss) (f : RForm), s.iss = some c →
  ((specR f false).Clear s c →
    Completes (.add f) s c (specR f false) (wordFn2 (fun a b => a + b)) ∧
    Completes (.sub f) s c (specR f false) (wordFn2 (fun a b => a - b)) ∧
    Completes (.adds f) s c (specR f false) (wordFn2 (fun a b => BitVec.ofInt 32 (min (2 ^ 31 - 1) (max (-(2 ^ 31)) (a.toInt + b.toInt))))) ∧
    Completes (.subs f) s c (specR f false) (wordFn2 (fun a b => BitVec.ofInt 32 (min (2 ^ 31 - 1) (max (-(2 ^ 31)) (a.toInt - b.toInt))))) ∧
    Completes (.addsu f) s c (specR f false) (wordFn2 (fun a b => BitVec.ofNat 32 (min (2 ^ 32 - 1) (a.toNat + b.toNat)))) ∧
    Completes (.subsu f) s c (specR f false) (wordFn2 (fun a b => BitVec.ofNat 32 (a.toNat - b.toNat))) ∧
    Completes (.mul f) s c (specR f false) (wordFn2 (fun a b => a * b)) ∧
    Completes (.mulh f) s c (specR f false) (wordFn2 (fun a b => BitVec.ofInt 32 ((a.toInt * b.toInt) / 2 ^ 32))) ∧
    Completes (.mulhu f) s c (specR f false) (wordFn2 (fun a b => BitVec.ofNat 32 ((a.toNat * b.toNat) / 2 ^ 32))) ∧
    Completes (.min f) s c (specR f false) (wordFn2 (fun a b => if b.slt a then b else a)) ∧
    Completes (.max f) s c (specR f false) (wordFn2 (fun a b => if a.slt b then b else a)) ∧
    Completes (.minu f) s c (specR f false) (wordFn2 (fun a b => if b < a then b else a)) ∧
    Completes (.maxu f) s c (specR f false) (wordFn2 (fun a b => if a < b then b else a)) ∧
    Completes (.and f) s c (specR f false) (wordFn2 (fun a b => a &&& b)) ∧
    Completes (.or f) s c (specR f false) (wordFn2 (fun a b => a ||| b)) ∧
    Completes (.xor f) s c (specR f false) (wordFn2 (fun a b => a ^^^ b)) ∧
    Completes (.shl f) s c (specR f false) (wordFn2 (fun a b => a <<< b.toNat)) ∧
    Completes (.shr f) s c (specR f false) (wordFn2 (fun a b => a >>> b.toNat)) ∧
    Completes (.shra f) s c (specR f false) (wordFn2 (fun a b => a.sshiftRight b.toNat)) ∧
    Completes (.rol f) s c (specR f false) (wordFn2 (fun a b => a.rotateLeft (b.toNat % 32)))) ∧
  ((specR f true).Clear s c → Completes (.mad f) s c (specR f true) (fun i => .word (wordOf i.a * wordOf i.b + wordOf i.d)))

/-- R198: the divisions, with the results that the rule fixes for a divisor of zero and for the one overflow. -/
def IntegerDivision : Prop := ∀ (s : State) (c : Iss) (f : RForm), s.iss = some c → (specR f false).Clear s c →
  Completes (.divs f) s c (specR f false) (wordFn2 (fun a b =>
    if b = 0 then BitVec.allOnes 32 else if a.toInt = -(2 ^ 31) ∧ b.toInt = -1 then a else BitVec.ofInt 32 (a.toInt.tdiv b.toInt))) ∧
  Completes (.divu f) s c (specR f false) (wordFn2 (fun a b => if b = 0 then BitVec.allOnes 32 else BitVec.ofNat 32 (a.toNat / b.toNat))) ∧
  Completes (.rems f) s c (specR f false) (wordFn2 (fun a b =>
    if b = 0 then a else if a.toInt = -(2 ^ 31) ∧ b.toInt = -1 then 0 else BitVec.ofInt 32 (a.toInt.tmod b.toInt))) ∧
  Completes (.remu f) s c (specR f false) (wordFn2 (fun a b => if b = 0 then a else BitVec.ofNat 32 (a.toNat % b.toNat)))

end Sys2Proof

/-- R193, R194, R197 to R200: the integer instructions of two sources, division and remainder among them. -/
def Obligations.IntegerTwoSource : Prop := IntegerTwoSourceBasic ∧ IntegerDivision

/-- R195, R196, R201, R202: the pair instructions, the selection by the strand's guard, and the one-source instructions. -/
def Obligations.IntegerPairAndUnary : Prop := ∀ (s : State) (c : Iss), s.iss = some c →
  (∀ f : PairForm, (specPair f 2 false).Clear s c →
    Completes (.addc f) s c (specPair f 2 false) (fun i => .ofNat (pairOf i.a + pairOf i.b).toNat) ∧
    Completes (.subb f) s c (specPair f 2 false) (fun i => .ofNat (pairOf i.a - pairOf i.b).toNat)) ∧
  (∀ f : PairForm, (specPair f 1 false).Clear s c →
    Completes (.lea f) s c (specPair f 1 false) (fun i => .ofNat (pairOf i.a + (wordOf i.b).signExtend 64).toNat)) ∧
  (∀ f : SelForm, (specR { d := f.d, a := f.a, b := f.b, h := f.h, g := false, u := f.u } false).Clear s c →
    Completes (.sel f) s c (specR { d := f.d, a := f.a, b := f.b, h := f.h, g := false, u := f.u } false)
      (fun i => .ofNat (if i.guard then i.a else i.b))) ∧
  (∀ f : XForm, (specX f 1 1).Clear s c →
    Completes (.mov f) s c (specX f 1 1) (wordFn1 (fun a => a)) ∧
    Completes (.not f) s c (specX f 1 1) (wordFn1 (fun a => ~~~a)) ∧
    Completes (.neg f) s c (specX f 1 1) (wordFn1 (fun a => -a)) ∧
    Completes (.abs f) s c (specX f 1 1) (wordFn1 (fun a => if a.msb then -a else a)) ∧
    Completes (.negs f) s c (specX f 1 1) (wordFn1 (fun a => BitVec.ofInt 32 (min (2 ^ 31 - 1) (-a.toInt)))) ∧
    Completes (.abss f) s c (specX f 1 1) (wordFn1 (fun a => BitVec.ofNat 32 (min (2 ^ 31 - 1) a.toInt.natAbs))) ∧
    Completes (.clz f) s c (specX f 1 1) (wordFn1 (fun a => BitVec.ofNat 32 (if a = 0 then 32 else 31 - Nat.log2 a.toNat))) ∧
    Completes (.popc f) s c (specX f 1 1) (wordFn1 (fun a => BitVec.ofNat 32 ((List.range 32).filter (fun k => a.getLsbD k)).length)) ∧
    Completes (.brev f) s c (specX f 1 1) (wordFn1 (fun a => a.reverse)))

namespace Sys2Proof

/-- R44, R193, R199, R200, R204: the immediate forms; the 9-bit immediate is sign-extended, the 16-bit one is zero-extended, and MOVH
keeps the low half of d. -/
def IntegerImmediate : Prop := ∀ (s : State) (c : Iss), s.iss = some c →
  (∀ f : IForm, (specI f).Clear s c →
    Completes (.addi f) s c (specI f) (wordFn1 (fun a => a + f.imm.signExtend 32)) ∧
    Completes (.andi f) s c (specI f) (wordFn1 (fun a => a &&& f.imm.signExtend 32)) ∧
    Completes (.ori f) s c (specI f) (wordFn1 (fun a => a ||| f.imm.signExtend 32)) ∧
    Completes (.xori f) s c (specI f) (wordFn1 (fun a => a ^^^ f.imm.signExtend 32))) ∧
  (∀ f : ShForm, (specSh f).Clear s c →
    Completes (.shli f) s c (specSh f) (wordFn1 (fun a => a <<< f.c.val)) ∧
    Completes (.shri f) s c (specSh f) (wordFn1 (fun a => a >>> f.c.val)) ∧
    Completes (.shrai f) s c (specSh f) (wordFn1 (fun a => a.sshiftRight f.c.val))) ∧
  (∀ f : LForm, ((specL f false).Clear s c → Completes (.movl f) s c (specL f false) (fun _ => .word (f.imm.setWidth 32))) ∧
    ((specL f true).Clear s c →
      Completes (.movh f) s c (specL f true) (fun i => .word (f.imm ++ (wordOf i.d).setWidth 16))))

/-- R203: SETP writes the truth of its condition to the predicate of every executing thread; a write to p0 is ignored. -/
def IntegerCompare : Prop := ∀ (s : State) (c : Iss) (cc : IntCc) (f : CmpForm), s.iss = some c → (specC f 1).Clear s c →
  Completes (.setp cc f) s c (specC f 1) (fun i => .ofBool (
    let a := wordOf i.a
    let b := wordOf i.b
    match cc with
    | .eq => a == b
    | .ne => a != b
    | .lt => a.slt b
    | .le => a.sle b
    | .gt => b.slt a
    | .ge => b.sle a
    | .lo => a.ult b
    | .hs => b.ule a))

end Sys2Proof

/-- R44, R193, R199, R200, R203, R204: the immediate forms and SETP: the 9-bit immediate is sign-extended, the 16-bit one zero-extended, MOVH keeps the
low half of d, and SETP writes the truth of its condition to the predicate of every executing thread. -/
def Obligations.IntegerImmediateAndCompare : Prop := IntegerImmediate ∧ IntegerCompare

namespace Sys2Proof

/-! ### Float engine -/

/-- A float result with the flags it raises. -/
def fltFn' (r : AluIn → Nat × Nat) (i : AluIn) : AluOut := { val := (r i).1, flags := (r i).2, p := false }

/-- R211, R213, R216 to R218: the FP32 instructions complete with the exact result rounded once as sr.fmt says, and merge the flags
it raises. -/
def FloatSingleBasic : Prop := ∀ (s : State) (c : Iss), s.iss = some c →
  (∀ f : RForm, (specR f false).Clear s c →
    Completes (.fadd f) s c (specR f false) (fltFn' (fun i => fltAdd fp32 (.of i.fmt) i.a i.b)) ∧
    Completes (.fsub f) s c (specR f false) (fltFn' (fun i => fltSub fp32 (.of i.fmt) i.a i.b)) ∧
    Completes (.fmul f) s c (specR f false) (fltFn' (fun i => fltMul fp32 (.of i.fmt) i.a i.b)) ∧
    Completes (.fdiv f) s c (specR f false) (fltFn' (fun i => fltDiv fp32 (.of i.fmt) i.a i.b)) ∧
    Completes (.fmin f) s c (specR f false) (fltFn' (fun i => fltMinMax fp32 (.of i.fmt) false i.a i.b)) ∧
    Completes (.fmax f) s c (specR f false) (fltFn' (fun i => fltMinMax fp32 (.of i.fmt) true i.a i.b))) ∧
  (∀ f : RForm, (specR f true).Clear s c →
    Completes (.ffma f) s c (specR f true) (fltFn' (fun i => fltFma fp32 (.of i.fmt) i.a i.b i.d))) ∧
  (∀ f : XForm, (specX f 1 1).Clear s c →
    Completes (.frcp f) s c (specX f 1 1) (fltFn' (fun i => fltFn fp32 (.of i.fmt) frecip i.a)) ∧
    Completes (.frsq f) s c (specX f 1 1) (fltFn' (fun i => fltFn fp32 (.of i.fmt) frsqrt i.a)) ∧
    Completes (.fsqrt f) s c (specX f 1 1) (fltFn' (fun i => fltFn fp32 (.of i.fmt) froot i.a)) ∧
    Completes (.fexp2 f) s c (specX f 1 1) (fltFn' (fun i => fltFn fp32 (.of i.fmt) fexp2 i.a)) ∧
    Completes (.flog2 f) s c (specX f 1 1) (fltFn' (fun i => fltFn fp32 (.of i.fmt) flog2 i.a)) ∧
    Completes (.fclass f) s c (specX f 1 1) (fun i => .ofNat (fclassMask i.a)))

/-- The two halves of a packed operation: each is rounded on its own, and the flags of both are merged (R215). -/
def halves (fn : Nat → Nat → Nat → Nat × Nat) (i : AluIn) : AluOut :=
  let lo := fn (bitsOf i.a 0 16) (bitsOf i.b 0 16) (bitsOf i.d 0 16)
  let hi := fn (bitsOf i.a 16 16) (bitsOf i.b 16 16) (bitsOf i.d 16 16)
  { val := lo.1 + 2 ^ 16 * hi.1, flags := lo.2 ||| hi.2, p := false }

end Sys2Proof

/-- R214, R215: the FP64 instructions on register pairs, and the packed FP16 and BF16 instructions on both halves. -/
def Obligations.FloatDoubleAndPacked : Prop := ∀ (s : State) (c : Iss), s.iss = some c →
  (∀ f : PairForm,
    ((specPair f 2 false).Clear s c →
      Completes (.dadd f) s c (specPair f 2 false) (fltFn' (fun i => fltAdd fp64 (.of i.fmt) i.a i.b)) ∧
      Completes (.dmul f) s c (specPair f 2 false) (fltFn' (fun i => fltMul fp64 (.of i.fmt) i.a i.b))) ∧
    ((specPair f 2 true).Clear s c →
      Completes (.dfma f) s c (specPair f 2 true) (fltFn' (fun i => fltFma fp64 (.of i.fmt) i.a i.b i.d)))) ∧
  (∀ f : RForm,
    ((specR f false).Clear s c →
      Completes (.hadd2 f) s c (specR f false) (fun i => halves (fun a b _ => fltAdd fp16 (.of i.fmt) a b) i) ∧
      Completes (.hmul2 f) s c (specR f false) (fun i => halves (fun a b _ => fltMul fp16 (.of i.fmt) a b) i) ∧
      Completes (.hadd2Bf f) s c (specR f false) (fun i => halves (fun a b _ => fltAdd bf16 (.of i.fmt) a b) i) ∧
      Completes (.hmul2Bf f) s c (specR f false) (fun i => halves (fun a b _ => fltMul bf16 (.of i.fmt) a b) i)) ∧
    ((specR f true).Clear s c →
      Completes (.hfma2 f) s c (specR f true) (fun i => halves (fun a b d => fltFma fp16 (.of i.fmt) a b d) i) ∧
      Completes (.hfma2Bf f) s c (specR f true) (fun i => halves (fun a b d => fltFma bf16 (.of i.fmt) a b d) i)))

namespace Sys2Proof

/-- R219: FSETP and DSETP write the truth of their condition and merge the flags of the comparison. -/
def FloatCompare : Prop := ∀ (s : State) (c : Iss) (cc : FltCc) (f : CmpForm), s.iss = some c →
  ((specC f 1).Clear s c → Completes (.fsetp cc f) s c (specC f 1)
    (fun i => { val := 0, flags := (fltCompare fp32 (.of i.fmt) cc i.a i.b).2, p := (fltCompare fp32 (.of i.fmt) cc i.a i.b).1 })) ∧
  ((specC f 2).Clear s c → Completes (.dsetp cc f) s c (specC f 2)
    (fun i => { val := 0, flags := (fltCompare fp64 (.of i.fmt) cc i.a i.b).2, p := (fltCompare fp64 (.of i.fmt) cc i.a i.b).1 }))

end Sys2Proof

/-- R211, R213, R216 to R219: the FP32 arithmetic and the comparisons of FP32 and FP64.  The exactness of FEXP2 and FLOG2 rests on assumption 60. -/
def Obligations.FloatSingle : Prop := FloatSingleBasic ∧ FloatCompare

/-! ### Exchange engine -/

/-- R226 to R228: CVT, PACK and UNPK. -/
def Obligations.ConvertAndPack : Prop := ∀ (s : State) (c : Iss), s.iss = some c →
  (∀ (fn : CvtFn) (f : XForm), (specX f (cvtKinds fn).1.regs (cvtKinds fn).2.regs).Clear s c →
    Completes (.cvt fn f) s c (specX f (cvtKinds fn).1.regs (cvtKinds fn).2.regs) (fltFn' (fun i => convert fn (.of i.fmt) i.a))) ∧
  (∀ f : RForm, (specR f false).Clear s c →
    Completes (.pack f) s c (specR f false) (wordFn2 (fun a b => b.setWidth 16 ++ a.setWidth 16))) ∧
  (∀ (k : UnpkKind) (e : Fin 8) (f : XForm), e.val < unpkCount k → (specX f 1 1).Clear s c →
    Completes (.unpk k e f) s c (specX f 1 1) (wordFn1 (fun a => match k with
      | .zx8 => ((a >>> (8 * e.val)).setWidth 8).setWidth 32
      | .sx8 => ((a >>> (8 * e.val)).setWidth 8).signExtend 32
      | .zx16 => ((a >>> (16 * e.val)).setWidth 16).setWidth 32
      | .sx16 => ((a >>> (16 * e.val)).setWidth 16).signExtend 32
      | .zx4 => ((a >>> (4 * e.val)).setWidth 4).setWidth 32
      | .sx4 => ((a >>> (4 * e.val)).setWidth 4).signExtend 32)))

namespace Sys2Proof

/-- A shuffle whose source thread is `src` completes: a thread whose source is a live thread of the warp gets that thread's word,
with p63 true; any other keeps its destination, with p63 false. -/
def ShuffleCompletes (i : Instr) (s : State) (c : Iss) (d a : Opnd) (own : List (Opnd × Nat)) (h : Hold) (g u : Bool)
    (src : Nat → Option Nat) : Prop :=
  let source := fun (t : Nat) => (src (srcTid u t)).filter c.w.liveBit
  ExchangeClear s c (c.shuffleChecks d a own u (fun _ => src))
    (c.tids.flatMap (fun t => own.map (fun o => (srcTid u t, o))) ++ (c.exec g).flatMap (fun t => (source t).toList.map (fun j => (j, a, 1))))
    ((c.exec g).flatMap (fun t => (source t).toList.map (fun _ => (t, d, 1)))) →
  (∀ t ∈ c.exec g, ∀ j, source t = some j → s.replaying c j → j / 4 ∈ c.lanes) →
  CompletesWith i s c
    (exchangeWrites c (fun t => (c.exec g).contains t && (source t).isSome) (some (d, 1)) h
      (fun t => if (c.exec g).contains t then some 63 else none))
    (fun c' _ => ∀ t ∈ c.exec g,
      (∀ j, source t = some j → c.holds c' t d 1 (c.read j a 1) ∧ c'.held t h d (c.read j a 1) ∧ c'.pred t 63 = true) ∧
      (source t = none → c'.pred t 63 = false))

end Sys2Proof

/-- R222, R232: the shuffles take the word of the thread that Table 9-7 names, and p63 says whether there was one. -/
def Obligations.Shuffles : Prop := ∀ (s : State) (c : Iss), s.iss = some c →
  (∀ f : RForm, ShuffleCompletes (.shfl f) s c f.d f.a [(f.b, 1)] f.h f.g f.u
    (fun t => if c.read t f.b 1 < 64 then some (c.read t f.b 1) else none)) ∧
  (∀ f : ShflForm,
    ShuffleCompletes (.shflu f) s c f.d f.a [] none f.g f.u (fun t => if f.k.val ≤ t then some (t - f.k.val) else none) ∧
    ShuffleCompletes (.shfld f) s c f.d f.a [] none f.g f.u (fun t => if t + f.k.val < 64 then some (t + f.k.val) else none) ∧
    ShuffleCompletes (.shflx f) s c f.d f.a [] none f.g f.u (fun t => some (t ^^^ f.k.val)) ∧
    ShuffleCompletes (.bcast f) s c f.d f.a [] none f.g f.u (fun _ => some f.k.val))

namespace Sys2Proof

/-- The terms of a collective: the executing threads, or slot 0 of each of their strands under u (R233). -/
def IsTerm (c : Iss) (g u : Bool) (k : Nat) : Prop := ∃ t ∈ c.exec g, srcTid u t = k

end Sys2Proof

/-- R233, R235: the votes and MATCH give every executing thread of the split the same kind of answer: whether all or any of the terms
hold, the mask of those that hold, and the mask of the threads whose value agrees under b. -/
def Obligations.VotesAndMatch : Prop := ∀ (s : State) (c : Iss), s.iss = some c →
  (∀ f : VoteForm, ExchangeClear s c [] [] [] →
    CompletesWith (.voteAll f) s c (exchangeWrites c (fun _ => false) none none (fun t => if (c.exec f.g).contains t then some f.p.val else none))
      (fun c' _ => ∀ t ∈ c.exec f.g, f.p ≠ 0 → (c'.pred t f.p.val = true ↔ ∀ k, IsTerm c f.g f.u k → c.pred k f.q.val = true)) ∧
    CompletesWith (.voteAny f) s c (exchangeWrites c (fun _ => false) none none (fun t => if (c.exec f.g).contains t then some f.p.val else none))
      (fun c' _ => ∀ t ∈ c.exec f.g, f.p ≠ 0 → (c'.pred t f.p.val = true ↔ ∃ k, IsTerm c f.g f.u k ∧ c.pred k f.q.val = true))) ∧
  (∀ f : BallotForm, ExchangeClear s c (c.checkAll [(f.d, 2)]) [] ((c.exec f.g).map (fun t => (t, f.d, 2))) →
    CompletesWith (.voteBallot f) s c (exchangeWrites c (fun t => (c.exec f.g).contains t) (some (f.d, 2)) none (fun _ => none))
      (fun c' _ => ∀ m, m < 2 ^ 64 → (∀ k, k < 64 → (hasBit m k = true ↔ IsTerm c f.g f.u k ∧ c.pred k f.q.val = true)) →
        ∀ t ∈ c.exec f.g, c.holds c' t f.d 2 m)) ∧
  (∀ f : MatchForm,
    ExchangeClear s c (c.checkAll [(f.d, 2), (f.a, 1), (f.b, 1)]) (c.tids.flatMap (fun t => [(t, f.a, 1), (t, f.b, 1)]))
      ((c.exec f.g).map (fun t => (t, f.d, 2))) →
    CompletesWith (.matchMask f) s c (exchangeWrites c (fun t => (c.exec f.g).contains t) (some (f.d, 2)) f.h (fun _ => none))
      (fun c' _ => ∀ t ∈ c.exec f.g, c'.held t f.h f.d (c.read t f.a 1) ∧
        ∀ m, m < 2 ^ 64 → (∀ k, k < 64 → (hasBit m k = true ↔
          k ∈ c.exec f.g ∧ wordOf (c.read k f.a 1) &&& wordOf (c.read t f.b 1) = wordOf (c.read t f.a 1) &&& wordOf (c.read t f.b 1))) →
        c.holds c' t f.d 2 m))

/-- R111, R234: REDX gives every executing thread the root of the fixed tree over the terms, an absent term passing the other, with the
flags of the nodes and of a signalling NaN among the terms. -/
def Obligations.Reduction : Prop := ∀ (s : State) (c : Iss) (op : RedOp) (f : XForm) (v fl : Nat), s.iss = some c →
  ExchangeClear s c (c.redxChecks op f) (c.tids.map (fun t => (srcTid f.u t, f.a, op.regs)))
    ((c.exec f.g).map (fun t => (t, f.d, op.regs))) →
  treeReduce op ((upto 64).map (fun k => if (c.exec f.g).any (fun t => srcTid f.u t == k) then some (c.read k f.a op.regs, 0) else none)) =
    some (v, fl) →
  CompletesWith (.redx op f) s c (exchangeWrites c (fun t => (c.exec f.g).contains t) (some (f.d, op.regs)) f.h (fun _ => none))
    (fun c' _ => ∀ t ∈ c.exec f.g, c.holds c' t f.d op.regs (redDeliver op v) ∧ c'.held t f.h f.d (c.read (srcTid f.u t) f.a op.regs) ∧
      ((∀ F, op.fmt = some F → ∀ k, IsTerm c f.g f.u k → isSnanBits F (c.read k f.a op.regs) = false) →
        c'.flagsOf t = c.flagsOf t ||| fl) ∧
      (∀ F k, op.fmt = some F → IsTerm c f.g f.u k → isSnanBits F (c.read k f.a op.regs) = true →
        c'.flagsOf t = c.flagsOf t ||| (fl ||| flagNV)))

namespace Sys2Proof

/-- The granules of the run of a thread (R230): the eight elements of each member, zeros for a thread that does not execute. -/
def runGranules (c : Iss) (f : QForm) (len r : Nat) (q : QntRun) : List (List FVal) :=
  (upto len).map (fun k => if (c.exec f.g).contains (len * r + k) then granuleElems q.bfin (FEnv.of (BitVec.ofNat 32 q.fmt)).ftz (c.read (len * r + k) f.a 8)
    else List.replicate 8 (.fin false 0 0))

end Sys2Proof

/-- R108 to R110, R229, R230: QNT gives each executing thread the codes of its granule under the scale of the granule's block, and
puts the scale code and the boundary bit into b, whose bits 31:12 stay.  The scale of a block of zeros is 0x00 in the INT formats too (assumption 85), and
FP4 codes set NX without UF (assumption 67). -/
def Obligations.Quantise : Prop := ∀ (s : State) (c : Iss) (f : QForm), s.iss = some c →
  ExchangeClear s c (c.checkAll [(f.a, 8), (f.b, 1), (f.x, 4)]) (c.tids.flatMap (fun t => [(t, f.b, 1), (t, f.a, c.qntRegs f t)]))
    ((c.exec f.g).flatMap (fun t => [(t, f.x, 4), (t, f.b, 1)])) →
  c.qntLen f ≠ 7 → (∀ t ∈ c.runHeads f, (c.qntRun f.b t).bad = false) →
  CompletesWith (.qnt f) s c
    { reg := fun th l => (c.exec f.g).contains th && (c.names th f.x 4 l || c.names th f.b 1 l), pred := fun _ _ => false,
      flags := fun th => (c.exec f.g).contains th, index := fun _ _ => false }
    (fun c' _ => ∀ t0 ∈ c.runHeads f, ∀ t ∈ c.exec f.g, t / 2 ^ c.qntLen f = t0 / 2 ^ c.qntLen f →
      let len := 2 ^ c.qntLen f
      let q := c.qntRun f.b t0
      let elem := q.elem.getD .int4
      let grans := runGranules c f len (t0 / len) q
      let mags := grans.map granuleMag
      let starts := formBlocks (bitsOf q.fmt 24 4) (bitsOf q.fmt 16 8) mags
      let scale := blockScale elem (betaMag q.beta) (((blockMags starts mags)[t % len]?).getD (0, 0))
      let code := placeCodes elem.slotBits (((grans[t % len]?).getD []).map (elemCodeOf elem (FEnv.of (BitVec.ofNat 32 q.fmt)) (betaMag q.beta) scale))
      c.holds c' t f.b 1 (bitsOf (c.read t f.b 1) 12 20 * 2 ^ 12 + (if starts[t % len]? = some true then 2 ^ 8 else 0) + scale) ∧
      (∀ l, c.names t f.x (elem.slotBits / 4) l = true → c.names t f.b 1 l = false → ∀ ls j, c.resolve t f.x (elem.slotBits / 4) = .ok ls → ls[j]? = some l →
        c'.readLoc t l = BitVec.ofNat 32 (code.1 / 2 ^ (32 * j))) ∧
      c'.flagsOf t = c.flagsOf t ||| code.2)

/-- R99, R231: DQNT gives each executing thread the FP32 values of its eight codes under the scale in b and the band scale. -/
def Obligations.Dequantise : Prop := ∀ (s : State) (c : Iss) (f : QForm), s.iss = some c →
  ExchangeClear s c (c.checkAll [(f.a, 4), (f.b, 1), (f.x, 8)]) (c.tids.flatMap (fun t => [(t, f.a, c.dqntRegs t), (t, f.b, 1)]))
    ((c.exec f.g).map (fun t => (t, f.x, 8))) →
  (∀ t ∈ c.exec f.g, (c.qntRun f.b t).bad = false) →
  CompletesWith (.dqnt f) s c (exchangeWrites c (fun t => (c.exec f.g).contains t) (some (f.x, 8)) none (fun _ => none))
    (fun c' _ => ∀ t ∈ c.exec f.g,
      let elem := (c.qntRun f.b t).elem.getD .int4
      let val := fun (i : Nat) => roundToFormat fp32 (.of (c.fmt t)) (codeValue elem (bitsOf (c.read t f.b 1) 0 8) (betaMag (c.qntRun f.b t).beta)
        (bitsOf (c.read t f.a 4) (elem.slotBits * i) elem.slotBits))
      c.holds c' t f.x 8 (placeCodes 32 ((upto 8).map val)).1 ∧
      c'.flagsOf t = c.flagsOf t ||| (placeCodes 32 ((upto 8).map val)).2)

namespace Sys2Proof

/-! ### Sequencer -/

/-- What a plog instruction may write. -/
def plogWrites (c : Iss) (g : Bool) (p : Nat) : Writes := { Writes.none with pred := fun th q => (c.exec g).contains th && q == p }

end Sys2Proof

/-- R172 to R174, R185: NOP, YIELD, the guard selectors, the predicate logic and ELECT complete.  A helper has p0 to p15 only (R278).
Which of a split's issues YIELD takes as its last is the model's reading (assumption 71). -/
def Obligations.SequencerPredicates : Prop := ∀ (s : State) (c : Iss), s.iss = some c → ∀ ok : Nat → Prop, (∀ p, ok p ↔ (c.hel.isSome → p < 16)) →
  CompletesWith .nop s c Writes.none (fun _ _ => True) ∧
  CompletesWith .yield s c Writes.none (fun c' t =>
    (∀ r, (t.core c.core).run = some r → r.slot = c.slot → r.who = c.who → 1 < r.since) ∧
    (∀ r, (s.core c.core).run = some r → r.slot = c.slot → r.who = c.who → r.since = 0 → (t.core c.core).run = none) ∧
    (∀ sp', c.resumed = none → c.issued = false → c'.split = some sp' → sp'.age = 0)) ∧
  (∀ p : Fin 64, ok p.val → ∀ inv : Bool,
    CompletesIn { Footprint.plain with strand := fun st => { st with guardP := 0, guardInv := false },
                                       helper := fun h => { h with guardP := 0, guardInv := false } }
      (if inv then .guardn p else .guard p) s c Writes.none
      (fun c' _ => (∀ l ∈ c.lanes, l < c.w.strands.length → (c'.w.strand l).guardP = p.val ∧ (c'.w.strand l).guardInv = inv) ∧
        (∀ h', c'.hel = some h' → h'.guardP = p.val ∧ h'.guardInv = inv))) ∧
  (∀ (p : Fin 64) (g : Bool), ok p.val →
    CompletesWith (.elect p g) s c { Writes.none with pred := fun th q => c.tids.contains th && q == p.val }
      (fun c' _ => p ≠ 0 → ∀ t ∈ c.tids, (c'.pred t p.val = true ↔ c.hel.isSome ∨ (c.exec g).head? = some t))) ∧
  (∀ f : PLogForm, ok f.p.val → ok f.q.val → ok f.r.val →
    CompletesWith (.pand f) s c (plogWrites c f.g f.p.val)
      (fun c' _ => f.p ≠ 0 → ∀ t ∈ c.exec f.g, c'.pred t f.p.val = (c.pred (srcTid f.u t) f.q.val && c.pred (srcTid f.u t) f.r.val)) ∧
    CompletesWith (.por f) s c (plogWrites c f.g f.p.val)
      (fun c' _ => f.p ≠ 0 → ∀ t ∈ c.exec f.g, c'.pred t f.p.val = (c.pred (srcTid f.u t) f.q.val || c.pred (srcTid f.u t) f.r.val)) ∧
    CompletesWith (.pxor f) s c (plogWrites c f.g f.p.val)
      (fun c' _ => f.p ≠ 0 → ∀ t ∈ c.exec f.g, c'.pred t f.p.val = (c.pred (srcTid f.u t) f.q.val ^^ c.pred (srcTid f.u t) f.r.val))) ∧
  (∀ f : PUnForm, ok f.p.val → ok f.q.val →
    CompletesWith (.pnot f) s c (plogWrites c f.g f.p.val)
      (fun c' _ => f.p ≠ 0 → ∀ t ∈ c.exec f.g, c'.pred t f.p.val = !c.pred (srcTid f.u t) f.q.val) ∧
    CompletesWith (.pmov f) s c (plogWrites c f.g f.p.val)
      (fun c' _ => f.p ≠ 0 → ∀ t ∈ c.exec f.g, c'.pred t f.p.val = c.pred (srcTid f.u t) f.q.val))

namespace Sys2Proof

/-- What a strand does at a transfer that its active threads all take, or all do not take, or on which they divide (R145, R168). -/
def BranchGo (taken : Nat → Bool) (target next : DWord) (l : Nat) (st st' : Strand) : Prop :=
  let on := fun (k : Nat) => st.active.getLsbD k
  ((∀ k, k < 4 → on k = true → taken (4 * l + k) = true) → st' = { st with pc := target }) ∧
  ((∀ k, k < 4 → on k = true → taken (4 * l + k) = false) → st' = { st with pc := next }) ∧
  (∀ k j, k < 4 → j < 4 → on k = true → on j = true → (∀ i, i < k → on i = false) → taken (4 * l + k) ≠ taken (4 * l + j) →
    (∀ i, i < 4 → st'.active.getLsbD i = (on i && taken (4 * l + i) == taken (4 * l + k))) ∧
    st'.pc = (if taken (4 * l + k) then target else next) ∧ st'.fmt = st.fmt ∧ st'.guardP = st.guardP ∧ st'.guardInv = st.guardInv ∧
    ∃ m, st'.stack = { kind := .path, mask := m, pc := some (if taken (4 * l + k) then next else target), fmt := st.fmt } ::
        { kind := .join, mask := st.active, pc := none, fmt := st.fmt } :: st.stack ∧
      ∀ i, i < 4 → m.getLsbD i = (on i && taken (4 * l + i) != taken (4 * l + k)))

/-- The stack of every strand of the split has room for the most entries that a transfer pushes (R145, Table 6-1). -/
def stackRoom (c : Iss) (n : Nat) : Prop := ∀ l ∈ c.lanes, (c.w.strand l).stack.length + n ≤ 16

/-- The writes of a link into v62:v63 by the threads of a list. -/
def linkWrites (c : Iss) (ts : List Nat) : Writes := { Writes.none with reg := fun th l => ts.contains th && c.names th linkOpnd 2 l }

/-- R44, R145, R168: BR, BRP and CALL transfer their threads to pc + 4 off17, and CALL writes pc + 4 into v62:v63 of the threads that go. -/
def RelativeBranches : Prop := ∀ (s : State) (c : Iss), s.iss = some c → c.Live → stackRoom c 2 →
  (∀ off : BitVec 17, Transfers (.br off) s c Writes.none (fun _ st st' => st' = { st with pc := c.pc + off.signExtend 64 * 4 })
    (fun _ => c.pc + off.signExtend 64 * 4) (fun _ => True)) ∧
  (∀ f : BForm, (c.hel.isSome → f.p.val < 16) →
    Transfers (.brp f) s c Writes.none (BranchGo (fun t => c.pred t f.p.val != f.n) (c.pc + f.off.signExtend 64 * 4) (c.pc + 4))
      (fun t => if c.pred t f.p.val != f.n then c.pc + f.off.signExtend 64 * 4 else c.pc + 4) (fun _ => True)) ∧
  (∀ f : BForm, SeqClear s c false [] [] (some (linkOpnd, 2)) →
    c.sharedWrite (c.tids.filter (fun t => c.pred t f.p.val != f.n)) linkOpnd 2 = false →
    Transfers (.call f) s c (linkWrites c (c.tids.filter (fun t => c.pred t f.p.val != f.n)))
      (BranchGo (fun t => c.pred t f.p.val != f.n) (c.pc + f.off.signExtend 64 * 4) (c.pc + 4)) (fun _ => 0)
      (fun c' => ∀ t ∈ c.tids, (c.pred t f.p.val != f.n) = true → c.holds c' t linkOpnd 2 (c.pc + 4).toNat))

/-- What a strand does at an indirect transfer (R145, R170): threads with equal targets go together, the lowest thread's first. -/
def IndirectGo (target : Nat → DWord) (l : Nat) (st st' : Strand) : Prop :=
  transferStrand st l (fun t => (target t).toNat) target = some st' ∧
  (∀ v, (∀ k, k < 4 → st.active.getLsbD k = true → target (4 * l + k) = v) → st' = { st with pc := v }) ∧
  (∀ k, k < 4 → st.active.getLsbD k = true → (∀ i, i < k → st.active.getLsbD i = false) →
    st'.pc = target (4 * l + k) ∧
    ∀ i, i < 4 → st'.active.getLsbD i = (st.active.getLsbD i && target (4 * l + i) == target (4 * l + k)))

/-- R50, R145, R170: BRI, CALLI and RET transfer each thread to its own target where every target is a word address below 2^57. -/
def IndirectBranches : Prop := ∀ (s : State) (c : Iss), s.iss = some c → c.Live → stackRoom c 4 →
  (∀ a : Opnd, SeqClear s c false c.tids [(a, 2)] none →
    (∀ t ∈ c.tids, (c.read64 t a).toNat % 4 = 0 ∧ (c.read64 t a).toNat < 2 ^ 57) →
    Transfers (.bri a) s c Writes.none (IndirectGo (fun t => c.read64 t a)) (fun _ => 0) (fun _ => True) ∧
    (a = linkOpnd → Transfers .ret s c Writes.none (IndirectGo (fun t => c.read64 t a)) (fun _ => 0) (fun _ => True))) ∧
  (∀ a : Opnd, SeqClear s c false c.tids [(a, 2)] (some (linkOpnd, 2)) →
    (∀ t ∈ c.tids, (c.read64 t a).toNat % 4 = 0 ∧ (c.read64 t a).toNat < 2 ^ 57) → c.sharedWrite c.tids linkOpnd 2 = false →
    Transfers (.calli a) s c (linkWrites c c.tids) (IndirectGo (fun t => c.read64 t a)) (fun _ => 0)
      (fun c' => ∀ t ∈ c.tids, c.holds c' t linkOpnd 2 (c.pc + 4).toNat))

end Sys2Proof

/-- R44, R50, R145, R168, R170: BR, BRP, CALL, BRI, CALLI and RET. -/
def Obligations.Branches : Prop := RelativeBranches ∧ IndirectBranches

/-- R65, R179 to R181, R185: WBASE, IXSET, IXADD, FMT and CLASS complete with the value that each writes. -/
def Obligations.WindowIndexFormat : Prop := ∀ (s : State) (c : Iss), s.iss = some c →
  (∀ (a : Opnd) (n : BitVec 9), SeqClear s c false (c.tids.take 1) [(a, 1)] none → c.w.splits.length ≤ 1 →
    let v := c.first a 1 + n.toNat
    v % 8 = 0 → v ≤ (if c.w.fileSize = 256 then 136 else if c.w.fileSize = 128 then 8 else 0) →
    CompletesIn { Footprint.plain with warp := fun w => { w with wbase := 0 } } (.wbase a n) s c Writes.none (fun c' _ => c'.w.wbase = v)) ∧
  (∀ (a : Opnd) (k : Fin 4) (g u : Bool), SeqClear s c false ((c.tids.map (srcTid u)).dedup) [(a, 1)] none →
    (∀ t ∈ c.exec g, let v := c.read (srcTid u t) a 1
      bitsOf v 24 8 + bitsOf v 19 5 + 1 ≤ c.w.fileSize) →
    CompletesWith (.ixset a k g u) s c { Writes.none with index := fun th j => (c.exec g).contains th && j == k.val }
      (fun c' _ => ∀ t ∈ c.exec g, c'.w.ix t k.val = wordOf (c.read (srcTid u t) a 1) &&& 0xFFF800FF#32)) ∧
  (∀ (a : Opnd) (k : Fin 4) (m : BitVec 7) (g u : Bool), SeqClear s c false ((c.tids.map (srcTid u)).dedup) [(a, 1)] none →
    CompletesWith (.ixadd a k m g u) s c { Writes.none with index := fun th j => (c.exec g).contains th && j == k.val }
      (fun c' _ => ∀ t ∈ c.exec g, c'.w.ix t k.val = (c.w.ix t k.val &&& 0xFFFFFF00#32) |||
        ((c.w.ix (srcTid u t) k.val + wordOf (c.read (srcTid u t) a 1) + m.signExtend 32) &&& 0xFF#32))) ∧
  (∀ (a : Opnd) (e : Elem) (r : Rnd) (q : Sat), SeqClear s c true (c.strandHeads.map (fun x => x.2)) [(a, 1)] none →
    CompletesIn { Footprint.plain with strand := fun st => { st with fmt := 0 }, helper := fun h => { h with fmt := 0 } } (.fmt a e r q) s c Writes.none
      (fun c' _ => ∀ x ∈ c.strandHeads, (c.hel = none → x.1 < c.w.strands.length) →
        let old := (c.fmt x.2).toNat
        let new := (c'.fmt x.2).toNat
        let src := if a = .vz then old else c.read x.2 a 1
        bitsOf new 12 4 = elemCode e ∧ bitsOf new 9 3 = rndCode r ∧ bitsOf new 6 2 = satCode q ∧
        bitsOf new 24 4 = bitsOf src 24 4 ∧ bitsOf new 16 8 = bitsOf src 16 8 ∧ bitsOf new 8 1 = bitsOf src 8 1 ∧
        bitsOf new 0 6 = bitsOf old 0 6 ∧ bitsOf new 28 4 = bitsOf old 28 4)) ∧
  (∀ (cl : TimingClass) (n : Fin 8),
    CompletesWith (.classHint cl n) s c Writes.none (fun c' _ => (∀ sp', c'.split = some sp' → sp'.reserve = some (cl, n.val + 1)) ∧
      ∀ h', c'.hel = some h' → h'.reserve = some (cl, n.val + 1)))

/-- R71, R182, R183: RDSR gives each executing thread the register's value; WRSR writes the four registers that are RW.  The start value of sr.trappc
is no part of it (assumption 7); what a helper reads is assumption 72, sr.iiu before the RDSR's own charge assumption 73, and whose value WRSR writes once
for a strand or split assumption 94. -/
def Obligations.SpecialRegisters : Prop := ∀ (s : State) (c : Iss), s.iss = some c →
  (∀ (d : Opnd) (r : SpecReg) (g u : Bool), let n := if r.wide then 2 else 1
    SeqClear s c true c.tids [] (some (d, n)) → c.sharedWrite (c.exec g) d n = false →
    CompletesWith (.rdsr d r g u) s c { Writes.none with reg := fun th l => (c.exec g).contains th && c.names th d n l }
      (fun c' _ => ∀ t ∈ c.exec g, c.holds c' t d n (s.readSpec c r (srcTid u t)))) ∧
  (∀ (a : Opnd) (g u : Bool), SeqClear s c true ((c.tids.map (srcTid u)).dedup) [(a, 1)] none →
    CompletesWith (.wrsr a .fpst g u) s c { Writes.none with flags := fun th => (c.exec g).contains th }
      (fun c' _ => ∀ t ∈ c.exec g, c'.flagsOf t = c.read (srcTid u t) a 1 % 32)) ∧
  (∀ (a : Opnd) (g u : Bool), SeqClear s c true (c.strandHeads.map (fun x => x.2)) [(a, 1)] none →
    (∀ x ∈ c.strandHeads, (∃ t ∈ c.exec g, t / 4 = x.1) →
      let v := c.read x.2 a 1
      bitsOf v 12 4 < 11 ∧ bitsOf v 9 3 < 5 ∧ bitsOf v 6 2 < 3) →
    CompletesIn { Footprint.plain with strand := fun st => { st with fmt := 0 }, helper := fun h => { h with fmt := 0 } } (.wrsr a .fmt g u) s c Writes.none
      (fun c' _ => ∀ x ∈ c.strandHeads, (c.hel = none → x.1 < c.w.strands.length) →
        ((∃ t ∈ c.exec g, t / 4 = x.1) → c'.fmt x.2 = wordOf (c.read x.2 a 1) &&& 0x0FFFFFC0#32) ∧
        ((∀ t ∈ c.exec g, t / 4 ≠ x.1) → c'.fmt x.2 = c.fmt x.2))) ∧
  (∀ (a : Opnd) (g u : Bool), SeqClear s c true (c.tids.take 1) [(a, 2)] none → c.hel = none → c.exec g ≠ [] →
    CompletesIn { Footprint.plain with warp := fun w => { w with trappc := 0 } } (.wrsr a .trappc g u) s c Writes.none
      (fun c' _ => c'.w.trappc = BitVec.ofNat 64 (c.first a 2)) ∧
    CompletesIn { Footprint.plain with ctx := fun x => { x with trapbase := 0 } } (.wrsr a .trapbase g u) s c Writes.none
      (fun c' t => (∀ x, s.ctxOf c.w = some x → ∃ x', t.ctxOf c'.w = some x' ∧ x'.trapbase = BitVec.ofNat 64 (c.first a 2) &&& ~~~3#64) ∧
        (∀ id, id ≠ c.w.ctx → (mget? t.ctxs id) = (mget? s.ctxs id))))

/-- R32, R176 to R178: MWAIT with a monitor fired or none armed, WAITC with its limits met, FENCEB, and WAITB for a complete batch go on.  With
several splits in MWAIT, which of them sees the fired bits is the model's reading (assumption 17). -/
def Obligations.Waits : Prop := ∀ (s : State) (c : Iss), s.iss = some c → 
  (∀ (d : Opnd) (t : BitVec 9) (sp : Split), SeqClear s c false c.tids [] (some (d, 1)) → c.sharedWrite c.tids d 1 = false → c.split = some sp →
    ((sp.status = .ready ∧ (c.w.anyFired = true ∨ (t = 0 ∧ ∀ m ∈ c.w.monitors, m.armed = false))) ∨
      ((∃ dl d', sp.status = .parked (.mwait dl d')) ∧ c.w.anyFired = true)) →
    CompletesIn { Footprint.plain with warp := fun w => { w with monitors := [] } } (.mwait d t) s c
      { Writes.none with reg := fun th l => c.tids.contains th && c.names th d 1 l }
      (fun c' _ => c'.w.monitors = c.w.monitors.map (fun m => { m with fired := false }) ∧
        ∀ m, m < 16 → (∀ k, k < 4 → (hasBit m k = true ↔ ∃ x, c.w.monitors[k]? = some x ∧ x.fired = true)) → ∀ th ∈ c.tids, c.holds c' th d 1 m)) ∧
  (∀ (cps : BitVec 5) (lds sts : BitVec 6) (tls : BitVec 4), c.counterOf .loads ≤ lds.toNat → c.counterOf .stores ≤ sts.toNat →
    (c.hel = none → c.w.copies ≤ cps.toNat ∧ c.w.tiles ≤ tls.toNat) → CompletesWith (.waitc cps lds sts tls) s c Writes.none (fun _ _ => True)) ∧
  (c.hel = none → c.w.batches.length < 8 →
    CompletesIn { Footprint.plain with warp := fun w => { w with batch := 0, batches := [], openBatch := 0 } } .fenceb s c Writes.none
      (fun c' _ => c'.w.batch = c.w.batch + 1 ∧ c'.w.openBatch = 0 ∧
        ((∀ b, c.w.batches.head? = some b → b.2 ≠ 0) → c'.w.batches = c.w.batches ++
          (if c.w.batches = [] ∧ c.w.openBatch = 0 then [] else [((c.w.batch.toNat + 1) % 2 ^ 32, c.w.openBatch)])))) ∧
  (∀ (a : Opnd) (n : BitVec 9), SeqClear s c false (c.tids.take 1) [(a, 1)] none → c.resumed = none →
    let v := (c.first a 1 + n.toNat) % 2 ^ 32
    (∀ b ∈ c.w.batches, batchLater b.1 (if batchLater v c.w.batch.toNat then c.w.batch.toNat else v) = true) →
    CompletesWith (.waitb a n) s c Writes.none (fun _ _ => True))

namespace Sys2Proof

/-! ### Memory engine -/

/-- The operands of a load of global memory. -/
def loadSpec (d a : Opnd) (words : Nat) (g u : Bool) : MemSpec :=
  { inHelper := true, g := g, u := u, cls := some .loads, srcs := [(a, 2)], dst := some (d, words) }

/-- The operands of a store to global memory. -/
def storeSpec (d a : Opnd) (words : Nat) (g u : Bool) : MemSpec :=
  { inHelper := true, g := g, u := u, cls := some .stores, srcs := [(d, words), (a, 2)], dst := none }

end Sys2Proof

/-- R31, R114, R121, R237, R240, R246: LD and LDN issue where every address is aligned and translates: the loads counter rises, no byte of memory and
no register changes at issue, and the load is under way with the bytes read at its issue. LDA reads at its return (R126).  That a load's bytes are
those read at its issue is the model's reading (assumption 61). -/
def Obligations.GlobalLoads : Prop := ∀ (s : State) (c : Iss), s.iss = some c →
  (∀ (k : MWidth) (f : MForm) (tg : Nat → Target), (Instr.ld k f).wf = true → (loadSpec f.d f.a k.words f.g f.u).Clear s c →
    GlobalClear (loadSpec f.d f.a k.words f.g f.u) s c f.a (f.off.toInt * k.bytes) k.bytes .load tg →
    CommandIssues Footprint.command (.ld k f) s c (some .loads) (fun _ t => SameMemory s t ∧ ((loadSpec f.d f.a k.words f.g f.u).AtOnce s c →
      LoadUnderWay (loadSpec f.d f.a k.words f.g f.u) s t c f.d k.words k.bytes .none tg))) ∧
  (∀ (k : NarrowLoad) (f : MForm) (tg : Nat → Target), (loadSpec f.d f.a 1 f.g f.u).Clear s c →
    GlobalClear (loadSpec f.d f.a 1 f.g f.u) s c f.a (f.off.toInt * k.bytes) k.bytes .load tg →
    CommandIssues Footprint.command (.ldn k f) s c (some .loads) (fun _ t => SameMemory s t ∧ ((loadSpec f.d f.a 1 f.g f.u).AtOnce s c →
      LoadUnderWay (loadSpec f.d f.a 1 f.g f.u) s t c f.d 1 k.bytes (match k with
        | .zx8 | .zx16 => .zero
        | .sx8 | .sx16 => .sign) tg))) ∧
  (∀ (k : MWidth) (sc : Scope) (f : ScopedForm) (tg : Nat → Target), (loadSpec f.d f.a k.words f.g f.u).Clear s c →
    GlobalClear (loadSpec f.d f.a k.words f.g f.u) s c f.a 0 k.bytes .load tg →
    CommandIssues Footprint.command (.lda k sc f) s c (some .loads) (fun _ t => SameMemory s t))

/-- R31, R114, R121, R122, R246: ST and STN issue where every address is aligned and translates: the stores counter rises, the bytes
stand in the buffer, and every byte that the core reads at another address is as before.  STL's write waits for its release
actions, so every byte is as before (R125). -/
def Obligations.GlobalStores : Prop := ∀ (s : State) (c : Iss), s.iss = some c →
  (∀ (k : MWidth) (f : MForm) (tg : Nat → Target), (storeSpec f.d f.a k.words f.g f.u).Clear s c →
    GlobalClear (storeSpec f.d f.a k.words f.g f.u) s c f.a (f.off.toInt * k.bytes) k.bytes .store tg →
    CommandIssues Footprint.command (.st k f) s c (some .stores) (fun _ t => SameMemory s t ∧
      (∀ core sp key pa, (∀ x ∈ (storeSpec f.d f.a k.words f.g f.u).units s c, ¬ (tg x.1).covers k.bytes sp key pa) →
        t.loadBytes core sp key pa 1 = s.loadBytes core sp key pa 1) ∧
      ((storeSpec f.d f.a k.words f.g f.u).AtOnce s c →
        StoreBuffered (storeSpec f.d f.a k.words f.g f.u) s t c k.bytes tg (fun th => leBytes k.bytes (c.read (srcTid f.u th) f.d k.words))))) ∧
  (∀ (k : NarrowStore) (f : MForm) (tg : Nat → Target), (storeSpec f.d f.a 1 f.g f.u).Clear s c →
    GlobalClear (storeSpec f.d f.a 1 f.g f.u) s c f.a (f.off.toInt * k.bytes) k.bytes .store tg →
    CommandIssues Footprint.command (.stn k f) s c (some .stores) (fun _ t => SameMemory s t ∧
      (∀ core sp key pa, (∀ x ∈ (storeSpec f.d f.a 1 f.g f.u).units s c, ¬ (tg x.1).covers k.bytes sp key pa) →
        t.loadBytes core sp key pa 1 = s.loadBytes core sp key pa 1) ∧
      ((storeSpec f.d f.a 1 f.g f.u).AtOnce s c →
        StoreBuffered (storeSpec f.d f.a 1 f.g f.u) s t c k.bytes tg (fun th => leBytes k.bytes (c.read (srcTid f.u th) f.d 1))))) ∧
  (∀ (k : MWidth) (sc : Scope) (f : ScopedForm) (tg : Nat → Target), (storeSpec f.d f.a k.words f.g f.u).Clear s c →
    GlobalClear (storeSpec f.d f.a k.words f.g f.u) s c f.a 0 k.bytes .store tg →
    CommandIssues Footprint.command (.stl k sc f) s c (some .stores) (fun _ t => SameMemory s t ∧
      ∀ core sp key pa, t.loadBytes core sp key pa 1 = s.loadBytes core sp key pa 1))

namespace Sys2Proof

/-- Every byte of the cores' scratchpads but those of one core from `lo` on for some units is as before. -/
def ScratchFrame (s t : State) (c : Iss) (units : List (Nat × List Nat)) (n : Nat) (byte : Nat → Nat) : Prop :=
  ∀ core a, (core ≠ c.core ∨ ∀ x ∈ units, ¬(byte x.1 ≤ a ∧ a < byte x.1 + n)) → (t.core core).scrByte a = (s.core core).scrByte a

end Sys2Proof

/-- R250, R251, R254: LDS and STS of the core's own allocation issue: LDS reads the scratchpad bytes at issue (the form v0 with offset 0
at 0x40000000 reads the handle), and STS writes them, the highest thread's standing, and no other. -/
def Obligations.ScratchpadAccesses : Prop := ∀ (s : State) (c : Iss), s.iss = some c → c.resumed = none →
  ∀ (k : MWidth) (f : MForm) (byte : Nat → Nat),
  let addr := fun (th : Nat) => c.read (srcTid f.u th) f.a 1
  let lds : MemSpec := { inHelper := true, g := f.g, u := f.u, cls := some .loads, srcs := [(f.a, 1)], dst := some (f.d, k.words) }
  let sts : MemSpec := { inHelper := true, g := f.g, u := f.u, cls := some .stores, srcs := [(f.d, k.words), (f.a, 1)], dst := none }
  let alone := fun (us : List (Nat × List Nat)) => s.overlaps c.core c.slot (us.map (fun x =>
    ({ t := x.1, space := .scratch, addr := byte x.1, n := k.bytes, data := [], dests := [], aux := 0 } : Access))) = false
  ((Instr.lds k f).wf = true → lds.Clear s c →
    (∀ x ∈ lds.units s c, s.scrTarget c (addr x.1) (f.off.toInt * k.bytes) k.bytes (k == .w32 && f.off == 0) = .ok (.local (byte x.1)) ∧
      (s.core c.core).scrEcc (byte x.1) k.bytes = false) → alone (lds.units s c) →
    CommandIssues Footprint.command (.lds k f) s c (some .loads) (fun _ t => SameMemory s t ∧ (lds.AtOnce s c →
      ∃ l ∈ (t.core c.core).loadsPending, l.cid = s.nextId ∧ l.slot = c.slot ∧ l.who = c.who ∧
        ∀ x ∈ lds.units s c, ∀ th ∈ x.2, ∀ (ls : List RegLoc) (j : Nat) (loc : RegLoc) (w : Word), c.resolve th f.d k.words = .ok ls → ls[j]? = some loc →
          (loadWords .none ((s.core c.core).scrRead (byte x.1) k.bytes))[j]? = some w → (th, loc, w) ∈ l.writes))) ∧
  (sts.Clear s c → sts.AtOnce s c →
    (∀ x ∈ sts.units s c, s.scrTarget c (addr x.1) (f.off.toInt * k.bytes) k.bytes false = .ok (.local (byte x.1))) → alone (sts.units s c) →
    CommandIssues Footprint.command (.sts k f) s c (some .stores) (fun _ t => ScratchFrame s t c (sts.units s c) k.bytes byte ∧
      (∀ plot sp key a, t.memRead plot sp key a 1 = s.memRead plot sp key a 1) ∧
      ∀ x ∈ sts.units s c, ∀ i b, (leBytes k.bytes (c.read (srcTid f.u x.1) f.d k.words))[i]? = some b →
        (∀ y ∈ sts.units s c, x.1 < y.1 → ¬(byte y.1 ≤ byte x.1 + i ∧ byte x.1 + i < byte y.1 + k.bytes)) →
        (t.core c.core).scrByte (byte x.1 + i) = b))

/-- R255 to R257: LDP and STP issue where the offset is aligned and below the limit and every word translates: their counter rises and no
byte at any coherence point changes, since private lines of HBM are kept in L1 until they are written back.  Where the engine runs the command
at once, LDP's load fills each destination with its word of the private bytes as the warp sees them, and each byte that STP stores, the last
thread's standing, is a dirty byte of the warp's private line, or of that line on its way back. -/
def Obligations.PrivateAccesses : Prop := ∀ (s : State) (c : Iss), s.iss = some c →
  ∀ (k : MWidth) (f : MForm) (gid : Nat) (gr : Grid) (x : Context), s.gridOf c.w = some (gid, gr) → s.ctxOf c.w = some x →
  let off := fun (th : Nat) => ((c.read (srcTid f.u th) f.a 1 : Nat) : Int) + f.off.toInt * k.bytes
  let ldp : MemSpec := { inHelper := false, g := f.g, u := f.u, cls := some .loads, srcs := [(f.a, 1)], dst := some (f.d, k.words) }
  let stp : MemSpec := { inHelper := false, g := f.g, u := f.u, cls := some .stores, srcs := [(f.d, k.words), (f.a, 1)], dst := none }
  let fits := fun (m : MemSpec) (kind : AccessKind) (tg : Nat → Nat → Target) => ∀ y ∈ m.units s c, off y.1 % k.bytes = 0 ∧ 0 ≤ off y.1 ∧
    off y.1 + k.bytes ≤ x.plim ∧ ∀ i, i < k.words →
      s.translate c.core c.w.ctx kind (privVa gr.pbase (c.w.wg % 2 ^ 32) gr.warps c.w.index x.plim (srcTid m.u y.1) ((off y.1).toNat + 4 * i) % 2 ^ 64) = .ok (tg y.1 i) ∧
      s.bufferEcc c.core (tg y.1 i).space (tg y.1 i).key (tg y.1 i).pa 4 = false ∧ s.privEcc c.core c.slot (tg y.1 i).key (tg y.1 i).pa 4 = false
  let alone := fun (m : MemSpec) (tg : Nat → Nat → Target) => s.overlaps c.core c.slot ((m.units s c).flatMap (fun y => (upto k.words).map (fun i =>
      ({ t := y.1, space := (tg y.1 i).space, addr := (tg y.1 i).pa, n := 4, data := [], dests := [], aux := (tg y.1 i).key } : Access)))) = false ∧
    FabricClear s ((m.units s c).flatMap (fun y => (upto k.words).map (tg y.1)))
  (∀ tg, ldp.Clear s c → fits ldp .load tg → alone ldp tg → CommandIssues Footprint.command (.ldp k f) s c (some .loads) (fun _ t => SameMemory s t ∧
    (ldp.AtOnce s c → ∀ y ∈ ldp.units s c, ∀ i, i < k.words → (tg y.1 i).space = .hbm → ∀ th ∈ y.2, ∀ (ls : List RegLoc) (loc : RegLoc) (w : Word),
      c.resolve th f.d k.words = .ok ls → ls[i]? = some loc →
      (loadWords .none (s.privBytes c.core c.slot (tg y.1 i).key (tg y.1 i).pa 4))[0]? = some w →
      ∃ l ∈ (t.core c.core).loadsPending, l.cid = s.nextId ∧ l.slot = c.slot ∧ l.who = c.who ∧ (th, loc, w) ∈ l.writes))) ∧
  (∀ tg, stp.Clear s c → fits stp .store tg → alone stp tg → CommandIssues Footprint.command (.stp k f) s c (some .stores) (fun _ t => SameMemory s t ∧
    (stp.AtOnce s c → ∀ y ∈ stp.units s c, ∀ i, i < k.words → (tg y.1 i).space = .hbm → ∀ (j : Nat) (b : Byte), j < 4 →
      (leBytes k.bytes (c.read (srcTid f.u y.1) f.d k.words))[4 * i + j]? = some b →
      let pa := (tg y.1 i).pa + j
      (∀ z ∈ stp.units s c, ∀ n, n < k.words → y.1 < z.1 ∨ (y.1 = z.1 ∧ i < n) → ¬ (tg z.1 n).covers 4 .hbm (tg y.1 i).key pa) →
      pa / 128 = (tg y.1 i).pa / 128 →
      (∃ l ∈ (t.core c.core).l1, l.isPrivate c.slot (tg y.1 i).key (pa / 128) = true ∧ mget? l.dirty (pa % 128) = some b ∧
        (pa % 128 < l.data.length → l.data[pa % 128]? = some b)) ∨
      ∃ e ∈ t.unacked c.core, e.space = .hbm ∧ e.key = (tg y.1 i).key ∧ e.line = pa / 128 ∧ e.wg = some c.w.wg ∧ mget? e.bytes (pa % 128) = some b)))

namespace Sys2Proof

/-- The atomics by operation. -/
def atomOf (f : AtomForm) : AtomOp → Instr
  | .add => .atomAdd f | .incw => .atomIncw f | .exch => .atomExch f | .cas => .atomCas f | .min => .atomMin f | .max => .atomMax f
  | .minu => .atomMinu f | .maxu => .atomMaxu f | .and => .atomAnd f | .or => .atomOr f | .xor => .atomXor f

/-- The reductions to memory by operation; none for the two that RED does not have (R258). -/
def redOf (f : RedForm) : AtomOp → Option Instr
  | .add => some (.redAdd f) | .incw => some (.redIncw f) | .min => some (.redMin f) | .max => some (.redMax f)
  | .minu => some (.redMinu f) | .maxu => some (.redMaxu f) | .and => some (.redAnd f) | .or => some (.redOr f) | .xor => some (.redXor f)
  | .exch | .cas => none

end Sys2Proof

/-- R31, R258, R259: ATOM and RED of global memory issue where every address is aligned and translates for atomics: ATOM counts among
the loads, RED among the stores, and no byte of memory changes at issue.  What the operation does at its coherence point stands with the events
of the memory engine. -/
def Obligations.Atomics : Prop := ∀ (s : State) (c : Iss), s.iss = some c → c.resumed = none →
  (∀ (op : AtomOp) (f : AtomForm) (tg : Nat → Target),
    let n := if op = .cas then 2 else 1
    let m : MemSpec := { inHelper := true, g := f.g, u := f.u, cls := some .loads, srcs := [(f.a, 2), (f.b, n)], dst := some (f.x, 1), dstLast := true }
    m.Clear s c → GlobalClear m s c f.a 0 4 .atomic tg →
    (∀ y ∈ m.units s c, hasBit (c.read (srcTid f.u y.1) f.a 2) 63 = false ∧ ((tg y.1).space = .host → op = .add ∨ op = .exch ∨ op = .cas)) →
    CommandIssues Footprint.command (atomOf f op) s c (some .loads) (fun _ t => SameMemory s t)) ∧
  (∀ (op : AtomOp) (f : RedForm) (i : Instr) (tg : Nat → Target), redOf f op = some i →
    let m : MemSpec := { inHelper := true, g := f.g, u := f.u, cls := some .stores, srcs := [(f.a, 2), (f.b, 1)], dst := none, dstLast := true }
    m.Clear s c → GlobalClear m s c f.a 0 4 .atomic tg →
    (∀ y ∈ m.units s c, hasBit (c.read (srcTid f.u y.1) f.a 2) 63 = false ∧ ((tg y.1).space = .host → op = .add)) →
    CommandIssues Footprint.command i s c (some .stores) (fun _ t => SameMemory s t))

namespace Sys2Proof

/-- Nothing of a core's memory engine is outstanding: its loads, stores, queue and buffer are empty, and nothing travels for it. -/
def EngineIdle (s : State) (c : Iss) : Prop :=
  (s.core c.core).loadsPending = [] ∧ (s.core c.core).storesPending = [] ∧ (s.core c.core).memQ = [] ∧ s.unacked c.core = [] ∧
  (∀ r ∈ s.remotes, r.core ≠ c.core) ∧ (∀ r ∈ s.hostReqs, r.core ≠ c.core) ∧ (∀ f ∈ s.fabOps, f.core ≠ c.core) ∧ c.counterOf .stores = 0

end Sys2Proof

namespace Sys2Proof

/-- With nothing outstanding the fences and the write-backs complete at once; a fence of pair scope or wider, and CINV, leave no global line in
L1; CINV of addresses and the prefetches complete; and none changes a byte of memory. -/
def FencesIdle : Prop := ∀ (s : State) (c : Iss), s.iss = some c → c.resumed = none →
  (∀ sc : Scope, EngineIdle s c → CommandIssues Footprint.command (.fence sc) s c none (fun _ t => SameMemory s t ∧
    (4 ≤ sc.ctorIdx → (s.plot (plotOf c.core)).fuse ≠ 1 → ∀ l ∈ (t.core c.core).l1, l.owner ≠ none))) ∧
  (∀ (pa pb : Path) (sc : Scope), c.hel = none → EngineIdle s c → (s.core c.core).copyQ = [] → (s.core c.core).matQ = [] →
    (s.core c.core).streamQ = [] → (∀ m ∈ s.mcasts, m.core ≠ c.core) → (∀ f ∈ s.fabOps, f.wg ≠ c.w.wg) →
    (∀ a ∈ s.arrivals, a.from? ≠ some (c.core, c.slot)) → (∀ l ∈ s.fab.launches, l.wg ≠ c.w.wg) →
    CommandIssues Footprint.command (.fenceX pa pb sc) s c none (fun _ t => SameMemory s t ∧
      (pb = .ls → 4 ≤ sc.ctorIdx → (s.plot (plotOf c.core)).fuse ≠ 1 → ∀ l ∈ (t.core c.core).l1, l.owner ≠ none))) ∧
  CommandIssues Footprint.command .cinv s c none (fun _ t => SameMemory s t ∧ (t.core c.core).l1 = (s.core c.core).l1.filter (fun l => l.owner.isSome)) ∧
  (∀ a : Opnd, (msysSpec a false false).Clear s c → CommandIssues Footprint.command (.cinvAddr a) s c none (fun _ t => SameMemory s t ∧
    ∀ th ∈ c.tids, ∀ tg, (s.fillTlbs c (c.tids.map (fun x => c.read x a 2))).translate c.core c.w.ctx .load (c.read th a 2) = .ok tg → tg.space = .hbm →
      ∀ l ∈ (t.core (s.l1Core c.core (tg.pa / 128))).l1, l.line = tg.pa / 128 → l.owner ≠ none)) ∧
  (c.hel = none → s.unacked c.core = [] → CommandIssues Footprint.command .cwbWcb s c none (fun _ t => SameMemory s t)) ∧
  (c.hel = none → (∀ l ∈ (s.core c.core).l1, l.owner = some c.slot → l.dirty = []) → (∀ e ∈ (s.core c.core).drains, e.wg ≠ some c.w.wg) →
    CommandIssues Footprint.command .cwbPriv s c none (fun _ t => SameMemory s t)) ∧
  (∀ (a : Opnd) (g u : Bool), (msysSpec a g u).Clear s c →
    CommandIssues Footprint.command (.prefL2 a g u) s c none (fun _ t => SameMemory s t) ∧
    CommandIssues Footprint.command (.prefL1 a g u) s c none (fun _ t => SameMemory s t))

/-- A buffer entry that some byte keeps outstanding. -/
def OlderEntry (e : WcbEntry) (n : Nat) : Prop := e.eid < n ∧ e.bytes ≠ []

/-- Something that a fence numbered n waits for before its actions: an LS access of its slot that is not yet performed nor in the buffer, and at
pair scope and wider a store of the core that is not acknowledged (R120, R125, R127). -/
def ReleaseOpen (s : State) (c : Iss) (sc : Scope) (n : Nat) : Prop :=
  (∃ l ∈ (s.core c.core).loadsPending, l.slot = c.slot ∧ l.cid < n) ∨ (∃ p ∈ (s.core c.core).storesPending, p.slot = c.slot ∧ p.cid < n) ∨
  (∃ m ∈ (s.core c.core).memQ, m.slot = c.slot ∧ m.ga = false ∧ m.cid < n) ∨
  (4 ≤ sc.ctorIdx ∧ (c.counterOf .stores ≠ 0 ∨ ∃ e ∈ s.unacked c.core, OlderEntry e n))

/-- Something that a FENCE.X numbered n waits for on its first path (R138). -/
def PathOpen (s : State) (c : Iss) (p : Path) (sc : Scope) (n : Nat) : Prop := match p with
  | .ls => ReleaseOpen s c sc n
  | .ga => ∃ q ∈ (s.core c.core).copyQ, q.slot = c.slot ∧ q.ga = true ∧ q.id < n
  | .cp => (∃ q ∈ (s.core c.core).copyQ, q.slot = c.slot ∧ q.ga = false ∧ q.id < n) ∨ ∃ m ∈ s.mcasts, m.core = c.core ∧ m.wg = c.w.wg ∧ m.cmd < n
  | .mx => ∃ q ∈ (s.core c.core).matQ, q.slot = c.slot ∧ q.id < n
  | .ws => ∃ q ∈ (s.core c.core).streamQ, q.slot = c.slot ∧ q.id < n
  | .co => (∃ f ∈ s.fabOps, f.wg = c.w.wg ∧ f.index = c.w.index ∧ f.co = true ∧ f.cid < n) ∨
    ∃ a ∈ s.arrivals, a.from? = some (c.core, c.slot) ∧ a.id < n

/-- What a fence waits for keeps it parked: at its issue, where a wider one empties the core's buffer, none of whose entries is lost, and at each
further trial; with nothing left it goes on and acquires.  CWB.wcb empties the buffer and waits for every entry; CWB.priv sends the dirty private
lines of its warp on their way, keeps them as clean, and waits. -/
def FencesWait : Prop := ∀ (s : State) (c : Iss), s.iss = some c →
  let drained := fun (t : State) => (t.core c.core).wcb = [] ∧
    ∀ e ∈ s.unacked c.core, e.bytes ≠ [] → ∃ e' ∈ t.unacked c.core, e'.eid = e.eid ∧ e'.bytes = e.bytes
  (∀ sc : Scope,
    (c.resumed = none → FabricClear s [] → ReleaseOpen s c sc s.nextId →
      Waits (.fence sc) s c (fun c' t => c'.resumed = some s.nextId ∧ (4 ≤ sc.ctorIdx → drained t))) ∧
    (∀ n, c.resumed = some n → (ReleaseOpen s c sc n → exec (.fence sc) s = .next s.stall) ∧
      (EngineIdle s c → CommandIssues Footprint.command (.fence sc) s c none (fun _ t => SameMemory s t ∧
        (4 ≤ sc.ctorIdx → (s.plot (plotOf c.core)).fuse ≠ 1 → ∀ l ∈ (t.core c.core).l1, l.owner ≠ none))))) ∧
  (∀ (pa pb : Path) (sc : Scope), c.hel = none →
    (c.resumed = none → FabricClear s [] → PathOpen s c pa sc s.nextId → Waits (.fenceX pa pb sc) s c (fun c' _ => c'.resumed = some s.nextId)) ∧
    (∀ n, c.resumed = some n → PathOpen s c pa sc n → exec (.fenceX pa pb sc) s = .next s.stall)) ∧
  (c.hel = none → (∃ e ∈ s.unacked c.core, OlderEntry e s.nextId) → c.resumed = none → FabricClear s [] →
    Waits .cwbWcb s c (fun c' t => c'.resumed = some s.nextId ∧ drained t)) ∧
  (c.hel = none → c.resumed = none → (∃ l ∈ (s.core c.core).l1, l.owner = some c.slot ∧ l.dirty ≠ []) →
    Waits .cwbPriv s c (fun c' t => c'.resumed ≠ none ∧
      (t.core c.core).l1 = (s.core c.core).l1.map (fun l => if l.owner = some c.slot then { l with dirty := [] } else l) ∧
      ∀ l ∈ (s.core c.core).l1, l.owner = some c.slot → l.dirty ≠ [] → ∃ e ∈ (t.core c.core).drains,
        e.space = .hbm ∧ e.key = l.key ∧ e.line = l.line ∧ e.bytes = l.dirty ∧ e.wg = some c.w.wg ∧ s.nextId ≤ e.eid)) ∧
  (∀ n, c.hel = none → c.resumed = some n → (∃ e ∈ (s.core c.core).drains, e.wg = some c.w.wg ∧ e.eid < n) → exec .cwbPriv s = .next s.stall)

end Sys2Proof

/-- R118 to R127, R138, R262 to R264: the fences and the cache control, where nothing is outstanding and where they wait. -/
def Obligations.FencesAndCaches : Prop := FencesIdle ∧ FencesWait

/-- R175: MARM arms its monitor on the line of the lowest active thread's address. -/
def Obligations.MonitorArms : Prop := ∀ (s : State) (c : Iss) (a : Opnd) (k : Fin 4) (th : Nat) (tg : Target), s.iss = some c →
  ({ inHelper := false, g := false, u := false, cls := none, srcs := [(a, 2)], dst := none } : MemSpec).Clear s c →
  c.tids.head? = some th → s.translate c.core c.w.ctx .load (c.read th a 2) = .ok tg → c.w.monitors.length = 4 →
  CommandIssues { Footprint.command with warp := fun w => { w with monitors := [] } } (.marm a k) s c none (fun c' t => SameMemory s t ∧
    c'.w.monitors[k.val]? = some { line := lineKey (plotOf c.core) tg.space tg.pa, armed := true, fired := false } ∧
    ∀ j, j ≠ k.val → c'.w.monitors[j]? = c.w.monitors[j]?)

namespace Sys2Proof

/-! ### Copy engine and barriers -/

/-- A copy command issues: with no access of its split outstanding that the record, or a multicast's target list, must wait for, the
record is read and the verdict passes, so one command joins the copy queue with the work of the verdict (R300 to R304, R310).  A record in a
window page is first asked of its device (R249). -/
def CopyIssues (i : Instr) (s : State) (c : Iss) (f : CopyForm) (cast : Bool)
    (verdict : State → Layout → List Int → Nat → Except CopyFail CopyWork) : Prop :=
  ∀ th s' bs w, QueueClear s c th [(f.a, 2), (f.b, 4), (f.x, 1)] f.g →
    ((s.core c.core).copyQ.filter (fun q => !q.ga)).length < Config.queueDepth → c.w.copies < 31 →
    s.loadsWait c (s.recordAccs c (c.read th f.a 2) 64 ++ if cast then s.listAccs c (c.read th f.x 1) else []) = false →
    (∀ far, s.recordFar c (c.read th f.a 2) 64 = some far → FabricClear s [far] → Waits i s c (fun c' t => ParkedAs (.recRead s.nextId none) c' ∧
      ∃ o ∈ t.fabOps, o.cid = s.nextId ∧ o.into = .record ∧ o.kind = .rd ∧ o.n = 64 ∧ o.dev = fabricDev far.pa ∧ o.arg = fabricArg far.pa)) ∧
    (s.recordFar c (c.read th f.a 2) 64 = none → s.readRecord c (c.read th f.a 2) 64 = (s', .ok bs) →
    verdict s' (Layout.of (leNat bs)) ((upto 4).map (fun k => signed 32 (bitsOf (c.read th f.b 4) (32 * k) 32))) (c.read th f.x 1) = .ok w →
    CommandIssues Footprint.command i s c (some .copies) (fun _ t => SameMemory s t ∧
      ∃ q, (t.core c.core).copyQ = (s.core c.core).copyQ ++ [q] ∧ q.work = w ∧ q.tid = th ∧ q.slot = c.slot ∧ q.ga = false))

/-- The sources and destinations of a box transfer pass the checks of CPA16 in every unit (R260). -/
def CpaClear (s : State) (c : Iss) (m : MemSpec) (x a : Opnd) (bar : Option Nat) (tg : Nat → Target) : Prop :=
  ∀ y ∈ m.units s c, let va := c.read (srcTid m.u y.1) a 2
    let d := c.read (srcTid m.u y.1) x 1
    va % 16 = 0 ∧ d % 16 = 0 ∧ d < 2 ^ 17 ∧ d + 16 ≤ (s.ownBytes c).2 ∧
    (∀ k, bar = some k → (s.barrier c.w.wg k).init = true ∧ (s.barrier c.w.wg k).cpm = true) ∧
    s.translate c.core c.w.ctx .load va = .ok (tg y.1)

end Sys2Proof

namespace Sys2Proof

/-- Where the engine runs a CPA16 at once, each unit's 16 bytes are queued for its copier, from the address of the source to the destination in
the own allocation, counted into the barrier by the generation of its thread (R260, R317). -/
def CpaQueued (s t : State) (c : Iss) (m : MemSpec) (x : Opnd) (bar : Option Nat) (tg : Nat → Target) : Prop :=
  m.AtOnce s c → ∀ y ∈ m.units s c, ∃ q ∈ (t.core c.core).copyQ, ∃ ms, q.id = s.nextId ∧ q.ga = true ∧ q.slot = c.slot ∧ q.wg = c.w.wg ∧
    q.work = .box ms ∧
    ({ src := .mem (tg y.1).space (tg y.1).key (tg y.1).pa, dst := .scratch ((s.ownBytes c).1 + c.read (srcTid m.u y.1) x 1), n := 16 } : Move) ∈ ms ∧
    q.bar = bar.map (fun k => (k, if hasBit (s.barrier c.w.wg k).cur (c.barWho y.1) then ((s.barrier c.w.wg k).gen + 1) % 2 ^ 32 else (s.barrier c.w.wg k).gen))

end Sys2Proof

/-- R31, R260, R300 to R314: the copy commands and CPA16 issue when their verdict passes: the copies counter rises, the command is queued,
and no byte changes before it lands. -/
def Obligations.CopyCommands : Prop := ∀ (s : State) (c : Iss), s.iss = some c →
  (∀ f : CopyForm,
    CopyIssues (.cpbG2s f) s c f false (fun s r cs tw => s.boxVerdict c r cs tw true) ∧
    CopyIssues (.cpbS2g f) s c f false (fun s r cs tw => s.boxVerdict c r cs tw false) ∧
    CopyIssues (.cpbm f) s c f true (fun s r cs tw => s.castVerdict c r cs tw) ∧
    CopyIssues (.cpbpG2s f) s c f false (fun s r cs tw => s.planeVerdict c r cs tw false) ∧
    CopyIssues (.cpbpS2s f) s c f false (fun s r cs tw => s.planeVerdict c r cs tw true)) ∧
  (∀ (x a : Opnd) (g u : Bool) (tg : Nat → Target),
    let m : MemSpec := { inHelper := false, g := g, u := u, cls := some .copies, srcs := [(a, 2), (x, 1)], dst := none }
    m.Clear s c →
    (∀ k : Fin 16, CpaClear s c m x a (some k.val) tg → CommandIssues Footprint.command (.cpa16Bar x a k g u) s c (some .copies) (fun _ t => SameMemory s t ∧ CpaQueued s t c m x (some k.val) tg)) ∧
    (CpaClear s c m x a none tg → CommandIssues Footprint.command (.cpa16Nb x a g u) s c (some .copies) (fun _ t => SameMemory s t ∧ CpaQueued s t c m x none tg)))

namespace Sys2Proof

/-- The frame of an instruction that changes named barriers of its workgroup. -/
def barrierFrame : Footprint := { Footprint.plain with wg := fun g => { g with barriers := [] } }

/-- Every other split of the workgroup's warps that waits at BARW on a barrier, where its wait satisfies `p`, now waits as `f` says (R319, R329). -/
def WaitersGet (s t : State) (c : Iss) (gr : Workgroup) (p : Wait → Prop) (f : Wait → Wait) : Prop :=
  ∀ slot ∈ gr.slots, ∀ w e sp x, s.warp? c.core slot = some w → mget? w.splits e = some sp → slot ≠ c.slot ∨ c.who ≠ .split e →
    sp.status = .parked x → p x → ∃ w' sp', t.warp? c.core slot = some w' ∧ mget? w'.splits e = some sp' ∧ sp'.status = .parked (f x)

/-- A barrier whose generation has completed (R318): the next one is current, and a registered continuation is to be spawned, with the
generation's error. -/
def NextGeneration (b b' : Barrier) : Prop :=
  b' = { b with gen := (b.gen + 1) % 2 ^ 32, cur := b.next, next := 0, inflCur := b.inflNext, inflNext := 0, cpa := false, err := b.errNext,
                errNext := false, errLast := b.err, cont := none, spawn := b.spawn ++ (b.cont.map (fun x => (x, b.err))).toList }

/-- Arrivals that may be made now: no access of the slot is outstanding, the barrier is initialised, and no executing thread has arrived in the
current generation (R316, R317, R139; assumption 76). -/
def MayArrive (s : State) (c : Iss) (k : Nat) (g : Bool) : Prop :=
  c.hel = none ∧ s.lsOpen c.core c.slot = [] ∧ (s.barrier c.w.wg k).init = true ∧ ∀ t ∈ c.exec g, hasBit (s.barrier c.w.wg k).cur (c.barWho t) = false

/-- The barrier with the arrivals of the executing threads. -/
def ArrivedIn (s t : State) (c : Iss) (k : Nat) (g : Bool) : Prop :=
  { t.barrier c.w.wg k with cur := 0 } = { s.barrier c.w.wg k with cur := 0 } ∧
  ∀ j, hasBit (t.barrier c.w.wg k).cur j = (hasBit (s.barrier c.w.wg k).cur j || (c.exec g).any (fun t => c.barWho t == j))

/-- The arrivals that complete a generation (R318, R319, R320, R326): BARA and BARW go on, the barrier is at its next generation, and the splits
that waited for this one wake.  A BARW that completes none parks in the generation that it joined; once woken it goes on, or with an error
generation takes SCRATCH_STALE, and after BARX takes BARRIER (R329). -/
def GenerationCompletes : Prop := ∀ (s : State) (c : Iss) (k : Fin 16) (gr : Workgroup) (g : Bool), s.iss = some c → mget? s.wgs c.w.wg = some gr →
  let b := s.barrier c.w.wg k.val
  let others := fun (t : State) => ∀ j, j ≠ k.val → t.barrier c.w.wg j = s.barrier c.w.wg j
  let fresh := ∀ sp x, c.split = some sp → sp.status = .parked x → ∀ k' j l e en, x ≠ .barw k' j l e en
  (∀ i, (i = .bara k g ∨ (i = .barw k g ∧ fresh ∧ b.err = false)) → MayArrive s c k.val g → gr.core = some c.core → c.w.index < 4 → c.exec g ≠ [] →
    arrivals b.cur + (c.exec g).length = b.exp → b.inflCur = 0 → (arrivals b.next < b.exp ∨ b.inflNext ≠ 0) →
    ∃ t c', exec i s = .next t ∧ t.issFor c.core c.slot c.who c.cost = some c' ∧ SameMemory s t ∧ WentOn c c'.w c'.hel ∧
      SameRegisters c Writes.none c'.w ∧ others t ∧ NextGeneration b (t.barrier c.w.wg k.val) ∧
      WaitersGet s t c gr (fun x => ∃ j er, x = .barw k.val j b.gen er none ∧ b.gen ∈ j)
        (fun x => match x with
          | .barw k' j l er _ => .barw k' j l (er || b.err) (some true)
          | x => x)) ∧
  (MayArrive s c k.val g → fresh → c.exec g ≠ [] → (arrivals b.cur + (c.exec g).length < b.exp ∨ b.inflCur ≠ 0) →
    Waits (.barw k g) s c (fun c' t => ParkedAs (.barw k.val [b.gen] b.gen false none) c' ∧ others t ∧ ArrivedIn s t c k.val g)) ∧
  (∀ sp k' last joined er, c.hel = none → c.split = some sp → sp.status = .parked (.barw k' joined last er none) → exec (.barw k g) s = .next s.stall) ∧
  (∀ e sp k' last joined er en, c.split = some sp → sp.status = .parked (.barw k' joined last er (some en)) → CanTrap s c e →
    en = false ∨ er = true → ∃ t, exec (.barw k g) s = .next t ∧ TrapTaken s t c e (if en then .scratchStale else .barrier) true)

end Sys2Proof

namespace Sys2Proof

/-- BARI sets a barrier; BARA counts the arrivals of the executing threads, and a generation that is not
complete stays open; BARW goes on once its wait has ended; BARC registers a continuation; BARQ reads the status; BARX clears, which ends the
waits, and with transfers in flight waits itself. -/
def BarrierOps : Prop := ∀ (s : State) (c : Iss) (k : Fin 16) (gr : Workgroup), s.iss = some c → mget? s.wgs c.w.wg = some gr →
  let b := s.barrier c.w.wg k.val
  let others := fun (t : State) => ∀ j, j ≠ k.val → t.barrier c.w.wg j = s.barrier c.w.wg j
  (∀ a : Opnd, SeqClear s c false (c.tids.take 1) [(a, 1)] none → let v := c.first a 1
    1 ≤ v % 512 → v % 512 ≤ 256 → v < 1024 →
    (b.init = false ∨ (b.cur = 0 ∧ b.next = 0 ∧ b.inflCur = 0 ∧ b.inflNext = 0 ∧ b.cont = none ∧ s.barWaiter c.w.wg k.val = false)) →
    CompletesIn barrierFrame (.bari a k) s c Writes.none (fun _ t => others t ∧ t.barrier c.w.wg k.val =
      { b with init := true, exp := v % 512, cpm := hasBit v 9, err := false, errNext := false, errLast := false })) ∧
  (∀ g : Bool, MayArrive s c k.val g → (arrivals b.cur + (c.exec g).length < b.exp ∨ b.inflCur ≠ 0) →
    CompletesIn barrierFrame (.bara k g) s c Writes.none (fun _ t => others t ∧ ArrivedIn s t c k.val g)) ∧
  (∀ (g : Bool) (sp : Split) (k' last : Nat) (joined : List Nat), c.split = some sp → sp.status = .parked (.barw k' joined last false (some true)) →
    CompletesWith (.barw k g) s c Writes.none (fun _ _ => True)) ∧
  (∀ (a : Opnd) (gid : Nat) (grid : Grid), SeqClear s c false (c.tids.take 1) [(a, 2)] none → s.gridOf c.w = some (gid, grid) →
    let off := c.first a 2 % 2 ^ 32
    b.init = true → b.cont = none → off % 4 = 0 → off < grid.codeSize →
    CompletesIn barrierFrame (.barc a k) s c Writes.none (fun _ t => others t ∧
      t.barrier c.w.wg k.val = { b with cont := some { off := off, word := BitVec.ofNat 32 (c.first a 2 / 2 ^ 32) } })) ∧
  (∀ (d : Opnd) (g : Bool), SeqClear s c false c.tids [] (some (d, 2)) → c.sharedWrite (c.exec g) d 2 = false →
    CompletesWith (.barq d k g) s c { Writes.none with reg := fun th l => (c.exec g).contains th && c.names th d 2 l }
      (fun c' _ => ∃ v, v / 2 ^ 32 = b.gen ∧ hasBit v 31 = b.init ∧ hasBit v 30 = b.cpm ∧ hasBit v 29 = b.errLast ∧ hasBit v 28 = b.cont.isSome ∧
        hasBit v 27 = b.cpa ∧ bitsOf v 18 9 = arrivals b.cur % 512 ∧ bitsOf v 9 9 = b.exp % 512 ∧ bitsOf v 0 9 = b.inflCur % 512 ∧
        ∀ t ∈ c.exec g, c.holds c' t d 2 v)) ∧
  (c.hel = none → (b.init = false → CompletesWith (.barx k) s c Writes.none (fun _ _ => True)) ∧
    (b.init = true → (b.inflCur ≠ 0 ∨ b.inflNext ≠ 0) →
      (c.resumed = none → Waits (.barx k) s c (fun c' t => c'.resumed = some 0 ∧ t.barrier c.w.wg k.val = b ∧ others t)) ∧
      (∀ n, c.resumed = some n → exec (.barx k) s = .next s.stall)) ∧
    (b.init = true → b.inflCur = 0 → b.inflNext = 0 → gr.core = some c.core → ∃ t c', exec (.barx k) s = .next t ∧
      t.issFor c.core c.slot c.who c.cost = some c' ∧ t.barrier c.w.wg k.val = Barrier.clear ∧ others t ∧ SameMemory s t ∧
      WentOn c c'.w c'.hel ∧ SameRegisters c Writes.none c'.w ∧
      WaitersGet s t c gr (fun x => ∃ j l er, x = .barw k.val j l er none)
        (fun x => match x with
          | .barw k' j l er _ => .barw k' j l er (some false)
          | x => x)))

end Sys2Proof

/-- R316 to R320, R325 to R329: the bar group: what each instruction does to a barrier, the arrivals that complete a generation, and what its
waiters see.  That an arrival waits for the member's outstanding accesses is assumption 76. -/
def Obligations.NamedBarriers : Prop := BarrierOps ∧ GenerationCompletes

namespace Sys2Proof

/-! ### Recruiter -/

/-- The pricking of the issuer's panel pair in a state. -/
def pkOf (t : State) (c : Iss) : Option Pricking := mget? (t.core c.core).prickings (c.slot / 2)

end Sys2Proof

/-- R273 to R278, R282, R293: RCRT refuses with 0x10 where a pricking is open; else it opens one over the items of b, and answers with the
number of helpers granted and the reason. -/
def Obligations.Recruiting : Prop := ∀ (s : State) (c : Iss) (x a b : Opnd) (g : Bool) (r : Nat) (rest : List Nat), s.iss = some c →
  SeqClear s c false ((c.exec g).take 1) [(a, 1), (b, 2)] (some (x, 1)) → c.exec g = r :: rest →
  let ctl := c.read r b 2 % 2 ^ 32
  let n := c.read r b 2 / 2 ^ 32
  let want := bitsOf ctl 15 4
  let len := bitsOf ctl 19 6
  let first := bitsOf ctl 25 7
  let size := Nat.max (bitsOf ctl 0 15) ((n + 63) / 64)
  (∀ gid gr, s.gridOf c.w = some (gid, gr) → len ≤ 32 → bitsOf ctl 0 15 ≠ 0 → first + len ≤ 120 → c.w.wbase + first + len ≤ c.w.fileSize →
    c.read r a 1 % 4 = 0 → c.read r a 1 < gr.codeSize → c.sharedWrite (r :: rest) x 1 = false →
    (∀ i, i < len → (s.pendingLocs c.core c.slot).has r (.file (c.w.wbase + first + i)) = false) →
    let wr : Writes := { Writes.none with reg := fun th l => (c.exec g).contains th && c.names th x 1 l }
    (c.pk ≠ none → GoesOn Footprint.plain (.rcrt x a b g) s c wr (fun c' t => pkOf t c = c.pk.map (fun p => { p with rsn := 1 }) ∧ c.holds c' r x 1 0x10 ∧ ∀ th ∈ rest, c.holds c' th x 1 0)) ∧
    (c.pk = none → GoesOn Footprint.plain (.rcrt x a b g) s c wr (fun c' t => ∃ p, pkOf t c = some p ∧ p.slot = c.slot ∧ p.tid = r ∧ p.n = n ∧ p.c = size ∧
      p.chunks = List.replicate ((n + size - 1) / size) .unclaimed ∧ p.parts = [] ∧ p.fault = none ∧ p.held = none ∧
      p.shareBase = c.w.wbase + first ∧ p.shareLen = len ∧ p.helpers.length ≤ Nat.min want ((n + size - 1) / size) ∧
      (∀ h ∈ p.helpers, h.2.pc = BitVec.ofNat 64 (gr.code + c.read r a 1) ∧ h.2.regs = [] ∧ h.2.chunk = none) ∧
      c.holds c' r x 1 (0x80 + p.rsn * 16 + p.helpers.length) ∧ ∀ th ∈ rest, c.holds c' th x 1 0)))

namespace Sys2Proof

/-- The cluster-clock cycle of the issuer's core. -/
def nowOf (s : State) (c : Iss) : Nat := (s.core c.core).clusterCycle

/-- What a served claim gives its thread (R294): the first item and the count of the chunk, with pa true, or only pa false. -/
def ClaimGives (p : Pricking) (c c' : Iss) (th : Nat) (x : Opnd) (pa : Fin 64) (j : Option Nat) : Prop :=
  (∀ n, j = some n → c.holds c' th x 2 (n * p.c + 2 ^ 32 * Nat.min p.c (p.n - n * p.c)) ∧ (pa ≠ 0 → c'.pred th pa.val = true)) ∧
  (j = none → pa ≠ 0 → c'.pred th pa.val = false)

/-- R283, R294: claims are served one by one, the lowest cluster-clock cycle first and in it the lowest lane, once the cycle is over; each
takes the lowest unclaimed chunk. -/
def ClaimsServed : Prop := ∀ (p : Pricking) (now lane : Nat), p.claims.Pairwise (fun x y => x.1 < y.1) → p.nextClaim now = some lane →
  (∃ at', mget? p.claims lane = some at' ∧ at' < now ∧ ∀ e ∈ p.claims, e.2 < now → at' < e.2 ∨ (at' = e.2 ∧ lane ≤ e.1)) ∧
  mget? (p.serve now 1).served lane = some p.nextChunk ∧ mget? (p.serve now 1).claims lane = none ∧
  (∀ j, p.nextChunk = some j → (p.serve now 1).chunks = setAt p.chunks j (.held lane) ∧ p.chunks[j]? = some .unclaimed ∧
    ∀ i, i < j → p.chunks[i]? ≠ some .unclaimed) ∧
  (p.nextChunk = none → (p.serve now 1).chunks = p.chunks)

/-- R283, R292, R294: RNEXT in a non-member writes pa false; in a member it completes the chunk held and claims; and once the claim is served
it completes with the chunk, or with pa false.  A helper under a release request ends.  When a claim is served is assumption 84. -/
def ChunkClaims : Prop := ∀ (s : State) (c : Iss) (x : Opnd) (pa : Fin 64), s.iss = some c → SeqClear s c true c.tids [] (some (x, 2)) →
  (c.hel = none →
    let wr := fun (ts : List Nat) => ({ Writes.none with reg := fun th l => ts.contains th && c.names th x 2 l, pred := fun th q => c.tids.contains th && q == pa.val } : Writes)
    (c.mine c.tids = none → GoesOn Footprint.plain (.rnext x pa) s c (wr []) (fun c' _ => pa ≠ 0 → ∀ th ∈ c.tids, c'.pred th pa.val = false)) ∧
    (∀ p, c.mine c.tids = some p → c.sharedWrite [p.tid] x 2 = false →
      (c.resumed = none → mget? (s.servedPk c p).served (p.tid / 4) = none → mget? p.claims (p.tid / 4) = none →
        Waits (.rnext x pa) s c (fun c' t => c'.resumed = some 0 ∧
          pkOf t c = some { p.recruiterDone with claims := mset p.recruiterDone.claims (p.tid / 4) (nowOf s c) })) ∧
      (∀ j, mget? (s.servedPk c p).served (p.tid / 4) = some j →
        GoesOn Footprint.plain (.rnext x pa) s c (wr [p.tid]) (fun c' t =>
          pkOf t c = some { s.servedPk c p with held := j, served := mdel (s.servedPk c p).served (p.tid / 4) } ∧
          ClaimGives p c c' p.tid x pa j ∧ ∀ th ∈ c.tids, th ≠ p.tid → pa ≠ 0 → c'.pred th pa.val = false)))) ∧
  (∀ (lane : Nat) (h : Helper) (p : Pricking), c.who = .helper lane → c.hel = some h → c.pk = some p → pa.val < 16 → h.loads = 0 → h.stores = 0 →
    c.sharedWrite c.tids x 2 = false →
    (c.resumed = none → mget? (s.servedPk c p).served lane = none → mget? p.claims lane = none → h.release.asked = false →
      ∃ t p' h', exec (.rnext x pa) s = .next t ∧ SameMemory s t ∧ pkOf t c = some p' ∧ p'.chunks = (p.chunkDone h.chunk).chunks ∧
        p'.claims = mset p.claims lane (nowOf s c) ∧ mget? p'.helpers lane = some h' ∧ h'.chunk = none ∧ h'.wait = some (.instr 0) ∧ h'.pc = h.pc ∧ h'.regs = h.regs) ∧
    (mget? (s.servedPk c p).served lane = none → h.release.asked = true →
      ∃ t p', exec (.rnext x pa) s = .next t ∧ SameMemory s t ∧ pkOf t c = some p' ∧ mget? p'.helpers lane = none ∧ p'.flags = p.flags ||| h.fpst ∧
        ∀ j, h.chunk = some j → p'.chunks = setAt p.chunks j .done) ∧
    (∀ j, mget? (s.servedPk c p).served lane = some j →
      GoesOn Footprint.plain (.rnext x pa) s c Writes.none (fun c' t => ClaimGives p c c' (4 * lane) x pa j ∧
        (∃ p', pkOf t c = some p' ∧ p'.chunks = (s.servedPk c p).chunks ∧ p'.claims = (s.servedPk c p).claims ∧
          p'.served = mdel (s.servedPk c p).served lane) ∧ ∀ h', c'.hel = some h' → h'.chunk = j)))

/-- R284, R295: RPART deposits the partial of the member that executes it into the chunk that the member holds, and nothing without a chunk or
with the guard false; it goes on. -/
def PartialsDeposited : Prop := ∀ (s : State) (c : Iss) (a : Opnd) (g wide : Bool), s.iss = some c →
  let n := if wide then 2 else 1
  SeqClear s c true c.tids [(a, n)] none →
  GoesOn Footprint.plain (if wide then .rpart64 a g else .rpart32 a g) s c Writes.none (fun _ t => ∀ p, c.pk = some p →
    ∃ p', pkOf t c = some p' ∧ p'.chunks = p.chunks ∧
      (∀ h th j, c.hel = some h → h.chunk = some j → (c.exec g).head? = some th → p'.parts = mset p.parts j (c.read th a n)) ∧
      (∀ j, c.hel = none → c.mine (c.exec g) = some p → p.held = some j → p'.parts = mset p.parts j (c.read p.tid a n)) ∧
      ((∀ h, c.hel = some h → h.chunk = none ∨ c.exec g = []) → (c.hel = none → c.mine (c.exec g) = none ∨ p.held = none) → p'.parts = p.parts))

/-- R285, R296: RJOIN in a non-member writes pa false.  In the recruiter it completes the chunk held and waits for the helpers; with a chunk
unclaimed it writes pa false and the pricking stays open; else the pricking closes, and the fold of the partials is delivered with its flags, or
a recorded helper fault traps.  That accesses of helpers that have ended are waited for too is assumption 76. -/
def PrickingJoins : Prop := ∀ (s : State) (c : Iss) (op : RedOp) (x : Opnd) (pa : Fin 64), s.iss = some c →
  SeqClear s c false c.tids [] (some (x, op.regs)) →
  let preds : Writes := { Writes.none with pred := fun th q => c.tids.contains th && q == pa.val }
  (c.mine c.tids = none → GoesOn Footprint.plain (.rjoin op x pa) s c preds (fun c' _ => pa ≠ 0 → ∀ th ∈ c.tids, c'.pred th pa.val = false)) ∧
  (∀ p, c.mine c.tids = some p → c.sharedWrite [p.tid] x op.regs = false →
    (p.helpers ≠ [] → c.resumed = none → Waits (.rjoin op x pa) s c (fun c' t => c'.resumed = some 0 ∧ pkOf t c = some p.recruiterDone)) ∧
    (p.helpers = [] → s.orphansOpen c.core c.slot = false →
      (∀ j, p.recruiterDone.nextChunk = some j → GoesOn Footprint.plain (.rjoin op x pa) s c preds
        (fun c' t => pkOf t c = some p.recruiterDone ∧ (pa ≠ 0 → ∀ th ∈ c.tids, c'.pred th pa.val = false))) ∧
      (p.recruiterDone.nextChunk = none → p.fault = none →
        GoesOn Footprint.plain (.rjoin op x pa) s c
          { preds with reg := fun th l => th == p.tid && c.names th x op.regs l, flags := fun th => th == p.tid }
          (fun c' t => pkOf t c = none ∧ (pa ≠ 0 → c'.pred p.tid pa.val = true) ∧
            (∀ th ∈ c.tids, th ≠ p.tid → pa ≠ 0 → c'.pred th pa.val = false) ∧
            (∀ v fl, p.recruiterDone.present.fold op = some (v, fl) →
              c.holds c' p.tid x op.regs v ∧ c'.flagsOf p.tid = c.flagsOf p.tid ||| (p.flags ||| fl)) ∧
            (p.recruiterDone.present.fold op = none → c'.flagsOf p.tid = c.flagsOf p.tid ||| p.flags ∧
              ∀ n, c'.readLoc p.tid (.file n) = c.readLoc p.tid (.file n)))) ∧
      (∀ e chunk hidx inner, p.recruiterDone.nextChunk = none → p.fault = some (chunk, hidx, inner) → CanTrap s c e →
        ∃ t w', exec (.rjoin op x pa) s = .next t ∧ SameMemory s t ∧ pkOf t c = none ∧ t.warp? c.core c.slot = some w' ∧
          w'.trapcause = BitVec.ofNat 32 (hidx % 16 * 2 ^ 16 + inner % 256 * 2 ^ 8 + Cause.helperFault.code) ∧ w'.trappc = c.pc ∧
          w'.trap = some { strands := c.w.strandsOf e } ∧ w'.regs = c.w.regs ∧ w'.preds = c.w.preds ∧
          mgetD w'.fpst p.tid 0 = mgetD c.w.fpst p.tid 0 ||| p.flags)))

/-- R286, R297, R298: RLSE ends a helper, closes a pricking whose helpers have ended, asks those that run to end and waits for them, and has no
effect in a non-member; RQRY reads the status word. -/
def PrickingEnds : Prop := ∀ (s : State) (c : Iss), s.iss = some c →
  (SeqClear s c true c.tids [] none →
    (c.hel = none → c.mine c.tids = none → GoesOn Footprint.plain .rlse s c Writes.none (fun _ _ => True)) ∧
    (∀ p, c.hel = none → c.mine c.tids = some p → p.helpers = [] → GoesOn Footprint.plain .rlse s c Writes.none (fun _ t => pkOf t c = none)) ∧
    (∀ p, c.hel = none → c.mine c.tids = some p → p.helpers ≠ [] → c.resumed = none →
      ∃ t c' p', exec .rlse s = .next t ∧ t.issFor c.core c.slot c.who c.cost = some c' ∧ SameMemory s t ∧ c'.resumed = some 0 ∧ c'.w.strands = c.w.strands ∧
        pkOf t c = some p' ∧ p'.chunks = (s.servedPk c p.recruiterDone).chunks ∧ ∀ e ∈ p'.helpers, e.2.release.close = true) ∧
    (∀ lane h p, c.who = .helper lane → c.hel = some h → c.pk = some p → h.loads = 0 → h.stores = 0 →
      ∃ t p', exec .rlse s = .next t ∧ SameMemory s t ∧ pkOf t c = some p' ∧ mget? p'.helpers lane = none ∧ p'.flags = p.flags ||| h.fpst ∧
        (∀ l, l ≠ lane → mget? p'.helpers l = mget? p.helpers l) ∧ ∀ j, h.chunk = some j → p'.chunks = setAt p.chunks j .done)) ∧
  (∀ (x : Opnd) (g : Bool), SeqClear s c true c.tids [] (some (x, 1)) → c.sharedWrite (c.exec g) x 1 = false →
    GoesOn Footprint.plain (.rqry x g) s c { Writes.none with reg := fun th l => (c.exec g).contains th && c.names th x 1 l }
      (fun c' _ => ∀ th ∈ c.exec g, c.holds c' th x 1 (match c.pk with
        | some p => p.status true
        | none => mgetD (s.core c.core).rqry (c.slot / 2) 0)))

end Sys2Proof

/-- R283 to R286, R294 to R298: claims, partials, the fold, the close and the query of a pricking.  RFREL counts as assumption 18 says. -/
def Obligations.Prickings : Prop := ClaimsServed ∧ ChunkClaims ∧ PartialsDeposited ∧ PrickingJoins ∧ PrickingEnds

namespace Sys2Proof

/-! ### Matrix engine -/

/-- A matrix command of the lowest active thread joins the queue of its array: the tiles counter rises, no register and no byte
changes. -/
def MatrixIssues (fr : Footprint) (i : Instr) (s : State) (c : Iss) (th : Nat) (ops : List (Opnd × Nat)) (g : Bool) (work : MatWork) (post : Iss → Prop) : Prop :=
  QueueClear s c th ops g → (s.core c.core).matFull = false → c.w.tiles < 15 →
    CommandIssues fr i s c (some .tiles) (fun c' t => SameMemory s t ∧ post c' ∧
      ∃ q, (t.core c.core).matQ = (s.core c.core).matQ ++ [q] ∧ q.work = work ∧ q.tid = th ∧ q.slot = c.slot ∧ q.started = false)

/-- The attachment of a warp, with its record offsets in the core's scratchpad. -/
def attachmentOf (s : State) (c : Iss) : Option Attachment :=
  c.w.attach.map (fun x => { x with records := x.records.map (fun r => ((s.ownBytes c).1 + r.1, (s.ownBytes c).1 + r.2)) })

end Sys2Proof

/-- R331, R334, R335, R351, R352: MMA and MMAP whose verdict passes issue with their operands and the attachment, which they take; MSCL
sets the attachment. -/
def Obligations.MatrixProducts : Prop := ∀ (s : State) (c : Iss) (th : Nat) (a b : Opnd) (g : Bool), s.iss = some c →
  let taken : Footprint := { Footprint.command with warp := fun w => { Footprint.command.warp w with attach := none } }
  (∀ (acc : Nat) (pair zero : Bool) (i : Instr) (oa ob : MatOperand) (kk : Nat),
    (∃ k : Fin 4, acc = k.val ∧ pair = false ∧ i = if zero then .mmaZ k a b g else .mma k a b g) ∨
      (∃ k : Fin 2, acc = 2 * k.val ∧ pair = true ∧ i = if zero then .mmapZ k a b g else .mmap k a b g) →
    s.mmaVerdict c acc pair (c.read th a 2 % 2 ^ 32) (c.read th a 2 / 2 ^ 32) (c.read th b 1) = .ok (oa, ob, kk) →
    MatrixIssues taken i s c th [(a, 2), (b, 1)] g (.mma acc zero pair oa ob kk (attachmentOf s c)) (fun c' => c'.w.attach = none)) ∧
  (let va := c.read th a 2
   let offs := (c.read th b 2 % 2 ^ 32, c.read th b 2 / 2 ^ 32)
   betaInvalid (bitsOf va 0 16) = false → betaInvalid (bitsOf va 32 16) = false → va < 2 ^ 48 →
    (offs.1 < 2 ^ 17 → offs.2 < 2 ^ 17 → offs.1 % 4 = 0 → offs.2 % 4 = 0 →
      MatrixIssues taken (.mscl a b g) s c th [(a, 2), (b, 2)] g (.mscl s.nextId) (fun c' => c'.w.attach =
        some { id := s.nextId, bandA0 := bitsOf va 0 16, bandA1 := bitsOf va 16 16, bandB := bitsOf va 32 16, records := some offs })) ∧
    MatrixIssues taken (.msclBand a g) s c th [(a, 2)] g (.mscl s.nextId) (fun c' => c'.w.attach =
      some { id := s.nextId, bandA0 := bitsOf va 0 16, bandA1 := bitsOf va 16 16, bandB := bitsOf va 32 16, records := none }))

/-- R334, R353 to R357: MAEPI, MARD and MACLR join the queue of the array; MSTAT and MTEST read its status. -/
def Obligations.MatrixOthers : Prop := ∀ (s : State) (c : Iss) (k : Fin 4), s.iss = some c →
  let own := mget? (s.core c.core).accOwner k.val = some c.w.wg
  (∀ (th : Nat) (a : Opnd) (g : Bool) (F : FltFmt) (esz : Nat), own → let va := c.read th a 2
    epiFmt (bitsOf va 28 4) = some (F, esz) → bitsOf va 17 11 = 0 → bitsOf (va / 2 ^ 32) 23 8 ≠ 255 → bitsOf va 0 17 % 4 = 0 →
    bitsOf va 0 17 + (4096 * esz + 4) ≤ (s.ownBytes c).2 →
    MatrixIssues Footprint.command (.maepi k a g) s c th [(a, 2)] g
      (.maepi k.val (bitsOf va 28 4) ((s.ownBytes c).1 + bitsOf va 0 17) (BitVec.ofNat 32 (va / 2 ^ 32)) (c.fmt th)) (fun _ => True)) ∧
  (∀ (th : Nat) (a : Opnd) (g : Bool), own → c.read th a 1 % 4 = 0 → c.read th a 1 + 16388 ≤ (s.ownBytes c).2 →
    MatrixIssues Footprint.command (.mard k a g) s c th [(a, 1)] g (.mard k.val false ((s.ownBytes c).1 + c.read th a 1)) (fun _ => True) ∧
    MatrixIssues Footprint.command (.mardCol k a g) s c th [(a, 1)] g (.mard k.val true ((s.ownBytes c).1 + c.read th a 1)) (fun _ => True)) ∧
  (∀ (p : Fin 64) (rel : Bool), c.hel = none → (s.core c.core).matFull = false →
    (own ∨ (rel = false ∧ mget? (s.core c.core).accOwner k.val = none ∧ k.val ∉ (s.core c.core).accReleasing)) →
    GoesOn Footprint.plain (if rel then .maclrRel k p else .maclr k p) s c { Writes.none with pred := fun th q => c.tids.contains th && q == p.val }
      (fun c' t => (p ≠ 0 → ∀ th ∈ c.tids, c'.pred th p.val = true) ∧
        mget? (t.core c.core).accOwner k.val = (if rel then none else some c.w.wg) ∧
        ∃ q, (t.core c.core).matQ = (s.core c.core).matQ ++ [q] ∧ q.work = .clear k.val rel)) ∧
  (∀ d : Opnd, SeqClear s c false c.tids [] (some (d, 1)) → c.sharedWrite c.tids d 1 = false → c.resumed = none → (s.core c.core).hold = none →
    (∀ q ∈ (s.core c.core).matQ, q.slot ≠ c.slot ∨ q.wg ≠ c.w.wg) →
    CompletesWith (.mstat d k) s c { Writes.none with reg := fun th l => c.tids.contains th && c.names th d 1 l }
      (fun c' _ => ∃ v, bitsOf v 28 4 = (s.core c.core).fence % 16 ∧ bitsOf v 24 4 = (s.core (pairOfCore c.core)).fence % 16 ∧
        (own → bitsOf v 0 24 = 2 ^ 8 + mgetD (s.core c.core).accStatus k.val 0 % 16) ∧ (¬own → bitsOf v 0 24 = 0) ∧
        ∀ th ∈ c.tids, c.holds c' th d 1 v)) ∧
  (∀ d : Opnd, c.hel = none → s.privileged c = true → c.opCause c.tids d 1 = none → c.sharedWrite c.tids d 1 = false →
    (s.core c.core).matQ = [] → (s.core c.core).hold = none →
    GoesOn Footprint.plain (.mtest d) s c { Writes.none with reg := fun th l => c.tids.contains th && c.names th d 1 l }
      (fun c' t => (t.core c.core).fence = (s.core c.core).fence ||| s.failing c.core 15 ∧
        ∀ th ∈ c.tids, c.holds c' th d 1 (s.failing c.core 15 + 16 * ((t.core c.core).fence % 16))))

namespace Sys2Proof

/-! ### Weight streams -/

/-- R365 to R370, R378, R379: WSBIND takes the lowest empty slot and gives its handle, or gives the refusal; WSQRY answers from the
bound version; WSREL empties its slot, whose generation rises. -/
def WeightBindings : Prop := ∀ (s : State) (c : Iss), s.iss = some c →
  let binds : Footprint := { Footprint.plain with device := fun d => { d with binds := [] } }
  let counts : Footprint := { Footprint.plain with device := fun d => { d with counters := [] } }
  (∀ x a : Opnd, SeqClear s c false (c.tids.take 1) [(a, 1)] (some (x, 1)) → c.sharedWrite c.tids x 1 = false →
    let wr : Writes := { Writes.none with reg := fun th l => c.tids.contains th && c.names th x 1 l }
    (∀ n v, s.bindAnswer c (c.first a 1) = .ok (n, v) →
      CompletesIn binds (.wsbind x a) s c wr (fun c' t =>
        t.binding c.w.ctx n = { bound := some (v.name, v.ver), gen := (s.binding c.w.ctx n).gen } ∧
        (∀ ctx m, m < 16 → ctx ≠ c.w.ctx ∨ m ≠ n → t.binding ctx m = s.binding ctx m) ∧
        ∀ th ∈ c.tids, c.holds c' th x 1 (2 ^ 31 + (s.binding c.w.ctx n).gen % 2 ^ 7 * 2 ^ 24 + v.ver % 2 ^ 16 * 2 ^ 8 + n))) ∧
    (∀ r, s.bindAnswer c (c.first a 1) = .error r →
      CompletesIn counts (.wsbind x a) s c wr (fun c' _ => ∀ th ∈ c.tids, c.holds c' th x 1 (16 * r)))) ∧
  (∀ (x a b : Opnd) (v : StoredVersion) (n r : Nat), SeqClear s c false (c.tids.take 1) [(a, 1), (b, 1)] (some (x, 2)) → c.sharedWrite c.tids x 2 = false →
    s.liveHandle c.w.ctx (c.first a 1) = some (v, n) → s.queryAnswer v (c.first b 1) = some r →
    CompletesIn { Footprint.plain with device := fun d => { d with fresh := 0 } } (.wsqry x a b) s c { Writes.none with reg := fun th l => c.tids.contains th && c.names th x 2 l }
      (fun c' _ => ∀ th ∈ c.tids, c.holds c' th x 2 r)) ∧
  (∀ (a : Opnd) (v : StoredVersion) (n : Nat), SeqClear s c false (c.tids.take 1) [(a, 1)] none → s.liveHandle c.w.ctx (c.first a 1) = some (v, n) →
    CompletesIn binds (.wsrel a) s c Writes.none (fun _ t =>
      t.binding c.w.ctx n = { bound := none, gen := ((s.binding c.w.ctx n).gen + 1) % 2 ^ 7 } ∧
      ∀ ctx m, m < 16 → ctx ≠ c.w.ctx ∨ m ≠ n → t.binding ctx m = s.binding ctx m))

/-- R371 to R373: WSTRM whose verdict passes issues: the copies counter rises, the stream joins the queue, and no byte changes before it
lands. -/
def WeightStreams : Prop := ∀ (s : State) (c : Iss) (x a b : Opnd) (g : Bool) (th : Nat) (q : StreamCmd) (bar : Option Nat), s.iss = some c →
  QueueClear s c th [(a, 2), (b, 4), (x, 1)] g → (s.core c.core).streamQ.length < Config.queueDepth → c.w.copies < 31 →
  s.streamVerdict c th (c.read th x 1) (c.read th a 2 % 2 ^ 32) (c.read th a 2 / 2 ^ 32) (c.read th b 4) = .ok (q, bar) →
  CommandIssues Footprint.command (.wstrm x a b g) s c (some .copies) (fun _ t => SameMemory s t ∧
    ∃ q', (t.core c.core).streamQ = (s.core c.core).streamQ ++ [q'] ∧ q'.name = q.name ∧ q'.ver = q.ver ∧ q'.tidx = q.tidx ∧ q'.q = q.q ∧
      q'.row0 = q.row0 ∧ q'.g0 = q.g0 ∧ q'.nr = q.nr ∧ q'.ng = q.ng ∧ q'.scl = q.scl ∧ q'.off = q.off ∧ q'.soff = q.soff ∧
      (g = true → s.pendingGuards c [th] = [] → q'.guardVal = c.guard th))

end Sys2Proof

/-- R365 to R373, R378, R379: WSBIND, WSQRY, WSREL and WSTRM. -/
def Obligations.WeightInstructions : Prop := WeightBindings ∧ WeightStreams

namespace Sys2Proof

/-! ### Launches, groups and remote operations -/

/-- The guard of the lowest active thread lets an instruction of the launch engine run (R406). -/
def LowGuard (c : Iss) (g : Bool) : Prop := g = true → ∃ th, c.tids.head? = some th ∧ c.guard th = true

end Sys2Proof

namespace Sys2Proof

/-- A command of the launch engine that cannot act yet joins the engine's queue, behind those that came before, and a full queue of 16 does not
let it issue (R27). -/
def QueuesUp (i : Instr) (s : State) (c : Iss) : Prop := c.resumed = none → c.issued = false → (c.slot, c.who) ∉ (s.core c.core).lchQ →
  ((s.core c.core).lchQ.length < 16 → Waits i s c (fun c' t => c'.resumed = some 0 ∧ (t.core c.core).lchQ = (s.core c.core).lchQ ++ [(c.slot, c.who)])) ∧
  (16 ≤ (s.core c.core).lchQ.length → exec i s = .next s.stall)

/-- R384 to R390, R406, R407: LNCH with no entry free writes false to p; one whose record is read, checked and allowed accepts its grid once
its release actions are complete, which with nothing outstanding they are at once,
gives the number of grids issued and writes true to p; JOIN goes on once the grids it names are complete, LQW while an entry is free;
and where the guard of the lowest active thread is false, each completes as NOP. -/
def LaunchesAct : Prop := ∀ (s : State) (c : Iss), s.iss = some c → (s.core c.core).lchQ = [] → c.asked = none →
  (∀ (x a : Opnd) (p : Fin 64) (g : Bool), SeqClear s c false (c.tids.take 1) [(a, 2)] (some (x, 1)) →
    (¬ LowGuard c g → CompletesWith (.lnch x a p g) s c Writes.none (fun _ _ => True)) ∧
    (LowGuard c g → c.sharedWrite c.tids x 1 = false →
      (4 ≤ s.entriesOf c → c.resumed = none → s.launchBusy c = false → GoesOn Footprint.plain (.lnch x a p g) s c { Writes.none with pred := fun th q => c.tids.contains th && q == p.val }
        (fun c' t => t.gridSeq = s.gridSeq ∧ (p ≠ 0 → ∀ th ∈ c.tids, c'.pred th p.val = false))) ∧
      (∀ (s1 s2 : State) (bs : List Byte) (k : Kernel) (prio : Nat) (gr : Workgroup), s.entriesOf c < 4 → c.resumed = none →
        s.loadsWait c (s.recordAccs c (c.first a 2) 128) = false → s.launchBusy c = false → s.recordFar c (c.first a 2) 128 = none →
        s.readLaunch c (c.first a 2) false = .ok (s1, bs, k) →
        let r := LaunchRec.of (leNat bs)
        let grid := r.grid s1 c.w.ctx k (s1.rootTag c.w).1 (s1.rootTag c.w).2 (.parent c.w.wg) (upto r.nwg) true
        s1.enqGrid ((s1.launchEngine c).getD 0) grid (.warp c.core c.slot s1.nextId) = (s2, some (some prio)) → EngineIdle s2 c → mget? s2.wgs c.w.wg = some gr →
        ∃ t c', exec (.lnch x a p g) s = .next t ∧ t.issFor c.core c.slot c.who c.cost = some c' ∧ WentOn c c'.w c'.hel ∧
          (∃ gr', mget? t.wgs c.w.wg = some gr' ∧ gr'.issued = (gr.issued + 1) % 2 ^ 32 ∧ gr'.entries = gr.entries ++ [.grid s2.gridSeq]) ∧
          t.gridSeq = s2.gridSeq + 1 ∧
          mget? t.grids s2.gridSeq = some { grid with prio := prio, heldPart := false, since := s2.elapsed, wepoch := s2.wepoch } ∧
          ∀ th ∈ c.tids, c.holds c' th x 1 ((gr.issued + 1) % 2 ^ 32) ∧ (p ≠ 0 → c'.pred th p.val = true)))) ∧
  (∀ (a : Opnd) (g : Bool) (gr : Workgroup), SeqClear s c false (c.tids.take 1) [(a, 1)] none → mget? s.wgs c.w.wg = some gr →
    (¬ LowGuard c g → CompletesWith (.join a g) s c Writes.none (fun _ _ => True)) ∧
    (LowGuard c g → c.resumed = none → gr.issued < 2 ^ 32 → gr.done < 2 ^ 32 →
      let n := joinTarget (c.first a 1) gr.issued
      ((gr.done + 2 ^ 32 - n) % 2 ^ 32 < 2 ^ 31 → GoesOn Footprint.plain (.join a g) s c Writes.none (fun _ _ => True)) ∧
      (2 ^ 31 ≤ (gr.done + 2 ^ 32 - n) % 2 ^ 32 → ∃ t c', exec (.join a g) s = .next t ∧ t.issFor c.core c.slot c.who c.cost = some c' ∧ SameMemory s t ∧
        c'.resumed = some n ∧ c'.w.strands = c.w.strands ∧ c'.w.regs = c.w.regs ∧ c'.w.preds = c.w.preds ∧ c'.w.latches = c.w.latches))) ∧
  (∀ g : Bool, SeqClear s c false (c.tids.take 1) [] none → ¬ LowGuard c g ∨ s.entriesOf c < 4 → CompletesWith (.lqw g) s c Writes.none (fun _ _ => True))

/-- An LNCH behind another command of the engine, or whose ENQ the engine cannot take yet, queues up; one whose ENQ runs waits for its answer;
and one whose record lies in a window page asks for it (R27, R249, R385, R417). -/
def LaunchesWait : Prop := ∀ (s : State) (c : Iss) (x a : Opnd) (p : Fin 64) (g : Bool), s.iss = some c →
  SeqClear s c false (c.tids.take 1) [(a, 2)] (some (x, 1)) →
  ((s.core c.core).lchQ ≠ [] ∨ (LowGuard c g ∧ s.launchBusy c = true) → QueuesUp (.lnch x a p g) s c) ∧
  ((s.core c.core).lchQ = [] → ∀ id, c.asked = some (id, none) → exec (.lnch x a p g) s = .next s.stall) ∧
  ((s.core c.core).lchQ = [] → c.asked = none → c.resumed = none → LowGuard c g → s.launchBusy c = false → c.sharedWrite c.tids x 1 = false →
    s.entriesOf c < 4 → s.loadsWait c (s.recordAccs c (c.first a 2) 128) = false →
    ∀ far, s.recordFar c (c.first a 2) 128 = some far → FabricClear s [far] →
      Waits (.lnch x a p g) s c (fun c' t => ParkedAs (.recRead s.nextId none) c' ∧ ∃ o ∈ t.fabOps, o.cid = s.nextId ∧ o.into = .record ∧ o.n = 128))

end Sys2Proof

/-- R27, R384 to R390, R406, R407: LNCH, JOIN and LQW. -/
def Obligations.Launches : Prop := LaunchesAct ∧ LaunchesWait

/-- R391 to R394, R398 to R401, R406, R408, R409: a fabric launch is sent and its answer written; an arrival goes out and its generation is written;
GWAIT goes on where the generation has passed; GMEM makes its pair pending, or current in a group without arrivals.  The place of TGTQ and the key in
a LAUNCH frame is the model's choice (assumption 25), and the port is that of assumption 20.  On a device that is not the home of a domain-wide group
the count that GMEM goes by is that of the arrivals sent on (assumption 77). -/
def Obligations.GroupsAndFabricLaunches : Prop := ∀ (s : State) (c : Iss), s.iss = some c → (s.core c.core).lchQ = [] →
  (∀ (x a b : Opnd) (g : Bool), SeqClear s c false (c.tids.take 1) [(a, 2), (b, 1)] (some (x, 2)) →
    (∀ v, c.replied = some (some v) → GoesOn Footprint.plain (.flnch x a b g) s c { Writes.none with reg := fun th l => c.tids.contains th && c.names th x 2 l }
      (fun c' _ => ∀ th ∈ c.tids, (v < 2 ^ 64 → ∀ ls l, c.resolve th x 2 = .ok ls → ls[0]? = some l → l ≠ .zero → c'.readLoc th l = BitVec.ofNat 32 v) ∧
        (2 ^ 64 ≤ v → c.holds c' th x 2 (v % 2 ^ 64)))) ∧
    (∀ (s1 : State) (bs : List Byte) (k : Kernel), c.resumed = none → LowGuard c g → c.sharedWrite c.tids x 2 = false → bitsOf (c.first b 1) 10 18 = 0 →
      s.loadsWait c (s.recordAccs c (c.first a 2) 128) = false → s.recordFar c (c.first a 2) 128 = none → s.readLaunch c (c.first a 2) true = .ok (s1, bs, k) → EngineIdle s1 c →
      s1.entriesOf c < 4 → let r := LaunchRec.of (leNat bs)
      r.conf = 3 → (∃ d ∈ bitsList 16 r.devm, s.devPresent d = true) →
      ∃ t, exec (.flnch x a b g) s = .next t ∧ SameMemory s t ∧ t.gridSeq = s.gridSeq ∧
        ∃ f ∈ t.fab.launches, f.id = s1.nextId + 1 ∧ f.targets = bitsList 16 r.devm ∧ f.core = c.core ∧ f.slot = c.slot ∧ f.committed = false)) ∧
  (∀ (x a : Opnd) (g : Bool), SeqClear s c false (c.tids.take 1) [(a, 1)] (some (x, 1)) →
    (∀ v, c.replied = some (some v) → GoesOn Footprint.plain (.garr x a g) s c { Writes.none with reg := fun th l => c.tids.contains th && c.names th x 1 l }
      (fun c' _ => ∀ th ∈ c.tids, c.holds c' th x 1 v)) ∧
    (∀ key, c.resumed = none → LowGuard c g → s.groupKey c (c.first a 1) = some key → c.sharedWrite c.tids x 1 = false → (s.group key).configured = true →
      EngineIdle s c → ∃ t, exec (.garr x a g) s = .next t ∧ SameMemory s t ∧
        ∃ ar, t.arrivals = s.arrivals ++ [ar] ∧ ar.part = key / 64 ∧ ar.group = key % 64 ∧ ar.plot = plotOf c.core ∧ ar.dev = none ∧ ar.from? = some (c.core, c.slot))) ∧
  (∀ (x a b : Opnd) (g : Bool) (key : Nat), SeqClear s c false (c.tids.take 1) [(a, 1), (b, 1)] (some (x, 1)) → c.resumed = none → LowGuard c g →
    s.groupKey c (c.first a 1) = some key → c.sharedWrite c.tids x 1 = false → (s.group key).configured = true →
    let d := ((s.group key).gen + 2 ^ 32 - c.first b 1 % 2 ^ 32) % 2 ^ 32
    1 ≤ d → d < 2 ^ 31 →
    GoesOn Footprint.plain (.gwait x a b g) s c { Writes.none with reg := fun th l => c.tids.contains th && c.names th x 1 l }
      (fun c' t => t.group key = s.group key ∧ ∀ th ∈ c.tids, c.holds c' th x 1 (s.group key).gen)) ∧
  (∀ (a b : Opnd) (g : Bool) (key : Nat), SeqClear s c false (c.tids.take 1) [(a, 1), (b, 2)] none → LowGuard c g →
    s.groupKey c (c.first a 1) = some key → s.badPair (key / 64) (c.first b 2) = false →
    let p := c.first b 2
    let others := fun (t : State) => ∀ k, k ≠ key → t.group k = s.group k
    ((s.group key).count ≠ 0 → CompletesIn { Footprint.plain with device := fun d => { d with groups := [] } } (.gmem a b g) s c Writes.none
      (fun _ t => others t ∧ t.group key = { s.group key with pend := some p })) ∧
    ((s.group key).count = 0 → (bitsOf p 0 8 ≠ 0 ∨ hasBit p 31 = true) →
      CompletesIn { Footprint.plain with device := fun d => { d with groups := [] } } (.gmem a b g) s c Writes.none
        (fun _ t => others t ∧ t.group key = { s.group key with pair := p, pend := none })) ∧
    ((s.group key).count = 0 → bitsOf p 0 8 = 0 → hasBit p 31 = false →
      ∃ t, exec (.gmem a b g) s = .next t ∧ SameMemory s t ∧ others t ∧ t.group key = { s.group key with pair := p, pend := none })) ∧
  (∀ (x a b : Opnd) (g : Bool), ¬ LowGuard c g → c.resumed = none →
    (SeqClear s c false (c.tids.take 1) [(a, 2), (b, 1)] (some (x, 2)) → CompletesWith (.flnch x a b g) s c Writes.none (fun _ _ => True)) ∧
    (SeqClear s c false (c.tids.take 1) [(a, 1)] (some (x, 1)) → CompletesWith (.garr x a g) s c Writes.none (fun _ _ => True)) ∧
    (SeqClear s c false (c.tids.take 1) [(a, 1), (b, 1)] (some (x, 1)) → CompletesWith (.gwait x a b g) s c Writes.none (fun _ _ => True)) ∧
    (SeqClear s c false (c.tids.take 1) [(a, 1), (b, 2)] none → CompletesWith (.gmem a b g) s c Writes.none (fun _ _ => True)))

namespace Sys2Proof

/-- A remote operation issues: every address is aligned and in a window page, every device to which something is to be sent is present and
a thread executes; then its counter rises, and one operation of each executing unit is on its way with its bytes. -/
def RemoteIssues (i : Instr) (s : State) (c : Iss) (m : MemSpec) (a : Opnd) (kind : FabKind) (acc : AccessKind) (align : Nat)
    (data : Nat → List Byte) : Prop :=
  ∀ tg : Nat → Target, m.Clear s c → c.exec m.g ≠ [] →
    (∀ y ∈ m.units s c, c.read (srcTid m.u y.1) a 2 % align = 0 ∧ s.translate c.core c.w.ctx acc (c.read (srcTid m.u y.1) a 2) = .ok (tg y.1) ∧
      (tg y.1).space = .fabric) →
    FabricClear s ((m.units s c).map (fun y => tg y.1)) →
    CommandIssues Footprint.command i s c m.cls (fun _ t => SameMemory s t ∧
      ∀ y ∈ m.units s c, (∃ th ∈ c.exec m.g, if m.u then th / 4 = y.1 / 4 else th = y.1) →
        ∃ f ∈ t.fabOps, f.cid = s.nextId ∧ f.core = c.core ∧ f.slot = c.slot ∧ f.who = c.who ∧ f.kind = kind ∧ f.dev = fabricDev (tg y.1).pa ∧
          f.arg = fabricArg (tg y.1).pa ∧ f.data = data y.1)

end Sys2Proof

/-- R31, R402 to R404, R410: FWR, FRD, FSIG and FATOM issue their operations: FWR counts among the stores, FRD and FATOM among the loads, FSIG
in no counter. -/
def Obligations.RemoteOperations : Prop := ∀ (s : State) (c : Iss), s.iss = some c → ∀ (x a b : Opnd) (g u : Bool),
  RemoteIssues (.fwr x a g u) s c { inHelper := false, g := g, u := u, cls := some .stores, srcs := [(a, 2), (x, 4)], dst := none, fab := true } a .wr .store 16
    (fun t => leBytes 16 (c.read (srcTid u t) x 4)) ∧
  RemoteIssues (.frd x a g u) s c { inHelper := false, g := g, u := u, cls := some .loads, srcs := [(a, 2)], dst := some (x, 4), dstLast := true, fab := true } a .rd .load 16 (fun _ => []) ∧
  RemoteIssues (.fsig a b g u) s c { inHelper := false, g := g, u := u, cls := none, srcs := [(a, 2), (b, 2)], dst := none, fab := true } a .sig .store 8
    (fun t => leBytes 8 (c.read (srcTid u t) b 2)) ∧
  RemoteIssues (.fatom x a b g u) s c { inHelper := false, g := g, u := u, cls := some .loads, srcs := [(a, 2), (b, 4)], dst := some (x, 2), dstLast := true, fab := true } a .atom .atomic 8
    (fun t => leBytes 16 (c.read (srcTid u t) b 4))

namespace Sys2Proof

/-! ### The end of threads, and reconvergence -/

/-- A strand at an EXIT of some of its threads that leaves it others (R148): those threads leave its active mask and every mask of its stack,
and it goes on at the next instruction. -/
def ExitGo (c : Iss) (out : List Nat) (l : Nat) (st st' : Strand) : Prop :=
  st'.pc = c.pc + 4 ∧ st'.fmt = st.fmt ∧ st'.guardP = st.guardP ∧ st'.guardInv = st.guardInv ∧
  (∀ k, k < 4 → st'.active.getLsbD k = (st.active.getLsbD k && !out.contains (4 * l + k))) ∧
  st'.stack.length = st.stack.length ∧
  ∀ (j : Nat) (e : StackEntry), st.stack[j]? = some e → ∃ e', st'.stack[j]? = some e' ∧ e'.kind = e.kind ∧ e'.pc = e.pc ∧ e'.fmt = e.fmt ∧
    ∀ k, k < 4 → e'.mask.getLsbD k = (e.mask.getLsbD k && !out.contains (4 * l + k))

end Sys2Proof

/-- R146, R148, R171: EXIT with no executing thread completes as NOP; executing threads leave their strands, which go on with the others; and
where they were the last threads of the warp and nothing of it is outstanding, the warp ends and its slot leaves the workgroup. -/
def Obligations.Exits : Prop := ∀ (s : State) (c : Iss) (g : Bool), s.iss = some c → c.hel = none → c.Live →
  (c.exec g = [] → CompletesWith (.exit g) s c Writes.none (fun _ _ => True)) ∧
  (c.exec g ≠ [] → c.mine (c.exec g) = none →
    ((∀ l ∈ c.lanes, ∃ k, k < 4 ∧ (c.w.strand l).active.getLsbD k = true ∧ (c.exec g).contains (4 * l + k) = false) →
      Transfers (.exit g) s c Writes.none (ExitGo c (c.exec g)) (fun _ => 0) (fun _ => True)) ∧
    (∀ e sp, c.w.splits = [(e, sp)] → c.who = .split e → (∀ l ∈ c.lanes, (c.w.strand l).stack = []) →
      (∀ l ∈ c.lanes, ∀ k, k < 4 → (c.w.strand l).active.getLsbD k = true → (c.exec g).contains (4 * l + k) = true) →
      c.w.loads = 0 → c.w.stores = 0 → c.w.copies = 0 → c.w.tiles = 0 →
      ∃ t, exec (.exit g) s = .next t ∧ SameMemory s t ∧ t.warp? c.core c.slot = none ∧
        (∀ core slot, core ≠ c.core ∨ slot ≠ c.slot → t.warp? core slot = s.warp? core slot) ∧
        ∀ gr, mget? s.wgs c.w.wg = some gr → ∃ gr', mget? t.wgs c.w.wg = some gr' ∧ gr'.slots = gr.slots.filter (fun x => x != c.slot)))

namespace Sys2Proof

/-- A strand at a RECONV whose stack's top has threads (R146): it takes the mask and sr.fmt of the top; a PATH goes on at its own address
and, with threads arriving, leaves this address in the nearest JOIN that has none; a JOIN goes on after its address. -/
def ReconvGo (c : Iss) (_l : Nat) (st st' : Strand) : Prop :=
  ∀ (e : StackEntry) (r : List StackEntry), st.stack = e :: r →
    st'.active = e.mask ∧ st'.fmt = e.fmt ∧ st'.guardP = st.guardP ∧ st'.guardInv = st.guardInv ∧
    (e.kind = .join → st'.stack = r ∧ st'.pc = e.pc.getD c.pc + 4) ∧
    (e.kind = .path → st'.pc = e.pc.getD c.pc ∧ (st.active = 0 → st'.stack = r) ∧
      (st.active ≠ 0 → ∀ (ps : List StackEntry) (j : StackEntry) (rest : List StackEntry), r = ps ++ j :: rest → (∀ x ∈ ps, x.kind = .path) → j.kind = .join →
        st'.stack = ps ++ (match j.pc with
          | none => { j with pc := some c.pc }
          | some _ => j) :: rest))

end Sys2Proof

/-- R146, R147, R171: RECONV pops one entry of every strand's stack; a sole split whose stacks are empty passes; one that must wait for another
is held at it; and a helper takes it as NOP. -/
def Obligations.Reconvergence : Prop := ∀ (s : State) (c : Iss), s.iss = some c → c.Live →
  (c.hel.isSome → CompletesWith .reconv s c Writes.none (fun _ _ => True)) ∧
  (c.hel = none → (∀ l ∈ c.lanes, ∃ e r, (c.w.strand l).stack = e :: r ∧ e.mask ≠ 0) →
    Transfers .reconv s c Writes.none (ReconvGo c) (fun _ => 0) (fun _ => True)) ∧
  (∀ e sp, c.hel = none → c.who = .split e → (∀ l ∈ c.lanes, (c.w.strand l).stack = [] ∧ (c.w.strand l).pc = c.pc) →
    (c.w.splits = [(e, sp)] → CompletesWith .reconv s c Writes.none (fun c' _ => ∃ sp', c'.split = some sp' ∧ sp'.status = .ready)) ∧
    ((∃ e', e' ≠ e ∧ (mget? c.w.splits e').isSome) →
      ∃ t c', exec .reconv s = .next t ∧ t.issFor c.core c.slot c.who c.cost = some c' ∧ SameMemory s t ∧ c'.w.strands = c.w.strands ∧
        (∀ e', e' ≠ e → (mget? c'.w.splits e').map (fun x => { x with reserve := none }) = (mget? c.w.splits e').map (fun x => { x with reserve := none })) ∧
        ∃ sp', c'.split = some sp' ∧ sp'.status = .held))

namespace Sys2Proof

/-! ### Exceptions -/

/-- The operands of the synchronous register instructions, as the statements above have them. -/
def aluOf : Instr → Option AluSpec
  | .add f | .sub f | .adds f | .subs f | .addsu f | .subsu f | .mul f | .mulh f | .mulhu f | .divs f | .divu f | .rems f | .remu f | .min f
  | .max f | .minu f | .maxu f | .and f | .or f | .xor f | .shl f | .shr f | .shra f | .rol f | .fadd f | .fsub f | .fmul f | .fmin f | .fmax f
  | .fdiv f | .hadd2 f | .hmul2 f | .hadd2Bf f | .hmul2Bf f | .pack f => some (specR f false)
  | .mad f | .ffma f | .hfma2 f | .hfma2Bf f => some (specR f true)
  | .addc f | .subb f | .dadd f | .dmul f => some (specPair f 2 false)
  | .dfma f => some (specPair f 2 true)
  | .lea f => some (specPair f 1 false)
  | .sel f => some (specR { d := f.d, a := f.a, b := f.b, h := f.h, g := false, u := f.u } false)
  | .mov f | .not f | .neg f | .abs f | .negs f | .abss f | .clz f | .popc f | .brev f | .frcp f | .frsq f | .fsqrt f | .fexp2 f | .flog2 f
  | .fclass f => some (specX f 1 1)
  | .addi f | .andi f | .ori f | .xori f => some (specI f)
  | .shli f | .shri f | .shrai f => some (specSh f)
  | .movl f => some (specL f false)
  | .movh f => some (specL f true)
  | .setp _ f | .fsetp _ f => some (specC f 1)
  | .dsetp _ f => some (specC f 2)
  | .cvt fn f => some (specX f (cvtKinds fn).1.regs (cvtKinds fn).2.regs)
  | _ => none

/-- R48, R149, R157 to R159, R189, R281: where a synchronous register instruction does not complete: an operand's decode cause traps with that cause; an
operand still to be written leaves all as it is; a write into the frozen share range traps with SHARED_WRITE; and else an uncorrectable soft error in a
source stops the warp under a record.  That an instruction with a pending operand leaves the state as it is is the model's way of saying that nothing
issues (assumption 64); soft errors are assumption 62, and the order of the last two assumption 97. -/
def RegisterTraps : Prop := ∀ (s : State) (c : Iss) (i : Instr) (sp : AluSpec) (e : Nat), s.iss = some c → aluOf i = some sp → CanTrap s c e →
  (∀ k, sp.cause c = some k → ∃ t, exec i s = .next t ∧ TrapTaken s t c e k false) ∧
  (sp.cause c = none →
    (sp.waits s c = true → ∃ t, exec i s = .next t ∧ { t with issuer := none } = { s with issuer := none }) ∧
    (sp.waits s c = false →
      (sp.shared c = true → ∃ t, exec i s = .next t ∧ TrapTaken s t c e .sharedWrite true) ∧
      (sp.shared c = false → c.badRead (c.srcTids sp.u c.tids) sp.srcs = true → ∃ t, exec i s = .next t ∧ RecordTaken t c e Cause.eccUncorrectable.code 0)))

/-- R157, R158, R240, R246: a global load or store all of whose addresses are misaligned traps with ALIGN, and performs no access. -/
def MisalignedAccess : Prop := ∀ (s : State) (c : Iss) (e : Nat) (k : MWidth) (f : MForm), s.iss = some c → CanTrap s c e →
  ((Instr.ld k f).wf = true → (loadSpec f.d f.a k.words f.g f.u).Clear s c → (loadSpec f.d f.a k.words f.g f.u).units s c ≠ [] →
    (∀ x ∈ (loadSpec f.d f.a k.words f.g f.u).units s c, c.globalVa f.u x.1 f.a (f.off.toInt * k.bytes) % k.bytes ≠ 0) →
    ∃ t, exec (.ld k f) s = .next t ∧ TrapTaken s t c e .align true) ∧
  ((storeSpec f.d f.a k.words f.g f.u).Clear s c → (storeSpec f.d f.a k.words f.g f.u).units s c ≠ [] →
    (∀ x ∈ (storeSpec f.d f.a k.words f.g f.u).units s c, c.globalVa f.u x.1 f.a (f.off.toInt * k.bytes) % k.bytes ≠ 0) →
    ∃ t, exec (.st k f) s = .next t ∧ TrapTaken s t c e .align true)

end Sys2Proof

/-- R48, R149, R157 to R159, R189, R240, R246, R281: where a synchronous register instruction does not complete, and ALIGN of a global access: an operand's
decode cause traps with that cause, an operand still to be written leaves all as it is, a write into the frozen share range traps with SHARED_WRITE, an
uncorrectable soft error in a source stops the warp under a record, and a load or store all of whose addresses are misaligned performs no access.  That
an instruction with a pending operand leaves the state as it is is the model's way of saying that nothing issues (assumption 64); soft errors are
assumption 62, and their order against SHARED_WRITE assumption 97. -/
def Obligations.OperandAndAddressTraps : Prop := RegisterTraps ∧ MisalignedAccess

namespace Sys2Proof

/-- R49, R157, R158, R184: BKPT and TRAP raise their causes, a TRAP with no executing thread completes as NOP, and an unused encoding raises
ILLEGAL_OP. -/
def SoftwareTrapsBasic : Prop := ∀ (s : State) (c : Iss), s.iss = some c →
  (∀ (n : BitVec 9) (e : Nat), CanTrap s c e →
    (∃ t, exec (.bkpt n) s = .next t ∧ TrapTaken s t c e .bkpt true) ∧
    (∀ g : Bool, c.exec g ≠ [] → ∃ t, exec (.trap n g) s = .next t ∧ TrapTaken s t c e .trap true) ∧
    (∀ w : Word, ∃ t, exec (.unusedEncoding w) s = .next t ∧ TrapTaken s t c e .illegalOp false)) ∧
  (∀ (n : BitVec 9), c.hel = none → c.exec true = [] → CompletesWith (.trap n true) s c Writes.none (fun _ _ => True))

/-- R158, R160, R287: a trap in trap state stops the warp under a record of both causes, one without a handler under a record of its own
cause; and a cause of a helper ends the helper. -/
def TrapsWithoutHandler : Prop := ∀ (s : State) (c : Iss) (n : BitVec 9), s.iss = some c →
  (∀ e, c.who = .split e → c.w.trap ≠ none → ∃ t, exec (.bkpt n) s = .next t ∧ RecordTaken t c e (c.w.trapcause.toNat % 256) Cause.bkpt.code) ∧
  (∀ e, c.who = .split e → c.w.trap = none → s.trapBase c = 0 → ∃ t, exec (.bkpt n) s = .next t ∧ RecordTaken t c e Cause.bkpt.code 0) ∧
  (∀ lane h p, c.who = .helper lane → c.hel = some h → c.pk = some p →
    ∃ t, exec (.bkpt n) s = .next t ∧ HelperEnded t c lane p h .illegalOp)

/-- R184: RFT in trap state leaves it, and the handler's split goes on at sr.trappc; outside trap state it raises ILLEGAL_OP. -/
def ReturnFromTrap : Prop := ∀ (s : State) (c : Iss) (e : Nat), s.iss = some c → c.who = .split e →
  (c.w.trap ≠ none → c.w.trappc.toNat % 4 = 0 → c.w.trappc.toNat < 2 ^ 57 →
    ∃ t c', exec .rft s = .next t ∧ t.issFor c.core c.slot c.who c.cost = some c' ∧ SameMemory s t ∧
      (∀ core slot, core ≠ c.core ∨ slot ≠ c.slot → t.warp? core slot = s.warp? core slot) ∧
      SameRegisters c Writes.none c'.w ∧ c'.w.trap = none ∧ c'.w.trappc = c.w.trappc ∧ c'.w.trapcause = c.w.trapcause ∧
      (∀ sp', c'.split = some sp' → sp'.status = .ready) ∧
      ∀ l, l < c.w.strands.length → c'.w.strand l = { c.w.strand l with pc := if c.lanes.contains l then c.w.trappc else (c.w.strand l).pc }) ∧
  (CanTrap s c e → ∃ t, exec .rft s = .next t ∧ TrapTaken s t c e .illegalOp true)

end Sys2Proof

/-- R49, R157, R158, R160, R184, R287, R442 with Table 17-6: BKPT, TRAP and unused encodings take their traps, and where no handler can run raise a record or
end the helper; RFT in trap state leaves it, and the handler's split goes on at sr.trappc, and outside trap state raises ILLEGAL_OP.  The record of a nested
trap, with the nested instruction's address, the first cause in CAUSE and the nested one in INNER, is assumption 66. -/
def Obligations.SoftwareTrapsAndReturn : Prop := SoftwareTrapsBasic ∧ TrapsWithoutHandler ∧ ReturnFromTrap

/-- R48, R186: SCLR and SNAP of a privileged context have their effects: SCLR marks the plot, SNAP fires the snapshot trigger; in any other
context they, and MTEST, raise PRIV_OP. -/
def Obligations.Privilege : Prop := ∀ (s : State) (c : Iss) (tag : BitVec 9), s.iss = some c →
  (c.hel = none → s.privileged c = true →
    CompletesIn { Footprint.plain with device := fun d => { d with plots := [] } } .sclr s c Writes.none
      (fun _ t => (t.plot (plotOf c.core)).sclr = true ∧ ∀ k, k ≠ plotOf c.core → t.plot k = s.plot k) ∧
    CompletesIn { Footprint.plain with device := fun d => { d with pwr := State.reset.pwr } } (.snap tag) s c Writes.none
      (fun _ t => (hasBit s.pwr.snapctl 0 = false → t.pwr = s.pwr) ∧
        (hasBit s.pwr.snapctl 0 = true → s.pwr.snap = none → t.pwr.snapseq = (s.pwr.snapseq + 1) % 2 ^ 32 ∧
          ∃ x, t.pwr.snap = some x ∧ x.tag = tag.toNat ∧ x.tagCore = some c.core ∧ x.time = s.elapsed ∧ x.counters = s.counters ∧ x.meters = s.meters) ∧
        (∀ x, hasBit s.pwr.snapctl 0 = true → s.pwr.snap = some x →
          (x.cycle ≠ s.triggerCycle (some c.core) → t.pwr.snap = some x ∧ t.pwr.snapmiss = s.pwr.snapmiss + 1) ∧
          (x.cycle = s.triggerCycle (some c.core) → t.pwr.snapmiss = s.pwr.snapmiss ∧ t.pwr.snapseq = s.pwr.snapseq ∧
            ∃ y, t.pwr.snap = some y ∧ hasBit y.src 0 = true ∧ y.counters = x.counters ∧ y.time = x.time ∧
              y.tag = if x.tagCore.all (fun k => decide (c.core < k)) then tag.toNat else x.tag)))) ∧
  (∀ (e : Nat) (d : Opnd), CanTrap s c e → s.privileged c = false →
    (∃ t, exec .sclr s = .next t ∧ TrapTaken s t c e .privOp false) ∧
    (∃ t, exec (.snap tag) s = .next t ∧ TrapTaken s t c e .privOp false) ∧
    (∃ t, exec (.mtest d) s = .next t ∧ TrapTaken s t c e .privOp false))

namespace Sys2Proof

/-! ### Events of the memory engine -/

/-- An instruction or an event answers a next state of which something holds. -/
def Answers (i : Instr) (s : State) (post : State → Prop) : Prop := ∃ t, exec i s = .next t ∧ post t

/-- A queue of a state after an event. -/
def QueueIs (t : State) (n : Nat) (post : Queue → Prop) : Prop := ∃ q, mget? t.cmd.queues n = some q ∧ post q

/-- A map lists no key twice. -/
def Distinct {α : Type} (m : NatMap α) : Prop := (m.map Prod.fst).Nodup

/-- The cost of an event that is no issue: nothing. -/
abbrev noCost : Cost := Cost.free

end Sys2Proof

namespace Sys2Proof

/-- What an operation of Table 2-6 makes of the word `old`, with the words v and w of its operand b (R258). -/
def AtomMakes (op : AtomOp) (old v w new : Nat) : Prop := match op with
  | .add => new = (old + v) % 2 ^ 32
  | .incw => new = if v ≤ old then 0 else old + 1
  | .exch => new = v
  | .cas => new = if old = v then w else old
  | .min => signed 32 new = min (signed 32 old) (signed 32 v)
  | .max => signed 32 new = max (signed 32 old) (signed 32 v)
  | .minu => new = min old v
  | .maxu => new = max old v
  | .and => new = old &&& v
  | .or => new = old ||| v
  | .xor => new = old ^^^ v

/-- An atomic access has been performed at its coherence point: its word holds what the operation makes of it, and no byte of another line of HBM
has changed, nor one of its own line where a line of that key pair stands there (R136, R258). -/
def AtomPerformed (s t : State) (core : Nat) (op : AtomOp) (a : Access) : Prop :=
  AtomMakes op (leNat (s.memRead (plotOf core) a.space a.aux a.addr 4)) (leNat (a.data.take 4)) (leNat (a.data.drop 4))
    (leNat (t.memRead (plotOf core) a.space a.aux a.addr 4)) ∧
  ∀ pa, (pa < a.addr ∨ a.addr + 4 ≤ pa) → pa / 128 ≠ a.addr / 128 ∨ (mget? s.lineKeys (a.addr / 128)).isSome = true →
    t.memRead (plotOf core) .hbm a.aux pa 1 = s.memRead (plotOf core) .hbm a.aux pa 1

/-- The only access of an ATOM or a RED that waits for its coherence point: an aligned word of HBM or of plot memory, with operands of four bytes. -/
def AtomAccess (op : AtomOp) (a : Access) : Prop :=
  (a.space = .hbm ∨ a.space = .plot) ∧ a.addr % 4 = 0 ∧ a.data.length = if op = .cas then 8 else 4

/-- R31, R136, R258: the return of an ATOM gives the word as it was and leaves what the operation makes of it; a RED leaves the same.  Both wait for
the buffer entries of the publish before them. -/
def AtomicsPerformed : Prop := ∀ (s : State) (core slot n : Nat) (op : AtomOp) (a : Access),
  (∀ l : Load, ((s.core core).loadsPending.filter (fun x => x.slot == slot))[n]? = some l → l.kind = .atom op true → l.accs = [a] → AtomAccess op a →
    (s.eidsOpen l.after = true → Answers (.loadDataReturn core slot n) s (fun t => t = s)) ∧
    (s.eidsOpen l.after = false → Answers (.loadDataReturn core slot n) s (fun t => AtomPerformed s t core op a ∧
      ∀ e w th r, l.who = .split e → s.warp? core slot = some w → w.splits ≠ [] → l.writes = [] → a.dests = [(th, .file r)] → th < 64 → r < 256 →
        ∃ w', t.warp? core slot = some w' ∧ (mgetD w'.regs (256 * th + r) 0).toNat = leNat (s.memRead (plotOf core) a.space a.aux a.addr 4)))) ∧
  (∀ p : StorePend, (s.core core).storesPending[n]? = some p → p.work = .red op [a] → AtomAccess op a →
    let i := Instr.writePerformed core ((s.core core).drains.length + n)
    (s.eidsOpen p.after = true → Answers i s (fun t => t = s)) ∧
    (s.eidsOpen p.after = false → p.afterCids = [] → Answers i s (fun t => AtomPerformed s t core op a)))

/-- R120, R125, R126, R133: an LDA reads the buffer or the coherence point at its return and then performs the acquire actions of its scope, or of a
wider one where the line's release tag has it so; an STL waits for what its release covers, and then its write stands in the buffer, after a marker
at scopes within a core.  Which entries and commands it waits for was listed at its issue. -/
def AcquiresAndReleases : Prop := ∀ (s : State) (core slot n : Nat) (a : Access) (sc : Scope),
  (∀ (l : Load) (ext : Extend), ((s.core core).loadsPending.filter (fun x => x.slot == slot))[n]? = some l → l.kind = .load ext → l.accs = [a] → l.acquire = some sc →
    a.space = .hbm →
    (s.eidsOpen l.after = true → Answers (.loadDataReturn core slot n) s (fun t => t = s)) ∧
    (s.eidsOpen l.after = false → Answers (.loadDataReturn core slot n) s (fun t => SameMemory s t ∧
      (s.fused core = false → 4 ≤ sc.ctorIdx ∨ s.widened core sc a ≠ none → ∀ x ∈ (t.core core).l1, x.owner ≠ none) ∧
      (s.fused core = false → sc.ctorIdx < 4 → s.widened core sc a = none → ∀ x ∈ (s.core core).l1, x.owner = none → x.line ≠ a.addr / 128 → x ∈ (t.core core).l1) ∧
      (∀ x ∈ (t.core core).l1, s.fused core = false → x.isGlobal a.aux (a.addr / 128) = false) ∧
      ∀ e w, l.who = .split e → s.warp? core slot = some w → w.splits ≠ [] → l.writes = [] → (∀ x ∈ a.dests, x.1 < 64 ∧ ∀ r, x.2 = .file r → r < 256) → a.dests.Nodup →
        ∃ w', t.warp? core slot = some w' ∧ ∀ x ∈ fillDests a.dests (loadWords ext (s.beyond core .hbm a.aux a.addr a.n)),
          ∀ r, x.2.1 = .file r → mgetD w'.regs (256 * x.1 + r) 0 = x.2.2))) ∧
  (∀ k t, (s.dirLine (lineKey (plotOf core) a.space a.addr)).tag = some (k, t) →
    (s.widened core sc a ≠ none ↔ k ≠ core ∧ (inScope t k core = false ∨ inScope sc core k = false)) ∧
    ∀ w, s.widened core sc a = some w → 4 ≤ w.ctorIdx ∧ inScope w k core = true ∧ ∀ x : Scope, 4 ≤ x.ctorIdx → x.ctorIdx < w.ctorIdx → inScope x k core = false) ∧
  (∀ p : StorePend, (s.core core).storesPending[n]? = some p → p.work = .release [a] sc →
    let i := Instr.writePerformed core ((s.core core).drains.length + n)
    (s.eidsOpen p.after = true ∨ (∃ k ∈ p.afterCids, s.cidOpen core k = true) → Answers i s (fun t => t = s)) ∧
    (s.eidsOpen p.after = false → (∀ k ∈ p.afterCids, s.cidOpen core k = false) → a.space = .hbm → FabricClear s [] → Answers i s (fun t => SameMemory s t ∧
      ∃ e ∈ t.unacked core, e.eid = s.nextId ∧ e.tag = some sc ∧ e.space = .hbm ∧ e.key = a.aux ∧ e.line = a.addr / 128 ∧
        e.epoch = (s.core core).epoch + (if sc.ctorIdx < 4 then 1 else 0) ∧ ∀ j b, a.data[j]? = some b → mget? e.bytes (a.addr % 128 + j) = some b)))

/-- R29, R31, R122 to R124, R237, R241 to R245, R249, R252: guard slots resolve, loads return their words, entries are performed at the coherence point,
an old entry drains, a walk is cached, answered page requests wake their split or deliver PAGE_ABSENT, remote accesses are judged and land, and the
host port completes. -/
def MemoryEventsBasic : Prop := ∀ (s : State) (core slot n : Nat),
  (∀ p, (∃ st ∈ (s.core core).stages, st.slot = slot ∧ st.preds.contains p = true) → Answers (.guardSlotResolve core slot p) s (fun t =>
    (∀ st ∈ (t.core core).stages, st.slot = slot → st.preds.contains p = false) ∧ ∀ w, t.warp? core slot = some w → w.guardSlots.contains p = false)) ∧
  (∀ (l : Load) (e : Nat) (w : Warp) (ext : Extend), ((s.core core).loadsPending.filter (fun x => x.slot == slot))[n]? = some l → s.eidsOpen l.after = false →
    l.kind = .load ext → l.accs = [] → l.acquire = none → l.who = .split e → s.warp? core slot = some w → w.splits ≠ [] →
    (∀ x ∈ l.writes, x.1 < 64 ∧ ∀ r, x.2.1 = .file r → r < 256) → (l.writes.map (fun x => (x.1, x.2.1))).Nodup →
    Answers (.loadDataReturn core slot n) s (fun t => SameMemory s t ∧ ∃ w', t.warp? core slot = some w' ∧
      (∀ x ∈ l.writes, ∀ r, x.2.1 = .file r → mgetD w'.regs (256 * x.1 + r) 0 = x.2.2) ∧ (t.cidOpen core l.cid = false → w'.loads = w.loads - 1))) ∧
  (∀ e : WcbEntry, (s.core core).drains[n]? = some e → s.entryReady core e = true → e.bad = false → e.space = .hbm → Distinct e.bytes →
    (∀ x ∈ e.bytes, x.1 < 128) → Answers (.writePerformed core n) s (fun t =>
      (∀ off b, mget? e.bytes off = some b → t.memRead 0 .hbm e.key (e.line * 128 + off) 1 = [b]) ∧
      (t.dirLine (lineKey (plotOf core) .hbm (e.line * 128))).tag = e.tag.map (fun x => (core, x)) ∧
      ∀ key a, a / 128 ≠ e.line → t.memRead 0 .hbm key a 1 = s.memRead 0 .hbm key a 1)) ∧
  (∀ e : WcbEntry, (s.core core).wcb[n]? = some e → e.since + 2000 ≤ s.elapsed → Answers (.wcbAgeDrain core n) s (fun t => SameMemory s t ∧
    (t.core core).wcb = (s.core core).wcb.erase e ∧ e ∈ t.unacked core)) ∧
  (∀ ctx va, Answers (.pageWalk core ctx va) s (fun t => SameMemory s t ∧ (∀ k, k ≠ core → t.core k = s.core k) ∧
    ∀ x leaf shift, mget? s.ctxs ctx = some x → va < plotWindow → (s.core core).tlbHit ctx va = none → s.walk x va = .ok (leaf, shift) →
      (t.core core).tlb.head? = some { ctx := ctx, page := va / 2 ^ shift, leaf := leaf, shift := shift })) ∧
  (∀ (e : Nat) (c : Iss) (sp : Split) (asks : List PageAsk), e < 16 → s.issFor core slot (.split e) noCost = some c → c.split = some sp →
    sp.status = .parked (.page asks) → sp.stopped = none → c.w.trap = none →
    ((∀ a ∈ asks, a.answer = .retry) → Answers (.pageReplay core slot e) s (fun t => SameMemory s t ∧ ∃ w', t.warp? core slot = some w' ∧
      mget? w'.splits e = some { sp with status := .ready } ∧ w'.strands = c.w.strands)) ∧
    ((∀ a ∈ asks, a.answer ≠ .waiting) → (∃ a ∈ asks, a.answer = .decline) → s.trapBase c ≠ 0 →
      Answers (.pageReplay core slot e) s (fun t => TrapTaken s t c e .pageAbsent false))) ∧
  (∀ r : Remote, s.remotes[n]? = some r →
    (r.verdict = none → Answers (.remoteScratchAccess n) s (fun t => SameMemory s t ∧ t.remotes[n]? = some { r with verdict := some (s.remoteVerdict r) })) ∧
    (∀ v, r.verdict = some v → r.go = true → (s.remotes.take n).any r.follows = false → r.kind = .store →
      (s.core r.target).genHolds r.word.toNat r.gen = true → r.data.length = 4 * r.words →
      Answers (.remoteScratchAccess n) s (fun t => t.remotes = dropAt s.remotes n ∧
        ∀ i b, r.data[i]? = some b → (t.core r.target).scrByte (4 * r.word.toNat + i) = b))) ∧
  (∀ (r : HostReq) (e : WcbEntry), s.hostReqs[n]? = some r → s.eidsOpen r.after = false → r.entry = some e → s.entryReady r.core e = true →
    Answers (.hostCompletion n false) s (fun t => SameMemory s t ∧ t.counter r.part .hosterr = (s.counter r.part .hosterr + 1) % 2 ^ 64) ∧
    (e.space = .host → e.bad = false → Distinct e.bytes → Answers (.hostCompletion n true) s (fun t =>
      ∀ off b, mget? e.bytes off = some b → t.memRead 0 .host 0 (e.line * 128 + off) 1 = [b]))) ∧
  (∀ (key pa : Nat) (bytes : List Byte),
    (pa + bytes.length ≤ Config.hbmBytes → Answers (.hostAccess (.write key pa bytes)) s (fun t => t.memRead 0 .hbm key pa bytes.length = bytes)) ∧
    Answers (.hostAccess (.writeHost pa bytes)) s (fun t => t.memRead 0 .host 0 pa bytes.length = bytes) ∧
    ((∀ plot, s.publishTo plot (lineNum .hbm (pa * 128)) none = []) → Answers (.hostAccess (.read key pa)) s (fun t => t = s)))

end Sys2Proof

/-- R29, R31, R120, R122 to R126, R133, R136, R237, R241 to R245, R249, R252, R258: the events of the memory engine; an ATOM and a RED perform their
operation at the coherence point, an LDA acquires as it returns, and an STL is performed once what it releases has been.  The order in which buffer
entries may be performed is the model's reading (assumption 12); when a completion happens is the agenda's (assumptions 2, 13); that HBM, plot memory
and the own scratchpad are read as a load is issued is assumption 61, and the host's accesses to HBM, under a key id, are assumption 45. -/
def Obligations.MemoryEvents : Prop := MemoryEventsBasic ∧ AtomicsPerformed ∧ AcquiresAndReleases

namespace Sys2Proof

/-- R253, R265, R267: an allocation under release frees its words, and ways move between L1 and the scratchpad. -/
def ScratchpadEvents : Prop := ∀ (s : State) (core n : Nat),
  (∀ (a : Alloc) (since : Nat), (s.core core).allocs[n]? = some a → a.released = some since → (a.inbound = 0 ∨ since + 4000 ≤ s.elapsed) →
    Answers (.allocationRelease core n) s (fun t => (t.core core).allocs = dropAt (s.core core).allocs n ∧ (t.core core).gen = ((s.core core).gen + 1) % 2 ^ 8)) ∧
  ((s.core core).carveTo < (s.core core).carve → Answers (.carveWayMove core) s (fun t => (t.core core).carve = (s.core core).carve - 1 ∧
    ∀ l ∈ (t.core core).l1, l ∈ (s.core core).l1)) ∧
  ((s.core core).carve < (s.core core).carveTo → (∀ a ∈ (s.core core).allocs, a.base + a.words ≤ (4 - ((s.core core).carve + 1)) * 8192) →
    Answers (.carveWayMove core) s (fun t => (t.core core).carve = (s.core core).carve + 1 ∧
      ∀ w, w < (4 - ((s.core core).carve + 1)) * 8192 → (t.core core).word w = (s.core core).word w))

/-- R249, R253, R260, R303 to R313: copies and multicast words land; a CPA16 with sources in window pages asks for them first, once, and waits. -/
def CopyEvents : Prop := ∀ (s : State) (core n : Nat),
  (∀ q : CopyCmd, (s.core core).copyQ[n]? = some q → copyReady (s.core core).copyQ n q = true →
    (q.work.farReads = [] →
      (q.guardVal = false → Answers (.copyLand core n) s (fun t => SameMemory s t ∧ (t.core core).copyQ.length = (s.core core).copyQ.length - 1)) ∧
      (∀ m b, q.guardVal = true → q.work = .box [m] → m.dst = .scratch b → s.copyEcc core m.src m.n = false → (s.core core).genHolds (b / 4) q.allocGen = true →
        Answers (.copyLand core n) s (fun t => (t.core core).copyQ.length = (s.core core).copyQ.length - 1 ∧
          ∀ i x, (s.copyRead core 0 m.src m.n)[i]? = some x → (t.core core).scrByte (b + i) = x)) ∧
      (∀ m key pa, q.guardVal = true → q.work = .box [m] → m.dst = .mem .hbm key pa → s.copyEcc core m.src m.n = false →
        Answers (.copyLand core n) s (fun t => t.memRead 0 .hbm key pa (s.copyRead core 0 m.src m.n).length = s.copyRead core 0 m.src m.n))) ∧
    (q.work.farReads ≠ [] → q.asked = true → Answers (.copyLand core n) s (fun t => t = s)) ∧
    (q.work.farReads ≠ [] → q.asked = false → FabricClear s [] → (∀ f ∈ q.work.farReads, s.devPresent (fabricDev f.2.2) = true) →
      Answers (.copyLand core n) s (fun t => SameMemory s t ∧ (t.core core).copyQ[n]? = some { q with asked := true } ∧
        ∀ i key pa, (i, key, pa) ∈ q.work.farReads → ∃ o ∈ t.fabOps, o.kind = .rd ∧ o.core = core ∧ o.slot = q.slot ∧ o.dev = pa / 2 ^ 48 % 16 ∧ o.arg = pa % 2 ^ 48 ∧
          o.n = 16 ∧ o.into = .copy q.id q.bar i))) ∧
  (∀ m : McastWord, s.mcasts[n]? = some m →
    (m.accepted = false → s.targetVerdict m.target m.word 1 m.gen m.ctx = none →
      Answers (.multicastWrite n) s (fun t => SameMemory s t ∧ t.mcasts[n]? = some { m with accepted := true })) ∧
    (m.accepted = true → (s.core m.target).genHolds m.word m.gen = true → (m.data.map Prod.fst).Nodup → (∀ x ∈ m.data, x.1 < 4) →
      Answers (.multicastWrite n) s (fun t => t.mcasts = dropAt s.mcasts n ∧ ∀ x ∈ m.data, (t.core m.target).scrByte (4 * m.word + x.1) = x.2)) ∧
    (m.accepted = true → (s.core m.target).genHolds m.word m.gen = false → Answers (.multicastWrite n) s (fun t => SameMemory s t ∧ t.mcasts = dropAt s.mcasts n ∧
      t.counter m.part .sdrop = (s.counter m.part .sdrop + 1) % 2 ^ 64 ∧ ∀ x ∈ (t.core m.core).copyQ, x.id = m.cmd → x.dropped = true)))

/-- A command stands at the head of a core's matrix queue, its guard is resolved, and the array is not held (R334, R336, R344). -/
def AtHead (s : State) (core : Nat) (q : MatCmd) (rest : List MatCmd) : Prop :=
  (s.core core).matQ = q :: rest ∧ q.started = false ∧ (s.core core).hold = none ∧ q.guardPend = []

/-- The head has started, and its outcome waits for it to retire (R336). -/
def Started (t : State) (core : Nat) (q : MatCmd) (rest : List MatCmd) (post : MatOut → Prop) : Prop :=
  ∃ q', (t.core core).matQ = q' :: rest ∧ q'.started = true ∧ q'.work = q.work ∧ q'.id = q.id ∧ q'.slot = q.slot ∧ q'.tid = q.tid ∧ q'.batch = q.batch ∧ post q'.out

/-- R29, R336, R344, R345, R349, R353, R354: what stands at the head is discarded under a false guard, waits for its partner, is dropped with its
accumulator suspect, or starts; MARD holds the elements of the tile, by row or by column, and its status, MAEPI in FP32 with sigma 1.0 every normal
element as it is. -/
def MatrixHeads : Prop := ∀ (s : State) (core : Nat) (q : MatCmd) (rest : List MatCmd), AtHead s core q rest →
  let go := fun post => Answers (.matrixQueueHead core) s post
  let gone := fun (t : State) => SameMemory s t ∧ (t.core core).matQ.length = rest.length
  (q.guardVal = false → go gone) ∧
  (q.guardVal = true →
    (s.pairLeads core q = true → (∀ k z pair a b kk att, q.work = .mma k z pair a b kk att → pair = false) → go (fun t => t = s)) ∧
    (∀ k z a b kk att, q.work = .mma k z true a b kk att → s.pairWaits core q = true → go (fun t => t = s)) ∧
    (s.pairLeads core q = false →
      (∀ id, q.work = .mscl id → go gone) ∧
      (∀ k rel, q.work = .clear k rel → go (fun t => SameMemory s t ∧ Started t core q rest (fun _ => True))) ∧
      (∀ k col dst, q.work = .mard k col dst →
        ((s.core core).readsBad q.work = false → go (fun t => SameMemory s t ∧ Started t core q rest (fun o =>
          (∀ i j, i < 64 → j < 64 → (dst / 4 + (if col then 64 * j + i else 64 * i + j), mgetD (s.core core).acc (4096 * k + 64 * i + j) 0) ∈ o.scr) ∧
          (dst / 4 + 4096, BitVec.ofNat 32 (mgetD (s.core core).accStatus k 0)) ∈ o.scr ∧ o.scr.length = 4097 ∧ o.acc = []))) ∧
        ((s.core core).readsBad q.work = true → go (fun t => (t.core core).matQ.length = rest.length ∧ (t.core core).acc = (s.core core).acc ∧
          mgetD (t.core core).accStatus k 0 = mgetD (s.core core).accStatus k 0 ||| 8))) ∧
      (∀ k dst fmt, q.work = .maepi k 0 dst 0x3F800000#32 fmt → (s.core core).readsBad q.work = false → (s.core core).scrBad = [] →
        go (fun t => SameMemory s t ∧ Started t core q rest (fun o => o.acc = [] ∧
          ∀ x, x < 4096 → let e := mgetD (s.core core).acc (4096 * k + x) 0
            1 ≤ bitsOf e.toNat 23 8 → bitsOf e.toNat 23 8 ≤ 254 → (dst / 4 + x, e) ∈ o.scr))) ∧
      (∀ k z a b kk att, q.work = .mma k z false a b kk att →
        go (fun t => (t.core core).fence = (s.core core).fence ||| (mgetD s.defects core 0 &&& (15 - (s.core core).fence % 16))) ∧
        (mgetD s.defects core 0 = 0 → (s.core core).fence ≠ 0 → 8192 < 2 * matCycles a b kk →
          go (fun t => gone t ∧ mgetD (t.core core).accStatus k 0 = mgetD (s.core core).accStatus k 0 ||| 8)))))

/-- R336, R343, R353 to R355: what an operation has formed is written as it retires, every other element and word stays, and the status bits join those
of the accumulator; MACLR zeroes. -/
def MatrixRetires : Prop := ∀ (s : State) (core : Nat) (q : MatCmd) (rest : List MatCmd), (s.core core).matQ = q :: rest → q.started = true →
  (∀ k rel, q.work = .clear k rel → Answers (.matrixRetire core) s (fun t => (t.core core).matQ.length = rest.length ∧
    (∀ i, i < 4096 → mgetD (t.core core).acc (4096 * k + i) 0 = 0) ∧ mgetD (t.core core).accStatus k 0 = 0 ∧
    (∀ e, e / 4096 ≠ k → mgetD (t.core core).acc e 0 = mgetD (s.core core).acc e 0) ∧ ∀ w, (t.core core).word w = (s.core core).word w)) ∧
  ((∀ k rel, q.work ≠ .clear k rel) → (q.out.acc.map Prod.fst).Nodup → (q.out.scr.map Prod.fst).Nodup → (q.out.status.map Prod.fst).Nodup →
    Answers (.matrixRetire core) s (fun t => (t.core core).matQ.length = rest.length ∧
      (∀ x ∈ q.out.acc, mgetD (t.core core).acc x.1 0 = x.2) ∧ (∀ e, e ∉ q.out.acc.map Prod.fst → mgetD (t.core core).acc e 0 = mgetD (s.core core).acc e 0) ∧
      (∀ x ∈ q.out.scr, (t.core core).word x.1 = x.2) ∧ (∀ w, w ∉ q.out.scr.map Prod.fst → (t.core core).word w = (s.core core).word w) ∧
      (∀ x ∈ q.out.status, mgetD (t.core core).accStatus x.1 0 = mgetD (s.core core).accStatus x.1 0 ||| x.2) ∧
      (∀ plot sp key a, t.memRead plot sp key a 1 = s.memRead plot sp key a 1)))

/-- R363, R373 to R375: streams land, and a superseded version is erased. -/
def StreamEvents : Prop := ∀ (s : State) (core n : Nat),
  (∀ q : StreamCmd, (s.core core).streamQ[n]? = some q → streamReady (s.core core).streamQ n q = true →
    (q.guardVal = false → Answers (.streamLand core n) s (fun t => SameMemory s t ∧ ∀ x ∈ (t.core core).streamQ, x.id ≠ q.id)) ∧
    (∀ v x, q.guardVal = true → s.version q.name q.ver = some v → v.v.tensors[q.tidx]? = some x → q.scl = false → v.bad = [] →
      v.token = s.keyToken v.v.key → s.rangeChanged v = false → ((q.planeMoves x).map Prod.fst).Nodup →
      Answers (.streamLand core n) s (fun t => (∀ y ∈ (t.core core).streamQ, y.id ≠ q.id) ∧
        ∀ m ∈ q.planeMoves x, (t.core core).word m.1 = mgetD x.planes m.2 0))) ∧
  (∀ name ver v, s.version name ver = some v → s.erasable v = true →
    Answers (.versionErase name ver) s (fun t => t.version name ver = none ∧ ∀ x ∈ s.weights, x.v.name ≠ name ∨ x.v.ver ≠ ver → x ∈ t.weights))

end Sys2Proof

/-- R249, R253, R260, R265, R267, R303 to R313, R336, R344, R345, R349, R353 to R355, R363, R373 to R375: an allocation is released, ways move, copies,
multicast words and streams land, matrix commands start and retire, and a superseded version is erased.  When a completion happens is the agenda's
(assumptions 2, 13); the newest version is the one of assumption 37, and a stream's words stand as stored under assumptions 56 and 82. -/
def Obligations.EngineEvents : Prop := ScratchpadEvents ∧ CopyEvents ∧ MatrixHeads ∧ MatrixRetires ∧ StreamEvents

namespace Sys2Proof

/-- n(FMT) of a format of the array (Table 13-3). -/
def formatBits : Elem → Nat
  | .e2m1 | .int4 => 4
  | .int8 | .bfp8 => 8
  | .bfp12 => 12
  | _ => 16

/-- The power of two that a format gives its integers (R339). -/
def formatPower (e : Elem) : Int := match e with
  | .e2m1 => -1
  | .bfp8 | .bfp12 | .bfp16 => 1 - (formatBits e : Int)
  | _ => 0

/-- An operand that Table 13-3 admits. -/
def LegalOperand (o : MatOperand) : Prop :=
  (o.fmt = .e2m1 ∨ o.fmt = .int4 ∨ o.fmt = .int8 ∨ o.fmt = .int16 ∨ o.fmt = .bfp8 ∨ o.fmt = .bfp12 ∨ o.fmt = .bfp16) ∧
  1 ≤ o.q ∧ o.q ≤ o.sp ∧ o.sp ≤ formatBits o.fmt

/-- The bit of element x of a row in the j-th word of its group (R338): a group of 32 elements has a word for each plane, and in FP4 one for the sign
before them. -/
def operandBit (k : Core) (o : MatOperand) (kk row x j : Nat) : Int :=
  let words := if o.fmt = .e2m1 then 1 + o.sp else o.sp
  if hasBit (k.word ((o.off + 4 * words * (row * (kk / 32) + x / 32)) / 4 + j)).toNat (x % 32) then 1 else 0

/-- The integer of element x of a row (R339): a sign and q planes of magnitude in FP4, two's complement of which the q leading planes are read in
the others. -/
def operandInt (k : Core) (o : MatOperand) (kk row x : Nat) : Int :=
  let bit := operandBit k o kk row x
  let n := formatBits o.fmt
  if o.fmt = .e2m1 then
    let m := ((List.range o.q).map (fun j => bit (1 + j) * 2 ^ (3 - j))).sum
    if bit 0 = 1 then -m else m
  else -(bit 0) * 2 ^ (n - 1) + ((List.range (o.q - 1)).map (fun j => bit (1 + j) * 2 ^ (n - 2 - j))).sum

/-- A word is the FP32 number v · 2^p, for an integer v of at most 25 bits. -/
def IsNumber (w : Word) (v p : Int) : Prop :=
  (v = 0 → w = 0) ∧
  (v ≠ 0 → w.msb = decide (v < 0) ∧ (2 ^ 23 + bitsOf w.toNat 0 23) * 2 ^ bitsOf w.toNat 23 8 = v.natAbs * 2 ^ (150 + p).toNat)

end Sys2Proof

/-- R338, R339, R342 to R344: the product of the array.  An MMA.z or MMAP.z with no attachment, on an array that is not fenced, of at most 128
elements a row, so that each is one block of scale 1.0, holds for row i and column j the sum over the elements of A[i] B[j], times the powers of
two of the two formats, wherever that sum has no more than 24 bits and so is exact; of a pair, rows 64 to 127 go to the accumulator after it, and
the partner's array is held. -/
def Obligations.MatrixArithmetic : Prop := ∀ (s : State) (core : Nat) (q : MatCmd) (rest : List MatCmd) (k kk : Nat) (pair : Bool) (a b : MatOperand),
  AtHead s core q rest → q.guardVal = true → q.work = .mma k true pair a b kk none → LegalOperand a → LegalOperand b →
  kk % 32 = 0 → 0 < kk → kk ≤ 128 → (if pair then s.pairWaits core q else s.pairLeads core q) = false →
  mgetD s.defects core 0 = 0 → (s.core core).fence = 0 → (pair = true → mgetD s.defects (pairOfCore core) 0 = 0 ∧ (s.core (pairOfCore core)).fence = 0) →
  (s.core core).scrBad = [] → mgetD s.stagedPick core [] = [] →
  Answers (.matrixQueueHead core) s (fun t => SameMemory s t ∧ (pair = true → (t.core (pairOfCore core)).hold = some { leader := core }) ∧
    Started t core q rest (fun o => o.scr = [] ∧ ∀ i j, i < (if pair then 128 else 64) → j < 64 →
      let v := ((List.range kk).map (fun x => operandInt (s.core core) a kk i x * operandInt (s.core core) b kk j x)).sum
      v.natAbs ≤ 2 ^ 24 → ∃ w, (4096 * (k + i / 64) + 64 * (i % 64) + j, w) ∈ o.acc ∧ IsNumber w v (formatPower a.fmt + formatPower b.fmt)))

/-! ### Events of warps, workgroups and time -/

namespace Sys2Proof

/-- The allowance A and the withhold floor F after one cycle of a length in which a number of IIU was debited (R483). -/
def allowanceAfter (rate len : Nat) (debit : Int) (x : Int × Int) : Int × Int :=
  let a := min 8192 (x.1 + rate * len - debit)
  (a, if a < 1024 then min 8 (x.2 + 1) else if 2048 ≤ a then max 0 (x.2 - 1) else x.2)

/-- R152, R153, R483: the end of a core's cycle.  It is as long as the slowest class in the execute stages needs, and whole cycles that the core has
missed before it were idle ones of class C0 (assumption 14); A and F are those of R483 after each of them, one by one. -/
def CoreCycles : Prop := ∀ (s : State) (core : Nat),
  let k := s.core core
  let missed := (36 * s.elapsed - k.clock) / 10
  let len := k.stages.foldl (fun n st => Nat.max n (classPeriod st.cls)) 10
  Answers (.coreCycle core) s (fun t => (t.core core).debit = 0 ∧ (t.core core).clock = k.clock + 10 * missed + len ∧ s.elapsed ≤ t.elapsed ∧
    (t.core core).clock / 36 ≤ t.elapsed ∧
    (k.allow ≤ 8192 → 0 ≤ k.floor → k.floor ≤ 8 →
      ((t.core core).allow, (t.core core).floor) = allowanceAfter (s.rate core) len k.debit ((allowanceAfter (s.rate core) 10 0)^[missed] (k.allow, k.floor))))

end Sys2Proof

/-- R147, R148, R152, R153, R161 to R165, R176, R276, R287, R288, R291, R320, R437, R483, R495: the events of warps and workgroups, the end of a core
cycle, and reset.  The model's choices: the core clock and cycles that a core has missed (assumption 14), an MWAIT timeout that a split of a warp in
trap state reaches (assumption 89), what lasts through a reset (assumption 30), the extent of an image (assumptions 24 and 32) and the place of each
item of its control section (assumption 33). -/
def Obligations.WarpEvents : Prop := CoreCycles ∧ ∀ (s : State) (core slot : Nat),
  (∀ w, s.warp? core slot = some w → Distinct w.splits → w.canRelease = true → s.stopping w = false →
    Answers (.splitRelease core slot) s (fun t => SameMemory s t ∧ ∃ w' e sp sp', t.warp? core slot = some w' ∧ mget? w.splits e = some sp ∧ sp.status = .held ∧
      (∀ e' x, mget? w.splits e' = some x → x.status = .held → (w.splitPc sp).toNat ≤ (w.splitPc x).toNat) ∧
      mget? w'.splits e = some sp' ∧ sp'.status = .ready ∧
      ∀ l, l < 16 → hasBit sp.strands l = true → l < w.strands.length → hasBit sp'.strands l = true ∧ (w'.strand l).pc = (w.strand l).pc + 4)) ∧
  (∀ (e dl : Nat) (d : Opnd) (c : Iss) (sp : Split), s.issFor core slot (.split e) noCost = some c → c.split = some sp → sp.status = .parked (.mwait (some dl) d) →
    dl ≤ s.elapsed → c.w.anyFired = false → sp.stopped = none →
    Answers (.mwaitTimeout core slot e) s (fun t => SameMemory s t ∧ ∃ c', t.issFor core slot (.split e) noCost = some c' ∧
      (∀ th ∈ c.tids, c.holds c' th d 1 16) ∧ WentOn c c'.w c'.hel)) ∧
  (∀ (pair lane n : Nat) (p : Pricking) (h : Helper), mget? (s.core core).prickings pair = some p → mget? p.helpers lane = some h → pair = p.slot / 2 →
    h.release.owner = some n → 1024 ≤ n → Answers (.helperCancel core pair lane) s (fun t => ∃ p', mget? (t.core core).prickings pair = some p' ∧
      mget? p'.helpers lane = none ∧ (∀ j, h.chunk = some j → p'.chunks = setAt p.chunks j .cancelled) ∧ p'.fault.isSome = true)) ∧
  (∀ grid wg w, mget? s.wgs (wgKey grid wg) = some w →
    (∀ why, w.core = some core → w.preempt = some why → w.reached = false → Answers (.preemptRequest grid wg) s (fun t => SameMemory s t ∧
      (∃ w', mget? t.wgs (wgKey grid wg) = some w' ∧ w'.reached = true ∧ w'.preempt = some why) ∧
      (w.slots.contains slot = true → ∀ v e sp, s.warp? core slot = some v → mget? v.splits e = some sp → ∃ v' sp', t.warp? core slot = some v' ∧
        mget? v'.splits e = some sp' ∧ sp'.sinceRequest = 0 ∧ sp'.stopped = if v.rests sp then some StationMasks.full else none))) ∧
    (∀ x ∈ s.warpsOf w, ∀ e ∈ x.2.splits, w.reached = true → e.2.stopped = none → 4352 ≤ e.2.sinceRequest →
      Answers (.preemptWithdraw grid wg) s (fun t => SameMemory s t ∧ ∃ w', mget? t.wgs (wgKey grid wg) = some w' ∧ w'.preempt = none ∧ w'.reached = false)) ∧
    (∀ pair p h n, mget? (s.core core).prickings pair = some p → h ∈ p.helpers → h.2.release.preempt = some n → 4096 ≤ n → s.wgOfSlot core p.slot = wgKey grid wg →
      Answers (.prickingWithdraw core pair) s (fun t => SameMemory s t ∧ ∃ w', mget? t.wgs (wgKey grid wg) = some w' ∧ w'.preempt = none ∧ w'.reached = false)) ∧
    (w.core = some core → w.slots = [] → (∀ e ∈ (s.core core).drains, e.wg ≠ some (wgKey grid wg)) → (∀ e ∈ w.barriers, e.2.spawn = [] ∧ e.2.cont = none) →
      (s.orphansLeft core = true → FabricClear s [] → Answers (.workgroupEnd grid wg) s (fun t => SameMemory s t ∧ (t.core core).wcb = [] ∧ t.wgs = s.wgs)) ∧
      (s.orphansLeft core = false → mget? s.grids w.grid = none → Answers (.workgroupEnd grid wg) s (fun t => SameMemory s t ∧ mget? t.wgs (wgKey grid wg) = none ∧
        (∀ a ∈ (t.core core).allocs, a.wg = wgKey grid wg → a.released ≠ none) ∧ ∀ e ∈ (t.core core).accOwner, e.2 ≠ wgKey grid wg))) ∧
    (∀ k g x err rest i, w.core = some core → mget? s.grids w.grid = some g → (s.barrier (wgKey grid wg) k).spawn = (x, err) :: rest →
      (s.core core).freeSlots g.fileSize = slot :: ((s.core core).freeSlots g.fileSize).tail → s.freeIndex core w = some i → (w.preempt = none ∨ w.reached = false) →
      Answers (.continuationSpawn grid wg k) s (fun t => (t.barrier (wgKey grid wg) k).spawn = rest ∧ ∃ v, t.warp? core slot = some v ∧ v.wg = wgKey grid wg ∧ v.index = i ∧
        (∀ l, l < 16 → (v.strand l).pc = BitVec.ofNat 64 (g.code + x.off) ∧ (v.strand l).active = 15) ∧
        ∀ th, th < 64 → mgetD v.regs (256 * th) 0 = x.word ∧ mgetD v.regs (256 * th + 1) 0 = if err then 0x0B else 0)) ∧
    (∀ ctx x why, w.core = some core → w.preempt = some why → w.reached = true → s.drained (wgKey grid wg) core w = true →
      (mget? s.grids w.grid).map (fun g => g.ctx) = some ctx → mget? s.ctxs ctx = some x → x.prot = false →
      let s1 := s.saveRelease core w
      let g := s1.gather (wgKey grid wg) core x w
      s1.unacked core = [] →
      ∀ page keys, freeExtent (s1.savePagesTaken ctx) x.savePages ((64 + g.body.length + 4095) / 4096) = some page →
        s1.extentKeys ctx (x.saveBase + 4096 * page) .store ((64 + g.body.length + 4095) / 4096) = .ok keys →
        mget? s1.wgs (wgKey grid wg) ≠ none →
        Answers (.workgroupSave grid wg) s (fun t => ∃ w' sv, mget? t.wgs (wgKey grid wg) = some w' ∧ w'.core = none ∧ w'.slots = [] ∧ w'.preempt = none ∧
          w'.saved = some sv ∧ sv.why = why ∧ sv.page = page ∧ sv.keys = keys ∧ sv.warps = g.warps ∧ sv.core = core ∧ sv.prio = w.prio ∧ sv.image.drop 64 = g.body)) ∧
    (∀ sv g slice x f body, w.saved = some sv → mget? s.grids grid = some g → sv.pick = some (core, slice) → mget? s.ctxs g.ctx = some x →
      s.fits core g (some sv) = some f → s.checkImage g.ctx x w sv = .ok body →
      Answers (.workgroupRestore grid wg core) s (fun t => ∃ w', mget? t.wgs (wgKey grid wg) = some w' ∧ w'.core = some core ∧ w'.saved = none))) ∧
  (∀ blown, Answers (.moduleReset blown) s (fun t => t.cores = [] ∧ t.grids = [] ∧ t.wgs = [] ∧ t.ctxs = [] ∧ t.hbm = [] ∧ t.elapsed = 0 ∧ t.hostMem = s.hostMem ∧
    (s.sec.half = false → t.sec.fuses = s.sec.fuses) ∧ (s.sec.half = true → t.sec.fuses = s.sec.fuses + 1 ∧ t.sec.half = false))) ∧
  Answers .powerLoss s (fun t => t.cores = [] ∧ t.grids = [] ∧ t.wgs = [] ∧ t.ctxs = [] ∧ t.hbm = [] ∧ t.elapsed = 0 ∧ t.hostMem = s.hostMem ∧
    t.sec.fuses = s.sec.fuses ∧ t.sec.half = s.sec.half)

/-! ### Policy calls, power and time -/

/-- R399, R412 to R417, R430, R475, R485 to R492, R494, R497: the calls of the policy engines with no traverse loaded, the window of a plot, leases, power
and temperature, snapshots, and the chain.  The pricing of MISS is free (assumption 23), the candidate that TICK waits for is assumption 55, and the
threshold edge is assumption 35. -/
def Obligations.PolicyAndPowerEvents : Prop := ∀ s : State,
  (s.pol.images = [] →
    (∀ core part ctx gid g i rest f, s.partOfPlot (plotOf core) = some part → (s.plot (plotOf core)).leaving = false →
      s.engineBusy (plotOf core) = false → s.pickContexts core part = [(ctx, [(gid, .grid gid)])] → mget? s.grids gid = some g → g.waiting = i :: rest → s.fits core g none = some f →
      Answers (.pickCall core) s (fun t => (t.plot (plotOf core)).lastCtx = some ctx ∧ (t.plot (plotOf core)).lastId = some gid ∧
        ∃ w, mget? t.wgs (wgKey gid i) = some w ∧ w.core = some core ∧ w.slots = f.slots.map Prod.snd ∧ w.slice = 2 ^ 20 ∧ w.index = i)) ∧
    (∀ plot, plot < 8 → s.engineBusy plot = false → (s.plot plot).ticks < s.elapsed / 10000 → Distinct s.pol.now → Answers (.tickCall plot) s (fun t =>
      (t.plot plot).ticks = (s.plot plot).ticks + 1 ∧
      ∀ key, key % 8 = plot → mget? t.pol.now key = none ∧ ∀ v, mget? s.pol.now key = some v → mget? t.pol.last key = some v)) ∧
    (∀ grid wg w core, mget? s.wgs (wgKey grid wg) = some w → w.core = some core → s.engineBusy (plotOf core) = false →
      (w.wantTick = true → Answers (.sliceExpiry grid wg) s (fun t => ∃ w', mget? t.wgs (wgKey grid wg) = some w' ∧ w'.wantTick = false)) ∧
      (∀ x, s.wgCtx w = some x → (s.plot (plotOf core)).leaving = false → w.parkCalls = [] →
        (w.blocked = false → s.whollyParked w = true → Answers (.blockCall grid wg) s (fun t => ∃ w', mget? t.wgs (wgKey grid wg) = some w' ∧ w'.blocked = true ∧
          w'.parkCalls = [] ∧ w'.preempt = w.preempt)) ∧
        (w.blocked = true → s.hasWoken w = true → Answers (.wakeCall grid wg) s (fun t => ∃ w', mget? t.wgs (wgKey grid wg) = some w' ∧ w'.blocked = false ∧
          w'.parkCalls = [] ∧ w'.prio = w.prio)))) ∧
    (∀ grid wg w sv ctx x, mget? s.wgs (wgKey grid wg) = some w → w.core = none → w.saved = some sv → s.wgCtx w = some (ctx, x) →
      (∀ plot, sv.wantWake = true ∨ s.deadlineDue sv = true → s.wakeEngine x.part w = some plot → s.engineBusy plot = false → Answers (.wakeCall grid wg) s (fun t =>
        ∃ w' sv', mget? t.wgs (wgKey grid wg) = some w' ∧ w'.prio = w.prio ∧ w'.saved = some sv' ∧ sv'.wantWake = false ∧
          (s.deadlineDue sv = false → sv'.ready = sv.ready) ∧ (s.deadlineDue sv = true → sv'.ready = true ∧ sv'.since = s.elapsed))) ∧
      (∀ g engine, mget? s.grids w.grid = some g → (s.stayingPlots x.part).filter (hasBit g.conf) ≠ [] → sv.wantMigr = true →
        (s.stayingPlots x.part).head? = some engine → s.engineBusy engine = false → s.migrRuns (wgKey grid wg) = false →
        Answers (.migrCall grid wg) s (fun t => ∃ w', mget? t.wgs (wgKey grid wg) = some w' ∧ w'.prio = sv.prio ∧
          w'.saved = some { sv with wantMigr := false, migrNamed := false, migr := s.freest ((s.stayingPlots x.part).filter (hasBit g.conf)) })))) ∧
  (∀ ctx x n, mget? s.ctxs ctx = some x → 0 < n → n < 2 ^ 48 →
    (n ≤ s.pool x.part → Answers (.lease ctx n) s (fun t => ∃ x', mget? t.ctxs ctx = some x' ∧
      x'.lease = some (x.lease.getD 0 + n) ∧ x'.leaseRefused = false ∧ t.pool x.part = s.pool x.part - n ∧ ∀ p, p ≠ x.part → t.pool p = s.pool p)) ∧
    (s.pool x.part < n → Answers (.lease ctx n) s (fun t => ∃ x', mget? t.ctxs ctx = some x' ∧ x'.lease = x.lease ∧ x'.leaseRefused = true ∧
      ∀ p, t.pool p = s.pool p)) ∧
    (x.lease = some n → Answers (.lease ctx 0) s (fun t => ∃ x', mget? t.ctxs ctx = some x' ∧
      x'.lease = none ∧ t.pool x.part = (s.pool x.part + n) % 2 ^ 48 ∧ ∀ p, p ≠ x.part → t.pool p = s.pool p))) ∧
  (∀ ctx x, mget? s.ctxs ctx = some x → x.lease = some 0 →
    let past := fun (k : Core) => (∃ w ∈ k.warps, w.2.ctx = ctx) → x.leaseAt < k.start (36 * s.elapsed)
    ((∀ k ∈ s.cores, past k.2) → Answers (.leaseEnd ctx) s (fun t => mget? t.ctxs ctx = some { x with lease := none })) ∧
    ((∃ k ∈ s.cores, ¬ past k.2) → Answers (.leaseEnd ctx) s (fun t => t = s))) ∧
  (∀ watts, s.elapsed < s.pwr.measured + 100000 → Answers (.powerMeasure watts) s (fun t => t = s)) ∧
  (∀ watts, s.pwr.measured + 100000 ≤ s.elapsed → Answers (.powerMeasure watts) s (fun t => t.pwr.measured = s.elapsed ∧
    (s.pwr.cap < watts → t.pwr.scale = Nat.max 4096 (s.pwr.scale - 4096)) ∧
    (watts ≤ s.pwr.cap → watts * 100 < s.pwr.cap * 95 → t.pwr.scale = Nat.min 65536 (s.pwr.scale + 4096)) ∧
    (watts ≤ s.pwr.cap → s.pwr.cap * 95 ≤ watts * 100 → t.pwr.scale = s.pwr.scale))) ∧
  (∀ stack celsius, stack < 16 → mgetD s.pwr.reported stack 0 < s.elapsed / 10000 → Answers (.thermalReport stack celsius) s (fun t =>
    mgetD t.pwr.reported stack 0 = s.elapsed / 10000 ∧
    (95 ≤ celsius → mgetD t.pwr.derate stack 0 = 2) ∧ (celsius ≤ 80 → mgetD t.pwr.derate stack 0 = 0) ∧
    (85 ≤ celsius → celsius ≤ 90 → mgetD t.pwr.derate stack 0 = 1))) ∧
  (∀ tag, hasBit s.pwr.snapctl 1 = true → s.pwr.snap = none → Answers (.snaptrig tag) s (fun t => t.pwr.snapseq = (s.pwr.snapseq + 1) % 2 ^ 32 ∧
    ∃ x, t.pwr.snap = some x ∧ x.tag = tag % 2 ^ 9 ∧ x.time = s.elapsed ∧ x.counters = s.counters ∧ x.meters = s.meters)) ∧
  (hasBit s.pwr.snapctl 2 = true → s.pwr.snap = none → s.pwr.snapHit = false → bitsOf s.pwr.snapctl 8 5 < 18 →
    s.pwr.snapthr ≤ mgetD s.meters (64 * bitsOf s.pwr.snapctl 16 3 + bitsOf s.pwr.snapctl 8 5) 0 →
    Answers .snapThreshold s (fun t => t.pwr.snapHit = true ∧ ∃ x, t.pwr.snap = some x ∧ x.tag = 0 ∧ x.time = s.elapsed ∧ x.meters = s.meters)) ∧
  Answers .snapack s (fun t => t = { s with pwr := { s.pwr with snap := none } }) ∧
  (s.sec.seconds < s.elapsed / 1000000000 → Answers .chainTick s (fun t => t.sec.seconds = s.sec.seconds + 1 ∧
    ∀ part p, s.parts = [(part, p)] → ∃ p' e, mget? t.parts part = some p' ∧ p'.chain.head? = some e ∧ e.time = s.elapsed ∧ e.meters = s.metersOf part)) ∧
  (s.fab.refills < s.elapsed / 10000 → Answers .rateBucketRefill s (fun t => t.fab.refills = s.fab.refills + 1 ∧
    ∀ i e, mget? s.fab.fltab i = some e → mget? t.fab.fltab i = some { e with tokens := Nat.min e.rate (e.tokens + e.rate) }))

namespace Sys2Proof

/-! ### Policy bytecode -/

/-- R421, R422 and Tables 16-4 and 16-5: what each opcode makes of a run, as a word with its fields.  k0 reads zero, registers are 64 bits wide, and a
BRK goes to the word after the ENDL of its loop. -/
def BytecodeOps : Prop := ∀ (cs : List Code) (cands : List (List Nat)) (r : Run) (a b c imm : Nat), a < 16 → b < 16 → c < 16 → imm < 2 ^ 14 → (∀ n, r.reg n < 2 ^ 64) →
  let does := fun (op : Nat) => Run.local cs cands (Code.of (op * 2 ^ 26 + a * 2 ^ 22 + b * 2 ^ 18 + c * 2 ^ 14 + imm)) r
  let sx : Int := if imm < 2 ^ 13 then imm else (imm : Int) - 2 ^ 14
  let x := r.reg b
  let y := (((r.reg c : Int) + sx) % 2 ^ 64).toNat
  let test := a = 0 ∨ r.reg a ≠ 0
  let gives := fun (op v : Nat) => (does op).pc = r.pc + 1 ∧ (does op).loops = r.loops ∧ (does op).d = r.d ∧ (does op).writes = r.writes ∧
    (∀ n, n ≠ a → (does op).reg n = r.reg n) ∧ (does op).reg a = if a = 0 then 0 else v
  let same := fun (op : Nat) => (does op).d = r.d ∧ (does op).writes = r.writes ∧ ∀ n, (does op).reg n = r.reg n
  gives 0x01 (sx % 2 ^ 64).toNat ∧ gives 0x02 ((r.reg a * 2 ^ 14 + imm) % 2 ^ 64) ∧ gives 0x03 x ∧
  gives 0x04 ((x + y) % 2 ^ 64) ∧ gives 0x05 (((x : Int) - y) % 2 ^ 64).toNat ∧ gives 0x06 (x &&& y) ∧ gives 0x07 (x ||| y) ∧ gives 0x08 (x ^^^ y) ∧
  gives 0x09 (x * 2 ^ (y % 64) % 2 ^ 64) ∧ gives 0x0A (x / 2 ^ (y % 64)) ∧ gives 0x0B (if signed 64 x ≤ signed 64 y then x else y) ∧
  gives 0x0C (if signed 64 x ≤ signed 64 y then y else x) ∧ gives 0x0D (if signed 64 x < signed 64 y then 1 else 0) ∧ gives 0x0E (if x = y then 1 else 0) ∧
  (same 0x10 ∧ (does 0x10).loops = r.loops ∧ (test → (does 0x10).pc = r.pc + imm) ∧ (¬ test → (does 0x10).pc = r.pc + 1)) ∧
  (same 0x11 ∧ (does 0x11).loops = (imm, r.pc + 1) :: r.loops ∧ (does 0x11).pc = r.pc + 1) ∧
  (∀ n top up, r.loops = (n, top) :: up → same 0x12 ∧ (1 < n → (does 0x12).pc = top ∧ (does 0x12).loops = (n - 1, top) :: up) ∧
    (n ≤ 1 → (does 0x12).pc = r.pc + 1 ∧ (does 0x12).loops = up)) ∧
  (∀ n top up, r.loops = (n, top) :: up → same 0x13 ∧ (¬ test → (does 0x13).pc = r.pc + 1 ∧ (does 0x13).loops = r.loops) ∧
    (test → (does 0x13).loops = up ∧ ∀ e k, r.pc < e → cs[e]? = some k → k.op = 0x12 →
      (∀ j, r.pc < j → j < e → ∃ q, cs[j]? = some q ∧ q.op ≠ 0x11 ∧ q.op ≠ 0x12) → (does 0x13).pc = e + 1)) ∧
  (let i := (x + imm / 16) % 2 ^ 64
   (imm % 16 = 13 → gives 0x19 (cands.length % 2 ^ 64)) ∧ (imm % 16 ≠ 13 → cands[i]? = none → gives 0x19 0xFFFFFFFF) ∧
   ∀ e, imm % 16 ≠ 13 → cands[i]? = some e → gives 0x19 ((e[imm % 16]?).getD 0 % 2 ^ 64)) ∧
  ((∀ n, (does 0x1C).reg n = r.reg n) ∧ (does 0x1C).pc = r.pc + 1 ∧ mget? (does 0x1C).d imm = some (r.reg a) ∧ ∀ n, n ≠ imm → mget? (does 0x1C).d n = mget? r.d n)

/-- R422, R423, R428: a run goes on opcode by opcode, each with its cycles, where they fit its allowance and the overdraft left. -/
def BytecodeRuns : Prop := ∀ (r : Running) (x : Code), (r.words.map Code.of)[r.run.pc]? = some x → x.op ≠ 0x18 → x.op ≠ 0x1A → x.op ≠ 0x1B → x.op ≠ 0x1F →
  let n := if x.op = 0x19 then 2 else 1
  (r.run.used + n ≤ r.budget →
    r.go = ({ r with run := { Run.local (r.words.map Code.of) r.job.cands x r.run with used := r.run.used + n } } : Running).go) ∧
  (r.budget < r.run.used + n → r.go = r)

/-- The one call that runs, which has come to its next step. -/
def CallDue (s : State) (plot : Nat) (c : PolicyCall) : Prop := s.pol.calls = [(plot, c)] ∧ c.ends ≤ s.elapsed

/-- The run of a call goes on as `q` after the opcode that it stood before, and stands at its next one at the end of the cycles up to there. -/
def GoesTo (t : State) (plot : Nat) (c : PolicyCall) (r : Running) (q : Run) : Prop :=
  let r' := ({ r with run := q } : Running).go
  t.pol.calls = [(plot, { c with running := some r', ends := c.since + (5 * (c.cycles + r'.run.used) + 8) / 9 })]

/-- R418, R420, R422, R423, R426 to R428: the opcodes that read or write more than the run, at their own time; RET, which draws the overdraft; and an
overrun, which displaces the traverse.  The words of a line of policy scratch are assumption 22, and when other calls see a write assumption 79. -/
def BytecodeSteps : Prop := ∀ (s : State) (plot : Nat) (c : PolicyCall) (r : Running) (x : Code), CallDue s plot c → c.running = some r →
  (r.words.map Code.of)[r.run.pc]? = some x →
  let q := r.run
  let idx := (q.reg x.b + x.imm) % 2 ^ 64
  let word := scratchKey c.part r.job.level (idx % 128)
  let next : Nat → Run := fun n => { q with pc := q.pc + 1, used := q.used + n }
  let key := imageKey r.job.level r.job.owner c.kind.point.ctorIdx
  (x.op = 0x18 → q.used + 2 ≤ r.budget → ∀ v,
    (idx = 0x40 ∧ v = s.elapsed % 2 ^ 64) ∨ (idx = 0x43 ∧ v = (s.plot plot).withheld) ∨ (idx = 0x44 ∧ v = (s.plot plot).withdrawn) ∨
      (∃ k : Counter, idx = (if k.num < 30 then k.num else k.num + 2) ∧ v = s.counter c.part k) ∨ (0x44 < idx ∧ v = 0) →
    ∃ t, step s = .next t ∧ SameMemory s t ∧ GoesTo t plot c r ((next 2).setReg x.a v)) ∧
  (x.op = 0x1A → s.dieHolds (plot / 2) word = true → q.used + 2 ≤ r.budget →
    ∃ t, step s = .next t ∧ SameMemory s t ∧ GoesTo t plot c r ((next 2).setReg x.a (mgetD q.writes word (mgetD s.cmd.scratch word 0)))) ∧
  (x.op = 0x1B → s.dieHolds (plot / 2) word = true → q.used + 2 ≤ r.budget →
    ∃ t, step s = .next t ∧ SameMemory s t ∧ t.cmd = s.cmd ∧ GoesTo t plot c r { (next 2) with writes := mset q.writes word (q.reg x.a) }) ∧
  (x.op = 0x1F → q.used + 1 ≤ r.budget → ∃ t, step s = .next t ∧ SameMemory s t ∧
    (∀ img, mget? s.pol.images key = some img → img.load = r.load →
      mgetD t.pol.overdraft (overdraftKey key plot) 768 = min (r.budget - (q.used + 1)) (r.budget - allowance c.kind.point.ctorIdx)) ∧
    ((∃ wg ctx e, c.kind = .block wg ctx e) → c.results = [] →
      let l : LevelRun := { d := some q.d, ran := true, cycles := q.used + 1, writes := q.writes }
      let n := c.cycles + (q.used + 1)
      t.pol.calls = [(plot, { c with results := [l], running := none, cycles := n, ends := c.since + (5 * n + 8) / 9 })])) ∧
  ((x.op = 0x18 ∧ r.budget < q.used + 2) ∨ ((x.op = 0x1A ∨ x.op = 0x1B) ∧ s.dieHolds (plot / 2) word = true ∧ r.budget < q.used + 2) ∨ (x.op = 0x1F ∧ r.budget < q.used + 1) →
    ∀ img n y, mget? s.pol.images key = some img → img.load = r.load → img.qnum = n → mget? s.cmd.queues n = some y → y.ctx = img.ctx →
      ∃ t, step s = .next t ∧ t.counter c.part .pover = (s.counter c.part .pover + 1) % 2 ^ 64 ∧ mget? t.pol.images key = some { img with disp := true } ∧
        mget? t.pol.overdraft (overdraftKey key plot) = some 0 ∧ t.cmd.scratch = s.cmd.scratch ∧
        (∀ i, i ≠ key → mget? t.pol.images i = mget? s.pol.images i) ∧
        (y.full = true → QueueIs t n (fun z => z.eqlost = min 65535 (y.eqlost + 1) ∨ 65535 < y.eqlost)) ∧
        (y.full = false → s.ctxWriteCause y.ctx (y.eqbase + 64 * (y.eqwr % 2 ^ y.eqlog)) 64 = none → QueueIs t n (fun z => z.eqwr = (y.eqwr + 1) % 2 ^ 32)))

/-- A level has written a decision register. -/
def Wrote (l : LevelRun) (n v : Nat) : Prop := ∃ m, l.d = some m ∧ mget? m n = some v

/-- R412 to R416, R418, R420: the end of a call: its writes stand in policy scratch, and what its levels decided takes effect. -/
def CallsEnd : Prop := ∀ (s : State) (plot : Nat) (c : PolicyCall), CallDue s plot c → c.running = none →
  let ends := fun (post : State → Prop) => ∃ t, step s = .next t ∧ t.pol.calls = [] ∧ post t
  (∀ l wg ctx e, c.results = [l] → c.kind = .block wg ctx e → Distinct l.writes →
    ends (fun t => SameMemory s t ∧ (∀ w v, mget? l.writes w = some v → mgetD t.cmd.scratch w 0 = v) ∧ (∀ w, mget? l.writes w = none → mgetD t.cmd.scratch w 0 = mgetD s.cmd.scratch w 0) ∧
      (∀ v w, Wrote l 0 v → mget? s.wgs wg = some w → w.preempt = none → w.saved = none → ∃ w', mget? t.wgs wg = some w' ∧ (v ≠ 0 → w'.preempt = some .block ∧ w'.reached = false) ∧
        (v = 0 → w' = w)) ∧
      (l.d = none → t.wgs = s.wgs))) ∧
  (∀ l wg ctx prio e w, c.results = [l] → c.kind = .wake wg ctx prio e → mget? s.wgs wg = some w → ends (fun t => SameMemory s t ∧ ∃ w', mget? t.wgs wg = some w' ∧
    (∀ v, Wrote l 0 v → w'.prio = if v < 8 then v else prio) ∧ (l.d = none → w'.prio = prio) ∧ w' = { w with prio := w'.prio })) ∧
  (∀ lt lh g e core slot id w k sp, c.results = [lt, lh] → c.kind = .enq g e (.warp core slot id) → s.warp? core slot = some w → mget? w.splits k = some sp → sp.status = .parked (.enq id none) →
    let given := fun (t : State) (d : Option Nat) => ∃ w' sp', t.warp? core slot = some w' ∧ mget? w'.splits k = some sp' ∧ sp'.status = .parked (.enq id (some d))
    (Wrote lt 0 0 ∨ Wrote lh 0 0 → ends (fun t => SameMemory s t ∧ given t none ∧ t.counter c.part .prefuse = (s.counter c.part .prefuse + 1) % 2 ^ 64)) ∧
    (¬ Wrote lt 0 0 → ¬ Wrote lh 0 0 → ends (fun t => SameMemory s t ∧ (∀ v, Wrote lh 1 v → given t (some (if v < 8 then v else 3))) ∧
      (∀ v, (∀ u, ¬ Wrote lh 1 u) → Wrote lt 1 v → given t (some (if v < 8 then v else 3))) ∧
      ((∀ u, ¬ Wrote lh 1 u) → (∀ u, ¬ Wrote lt 1 u) → given t (some 3))))) ∧
  (∀ lh lt wgs robin robins v wg ctx e w, c.results = [lh, lt] → c.kind = .tick wgs robin robins → Wrote lh 0 (v + 1) → wgs[v]? = some (wg, ctx, e) → (wgs.map Prod.fst).Nodup →
    lt.d = none → mget? robins ctx = none → (s.plot plot).leaving = false → mget? (s.residents plot) wg = some w → mget? s.wgs wg = some w → w.preempt = none → w.saved = none →
    ends (fun t => SameMemory s t ∧ ∃ w', mget? t.wgs wg = some w' ∧ w'.preempt = some .tick ∧ w'.reached = false)) ∧
  (∀ lh lt core robin lists i ctx l j gid e g k rest f, c.results = [lh, lt] → c.kind = .pick core robin lists → Wrote lh 0 i → lists[i]? = some (ctx, l) → Wrote lt 0 j →
    l[j]? = some (gid, .grid gid, e) → (s.plot (plotOf core)).leaving = false → s.partOfPlot (plotOf core) = some c.part → lh.writes = [] → lt.writes = [] →
    (gid, Pick.grid gid) ∈ mgetD (s.pickContexts core c.part) ctx [] → mget? s.grids gid = some g → g.waiting = k :: rest → s.fits core g none = some f →
    ends (fun t => (t.plot (plotOf core)).lastCtx = some ctx ∧ (t.plot (plotOf core)).lastId = some gid ∧ ∃ w, mget? t.wgs (wgKey gid k) = some w ∧ w.core = some core ∧
      (∀ d, Wrote lt 1 d → d < 65536 → w.slice = if d = 0 then 2 ^ 20 else 1024 * d) ∧ ((∀ d, ¬ Wrote lt 1 d) → w.slice = 2 ^ 20)))

/-- R417, R426 to R428: a call of BLOCK starts the run of its traverse, with its allowance and overdraft, where one is loaded and not displaced; it then
keeps its engine.  Where none is, the call takes the round-robin answer and PRRALL counts it. -/
def CallsStart : Prop := ∀ (s : State) (grid wg : Nat) (w : Workgroup) (core ctx : Nat) (x : Context), mget? s.wgs (wgKey grid wg) = some w → w.core = some core →
  s.wgCtx w = some (ctx, x) → w.blocked = false → w.parkCalls = [] → s.whollyParked w = true → (s.plot (plotOf core)).leaving = false → s.engineBusy (plotOf core) = false →
  let key := imageKey 0 ctx 3
  (∀ img, mget? s.pol.images key = some img → img.disp = false → img.words ≠ [] → Answers (.blockCall grid wg) s (fun t => SameMemory s t ∧
    t.counter x.part .pcalls = (s.counter x.part .pcalls + 1) % 2 ^ 64 ∧
    ∃ k r, mget? t.pol.calls (plotOf core) = some k ∧ k.part = x.part ∧ k.results = [] ∧ k.cycles = 0 ∧ k.since = s.elapsed ∧ k.running = some r ∧ r.words = img.words ∧ r.job.owner = ctx ∧
      r.budget = 64 + mgetD s.pol.overdraft (overdraftKey key (plotOf core)) 768 ∧
      r = ({ r with run := { k := [], d := [], writes := [], loops := [], pc := 0, used := 0 } } : Running).go ∧ k.ends = s.elapsed + (5 * r.run.used + 8) / 9)) ∧
  ((∀ img, mget? s.pol.images key = some img → img.disp = true ∨ img.words = []) → Answers (.blockCall grid wg) s (fun t => SameMemory s t ∧
    t.counter x.part .prrall = (s.counter x.part .prrall + 1) % 2 ^ 64 ∧ mget? t.pol.calls (plotOf core) = none))

end Sys2Proof

/-- R412 to R418, R420 to R423, R426 to R428 and Tables 16-1, 16-2, 16-4 and 16-5: the policy bytecode and the calls that run it: each opcode, the cycles
and the overdraft, overrun and displacement, and what the end of a call decides. -/
def Obligations.PolicyBytecode : Prop := BytecodeOps ∧ BytecodeRuns ∧ BytecodeSteps ∧ CallsEnd ∧ CallsStart

namespace Sys2Proof

/-! ### The registers of the control pages -/

end Sys2Proof

/-- R5, R160, R266, R420, R433, R441, R444 to R447, R481, R493: writes of the registers of a control page, the answers to records and page requests,
and invalidations.  Size codes 5 and 6 of TLBINV are assumption 52, and what an abort takes with it is assumption 53. -/
def Obligations.ControlPageWrites : Prop := ∀ (s : State) (ctx : Nat),
  (∀ i n q value, s.queueOf ctx i = some (n, q) →
    (q.halted = false → value < 2 ^ 32 →
      ((value + 2 ^ 32 - q.qrd) % 2 ^ 32 ≤ 2 ^ q.rlog → Answers (.qdb ctx i value) s (fun t => SameMemory s t ∧ QueueIs t n (fun x => x.qdb = value))) ∧
      (2 ^ q.rlog < (value + 2 ^ 32 - q.qrd) % 2 ^ 32 → mget? s.cmd.queues n = some q → Answers (.qdb ctx i value) s (fun t => QueueIs t n (fun x => x.qdb = q.qdb)))) ∧
    Answers (.eqrd ctx i value) s (fun t => QueueIs t n (fun x => x.eqrd = value % 2 ^ 32))) ∧
  (∀ i value, i < 16 → s.queueOf ctx i = none → (mget? s.ctxs ctx).isSome = true → Answers (.eqrd ctx i value) s (fun t =>
    t.readControl ctx (32 * i + 16) = value % 2 ^ 32)) ∧
  (∀ n q value, mget? s.cmd.queues n = some q → q.ctx = ctx → hasBit value q.idx = true → q.halted = true →
    Answers (.qreset ctx value) s (fun t => QueueIs t n (fun x => x.halted = false ∧ x.qrd = q.qdb ∧ x.packet = none))) ∧
  (∀ seq value x, s.quiescing = true → mget? s.ctxs ctx = some x →
    let kept := fun (i : Instr) (h : HostWrite) => Answers i s (fun t => t = { s with cmd := { s.cmd with latched := s.cmd.latched ++ [h] } })
    kept (.eqansResume ctx seq) (.answer ctx seq 0) ∧ kept (.eqansSkip ctx seq) (.answer ctx seq 1) ∧ kept (.eqansAbort ctx seq) (.answer ctx seq 2) ∧
    kept (.fsreplyRetry ctx seq) (.page ctx seq false) ∧ kept (.fsreplyDecline ctx seq) (.page ctx seq true) ∧
    kept (.mbxdata ctx value) (.mailbox x.part x.mbxIdx value)) ∧
  (∀ seq r core slot w e sp, s.quiescing = false → s.recOpen.find? (fun r => r.ctx == ctx && r.seq == seq && r.kind.answered) = some r → r.kind = .warp →
    s.warp? core slot = some w → w.ctx = ctx → w.splits = [(e, sp)] → sp.status = .parked (.record seq) →
    Answers (.eqansResume ctx seq) s (fun t => t.recOpen = s.recOpen.erase r ∧ ∃ w', t.warp? core slot = some w' ∧ w'.splits = [(e, { sp with status := .ready })] ∧
      w'.strands = w.strands) ∧
    Answers (.eqansSkip ctx seq) s (fun t => ∃ w', t.warp? core slot = some w' ∧ w'.splits = [(e, { sp with status := .ready, replay := none })] ∧
      ∀ l, l < 16 → l < w.strands.length → (w'.strand l).pc = (w.strand l).pc + (if hasBit sp.strands l then 4 else 0)) ∧
    (w.loads = 0 → w.stores = 0 → w.copies = 0 → w.tiles = 0 → Answers (.eqansAbort ctx seq) s (fun t => t.warp? core slot = none))) ∧
  (∀ seq r core slot w e sp asks, s.quiescing = false → s.recOpen.find? (fun r => r.ctx == ctx && r.seq == seq && r.kind == .pagereq) = some r →
    s.warp? core slot = some w → w.ctx = ctx → mget? w.splits e = some sp → sp.status = .parked (.page asks) →
    let given := fun (t : State) (a : PageAnswer) => ∃ w' sp', t.warp? core slot = some w' ∧ mget? w'.splits e = some sp' ∧
      sp'.status = .parked (.page (asks.map (fun x => if x.seq = seq then { x with answer := a } else x)))
    Answers (.fsreplyRetry ctx seq) s (fun t => given t .retry) ∧
    (∀ x, mget? s.ctxs ctx = some x → Answers (.fsreplyDecline ctx seq) s (fun t => given t .decline ∧
      t.counter x.part .pgdecl = (s.counter x.part .pgdecl + 1) % 2 ^ 64))) ∧
  (∀ x, mget? s.ctxs ctx = some x →
    (∀ value, Answers (.tlbinv ctx value) s (fun t => ∃ x', mget? t.ctxs ctx = some x' ∧ x'.tlbPend = x.tlbPend ++ [(value / 4096 % 2 ^ 52, value % 8)])) ∧
    (∀ page size rest, x.tlbPend = (page, size) :: rest → Answers (.tlbinvComplete ctx) s (fun t => mget? t.ctxs ctx = some { x with tlbPend := rest } ∧
      ∀ core, ∀ e ∈ (t.core core).tlb, e.within ctx page size = false)) ∧
    (∀ value, s.quiescing = false → Answers (.mbxdata ctx value) s (fun t => t.mboxWord x.part x.mbxIdx = (true, value % 2 ^ 64))) ∧
    (∀ value p, mget? s.parts x.part = some p → value % 8 < 5 → hasBit p.carvok (value % 8) = true → Answers (.mecarve ctx value) s (fun t =>
      mget? t.ctxs ctx = some { x with carve := value % 8 } ∧
      ∀ core slot w, s.warp? core slot = some w → w.ctx = ctx → (t.core core).carveTo = value % 8)) ∧
    (∀ value p, mget? s.parts x.part = some p → 5 ≤ value % 8 ∨ hasBit p.carvok (value % 8) = false → Answers (.mecarve ctx value) s (fun t => t = s)) ∧
    (∀ value, Answers (.psdata ctx value) s (fun t => mgetD t.cmd.scratch x.psKey 0 = value % 2 ^ 64)) ∧
    (∀ value hyper, Answers (.registerWrite (.control ctx hyper) 0x228 value) s (fun t => mget? t.ctxs ctx = some { x with mbxIdx := value % 2 ^ 13 }) ∧
      Answers (.registerWrite (.control ctx true) 0x240 value) s (fun t => mget? t.ctxs ctx = some { x with psIdx := value % 2 ^ 8 }) ∧
      (∀ off, off ≠ 0x228 → off ≠ 0x240 → off ≠ 0x250 → Answers (.registerWrite (.control ctx hyper) off value) s (fun t => t = s)))) ∧
  (∀ value, Answers (.registerWrite .power 0x008 value) s (fun t => t.pwr.cap = if 1000 ≤ value % 2 ^ 16 ∧ value % 2 ^ 16 ≤ 3400 then value % 2 ^ 16 else s.pwr.cap))

namespace Sys2Proof

/-! ### Packets -/

/-- A queue starts a packet of a kind (R433 to R436, R448): it is ready, the packet is read, it is in order and of the right format, and the
context has the attribute that it needs. -/
def Starts (s : State) (qnum : Nat) (q : Queue) (x : Context) (p : Packet) (kind : PacketKind) : Prop :=
  mget? s.cmd.queues qnum = some q ∧ mget? s.ctxs q.ctx = some x ∧ s.queueReady x q = true ∧ s.readPacket q = .ok p ∧ p.kind = kind ∧
  (p.ord = true → s.ordReady qnum = true) ∧ p.formatOk = true ∧ (∀ fn, kind = .cfg fn → fn ≠ 2 → fn ≠ 3 → x.priv = true)

/-- A packet's step has ended (R436). -/
def StepEnded (t : State) (qnum : Nat) (q : Queue) : Prop := QueueIs t qnum (fun x => x.qrd = (q.qrd + 1) % 2 ^ 32 ∧ x.packet = none ∧ x.block = none)

end Sys2Proof

/-- R383, R385, R424, R434 to R440: NOP, LAUNCH, the mailbox packets and words, POLICY_LOAD, and the fault of a packet of a wrong format.  ADDR of a
record is assumption 39. -/
def Obligations.Packets : Prop := ∀ (s : State) (qnum : Nat) (q : Queue) (x : Context) (p : Packet),
  (Starts s qnum q x p .nop → Answers (.nopPacket qnum) s (fun t => SameMemory s t ∧ StepEnded t qnum q)) ∧
  (mget? s.cmd.queues qnum = some q → mget? s.ctxs q.ctx = some x → s.queueReady x q = true → s.readPacket q = .ok p → p.kind = .nop → p.formatOk = false →
    (p.ord = true → s.ordReady qnum = true) → Answers (.nopPacket qnum) s (fun t => QueueIs t qnum (fun y => y.qrd = q.qrd ∧ y.pending = some (s.nextSeq q.ctx)) ∧
      ∃ r ∈ t.recQ ++ t.recOpen, r.kind = .packet ∧ r.cause = 0x20 ∧ r.qnum = qnum ∧ r.tagw = p.tag)) ∧
  (Starts s qnum q x p .launch →
    let t0 := (if q.packet.isSome then s else s.noteReads q.ctx [(p.addr, 64)]).modQueue qnum (fun q => { q with packet := some (leBytes 64 p.v) })
    ∀ v k s1 answer, (p.cmpl = true → p.mbx < 8192) → t0.ctxLoad q.ctx p.ptr 128 = .ok v →
      let r := LaunchRec.of v
      let s0 := t0.noteReads q.ctx ((p.ptr, 128) :: t0.kernelReads q.ctx r.kdesc)
      let e := s0.lowestPlot x.part r.plots
      let g : Kernel → Grid := fun k => r.grid s0 q.ctx k qnum p.tag (.packet (if p.cmpl then some (p.mbx, p.val) else none)) (upto r.nwg) false
      t0.engineWaits (t0.lowestPlot x.part r.plots) = false → t0.checkLaunch q.ctx r false false = some k →
      s0.enqGrid (e.getD 0) (g k) (.packet qnum q.ctx q.qrd p.tag p.ptr) = (s1, answer) → (mget? s1.cmd.queues qnum).map (fun y => y.qrd) = some q.qrd →
      Answers (.launch qnum) s (fun t => (∀ prio, answer = some (some prio) → StepEnded t qnum q ∧ t.gridSeq = s1.gridSeq + 1 ∧ mget? t.grids s1.gridSeq = some { g k with prio := prio }) ∧
        (answer = some none → t.gridSeq = s1.gridSeq ∧ ∃ r ∈ t.recQ ++ t.recOpen, r.kind = .packet ∧ r.cause = Cause.policyRefused.code ∧ r.qnum = qnum ∧ r.addr = p.ptr) ∧
        (answer = none → t.grids = s1.grids ∧ QueueIs t qnum (fun y => y.qrd = q.qrd ∧ y.block = some .working)))) ∧
  (Starts s qnum q x p .wait → p.mbx < 8192 →
    ((s.mboxWord x.part p.mbx).1 = true → s.firstWaiter x.part p.mbx true = none →
      (p.ptr = 0 → Answers (.mboxWait qnum) s (fun t => SameMemory s t ∧ StepEnded t qnum q ∧ (t.mboxWord x.part p.mbx).1 = false)) ∧
      (∀ tg, p.ptr ≠ 0 → s.translateCtx q.ctx .store p.ptr = .ok tg → tg.space = .host → Answers (.mboxWait qnum) s (fun t => StepEnded t qnum q ∧
        t.memRead 0 .host 0 tg.pa 8 = leBytes 8 (s.mboxWord x.part p.mbx).2))) ∧
    ((s.mboxWord x.part p.mbx).1 = false → p.ptr = 0 → Answers (.mboxWait qnum) s (fun t => SameMemory s t ∧ t.mboxWord x.part p.mbx = s.mboxWord x.part p.mbx ∧
      QueueIs t qnum (fun y => y.qrd = q.qrd ∧ y.block = some .mailbox) ∧ t.cmd.mboxQ.length = s.cmd.mboxQ.length + 1))) ∧
  (Starts s qnum q x p .signal → p.mbx < 8192 → (s.mboxWord x.part p.mbx).1 = false → s.firstWaiter x.part p.mbx false = none →
    Answers (.mboxSignal qnum) s (fun t => SameMemory s t ∧ StepEnded t qnum q ∧ t.mboxWord x.part p.mbx = (true, p.val % 2 ^ 64))) ∧
  (∀ part word n w, s.firstWaiter part word true = some (n, w) → w.op = .consume qnum none → (s.mboxWord part word).1 = true → mget? s.cmd.queues qnum = some q →
    Answers (.mboxConsume part word) s (fun t => SameMemory s t ∧ StepEnded t qnum q ∧ (t.mboxWord part word).1 = false ∧ t.cmd.mboxQ = dropAt s.cmd.mboxQ n)) ∧
  (∀ part word n w v, s.firstWaiter part word false = some (n, w) → w.op = .produce qnum v → (s.mboxWord part word).1 = false → mget? s.cmd.queues qnum = some q →
    Answers (.mboxProduce part word) s (fun t => SameMemory s t ∧ StepEnded t qnum q ∧ t.mboxWord part word = (true, v % 2 ^ 64) ∧ t.cmd.mboxQ = dropAt s.cmd.mboxQ n)) ∧
  (∀ n w qn ctx v, s.cmd.mboxQ[n]? = some w → w.op = .background qn ctx v → (s.mboxWord w.part w.word).1 = false →
    (s.firstWaiter w.part w.word false).map Prod.fst = some n →
    Answers (.backgroundProduce n) s (fun t => SameMemory s t ∧ t.mboxWord w.part w.word = (true, v % 2 ^ 64) ∧ t.cmd.mboxQ = dropAt s.cmd.mboxQ n)) ∧
  (Starts s qnum q x p .policy → ∀ v body, s.ctxLoad q.ctx p.ptr 16 = .ok v →
    let h := ImageHeader.of v
    let words := (upto h.len).map (fun i => bitsOf body (32 * i) 32)
    let key := imageKey h.level (if h.level = 0 then q.ctx else x.part) h.point
    (h.level = 1 → x.priv = true) → h.ok = true → s.ctxLoad q.ctx (p.ptr + 16) (4 * h.len) = .ok body → h.point ≤ 5 → verifyImage h words (s.engineRoom x.part key) = 0 →
    Answers (.policyLoad qnum) s (fun t => SameMemory s t ∧ StepEnded t qnum q ∧ ∃ img, mget? t.pol.images key = some img ∧ img.words = words ∧ img.disp = false))

namespace Sys2Proof

/-- The argument block of a PART_CFG has been read (R448). -/
def ArgRead (s : State) (q : Queue) (p : Packet) (n v : Nat) : Prop := s.ctxLoad q.ctx p.ptr n = .ok v

end Sys2Proof

/-- R24, R266, R359 to R362, R397, R399, R431, R432, R448 to R453: the functions of PART_CFG on a valid argument block, the switch of the slot maps
and the clear sequence.  The model's choices: the layout of WINTAB (assumption 29), the blocks of WPROG and WPUB (assumption 44), the ciphertext of
CHKPT (assumption 28), a removed or joining plot (assumption 42), the number that a WPROG must give, one above the highest (assumption 37). -/
def Obligations.PartitionConfig : Prop := ∀ (s : State) (qnum : Nat) (q : Queue) (x : Context) (p : Packet),
  (Starts s qnum q x p (.cfg 0) → s.cmd.layouts.find? (fun l => l.qnum == qnum) = none → p.idx < 8 → s.layoutWaits p.idx = false →
    ∀ v, ArgRead s q p 1216 v → (LayoutBlock.of v).ok = true → s.layoutConflicts p.idx (LayoutBlock.of v) = false → bitsOf v 0 8 ≠ 0 →
    Answers (.layout qnum) s (fun t => SameMemory s t ∧ QueueIs t qnum (fun y => y.qrd = q.qrd ∧ y.block = some .working) ∧ (mget? t.parts p.idx).isSome = true ∧
      ∃ l, t.cmd.layouts = s.cmd.layouts ++ [l] ∧ l.qnum = qnum ∧ l.part = p.idx ∧ l.plots = bitsOf v 0 8 ∧ l.granules = bitsOf v 512 1024 ∧ l.maps = false)) ∧
  (∀ l part, s.cmd.layouts = [l] → l.qnum = qnum → l.leaving = 0 → l.joining = 0 → l.maps = false → mget? s.parts l.part = some part →
    let new := if l.plots = 0 then 0 else l.granules
    let gone := (part.granules - (part.granules &&& new)) ||| l.gone
    (∀ core, s.holdsGranules gone core = false ∧ ∀ x ∈ (s.core core).l1, x.owner.isSome = true → hasBit gone (x.line / 2 ^ 23) = false) →
    ((s.cores.any (fun k => k.2.usesGranules gone)) = false → Answers (.layout qnum) s (fun t => t.cmd.layouts = [{ l with gone := 0, maps := true }] ∧
      (∃ part', mget? t.parts l.part = some part' ∧ part'.granules = new) ∧ ∀ i, i < 1024 → hasBit gone i = true → ∀ e ∈ t.hbm, e.1 / 2 ^ 30 ≠ i)) ∧
    ((s.cores.any (fun k => k.2.usesGranules gone)) = true → Answers (.layout qnum) s (fun t => t.cmd.layouts = [{ l with gone := gone }] ∧ SameMemory s t ∧
      ∃ part', mget? t.parts l.part = some part' ∧ part'.granules = part.granules &&& new))) ∧
  (∀ l part, s.cmd.layouts = [l] → l.maps = true → l.plots ≠ 0 → l.qnum = qnum → mget? s.cmd.queues qnum = some q → mget? s.parts l.part = some part →
    Answers .slotMapSwitch s (fun t => t.cmd.layouts = [] ∧ StepEnded t qnum q ∧
      ∃ part', mget? t.parts l.part = some part' ∧ part'.slotMaps = l.slotMaps ∧ part'.lgen = (if l.creates then part.lgen else (part.lgen + 1) % 2 ^ 32))) ∧
  (∀ plot, plot < 8 → s.residents plot = [] → (∀ k ∈ s.plotCores plot, k.allocs = []) → s.cmd.layouts = [] → (s.plot plot).sclr = true →
    Answers (.clearSequence plot) s (fun t => (t.plot plot).sclr = false ∧ (t.plot plot).cls = .clean ∧ (t.plot plot).mem = [] ∧
      ∀ core, plotOf core = plot → (mget? s.cores core).isSome = true → (t.core core).scratch = [] ∧ (t.core core).acc = [] ∧ (t.core core).l1 = [] ∧ (t.core core).tlb = [])) ∧
  (Starts s qnum q x p (.cfg 1) → ∀ v part, ArgRead s q p 8 v → mget? s.parts p.idx = some part → bitsOf v 42 22 = 0 → bitsOf v 28 4 = 0 → bitsOf v 12 4 = 0 → bitsOf v 5 3 = 0 →
    (∀ i ∈ bitsList 8 part.plots, s.plotFenced i = false) →
    Answers (.meplim qnum) s (fun t => SameMemory s t ∧ StepEnded t qnum q ∧ mget? t.parts p.idx = some { part with
      shkey := bitsOf v 32 10, plimmax := bitsOf v 16 12, fullht := hasBit v 11, pmemmax := bitsOf v 9 2, fuseok := hasBit v 8, carvok := bitsOf v 0 5 })) ∧
  (Starts s qnum q x p (.cfg 2) → ∀ v, ArgRead s q p 576 v →
    let qs := (upto 16).map (fun i => QueueDesc.of (bitsOf v (512 + 256 * i) 256))
    s.blockCause x v qs = none → Answers (.ctxCreate qnum) s (fun t => SameMemory s t ∧ StepEnded t qnum q ∧ mget? t.ctxs (bitsOf v 388 10) = some (contextOf v) ∧
      ∀ (i : Nat) (d : QueueDesc), qs[i]? = some d → d.v = true → mget? t.cmd.queues d.qnum = some (d.queue (bitsOf v 388 10) i))) ∧
  (Starts s qnum q x p (.cfg 3) → ∀ y, mget? s.ctxs p.idx = some y → (y.part = x.part ∨ x.priv = true) → Answers (.ctxDestroy qnum) s (fun t =>
    mget? t.ctxs p.idx = none ∧ (∀ e ∈ t.cmd.queues, e.2.ctx ≠ p.idx) ∧ (q.ctx ≠ p.idx → StepEnded t qnum q))) ∧
  (Starts s qnum q x p (.cfg 4) → ∀ v, p.idx < 64 → ArgRead s q p 32 v → bitsOf v 112 6 = 0 → bitsOf v 1 78 = 0 → Answers (.fltab qnum) s (fun t =>
    StepEnded t qnum q ∧ ∃ e, mget? t.fab.fltab p.idx = some e ∧ e.v = hasBit v 0 ∧ e.srcPart = bitsOf v 79 3 ∧ e.srcDev = bitsOf v 82 4 ∧ e.tgtq = bitsOf v 86 10 ∧
      e.rate = bitsOf v 96 16 ∧ e.key = bitsOf v 118 10 ∧ e.kdlo = bitsOf v 128 64 ∧ e.kdhi = bitsOf v 192 64)) ∧
  (Starts s qnum q x p (.cfg 5) → ∀ v, p.idx < 4096 → ArgRead s q p 16 v → bitsOf v 36 28 = 0 → hasBit v 99 = false → hasBit v 103 = false → bitsOf v 116 12 = 0 →
    Answers (.wintab qnum) s (fun t => StepEnded t qnum q ∧ ∃ e, mget? t.fab.wintab p.idx = some e ∧ e.v = hasBit v 0 ∧ e.pa = bitsOf v 64 35 ∧ e.part = bitsOf v 100 3 ∧
      e.key = bitsOf v 104 10 ∧ e.r = hasBit v 114 ∧ e.w = hasBit v 115)) ∧
  ((∀ w ∈ s.weights, w.prog ≠ some qnum) → Starts s qnum q x p (.cfg 6) → ∀ a (v : WeightVersion), ArgRead s q p 64 a →
    s.rangeCause q.ctx v.src.1 ((v.src.1 % 4096 + v.src.2 + 4095) / 4096) = none → 0 < v.key → v.key < 1024 → v.owners < 256 → v.name < 2 ^ 32 → v.tensors ≠ [] →
    v.tensors.length ≤ 4096 → v.tensors.all tensorOk = true → v.ver = s.newestVersion v.name + 1 → s.residenceOk v = true →
    Answers (.wprog qnum v) s (fun t => SameMemory s t ∧ (v.hbm = none → StepEnded t qnum q) ∧
      (v.hbm ≠ none → QueueIs t qnum (fun y => y.qrd = q.qrd ∧ y.block = some .working)) ∧
      ∃ w, t.weights = s.weights ++ [w] ∧ w.v = v ∧ w.published = none ∧ w.token = s.keyToken v.key ∧ w.ready = v.hbm.isNone ∧
        w.prog = if v.hbm = none then none else some qnum)) ∧
  (∀ w v, w ∈ s.weights → w.prog = some qnum → mget? s.cmd.queues qnum = some q → Answers (.wprog qnum v) s (fun t => SameMemory s t ∧ StepEnded t qnum q ∧
    ∃ w' ∈ t.weights, w'.v = w.v ∧ w'.ready = true ∧ w'.prog = none ∧ ∀ r, w.v.hbm = some r → w'.image = s.rangeCells r)) ∧
  (Starts s qnum q x p (.cfg 7) → ∀ a w, ArgRead s q p 8 a → s.version (bitsOf a 0 32) (bitsOf a 32 32) = some w → w.published = none →
    Answers (.wpub qnum) s (fun t => SameMemory s t ∧ StepEnded t qnum q ∧ t.wepoch = s.wepoch + 1 ∧
      t.version (bitsOf a 0 32) (bitsOf a 32 32) = some { w with published := some (s.wepoch + 1) })) ∧
  (Starts s qnum q x p (.cfg 9) → ∀ v, ArgRead s q p 136 v → bitsOf v 4 60 = 0 →
    (∀ d, (mget? s.fab.domain d).isSome = true → d < 16 ∧ bitsOf v (112 + 64 * d) 16 ≠ 0) → Answers (.domain qnum) s (fun t => SameMemory s t ∧
      StepEnded t qnum q ∧ t.fab.streams = s.fab.streams ∧ t.fab.dev = bitsOf v 0 4 ∧ ∀ d, d < 16 → t.devPresent d = (bitsOf v (112 + 64 * d) 16 != 0))) ∧
  (Starts s qnum q x p (.cfg 9) → ∀ v d part st, ArgRead s q p 136 v → bitsOf v 4 60 = 0 → d < 16 → bitsOf v (112 + 64 * d) 16 = 0 → part < 8 →
    (∀ e, (mget? s.fab.domain e).isSome = true ↔ e = d) → s.fab.streams = [(streamKey d part, st)] →
    (∀ o ∈ s.fabOps, o.dev = d ∧ o.part = part ∧ o.seq.isSome = true) →
    Answers (.domain qnum) s (fun t => (t.stream d part).failed = true ∧ (t.stream d part).unacked = [] ∧ t.devPresent d = false)) ∧
  (Starts s qnum q x p (.cfg 8) → ∀ v ok, s.cmd.chkpts.find? (fun c => c.qnum == qnum) = none → p.idx ≤ 8 → ArgRead s q p 192 v → bitsOf v 0 12 = 0 → bitsOf v 65 447 = 0 →
    (bitsOf v 512 1024 &&& s.granulesOf p.idx) = bitsOf v 512 1024 → Answers (.chkpt qnum ok) s (fun t => SameMemory s t ∧
      QueueIs t qnum (fun y => y.qrd = q.qrd ∧ y.block = some .working) ∧
      ∃ c, t.cmd.chkpts = s.cmd.chkpts ++ [c] ∧ c.qnum = qnum ∧ c.toHbm = hasBit v 64 ∧ c.base = bitsOf v 0 64 ∧ c.granules = bitsOf v 512 1024)) ∧
  (∀ c, s.cmd.chkpts = [c] → c.qnum = qnum → s.residentOf c.parts = [] → (∀ core, s.unacked core = []) → mget? s.cmd.queues qnum = some q →
    Answers (.chkpt qnum true) s (fun t => t.cmd.chkpts = [] ∧ StepEnded t qnum q))

namespace Sys2Proof

/-! ### Fabric -/

/-- A frame of a kind arrives in its turn: it is EFT for this domain and device, it is the next of its stream, and it acknowledges nothing. -/
def Arrives (s : State) (f : Frame) (kind : Nat) : Prop :=
  f.kind = kind ∧ s.frameOk f = true ∧ f.seq = (s.stream f.sdev f.spart).expect ∧ (s.stream f.sdev f.spart).failed = false ∧
  ∀ u ∈ (s.stream f.sdev f.spart).unacked, seqBelow u.seq f.ack = false

/-- The stream has moved on to its next frame (R396). -/
def Received (s t : State) (f : Frame) : Prop := (t.stream f.sdev f.spart).expect = ((s.stream f.sdev f.spart).expect + 1) % 2 ^ 32

/-- One frame has gone out on a stream: it has the next number, 0 where a failed stream forms anew, and waits for its acknowledgement (R396). -/
def Sent (s t : State) (dev part kind arg : Nat) (payload : List Byte) : Prop :=
  let x := s.stream dev part
  ∃ f, (t.stream dev part).unacked = x.unacked ++ [f] ∧ f.kind = kind ∧ f.arg = arg ∧ f.payload = payload ∧ f.tdev = dev ∧ f.sdev = s.fab.dev ∧
    f.spart = part ∧ f.seq = if x.failed then 0 else x.next

/-- The state of a machine that has counted a frame and not yet acted on it (R396). -/
def past (s : State) (f : Frame) : State :=
  let x := s.stream f.sdev f.spart
  s.setStream f.sdev f.spart { x with expect := (x.expect + 1) % 2 ^ 32, due := some (x.due.getD s.elapsed) }

/-- A remote operation, the only one outstanding, has failed (R405): FABERR counts it, or each store that it carries for a buffer entry, its destinations read all ones, and FABRIC is due at
the next instruction of its split. -/
def FabFailed (s t : State) (o : FabOp) : Prop :=
  t.fabOps = [] ∧ (∀ en, o.entry = some en → t.counter o.part .faberr = (s.counter o.part .faberr + en.marks.length) % 2 ^ 64) ∧
  (o.entry = none → t.counter o.part .faberr = (s.counter o.part .faberr + 1) % 2 ^ 64) ∧
  ∀ e w sp, o.entry = none → o.into = .regs → o.who = .split e → s.homeOf o.wg o.index = some (o.core, o.slot) → s.warp? o.core o.slot = some w → mget? w.splits e = some sp →
    hasBit sp.strands (o.t / 4) = true → ∃ w' sp', t.warp? o.core o.slot = some w' ∧
    mget? w'.splits e = some sp' ∧ sp'.fabric = true ∧ ∀ d ∈ o.dests, ∀ r, d.2 = .file r → mgetD w'.regs (256 * d.1 + r) 0 = BitVec.allOnes 32

/-- A remote operation, the only one outstanding, has its answer (R410): the destinations hold its words. -/
def FabAnswered (s t : State) (o : FabOp) (bs : List Byte) : Prop :=
  t.fabOps = [] ∧ ∀ e w, o.into = .regs → o.who = .split e → s.warp? o.core o.slot = some w → w.splits ≠ [] →
    (∀ x ∈ o.dests, x.1 < 64 ∧ ∀ r, x.2 = .file r → r < 256) → o.dests.Nodup →
    ∃ w', t.warp? o.core o.slot = some w' ∧ ∀ x ∈ fillDests o.dests (loadWords o.ext bs), ∀ r, x.2.1 = .file r → mgetD w'.regs (256 * x.1 + r) 0 = x.2.2

end Sys2Proof

/-- R395, R396, R402 to R405, R410, R451: frames of remote memory accesses go through the window table or are refused, answers fill their
destinations, refusals, which may acknowledge the frame that they refuse, and lost answers fail the access, and the streams acknowledge, retransmit and
drop.  The address of a window is assumption 29, the payload of a store of the LS path assumption 21, that of MGMT assumption 27, the tags of releases of
other devices assumption 100, and a failed stream's new start assumption 58. -/
def Obligations.FabricAccesses : Prop := ∀ (s : State) (f : Frame) (e : WinEntry) (pa r : Nat),
  (let u := fun t => Received s t f ∧ SameMemory s t ∧ Sent s t f.sdev f.spart 0x07 f.seq [BitVec.ofNat 8 r];
    (Arrives s f 0x01 → s.window f.arg .store = .error r → Answers (.eftWr f) s u) ∧ (Arrives s f 0x02 → s.window f.arg .load = .error r → Answers (.eftRd f) s u) ∧
    (Arrives s f 0x04 → s.window f.arg .store = .error r → Answers (.eftSig f) s u) ∧ (Arrives s f 0x05 → s.window f.arg .atomic = .error r → Answers (.eftAtom f) s u)) ∧
  (Arrives s f 0x01 → s.window f.arg .store = .ok (e, pa) → pa + f.payload.length ≤ Config.hbmBytes →
    (f.payload.length % 16 = 0 → Answers (.eftWr f) s (fun t => Received s t f ∧ t.memRead 0 .hbm e.key pa f.payload.length = f.payload)) ∧
    (∀ tag bs, bs.length ≤ 128 → f.payload = lsPayload tag bs → Answers (.eftWr f) s (fun t => Received s t f ∧ t.memRead 0 .hbm e.key pa bs.length = bs ∧
      ∀ sc, tag = some sc → (t.dirLine (lineKey 0 .hbm pa)).tag = some (remoteCore f.sdev, sc)))) ∧
  (pa + 8 ≤ Config.hbmBytes → (∀ plot i, i < leNat f.payload + 8 → s.publishTo plot (lineNum .hbm ((pa + i) / 128 * 128)) none = []) →
    (Arrives s f 0x02 → s.window f.arg .load = .ok (e, pa) → Answers (.eftRd f) s (fun t => Received s t f ∧ SameMemory s t ∧
      Sent s t f.sdev f.spart 0x03 f.seq (s.memRead 0 .hbm e.key pa (leNat f.payload)))) ∧
    (Arrives s f 0x04 → s.window f.arg .store = .ok (e, pa) → Answers (.eftSig f) s (fun t => Received s t f ∧
      leNat (t.memRead 0 .hbm e.key pa 8) = (leNat (s.memRead 0 .hbm e.key pa 8) + leNat f.payload) % 2 ^ 64 ∧
      (t.dirLine (lineKey 0 .hbm pa)).tag = some (remoteCore f.sdev, .dom))) ∧
    (Arrives s f 0x05 → s.window f.arg .atomic = .ok (e, pa) → f.payload.length = 16 → Answers (.eftAtom f) s (fun t => Received s t f ∧
      Sent s t f.sdev f.spart 0x06 f.seq (s.memRead 0 .hbm e.key pa 8) ∧
      t.memRead 0 .hbm e.key pa 8 = (if s.memRead 0 .hbm e.key pa 8 = f.payload.take 8 then f.payload.drop 8 else s.memRead 0 .hbm e.key pa 8)))) ∧
  (∀ o : FabOp, s.fabOps = [o] → o.dev = f.sdev → o.part = f.spart → o.seq = some f.arg →
    (Arrives s f 0x03 → o.kind = .rd → Answers (.eftRdrsp f) s (fun t => Received s t f ∧ FabAnswered s t o f.payload)) ∧
    (Arrives s f 0x06 → o.kind = .atom → Answers (.eftAtomrsp f) s (fun t => Received s t f ∧ FabAnswered s t o f.payload)) ∧
    (f.kind = 0x07 → s.frameOk f = true → f.seq = (s.stream f.sdev f.spart).expect → Answers (.eftRefuse f) s (fun t => Received s t f ∧ FabFailed s t o))) ∧
  (∀ o : FabOp, s.fabOps = [o] → o.seq.isSome = true → o.since + 100000 ≤ s.elapsed → Answers (.remoteAccessTimeout 0) s (fun t => FabFailed s t o)) ∧
  (∀ u o, f.kind = 0x3F → s.frameOk f = true → (s.stream f.sdev f.spart).unacked = [u] → seqBelow u.seq f.ack = true → (u.kind = 0x01 ∨ u.kind = 0x04) → s.fabOps = [o] →
    o.dev = f.sdev → o.part = f.spart → o.seq = some u.seq →
    Answers (.eftAckonly f) s (fun t => t.fabOps = [] ∧ (t.stream f.sdev f.spart).unacked = [] ∧ (t.stream f.sdev f.spart).expect = (s.stream f.sdev f.spart).expect)) ∧
  (f.kind = 0x30 → s.frameOk f = true →
    (f.payload = [] → Answers (.eftMgmt f) s (fun t => (t.stream f.sdev f.spart).expect = 0)) ∧
    (f.payload ≠ [] → let p := (s.stream f.sdev f.spart).port
      Answers (.eftMgmt f) s (fun t => mgetD t.fab.assoc p 0 = mgetD s.fab.assoc p 0 + 1))) ∧
  (∀ p, p < 16 → Answers (.secureAssociationRenewal p) s (fun t => SameMemory s t ∧ mgetD t.fab.assoc p 0 = mgetD s.fab.assoc p 0 + 1)) ∧
  Answers (.frameDrop f) s (fun t => t = { s with fab := { s.fab with dropped := s.fab.dropped + 1 } }) ∧
  (f.kind = 0x01 → s.frameOk f = false → Answers (.eftWr f) s (fun t => t = { s with fab := { s.fab with dropped := s.fab.dropped + 1 } })) ∧
  (∀ (dev part : Nat), let x := s.stream dev part
    (∀ at', x.due = some at' → at' + 2000 ≤ s.elapsed → Answers (.eftAckTimeout dev part) s (fun t => SameMemory s t ∧ t.stream dev part = { x with due := none })) ∧
    (x.unacked ≠ [] → x.progress + 8000 ≤ s.elapsed →
      (x.tries < 8 → Answers (.eftRetransmit dev part) s (fun t => SameMemory s t ∧ (t.stream dev part).unacked = x.unacked ∧ (t.stream dev part).tries = x.tries + 1 ∧
        (t.stream dev part).progress = s.elapsed)) ∧
      (8 ≤ x.tries → (∀ o ∈ s.fabOps, o.dev = dev ∧ o.part = part ∧ o.seq.isSome = true) → Answers (.eftRetransmit dev part) s (fun t => (t.stream dev part).failed = true ∧ (t.stream dev part).unacked = []))))

/-- R392 to R394, R398 to R401: a launch from the fabric is admitted or refused with its reason, its answer, commit, abandon and end go their ways, a
launch without every answer times out, and arrivals and generations of groups count.  The places of TGTQ and the key in the payload are the model's
choice (assumption 25), and so are the room of a queue (assumption 26), the arrivals that a device that is not the home counts and that the new GEN ends
(assumption 77), and the number that a failed stream starts anew from (assumption 58). -/
def Obligations.FabricLaunchesAndGroups : Prop := ∀ (s : State) (f : Frame),
  (Arrives s f 0x10 → s.admissionBusy f = false →
    let rec' := LaunchRec.of (leNat (f.payload.take 128))
    let tgtq := leNat ((f.payload.drop 128).take 2)
    let key := leNat ((f.payload.drop 130).take 2)
    let found := s.fab.fltab.find? (fun e => e.2.v && e.2.srcDev == f.sdev && e.2.srcPart == f.spart && e.2.tgtq == tgtq)
    let refused := fun (n : Nat) => Answers (.eftLaunch f) s (fun t => Received s t f ∧ Sent s t f.sdev f.spart 0x11 f.arg [BitVec.ofNat 8 n] ∧ t.grids = s.grids ∧
      t.counter (s.partOfQueue tgtq) .flref = (s.counter (s.partOfQueue tgtq) .flref + 1) % 2 ^ 64)
    (found = none → refused 1) ∧
    ∀ i e, found = some (i, e) →
      (rec'.kdesc < e.kdlo ∨ e.kdhi < rec'.kdesc → refused 2) ∧
      (e.kdlo ≤ rec'.kdesc → rec'.kdesc ≤ e.kdhi → (e.key ≠ key → refused 3) ∧ (e.key = key → (e.tokens = 0 → refused 4) ∧ (0 < e.tokens →
        let s0 : State := { past s f with fab := { (past s f).fab with fltab := mset s.fab.fltab i { e with tokens := e.tokens - 1 } } }
        (mget? s.cmd.queues tgtq = none → refused 5) ∧
        ∀ q x, mget? s.cmd.queues tgtq = some q → mget? s.ctxs q.ctx = some x →
          (s.queueRoom tgtq = false → refused 5) ∧
          (s.queueRoom tgtq = true → (s0.checkLaunch q.ctx rec' true true = none → refused 6) ∧
            ∀ k s1 answer, s0.checkLaunch q.ctx rec' true true = some k →
              let s2 := s0.noteReads q.ctx (s0.kernelReads q.ctx rec'.kdesc)
              let devs := bitsList 16 rec'.devm
              let wgs := if rec'.conf = 3 then (upto rec'.nwg).filter (fun w => devs[w % devs.length]? == some s.fab.dev) else upto rec'.nwg
              let g := rec'.grid s2 q.ctx k tgtq 0 (.fabric f.sdev f.spart f.arg) wgs true
              s2.enqGrid ((s2.lowestPlot x.part g.conf).getD 0) g (.frame f.sdev f.spart f.arg tgtq) = (s1, answer) → Answers (.eftLaunch f) s (fun t =>
                (answer = none → t = s1) ∧ (answer = some none → Sent s1 t f.sdev f.spart 0x11 f.arg [7]) ∧
                (∀ prio, answer = some (some prio) → Sent s1 t f.sdev f.spart 0x11 f.arg [0] ∧
                  g.heldPart = true ∧ t.gridSeq = s1.gridSeq + 1 ∧ mget? t.grids s1.gridSeq = some { g with prio := prio }))))))) ∧
  (∀ l rsn rest, Arrives s f 0x11 → f.payload = BitVec.ofNat 8 rsn :: rest → rsn < 16 → f.arg = l.arg → f.spart = l.part → f.sdev ∈ l.targets → l.committed = false →
    s.fab.launches = [l] → mget? l.answers f.sdev = none → f.sdev ∉ l.lost →
    (l.timedOut = false → (∃ d ∈ l.targets, d ≠ f.sdev ∧ mget? l.answers d = none) → Answers (.eftLans f) s (fun t => Received s t f ∧ SameMemory s t ∧
      t.fab.launches = [{ l with answers := mset l.answers f.sdev rsn }])) ∧
    (l.timedOut = true → rsn = 0 → Answers (.eftLans f) s (fun t => Received s t f ∧ SameMemory s t ∧ Sent s t f.sdev f.spart 0x13 f.arg [])) ∧
    (l.timedOut = false → (∀ d ∈ l.targets, d ≠ f.sdev → (mget? l.answers d).isSome = true) → ∀ w e sp, s.warp? l.core l.slot = some w → w.splits = [(e, sp)] →
      sp.status = .parked (.reply l.id none) → Answers (.eftLans f) s (fun t => Received s t f ∧ SameMemory s t ∧
        (∃ w' v, t.warp? l.core l.slot = some w' ∧ w'.splits = [(e, { sp with status := .parked (.reply l.id (some v)) })] ∧ v % 2 ^ 32 = flnchStatus (mset l.answers f.sdev rsn)) ∧
        (rsn = 0 → (∃ l' ∈ t.fab.launches, l'.id = l.id ∧ l'.committed = true ∧ f.sdev ∈ l'.open_) ∧
          ∃ u ∈ (t.stream f.sdev f.spart).unacked, u.kind = 0x12 ∧ u.arg = l.arg)))) ∧
  (∀ id g, s.heldGrid f = some (id, g) → mget? s.grids id = some g →
    (Arrives s f 0x12 → (g.left ≠ 0 → Answers (.eftCommit f) s (fun t => Received s t f ∧ SameMemory s t ∧ mget? t.grids id = some { g with heldPart := false, since := s.elapsed })) ∧
      (g.left = 0 → Answers (.eftCommit f) s (fun t => Received s t f ∧ mget? t.grids id = none ∧ Sent s t f.sdev f.spart 0x14 f.arg []))) ∧
    (Arrives s f 0x13 → Answers (.eftAbandon f) s (fun t => Received s t f ∧ SameMemory s t ∧ mget? t.grids id = none ∧ ∀ n, n ≠ id → mget? t.grids n = mget? s.grids n))) ∧
  (∀ l w, Arrives s f 0x14 → s.fab.launches = [l] → l.part = f.spart → l.arg = f.arg → l.committed = true → l.open_ = [f.sdev] → mget? s.wgs l.wg = some w →
    Answers (.eftDone f) s (fun t => Received s t f ∧ SameMemory s t ∧ t.fab.launches = [] ∧ ∃ w', mget? t.wgs l.wg = some w' ∧ w'.done = (w.done + 1) % 2 ^ 32)) ∧
  (∀ l w e sp, s.fab.launches = [l] → l.committed = false → l.timedOut = false → l.since + 50000 ≤ s.elapsed → s.warp? l.core l.slot = some w → w.splits = [(e, sp)] →
    sp.status = .parked (.reply l.id none) → Answers (.flnchTimeout 0) s (fun t => SameMemory s t ∧
        (let l' : FabLaunch := { l with timedOut := true, lost := l.doubt.filter (fun d => (mget? l.answers d).isNone) ++ l.lost }
         t.fab.launches = if l.targets.all (fun d => (mget? l.answers d).isSome || l'.lost.contains d) then [] else [l']) ∧
      t.counter l.part .faberr = (s.counter l.part .faberr + 1) % 2 ^ 64 ∧ ∃ w', t.warp? l.core l.slot = some w' ∧ w'.splits = [(e, { sp with status := .ready, fabric := true })])) ∧
  (Arrives s f 0x20 → Answers (.eftGarr f) s (fun t => Received s t f ∧ SameMemory s t ∧
    t.arrivals = s.arrivals ++ [{ part := f.spart, group := f.arg % 64, plot := 0, dev := some f.sdev, from? := none, id := 0, sent := none }])) ∧
  (let key := 64 * f.spart + f.arg % 64
   Arrives s f 0x21 → (s.group key).pend = none → Answers (.eftGgen f) s (fun t => Received s t f ∧ SameMemory s t ∧
    t.group key = { s.group key with gen := f.arg / 2 ^ 32 % 2 ^ 32, count := 0 })) ∧
  (∀ n (a : Arrival), s.arrivals[n]? = some a → a.sent = none →
    let key := 64 * a.part + a.group
    let g := s.group key
    let dropped := Answers (.groupArrival n) s (fun t => SameMemory s t ∧ t.arrivals = dropAt s.arrivals n ∧ t.groups = s.groups ∧
      t.counter a.part .gbdrop = (s.counter a.part .gbdrop + 1) % 2 ^ 64)
    let counted := g.pend = none → Answers (.groupArrival n) s (fun t => SameMemory s t ∧ t.arrivals = dropAt s.arrivals n ∧
      t.group key = (if g.count + 1 < pairExp g.pair then { g with count := g.count + 1 } else { g with count := 0, gen := (g.gen + 1) % 2 ^ 32 }))
    (a.dev = none → (hasBit (pairPlots g.pair) a.plot = false → dropped) ∧
      (hasBit (pairPlots g.pair) a.plot = true → (pairDom g.pair = false ∨ pairHome g.pair = s.fab.dev → counted) ∧
        (pairDom g.pair = true → pairHome g.pair ≠ s.fab.dev → Answers (.groupArrival n) s (fun t => SameMemory s t ∧
          t.group key = { g with count := g.count + 1 } ∧ (∃ seq, t.arrivals[n]? = some { a with sent := some (pairHome g.pair, seq) }) ∧
          Sent s t (pairHome g.pair) a.part 0x20 (key % 64 + 2 ^ 32 * g.gen) [])))) ∧
    (∀ d, a.dev = some d → (pairDom g.pair = true ∧ hasBit (pairDevs g.pair) d = true → counted) ∧
      (pairDom g.pair = false ∨ hasBit (pairDevs g.pair) d = false → dropped)) ∧
    (∀ core slot w e sp, a.from? = some (core, slot) → a.dev = none → pairDom g.pair = false → s.warp? core slot = some w → w.splits = [(e, sp)] → sp.status = .parked (.reply a.id none) →
      Answers (.groupArrival n) s (fun t => ∃ w' sp', t.warp? core slot = some w' ∧ w'.splits = [(e, sp')] ∧ sp'.status = .parked (.reply a.id (some g.gen)))))

namespace Sys2Proof

/-! ### Security engine -/

/-- What a reply of the security engine holds. -/
def Replied (t : State) (k : ReplyKind) (fields : List Nat) : Prop := t.sec.reply = some { kind := k, fields := fields }

/-- A key pair has come into a slot: no byte changes, every other key reads HBM as before, and what was written under the same pair reads plain (R461). -/
def KeyTaken (s t : State) (key secret : Nat) : Prop :=
  t.hbm = s.hbm ∧ t.lineKeys = s.lineKeys ∧ t.hostMem = s.hostMem ∧ t.plots = s.plots ∧ t.cores = s.cores ∧
  (∀ k a, k ≠ key → t.memRead 0 .hbm k a 1 = s.memRead 0 .hbm k a 1) ∧
  ∀ a, mget? s.lineKeys (a / 128) = some (1 + secret) → t.memRead 0 .hbm key a 1 = [readByte s.hbm a]

end Sys2Proof

/-- R459, R467 and Table 18-1: keys are generated, retired, imported, timed out and zeroised, with the result codes of Table 18-5.  The secret of a
new key is a free value (assumption 4), slot 0 is never given (assumption 57). -/
def Obligations.KeySlots : Prop := ∀ s : State,
  (∀ part, (s.freeKey = none → Answers (.kcmdGenerate part) s (fun t => t.sec.kstat = 2 ^ 28 ∧ t.sec.keys = s.sec.keys)) ∧
    ∀ key p, s.freeKey = some key → mget? s.parts part = some p → Answers (.kcmdGenerate part) s (fun t => KeyTaken s t key (Config.freshSecret s.fresh) ∧ t.sec.kstat = key ∧
      (t.keySlot key).state = .ord ∧ (t.keySlot key).part = part ∧ (t.keySlot key).secret = Config.freshSecret s.fresh ∧
      ∀ k, k ≠ key → t.keySlot k = s.keySlot k)) ∧
  (∀ part key, ((s.keySlot key).state ≠ .ord → Answers (.kcmdRetire part key) s (fun t => t.sec.kstat = 2 * 2 ^ 28 + key ∧ t.sec.keys = s.sec.keys)) ∧
    ((s.keySlot key).state = .ord → (s.keySlot key).part ≠ part → Answers (.kcmdRetire part key) s (fun t => t.sec.kstat = 3 * 2 ^ 28 + key ∧ t.sec.keys = s.sec.keys)) ∧
    ((s.keySlot key).state = .ord → (s.keySlot key).part = part → s.keyNamed key = true →
      Answers (.kcmdRetire part key) s (fun t => t.sec.kstat = 4 * 2 ^ 28 + key ∧ t.sec.keys = s.sec.keys)) ∧
    ((s.keySlot key).state = .ord → (s.keySlot key).part = part → s.keyNamed key = false → Answers (.kcmdRetire part key) s (fun t => SameMemory s t ∧
      t.sec.kstat = key ∧ (t.keySlot key).state = .zero ∧ ∀ k, k ≠ key → t.keySlot k = s.keySlot k))) ∧
  (∀ key, (s.keySlot key).state = .pend → (s.keySlot key).since + 60000000000 ≤ s.elapsed ∨ (∀ x, mget? s.sec.sessions (s.keySlot key).sess = some x → s.sessionPart x = none) →
    Answers (.keyPendTimeout key) s (fun t => SameMemory s t ∧ (t.keySlot key).state = .zero ∧ ∀ k, k ≠ key → t.keySlot k = s.keySlot k)) ∧
  (∀ key, (s.keySlot key).state = .zero → s.keyBuffered key = false → Answers (.keyZeroise key) s (fun t => (t.keySlot key).state = .free ∧
    (t.keySlot key).secret = 0 ∧ t.keyToken key = 0 ∧ ∀ k, k ≠ key → t.keySlot k = s.keySlot k ∧ t.keyToken k = s.keyToken k)) ∧
  (∀ sess gen wrapped x, s.session sess = some x → s.sessionPart x = none → Answers (.keyImport sess gen wrapped) s (fun t => t.sec.keys = s.sec.keys ∧ Replied t .staleEvidence [])) ∧
  (∀ sess gen wrapped x p, s.session sess = some x → s.sessionPart x = some p →
    (gen ≠ p.lgen → Answers (.keyImport sess gen wrapped) s (fun t => t.sec.keys = s.sec.keys ∧ Replied t .staleEvidence [])) ∧
    (gen = p.lgen → s.freeKey = none → Answers (.keyImport sess gen wrapped) s (fun t => t.sec.keys = s.sec.keys ∧ Replied t .noSlot [])) ∧
    (∀ key, gen = p.lgen → s.freeKey = some key →
      (s.sec.debug = true → Answers (.keyImport sess gen wrapped) s (fun t => t.sec.keys = s.sec.keys ∧ Replied t .debugLocked [])) ∧
      (s.sec.debug = false → Answers (.keyImport sess gen wrapped) s (fun t => KeyTaken s t key wrapped ∧ Replied t .keyImport [key] ∧ (t.keySlot key).state = .pend ∧
        (t.keySlot key).part = x.part ∧ (t.keySlot key).secret = wrapped ∧ (t.keySlot key).sess = sess ∧ (t.keySlot key).since = s.elapsed ∧
        ∀ k, k ≠ key → t.keySlot k = s.keySlot k))))

/-- R464, R465, R476, R477: the requests of SPDM answer, sessions open, finish and end, at most 4 for a partition, and the kept and sealed entries of
a chain are read.  Signatures and digests are free values (assumption 6); sessions number from 0 (assumption 9). -/
def Obligations.SessionsAndEvidence : Prop := ∀ s : State,
  (∀ (i : Instr) (k : ReplyKind), (i, k) ∈ [(Instr.getVersion, ReplyKind.version), (.getCapabilities, .capabilities), (.negotiateAlgorithms, .algorithms),
      (.getDigests, .digests), (.getCertificate, .certificate)] →
    Answers i s (fun t => ∃ fields, Replied t k fields ∧ t = { s with sec := { s.sec with reply := some { kind := k, fields := fields } } })) ∧
  Answers .negotiateAlgorithms s (fun t => Replied t .algorithms [384, 384, 256]) ∧
  (∀ nonce, Answers (.challenge nonce) s (fun t => ∃ sig, Replied t .challenge [nonce, sig])) ∧
  (∀ sess, (mget? s.sec.sessions sess = none → Answers (.getMeasurements sess) s (fun t => ∃ sig, Replied t .measurements (s.deviceBlocks ++ [sig]))) ∧
    ∀ x, mget? s.sec.sessions sess = some x → Answers (.getMeasurements sess) s (fun t => ∃ sig, Replied t .measurements (s.deviceBlocks ++ s.partBlocks x ++ [sig])) ∧ (s.sessionPart x = none → s.partBlocks x = [])) ∧
  (∀ part p, mget? s.parts part = some p →
    (4 ≤ (s.sec.sessions.filter (fun e => e.2.part == part && e.2.pinst == p.pinst)).length → Answers (.keyExchange part) s (fun t => Replied t .error [] ∧ t.sec.sessions = s.sec.sessions)) ∧
    ((s.sec.sessions.filter (fun e => e.2.part == part && e.2.pinst == p.pinst)).length < 4 → Answers (.keyExchange part) s (fun t => Replied t .keyExchange [s.sec.nextSession] ∧
      t.sec.nextSession = s.sec.nextSession + 1 ∧ ∃ x, mget? t.sec.sessions s.sec.nextSession = some x ∧ x.part = part ∧ x.pinst = p.pinst ∧ x.done = false))) ∧
  (∀ sess x, mget? s.sec.sessions sess = some x →
    Answers (.finish sess) s (fun t => Replied t .finish [sess] ∧ mget? t.sec.sessions sess = some { x with done := true }) ∧
    Answers (.endSession sess) s (fun t => SameMemory s t ∧ Replied t .endSession [sess] ∧ mget? t.sec.sessions sess = none ∧
      ∀ key, t.keySlot key = if (s.keySlot key).state = .pend ∧ (s.keySlot key).sess = sess then { s.keySlot key with state := .zero } else s.keySlot key)) ∧
  (∀ sess entry x, s.session sess = some x →
    (∀ e, s.keptEntry x entry = some e → Answers (.meterRead sess entry) s (fun t => Replied t .meterRead e.words ∧ t.sec.sealed = s.sec.sealed)) ∧
    (∀ e, s.keptEntry x entry = none → s.sec.sealed.find? (sealedIs x entry) = some e → Answers (.meterRead sess entry) s (fun t =>
      (∃ sig, Replied t .meterRead (e.2.words ++ [sig])) ∧ t.sec.sealed = s.sec.sealed.erase e))) ∧
  (∀ e, s.sec.midx % 32 = 18 → s.sec.sealed.find? (fun x => x.1 == s.sec.midx / 256 % 8) = some e → Answers .mdata s (fun t => t.sec.sealed = s.sec.sealed.erase e))

/-- R462, R468, R469 and Table 18-3: links take new sessions, the nonce lives 60 s and for one attempt, and a token opens debug access or reports the
first check that it fails.  Whether the signature verifies and which token bits are reserved are free (assumption 6); the order of the unlock's
effects is assumption 46, where the token is read and that an attempt takes the nonce assumption 59, and the sessions of a failed link assumption 91. -/
def Obligations.DebugAndLinks : Prop := ∀ s : State,
  let fresh : Link := { session := 0, fails := 0, failed := false }
  (∀ link, link < 24 → let l := mgetD s.sec.links link fresh
    Answers (.linkRekey link) s (fun t => SameMemory s t ∧ (mgetD t.sec.links link fresh).session = l.session + (if l.failed then 0 else 1)) ∧
    Answers (.linkTagFailure link) s (fun t => SameMemory s t ∧ t.sec.lnktag = s.sec.lnktag + 1 ∧
      mgetD t.sec.links link fresh = (if l.fails < 3 ∨ l.failed = true then { l with fails := l.fails + 1 } else { session := l.session + 1, fails := 0, failed := false }))) ∧
  Answers .dbgnonce s (fun t => SameMemory s t ∧ t.sec.nonce = some (Config.freshSecret s.fresh % 2 ^ 256, s.elapsed)) ∧
  (∀ v at', s.sec.nonce = some (v, at') → at' + 60000000000 ≤ s.elapsed → Answers .nonceExpiry s (fun t => t.sec.nonce = none)) ∧
  (∀ addr, let bs := s.memRead 0 .host 0 addr 208
    Answers (.dbgtok addr) s (fun t => t.sec.nonce = none ∧ t.sec.dbgstat = s.tokenCheck bs) ∧
    (leNat bs % 2 ^ 32 ≠ 0x44424754 → s.tokenCheck bs = 1) ∧
    (leNat bs % 2 ^ 32 = 0x44424754 → leNat bs / 2 ^ 32 % 2 ^ 384 = deviceDigest → s.sec.nonce = none → s.tokenCheck bs = 3) ∧
    (s.tokenCheck bs ≠ 0 → Answers (.dbgtok addr) s (fun t => SameMemory s t ∧ t = { s with sec := { s.sec with nonce := none, dbgstat := s.tokenCheck bs } })) ∧
    (s.tokenCheck bs = 0 → Answers (.dbgtok addr) s (fun t => t.sec.debug = true ∧ t.sec.sessions = [] ∧ (∀ e ∈ t.sec.keys, e.2.state = .zero) ∧
      (∀ e ∈ t.cmd.queues, e.2.halted = true) ∧ (∀ w ∈ t.cmd.mboxQ, ∃ q c v, w.op = .background q c v) ∧ ∀ i, i < 24 → (mgetD t.sec.links i fresh).session = (mgetD s.sec.links i fresh).session + 1)))

/-- R455 to R457, R470 to R473 and Table 17-10: an update is staged, booted, answered, withdrawn, quiesced, retried and switched, the watchdog brings
the former complex back, and the anti-rollback counter advances.  The corners of assumption 47 and the state table of assumption 103 are the model's. -/
def Obligations.UpdateEvents : Prop := ∀ s : State,
  (∀ win (img : ImageInfo),
    (s.cmd.update = none → img.signed = true → s.sec.accepts img.sv = true → img.sv ≤ 64 → 0 < win → win ≤ 86400 → Answers (.updstage win img) s (fun t =>
      SameMemory s t ∧ ∃ u, t.cmd.update = some u ∧ u.state = .boot ∧ u.img = img ∧ u.win = win ∧ u.staged = s.elapsed ∧
        t.cmd.images = setAt s.cmd.images (1 - s.cmd.active) none)) ∧
    (img.signed = false ∨ img.sv < s.sec.fuses → Answers (.updstage win img) s (fun t => t = s))) ∧
  (∀ u, s.cmd.update = some u →
    (u.state = .boot ∨ u.state = .ready → Answers .updwdr s (fun t => SameMemory s t ∧ t.cmd.update = none)) ∧
    (u.state = .quiesce → Answers .updwdr s (fun t => t = s)) ∧
    (u.state = .boot ∨ u.state = .ready → u.staged + u.win * 1000000000 ≤ s.elapsed → Answers .updwinExpiry s (fun t => SameMemory s t ∧ t.cmd.update = none)) ∧
    (u.state = .boot → (∀ tb, s.cmd.table = some tb → tb.major = u.img.major ∧ tb.minor ≤ u.img.minor) → Answers (.imageBoot true) s (fun t =>
      SameMemory s t ∧ t.cmd.images = setAt s.cmd.images (1 - s.cmd.active) (some u.img) ∧ ∃ u', t.cmd.update = some u' ∧ u'.img = u.img ∧ (s.runMask = 0 → u'.state = .quiesce) ∧
        (s.runMask ≠ 0 → u'.state = .ready ∧ u'.run = s.runMask ∧ u'.owing = s.runMask))) ∧
    (u.state = .boot → Answers (.imageBoot false) s (fun t => t.cmd.update = none)) ∧
    (∀ tb, u.state = .boot → s.cmd.table = some tb → tb.major ≠ u.img.major ∨ u.img.minor < tb.minor → Answers (.imageBoot true) s (fun t => t.cmd.update = none)) ∧
    (∀ sess x digest, s.session sess = some x → s.sec.debug = true → Answers (.updateAck sess digest) s (fun t => Replied t .error [] ∧ t.cmd.update = some u)) ∧
    (∀ sess x, s.session sess = some x → (s.sessionPart x).isSome = true → u.state = .ready →
      (s.sec.debug = false → u.tries = 0 → hasBit u.owing x.part = true → s.elapsed < u.staged + u.win * 1000000000 → Answers (.updateAck sess u.img.digest) s (fun t => SameMemory s t ∧
        Replied t .updateAck [] ∧ ∃ u', t.cmd.update = some u' ∧ u'.owing = u.owing - 2 ^ x.part ∧ (u'.state = .quiesce ↔ u.owing = 2 ^ x.part))) ∧
      (∀ digest, digest ≠ u.img.digest → Answers (.updateAck sess digest) s (fun t => Replied t .error [] ∧ t.cmd.update = some u)) ∧
      (∀ digest, hasBit u.run x.part = true → Answers (.updateNak sess digest) s (fun t => SameMemory s t ∧ Replied t .updateNak [] ∧ t.cmd.update = none))) ∧
    (u.state = .quiesce → s.atBoundary = true → s.elapsed < u.since + 500000 → Answers .quiesceComplete s (fun t => SameMemory s t ∧ t.cmd.active = s.cmd.active ∧
      t.cmd.table = s.activeImage.map imageTable ∧ t.cmd.update = some { u with state := .switch, since := s.elapsed })) ∧
    (u.state = .switch → s.cmd.latched = [] → Answers .quiesceComplete s (fun t => SameMemory s t ∧ t.cmd.update = none ∧
      t.cmd.active = 1 - s.cmd.active ∧ t.cmd.switched = some (s.cmd.active, s.elapsed) ∧ t.cmd.images = s.cmd.images ∧ t.cmd.table = some (imageTable u.img) ∧
      (∀ tb, s.cmd.table = some tb → (∀ n, n < 5 → n ∈ u.img.sections ∧ n ∈ tb.sections) → t.cmd.queues = s.cmd.queues ∧ t.ctxs = s.ctxs ∧ t.parts = s.parts ∧ t.cmd.mboxQ = s.cmd.mboxQ) ∧
      (1 ∉ u.img.sections → t.recQ = [] ∧ t.recOpen = []))) ∧
    (∀ part word value, s.cmd.latched = [.mailbox part word value] → u.state = .switch ∨ (u.state = .quiesce ∧ u.since + 500000 ≤ s.elapsed) →
      Answers (if u.state = .switch then .quiesceComplete else .quiesceTimeout) s (fun t => SameMemory s t ∧ t.cmd.latched = [] ∧
        t.mboxWord part word = (true, value % 2 ^ 64))) ∧
    (u.state = .quiesce → u.since + 500000 ≤ s.elapsed → s.cmd.latched = [] → Answers .quiesceTimeout s (fun t => SameMemory s t ∧
      t.cmd.update = some { u with state := .ready, tries := u.tries + 1, since := s.elapsed })) ∧
    (u.state = .ready → 0 < u.tries → (u.tries < 8 → u.since + 10000000 ≤ s.elapsed → Answers .quiesceRetry s (fun t => SameMemory s t ∧
      t.cmd.update = some { u with state := .quiesce, since := s.elapsed })) ∧
      (8 ≤ u.tries → Answers .quiesceRetry s (fun t => SameMemory s t ∧ t.cmd.update = none)))) ∧
  (∀ old at', s.cmd.switched = some (old, at') →
    (s.elapsed < at' + 1000000000 → (∀ i, s.cmd.images[old]? = some (some i) → Answers .watchdogMiss s (fun t => SameMemory s t ∧ t.cmd.active = old ∧ t.cmd.switched = none ∧
        t.cmd.table = some (imageTable i))) ∧
      Answers (.fuseAdvance true true) s (fun t => t = s)) ∧
    (∀ img, at' + 1000000000 ≤ s.elapsed → s.activeImage = some img → s.sec.half = false →
      (s.sec.fuses < img.sv → Answers (.fuseAdvance true true) s (fun t => SameMemory s t ∧ t.sec.fuses = s.sec.fuses + 1) ∧
        Answers (.fuseAdvance true false) s (fun t => SameMemory s t ∧ t.sec.fuses = s.sec.fuses ∧ t.sec.half = true)) ∧
      (img.sv ≤ s.sec.fuses → Answers (.fuseAdvance true true) s (fun t => t = s))))

namespace Sys2Proof

/-! ### Values that tables state -/

/-- The words of ±0, ±∞ and the largest finite value of a format of Table 4-2, and its canonical NaN. -/
def zeroWord (F : FltFmt) (s : Bool) : Nat := if s then 2 ^ (F.width - 1) else 0
def infWord (F : FltFmt) (s : Bool) : Nat := zeroWord F s + (2 ^ F.eb - 1) * 2 ^ F.fb
def bigWord (F : FltFmt) (s : Bool) : Nat := infWord F s - 1
def quietWord (F : FltFmt) : Nat := infWord F false + 2 ^ (F.fb - 1)

/-- The exponent field of a word is not all ones; it is neither that nor zero. -/
def FiniteWord (F : FltFmt) (b : Nat) : Prop := b < 2 ^ F.width ∧ b / 2 ^ F.fb % 2 ^ F.eb ≠ 2 ^ F.eb - 1
def NormalWord (F : FltFmt) (b : Nat) : Prop := FiniteWord F b ∧ b / 2 ^ F.fb % 2 ^ F.eb ≠ 0

/-- The sign of a word. -/
def negative (F : FltFmt) (b : Nat) : Bool := decide (2 ^ (F.width - 1) ≤ b)

/-- An invalid operation, and an infinity with the flags raised before rounding (R103, R104): the word and the flags. -/
def invalidOut (F : FltFmt) (env : FEnv) : Nat × Nat := (if env.sat = 2 then 0 else quietWord F, 16)
def infOut (F : FltFmt) (env : FEnv) (s : Bool) (flags : Nat) : Nat × Nat := if env.sat = 0 then (infWord F s, flags) else (bigWord F s, flags + 5)

/-- Table 8-3, sums and products, in the four formats that have infinities. -/
def SpecialSums : Prop := ∀ F ∈ [fp64, fp32, fp16, bf16], ∀ (env : FEnv), env.rnd < 5 → env.sat < 3 → ∀ (s z : Bool) (a b d : Nat), a < 2 ^ F.width → b < 2 ^ F.width → d < 2 ^ F.width →
  fltSub F env a b = fltAdd F env a (b ^^^ 2 ^ (F.width - 1)) ∧
  fltAdd F env (infWord F s) (infWord F (!s)) = invalidOut F env ∧ fltAdd F env (infWord F s) (infWord F s) = infOut F env s 0 ∧
  (FiniteWord F b → fltAdd F env (infWord F s) b = infOut F env s 0 ∧ fltAdd F env b (infWord F s) = infOut F env s 0) ∧
  fltAdd F env (zeroWord F true) (zeroWord F true) = (zeroWord F true, 0) ∧
  (FiniteWord F a → fltAdd F env a (a ^^^ 2 ^ (F.width - 1)) = (zeroWord F (env.rnd == 2), 0)) ∧
  fltMul F env (infWord F s) (zeroWord F z) = invalidOut F env ∧ fltMul F env (zeroWord F z) (infWord F s) = invalidOut F env ∧
  (fltFma F env (infWord F s) (zeroWord F z) d).1 = (invalidOut F env).1 ∧ hasBit (fltFma F env (infWord F s) (zeroWord F z) d).2 4 = true ∧
  (NormalWord F b → fltMul F env (infWord F s) b = infOut F env (s != negative F b) 0) ∧ fltMul F env (infWord F s) (infWord F z) = infOut F env (s != z) 0 ∧
  (FiniteWord F b → fltMul F env (zeroWord F s) b = (zeroWord F (s != negative F b), 0))

/-- Table 8-3, the other operations, all of them FP32. -/
def SpecialFunctions : Prop := ∀ (env : FEnv), env.rnd < 5 → env.sat < 3 → ∀ (s z : Bool) (b : Nat),
  let F := fp32
  fltDiv F env (zeroWord F s) (zeroWord F z) = invalidOut F env ∧ fltDiv F env (infWord F s) (infWord F z) = invalidOut F env ∧
  (NormalWord F b → fltDiv F env b (zeroWord F z) = infOut F env (negative F b != z) 8 ∧ fltDiv F env (zeroWord F z) b = (zeroWord F (negative F b != z), 0)) ∧
  (FiniteWord F b → fltDiv F env (infWord F s) b = infOut F env (s != negative F b) 0 ∧ fltDiv F env b (infWord F s) = (zeroWord F (s != negative F b), 0)) ∧
  fltFn F env frecip (zeroWord F s) = infOut F env s 8 ∧ fltFn F env frecip (infWord F s) = (zeroWord F s, 0) ∧
  (∀ fn ∈ [froot, frsqrt, flog2], fltFn F env fn (infWord F true) = invalidOut F env ∧ (NormalWord F b → negative F b = true → fltFn F env fn b = invalidOut F env)) ∧
  fltFn F env froot (zeroWord F s) = (zeroWord F s, 0) ∧ fltFn F env froot (infWord F false) = infOut F env false 0 ∧
  fltFn F env frsqrt (zeroWord F s) = infOut F env s 8 ∧ fltFn F env frsqrt (infWord F false) = (zeroWord F false, 0) ∧
  fltFn F env fexp2 (zeroWord F s) = (0x3F800000, 0) ∧ fltFn F env fexp2 (infWord F true) = (zeroWord F false, 0) ∧ fltFn F env fexp2 (infWord F false) = infOut F env false 0 ∧
  fltFn F env flog2 (zeroWord F s) = infOut F env true 8 ∧ fltFn F env flog2 0x3F800000 = (zeroWord F false, 0) ∧ fltFn F env flog2 (infWord F false) = infOut F env false 0

/-- Table 4-4: a value beyond every format's range, with its flags, and infinities and NaNs (R103, R104). -/
def OverflowTable : Prop := ∀ (env : FEnv) (s : Bool) (e : Int), env.rnd < 5 → env.sat < 3 → 1024 ≤ e →
  let toInf := env.sat = 0 ∧ (env.rnd = 0 ∨ env.rnd = 4 ∨ (env.rnd = 2 ∧ s = true) ∨ (env.rnd = 3 ∧ s = false))
  (∀ F ∈ [fp64, fp32, fp16, bf16],
    (toInf → roundToFormat F env (.fin s 1 e) = (infWord F s, 5)) ∧ (¬ toInf → roundToFormat F env (.fin s 1 e) = (bigWord F s, 5)) ∧
    roundToFormat F env (.inf s) = infOut F env s 0 ∧ roundToFormat F env .nan = (if env.sat = 2 then (0, 16) else (quietWord F, 0))) ∧
  (∀ x ∈ [FVal.fin s 1 e, FVal.inf s], (toInf → roundToFormat e4m3 env x = (0x7F, 5)) ∧ (¬ toInf → roundToFormat e4m3 env x = (zeroWord e4m3 s + 0x7E, 5)) ∧
    roundToFormat e2m1 env x = (zeroWord e2m1 s + 7, 5)) ∧
  roundToFormat e2m1 env .nan = (0, 16)

/-- Table 4-5: the worked conversions. -/
def WorkedConversions : Prop :=
  let wideTo := fun (d : WideFmt) (s : WideFmt) (rnd sat : Nat) (ftz : Bool) (a : Nat) => convert (.wide d s) { rnd := rnd, ftz := ftz, sat := sat } a
  let small := fun (d : NarrowFmt) (rnd sat : Nat) (a : Nat) => convert (.narrow d .f32) { rnd := rnd, ftz := false, sat := sat } a
  wideTo .f16 .f32 0 0 false 0x3DCCCCCD = (0x2E66, 1) ∧ wideTo .bf16 .f32 0 0 false 0x3F808000 = (0x3F80, 1) ∧ wideTo .bf16 .f32 3 0 false 0x3F808000 = (0x3F81, 1) ∧
  small .e4m3 0 0 0x43960000 = (0x79, 1) ∧ small .e4m3 0 0 0x43FA0000 = (0x7F, 5) ∧ small .e4m3 0 1 0x43FA0000 = (0x7E, 5) ∧
  small .e2m1 0 0 0x40200000 = (4, 1) ∧ small .e2m1 4 0 0x40200000 = (5, 1) ∧ (∀ sat, sat < 3 → small .e2m1 0 sat 0x40E00000 = (7, 5)) ∧
  wideTo .s32 .f32 0 0 false 0xC0F00000 = (0xFFFFFFF8, 1) ∧ wideTo .s32 .f32 1 0 false 0xC0F00000 = (0xFFFFFFF9, 1) ∧
  wideTo .s32 .f32 0 0 false 0x4F32D05E = (0xB2D05E00, 16) ∧ wideTo .s32 .f32 0 1 false 0x4F32D05E = (0x7FFFFFFF, 16) ∧
  wideTo .f32 .s32 0 0 false 0x01000001 = (0x4B800000, 1) ∧ wideTo .f32 .s32 3 0 false 0x01000001 = (0x4B800001, 1) ∧
  wideTo .f32 .f64 0 0 false 0x37D0000000000000 = (0x00080000, 0) ∧ wideTo .f32 .f64 0 0 true 0x37D0000000000000 = (0, 3) ∧
  wideTo .f16 .f32 0 0 false 0x7F800001 = (0x7E00, 16) ∧ wideTo .f16 .f32 0 2 false 0x7F800001 = (0, 16)

/-- The value of an exact finite number, of an E3M5 scale (R97), and of a valid band scale (R98). -/
def realOf : FVal → Rat
  | .fin s m e => (if s then -1 else 1) * (m : Rat) * (2 : Rat) ^ e
  | _ => 0
def scaleReal (b : Nat) : Rat :=
  if b / 32 = 0 then (2 : Rat) ^ (-2 : Int) * ((b % 32 : Nat) : Rat) / 32 else (2 : Rat) ^ (((b / 32 : Nat) : Int) - 3) * (1 + ((b % 32 : Nat) : Rat) / 32)
def bandReal (b : Nat) : Rat := (2 : Rat) ^ (((b / 128 : Nat) : Int) - 127) * (1 + ((b % 128 : Nat) : Rat) / 128)

/-- R97, R99: the value of every element code under every scale and valid band scale. -/
def ElementValues : Prop := ∀ (scale band code : Nat), scale < 256 → 128 ≤ band → band < 32640 →
  (∀ v, [(0 : Rat), 1 / 2, 1, 3 / 2, 2, 3, 4, 6][code % 8]? = some v → code < 16 →
    realOf (codeValue .e2m1 scale (betaMag band) code) = (if code < 8 then v else -v) * scaleReal scale * bandReal band) ∧
  (∀ (elem : Elem) (n : Nat) (bfp : Bool), (elem, n, bfp) ∈ [(Elem.int4, 4, false), (.int8, 8, false), (.int16, 16, false), (.bfp8, 8, true), (.bfp12, 12, true), (.bfp16, 16, true)] →
    code < 2 ^ n → realOf (codeValue elem scale (betaMag band) code) =
      (((if code < 2 ^ (n - 1) then (code : Int) else (code : Int) - 2 ^ n) : Int) : Rat) * (if bfp then (2 : Rat) ^ (1 - (n : Int)) else 1) * scaleReal scale * bandReal band)

/-- R109: the scale of a block whose largest magnitude is positive: the smallest that covers it, or the largest there is. -/
def BlockScales : Prop := ∀ (band m : Nat) (e : Int), 128 ≤ band → band < 32640 → 0 < m →
  let M : Rat := (m : Rat) * (2 : Rat) ^ e
  let fp4 := blockScale .e2m1 (betaMag band) (m, e)
  let covers := fun (c : Nat) => M / (6 * bandReal band) ≤ scaleReal c
  ((∃ c, c < 256 ∧ covers c) → covers fp4) ∧ ((∀ c, c < 256 → ¬ covers c) → fp4 = 255) ∧ (∀ c, c < fp4 → ¬ covers c) ∧ fp4 < 256 ∧
  (∀ elem ∈ [Elem.bfp8, .bfp12, .bfp16], ∃ k : Nat, 1 ≤ k ∧ k ≤ 7 ∧ blockScale elem (betaMag band) (m, e) = 32 * k ∧
    (k < 7 → M / bandReal band ≤ (2 : Rat) ^ ((k : Int) - 3)) ∧ ∀ j : Nat, 1 ≤ j → j < k → ¬ M / bandReal band ≤ (2 : Rat) ^ ((j : Int) - 3)) ∧
  (∀ elem ∈ [Elem.int4, .int8, .int16], blockScale elem (betaMag band) (m, e) = 0x60)

/-- R111: the tree over 64 terms, with every term there, and with one. -/
def ReductionTree : Prop := ∀ (op : RedOp) (x : Nat → Nat),
  let o := fun (a b : Nat) => (redNode op a b).1
  let strand := fun (l : Nat) => o (o (x (4 * l)) (x (4 * l + 1))) (o (x (4 * l + 2)) (x (4 * l + 3)))
  let two := fun (l : Nat) => o (strand (2 * l)) (strand (2 * l + 1))
  let four := fun (l : Nat) => o (two (2 * l)) (two (2 * l + 1))
  let eight := fun (l : Nat) => o (four (2 * l)) (four (2 * l + 1))
  (treeReduce op ((upto 64).map (fun k => some (x k, 0)))).map Prod.fst = some (o (eight 0) (eight 1)) ∧
  (∀ k, k < 64 → treeReduce op ((upto 64).map (fun i => if i = k then some (x k, 0) else none)) = some (x k, 0)) ∧
  (op = .add → (treeReduce op ((upto 64).map (fun k => some (x k, 0)))).map Prod.fst = some (((upto 64).map x).sum % 2 ^ 32)) ∧
  treeReduce op ((upto 64).map (fun _ => none)) = none

/-- Table 2-14: the numbers of the special registers, and what they show of the thread, the core, the warp and the context. -/
def SpecialRegisters : Prop :=
  (∀ n r, [SpecReg.tid, .lane, .slot, .warp, .wg, .core, .plot, .parcel, .cycles, .elapsed, .iiu, .tax, .fmt, .fpst, .trapcause, .trappc, .trapbase, .wbase,
      .batch, .part, .key, .plim][n]? = some r →
    decode (BitVec.ofNat 32 (0x0C100000 + 4 * n)) = .ok (.rdsr (.win 4) r false false) ∧
    (r ∈ [SpecReg.fmt, .fpst, .trappc, .trapbase] → decode (BitVec.ofNat 32 (0x06542000 + 4 * n)) = .ok (.wrsr (.win 4) r false false))) ∧
  ∀ (s : State) (c : Iss) (lane slot : Nat), lane < 16 → slot < 4 →
    let v := fun (r : SpecReg) => s.readSpec c r (4 * lane + slot)
    v .tid = 4 * lane + slot ∧ v .lane = lane ∧ v .slot = slot ∧ v .warp = c.w.index ∧ v .core = c.core ∧ v .plot = c.core / 256 ∧ v .parcel = c.core / 512 ∧
    (∀ grid wg, c.w.wg = wgKey grid wg → wg < 2 ^ 32 → v .wg = wg) ∧ v .cycles = c.w.cycles ∧ v .elapsed = s.elapsed ∧ v .trappc = c.w.trappc.toNat ∧ v .wbase = c.w.wbase ∧
    ∀ x, mget? s.ctxs c.w.ctx = some x → v .trapbase = x.trapbase.toNat ∧ v .part = x.part ∧ v .key = x.key ∧ v .plim = x.plim

end Sys2Proof

/-- R97, R99, R102 to R104, R109, R111, R182, R212 and Tables 2-14, 4-4, 4-5 and 8-3: the values that the tables give, against the functions that the
statements on the instructions name: special operands, overflow, worked conversions, element codes and block scales, the reduction tree, and the
special registers. -/
def Obligations.StatedValues : Prop :=
  SpecialSums ∧ SpecialFunctions ∧ OverflowTable ∧ WorkedConversions ∧ ElementValues ∧ BlockScales ∧ ReductionTree ∧ SpecialRegisters

/-! ### Encodings -/

/-- R43, R44, R49 and the worked words of Tables 6-7, 7-3, 9-8 and 10-9 and of the examples of chapter 2: a word or more of most families, as
the spec writes it out, and the word of zeros, which is an unused encoding. -/
def Obligations.DecodeWords : Prop :=
  decode 0x06000000#32 = .ok .nop ∧ decode 0x06140000#32 = .ok (.exit false) ∧ decode 0x060C001C#32 = .ok (.trap 7 false) ∧
  decode 0x0647C040#32 = .ok (.wbase .vz 16) ∧ decode 0x064FC7F4#32 = .ok (.ixadd .vz 1 (-1) false false) ∧
  decode 0x06543834#32 = .ok (.wrsr (.win 7) .fpst false false) ∧ decode 0x0A03FFFC#32 = .ok (.waitc 0 63 63 15) ∧
  decode 0x0C100024#32 = .ok (.rdsr (.win 4) .elapsed false false) ∧ decode 0x08181040#32 = .ok (.pand { p := 3, q := 1, r := 2, g := false, u := false }) ∧
  decode 0x022FFFE8#32 = .ok (.brp { p := 5, n := true, off := -12 }) ∧ decode 0x04000020#32 = .ok (.call { p := 0, n := false, off := 16 }) ∧
  decode 0x100C0800#32 = .ok (.add { d := .win 3, a := .win 1, b := .win 0, h := none, g := false, u := false }) ∧
  decode 0x5004080C#32 = .ok (.addi { d := .win 1, a := .win 1, imm := 3, g := false, u := false }) ∧
  decode 0x4C082F04#32 = .ok (.setp .ne { p := 1, a := .win 2, b := .vz, g := false, u := false }) ∧
  decode 0x762048A4#32 = .ok (.ffma { d := .win 8, a := .win 9, b := .win 10, h := some 0, g := false, u := false }) ∧
  decode 0x00000000#32 = .error (.unusedOpcode 0) ∧ decode 0xA2208180#32 = .ok (.qnt { x := .win 8, a := .win 16, b := .win 24, g := false }) ∧
  decode 0xAC141800#32 = .ok (.voteAll { p := 5, q := 3, g := false, u := false }) ∧
  decode 0xC23037DC#32 = .ok (.ldn .sx16 { d := .win 12, a := .win 6, off := -3, g := false, u := false }) ∧
  decode 0xC8104380#32 = .ok (.lda .w32 .dev { d := .win 4, a := .win 8, g := false, u := false }) ∧
  decode 0xD40C40AC#32 = .ok (.atomCas { x := .win 3, a := .win 8, b := .win 10, g := false, u := false }) ∧
  decode 0xE0304030#32 = .ok (.cpa16Bar (.win 12) (.win 8) 3 false false) ∧ decode 0xE200001C#32 = .ok (.fence .dev)

/-- R43 to R58: decoding the word of every well-formed encoded instruction gives it back, with every operand at every value that its
encoding admits. -/
def Obligations.DecodeEncode : Prop := ∀ (i : Instr) (w : Word), i.wf = true → encode i = some w → decode w = .ok i

/-- R43 to R58: a word that decodes is the word of the well-formed instruction it decodes to: no bit of an encoding is ignored. -/
def Obligations.EncodeDecode : Prop := ∀ (i : Instr) (w : Word), decode w = .ok i → i.wf = true ∧ encode i = some w

/-! ### The machine as a whole -/

/-- R149, R243: a step that lets a core issue runs the instruction whose four bytes stand at the program counter of the first candidate, unless a
pre-emption stops it, the allowance withholds it or an operand is still being written; and a step whose agenda (assumption 2) names a machine event
runs that event, once the calls of policy engines that are due have been made, a TICK's before time passes (R417). What the step adds around the
instruction is the issuer that it sets, its cost, the note of what the core withholds in its cycle (R485), and that which a fetch from a host-coherent
page leaves. The agenda is the model's own (assumption 2). -/
def Obligations.StepRunsDecoded : Prop :=
  (∀ (s : State) (core after : Nat) (a : Cand) (more : List Cand) (c : Iss) (tg : Target) (i : Instr),
    let s0 : State := { s with agenda := s.agenda.tail }
    let s1 : State := s0.noteWithheld exec core
    s.urgent = none → s.agenda.head? = some (.issue core) ∨ (s.agenda = [] ∧ s.turn = some (core, after)) →
    s1.tryOrder core = a :: more → s1.issFor core a.slot a.who Cost.free = some c →
    (∀ sp, c.split = some sp → sp.status = .ready ∧ sp.fabric = false ∧ s1.stopAt c sp (.instr i) = none) → (∀ h, c.hel = some h → h.wait = none) →
    s1.translate c.core c.w.ctx .fetch c.pc.toNat = .ok tg → tg.space ≠ .fabric → (tg.space = .host → Config.hostFails s1.fresh = false) →
    decodeBytes (s1.memRead (plotOf c.core) tg.space tg.key tg.pa 4) = .ok (i, []) →
    s1.unstopSources c (.instr i) = none → s1.withholds core c.w (c.costOf i) = false → s1.lacks c (usesOf i) = false →
    let t0 : State := { s1.noteFetch c with issuer := some { core := core, slot := a.slot, who := a.who, cost := c.costOf i, stalled := false } }
    (tg.space ≠ .host → s1.noteFetch c = s1) ∧
    (∀ t x, exec i t0 = .next t → t.issuer = some x → x.stalled = false → step s = .next t) ∧
    (∀ r, exec i t0 = .fault r → step s = .fault r) ∧ (∀ r, exec i t0 = .refused r → step s = .refused r)) ∧
  (∀ (s : State) (i : Instr) (rest : List Sched), s.agenda = .event i :: rest → isEvent i = true →
    (∀ t, s.urgent = some t → step s = .next t) ∧
    (s.urgent = none → (∀ core, i ≠ .coreCycle core) → step s = exec i { s with agenda := rest }) ∧
    ∀ core, s.urgent = none → i = .coreCycle core → (∀ t, s.ticksDue = some t → step s = .next t) ∧
      (s.ticksDue = none → step s = exec i (({ s with agenda := rest } : State).noteWithheld exec core)))

/-- R495, R496: right after module reset the device holds no partition and no context, every HBM line is in the zeroed state and reads as
zero under every key, every key slot is zero, complex A is active, S is 2^16, PWRCAP is 3,400, and A is 8,192 and F is 0 on every core; and
every memory is in its canonical form. -/
def Obligations.ResetState : Prop :=
  State.reset.parts = [] ∧ State.reset.ctxs = [] ∧ State.reset.lineKeys = [] ∧ (∀ key a, State.reset.memRead 0 .hbm key a 1 = [0]) ∧
  (∀ key, (State.reset.keySlot key).state = .free ∧ (State.reset.keySlot key).secret = 0) ∧ State.reset.cmd.active = 0 ∧
  State.reset.pwr.scale = 2 ^ 16 ∧ State.reset.pwr.cap = 3400 ∧ (∀ core, (State.reset.core core).allow = 8192 ∧ (State.reset.core core).floor = 0) ∧
  Memory.wf State.reset.hbm = true ∧ Memory.wf State.reset.hostMem = true ∧ ∀ plot, Memory.wf (State.reset.plot plot).mem = true

namespace Sys2Proof

/-- Every memory of the device is in its canonical form: the addresses rise and no listed byte is what an unlisted one reads as. -/
def MemoryCanonical (s : State) : Prop :=
  Memory.wf s.hbm = true ∧ Memory.wf s.hostMem = true ∧ ∀ e ∈ s.plots, Memory.wf e.2.mem = true

end Sys2Proof

/-- Every step keeps every memory in its canonical form, so that equal memories are equal data.  The canonical form and the byte of an unlisted
address are the model's (assumption 1). -/
def Obligations.MemoryStaysCanonical : Prop := ∀ s t : State, MemoryCanonical s → step s = .next t → MemoryCanonical t
end

