-- ==== Sys2Proof/Laws/Map.lean ====
section
/-! SUPPORT. Laws of the sparse maps and of the byte memories: reads after writes, and the canonical form that every memory
operation keeps. -/

namespace Sys2Proof.Machine

variable {α : Type}

/-! ### Reads after writes of a map -/

@[simp] theorem mget?_nil (k : Nat) : mget? ([] : NatMap α) k = none := rfl

theorem mget?_mset (m : NatMap α) (k j : Nat) (v : α) : mget? (mset m k v) j = if k = j then some v else mget? m j := by
  induction m with
  | nil => simp [mset, mget?]
  | cons e r ih =>
    obtain ⟨i, w⟩ := e
    simp only [mset]
    split
    · simp [mget?]
    · split
      · subst i; by_cases h : k = j <;> simp [mget?, h]
      · simp only [mget?, ih]
        by_cases h : i = j <;> by_cases h' : k = j <;> simp_all

@[simp] theorem mget?_mset_same (m : NatMap α) (k : Nat) (v : α) : mget? (mset m k v) k = some v := by simp [mget?_mset]

theorem mget?_mset_other (m : NatMap α) {k j : Nat} (v : α) (h : k ≠ j) : mget? (mset m k v) j = mget? m j := by simp [mget?_mset, h]

theorem mget?_mdel (m : NatMap α) (k j : Nat) : mget? (mdel m k) j = if k = j then none else mget? m j := by
  induction m with
  | nil => simp [mdel]
  | cons e r ih =>
    obtain ⟨i, w⟩ := e
    simp only [mdel]
    split
    · subst i; rw [ih]; by_cases h : k = j <;> simp [h, mget?]
    · simp only [mget?, ih]
      by_cases h : i = j <;> by_cases h' : k = j <;> simp_all

@[simp] theorem mget?_mdel_same (m : NatMap α) (k : Nat) : mget? (mdel m k) k = none := by simp [mget?_mdel]

theorem mget?_mdel_other (m : NatMap α) {k j : Nat} (h : k ≠ j) : mget? (mdel m k) j = mget? m j := by simp [mget?_mdel, h]

theorem mgetD_mset (m : NatMap α) (k j : Nat) (v d : α) : mgetD (mset m k v) j d = if k = j then v else mgetD m j d := by
  simp only [mgetD, mget?_mset]; split <;> rfl

@[simp] theorem mgetD_mset_same (m : NatMap α) (k : Nat) (v d : α) : mgetD (mset m k v) k d = v := by simp [mgetD_mset]

theorem mgetD_mput [DecidableEq α] (m : NatMap α) (k j : Nat) (v d : α) : mgetD (mput d m k v) j d = if k = j then v else mgetD m j d := by
  unfold mput
  split
  · subst v; simp only [mgetD, mget?_mdel]; split <;> rfl
  · exact mgetD_mset m k j v d

@[simp] theorem mgetD_mput_same [DecidableEq α] (m : NatMap α) (k : Nat) (v d : α) : mgetD (mput d m k v) k d = v := by simp [mgetD_mput]

theorem mgetD_mput_other [DecidableEq α] (m : NatMap α) {k j : Nat} (v d : α) (h : k ≠ j) : mgetD (mput d m k v) j d = mgetD m j d := by
  simp [mgetD_mput, h]

/-! ### Keys in rising order -/

theorem mem_mset {m : NatMap α} {k : Nat} {v : α} {e : Nat × α} (h : e ∈ mset m k v) : e = (k, v) ∨ e ∈ m := by
  induction m with
  | nil => simpa [mset] using h
  | cons x r ih =>
    obtain ⟨i, w⟩ := x
    simp only [mset] at h
    split at h
    · simpa using h
    · split at h
      · simp at h ⊢; tauto
      · rcases List.mem_cons.mp h with h | h
        · simp [h]
        · rcases ih h with h | h <;> simp [h]

theorem mem_mdel {m : NatMap α} {k : Nat} {e : Nat × α} (h : e ∈ mdel m k) : e ∈ m := by
  induction m with
  | nil => simp [mdel] at h
  | cons x r ih =>
    obtain ⟨i, w⟩ := x
    simp only [mdel] at h
    split at h
    · exact List.mem_cons_of_mem _ (ih h)
    · rcases List.mem_cons.mp h with h | h
      · simp [h]
      · exact List.mem_cons_of_mem _ (ih h)

theorem mwf_cons {k : Nat} {v : α} {r : NatMap α} : mwf ((k, v) :: r) = true ↔ (∀ e ∈ r, k < e.1) ∧ mwf r = true := by
  simp [mwf]

theorem mwf_mset {m : NatMap α} (k : Nat) (v : α) (h : mwf m = true) : mwf (mset m k v) = true := by
  induction m with
  | nil => simp [mset, mwf]
  | cons x r ih =>
    obtain ⟨i, w⟩ := x
    obtain ⟨h1, h2⟩ := mwf_cons.mp h
    simp only [mset]
    split
    · rename_i hk
      refine mwf_cons.mpr ⟨fun e he => ?_, h⟩
      rcases List.mem_cons.mp he with rfl | he
      · exact hk
      · exact Nat.lt_trans hk (h1 e he)
    · split
      · rename_i hi; subst hi; exact mwf_cons.mpr ⟨h1, h2⟩
      · refine mwf_cons.mpr ⟨fun e he => ?_, ih h2⟩
        rcases mem_mset he with rfl | he
        · simp only; omega
        · exact h1 e he

theorem mwf_mdel {m : NatMap α} (k : Nat) (h : mwf m = true) : mwf (mdel m k) = true := by
  induction m with
  | nil => simp [mdel, mwf]
  | cons x r ih =>
    obtain ⟨i, w⟩ := x
    obtain ⟨h1, h2⟩ := mwf_cons.mp h
    simp only [mdel]
    split
    · exact ih h2
    · exact mwf_cons.mpr ⟨fun e he => h1 e (mem_mdel he), ih h2⟩

theorem mwf_mput [DecidableEq α] {m : NatMap α} (d : α) (k : Nat) (v : α) (h : mwf m = true) : mwf (mput d m k v) = true := by
  unfold mput; split
  · exact mwf_mdel k h
  · exact mwf_mset k v h

theorem mwf_filter {m : NatMap α} (p : Nat × α → Bool) (h : mwf m = true) : mwf (m.filter p) = true := by
  induction m with
  | nil => simp [mwf]
  | cons x r ih =>
    obtain ⟨i, w⟩ := x
    obtain ⟨h1, h2⟩ := mwf_cons.mp h
    rw [List.filter_cons]
    split
    · exact mwf_cons.mpr ⟨fun e he => h1 e (List.mem_of_mem_filter he), ih h2⟩
    · exact ih h2

/-- In a map whose keys rise, an entry that is listed is the entry of its key. -/
theorem mget?_of_mem {m : NatMap α} {e : Nat × α} (h : mwf m = true) (he : e ∈ m) : mget? m e.1 = some e.2 := by
  induction m with
  | nil => simp at he
  | cons x r ih =>
    obtain ⟨i, w⟩ := x
    obtain ⟨h1, h2⟩ := mwf_cons.mp h
    rcases List.mem_cons.mp he with rfl | he
    · simp [mget?]
    · have := h1 e he
      simp only [mget?]
      rw [if_neg (by omega)]
      exact ih h2 he

/-! ### Byte memories -/

theorem Memory.wf_iff (m : List Host.Cell) : Memory.wf m = true ↔ mwf m = true ∧ ∀ e ∈ m, e.2 ≠ emptyByte := by
  simp [Memory.wf]

@[simp] theorem Memory.wf_nil : Memory.wf [] = true := rfl

theorem Memory.wf_writeByte {m : List Host.Cell} (a : Nat) (b : Byte) (h : Memory.wf m = true) : Memory.wf (writeByte m a b) = true := by
  rw [Memory.wf_iff] at h ⊢
  refine ⟨mwf_mput _ _ _ h.1, fun e he => ?_⟩
  unfold writeByte mput at he
  split at he
  · exact h.2 e (mem_mdel he)
  · rcases mem_mset he with rfl | he
    · assumption
    · exact h.2 e he

theorem Memory.wf_writeBytes {m : List Host.Cell} (a : Nat) (bs : List Byte) (h : Memory.wf m = true) : Memory.wf (writeBytes m a bs) = true := by
  induction bs generalizing m a with
  | nil => exact h
  | cons b r ih => exact ih (a + 1) (Memory.wf_writeByte a b h)

theorem Memory.wf_filter {m : List Host.Cell} (p : Host.Cell → Bool) (h : Memory.wf m = true) : Memory.wf (m.filter p) = true := by
  rw [Memory.wf_iff] at h ⊢
  exact ⟨mwf_filter p h.1, fun e he => h.2 e (List.mem_of_mem_filter he)⟩

theorem readByte_writeByte (m : List Host.Cell) (a a' : Nat) (b : Byte) : readByte (writeByte m a b) a' = if a = a' then b else readByte m a' :=
  mgetD_mput m a a' b emptyByte

theorem readByte_writeBytes (m : List Host.Cell) (a a' : Nat) (bs : List Byte) :
    readByte (writeBytes m a bs) a' = if a ≤ a' ∧ a' < a + bs.length then bs.getD (a' - a) emptyByte else readByte m a' := by
  induction bs generalizing m a with
  | nil => rw [if_neg (by simp)]; rfl
  | cons b r ih =>
    simp only [writeBytes, ih, readByte_writeByte, List.length_cons]
    by_cases h : a = a'
    · subst a'
      rw [if_neg (by omega), if_pos rfl, if_pos (by omega)]
      simp
    · by_cases h2 : a + 1 ≤ a' ∧ a' < a + 1 + r.length
      · rw [if_pos h2, if_pos (by omega)]
        obtain ⟨d, rfl⟩ : ∃ d, a' = a + 1 + d := ⟨a' - (a + 1), by omega⟩
        rw [show a + 1 + d - (a + 1) = d by omega, show a + 1 + d - a = d + 1 by omega]
        simp
      · rw [if_neg h2, if_neg h, if_neg (by omega)]

/-- A read after a write to the same place gives the bytes written. -/
theorem readBytes_writeBytes (m : List Host.Cell) (a : Nat) (bs : List Byte) : readBytes (writeBytes m a bs) a bs.length = bs := by
  have key : ∀ (n k : Nat), k + n = bs.length → readBytes (writeBytes m a bs) (a + k) n = bs.drop k := by
    intro n
    induction n with
    | zero => intro k h; simp [readBytes, show k = bs.length by omega]
    | succ n ih =>
      intro k h
      rw [readBytes, show a + k + 1 = a + (k + 1) by omega, ih (k + 1) (by omega), readByte_writeBytes, if_pos (by omega),
        List.drop_eq_getElem_cons (by omega : k < bs.length)]
      congr 1
      rw [show a + k - a = k by omega, List.getD_eq_getElem?_getD, List.getElem?_eq_getElem (by omega)]
      rfl
  simpa using key bs.length 0 (by omega)

/-- A write leaves every other place alone. -/
theorem readByte_writeBytes_outside (m : List Host.Cell) (a a' : Nat) (bs : List Byte) (h : a' < a ∨ a + bs.length ≤ a') :
    readByte (writeBytes m a bs) a' = readByte m a' := by
  rw [readByte_writeBytes, if_neg (by omega)]

/-! ### Bytes of numbers -/

@[simp] theorem leBytes_length (n v : Nat) : (leBytes n v).length = n := by
  induction n generalizing v with
  | zero => rfl
  | succ n ih => simp [leBytes, ih]

theorem leNat_leBytes (n v : Nat) : leNat (leBytes n v) = v % 256 ^ n := by
  induction n generalizing v with
  | zero => simp [leBytes, leNat, Nat.mod_one]
  | succ n ih =>
    rw [leBytes, leNat, ih, BitVec.toNat_ofNat, Nat.pow_succ 256 n, Nat.mul_comm (256 ^ n) 256, Nat.mod_mul]

theorem leNat_lt (bs : List Byte) : leNat bs < 256 ^ bs.length := by
  induction bs with
  | nil => simp [leNat]
  | cons b r ih =>
    have := b.isLt
    simp only [leNat, List.length_cons, Nat.pow_succ]
    omega

theorem leBytes_leNat (bs : List Byte) : leBytes bs.length (leNat bs) = bs := by
  induction bs with
  | nil => rfl
  | cons b r ih =>
    have := b.isLt
    simp only [leNat, List.length_cons, leBytes]
    rw [show (b.toNat + 256 * leNat r) / 256 = leNat r by omega, ih]
    congr 1
    apply BitVec.eq_of_toNat_eq
    simp only [BitVec.toNat_ofNat]
    omega

end Sys2Proof.Machine
end

