-- ==== Sys2Proof/Laws/State.lean ====
section
/-! SUPPORT. What each named update of the state leaves alone: one lemma for each field and update, so that no proof unfolds a record
update. -/

namespace Sys2Proof.Machine

/-! ### State.setCore -/

@[simp] theorem State.setCore_grids (s : State) (c : Nat) (k : Core) : (s.setCore c k).grids = s.grids := rfl
@[simp] theorem State.setCore_wgs (s : State) (c : Nat) (k : Core) : (s.setCore c k).wgs = s.wgs := rfl
@[simp] theorem State.setCore_ctxs (s : State) (c : Nat) (k : Core) : (s.setCore c k).ctxs = s.ctxs := rfl
@[simp] theorem State.setCore_parts (s : State) (c : Nat) (k : Core) : (s.setCore c k).parts = s.parts := rfl
@[simp] theorem State.setCore_plots (s : State) (c : Nat) (k : Core) : (s.setCore c k).plots = s.plots := rfl
@[simp] theorem State.setCore_hbm (s : State) (c : Nat) (k : Core) : (s.setCore c k).hbm = s.hbm := rfl
@[simp] theorem State.setCore_lineKeys (s : State) (c : Nat) (k : Core) : (s.setCore c k).lineKeys = s.lineKeys := rfl
@[simp] theorem State.setCore_hostMem (s : State) (c : Nat) (k : Core) : (s.setCore c k).hostMem = s.hostMem := rfl
@[simp] theorem State.setCore_dir (s : State) (c : Nat) (k : Core) : (s.setCore c k).dir = s.dir := rfl
@[simp] theorem State.setCore_remotes (s : State) (c : Nat) (k : Core) : (s.setCore c k).remotes = s.remotes := rfl
@[simp] theorem State.setCore_hostReqs (s : State) (c : Nat) (k : Core) : (s.setCore c k).hostReqs = s.hostReqs := rfl
@[simp] theorem State.setCore_mcasts (s : State) (c : Nat) (k : Core) : (s.setCore c k).mcasts = s.mcasts := rfl
@[simp] theorem State.setCore_fabOps (s : State) (c : Nat) (k : Core) : (s.setCore c k).fabOps = s.fabOps := rfl
@[simp] theorem State.setCore_tier (s : State) (c : Nat) (k : Core) : (s.setCore c k).tier = s.tier := rfl
@[simp] theorem State.setCore_counters (s : State) (c : Nat) (k : Core) : (s.setCore c k).counters = s.counters := rfl
@[simp] theorem State.setCore_meters (s : State) (c : Nat) (k : Core) : (s.setCore c k).meters = s.meters := rfl
@[simp] theorem State.setCore_weights (s : State) (c : Nat) (k : Core) : (s.setCore c k).weights = s.weights := rfl
@[simp] theorem State.setCore_wepoch (s : State) (c : Nat) (k : Core) : (s.setCore c k).wepoch = s.wepoch := rfl
@[simp] theorem State.setCore_binds (s : State) (c : Nat) (k : Core) : (s.setCore c k).binds = s.binds := rfl
@[simp] theorem State.setCore_recQ (s : State) (c : Nat) (k : Core) : (s.setCore c k).recQ = s.recQ := rfl
@[simp] theorem State.setCore_recOpen (s : State) (c : Nat) (k : Core) : (s.setCore c k).recOpen = s.recOpen := rfl
@[simp] theorem State.setCore_recSeq (s : State) (c : Nat) (k : Core) : (s.setCore c k).recSeq = s.recSeq := rfl
@[simp] theorem State.setCore_elapsed (s : State) (c : Nat) (k : Core) : (s.setCore c k).elapsed = s.elapsed := rfl
@[simp] theorem State.setCore_defects (s : State) (c : Nat) (k : Core) : (s.setCore c k).defects = s.defects := rfl
@[simp] theorem State.setCore_stagedPick (s : State) (c : Nat) (k : Core) : (s.setCore c k).stagedPick = s.stagedPick := rfl
@[simp] theorem State.setCore_tidOrder (s : State) (c : Nat) (k : Core) : (s.setCore c k).tidOrder = s.tidOrder := rfl
@[simp] theorem State.setCore_placePick (s : State) (c : Nat) (k : Core) : (s.setCore c k).placePick = s.placePick := rfl
@[simp] theorem State.setCore_gridSeq (s : State) (c : Nat) (k : Core) : (s.setCore c k).gridSeq = s.gridSeq := rfl
@[simp] theorem State.setCore_groups (s : State) (c : Nat) (k : Core) : (s.setCore c k).groups = s.groups := rfl
@[simp] theorem State.setCore_arrivals (s : State) (c : Nat) (k : Core) : (s.setCore c k).arrivals = s.arrivals := rfl
@[simp] theorem State.setCore_cmd (s : State) (c : Nat) (k : Core) : (s.setCore c k).cmd = s.cmd := rfl
@[simp] theorem State.setCore_fab (s : State) (c : Nat) (k : Core) : (s.setCore c k).fab = s.fab := rfl
@[simp] theorem State.setCore_pol (s : State) (c : Nat) (k : Core) : (s.setCore c k).pol = s.pol := rfl
@[simp] theorem State.setCore_sec (s : State) (c : Nat) (k : Core) : (s.setCore c k).sec = s.sec := rfl
@[simp] theorem State.setCore_pwr (s : State) (c : Nat) (k : Core) : (s.setCore c k).pwr = s.pwr := rfl
@[simp] theorem State.setCore_issuer (s : State) (c : Nat) (k : Core) : (s.setCore c k).issuer = s.issuer := rfl
@[simp] theorem State.setCore_withheld (s : State) (c : Nat) (k : Core) : (s.setCore c k).withheld = s.withheld := rfl
@[simp] theorem State.setCore_agenda (s : State) (c : Nat) (k : Core) : (s.setCore c k).agenda = s.agenda := rfl
@[simp] theorem State.setCore_cursor (s : State) (c : Nat) (k : Core) : (s.setCore c k).cursor = s.cursor := rfl
@[simp] theorem State.setCore_fresh (s : State) (c : Nat) (k : Core) : (s.setCore c k).fresh = s.fresh := rfl
@[simp] theorem State.setCore_nextId (s : State) (c : Nat) (k : Core) : (s.setCore c k).nextId = s.nextId := rfl

/-! ### State.modCore -/

@[simp] theorem State.modCore_grids (s : State) (c : Nat) (f : Core → Core) : (s.modCore c f).grids = s.grids := rfl
@[simp] theorem State.modCore_wgs (s : State) (c : Nat) (f : Core → Core) : (s.modCore c f).wgs = s.wgs := rfl
@[simp] theorem State.modCore_ctxs (s : State) (c : Nat) (f : Core → Core) : (s.modCore c f).ctxs = s.ctxs := rfl
@[simp] theorem State.modCore_parts (s : State) (c : Nat) (f : Core → Core) : (s.modCore c f).parts = s.parts := rfl
@[simp] theorem State.modCore_plots (s : State) (c : Nat) (f : Core → Core) : (s.modCore c f).plots = s.plots := rfl
@[simp] theorem State.modCore_hbm (s : State) (c : Nat) (f : Core → Core) : (s.modCore c f).hbm = s.hbm := rfl
@[simp] theorem State.modCore_lineKeys (s : State) (c : Nat) (f : Core → Core) : (s.modCore c f).lineKeys = s.lineKeys := rfl
@[simp] theorem State.modCore_hostMem (s : State) (c : Nat) (f : Core → Core) : (s.modCore c f).hostMem = s.hostMem := rfl
@[simp] theorem State.modCore_dir (s : State) (c : Nat) (f : Core → Core) : (s.modCore c f).dir = s.dir := rfl
@[simp] theorem State.modCore_remotes (s : State) (c : Nat) (f : Core → Core) : (s.modCore c f).remotes = s.remotes := rfl
@[simp] theorem State.modCore_hostReqs (s : State) (c : Nat) (f : Core → Core) : (s.modCore c f).hostReqs = s.hostReqs := rfl
@[simp] theorem State.modCore_mcasts (s : State) (c : Nat) (f : Core → Core) : (s.modCore c f).mcasts = s.mcasts := rfl
@[simp] theorem State.modCore_fabOps (s : State) (c : Nat) (f : Core → Core) : (s.modCore c f).fabOps = s.fabOps := rfl
@[simp] theorem State.modCore_tier (s : State) (c : Nat) (f : Core → Core) : (s.modCore c f).tier = s.tier := rfl
@[simp] theorem State.modCore_counters (s : State) (c : Nat) (f : Core → Core) : (s.modCore c f).counters = s.counters := rfl
@[simp] theorem State.modCore_meters (s : State) (c : Nat) (f : Core → Core) : (s.modCore c f).meters = s.meters := rfl
@[simp] theorem State.modCore_weights (s : State) (c : Nat) (f : Core → Core) : (s.modCore c f).weights = s.weights := rfl
@[simp] theorem State.modCore_wepoch (s : State) (c : Nat) (f : Core → Core) : (s.modCore c f).wepoch = s.wepoch := rfl
@[simp] theorem State.modCore_binds (s : State) (c : Nat) (f : Core → Core) : (s.modCore c f).binds = s.binds := rfl
@[simp] theorem State.modCore_recQ (s : State) (c : Nat) (f : Core → Core) : (s.modCore c f).recQ = s.recQ := rfl
@[simp] theorem State.modCore_recOpen (s : State) (c : Nat) (f : Core → Core) : (s.modCore c f).recOpen = s.recOpen := rfl
@[simp] theorem State.modCore_recSeq (s : State) (c : Nat) (f : Core → Core) : (s.modCore c f).recSeq = s.recSeq := rfl
@[simp] theorem State.modCore_elapsed (s : State) (c : Nat) (f : Core → Core) : (s.modCore c f).elapsed = s.elapsed := rfl
@[simp] theorem State.modCore_defects (s : State) (c : Nat) (f : Core → Core) : (s.modCore c f).defects = s.defects := rfl
@[simp] theorem State.modCore_stagedPick (s : State) (c : Nat) (f : Core → Core) : (s.modCore c f).stagedPick = s.stagedPick := rfl
@[simp] theorem State.modCore_tidOrder (s : State) (c : Nat) (f : Core → Core) : (s.modCore c f).tidOrder = s.tidOrder := rfl
@[simp] theorem State.modCore_placePick (s : State) (c : Nat) (f : Core → Core) : (s.modCore c f).placePick = s.placePick := rfl
@[simp] theorem State.modCore_gridSeq (s : State) (c : Nat) (f : Core → Core) : (s.modCore c f).gridSeq = s.gridSeq := rfl
@[simp] theorem State.modCore_groups (s : State) (c : Nat) (f : Core → Core) : (s.modCore c f).groups = s.groups := rfl
@[simp] theorem State.modCore_arrivals (s : State) (c : Nat) (f : Core → Core) : (s.modCore c f).arrivals = s.arrivals := rfl
@[simp] theorem State.modCore_cmd (s : State) (c : Nat) (f : Core → Core) : (s.modCore c f).cmd = s.cmd := rfl
@[simp] theorem State.modCore_fab (s : State) (c : Nat) (f : Core → Core) : (s.modCore c f).fab = s.fab := rfl
@[simp] theorem State.modCore_pol (s : State) (c : Nat) (f : Core → Core) : (s.modCore c f).pol = s.pol := rfl
@[simp] theorem State.modCore_sec (s : State) (c : Nat) (f : Core → Core) : (s.modCore c f).sec = s.sec := rfl
@[simp] theorem State.modCore_pwr (s : State) (c : Nat) (f : Core → Core) : (s.modCore c f).pwr = s.pwr := rfl
@[simp] theorem State.modCore_issuer (s : State) (c : Nat) (f : Core → Core) : (s.modCore c f).issuer = s.issuer := rfl
@[simp] theorem State.modCore_withheld (s : State) (c : Nat) (f : Core → Core) : (s.modCore c f).withheld = s.withheld := rfl
@[simp] theorem State.modCore_agenda (s : State) (c : Nat) (f : Core → Core) : (s.modCore c f).agenda = s.agenda := rfl
@[simp] theorem State.modCore_cursor (s : State) (c : Nat) (f : Core → Core) : (s.modCore c f).cursor = s.cursor := rfl
@[simp] theorem State.modCore_fresh (s : State) (c : Nat) (f : Core → Core) : (s.modCore c f).fresh = s.fresh := rfl
@[simp] theorem State.modCore_nextId (s : State) (c : Nat) (f : Core → Core) : (s.modCore c f).nextId = s.nextId := rfl

/-! ### State.modWarp -/

@[simp] theorem State.modWarp_grids (s : State) (c slot : Nat) (f : Warp → Warp) : (s.modWarp c slot f).grids = s.grids := by unfold State.modWarp; split <;> rfl
@[simp] theorem State.modWarp_wgs (s : State) (c slot : Nat) (f : Warp → Warp) : (s.modWarp c slot f).wgs = s.wgs := by unfold State.modWarp; split <;> rfl
@[simp] theorem State.modWarp_ctxs (s : State) (c slot : Nat) (f : Warp → Warp) : (s.modWarp c slot f).ctxs = s.ctxs := by unfold State.modWarp; split <;> rfl
@[simp] theorem State.modWarp_parts (s : State) (c slot : Nat) (f : Warp → Warp) : (s.modWarp c slot f).parts = s.parts := by unfold State.modWarp; split <;> rfl
@[simp] theorem State.modWarp_plots (s : State) (c slot : Nat) (f : Warp → Warp) : (s.modWarp c slot f).plots = s.plots := by unfold State.modWarp; split <;> rfl
@[simp] theorem State.modWarp_hbm (s : State) (c slot : Nat) (f : Warp → Warp) : (s.modWarp c slot f).hbm = s.hbm := by unfold State.modWarp; split <;> rfl
@[simp] theorem State.modWarp_lineKeys (s : State) (c slot : Nat) (f : Warp → Warp) : (s.modWarp c slot f).lineKeys = s.lineKeys := by unfold State.modWarp; split <;> rfl
@[simp] theorem State.modWarp_hostMem (s : State) (c slot : Nat) (f : Warp → Warp) : (s.modWarp c slot f).hostMem = s.hostMem := by unfold State.modWarp; split <;> rfl
@[simp] theorem State.modWarp_dir (s : State) (c slot : Nat) (f : Warp → Warp) : (s.modWarp c slot f).dir = s.dir := by unfold State.modWarp; split <;> rfl
@[simp] theorem State.modWarp_remotes (s : State) (c slot : Nat) (f : Warp → Warp) : (s.modWarp c slot f).remotes = s.remotes := by unfold State.modWarp; split <;> rfl
@[simp] theorem State.modWarp_hostReqs (s : State) (c slot : Nat) (f : Warp → Warp) : (s.modWarp c slot f).hostReqs = s.hostReqs := by unfold State.modWarp; split <;> rfl
@[simp] theorem State.modWarp_mcasts (s : State) (c slot : Nat) (f : Warp → Warp) : (s.modWarp c slot f).mcasts = s.mcasts := by unfold State.modWarp; split <;> rfl
@[simp] theorem State.modWarp_fabOps (s : State) (c slot : Nat) (f : Warp → Warp) : (s.modWarp c slot f).fabOps = s.fabOps := by unfold State.modWarp; split <;> rfl
@[simp] theorem State.modWarp_tier (s : State) (c slot : Nat) (f : Warp → Warp) : (s.modWarp c slot f).tier = s.tier := by unfold State.modWarp; split <;> rfl
@[simp] theorem State.modWarp_counters (s : State) (c slot : Nat) (f : Warp → Warp) : (s.modWarp c slot f).counters = s.counters := by unfold State.modWarp; split <;> rfl
@[simp] theorem State.modWarp_meters (s : State) (c slot : Nat) (f : Warp → Warp) : (s.modWarp c slot f).meters = s.meters := by unfold State.modWarp; split <;> rfl
@[simp] theorem State.modWarp_weights (s : State) (c slot : Nat) (f : Warp → Warp) : (s.modWarp c slot f).weights = s.weights := by unfold State.modWarp; split <;> rfl
@[simp] theorem State.modWarp_wepoch (s : State) (c slot : Nat) (f : Warp → Warp) : (s.modWarp c slot f).wepoch = s.wepoch := by unfold State.modWarp; split <;> rfl
@[simp] theorem State.modWarp_binds (s : State) (c slot : Nat) (f : Warp → Warp) : (s.modWarp c slot f).binds = s.binds := by unfold State.modWarp; split <;> rfl
@[simp] theorem State.modWarp_recQ (s : State) (c slot : Nat) (f : Warp → Warp) : (s.modWarp c slot f).recQ = s.recQ := by unfold State.modWarp; split <;> rfl
@[simp] theorem State.modWarp_recOpen (s : State) (c slot : Nat) (f : Warp → Warp) : (s.modWarp c slot f).recOpen = s.recOpen := by unfold State.modWarp; split <;> rfl
@[simp] theorem State.modWarp_recSeq (s : State) (c slot : Nat) (f : Warp → Warp) : (s.modWarp c slot f).recSeq = s.recSeq := by unfold State.modWarp; split <;> rfl
@[simp] theorem State.modWarp_elapsed (s : State) (c slot : Nat) (f : Warp → Warp) : (s.modWarp c slot f).elapsed = s.elapsed := by unfold State.modWarp; split <;> rfl
@[simp] theorem State.modWarp_defects (s : State) (c slot : Nat) (f : Warp → Warp) : (s.modWarp c slot f).defects = s.defects := by unfold State.modWarp; split <;> rfl
@[simp] theorem State.modWarp_stagedPick (s : State) (c slot : Nat) (f : Warp → Warp) : (s.modWarp c slot f).stagedPick = s.stagedPick := by unfold State.modWarp; split <;> rfl
@[simp] theorem State.modWarp_tidOrder (s : State) (c slot : Nat) (f : Warp → Warp) : (s.modWarp c slot f).tidOrder = s.tidOrder := by unfold State.modWarp; split <;> rfl
@[simp] theorem State.modWarp_placePick (s : State) (c slot : Nat) (f : Warp → Warp) : (s.modWarp c slot f).placePick = s.placePick := by unfold State.modWarp; split <;> rfl
@[simp] theorem State.modWarp_gridSeq (s : State) (c slot : Nat) (f : Warp → Warp) : (s.modWarp c slot f).gridSeq = s.gridSeq := by unfold State.modWarp; split <;> rfl
@[simp] theorem State.modWarp_groups (s : State) (c slot : Nat) (f : Warp → Warp) : (s.modWarp c slot f).groups = s.groups := by unfold State.modWarp; split <;> rfl
@[simp] theorem State.modWarp_arrivals (s : State) (c slot : Nat) (f : Warp → Warp) : (s.modWarp c slot f).arrivals = s.arrivals := by unfold State.modWarp; split <;> rfl
@[simp] theorem State.modWarp_cmd (s : State) (c slot : Nat) (f : Warp → Warp) : (s.modWarp c slot f).cmd = s.cmd := by unfold State.modWarp; split <;> rfl
@[simp] theorem State.modWarp_fab (s : State) (c slot : Nat) (f : Warp → Warp) : (s.modWarp c slot f).fab = s.fab := by unfold State.modWarp; split <;> rfl
@[simp] theorem State.modWarp_pol (s : State) (c slot : Nat) (f : Warp → Warp) : (s.modWarp c slot f).pol = s.pol := by unfold State.modWarp; split <;> rfl
@[simp] theorem State.modWarp_sec (s : State) (c slot : Nat) (f : Warp → Warp) : (s.modWarp c slot f).sec = s.sec := by unfold State.modWarp; split <;> rfl
@[simp] theorem State.modWarp_pwr (s : State) (c slot : Nat) (f : Warp → Warp) : (s.modWarp c slot f).pwr = s.pwr := by unfold State.modWarp; split <;> rfl
@[simp] theorem State.modWarp_issuer (s : State) (c slot : Nat) (f : Warp → Warp) : (s.modWarp c slot f).issuer = s.issuer := by unfold State.modWarp; split <;> rfl
@[simp] theorem State.modWarp_withheld (s : State) (c slot : Nat) (f : Warp → Warp) : (s.modWarp c slot f).withheld = s.withheld := by unfold State.modWarp; split <;> rfl
@[simp] theorem State.modWarp_agenda (s : State) (c slot : Nat) (f : Warp → Warp) : (s.modWarp c slot f).agenda = s.agenda := by unfold State.modWarp; split <;> rfl
@[simp] theorem State.modWarp_cursor (s : State) (c slot : Nat) (f : Warp → Warp) : (s.modWarp c slot f).cursor = s.cursor := by unfold State.modWarp; split <;> rfl
@[simp] theorem State.modWarp_fresh (s : State) (c slot : Nat) (f : Warp → Warp) : (s.modWarp c slot f).fresh = s.fresh := by unfold State.modWarp; split <;> rfl
@[simp] theorem State.modWarp_nextId (s : State) (c slot : Nat) (f : Warp → Warp) : (s.modWarp c slot f).nextId = s.nextId := by unfold State.modWarp; split <;> rfl

/-! ### State.modPlot -/

@[simp] theorem State.modPlot_cores (s : State) (p : Nat) (f : Plot → Plot) : (s.modPlot p f).cores = s.cores := rfl
@[simp] theorem State.modPlot_grids (s : State) (p : Nat) (f : Plot → Plot) : (s.modPlot p f).grids = s.grids := rfl
@[simp] theorem State.modPlot_wgs (s : State) (p : Nat) (f : Plot → Plot) : (s.modPlot p f).wgs = s.wgs := rfl
@[simp] theorem State.modPlot_ctxs (s : State) (p : Nat) (f : Plot → Plot) : (s.modPlot p f).ctxs = s.ctxs := rfl
@[simp] theorem State.modPlot_parts (s : State) (p : Nat) (f : Plot → Plot) : (s.modPlot p f).parts = s.parts := rfl
@[simp] theorem State.modPlot_hbm (s : State) (p : Nat) (f : Plot → Plot) : (s.modPlot p f).hbm = s.hbm := rfl
@[simp] theorem State.modPlot_lineKeys (s : State) (p : Nat) (f : Plot → Plot) : (s.modPlot p f).lineKeys = s.lineKeys := rfl
@[simp] theorem State.modPlot_hostMem (s : State) (p : Nat) (f : Plot → Plot) : (s.modPlot p f).hostMem = s.hostMem := rfl
@[simp] theorem State.modPlot_dir (s : State) (p : Nat) (f : Plot → Plot) : (s.modPlot p f).dir = s.dir := rfl
@[simp] theorem State.modPlot_remotes (s : State) (p : Nat) (f : Plot → Plot) : (s.modPlot p f).remotes = s.remotes := rfl
@[simp] theorem State.modPlot_hostReqs (s : State) (p : Nat) (f : Plot → Plot) : (s.modPlot p f).hostReqs = s.hostReqs := rfl
@[simp] theorem State.modPlot_mcasts (s : State) (p : Nat) (f : Plot → Plot) : (s.modPlot p f).mcasts = s.mcasts := rfl
@[simp] theorem State.modPlot_fabOps (s : State) (p : Nat) (f : Plot → Plot) : (s.modPlot p f).fabOps = s.fabOps := rfl
@[simp] theorem State.modPlot_tier (s : State) (p : Nat) (f : Plot → Plot) : (s.modPlot p f).tier = s.tier := rfl
@[simp] theorem State.modPlot_counters (s : State) (p : Nat) (f : Plot → Plot) : (s.modPlot p f).counters = s.counters := rfl
@[simp] theorem State.modPlot_meters (s : State) (p : Nat) (f : Plot → Plot) : (s.modPlot p f).meters = s.meters := rfl
@[simp] theorem State.modPlot_weights (s : State) (p : Nat) (f : Plot → Plot) : (s.modPlot p f).weights = s.weights := rfl
@[simp] theorem State.modPlot_wepoch (s : State) (p : Nat) (f : Plot → Plot) : (s.modPlot p f).wepoch = s.wepoch := rfl
@[simp] theorem State.modPlot_binds (s : State) (p : Nat) (f : Plot → Plot) : (s.modPlot p f).binds = s.binds := rfl
@[simp] theorem State.modPlot_recQ (s : State) (p : Nat) (f : Plot → Plot) : (s.modPlot p f).recQ = s.recQ := rfl
@[simp] theorem State.modPlot_recOpen (s : State) (p : Nat) (f : Plot → Plot) : (s.modPlot p f).recOpen = s.recOpen := rfl
@[simp] theorem State.modPlot_recSeq (s : State) (p : Nat) (f : Plot → Plot) : (s.modPlot p f).recSeq = s.recSeq := rfl
@[simp] theorem State.modPlot_elapsed (s : State) (p : Nat) (f : Plot → Plot) : (s.modPlot p f).elapsed = s.elapsed := rfl
@[simp] theorem State.modPlot_defects (s : State) (p : Nat) (f : Plot → Plot) : (s.modPlot p f).defects = s.defects := rfl
@[simp] theorem State.modPlot_stagedPick (s : State) (p : Nat) (f : Plot → Plot) : (s.modPlot p f).stagedPick = s.stagedPick := rfl
@[simp] theorem State.modPlot_tidOrder (s : State) (p : Nat) (f : Plot → Plot) : (s.modPlot p f).tidOrder = s.tidOrder := rfl
@[simp] theorem State.modPlot_placePick (s : State) (p : Nat) (f : Plot → Plot) : (s.modPlot p f).placePick = s.placePick := rfl
@[simp] theorem State.modPlot_gridSeq (s : State) (p : Nat) (f : Plot → Plot) : (s.modPlot p f).gridSeq = s.gridSeq := rfl
@[simp] theorem State.modPlot_groups (s : State) (p : Nat) (f : Plot → Plot) : (s.modPlot p f).groups = s.groups := rfl
@[simp] theorem State.modPlot_arrivals (s : State) (p : Nat) (f : Plot → Plot) : (s.modPlot p f).arrivals = s.arrivals := rfl
@[simp] theorem State.modPlot_cmd (s : State) (p : Nat) (f : Plot → Plot) : (s.modPlot p f).cmd = s.cmd := rfl
@[simp] theorem State.modPlot_fab (s : State) (p : Nat) (f : Plot → Plot) : (s.modPlot p f).fab = s.fab := rfl
@[simp] theorem State.modPlot_pol (s : State) (p : Nat) (f : Plot → Plot) : (s.modPlot p f).pol = s.pol := rfl
@[simp] theorem State.modPlot_sec (s : State) (p : Nat) (f : Plot → Plot) : (s.modPlot p f).sec = s.sec := rfl
@[simp] theorem State.modPlot_pwr (s : State) (p : Nat) (f : Plot → Plot) : (s.modPlot p f).pwr = s.pwr := rfl
@[simp] theorem State.modPlot_issuer (s : State) (p : Nat) (f : Plot → Plot) : (s.modPlot p f).issuer = s.issuer := rfl
@[simp] theorem State.modPlot_withheld (s : State) (p : Nat) (f : Plot → Plot) : (s.modPlot p f).withheld = s.withheld := rfl
@[simp] theorem State.modPlot_agenda (s : State) (p : Nat) (f : Plot → Plot) : (s.modPlot p f).agenda = s.agenda := rfl
@[simp] theorem State.modPlot_cursor (s : State) (p : Nat) (f : Plot → Plot) : (s.modPlot p f).cursor = s.cursor := rfl
@[simp] theorem State.modPlot_fresh (s : State) (p : Nat) (f : Plot → Plot) : (s.modPlot p f).fresh = s.fresh := rfl
@[simp] theorem State.modPlot_nextId (s : State) (p : Nat) (f : Plot → Plot) : (s.modPlot p f).nextId = s.nextId := rfl

/-! ### State.modCtx -/

@[simp] theorem State.modCtx_cores (s : State) (x : Nat) (f : Context → Context) : (s.modCtx x f).cores = s.cores := by unfold State.modCtx; split <;> rfl
@[simp] theorem State.modCtx_grids (s : State) (x : Nat) (f : Context → Context) : (s.modCtx x f).grids = s.grids := by unfold State.modCtx; split <;> rfl
@[simp] theorem State.modCtx_wgs (s : State) (x : Nat) (f : Context → Context) : (s.modCtx x f).wgs = s.wgs := by unfold State.modCtx; split <;> rfl
@[simp] theorem State.modCtx_parts (s : State) (x : Nat) (f : Context → Context) : (s.modCtx x f).parts = s.parts := by unfold State.modCtx; split <;> rfl
@[simp] theorem State.modCtx_plots (s : State) (x : Nat) (f : Context → Context) : (s.modCtx x f).plots = s.plots := by unfold State.modCtx; split <;> rfl
@[simp] theorem State.modCtx_hbm (s : State) (x : Nat) (f : Context → Context) : (s.modCtx x f).hbm = s.hbm := by unfold State.modCtx; split <;> rfl
@[simp] theorem State.modCtx_lineKeys (s : State) (x : Nat) (f : Context → Context) : (s.modCtx x f).lineKeys = s.lineKeys := by unfold State.modCtx; split <;> rfl
@[simp] theorem State.modCtx_hostMem (s : State) (x : Nat) (f : Context → Context) : (s.modCtx x f).hostMem = s.hostMem := by unfold State.modCtx; split <;> rfl
@[simp] theorem State.modCtx_dir (s : State) (x : Nat) (f : Context → Context) : (s.modCtx x f).dir = s.dir := by unfold State.modCtx; split <;> rfl
@[simp] theorem State.modCtx_remotes (s : State) (x : Nat) (f : Context → Context) : (s.modCtx x f).remotes = s.remotes := by unfold State.modCtx; split <;> rfl
@[simp] theorem State.modCtx_hostReqs (s : State) (x : Nat) (f : Context → Context) : (s.modCtx x f).hostReqs = s.hostReqs := by unfold State.modCtx; split <;> rfl
@[simp] theorem State.modCtx_mcasts (s : State) (x : Nat) (f : Context → Context) : (s.modCtx x f).mcasts = s.mcasts := by unfold State.modCtx; split <;> rfl
@[simp] theorem State.modCtx_fabOps (s : State) (x : Nat) (f : Context → Context) : (s.modCtx x f).fabOps = s.fabOps := by unfold State.modCtx; split <;> rfl
@[simp] theorem State.modCtx_tier (s : State) (x : Nat) (f : Context → Context) : (s.modCtx x f).tier = s.tier := by unfold State.modCtx; split <;> rfl
@[simp] theorem State.modCtx_counters (s : State) (x : Nat) (f : Context → Context) : (s.modCtx x f).counters = s.counters := by unfold State.modCtx; split <;> rfl
@[simp] theorem State.modCtx_meters (s : State) (x : Nat) (f : Context → Context) : (s.modCtx x f).meters = s.meters := by unfold State.modCtx; split <;> rfl
@[simp] theorem State.modCtx_weights (s : State) (x : Nat) (f : Context → Context) : (s.modCtx x f).weights = s.weights := by unfold State.modCtx; split <;> rfl
@[simp] theorem State.modCtx_wepoch (s : State) (x : Nat) (f : Context → Context) : (s.modCtx x f).wepoch = s.wepoch := by unfold State.modCtx; split <;> rfl
@[simp] theorem State.modCtx_binds (s : State) (x : Nat) (f : Context → Context) : (s.modCtx x f).binds = s.binds := by unfold State.modCtx; split <;> rfl
@[simp] theorem State.modCtx_recQ (s : State) (x : Nat) (f : Context → Context) : (s.modCtx x f).recQ = s.recQ := by unfold State.modCtx; split <;> rfl
@[simp] theorem State.modCtx_recOpen (s : State) (x : Nat) (f : Context → Context) : (s.modCtx x f).recOpen = s.recOpen := by unfold State.modCtx; split <;> rfl
@[simp] theorem State.modCtx_recSeq (s : State) (x : Nat) (f : Context → Context) : (s.modCtx x f).recSeq = s.recSeq := by unfold State.modCtx; split <;> rfl
@[simp] theorem State.modCtx_elapsed (s : State) (x : Nat) (f : Context → Context) : (s.modCtx x f).elapsed = s.elapsed := by unfold State.modCtx; split <;> rfl
@[simp] theorem State.modCtx_defects (s : State) (x : Nat) (f : Context → Context) : (s.modCtx x f).defects = s.defects := by unfold State.modCtx; split <;> rfl
@[simp] theorem State.modCtx_stagedPick (s : State) (x : Nat) (f : Context → Context) : (s.modCtx x f).stagedPick = s.stagedPick := by unfold State.modCtx; split <;> rfl
@[simp] theorem State.modCtx_tidOrder (s : State) (x : Nat) (f : Context → Context) : (s.modCtx x f).tidOrder = s.tidOrder := by unfold State.modCtx; split <;> rfl
@[simp] theorem State.modCtx_placePick (s : State) (x : Nat) (f : Context → Context) : (s.modCtx x f).placePick = s.placePick := by unfold State.modCtx; split <;> rfl
@[simp] theorem State.modCtx_gridSeq (s : State) (x : Nat) (f : Context → Context) : (s.modCtx x f).gridSeq = s.gridSeq := by unfold State.modCtx; split <;> rfl
@[simp] theorem State.modCtx_groups (s : State) (x : Nat) (f : Context → Context) : (s.modCtx x f).groups = s.groups := by unfold State.modCtx; split <;> rfl
@[simp] theorem State.modCtx_arrivals (s : State) (x : Nat) (f : Context → Context) : (s.modCtx x f).arrivals = s.arrivals := by unfold State.modCtx; split <;> rfl
@[simp] theorem State.modCtx_cmd (s : State) (x : Nat) (f : Context → Context) : (s.modCtx x f).cmd = s.cmd := by unfold State.modCtx; split <;> rfl
@[simp] theorem State.modCtx_fab (s : State) (x : Nat) (f : Context → Context) : (s.modCtx x f).fab = s.fab := by unfold State.modCtx; split <;> rfl
@[simp] theorem State.modCtx_pol (s : State) (x : Nat) (f : Context → Context) : (s.modCtx x f).pol = s.pol := by unfold State.modCtx; split <;> rfl
@[simp] theorem State.modCtx_sec (s : State) (x : Nat) (f : Context → Context) : (s.modCtx x f).sec = s.sec := by unfold State.modCtx; split <;> rfl
@[simp] theorem State.modCtx_pwr (s : State) (x : Nat) (f : Context → Context) : (s.modCtx x f).pwr = s.pwr := by unfold State.modCtx; split <;> rfl
@[simp] theorem State.modCtx_issuer (s : State) (x : Nat) (f : Context → Context) : (s.modCtx x f).issuer = s.issuer := by unfold State.modCtx; split <;> rfl
@[simp] theorem State.modCtx_withheld (s : State) (x : Nat) (f : Context → Context) : (s.modCtx x f).withheld = s.withheld := by unfold State.modCtx; split <;> rfl
@[simp] theorem State.modCtx_agenda (s : State) (x : Nat) (f : Context → Context) : (s.modCtx x f).agenda = s.agenda := by unfold State.modCtx; split <;> rfl
@[simp] theorem State.modCtx_cursor (s : State) (x : Nat) (f : Context → Context) : (s.modCtx x f).cursor = s.cursor := by unfold State.modCtx; split <;> rfl
@[simp] theorem State.modCtx_fresh (s : State) (x : Nat) (f : Context → Context) : (s.modCtx x f).fresh = s.fresh := by unfold State.modCtx; split <;> rfl
@[simp] theorem State.modCtx_nextId (s : State) (x : Nat) (f : Context → Context) : (s.modCtx x f).nextId = s.nextId := by unfold State.modCtx; split <;> rfl

/-! ### State.modWg -/

@[simp] theorem State.modWg_cores (s : State) (g : Nat) (f : Workgroup → Workgroup) : (s.modWg g f).cores = s.cores := by unfold State.modWg; split <;> rfl
@[simp] theorem State.modWg_grids (s : State) (g : Nat) (f : Workgroup → Workgroup) : (s.modWg g f).grids = s.grids := by unfold State.modWg; split <;> rfl
@[simp] theorem State.modWg_ctxs (s : State) (g : Nat) (f : Workgroup → Workgroup) : (s.modWg g f).ctxs = s.ctxs := by unfold State.modWg; split <;> rfl
@[simp] theorem State.modWg_parts (s : State) (g : Nat) (f : Workgroup → Workgroup) : (s.modWg g f).parts = s.parts := by unfold State.modWg; split <;> rfl
@[simp] theorem State.modWg_plots (s : State) (g : Nat) (f : Workgroup → Workgroup) : (s.modWg g f).plots = s.plots := by unfold State.modWg; split <;> rfl
@[simp] theorem State.modWg_hbm (s : State) (g : Nat) (f : Workgroup → Workgroup) : (s.modWg g f).hbm = s.hbm := by unfold State.modWg; split <;> rfl
@[simp] theorem State.modWg_lineKeys (s : State) (g : Nat) (f : Workgroup → Workgroup) : (s.modWg g f).lineKeys = s.lineKeys := by unfold State.modWg; split <;> rfl
@[simp] theorem State.modWg_hostMem (s : State) (g : Nat) (f : Workgroup → Workgroup) : (s.modWg g f).hostMem = s.hostMem := by unfold State.modWg; split <;> rfl
@[simp] theorem State.modWg_dir (s : State) (g : Nat) (f : Workgroup → Workgroup) : (s.modWg g f).dir = s.dir := by unfold State.modWg; split <;> rfl
@[simp] theorem State.modWg_remotes (s : State) (g : Nat) (f : Workgroup → Workgroup) : (s.modWg g f).remotes = s.remotes := by unfold State.modWg; split <;> rfl
@[simp] theorem State.modWg_hostReqs (s : State) (g : Nat) (f : Workgroup → Workgroup) : (s.modWg g f).hostReqs = s.hostReqs := by unfold State.modWg; split <;> rfl
@[simp] theorem State.modWg_mcasts (s : State) (g : Nat) (f : Workgroup → Workgroup) : (s.modWg g f).mcasts = s.mcasts := by unfold State.modWg; split <;> rfl
@[simp] theorem State.modWg_fabOps (s : State) (g : Nat) (f : Workgroup → Workgroup) : (s.modWg g f).fabOps = s.fabOps := by unfold State.modWg; split <;> rfl
@[simp] theorem State.modWg_tier (s : State) (g : Nat) (f : Workgroup → Workgroup) : (s.modWg g f).tier = s.tier := by unfold State.modWg; split <;> rfl
@[simp] theorem State.modWg_counters (s : State) (g : Nat) (f : Workgroup → Workgroup) : (s.modWg g f).counters = s.counters := by unfold State.modWg; split <;> rfl
@[simp] theorem State.modWg_meters (s : State) (g : Nat) (f : Workgroup → Workgroup) : (s.modWg g f).meters = s.meters := by unfold State.modWg; split <;> rfl
@[simp] theorem State.modWg_weights (s : State) (g : Nat) (f : Workgroup → Workgroup) : (s.modWg g f).weights = s.weights := by unfold State.modWg; split <;> rfl
@[simp] theorem State.modWg_wepoch (s : State) (g : Nat) (f : Workgroup → Workgroup) : (s.modWg g f).wepoch = s.wepoch := by unfold State.modWg; split <;> rfl
@[simp] theorem State.modWg_binds (s : State) (g : Nat) (f : Workgroup → Workgroup) : (s.modWg g f).binds = s.binds := by unfold State.modWg; split <;> rfl
@[simp] theorem State.modWg_recQ (s : State) (g : Nat) (f : Workgroup → Workgroup) : (s.modWg g f).recQ = s.recQ := by unfold State.modWg; split <;> rfl
@[simp] theorem State.modWg_recOpen (s : State) (g : Nat) (f : Workgroup → Workgroup) : (s.modWg g f).recOpen = s.recOpen := by unfold State.modWg; split <;> rfl
@[simp] theorem State.modWg_recSeq (s : State) (g : Nat) (f : Workgroup → Workgroup) : (s.modWg g f).recSeq = s.recSeq := by unfold State.modWg; split <;> rfl
@[simp] theorem State.modWg_elapsed (s : State) (g : Nat) (f : Workgroup → Workgroup) : (s.modWg g f).elapsed = s.elapsed := by unfold State.modWg; split <;> rfl
@[simp] theorem State.modWg_defects (s : State) (g : Nat) (f : Workgroup → Workgroup) : (s.modWg g f).defects = s.defects := by unfold State.modWg; split <;> rfl
@[simp] theorem State.modWg_stagedPick (s : State) (g : Nat) (f : Workgroup → Workgroup) : (s.modWg g f).stagedPick = s.stagedPick := by unfold State.modWg; split <;> rfl
@[simp] theorem State.modWg_tidOrder (s : State) (g : Nat) (f : Workgroup → Workgroup) : (s.modWg g f).tidOrder = s.tidOrder := by unfold State.modWg; split <;> rfl
@[simp] theorem State.modWg_placePick (s : State) (g : Nat) (f : Workgroup → Workgroup) : (s.modWg g f).placePick = s.placePick := by unfold State.modWg; split <;> rfl
@[simp] theorem State.modWg_gridSeq (s : State) (g : Nat) (f : Workgroup → Workgroup) : (s.modWg g f).gridSeq = s.gridSeq := by unfold State.modWg; split <;> rfl
@[simp] theorem State.modWg_groups (s : State) (g : Nat) (f : Workgroup → Workgroup) : (s.modWg g f).groups = s.groups := by unfold State.modWg; split <;> rfl
@[simp] theorem State.modWg_arrivals (s : State) (g : Nat) (f : Workgroup → Workgroup) : (s.modWg g f).arrivals = s.arrivals := by unfold State.modWg; split <;> rfl
@[simp] theorem State.modWg_cmd (s : State) (g : Nat) (f : Workgroup → Workgroup) : (s.modWg g f).cmd = s.cmd := by unfold State.modWg; split <;> rfl
@[simp] theorem State.modWg_fab (s : State) (g : Nat) (f : Workgroup → Workgroup) : (s.modWg g f).fab = s.fab := by unfold State.modWg; split <;> rfl
@[simp] theorem State.modWg_pol (s : State) (g : Nat) (f : Workgroup → Workgroup) : (s.modWg g f).pol = s.pol := by unfold State.modWg; split <;> rfl
@[simp] theorem State.modWg_sec (s : State) (g : Nat) (f : Workgroup → Workgroup) : (s.modWg g f).sec = s.sec := by unfold State.modWg; split <;> rfl
@[simp] theorem State.modWg_pwr (s : State) (g : Nat) (f : Workgroup → Workgroup) : (s.modWg g f).pwr = s.pwr := by unfold State.modWg; split <;> rfl
@[simp] theorem State.modWg_issuer (s : State) (g : Nat) (f : Workgroup → Workgroup) : (s.modWg g f).issuer = s.issuer := by unfold State.modWg; split <;> rfl
@[simp] theorem State.modWg_withheld (s : State) (g : Nat) (f : Workgroup → Workgroup) : (s.modWg g f).withheld = s.withheld := by unfold State.modWg; split <;> rfl
@[simp] theorem State.modWg_agenda (s : State) (g : Nat) (f : Workgroup → Workgroup) : (s.modWg g f).agenda = s.agenda := by unfold State.modWg; split <;> rfl
@[simp] theorem State.modWg_cursor (s : State) (g : Nat) (f : Workgroup → Workgroup) : (s.modWg g f).cursor = s.cursor := by unfold State.modWg; split <;> rfl
@[simp] theorem State.modWg_fresh (s : State) (g : Nat) (f : Workgroup → Workgroup) : (s.modWg g f).fresh = s.fresh := by unfold State.modWg; split <;> rfl
@[simp] theorem State.modWg_nextId (s : State) (g : Nat) (f : Workgroup → Workgroup) : (s.modWg g f).nextId = s.nextId := by unfold State.modWg; split <;> rfl

/-! ### State.modGrid -/

@[simp] theorem State.modGrid_cores (s : State) (g : Nat) (f : Grid → Grid) : (s.modGrid g f).cores = s.cores := by unfold State.modGrid; split <;> rfl
@[simp] theorem State.modGrid_wgs (s : State) (g : Nat) (f : Grid → Grid) : (s.modGrid g f).wgs = s.wgs := by unfold State.modGrid; split <;> rfl
@[simp] theorem State.modGrid_ctxs (s : State) (g : Nat) (f : Grid → Grid) : (s.modGrid g f).ctxs = s.ctxs := by unfold State.modGrid; split <;> rfl
@[simp] theorem State.modGrid_parts (s : State) (g : Nat) (f : Grid → Grid) : (s.modGrid g f).parts = s.parts := by unfold State.modGrid; split <;> rfl
@[simp] theorem State.modGrid_plots (s : State) (g : Nat) (f : Grid → Grid) : (s.modGrid g f).plots = s.plots := by unfold State.modGrid; split <;> rfl
@[simp] theorem State.modGrid_hbm (s : State) (g : Nat) (f : Grid → Grid) : (s.modGrid g f).hbm = s.hbm := by unfold State.modGrid; split <;> rfl
@[simp] theorem State.modGrid_lineKeys (s : State) (g : Nat) (f : Grid → Grid) : (s.modGrid g f).lineKeys = s.lineKeys := by unfold State.modGrid; split <;> rfl
@[simp] theorem State.modGrid_hostMem (s : State) (g : Nat) (f : Grid → Grid) : (s.modGrid g f).hostMem = s.hostMem := by unfold State.modGrid; split <;> rfl
@[simp] theorem State.modGrid_dir (s : State) (g : Nat) (f : Grid → Grid) : (s.modGrid g f).dir = s.dir := by unfold State.modGrid; split <;> rfl
@[simp] theorem State.modGrid_remotes (s : State) (g : Nat) (f : Grid → Grid) : (s.modGrid g f).remotes = s.remotes := by unfold State.modGrid; split <;> rfl
@[simp] theorem State.modGrid_hostReqs (s : State) (g : Nat) (f : Grid → Grid) : (s.modGrid g f).hostReqs = s.hostReqs := by unfold State.modGrid; split <;> rfl
@[simp] theorem State.modGrid_mcasts (s : State) (g : Nat) (f : Grid → Grid) : (s.modGrid g f).mcasts = s.mcasts := by unfold State.modGrid; split <;> rfl
@[simp] theorem State.modGrid_fabOps (s : State) (g : Nat) (f : Grid → Grid) : (s.modGrid g f).fabOps = s.fabOps := by unfold State.modGrid; split <;> rfl
@[simp] theorem State.modGrid_tier (s : State) (g : Nat) (f : Grid → Grid) : (s.modGrid g f).tier = s.tier := by unfold State.modGrid; split <;> rfl
@[simp] theorem State.modGrid_counters (s : State) (g : Nat) (f : Grid → Grid) : (s.modGrid g f).counters = s.counters := by unfold State.modGrid; split <;> rfl
@[simp] theorem State.modGrid_meters (s : State) (g : Nat) (f : Grid → Grid) : (s.modGrid g f).meters = s.meters := by unfold State.modGrid; split <;> rfl
@[simp] theorem State.modGrid_weights (s : State) (g : Nat) (f : Grid → Grid) : (s.modGrid g f).weights = s.weights := by unfold State.modGrid; split <;> rfl
@[simp] theorem State.modGrid_wepoch (s : State) (g : Nat) (f : Grid → Grid) : (s.modGrid g f).wepoch = s.wepoch := by unfold State.modGrid; split <;> rfl
@[simp] theorem State.modGrid_binds (s : State) (g : Nat) (f : Grid → Grid) : (s.modGrid g f).binds = s.binds := by unfold State.modGrid; split <;> rfl
@[simp] theorem State.modGrid_recQ (s : State) (g : Nat) (f : Grid → Grid) : (s.modGrid g f).recQ = s.recQ := by unfold State.modGrid; split <;> rfl
@[simp] theorem State.modGrid_recOpen (s : State) (g : Nat) (f : Grid → Grid) : (s.modGrid g f).recOpen = s.recOpen := by unfold State.modGrid; split <;> rfl
@[simp] theorem State.modGrid_recSeq (s : State) (g : Nat) (f : Grid → Grid) : (s.modGrid g f).recSeq = s.recSeq := by unfold State.modGrid; split <;> rfl
@[simp] theorem State.modGrid_elapsed (s : State) (g : Nat) (f : Grid → Grid) : (s.modGrid g f).elapsed = s.elapsed := by unfold State.modGrid; split <;> rfl
@[simp] theorem State.modGrid_defects (s : State) (g : Nat) (f : Grid → Grid) : (s.modGrid g f).defects = s.defects := by unfold State.modGrid; split <;> rfl
@[simp] theorem State.modGrid_stagedPick (s : State) (g : Nat) (f : Grid → Grid) : (s.modGrid g f).stagedPick = s.stagedPick := by unfold State.modGrid; split <;> rfl
@[simp] theorem State.modGrid_tidOrder (s : State) (g : Nat) (f : Grid → Grid) : (s.modGrid g f).tidOrder = s.tidOrder := by unfold State.modGrid; split <;> rfl
@[simp] theorem State.modGrid_placePick (s : State) (g : Nat) (f : Grid → Grid) : (s.modGrid g f).placePick = s.placePick := by unfold State.modGrid; split <;> rfl
@[simp] theorem State.modGrid_gridSeq (s : State) (g : Nat) (f : Grid → Grid) : (s.modGrid g f).gridSeq = s.gridSeq := by unfold State.modGrid; split <;> rfl
@[simp] theorem State.modGrid_groups (s : State) (g : Nat) (f : Grid → Grid) : (s.modGrid g f).groups = s.groups := by unfold State.modGrid; split <;> rfl
@[simp] theorem State.modGrid_arrivals (s : State) (g : Nat) (f : Grid → Grid) : (s.modGrid g f).arrivals = s.arrivals := by unfold State.modGrid; split <;> rfl
@[simp] theorem State.modGrid_cmd (s : State) (g : Nat) (f : Grid → Grid) : (s.modGrid g f).cmd = s.cmd := by unfold State.modGrid; split <;> rfl
@[simp] theorem State.modGrid_fab (s : State) (g : Nat) (f : Grid → Grid) : (s.modGrid g f).fab = s.fab := by unfold State.modGrid; split <;> rfl
@[simp] theorem State.modGrid_pol (s : State) (g : Nat) (f : Grid → Grid) : (s.modGrid g f).pol = s.pol := by unfold State.modGrid; split <;> rfl
@[simp] theorem State.modGrid_sec (s : State) (g : Nat) (f : Grid → Grid) : (s.modGrid g f).sec = s.sec := by unfold State.modGrid; split <;> rfl
@[simp] theorem State.modGrid_pwr (s : State) (g : Nat) (f : Grid → Grid) : (s.modGrid g f).pwr = s.pwr := by unfold State.modGrid; split <;> rfl
@[simp] theorem State.modGrid_issuer (s : State) (g : Nat) (f : Grid → Grid) : (s.modGrid g f).issuer = s.issuer := by unfold State.modGrid; split <;> rfl
@[simp] theorem State.modGrid_withheld (s : State) (g : Nat) (f : Grid → Grid) : (s.modGrid g f).withheld = s.withheld := by unfold State.modGrid; split <;> rfl
@[simp] theorem State.modGrid_agenda (s : State) (g : Nat) (f : Grid → Grid) : (s.modGrid g f).agenda = s.agenda := by unfold State.modGrid; split <;> rfl
@[simp] theorem State.modGrid_cursor (s : State) (g : Nat) (f : Grid → Grid) : (s.modGrid g f).cursor = s.cursor := by unfold State.modGrid; split <;> rfl
@[simp] theorem State.modGrid_fresh (s : State) (g : Nat) (f : Grid → Grid) : (s.modGrid g f).fresh = s.fresh := by unfold State.modGrid; split <;> rfl
@[simp] theorem State.modGrid_nextId (s : State) (g : Nat) (f : Grid → Grid) : (s.modGrid g f).nextId = s.nextId := by unfold State.modGrid; split <;> rfl

/-! ### State.modPart -/

@[simp] theorem State.modPart_cores (s : State) (p : Nat) (f : Partition → Partition) : (s.modPart p f).cores = s.cores := by unfold State.modPart; split <;> rfl
@[simp] theorem State.modPart_grids (s : State) (p : Nat) (f : Partition → Partition) : (s.modPart p f).grids = s.grids := by unfold State.modPart; split <;> rfl
@[simp] theorem State.modPart_wgs (s : State) (p : Nat) (f : Partition → Partition) : (s.modPart p f).wgs = s.wgs := by unfold State.modPart; split <;> rfl
@[simp] theorem State.modPart_ctxs (s : State) (p : Nat) (f : Partition → Partition) : (s.modPart p f).ctxs = s.ctxs := by unfold State.modPart; split <;> rfl
@[simp] theorem State.modPart_plots (s : State) (p : Nat) (f : Partition → Partition) : (s.modPart p f).plots = s.plots := by unfold State.modPart; split <;> rfl
@[simp] theorem State.modPart_hbm (s : State) (p : Nat) (f : Partition → Partition) : (s.modPart p f).hbm = s.hbm := by unfold State.modPart; split <;> rfl
@[simp] theorem State.modPart_lineKeys (s : State) (p : Nat) (f : Partition → Partition) : (s.modPart p f).lineKeys = s.lineKeys := by unfold State.modPart; split <;> rfl
@[simp] theorem State.modPart_hostMem (s : State) (p : Nat) (f : Partition → Partition) : (s.modPart p f).hostMem = s.hostMem := by unfold State.modPart; split <;> rfl
@[simp] theorem State.modPart_dir (s : State) (p : Nat) (f : Partition → Partition) : (s.modPart p f).dir = s.dir := by unfold State.modPart; split <;> rfl
@[simp] theorem State.modPart_remotes (s : State) (p : Nat) (f : Partition → Partition) : (s.modPart p f).remotes = s.remotes := by unfold State.modPart; split <;> rfl
@[simp] theorem State.modPart_hostReqs (s : State) (p : Nat) (f : Partition → Partition) : (s.modPart p f).hostReqs = s.hostReqs := by unfold State.modPart; split <;> rfl
@[simp] theorem State.modPart_mcasts (s : State) (p : Nat) (f : Partition → Partition) : (s.modPart p f).mcasts = s.mcasts := by unfold State.modPart; split <;> rfl
@[simp] theorem State.modPart_fabOps (s : State) (p : Nat) (f : Partition → Partition) : (s.modPart p f).fabOps = s.fabOps := by unfold State.modPart; split <;> rfl
@[simp] theorem State.modPart_tier (s : State) (p : Nat) (f : Partition → Partition) : (s.modPart p f).tier = s.tier := by unfold State.modPart; split <;> rfl
@[simp] theorem State.modPart_counters (s : State) (p : Nat) (f : Partition → Partition) : (s.modPart p f).counters = s.counters := by unfold State.modPart; split <;> rfl
@[simp] theorem State.modPart_meters (s : State) (p : Nat) (f : Partition → Partition) : (s.modPart p f).meters = s.meters := by unfold State.modPart; split <;> rfl
@[simp] theorem State.modPart_weights (s : State) (p : Nat) (f : Partition → Partition) : (s.modPart p f).weights = s.weights := by unfold State.modPart; split <;> rfl
@[simp] theorem State.modPart_wepoch (s : State) (p : Nat) (f : Partition → Partition) : (s.modPart p f).wepoch = s.wepoch := by unfold State.modPart; split <;> rfl
@[simp] theorem State.modPart_binds (s : State) (p : Nat) (f : Partition → Partition) : (s.modPart p f).binds = s.binds := by unfold State.modPart; split <;> rfl
@[simp] theorem State.modPart_recQ (s : State) (p : Nat) (f : Partition → Partition) : (s.modPart p f).recQ = s.recQ := by unfold State.modPart; split <;> rfl
@[simp] theorem State.modPart_recOpen (s : State) (p : Nat) (f : Partition → Partition) : (s.modPart p f).recOpen = s.recOpen := by unfold State.modPart; split <;> rfl
@[simp] theorem State.modPart_recSeq (s : State) (p : Nat) (f : Partition → Partition) : (s.modPart p f).recSeq = s.recSeq := by unfold State.modPart; split <;> rfl
@[simp] theorem State.modPart_elapsed (s : State) (p : Nat) (f : Partition → Partition) : (s.modPart p f).elapsed = s.elapsed := by unfold State.modPart; split <;> rfl
@[simp] theorem State.modPart_defects (s : State) (p : Nat) (f : Partition → Partition) : (s.modPart p f).defects = s.defects := by unfold State.modPart; split <;> rfl
@[simp] theorem State.modPart_stagedPick (s : State) (p : Nat) (f : Partition → Partition) : (s.modPart p f).stagedPick = s.stagedPick := by unfold State.modPart; split <;> rfl
@[simp] theorem State.modPart_tidOrder (s : State) (p : Nat) (f : Partition → Partition) : (s.modPart p f).tidOrder = s.tidOrder := by unfold State.modPart; split <;> rfl
@[simp] theorem State.modPart_placePick (s : State) (p : Nat) (f : Partition → Partition) : (s.modPart p f).placePick = s.placePick := by unfold State.modPart; split <;> rfl
@[simp] theorem State.modPart_gridSeq (s : State) (p : Nat) (f : Partition → Partition) : (s.modPart p f).gridSeq = s.gridSeq := by unfold State.modPart; split <;> rfl
@[simp] theorem State.modPart_groups (s : State) (p : Nat) (f : Partition → Partition) : (s.modPart p f).groups = s.groups := by unfold State.modPart; split <;> rfl
@[simp] theorem State.modPart_arrivals (s : State) (p : Nat) (f : Partition → Partition) : (s.modPart p f).arrivals = s.arrivals := by unfold State.modPart; split <;> rfl
@[simp] theorem State.modPart_cmd (s : State) (p : Nat) (f : Partition → Partition) : (s.modPart p f).cmd = s.cmd := by unfold State.modPart; split <;> rfl
@[simp] theorem State.modPart_fab (s : State) (p : Nat) (f : Partition → Partition) : (s.modPart p f).fab = s.fab := by unfold State.modPart; split <;> rfl
@[simp] theorem State.modPart_pol (s : State) (p : Nat) (f : Partition → Partition) : (s.modPart p f).pol = s.pol := by unfold State.modPart; split <;> rfl
@[simp] theorem State.modPart_sec (s : State) (p : Nat) (f : Partition → Partition) : (s.modPart p f).sec = s.sec := by unfold State.modPart; split <;> rfl
@[simp] theorem State.modPart_pwr (s : State) (p : Nat) (f : Partition → Partition) : (s.modPart p f).pwr = s.pwr := by unfold State.modPart; split <;> rfl
@[simp] theorem State.modPart_issuer (s : State) (p : Nat) (f : Partition → Partition) : (s.modPart p f).issuer = s.issuer := by unfold State.modPart; split <;> rfl
@[simp] theorem State.modPart_withheld (s : State) (p : Nat) (f : Partition → Partition) : (s.modPart p f).withheld = s.withheld := by unfold State.modPart; split <;> rfl
@[simp] theorem State.modPart_agenda (s : State) (p : Nat) (f : Partition → Partition) : (s.modPart p f).agenda = s.agenda := by unfold State.modPart; split <;> rfl
@[simp] theorem State.modPart_cursor (s : State) (p : Nat) (f : Partition → Partition) : (s.modPart p f).cursor = s.cursor := by unfold State.modPart; split <;> rfl
@[simp] theorem State.modPart_fresh (s : State) (p : Nat) (f : Partition → Partition) : (s.modPart p f).fresh = s.fresh := by unfold State.modPart; split <;> rfl
@[simp] theorem State.modPart_nextId (s : State) (p : Nat) (f : Partition → Partition) : (s.modPart p f).nextId = s.nextId := by unfold State.modPart; split <;> rfl

/-! ### State.modQueue -/

@[simp] theorem State.modQueue_cores (s : State) (n : Nat) (f : Queue → Queue) : (s.modQueue n f).cores = s.cores := by unfold State.modQueue; split <;> rfl
@[simp] theorem State.modQueue_grids (s : State) (n : Nat) (f : Queue → Queue) : (s.modQueue n f).grids = s.grids := by unfold State.modQueue; split <;> rfl
@[simp] theorem State.modQueue_wgs (s : State) (n : Nat) (f : Queue → Queue) : (s.modQueue n f).wgs = s.wgs := by unfold State.modQueue; split <;> rfl
@[simp] theorem State.modQueue_ctxs (s : State) (n : Nat) (f : Queue → Queue) : (s.modQueue n f).ctxs = s.ctxs := by unfold State.modQueue; split <;> rfl
@[simp] theorem State.modQueue_parts (s : State) (n : Nat) (f : Queue → Queue) : (s.modQueue n f).parts = s.parts := by unfold State.modQueue; split <;> rfl
@[simp] theorem State.modQueue_plots (s : State) (n : Nat) (f : Queue → Queue) : (s.modQueue n f).plots = s.plots := by unfold State.modQueue; split <;> rfl
@[simp] theorem State.modQueue_hbm (s : State) (n : Nat) (f : Queue → Queue) : (s.modQueue n f).hbm = s.hbm := by unfold State.modQueue; split <;> rfl
@[simp] theorem State.modQueue_lineKeys (s : State) (n : Nat) (f : Queue → Queue) : (s.modQueue n f).lineKeys = s.lineKeys := by unfold State.modQueue; split <;> rfl
@[simp] theorem State.modQueue_hostMem (s : State) (n : Nat) (f : Queue → Queue) : (s.modQueue n f).hostMem = s.hostMem := by unfold State.modQueue; split <;> rfl
@[simp] theorem State.modQueue_dir (s : State) (n : Nat) (f : Queue → Queue) : (s.modQueue n f).dir = s.dir := by unfold State.modQueue; split <;> rfl
@[simp] theorem State.modQueue_remotes (s : State) (n : Nat) (f : Queue → Queue) : (s.modQueue n f).remotes = s.remotes := by unfold State.modQueue; split <;> rfl
@[simp] theorem State.modQueue_hostReqs (s : State) (n : Nat) (f : Queue → Queue) : (s.modQueue n f).hostReqs = s.hostReqs := by unfold State.modQueue; split <;> rfl
@[simp] theorem State.modQueue_mcasts (s : State) (n : Nat) (f : Queue → Queue) : (s.modQueue n f).mcasts = s.mcasts := by unfold State.modQueue; split <;> rfl
@[simp] theorem State.modQueue_fabOps (s : State) (n : Nat) (f : Queue → Queue) : (s.modQueue n f).fabOps = s.fabOps := by unfold State.modQueue; split <;> rfl
@[simp] theorem State.modQueue_tier (s : State) (n : Nat) (f : Queue → Queue) : (s.modQueue n f).tier = s.tier := by unfold State.modQueue; split <;> rfl
@[simp] theorem State.modQueue_counters (s : State) (n : Nat) (f : Queue → Queue) : (s.modQueue n f).counters = s.counters := by unfold State.modQueue; split <;> rfl
@[simp] theorem State.modQueue_meters (s : State) (n : Nat) (f : Queue → Queue) : (s.modQueue n f).meters = s.meters := by unfold State.modQueue; split <;> rfl
@[simp] theorem State.modQueue_weights (s : State) (n : Nat) (f : Queue → Queue) : (s.modQueue n f).weights = s.weights := by unfold State.modQueue; split <;> rfl
@[simp] theorem State.modQueue_wepoch (s : State) (n : Nat) (f : Queue → Queue) : (s.modQueue n f).wepoch = s.wepoch := by unfold State.modQueue; split <;> rfl
@[simp] theorem State.modQueue_binds (s : State) (n : Nat) (f : Queue → Queue) : (s.modQueue n f).binds = s.binds := by unfold State.modQueue; split <;> rfl
@[simp] theorem State.modQueue_recQ (s : State) (n : Nat) (f : Queue → Queue) : (s.modQueue n f).recQ = s.recQ := by unfold State.modQueue; split <;> rfl
@[simp] theorem State.modQueue_recOpen (s : State) (n : Nat) (f : Queue → Queue) : (s.modQueue n f).recOpen = s.recOpen := by unfold State.modQueue; split <;> rfl
@[simp] theorem State.modQueue_recSeq (s : State) (n : Nat) (f : Queue → Queue) : (s.modQueue n f).recSeq = s.recSeq := by unfold State.modQueue; split <;> rfl
@[simp] theorem State.modQueue_elapsed (s : State) (n : Nat) (f : Queue → Queue) : (s.modQueue n f).elapsed = s.elapsed := by unfold State.modQueue; split <;> rfl
@[simp] theorem State.modQueue_defects (s : State) (n : Nat) (f : Queue → Queue) : (s.modQueue n f).defects = s.defects := by unfold State.modQueue; split <;> rfl
@[simp] theorem State.modQueue_stagedPick (s : State) (n : Nat) (f : Queue → Queue) : (s.modQueue n f).stagedPick = s.stagedPick := by unfold State.modQueue; split <;> rfl
@[simp] theorem State.modQueue_tidOrder (s : State) (n : Nat) (f : Queue → Queue) : (s.modQueue n f).tidOrder = s.tidOrder := by unfold State.modQueue; split <;> rfl
@[simp] theorem State.modQueue_placePick (s : State) (n : Nat) (f : Queue → Queue) : (s.modQueue n f).placePick = s.placePick := by unfold State.modQueue; split <;> rfl
@[simp] theorem State.modQueue_gridSeq (s : State) (n : Nat) (f : Queue → Queue) : (s.modQueue n f).gridSeq = s.gridSeq := by unfold State.modQueue; split <;> rfl
@[simp] theorem State.modQueue_groups (s : State) (n : Nat) (f : Queue → Queue) : (s.modQueue n f).groups = s.groups := by unfold State.modQueue; split <;> rfl
@[simp] theorem State.modQueue_arrivals (s : State) (n : Nat) (f : Queue → Queue) : (s.modQueue n f).arrivals = s.arrivals := by unfold State.modQueue; split <;> rfl
@[simp] theorem State.modQueue_fab (s : State) (n : Nat) (f : Queue → Queue) : (s.modQueue n f).fab = s.fab := by unfold State.modQueue; split <;> rfl
@[simp] theorem State.modQueue_pol (s : State) (n : Nat) (f : Queue → Queue) : (s.modQueue n f).pol = s.pol := by unfold State.modQueue; split <;> rfl
@[simp] theorem State.modQueue_sec (s : State) (n : Nat) (f : Queue → Queue) : (s.modQueue n f).sec = s.sec := by unfold State.modQueue; split <;> rfl
@[simp] theorem State.modQueue_pwr (s : State) (n : Nat) (f : Queue → Queue) : (s.modQueue n f).pwr = s.pwr := by unfold State.modQueue; split <;> rfl
@[simp] theorem State.modQueue_issuer (s : State) (n : Nat) (f : Queue → Queue) : (s.modQueue n f).issuer = s.issuer := by unfold State.modQueue; split <;> rfl
@[simp] theorem State.modQueue_withheld (s : State) (n : Nat) (f : Queue → Queue) : (s.modQueue n f).withheld = s.withheld := by unfold State.modQueue; split <;> rfl
@[simp] theorem State.modQueue_agenda (s : State) (n : Nat) (f : Queue → Queue) : (s.modQueue n f).agenda = s.agenda := by unfold State.modQueue; split <;> rfl
@[simp] theorem State.modQueue_cursor (s : State) (n : Nat) (f : Queue → Queue) : (s.modQueue n f).cursor = s.cursor := by unfold State.modQueue; split <;> rfl
@[simp] theorem State.modQueue_fresh (s : State) (n : Nat) (f : Queue → Queue) : (s.modQueue n f).fresh = s.fresh := by unfold State.modQueue; split <;> rfl
@[simp] theorem State.modQueue_nextId (s : State) (n : Nat) (f : Queue → Queue) : (s.modQueue n f).nextId = s.nextId := by unfold State.modQueue; split <;> rfl

/-! ### State.modSec -/

@[simp] theorem State.modSec_cores (s : State) (f : Security → Security) : (s.modSec f).cores = s.cores := rfl
@[simp] theorem State.modSec_grids (s : State) (f : Security → Security) : (s.modSec f).grids = s.grids := rfl
@[simp] theorem State.modSec_wgs (s : State) (f : Security → Security) : (s.modSec f).wgs = s.wgs := rfl
@[simp] theorem State.modSec_ctxs (s : State) (f : Security → Security) : (s.modSec f).ctxs = s.ctxs := rfl
@[simp] theorem State.modSec_parts (s : State) (f : Security → Security) : (s.modSec f).parts = s.parts := rfl
@[simp] theorem State.modSec_plots (s : State) (f : Security → Security) : (s.modSec f).plots = s.plots := rfl
@[simp] theorem State.modSec_hbm (s : State) (f : Security → Security) : (s.modSec f).hbm = s.hbm := rfl
@[simp] theorem State.modSec_lineKeys (s : State) (f : Security → Security) : (s.modSec f).lineKeys = s.lineKeys := rfl
@[simp] theorem State.modSec_hostMem (s : State) (f : Security → Security) : (s.modSec f).hostMem = s.hostMem := rfl
@[simp] theorem State.modSec_dir (s : State) (f : Security → Security) : (s.modSec f).dir = s.dir := rfl
@[simp] theorem State.modSec_remotes (s : State) (f : Security → Security) : (s.modSec f).remotes = s.remotes := rfl
@[simp] theorem State.modSec_hostReqs (s : State) (f : Security → Security) : (s.modSec f).hostReqs = s.hostReqs := rfl
@[simp] theorem State.modSec_mcasts (s : State) (f : Security → Security) : (s.modSec f).mcasts = s.mcasts := rfl
@[simp] theorem State.modSec_fabOps (s : State) (f : Security → Security) : (s.modSec f).fabOps = s.fabOps := rfl
@[simp] theorem State.modSec_tier (s : State) (f : Security → Security) : (s.modSec f).tier = s.tier := rfl
@[simp] theorem State.modSec_counters (s : State) (f : Security → Security) : (s.modSec f).counters = s.counters := rfl
@[simp] theorem State.modSec_meters (s : State) (f : Security → Security) : (s.modSec f).meters = s.meters := rfl
@[simp] theorem State.modSec_weights (s : State) (f : Security → Security) : (s.modSec f).weights = s.weights := rfl
@[simp] theorem State.modSec_wepoch (s : State) (f : Security → Security) : (s.modSec f).wepoch = s.wepoch := rfl
@[simp] theorem State.modSec_binds (s : State) (f : Security → Security) : (s.modSec f).binds = s.binds := rfl
@[simp] theorem State.modSec_recQ (s : State) (f : Security → Security) : (s.modSec f).recQ = s.recQ := rfl
@[simp] theorem State.modSec_recOpen (s : State) (f : Security → Security) : (s.modSec f).recOpen = s.recOpen := rfl
@[simp] theorem State.modSec_recSeq (s : State) (f : Security → Security) : (s.modSec f).recSeq = s.recSeq := rfl
@[simp] theorem State.modSec_elapsed (s : State) (f : Security → Security) : (s.modSec f).elapsed = s.elapsed := rfl
@[simp] theorem State.modSec_defects (s : State) (f : Security → Security) : (s.modSec f).defects = s.defects := rfl
@[simp] theorem State.modSec_stagedPick (s : State) (f : Security → Security) : (s.modSec f).stagedPick = s.stagedPick := rfl
@[simp] theorem State.modSec_tidOrder (s : State) (f : Security → Security) : (s.modSec f).tidOrder = s.tidOrder := rfl
@[simp] theorem State.modSec_placePick (s : State) (f : Security → Security) : (s.modSec f).placePick = s.placePick := rfl
@[simp] theorem State.modSec_gridSeq (s : State) (f : Security → Security) : (s.modSec f).gridSeq = s.gridSeq := rfl
@[simp] theorem State.modSec_groups (s : State) (f : Security → Security) : (s.modSec f).groups = s.groups := rfl
@[simp] theorem State.modSec_arrivals (s : State) (f : Security → Security) : (s.modSec f).arrivals = s.arrivals := rfl
@[simp] theorem State.modSec_cmd (s : State) (f : Security → Security) : (s.modSec f).cmd = s.cmd := rfl
@[simp] theorem State.modSec_fab (s : State) (f : Security → Security) : (s.modSec f).fab = s.fab := rfl
@[simp] theorem State.modSec_pol (s : State) (f : Security → Security) : (s.modSec f).pol = s.pol := rfl
@[simp] theorem State.modSec_pwr (s : State) (f : Security → Security) : (s.modSec f).pwr = s.pwr := rfl
@[simp] theorem State.modSec_issuer (s : State) (f : Security → Security) : (s.modSec f).issuer = s.issuer := rfl
@[simp] theorem State.modSec_withheld (s : State) (f : Security → Security) : (s.modSec f).withheld = s.withheld := rfl
@[simp] theorem State.modSec_agenda (s : State) (f : Security → Security) : (s.modSec f).agenda = s.agenda := rfl
@[simp] theorem State.modSec_cursor (s : State) (f : Security → Security) : (s.modSec f).cursor = s.cursor := rfl
@[simp] theorem State.modSec_fresh (s : State) (f : Security → Security) : (s.modSec f).fresh = s.fresh := rfl
@[simp] theorem State.modSec_nextId (s : State) (f : Security → Security) : (s.modSec f).nextId = s.nextId := rfl

/-! ### State.count -/

@[simp] theorem State.count_cores (s : State) (p : Nat) (k : Counter) (n : Nat) : (s.count p k n).cores = s.cores := rfl
@[simp] theorem State.count_grids (s : State) (p : Nat) (k : Counter) (n : Nat) : (s.count p k n).grids = s.grids := rfl
@[simp] theorem State.count_wgs (s : State) (p : Nat) (k : Counter) (n : Nat) : (s.count p k n).wgs = s.wgs := rfl
@[simp] theorem State.count_ctxs (s : State) (p : Nat) (k : Counter) (n : Nat) : (s.count p k n).ctxs = s.ctxs := rfl
@[simp] theorem State.count_parts (s : State) (p : Nat) (k : Counter) (n : Nat) : (s.count p k n).parts = s.parts := rfl
@[simp] theorem State.count_plots (s : State) (p : Nat) (k : Counter) (n : Nat) : (s.count p k n).plots = s.plots := rfl
@[simp] theorem State.count_hbm (s : State) (p : Nat) (k : Counter) (n : Nat) : (s.count p k n).hbm = s.hbm := rfl
@[simp] theorem State.count_lineKeys (s : State) (p : Nat) (k : Counter) (n : Nat) : (s.count p k n).lineKeys = s.lineKeys := rfl
@[simp] theorem State.count_hostMem (s : State) (p : Nat) (k : Counter) (n : Nat) : (s.count p k n).hostMem = s.hostMem := rfl
@[simp] theorem State.count_dir (s : State) (p : Nat) (k : Counter) (n : Nat) : (s.count p k n).dir = s.dir := rfl
@[simp] theorem State.count_remotes (s : State) (p : Nat) (k : Counter) (n : Nat) : (s.count p k n).remotes = s.remotes := rfl
@[simp] theorem State.count_hostReqs (s : State) (p : Nat) (k : Counter) (n : Nat) : (s.count p k n).hostReqs = s.hostReqs := rfl
@[simp] theorem State.count_mcasts (s : State) (p : Nat) (k : Counter) (n : Nat) : (s.count p k n).mcasts = s.mcasts := rfl
@[simp] theorem State.count_fabOps (s : State) (p : Nat) (k : Counter) (n : Nat) : (s.count p k n).fabOps = s.fabOps := rfl
@[simp] theorem State.count_tier (s : State) (p : Nat) (k : Counter) (n : Nat) : (s.count p k n).tier = s.tier := rfl
@[simp] theorem State.count_meters (s : State) (p : Nat) (k : Counter) (n : Nat) : (s.count p k n).meters = s.meters := rfl
@[simp] theorem State.count_weights (s : State) (p : Nat) (k : Counter) (n : Nat) : (s.count p k n).weights = s.weights := rfl
@[simp] theorem State.count_wepoch (s : State) (p : Nat) (k : Counter) (n : Nat) : (s.count p k n).wepoch = s.wepoch := rfl
@[simp] theorem State.count_binds (s : State) (p : Nat) (k : Counter) (n : Nat) : (s.count p k n).binds = s.binds := rfl
@[simp] theorem State.count_recQ (s : State) (p : Nat) (k : Counter) (n : Nat) : (s.count p k n).recQ = s.recQ := rfl
@[simp] theorem State.count_recOpen (s : State) (p : Nat) (k : Counter) (n : Nat) : (s.count p k n).recOpen = s.recOpen := rfl
@[simp] theorem State.count_recSeq (s : State) (p : Nat) (k : Counter) (n : Nat) : (s.count p k n).recSeq = s.recSeq := rfl
@[simp] theorem State.count_elapsed (s : State) (p : Nat) (k : Counter) (n : Nat) : (s.count p k n).elapsed = s.elapsed := rfl
@[simp] theorem State.count_defects (s : State) (p : Nat) (k : Counter) (n : Nat) : (s.count p k n).defects = s.defects := rfl
@[simp] theorem State.count_stagedPick (s : State) (p : Nat) (k : Counter) (n : Nat) : (s.count p k n).stagedPick = s.stagedPick := rfl
@[simp] theorem State.count_tidOrder (s : State) (p : Nat) (k : Counter) (n : Nat) : (s.count p k n).tidOrder = s.tidOrder := rfl
@[simp] theorem State.count_placePick (s : State) (p : Nat) (k : Counter) (n : Nat) : (s.count p k n).placePick = s.placePick := rfl
@[simp] theorem State.count_gridSeq (s : State) (p : Nat) (k : Counter) (n : Nat) : (s.count p k n).gridSeq = s.gridSeq := rfl
@[simp] theorem State.count_groups (s : State) (p : Nat) (k : Counter) (n : Nat) : (s.count p k n).groups = s.groups := rfl
@[simp] theorem State.count_arrivals (s : State) (p : Nat) (k : Counter) (n : Nat) : (s.count p k n).arrivals = s.arrivals := rfl
@[simp] theorem State.count_cmd (s : State) (p : Nat) (k : Counter) (n : Nat) : (s.count p k n).cmd = s.cmd := rfl
@[simp] theorem State.count_fab (s : State) (p : Nat) (k : Counter) (n : Nat) : (s.count p k n).fab = s.fab := rfl
@[simp] theorem State.count_pol (s : State) (p : Nat) (k : Counter) (n : Nat) : (s.count p k n).pol = s.pol := rfl
@[simp] theorem State.count_sec (s : State) (p : Nat) (k : Counter) (n : Nat) : (s.count p k n).sec = s.sec := rfl
@[simp] theorem State.count_pwr (s : State) (p : Nat) (k : Counter) (n : Nat) : (s.count p k n).pwr = s.pwr := rfl
@[simp] theorem State.count_issuer (s : State) (p : Nat) (k : Counter) (n : Nat) : (s.count p k n).issuer = s.issuer := rfl
@[simp] theorem State.count_withheld (s : State) (p : Nat) (k : Counter) (n : Nat) : (s.count p k n).withheld = s.withheld := rfl
@[simp] theorem State.count_agenda (s : State) (p : Nat) (k : Counter) (n : Nat) : (s.count p k n).agenda = s.agenda := rfl
@[simp] theorem State.count_cursor (s : State) (p : Nat) (k : Counter) (n : Nat) : (s.count p k n).cursor = s.cursor := rfl
@[simp] theorem State.count_fresh (s : State) (p : Nat) (k : Counter) (n : Nat) : (s.count p k n).fresh = s.fresh := rfl
@[simp] theorem State.count_nextId (s : State) (p : Nat) (k : Counter) (n : Nat) : (s.count p k n).nextId = s.nextId := rfl

/-! ### State.countAt -/

@[simp] theorem State.countAt_cores (s : State) (c : Nat) (k : Counter) (n : Nat) : (s.countAt c k n).cores = s.cores := by unfold State.countAt; split <;> rfl
@[simp] theorem State.countAt_grids (s : State) (c : Nat) (k : Counter) (n : Nat) : (s.countAt c k n).grids = s.grids := by unfold State.countAt; split <;> rfl
@[simp] theorem State.countAt_wgs (s : State) (c : Nat) (k : Counter) (n : Nat) : (s.countAt c k n).wgs = s.wgs := by unfold State.countAt; split <;> rfl
@[simp] theorem State.countAt_ctxs (s : State) (c : Nat) (k : Counter) (n : Nat) : (s.countAt c k n).ctxs = s.ctxs := by unfold State.countAt; split <;> rfl
@[simp] theorem State.countAt_parts (s : State) (c : Nat) (k : Counter) (n : Nat) : (s.countAt c k n).parts = s.parts := by unfold State.countAt; split <;> rfl
@[simp] theorem State.countAt_plots (s : State) (c : Nat) (k : Counter) (n : Nat) : (s.countAt c k n).plots = s.plots := by unfold State.countAt; split <;> rfl
@[simp] theorem State.countAt_hbm (s : State) (c : Nat) (k : Counter) (n : Nat) : (s.countAt c k n).hbm = s.hbm := by unfold State.countAt; split <;> rfl
@[simp] theorem State.countAt_lineKeys (s : State) (c : Nat) (k : Counter) (n : Nat) : (s.countAt c k n).lineKeys = s.lineKeys := by unfold State.countAt; split <;> rfl
@[simp] theorem State.countAt_hostMem (s : State) (c : Nat) (k : Counter) (n : Nat) : (s.countAt c k n).hostMem = s.hostMem := by unfold State.countAt; split <;> rfl
@[simp] theorem State.countAt_dir (s : State) (c : Nat) (k : Counter) (n : Nat) : (s.countAt c k n).dir = s.dir := by unfold State.countAt; split <;> rfl
@[simp] theorem State.countAt_remotes (s : State) (c : Nat) (k : Counter) (n : Nat) : (s.countAt c k n).remotes = s.remotes := by unfold State.countAt; split <;> rfl
@[simp] theorem State.countAt_hostReqs (s : State) (c : Nat) (k : Counter) (n : Nat) : (s.countAt c k n).hostReqs = s.hostReqs := by unfold State.countAt; split <;> rfl
@[simp] theorem State.countAt_mcasts (s : State) (c : Nat) (k : Counter) (n : Nat) : (s.countAt c k n).mcasts = s.mcasts := by unfold State.countAt; split <;> rfl
@[simp] theorem State.countAt_fabOps (s : State) (c : Nat) (k : Counter) (n : Nat) : (s.countAt c k n).fabOps = s.fabOps := by unfold State.countAt; split <;> rfl
@[simp] theorem State.countAt_tier (s : State) (c : Nat) (k : Counter) (n : Nat) : (s.countAt c k n).tier = s.tier := by unfold State.countAt; split <;> rfl
@[simp] theorem State.countAt_meters (s : State) (c : Nat) (k : Counter) (n : Nat) : (s.countAt c k n).meters = s.meters := by unfold State.countAt; split <;> rfl
@[simp] theorem State.countAt_weights (s : State) (c : Nat) (k : Counter) (n : Nat) : (s.countAt c k n).weights = s.weights := by unfold State.countAt; split <;> rfl
@[simp] theorem State.countAt_wepoch (s : State) (c : Nat) (k : Counter) (n : Nat) : (s.countAt c k n).wepoch = s.wepoch := by unfold State.countAt; split <;> rfl
@[simp] theorem State.countAt_binds (s : State) (c : Nat) (k : Counter) (n : Nat) : (s.countAt c k n).binds = s.binds := by unfold State.countAt; split <;> rfl
@[simp] theorem State.countAt_recQ (s : State) (c : Nat) (k : Counter) (n : Nat) : (s.countAt c k n).recQ = s.recQ := by unfold State.countAt; split <;> rfl
@[simp] theorem State.countAt_recOpen (s : State) (c : Nat) (k : Counter) (n : Nat) : (s.countAt c k n).recOpen = s.recOpen := by unfold State.countAt; split <;> rfl
@[simp] theorem State.countAt_recSeq (s : State) (c : Nat) (k : Counter) (n : Nat) : (s.countAt c k n).recSeq = s.recSeq := by unfold State.countAt; split <;> rfl
@[simp] theorem State.countAt_elapsed (s : State) (c : Nat) (k : Counter) (n : Nat) : (s.countAt c k n).elapsed = s.elapsed := by unfold State.countAt; split <;> rfl
@[simp] theorem State.countAt_defects (s : State) (c : Nat) (k : Counter) (n : Nat) : (s.countAt c k n).defects = s.defects := by unfold State.countAt; split <;> rfl
@[simp] theorem State.countAt_stagedPick (s : State) (c : Nat) (k : Counter) (n : Nat) : (s.countAt c k n).stagedPick = s.stagedPick := by unfold State.countAt; split <;> rfl
@[simp] theorem State.countAt_tidOrder (s : State) (c : Nat) (k : Counter) (n : Nat) : (s.countAt c k n).tidOrder = s.tidOrder := by unfold State.countAt; split <;> rfl
@[simp] theorem State.countAt_placePick (s : State) (c : Nat) (k : Counter) (n : Nat) : (s.countAt c k n).placePick = s.placePick := by unfold State.countAt; split <;> rfl
@[simp] theorem State.countAt_gridSeq (s : State) (c : Nat) (k : Counter) (n : Nat) : (s.countAt c k n).gridSeq = s.gridSeq := by unfold State.countAt; split <;> rfl
@[simp] theorem State.countAt_groups (s : State) (c : Nat) (k : Counter) (n : Nat) : (s.countAt c k n).groups = s.groups := by unfold State.countAt; split <;> rfl
@[simp] theorem State.countAt_arrivals (s : State) (c : Nat) (k : Counter) (n : Nat) : (s.countAt c k n).arrivals = s.arrivals := by unfold State.countAt; split <;> rfl
@[simp] theorem State.countAt_cmd (s : State) (c : Nat) (k : Counter) (n : Nat) : (s.countAt c k n).cmd = s.cmd := by unfold State.countAt; split <;> rfl
@[simp] theorem State.countAt_fab (s : State) (c : Nat) (k : Counter) (n : Nat) : (s.countAt c k n).fab = s.fab := by unfold State.countAt; split <;> rfl
@[simp] theorem State.countAt_pol (s : State) (c : Nat) (k : Counter) (n : Nat) : (s.countAt c k n).pol = s.pol := by unfold State.countAt; split <;> rfl
@[simp] theorem State.countAt_sec (s : State) (c : Nat) (k : Counter) (n : Nat) : (s.countAt c k n).sec = s.sec := by unfold State.countAt; split <;> rfl
@[simp] theorem State.countAt_pwr (s : State) (c : Nat) (k : Counter) (n : Nat) : (s.countAt c k n).pwr = s.pwr := by unfold State.countAt; split <;> rfl
@[simp] theorem State.countAt_issuer (s : State) (c : Nat) (k : Counter) (n : Nat) : (s.countAt c k n).issuer = s.issuer := by unfold State.countAt; split <;> rfl
@[simp] theorem State.countAt_withheld (s : State) (c : Nat) (k : Counter) (n : Nat) : (s.countAt c k n).withheld = s.withheld := by unfold State.countAt; split <;> rfl
@[simp] theorem State.countAt_agenda (s : State) (c : Nat) (k : Counter) (n : Nat) : (s.countAt c k n).agenda = s.agenda := by unfold State.countAt; split <;> rfl
@[simp] theorem State.countAt_cursor (s : State) (c : Nat) (k : Counter) (n : Nat) : (s.countAt c k n).cursor = s.cursor := by unfold State.countAt; split <;> rfl
@[simp] theorem State.countAt_fresh (s : State) (c : Nat) (k : Counter) (n : Nat) : (s.countAt c k n).fresh = s.fresh := by unfold State.countAt; split <;> rfl
@[simp] theorem State.countAt_nextId (s : State) (c : Nat) (k : Counter) (n : Nat) : (s.countAt c k n).nextId = s.nextId := by unfold State.countAt; split <;> rfl

/-! ### State.meter -/

@[simp] theorem State.meter_cores (s : State) (p : Nat) (k : Meter) (n : Nat) : (s.meter p k n).cores = s.cores := rfl
@[simp] theorem State.meter_grids (s : State) (p : Nat) (k : Meter) (n : Nat) : (s.meter p k n).grids = s.grids := rfl
@[simp] theorem State.meter_wgs (s : State) (p : Nat) (k : Meter) (n : Nat) : (s.meter p k n).wgs = s.wgs := rfl
@[simp] theorem State.meter_ctxs (s : State) (p : Nat) (k : Meter) (n : Nat) : (s.meter p k n).ctxs = s.ctxs := rfl
@[simp] theorem State.meter_parts (s : State) (p : Nat) (k : Meter) (n : Nat) : (s.meter p k n).parts = s.parts := rfl
@[simp] theorem State.meter_plots (s : State) (p : Nat) (k : Meter) (n : Nat) : (s.meter p k n).plots = s.plots := rfl
@[simp] theorem State.meter_hbm (s : State) (p : Nat) (k : Meter) (n : Nat) : (s.meter p k n).hbm = s.hbm := rfl
@[simp] theorem State.meter_lineKeys (s : State) (p : Nat) (k : Meter) (n : Nat) : (s.meter p k n).lineKeys = s.lineKeys := rfl
@[simp] theorem State.meter_hostMem (s : State) (p : Nat) (k : Meter) (n : Nat) : (s.meter p k n).hostMem = s.hostMem := rfl
@[simp] theorem State.meter_dir (s : State) (p : Nat) (k : Meter) (n : Nat) : (s.meter p k n).dir = s.dir := rfl
@[simp] theorem State.meter_remotes (s : State) (p : Nat) (k : Meter) (n : Nat) : (s.meter p k n).remotes = s.remotes := rfl
@[simp] theorem State.meter_hostReqs (s : State) (p : Nat) (k : Meter) (n : Nat) : (s.meter p k n).hostReqs = s.hostReqs := rfl
@[simp] theorem State.meter_mcasts (s : State) (p : Nat) (k : Meter) (n : Nat) : (s.meter p k n).mcasts = s.mcasts := rfl
@[simp] theorem State.meter_fabOps (s : State) (p : Nat) (k : Meter) (n : Nat) : (s.meter p k n).fabOps = s.fabOps := rfl
@[simp] theorem State.meter_tier (s : State) (p : Nat) (k : Meter) (n : Nat) : (s.meter p k n).tier = s.tier := rfl
@[simp] theorem State.meter_counters (s : State) (p : Nat) (k : Meter) (n : Nat) : (s.meter p k n).counters = s.counters := rfl
@[simp] theorem State.meter_weights (s : State) (p : Nat) (k : Meter) (n : Nat) : (s.meter p k n).weights = s.weights := rfl
@[simp] theorem State.meter_wepoch (s : State) (p : Nat) (k : Meter) (n : Nat) : (s.meter p k n).wepoch = s.wepoch := rfl
@[simp] theorem State.meter_binds (s : State) (p : Nat) (k : Meter) (n : Nat) : (s.meter p k n).binds = s.binds := rfl
@[simp] theorem State.meter_recQ (s : State) (p : Nat) (k : Meter) (n : Nat) : (s.meter p k n).recQ = s.recQ := rfl
@[simp] theorem State.meter_recOpen (s : State) (p : Nat) (k : Meter) (n : Nat) : (s.meter p k n).recOpen = s.recOpen := rfl
@[simp] theorem State.meter_recSeq (s : State) (p : Nat) (k : Meter) (n : Nat) : (s.meter p k n).recSeq = s.recSeq := rfl
@[simp] theorem State.meter_elapsed (s : State) (p : Nat) (k : Meter) (n : Nat) : (s.meter p k n).elapsed = s.elapsed := rfl
@[simp] theorem State.meter_defects (s : State) (p : Nat) (k : Meter) (n : Nat) : (s.meter p k n).defects = s.defects := rfl
@[simp] theorem State.meter_stagedPick (s : State) (p : Nat) (k : Meter) (n : Nat) : (s.meter p k n).stagedPick = s.stagedPick := rfl
@[simp] theorem State.meter_tidOrder (s : State) (p : Nat) (k : Meter) (n : Nat) : (s.meter p k n).tidOrder = s.tidOrder := rfl
@[simp] theorem State.meter_placePick (s : State) (p : Nat) (k : Meter) (n : Nat) : (s.meter p k n).placePick = s.placePick := rfl
@[simp] theorem State.meter_gridSeq (s : State) (p : Nat) (k : Meter) (n : Nat) : (s.meter p k n).gridSeq = s.gridSeq := rfl
@[simp] theorem State.meter_groups (s : State) (p : Nat) (k : Meter) (n : Nat) : (s.meter p k n).groups = s.groups := rfl
@[simp] theorem State.meter_arrivals (s : State) (p : Nat) (k : Meter) (n : Nat) : (s.meter p k n).arrivals = s.arrivals := rfl
@[simp] theorem State.meter_cmd (s : State) (p : Nat) (k : Meter) (n : Nat) : (s.meter p k n).cmd = s.cmd := rfl
@[simp] theorem State.meter_fab (s : State) (p : Nat) (k : Meter) (n : Nat) : (s.meter p k n).fab = s.fab := rfl
@[simp] theorem State.meter_pol (s : State) (p : Nat) (k : Meter) (n : Nat) : (s.meter p k n).pol = s.pol := rfl
@[simp] theorem State.meter_sec (s : State) (p : Nat) (k : Meter) (n : Nat) : (s.meter p k n).sec = s.sec := rfl
@[simp] theorem State.meter_pwr (s : State) (p : Nat) (k : Meter) (n : Nat) : (s.meter p k n).pwr = s.pwr := rfl
@[simp] theorem State.meter_issuer (s : State) (p : Nat) (k : Meter) (n : Nat) : (s.meter p k n).issuer = s.issuer := rfl
@[simp] theorem State.meter_withheld (s : State) (p : Nat) (k : Meter) (n : Nat) : (s.meter p k n).withheld = s.withheld := rfl
@[simp] theorem State.meter_agenda (s : State) (p : Nat) (k : Meter) (n : Nat) : (s.meter p k n).agenda = s.agenda := rfl
@[simp] theorem State.meter_cursor (s : State) (p : Nat) (k : Meter) (n : Nat) : (s.meter p k n).cursor = s.cursor := rfl
@[simp] theorem State.meter_fresh (s : State) (p : Nat) (k : Meter) (n : Nat) : (s.meter p k n).fresh = s.fresh := rfl
@[simp] theorem State.meter_nextId (s : State) (p : Nat) (k : Meter) (n : Nat) : (s.meter p k n).nextId = s.nextId := rfl

/-! ### State.meterAt -/

@[simp] theorem State.meterAt_cores (s : State) (c : Nat) (k : Meter) (n : Nat) : (s.meterAt c k n).cores = s.cores := by unfold State.meterAt; split <;> rfl
@[simp] theorem State.meterAt_grids (s : State) (c : Nat) (k : Meter) (n : Nat) : (s.meterAt c k n).grids = s.grids := by unfold State.meterAt; split <;> rfl
@[simp] theorem State.meterAt_wgs (s : State) (c : Nat) (k : Meter) (n : Nat) : (s.meterAt c k n).wgs = s.wgs := by unfold State.meterAt; split <;> rfl
@[simp] theorem State.meterAt_ctxs (s : State) (c : Nat) (k : Meter) (n : Nat) : (s.meterAt c k n).ctxs = s.ctxs := by unfold State.meterAt; split <;> rfl
@[simp] theorem State.meterAt_parts (s : State) (c : Nat) (k : Meter) (n : Nat) : (s.meterAt c k n).parts = s.parts := by unfold State.meterAt; split <;> rfl
@[simp] theorem State.meterAt_plots (s : State) (c : Nat) (k : Meter) (n : Nat) : (s.meterAt c k n).plots = s.plots := by unfold State.meterAt; split <;> rfl
@[simp] theorem State.meterAt_hbm (s : State) (c : Nat) (k : Meter) (n : Nat) : (s.meterAt c k n).hbm = s.hbm := by unfold State.meterAt; split <;> rfl
@[simp] theorem State.meterAt_lineKeys (s : State) (c : Nat) (k : Meter) (n : Nat) : (s.meterAt c k n).lineKeys = s.lineKeys := by unfold State.meterAt; split <;> rfl
@[simp] theorem State.meterAt_hostMem (s : State) (c : Nat) (k : Meter) (n : Nat) : (s.meterAt c k n).hostMem = s.hostMem := by unfold State.meterAt; split <;> rfl
@[simp] theorem State.meterAt_dir (s : State) (c : Nat) (k : Meter) (n : Nat) : (s.meterAt c k n).dir = s.dir := by unfold State.meterAt; split <;> rfl
@[simp] theorem State.meterAt_remotes (s : State) (c : Nat) (k : Meter) (n : Nat) : (s.meterAt c k n).remotes = s.remotes := by unfold State.meterAt; split <;> rfl
@[simp] theorem State.meterAt_hostReqs (s : State) (c : Nat) (k : Meter) (n : Nat) : (s.meterAt c k n).hostReqs = s.hostReqs := by unfold State.meterAt; split <;> rfl
@[simp] theorem State.meterAt_mcasts (s : State) (c : Nat) (k : Meter) (n : Nat) : (s.meterAt c k n).mcasts = s.mcasts := by unfold State.meterAt; split <;> rfl
@[simp] theorem State.meterAt_fabOps (s : State) (c : Nat) (k : Meter) (n : Nat) : (s.meterAt c k n).fabOps = s.fabOps := by unfold State.meterAt; split <;> rfl
@[simp] theorem State.meterAt_tier (s : State) (c : Nat) (k : Meter) (n : Nat) : (s.meterAt c k n).tier = s.tier := by unfold State.meterAt; split <;> rfl
@[simp] theorem State.meterAt_counters (s : State) (c : Nat) (k : Meter) (n : Nat) : (s.meterAt c k n).counters = s.counters := by unfold State.meterAt; split <;> rfl
@[simp] theorem State.meterAt_weights (s : State) (c : Nat) (k : Meter) (n : Nat) : (s.meterAt c k n).weights = s.weights := by unfold State.meterAt; split <;> rfl
@[simp] theorem State.meterAt_wepoch (s : State) (c : Nat) (k : Meter) (n : Nat) : (s.meterAt c k n).wepoch = s.wepoch := by unfold State.meterAt; split <;> rfl
@[simp] theorem State.meterAt_binds (s : State) (c : Nat) (k : Meter) (n : Nat) : (s.meterAt c k n).binds = s.binds := by unfold State.meterAt; split <;> rfl
@[simp] theorem State.meterAt_recQ (s : State) (c : Nat) (k : Meter) (n : Nat) : (s.meterAt c k n).recQ = s.recQ := by unfold State.meterAt; split <;> rfl
@[simp] theorem State.meterAt_recOpen (s : State) (c : Nat) (k : Meter) (n : Nat) : (s.meterAt c k n).recOpen = s.recOpen := by unfold State.meterAt; split <;> rfl
@[simp] theorem State.meterAt_recSeq (s : State) (c : Nat) (k : Meter) (n : Nat) : (s.meterAt c k n).recSeq = s.recSeq := by unfold State.meterAt; split <;> rfl
@[simp] theorem State.meterAt_elapsed (s : State) (c : Nat) (k : Meter) (n : Nat) : (s.meterAt c k n).elapsed = s.elapsed := by unfold State.meterAt; split <;> rfl
@[simp] theorem State.meterAt_defects (s : State) (c : Nat) (k : Meter) (n : Nat) : (s.meterAt c k n).defects = s.defects := by unfold State.meterAt; split <;> rfl
@[simp] theorem State.meterAt_stagedPick (s : State) (c : Nat) (k : Meter) (n : Nat) : (s.meterAt c k n).stagedPick = s.stagedPick := by unfold State.meterAt; split <;> rfl
@[simp] theorem State.meterAt_tidOrder (s : State) (c : Nat) (k : Meter) (n : Nat) : (s.meterAt c k n).tidOrder = s.tidOrder := by unfold State.meterAt; split <;> rfl
@[simp] theorem State.meterAt_placePick (s : State) (c : Nat) (k : Meter) (n : Nat) : (s.meterAt c k n).placePick = s.placePick := by unfold State.meterAt; split <;> rfl
@[simp] theorem State.meterAt_gridSeq (s : State) (c : Nat) (k : Meter) (n : Nat) : (s.meterAt c k n).gridSeq = s.gridSeq := by unfold State.meterAt; split <;> rfl
@[simp] theorem State.meterAt_groups (s : State) (c : Nat) (k : Meter) (n : Nat) : (s.meterAt c k n).groups = s.groups := by unfold State.meterAt; split <;> rfl
@[simp] theorem State.meterAt_arrivals (s : State) (c : Nat) (k : Meter) (n : Nat) : (s.meterAt c k n).arrivals = s.arrivals := by unfold State.meterAt; split <;> rfl
@[simp] theorem State.meterAt_cmd (s : State) (c : Nat) (k : Meter) (n : Nat) : (s.meterAt c k n).cmd = s.cmd := by unfold State.meterAt; split <;> rfl
@[simp] theorem State.meterAt_fab (s : State) (c : Nat) (k : Meter) (n : Nat) : (s.meterAt c k n).fab = s.fab := by unfold State.meterAt; split <;> rfl
@[simp] theorem State.meterAt_pol (s : State) (c : Nat) (k : Meter) (n : Nat) : (s.meterAt c k n).pol = s.pol := by unfold State.meterAt; split <;> rfl
@[simp] theorem State.meterAt_sec (s : State) (c : Nat) (k : Meter) (n : Nat) : (s.meterAt c k n).sec = s.sec := by unfold State.meterAt; split <;> rfl
@[simp] theorem State.meterAt_pwr (s : State) (c : Nat) (k : Meter) (n : Nat) : (s.meterAt c k n).pwr = s.pwr := by unfold State.meterAt; split <;> rfl
@[simp] theorem State.meterAt_issuer (s : State) (c : Nat) (k : Meter) (n : Nat) : (s.meterAt c k n).issuer = s.issuer := by unfold State.meterAt; split <;> rfl
@[simp] theorem State.meterAt_withheld (s : State) (c : Nat) (k : Meter) (n : Nat) : (s.meterAt c k n).withheld = s.withheld := by unfold State.meterAt; split <;> rfl
@[simp] theorem State.meterAt_agenda (s : State) (c : Nat) (k : Meter) (n : Nat) : (s.meterAt c k n).agenda = s.agenda := by unfold State.meterAt; split <;> rfl
@[simp] theorem State.meterAt_cursor (s : State) (c : Nat) (k : Meter) (n : Nat) : (s.meterAt c k n).cursor = s.cursor := by unfold State.meterAt; split <;> rfl
@[simp] theorem State.meterAt_fresh (s : State) (c : Nat) (k : Meter) (n : Nat) : (s.meterAt c k n).fresh = s.fresh := by unfold State.meterAt; split <;> rfl
@[simp] theorem State.meterAt_nextId (s : State) (c : Nat) (k : Meter) (n : Nat) : (s.meterAt c k n).nextId = s.nextId := by unfold State.meterAt; split <;> rfl

/-! ### State.setDir -/

@[simp] theorem State.setDir_cores (s : State) (key : Nat) (d : DirLine) : (s.setDir key d).cores = s.cores := rfl
@[simp] theorem State.setDir_grids (s : State) (key : Nat) (d : DirLine) : (s.setDir key d).grids = s.grids := rfl
@[simp] theorem State.setDir_wgs (s : State) (key : Nat) (d : DirLine) : (s.setDir key d).wgs = s.wgs := rfl
@[simp] theorem State.setDir_ctxs (s : State) (key : Nat) (d : DirLine) : (s.setDir key d).ctxs = s.ctxs := rfl
@[simp] theorem State.setDir_parts (s : State) (key : Nat) (d : DirLine) : (s.setDir key d).parts = s.parts := rfl
@[simp] theorem State.setDir_plots (s : State) (key : Nat) (d : DirLine) : (s.setDir key d).plots = s.plots := rfl
@[simp] theorem State.setDir_hbm (s : State) (key : Nat) (d : DirLine) : (s.setDir key d).hbm = s.hbm := rfl
@[simp] theorem State.setDir_lineKeys (s : State) (key : Nat) (d : DirLine) : (s.setDir key d).lineKeys = s.lineKeys := rfl
@[simp] theorem State.setDir_hostMem (s : State) (key : Nat) (d : DirLine) : (s.setDir key d).hostMem = s.hostMem := rfl
@[simp] theorem State.setDir_remotes (s : State) (key : Nat) (d : DirLine) : (s.setDir key d).remotes = s.remotes := rfl
@[simp] theorem State.setDir_hostReqs (s : State) (key : Nat) (d : DirLine) : (s.setDir key d).hostReqs = s.hostReqs := rfl
@[simp] theorem State.setDir_mcasts (s : State) (key : Nat) (d : DirLine) : (s.setDir key d).mcasts = s.mcasts := rfl
@[simp] theorem State.setDir_fabOps (s : State) (key : Nat) (d : DirLine) : (s.setDir key d).fabOps = s.fabOps := rfl
@[simp] theorem State.setDir_tier (s : State) (key : Nat) (d : DirLine) : (s.setDir key d).tier = s.tier := rfl
@[simp] theorem State.setDir_counters (s : State) (key : Nat) (d : DirLine) : (s.setDir key d).counters = s.counters := rfl
@[simp] theorem State.setDir_meters (s : State) (key : Nat) (d : DirLine) : (s.setDir key d).meters = s.meters := rfl
@[simp] theorem State.setDir_weights (s : State) (key : Nat) (d : DirLine) : (s.setDir key d).weights = s.weights := rfl
@[simp] theorem State.setDir_wepoch (s : State) (key : Nat) (d : DirLine) : (s.setDir key d).wepoch = s.wepoch := rfl
@[simp] theorem State.setDir_binds (s : State) (key : Nat) (d : DirLine) : (s.setDir key d).binds = s.binds := rfl
@[simp] theorem State.setDir_recQ (s : State) (key : Nat) (d : DirLine) : (s.setDir key d).recQ = s.recQ := rfl
@[simp] theorem State.setDir_recOpen (s : State) (key : Nat) (d : DirLine) : (s.setDir key d).recOpen = s.recOpen := rfl
@[simp] theorem State.setDir_recSeq (s : State) (key : Nat) (d : DirLine) : (s.setDir key d).recSeq = s.recSeq := rfl
@[simp] theorem State.setDir_elapsed (s : State) (key : Nat) (d : DirLine) : (s.setDir key d).elapsed = s.elapsed := rfl
@[simp] theorem State.setDir_defects (s : State) (key : Nat) (d : DirLine) : (s.setDir key d).defects = s.defects := rfl
@[simp] theorem State.setDir_stagedPick (s : State) (key : Nat) (d : DirLine) : (s.setDir key d).stagedPick = s.stagedPick := rfl
@[simp] theorem State.setDir_tidOrder (s : State) (key : Nat) (d : DirLine) : (s.setDir key d).tidOrder = s.tidOrder := rfl
@[simp] theorem State.setDir_placePick (s : State) (key : Nat) (d : DirLine) : (s.setDir key d).placePick = s.placePick := rfl
@[simp] theorem State.setDir_gridSeq (s : State) (key : Nat) (d : DirLine) : (s.setDir key d).gridSeq = s.gridSeq := rfl
@[simp] theorem State.setDir_groups (s : State) (key : Nat) (d : DirLine) : (s.setDir key d).groups = s.groups := rfl
@[simp] theorem State.setDir_arrivals (s : State) (key : Nat) (d : DirLine) : (s.setDir key d).arrivals = s.arrivals := rfl
@[simp] theorem State.setDir_cmd (s : State) (key : Nat) (d : DirLine) : (s.setDir key d).cmd = s.cmd := rfl
@[simp] theorem State.setDir_fab (s : State) (key : Nat) (d : DirLine) : (s.setDir key d).fab = s.fab := rfl
@[simp] theorem State.setDir_pol (s : State) (key : Nat) (d : DirLine) : (s.setDir key d).pol = s.pol := rfl
@[simp] theorem State.setDir_sec (s : State) (key : Nat) (d : DirLine) : (s.setDir key d).sec = s.sec := rfl
@[simp] theorem State.setDir_pwr (s : State) (key : Nat) (d : DirLine) : (s.setDir key d).pwr = s.pwr := rfl
@[simp] theorem State.setDir_issuer (s : State) (key : Nat) (d : DirLine) : (s.setDir key d).issuer = s.issuer := rfl
@[simp] theorem State.setDir_withheld (s : State) (key : Nat) (d : DirLine) : (s.setDir key d).withheld = s.withheld := rfl
@[simp] theorem State.setDir_agenda (s : State) (key : Nat) (d : DirLine) : (s.setDir key d).agenda = s.agenda := rfl
@[simp] theorem State.setDir_cursor (s : State) (key : Nat) (d : DirLine) : (s.setDir key d).cursor = s.cursor := rfl
@[simp] theorem State.setDir_fresh (s : State) (key : Nat) (d : DirLine) : (s.setDir key d).fresh = s.fresh := rfl
@[simp] theorem State.setDir_nextId (s : State) (key : Nat) (d : DirLine) : (s.setDir key d).nextId = s.nextId := rfl

/-! ### State.setStream -/

@[simp] theorem State.setStream_cores (s : State) (dev part : Nat) (x : Stream) : (s.setStream dev part x).cores = s.cores := rfl
@[simp] theorem State.setStream_grids (s : State) (dev part : Nat) (x : Stream) : (s.setStream dev part x).grids = s.grids := rfl
@[simp] theorem State.setStream_wgs (s : State) (dev part : Nat) (x : Stream) : (s.setStream dev part x).wgs = s.wgs := rfl
@[simp] theorem State.setStream_ctxs (s : State) (dev part : Nat) (x : Stream) : (s.setStream dev part x).ctxs = s.ctxs := rfl
@[simp] theorem State.setStream_parts (s : State) (dev part : Nat) (x : Stream) : (s.setStream dev part x).parts = s.parts := rfl
@[simp] theorem State.setStream_plots (s : State) (dev part : Nat) (x : Stream) : (s.setStream dev part x).plots = s.plots := rfl
@[simp] theorem State.setStream_hbm (s : State) (dev part : Nat) (x : Stream) : (s.setStream dev part x).hbm = s.hbm := rfl
@[simp] theorem State.setStream_lineKeys (s : State) (dev part : Nat) (x : Stream) : (s.setStream dev part x).lineKeys = s.lineKeys := rfl
@[simp] theorem State.setStream_hostMem (s : State) (dev part : Nat) (x : Stream) : (s.setStream dev part x).hostMem = s.hostMem := rfl
@[simp] theorem State.setStream_dir (s : State) (dev part : Nat) (x : Stream) : (s.setStream dev part x).dir = s.dir := rfl
@[simp] theorem State.setStream_remotes (s : State) (dev part : Nat) (x : Stream) : (s.setStream dev part x).remotes = s.remotes := rfl
@[simp] theorem State.setStream_hostReqs (s : State) (dev part : Nat) (x : Stream) : (s.setStream dev part x).hostReqs = s.hostReqs := rfl
@[simp] theorem State.setStream_mcasts (s : State) (dev part : Nat) (x : Stream) : (s.setStream dev part x).mcasts = s.mcasts := rfl
@[simp] theorem State.setStream_fabOps (s : State) (dev part : Nat) (x : Stream) : (s.setStream dev part x).fabOps = s.fabOps := rfl
@[simp] theorem State.setStream_tier (s : State) (dev part : Nat) (x : Stream) : (s.setStream dev part x).tier = s.tier := rfl
@[simp] theorem State.setStream_counters (s : State) (dev part : Nat) (x : Stream) : (s.setStream dev part x).counters = s.counters := rfl
@[simp] theorem State.setStream_meters (s : State) (dev part : Nat) (x : Stream) : (s.setStream dev part x).meters = s.meters := rfl
@[simp] theorem State.setStream_weights (s : State) (dev part : Nat) (x : Stream) : (s.setStream dev part x).weights = s.weights := rfl
@[simp] theorem State.setStream_wepoch (s : State) (dev part : Nat) (x : Stream) : (s.setStream dev part x).wepoch = s.wepoch := rfl
@[simp] theorem State.setStream_binds (s : State) (dev part : Nat) (x : Stream) : (s.setStream dev part x).binds = s.binds := rfl
@[simp] theorem State.setStream_recQ (s : State) (dev part : Nat) (x : Stream) : (s.setStream dev part x).recQ = s.recQ := rfl
@[simp] theorem State.setStream_recOpen (s : State) (dev part : Nat) (x : Stream) : (s.setStream dev part x).recOpen = s.recOpen := rfl
@[simp] theorem State.setStream_recSeq (s : State) (dev part : Nat) (x : Stream) : (s.setStream dev part x).recSeq = s.recSeq := rfl
@[simp] theorem State.setStream_elapsed (s : State) (dev part : Nat) (x : Stream) : (s.setStream dev part x).elapsed = s.elapsed := rfl
@[simp] theorem State.setStream_defects (s : State) (dev part : Nat) (x : Stream) : (s.setStream dev part x).defects = s.defects := rfl
@[simp] theorem State.setStream_stagedPick (s : State) (dev part : Nat) (x : Stream) : (s.setStream dev part x).stagedPick = s.stagedPick := rfl
@[simp] theorem State.setStream_tidOrder (s : State) (dev part : Nat) (x : Stream) : (s.setStream dev part x).tidOrder = s.tidOrder := rfl
@[simp] theorem State.setStream_placePick (s : State) (dev part : Nat) (x : Stream) : (s.setStream dev part x).placePick = s.placePick := rfl
@[simp] theorem State.setStream_gridSeq (s : State) (dev part : Nat) (x : Stream) : (s.setStream dev part x).gridSeq = s.gridSeq := rfl
@[simp] theorem State.setStream_groups (s : State) (dev part : Nat) (x : Stream) : (s.setStream dev part x).groups = s.groups := rfl
@[simp] theorem State.setStream_arrivals (s : State) (dev part : Nat) (x : Stream) : (s.setStream dev part x).arrivals = s.arrivals := rfl
@[simp] theorem State.setStream_cmd (s : State) (dev part : Nat) (x : Stream) : (s.setStream dev part x).cmd = s.cmd := rfl
@[simp] theorem State.setStream_pol (s : State) (dev part : Nat) (x : Stream) : (s.setStream dev part x).pol = s.pol := rfl
@[simp] theorem State.setStream_sec (s : State) (dev part : Nat) (x : Stream) : (s.setStream dev part x).sec = s.sec := rfl
@[simp] theorem State.setStream_pwr (s : State) (dev part : Nat) (x : Stream) : (s.setStream dev part x).pwr = s.pwr := rfl
@[simp] theorem State.setStream_issuer (s : State) (dev part : Nat) (x : Stream) : (s.setStream dev part x).issuer = s.issuer := rfl
@[simp] theorem State.setStream_withheld (s : State) (dev part : Nat) (x : Stream) : (s.setStream dev part x).withheld = s.withheld := rfl
@[simp] theorem State.setStream_agenda (s : State) (dev part : Nat) (x : Stream) : (s.setStream dev part x).agenda = s.agenda := rfl
@[simp] theorem State.setStream_cursor (s : State) (dev part : Nat) (x : Stream) : (s.setStream dev part x).cursor = s.cursor := rfl
@[simp] theorem State.setStream_fresh (s : State) (dev part : Nat) (x : Stream) : (s.setStream dev part x).fresh = s.fresh := rfl
@[simp] theorem State.setStream_nextId (s : State) (dev part : Nat) (x : Stream) : (s.setStream dev part x).nextId = s.nextId := rfl

/-! ### State.setGroup -/

@[simp] theorem State.setGroup_cores (s : State) (key : Nat) (g : Group) : (s.setGroup key g).cores = s.cores := rfl
@[simp] theorem State.setGroup_grids (s : State) (key : Nat) (g : Group) : (s.setGroup key g).grids = s.grids := rfl
@[simp] theorem State.setGroup_wgs (s : State) (key : Nat) (g : Group) : (s.setGroup key g).wgs = s.wgs := rfl
@[simp] theorem State.setGroup_ctxs (s : State) (key : Nat) (g : Group) : (s.setGroup key g).ctxs = s.ctxs := rfl
@[simp] theorem State.setGroup_parts (s : State) (key : Nat) (g : Group) : (s.setGroup key g).parts = s.parts := rfl
@[simp] theorem State.setGroup_plots (s : State) (key : Nat) (g : Group) : (s.setGroup key g).plots = s.plots := rfl
@[simp] theorem State.setGroup_hbm (s : State) (key : Nat) (g : Group) : (s.setGroup key g).hbm = s.hbm := rfl
@[simp] theorem State.setGroup_lineKeys (s : State) (key : Nat) (g : Group) : (s.setGroup key g).lineKeys = s.lineKeys := rfl
@[simp] theorem State.setGroup_hostMem (s : State) (key : Nat) (g : Group) : (s.setGroup key g).hostMem = s.hostMem := rfl
@[simp] theorem State.setGroup_dir (s : State) (key : Nat) (g : Group) : (s.setGroup key g).dir = s.dir := rfl
@[simp] theorem State.setGroup_remotes (s : State) (key : Nat) (g : Group) : (s.setGroup key g).remotes = s.remotes := rfl
@[simp] theorem State.setGroup_hostReqs (s : State) (key : Nat) (g : Group) : (s.setGroup key g).hostReqs = s.hostReqs := rfl
@[simp] theorem State.setGroup_mcasts (s : State) (key : Nat) (g : Group) : (s.setGroup key g).mcasts = s.mcasts := rfl
@[simp] theorem State.setGroup_fabOps (s : State) (key : Nat) (g : Group) : (s.setGroup key g).fabOps = s.fabOps := rfl
@[simp] theorem State.setGroup_tier (s : State) (key : Nat) (g : Group) : (s.setGroup key g).tier = s.tier := rfl
@[simp] theorem State.setGroup_counters (s : State) (key : Nat) (g : Group) : (s.setGroup key g).counters = s.counters := rfl
@[simp] theorem State.setGroup_meters (s : State) (key : Nat) (g : Group) : (s.setGroup key g).meters = s.meters := rfl
@[simp] theorem State.setGroup_weights (s : State) (key : Nat) (g : Group) : (s.setGroup key g).weights = s.weights := rfl
@[simp] theorem State.setGroup_wepoch (s : State) (key : Nat) (g : Group) : (s.setGroup key g).wepoch = s.wepoch := rfl
@[simp] theorem State.setGroup_binds (s : State) (key : Nat) (g : Group) : (s.setGroup key g).binds = s.binds := rfl
@[simp] theorem State.setGroup_recQ (s : State) (key : Nat) (g : Group) : (s.setGroup key g).recQ = s.recQ := rfl
@[simp] theorem State.setGroup_recOpen (s : State) (key : Nat) (g : Group) : (s.setGroup key g).recOpen = s.recOpen := rfl
@[simp] theorem State.setGroup_recSeq (s : State) (key : Nat) (g : Group) : (s.setGroup key g).recSeq = s.recSeq := rfl
@[simp] theorem State.setGroup_elapsed (s : State) (key : Nat) (g : Group) : (s.setGroup key g).elapsed = s.elapsed := rfl
@[simp] theorem State.setGroup_defects (s : State) (key : Nat) (g : Group) : (s.setGroup key g).defects = s.defects := rfl
@[simp] theorem State.setGroup_stagedPick (s : State) (key : Nat) (g : Group) : (s.setGroup key g).stagedPick = s.stagedPick := rfl
@[simp] theorem State.setGroup_tidOrder (s : State) (key : Nat) (g : Group) : (s.setGroup key g).tidOrder = s.tidOrder := rfl
@[simp] theorem State.setGroup_placePick (s : State) (key : Nat) (g : Group) : (s.setGroup key g).placePick = s.placePick := rfl
@[simp] theorem State.setGroup_gridSeq (s : State) (key : Nat) (g : Group) : (s.setGroup key g).gridSeq = s.gridSeq := rfl
@[simp] theorem State.setGroup_arrivals (s : State) (key : Nat) (g : Group) : (s.setGroup key g).arrivals = s.arrivals := rfl
@[simp] theorem State.setGroup_cmd (s : State) (key : Nat) (g : Group) : (s.setGroup key g).cmd = s.cmd := rfl
@[simp] theorem State.setGroup_fab (s : State) (key : Nat) (g : Group) : (s.setGroup key g).fab = s.fab := rfl
@[simp] theorem State.setGroup_pol (s : State) (key : Nat) (g : Group) : (s.setGroup key g).pol = s.pol := rfl
@[simp] theorem State.setGroup_sec (s : State) (key : Nat) (g : Group) : (s.setGroup key g).sec = s.sec := rfl
@[simp] theorem State.setGroup_pwr (s : State) (key : Nat) (g : Group) : (s.setGroup key g).pwr = s.pwr := rfl
@[simp] theorem State.setGroup_issuer (s : State) (key : Nat) (g : Group) : (s.setGroup key g).issuer = s.issuer := rfl
@[simp] theorem State.setGroup_withheld (s : State) (key : Nat) (g : Group) : (s.setGroup key g).withheld = s.withheld := rfl
@[simp] theorem State.setGroup_agenda (s : State) (key : Nat) (g : Group) : (s.setGroup key g).agenda = s.agenda := rfl
@[simp] theorem State.setGroup_cursor (s : State) (key : Nat) (g : Group) : (s.setGroup key g).cursor = s.cursor := rfl
@[simp] theorem State.setGroup_fresh (s : State) (key : Nat) (g : Group) : (s.setGroup key g).fresh = s.fresh := rfl
@[simp] theorem State.setGroup_nextId (s : State) (key : Nat) (g : Group) : (s.setGroup key g).nextId = s.nextId := rfl

/-! ### State.coolAt -/

@[simp] theorem State.coolAt_grids (s : State) (core slot after : Nat) (ls : List (RegLoc × Nat)) : (s.coolAt core slot after ls).grids = s.grids := by unfold State.coolAt; split <;> rfl
@[simp] theorem State.coolAt_wgs (s : State) (core slot after : Nat) (ls : List (RegLoc × Nat)) : (s.coolAt core slot after ls).wgs = s.wgs := by unfold State.coolAt; split <;> rfl
@[simp] theorem State.coolAt_ctxs (s : State) (core slot after : Nat) (ls : List (RegLoc × Nat)) : (s.coolAt core slot after ls).ctxs = s.ctxs := by unfold State.coolAt; split <;> rfl
@[simp] theorem State.coolAt_parts (s : State) (core slot after : Nat) (ls : List (RegLoc × Nat)) : (s.coolAt core slot after ls).parts = s.parts := by unfold State.coolAt; split <;> rfl
@[simp] theorem State.coolAt_plots (s : State) (core slot after : Nat) (ls : List (RegLoc × Nat)) : (s.coolAt core slot after ls).plots = s.plots := by unfold State.coolAt; split <;> rfl
@[simp] theorem State.coolAt_hbm (s : State) (core slot after : Nat) (ls : List (RegLoc × Nat)) : (s.coolAt core slot after ls).hbm = s.hbm := by unfold State.coolAt; split <;> rfl
@[simp] theorem State.coolAt_lineKeys (s : State) (core slot after : Nat) (ls : List (RegLoc × Nat)) : (s.coolAt core slot after ls).lineKeys = s.lineKeys := by unfold State.coolAt; split <;> rfl
@[simp] theorem State.coolAt_hostMem (s : State) (core slot after : Nat) (ls : List (RegLoc × Nat)) : (s.coolAt core slot after ls).hostMem = s.hostMem := by unfold State.coolAt; split <;> rfl
@[simp] theorem State.coolAt_dir (s : State) (core slot after : Nat) (ls : List (RegLoc × Nat)) : (s.coolAt core slot after ls).dir = s.dir := by unfold State.coolAt; split <;> rfl
@[simp] theorem State.coolAt_remotes (s : State) (core slot after : Nat) (ls : List (RegLoc × Nat)) : (s.coolAt core slot after ls).remotes = s.remotes := by unfold State.coolAt; split <;> rfl
@[simp] theorem State.coolAt_hostReqs (s : State) (core slot after : Nat) (ls : List (RegLoc × Nat)) : (s.coolAt core slot after ls).hostReqs = s.hostReqs := by unfold State.coolAt; split <;> rfl
@[simp] theorem State.coolAt_mcasts (s : State) (core slot after : Nat) (ls : List (RegLoc × Nat)) : (s.coolAt core slot after ls).mcasts = s.mcasts := by unfold State.coolAt; split <;> rfl
@[simp] theorem State.coolAt_fabOps (s : State) (core slot after : Nat) (ls : List (RegLoc × Nat)) : (s.coolAt core slot after ls).fabOps = s.fabOps := by unfold State.coolAt; split <;> rfl
@[simp] theorem State.coolAt_tier (s : State) (core slot after : Nat) (ls : List (RegLoc × Nat)) : (s.coolAt core slot after ls).tier = s.tier := by unfold State.coolAt; split <;> rfl
@[simp] theorem State.coolAt_counters (s : State) (core slot after : Nat) (ls : List (RegLoc × Nat)) : (s.coolAt core slot after ls).counters = s.counters := by unfold State.coolAt; split <;> rfl
@[simp] theorem State.coolAt_meters (s : State) (core slot after : Nat) (ls : List (RegLoc × Nat)) : (s.coolAt core slot after ls).meters = s.meters := by unfold State.coolAt; split <;> rfl
@[simp] theorem State.coolAt_weights (s : State) (core slot after : Nat) (ls : List (RegLoc × Nat)) : (s.coolAt core slot after ls).weights = s.weights := by unfold State.coolAt; split <;> rfl
@[simp] theorem State.coolAt_wepoch (s : State) (core slot after : Nat) (ls : List (RegLoc × Nat)) : (s.coolAt core slot after ls).wepoch = s.wepoch := by unfold State.coolAt; split <;> rfl
@[simp] theorem State.coolAt_binds (s : State) (core slot after : Nat) (ls : List (RegLoc × Nat)) : (s.coolAt core slot after ls).binds = s.binds := by unfold State.coolAt; split <;> rfl
@[simp] theorem State.coolAt_recQ (s : State) (core slot after : Nat) (ls : List (RegLoc × Nat)) : (s.coolAt core slot after ls).recQ = s.recQ := by unfold State.coolAt; split <;> rfl
@[simp] theorem State.coolAt_recOpen (s : State) (core slot after : Nat) (ls : List (RegLoc × Nat)) : (s.coolAt core slot after ls).recOpen = s.recOpen := by unfold State.coolAt; split <;> rfl
@[simp] theorem State.coolAt_recSeq (s : State) (core slot after : Nat) (ls : List (RegLoc × Nat)) : (s.coolAt core slot after ls).recSeq = s.recSeq := by unfold State.coolAt; split <;> rfl
@[simp] theorem State.coolAt_elapsed (s : State) (core slot after : Nat) (ls : List (RegLoc × Nat)) : (s.coolAt core slot after ls).elapsed = s.elapsed := by unfold State.coolAt; split <;> rfl
@[simp] theorem State.coolAt_defects (s : State) (core slot after : Nat) (ls : List (RegLoc × Nat)) : (s.coolAt core slot after ls).defects = s.defects := by unfold State.coolAt; split <;> rfl
@[simp] theorem State.coolAt_stagedPick (s : State) (core slot after : Nat) (ls : List (RegLoc × Nat)) : (s.coolAt core slot after ls).stagedPick = s.stagedPick := by unfold State.coolAt; split <;> rfl
@[simp] theorem State.coolAt_tidOrder (s : State) (core slot after : Nat) (ls : List (RegLoc × Nat)) : (s.coolAt core slot after ls).tidOrder = s.tidOrder := by unfold State.coolAt; split <;> rfl
@[simp] theorem State.coolAt_placePick (s : State) (core slot after : Nat) (ls : List (RegLoc × Nat)) : (s.coolAt core slot after ls).placePick = s.placePick := by unfold State.coolAt; split <;> rfl
@[simp] theorem State.coolAt_gridSeq (s : State) (core slot after : Nat) (ls : List (RegLoc × Nat)) : (s.coolAt core slot after ls).gridSeq = s.gridSeq := by unfold State.coolAt; split <;> rfl
@[simp] theorem State.coolAt_groups (s : State) (core slot after : Nat) (ls : List (RegLoc × Nat)) : (s.coolAt core slot after ls).groups = s.groups := by unfold State.coolAt; split <;> rfl
@[simp] theorem State.coolAt_arrivals (s : State) (core slot after : Nat) (ls : List (RegLoc × Nat)) : (s.coolAt core slot after ls).arrivals = s.arrivals := by unfold State.coolAt; split <;> rfl
@[simp] theorem State.coolAt_cmd (s : State) (core slot after : Nat) (ls : List (RegLoc × Nat)) : (s.coolAt core slot after ls).cmd = s.cmd := by unfold State.coolAt; split <;> rfl
@[simp] theorem State.coolAt_fab (s : State) (core slot after : Nat) (ls : List (RegLoc × Nat)) : (s.coolAt core slot after ls).fab = s.fab := by unfold State.coolAt; split <;> rfl
@[simp] theorem State.coolAt_pol (s : State) (core slot after : Nat) (ls : List (RegLoc × Nat)) : (s.coolAt core slot after ls).pol = s.pol := by unfold State.coolAt; split <;> rfl
@[simp] theorem State.coolAt_sec (s : State) (core slot after : Nat) (ls : List (RegLoc × Nat)) : (s.coolAt core slot after ls).sec = s.sec := by unfold State.coolAt; split <;> rfl
@[simp] theorem State.coolAt_pwr (s : State) (core slot after : Nat) (ls : List (RegLoc × Nat)) : (s.coolAt core slot after ls).pwr = s.pwr := by unfold State.coolAt; split <;> rfl
@[simp] theorem State.coolAt_issuer (s : State) (core slot after : Nat) (ls : List (RegLoc × Nat)) : (s.coolAt core slot after ls).issuer = s.issuer := by unfold State.coolAt; split <;> rfl
@[simp] theorem State.coolAt_withheld (s : State) (core slot after : Nat) (ls : List (RegLoc × Nat)) : (s.coolAt core slot after ls).withheld = s.withheld := by unfold State.coolAt; split <;> rfl
@[simp] theorem State.coolAt_agenda (s : State) (core slot after : Nat) (ls : List (RegLoc × Nat)) : (s.coolAt core slot after ls).agenda = s.agenda := by unfold State.coolAt; split <;> rfl
@[simp] theorem State.coolAt_cursor (s : State) (core slot after : Nat) (ls : List (RegLoc × Nat)) : (s.coolAt core slot after ls).cursor = s.cursor := by unfold State.coolAt; split <;> rfl
@[simp] theorem State.coolAt_fresh (s : State) (core slot after : Nat) (ls : List (RegLoc × Nat)) : (s.coolAt core slot after ls).fresh = s.fresh := by unfold State.coolAt; split <;> rfl
@[simp] theorem State.coolAt_nextId (s : State) (core slot after : Nat) (ls : List (RegLoc × Nat)) : (s.coolAt core slot after ls).nextId = s.nextId := by unfold State.coolAt; split <;> rfl

/-! ### State.setPool -/

@[simp] theorem State.setPool_cores (s : State) (part n : Nat) : (s.setPool part n).cores = s.cores := rfl
@[simp] theorem State.setPool_grids (s : State) (part n : Nat) : (s.setPool part n).grids = s.grids := rfl
@[simp] theorem State.setPool_wgs (s : State) (part n : Nat) : (s.setPool part n).wgs = s.wgs := rfl
@[simp] theorem State.setPool_ctxs (s : State) (part n : Nat) : (s.setPool part n).ctxs = s.ctxs := rfl
@[simp] theorem State.setPool_parts (s : State) (part n : Nat) : (s.setPool part n).parts = s.parts := rfl
@[simp] theorem State.setPool_plots (s : State) (part n : Nat) : (s.setPool part n).plots = s.plots := rfl
@[simp] theorem State.setPool_hbm (s : State) (part n : Nat) : (s.setPool part n).hbm = s.hbm := rfl
@[simp] theorem State.setPool_lineKeys (s : State) (part n : Nat) : (s.setPool part n).lineKeys = s.lineKeys := rfl
@[simp] theorem State.setPool_hostMem (s : State) (part n : Nat) : (s.setPool part n).hostMem = s.hostMem := rfl
@[simp] theorem State.setPool_dir (s : State) (part n : Nat) : (s.setPool part n).dir = s.dir := rfl
@[simp] theorem State.setPool_remotes (s : State) (part n : Nat) : (s.setPool part n).remotes = s.remotes := rfl
@[simp] theorem State.setPool_hostReqs (s : State) (part n : Nat) : (s.setPool part n).hostReqs = s.hostReqs := rfl
@[simp] theorem State.setPool_mcasts (s : State) (part n : Nat) : (s.setPool part n).mcasts = s.mcasts := rfl
@[simp] theorem State.setPool_fabOps (s : State) (part n : Nat) : (s.setPool part n).fabOps = s.fabOps := rfl
@[simp] theorem State.setPool_tier (s : State) (part n : Nat) : (s.setPool part n).tier = s.tier := rfl
@[simp] theorem State.setPool_counters (s : State) (part n : Nat) : (s.setPool part n).counters = s.counters := rfl
@[simp] theorem State.setPool_meters (s : State) (part n : Nat) : (s.setPool part n).meters = s.meters := rfl
@[simp] theorem State.setPool_weights (s : State) (part n : Nat) : (s.setPool part n).weights = s.weights := rfl
@[simp] theorem State.setPool_wepoch (s : State) (part n : Nat) : (s.setPool part n).wepoch = s.wepoch := rfl
@[simp] theorem State.setPool_binds (s : State) (part n : Nat) : (s.setPool part n).binds = s.binds := rfl
@[simp] theorem State.setPool_recQ (s : State) (part n : Nat) : (s.setPool part n).recQ = s.recQ := rfl
@[simp] theorem State.setPool_recOpen (s : State) (part n : Nat) : (s.setPool part n).recOpen = s.recOpen := rfl
@[simp] theorem State.setPool_recSeq (s : State) (part n : Nat) : (s.setPool part n).recSeq = s.recSeq := rfl
@[simp] theorem State.setPool_elapsed (s : State) (part n : Nat) : (s.setPool part n).elapsed = s.elapsed := rfl
@[simp] theorem State.setPool_defects (s : State) (part n : Nat) : (s.setPool part n).defects = s.defects := rfl
@[simp] theorem State.setPool_stagedPick (s : State) (part n : Nat) : (s.setPool part n).stagedPick = s.stagedPick := rfl
@[simp] theorem State.setPool_tidOrder (s : State) (part n : Nat) : (s.setPool part n).tidOrder = s.tidOrder := rfl
@[simp] theorem State.setPool_placePick (s : State) (part n : Nat) : (s.setPool part n).placePick = s.placePick := rfl
@[simp] theorem State.setPool_gridSeq (s : State) (part n : Nat) : (s.setPool part n).gridSeq = s.gridSeq := rfl
@[simp] theorem State.setPool_groups (s : State) (part n : Nat) : (s.setPool part n).groups = s.groups := rfl
@[simp] theorem State.setPool_arrivals (s : State) (part n : Nat) : (s.setPool part n).arrivals = s.arrivals := rfl
@[simp] theorem State.setPool_cmd (s : State) (part n : Nat) : (s.setPool part n).cmd = s.cmd := rfl
@[simp] theorem State.setPool_fab (s : State) (part n : Nat) : (s.setPool part n).fab = s.fab := rfl
@[simp] theorem State.setPool_pol (s : State) (part n : Nat) : (s.setPool part n).pol = s.pol := rfl
@[simp] theorem State.setPool_sec (s : State) (part n : Nat) : (s.setPool part n).sec = s.sec := rfl
@[simp] theorem State.setPool_issuer (s : State) (part n : Nat) : (s.setPool part n).issuer = s.issuer := rfl
@[simp] theorem State.setPool_withheld (s : State) (part n : Nat) : (s.setPool part n).withheld = s.withheld := rfl
@[simp] theorem State.setPool_agenda (s : State) (part n : Nat) : (s.setPool part n).agenda = s.agenda := rfl
@[simp] theorem State.setPool_cursor (s : State) (part n : Nat) : (s.setPool part n).cursor = s.cursor := rfl
@[simp] theorem State.setPool_fresh (s : State) (part n : Nat) : (s.setPool part n).fresh = s.fresh := rfl
@[simp] theorem State.setPool_nextId (s : State) (part n : Nat) : (s.setPool part n).nextId = s.nextId := rfl

/-! ### State.takeId -/

@[simp] theorem State.takeId_cores (s : State) : (s.takeId).cores = s.cores := rfl
@[simp] theorem State.takeId_grids (s : State) : (s.takeId).grids = s.grids := rfl
@[simp] theorem State.takeId_wgs (s : State) : (s.takeId).wgs = s.wgs := rfl
@[simp] theorem State.takeId_ctxs (s : State) : (s.takeId).ctxs = s.ctxs := rfl
@[simp] theorem State.takeId_parts (s : State) : (s.takeId).parts = s.parts := rfl
@[simp] theorem State.takeId_plots (s : State) : (s.takeId).plots = s.plots := rfl
@[simp] theorem State.takeId_hbm (s : State) : (s.takeId).hbm = s.hbm := rfl
@[simp] theorem State.takeId_lineKeys (s : State) : (s.takeId).lineKeys = s.lineKeys := rfl
@[simp] theorem State.takeId_hostMem (s : State) : (s.takeId).hostMem = s.hostMem := rfl
@[simp] theorem State.takeId_dir (s : State) : (s.takeId).dir = s.dir := rfl
@[simp] theorem State.takeId_remotes (s : State) : (s.takeId).remotes = s.remotes := rfl
@[simp] theorem State.takeId_hostReqs (s : State) : (s.takeId).hostReqs = s.hostReqs := rfl
@[simp] theorem State.takeId_mcasts (s : State) : (s.takeId).mcasts = s.mcasts := rfl
@[simp] theorem State.takeId_fabOps (s : State) : (s.takeId).fabOps = s.fabOps := rfl
@[simp] theorem State.takeId_tier (s : State) : (s.takeId).tier = s.tier := rfl
@[simp] theorem State.takeId_counters (s : State) : (s.takeId).counters = s.counters := rfl
@[simp] theorem State.takeId_meters (s : State) : (s.takeId).meters = s.meters := rfl
@[simp] theorem State.takeId_weights (s : State) : (s.takeId).weights = s.weights := rfl
@[simp] theorem State.takeId_wepoch (s : State) : (s.takeId).wepoch = s.wepoch := rfl
@[simp] theorem State.takeId_binds (s : State) : (s.takeId).binds = s.binds := rfl
@[simp] theorem State.takeId_recQ (s : State) : (s.takeId).recQ = s.recQ := rfl
@[simp] theorem State.takeId_recOpen (s : State) : (s.takeId).recOpen = s.recOpen := rfl
@[simp] theorem State.takeId_recSeq (s : State) : (s.takeId).recSeq = s.recSeq := rfl
@[simp] theorem State.takeId_elapsed (s : State) : (s.takeId).elapsed = s.elapsed := rfl
@[simp] theorem State.takeId_defects (s : State) : (s.takeId).defects = s.defects := rfl
@[simp] theorem State.takeId_stagedPick (s : State) : (s.takeId).stagedPick = s.stagedPick := rfl
@[simp] theorem State.takeId_tidOrder (s : State) : (s.takeId).tidOrder = s.tidOrder := rfl
@[simp] theorem State.takeId_placePick (s : State) : (s.takeId).placePick = s.placePick := rfl
@[simp] theorem State.takeId_gridSeq (s : State) : (s.takeId).gridSeq = s.gridSeq := rfl
@[simp] theorem State.takeId_groups (s : State) : (s.takeId).groups = s.groups := rfl
@[simp] theorem State.takeId_arrivals (s : State) : (s.takeId).arrivals = s.arrivals := rfl
@[simp] theorem State.takeId_cmd (s : State) : (s.takeId).cmd = s.cmd := rfl
@[simp] theorem State.takeId_fab (s : State) : (s.takeId).fab = s.fab := rfl
@[simp] theorem State.takeId_pol (s : State) : (s.takeId).pol = s.pol := rfl
@[simp] theorem State.takeId_sec (s : State) : (s.takeId).sec = s.sec := rfl
@[simp] theorem State.takeId_pwr (s : State) : (s.takeId).pwr = s.pwr := rfl
@[simp] theorem State.takeId_issuer (s : State) : (s.takeId).issuer = s.issuer := rfl
@[simp] theorem State.takeId_withheld (s : State) : (s.takeId).withheld = s.withheld := rfl
@[simp] theorem State.takeId_agenda (s : State) : (s.takeId).agenda = s.agenda := rfl
@[simp] theorem State.takeId_cursor (s : State) : (s.takeId).cursor = s.cursor := rfl
@[simp] theorem State.takeId_fresh (s : State) : (s.takeId).fresh = s.fresh := rfl

/-! ### State.stall -/

@[simp] theorem State.stall_cores (s : State) : (s.stall).cores = s.cores := rfl
@[simp] theorem State.stall_grids (s : State) : (s.stall).grids = s.grids := rfl
@[simp] theorem State.stall_wgs (s : State) : (s.stall).wgs = s.wgs := rfl
@[simp] theorem State.stall_ctxs (s : State) : (s.stall).ctxs = s.ctxs := rfl
@[simp] theorem State.stall_parts (s : State) : (s.stall).parts = s.parts := rfl
@[simp] theorem State.stall_plots (s : State) : (s.stall).plots = s.plots := rfl
@[simp] theorem State.stall_hbm (s : State) : (s.stall).hbm = s.hbm := rfl
@[simp] theorem State.stall_lineKeys (s : State) : (s.stall).lineKeys = s.lineKeys := rfl
@[simp] theorem State.stall_hostMem (s : State) : (s.stall).hostMem = s.hostMem := rfl
@[simp] theorem State.stall_dir (s : State) : (s.stall).dir = s.dir := rfl
@[simp] theorem State.stall_remotes (s : State) : (s.stall).remotes = s.remotes := rfl
@[simp] theorem State.stall_hostReqs (s : State) : (s.stall).hostReqs = s.hostReqs := rfl
@[simp] theorem State.stall_mcasts (s : State) : (s.stall).mcasts = s.mcasts := rfl
@[simp] theorem State.stall_fabOps (s : State) : (s.stall).fabOps = s.fabOps := rfl
@[simp] theorem State.stall_tier (s : State) : (s.stall).tier = s.tier := rfl
@[simp] theorem State.stall_counters (s : State) : (s.stall).counters = s.counters := rfl
@[simp] theorem State.stall_meters (s : State) : (s.stall).meters = s.meters := rfl
@[simp] theorem State.stall_weights (s : State) : (s.stall).weights = s.weights := rfl
@[simp] theorem State.stall_wepoch (s : State) : (s.stall).wepoch = s.wepoch := rfl
@[simp] theorem State.stall_binds (s : State) : (s.stall).binds = s.binds := rfl
@[simp] theorem State.stall_recQ (s : State) : (s.stall).recQ = s.recQ := rfl
@[simp] theorem State.stall_recOpen (s : State) : (s.stall).recOpen = s.recOpen := rfl
@[simp] theorem State.stall_recSeq (s : State) : (s.stall).recSeq = s.recSeq := rfl
@[simp] theorem State.stall_elapsed (s : State) : (s.stall).elapsed = s.elapsed := rfl
@[simp] theorem State.stall_defects (s : State) : (s.stall).defects = s.defects := rfl
@[simp] theorem State.stall_stagedPick (s : State) : (s.stall).stagedPick = s.stagedPick := rfl
@[simp] theorem State.stall_tidOrder (s : State) : (s.stall).tidOrder = s.tidOrder := rfl
@[simp] theorem State.stall_placePick (s : State) : (s.stall).placePick = s.placePick := rfl
@[simp] theorem State.stall_gridSeq (s : State) : (s.stall).gridSeq = s.gridSeq := rfl
@[simp] theorem State.stall_groups (s : State) : (s.stall).groups = s.groups := rfl
@[simp] theorem State.stall_arrivals (s : State) : (s.stall).arrivals = s.arrivals := rfl
@[simp] theorem State.stall_cmd (s : State) : (s.stall).cmd = s.cmd := rfl
@[simp] theorem State.stall_fab (s : State) : (s.stall).fab = s.fab := rfl
@[simp] theorem State.stall_pol (s : State) : (s.stall).pol = s.pol := rfl
@[simp] theorem State.stall_sec (s : State) : (s.stall).sec = s.sec := rfl
@[simp] theorem State.stall_pwr (s : State) : (s.stall).pwr = s.pwr := rfl
@[simp] theorem State.stall_withheld (s : State) : (s.stall).withheld = s.withheld := rfl
@[simp] theorem State.stall_agenda (s : State) : (s.stall).agenda = s.agenda := rfl
@[simp] theorem State.stall_cursor (s : State) : (s.stall).cursor = s.cursor := rfl
@[simp] theorem State.stall_fresh (s : State) : (s.stall).fresh = s.fresh := rfl
@[simp] theorem State.stall_nextId (s : State) : (s.stall).nextId = s.nextId := rfl

/-! ### Core.setWarp -/

@[simp] theorem Core.setWarp_carve (k : Core) (slot : Nat) (w : Warp) : (k.setWarp slot w).carve = k.carve := rfl
@[simp] theorem Core.setWarp_carveTo (k : Core) (slot : Nat) (w : Warp) : (k.setWarp slot w).carveTo = k.carveTo := rfl
@[simp] theorem Core.setWarp_wcb (k : Core) (slot : Nat) (w : Warp) : (k.setWarp slot w).wcb = k.wcb := rfl
@[simp] theorem Core.setWarp_epoch (k : Core) (slot : Nat) (w : Warp) : (k.setWarp slot w).epoch = k.epoch := rfl
@[simp] theorem Core.setWarp_drains (k : Core) (slot : Nat) (w : Warp) : (k.setWarp slot w).drains = k.drains := rfl
@[simp] theorem Core.setWarp_l1 (k : Core) (slot : Nat) (w : Warp) : (k.setWarp slot w).l1 = k.l1 := rfl
@[simp] theorem Core.setWarp_scratch (k : Core) (slot : Nat) (w : Warp) : (k.setWarp slot w).scratch = k.scratch := rfl
@[simp] theorem Core.setWarp_scrBad (k : Core) (slot : Nat) (w : Warp) : (k.setWarp slot w).scrBad = k.scrBad := rfl
@[simp] theorem Core.setWarp_allocs (k : Core) (slot : Nat) (w : Warp) : (k.setWarp slot w).allocs = k.allocs := rfl
@[simp] theorem Core.setWarp_gen (k : Core) (slot : Nat) (w : Warp) : (k.setWarp slot w).gen = k.gen := rfl
@[simp] theorem Core.setWarp_tlb (k : Core) (slot : Nat) (w : Warp) : (k.setWarp slot w).tlb = k.tlb := rfl
@[simp] theorem Core.setWarp_loadsPending (k : Core) (slot : Nat) (w : Warp) : (k.setWarp slot w).loadsPending = k.loadsPending := rfl
@[simp] theorem Core.setWarp_storesPending (k : Core) (slot : Nat) (w : Warp) : (k.setWarp slot w).storesPending = k.storesPending := rfl
@[simp] theorem Core.setWarp_memQ (k : Core) (slot : Nat) (w : Warp) : (k.setWarp slot w).memQ = k.memQ := rfl
@[simp] theorem Core.setWarp_copyQ (k : Core) (slot : Nat) (w : Warp) : (k.setWarp slot w).copyQ = k.copyQ := rfl
@[simp] theorem Core.setWarp_matQ (k : Core) (slot : Nat) (w : Warp) : (k.setWarp slot w).matQ = k.matQ := rfl
@[simp] theorem Core.setWarp_hold (k : Core) (slot : Nat) (w : Warp) : (k.setWarp slot w).hold = k.hold := rfl
@[simp] theorem Core.setWarp_fence (k : Core) (slot : Nat) (w : Warp) : (k.setWarp slot w).fence = k.fence := rfl
@[simp] theorem Core.setWarp_acc (k : Core) (slot : Nat) (w : Warp) : (k.setWarp slot w).acc = k.acc := rfl
@[simp] theorem Core.setWarp_accBad (k : Core) (slot : Nat) (w : Warp) : (k.setWarp slot w).accBad = k.accBad := rfl
@[simp] theorem Core.setWarp_accStatus (k : Core) (slot : Nat) (w : Warp) : (k.setWarp slot w).accStatus = k.accStatus := rfl
@[simp] theorem Core.setWarp_accOwner (k : Core) (slot : Nat) (w : Warp) : (k.setWarp slot w).accOwner = k.accOwner := rfl
@[simp] theorem Core.setWarp_accReleasing (k : Core) (slot : Nat) (w : Warp) : (k.setWarp slot w).accReleasing = k.accReleasing := rfl
@[simp] theorem Core.setWarp_accPrev (k : Core) (slot : Nat) (w : Warp) : (k.setWarp slot w).accPrev = k.accPrev := rfl
@[simp] theorem Core.setWarp_staged (k : Core) (slot : Nat) (w : Warp) : (k.setWarp slot w).staged = k.staged := rfl
@[simp] theorem Core.setWarp_streamQ (k : Core) (slot : Nat) (w : Warp) : (k.setWarp slot w).streamQ = k.streamQ := rfl
@[simp] theorem Core.setWarp_lchQ (k : Core) (slot : Nat) (w : Warp) : (k.setWarp slot w).lchQ = k.lchQ := rfl
@[simp] theorem Core.setWarp_prickings (k : Core) (slot : Nat) (w : Warp) : (k.setWarp slot w).prickings = k.prickings := rfl
@[simp] theorem Core.setWarp_rqry (k : Core) (slot : Nat) (w : Warp) : (k.setWarp slot w).rqry = k.rqry := rfl
@[simp] theorem Core.setWarp_stages (k : Core) (slot : Nat) (w : Warp) : (k.setWarp slot w).stages = k.stages := rfl
@[simp] theorem Core.setWarp_cooling (k : Core) (slot : Nat) (w : Warp) : (k.setWarp slot w).cooling = k.cooling := rfl
@[simp] theorem Core.setWarp_run (k : Core) (slot : Nat) (w : Warp) : (k.setWarp slot w).run = k.run := rfl
@[simp] theorem Core.setWarp_allow (k : Core) (slot : Nat) (w : Warp) : (k.setWarp slot w).allow = k.allow := rfl
@[simp] theorem Core.setWarp_floor (k : Core) (slot : Nat) (w : Warp) : (k.setWarp slot w).floor = k.floor := rfl
@[simp] theorem Core.setWarp_debit (k : Core) (slot : Nat) (w : Warp) : (k.setWarp slot w).debit = k.debit := rfl
@[simp] theorem Core.setWarp_clock (k : Core) (slot : Nat) (w : Warp) : (k.setWarp slot w).clock = k.clock := rfl

/-! ### What an update makes of the field it writes -/

@[simp] theorem State.core_setCore_same (s : State) (c : Nat) (k : Core) : (s.setCore c k).core c = k := by simp [State.core, State.setCore]

theorem State.core_setCore_other (s : State) {c d : Nat} (k : Core) (h : c ≠ d) : (s.setCore c k).core d = s.core d := by
  simp [State.core, State.setCore, mgetD_mset, h]

@[simp] theorem State.core_modCore_same (s : State) (c : Nat) (f : Core → Core) : (s.modCore c f).core c = f (s.core c) := by
  simp [State.modCore]

theorem State.core_modCore_other (s : State) {c d : Nat} (f : Core → Core) (h : c ≠ d) : (s.modCore c f).core d = s.core d :=
  s.core_setCore_other _ h

theorem State.warp?_modCore_other (s : State) {c d : Nat} (f : Core → Core) (slot : Nat) (h : c ≠ d) :
    (s.modCore c f).warp? d slot = s.warp? d slot := by simp [State.warp?, s.core_modCore_other f h]

@[simp] theorem Core.setWarp_same (k : Core) (slot : Nat) (w : Warp) : mget? (k.setWarp slot w).warps slot = some w := by
  simp [Core.setWarp]

theorem Core.setWarp_other (k : Core) {slot slot' : Nat} (w : Warp) (h : slot ≠ slot') : mget? (k.setWarp slot w).warps slot' = mget? k.warps slot' := by
  simp [Core.setWarp, mget?_mset, h]

/-- A change of a resident warp: that warp is changed. -/
theorem State.warp?_modWarp_same {s : State} {c slot : Nat} {w : Warp} (f : Warp → Warp) (h : s.warp? c slot = some w) :
    (s.modWarp c slot f).warp? c slot = some (f w) := by
  rw [State.modWarp, h]
  simp [State.warp?]

/-- A change of a warp leaves every other one alone. -/
theorem State.warp?_modWarp_other (s : State) {c slot d slot' : Nat} (f : Warp → Warp) (h : c ≠ d ∨ slot ≠ slot') :
    (s.modWarp c slot f).warp? d slot' = s.warp? d slot' := by
  unfold State.modWarp
  split
  · rename_i w hw
    by_cases hc : c = d
    · subst hc
      have hs : slot ≠ slot' := h.resolve_left (by simp)
      simp [State.warp?, Core.setWarp_other _ (f w) hs]
    · exact s.warp?_modCore_other _ _ hc
  · rfl

/-- A change of a warp changes nothing of a core but its warps. -/
theorem State.core_modWarp_warps (s : State) (c slot d : Nat) (f : Warp → Warp) :
    { (s.modWarp c slot f).core d with warps := [] } = { s.core d with warps := [] } := by
  unfold State.modWarp
  split
  · by_cases hc : c = d
    · subst hc; simp [Core.setWarp]
    · rw [s.core_modCore_other _ hc]
  · rfl

@[simp] theorem State.plot_modPlot_same (s : State) (p : Nat) (f : Plot → Plot) : (s.modPlot p f).plot p = f (s.plot p) := by
  simp [State.plot, State.modPlot]

theorem State.plot_modPlot_other (s : State) {p q : Nat} (f : Plot → Plot) (h : p ≠ q) : (s.modPlot p f).plot q = s.plot q := by
  simp [State.plot, State.modPlot, mgetD_mset, h]

theorem State.counter_count_same (s : State) (p : Nat) (k : Counter) (n : Nat) : (s.count p k n).counter p k = (s.counter p k + n) % 2 ^ 64 := by
  simp [State.counter, State.count]

@[simp] theorem State.pool_setPool_same (s : State) (part n : Nat) : (s.setPool part n).pool part = n := by simp [State.pool, State.setPool]

theorem State.pool_setPool_other (s : State) {p q : Nat} (n : Nat) (h : p ≠ q) : (s.setPool p n).pool q = s.pool q := by
  simp [State.pool, State.setPool, mgetD_mset, h]

theorem State.stream_setStream_same (s : State) (dev part : Nat) (x : Stream) : (s.setStream dev part x).stream dev part = x := by
  simp [State.stream, State.setStream]

theorem State.group_setGroup_same (s : State) (key : Nat) (g : Group) : (s.setGroup key g).group key = g := by
  simp [State.group, State.setGroup]

end Sys2Proof.Machine
end

