-- ==== Sys2Proof/Laws/Memory.lean ====
section
/-! SUPPORT. Laws of the physical memories: reads after writes under a key, what a write leaves alone, and that every operation on memory
keeps its canonical form. -/

namespace Sys2Proof.Machine

/-- Every memory of the device is in its canonical form. -/
def State.memWf (s : State) : Prop :=
  Memory.wf s.hbm = true ∧ Memory.wf s.hostMem = true ∧ ∀ e ∈ s.plots, Memory.wf e.2.mem = true

theorem State.memWf_reset : State.reset.memWf := ⟨rfl, rfl, fun _ h => nomatch h⟩

/-- A step that touches no memory keeps the canonical form. -/
theorem State.memWf_of_same {s t : State} (h : s.memWf) (h1 : t.hbm = s.hbm) (h2 : t.hostMem = s.hostMem) (h3 : t.plots = s.plots) : t.memWf := by
  unfold State.memWf; rw [h1, h2, h3]; exact h

/-- The memory of every plot, unlisted ones included, is in canonical form. -/
theorem State.memWf_plot {s : State} (h : s.memWf) (p : Nat) : Memory.wf (s.plot p).mem = true := by
  have : ∀ (m : NatMap Plot), (∀ e ∈ m, Memory.wf e.2.mem = true) → Memory.wf (mgetD m p Plot.initial).mem = true := by
    intro m
    induction m with
    | nil => intro _; rfl
    | cons e r ih =>
      intro hm
      obtain ⟨i, w⟩ := e
      unfold mgetD mget?
      split
      · exact hm (i, w) (by simp)
      · exact ih (fun e he => hm e (by simp [he]))
  exact this s.plots h.2.2

theorem State.memWf_modPlot {s : State} (p : Nat) (f : Plot → Plot) (h : s.memWf) (hf : Memory.wf (f (s.plot p)).mem = true) : (s.modPlot p f).memWf := by
  refine ⟨h.1, h.2.1, fun e he => ?_⟩
  rcases mem_mset he with rfl | he
  · exact hf
  · exact h.2.2 e he

theorem State.memWf_hbmClaim {s : State} (key line : Nat) (h : s.memWf) : (s.hbmClaim key line).memWf := by
  unfold State.hbmClaim
  split
  · exact h
  · split
    · exact h
    · exact ⟨Memory.wf_writeBytes _ _ h.1, h.2⟩

theorem State.memWf_hbmPut {s : State} (key a : Nat) (b : Byte) (h : s.memWf) : (s.hbmPut key a b).memWf :=
  ⟨Memory.wf_writeByte _ _ (s.memWf_hbmClaim key (a / 128) h).1, (s.memWf_hbmClaim key (a / 128) h).2⟩

theorem State.memWf_hbmWrite {s : State} (key a : Nat) (bs : List Byte) (h : s.memWf) : (s.hbmWrite key a bs).memWf := by
  induction bs generalizing s a with
  | nil => exact h
  | cons b r ih => exact ih (a + 1) (s.memWf_hbmPut key a b h)

theorem State.memWf_memWrite {s : State} (plot : Nat) (sp : Space) (key a : Nat) (bs : List Byte) (h : s.memWf) : (s.memWrite plot sp key a bs).memWf := by
  cases sp with
  | hbm => exact s.memWf_hbmWrite key a bs h
  | host => exact ⟨h.1, Memory.wf_writeBytes _ _ h.2.1, h.2.2⟩
  | plot => exact s.memWf_modPlot _ _ h (Memory.wf_writeBytes _ _ (s.memWf_plot h plot))
  | fabric => exact h
  | scratch => exact h

theorem State.memWf_zeroGranule {s : State} (g : Nat) (h : s.memWf) : (s.zeroGranule g).memWf := ⟨Memory.wf_filter _ h.1, h.2⟩

/-! ### One byte of HBM under a key -/

/-- What else a claim of a line leaves alone. -/
theorem State.hbmClaim_sec (s : State) (key line : Nat) : (s.hbmClaim key line).sec = s.sec := by
  unfold State.hbmClaim; split
  · rfl
  · split <;> rfl

@[simp] theorem State.hbmClaim_token (s : State) (key line k : Nat) : (s.hbmClaim key line).keyToken k = s.keyToken k := by
  simp [State.keyToken, s.hbmClaim_sec]

theorem State.hbmClaim_line (s : State) (key line : Nat) : mget? (s.hbmClaim key line).lineKeys line = some (s.keyToken key) := by
  unfold State.hbmClaim; split
  · simp
  · split
    · simp_all
    · simp

/-- A byte that has just been written under a key reads as written under that key. -/
theorem State.hbmByte_hbmPut_same (s : State) (key a : Nat) (b : Byte) : (s.hbmPut key a b).hbmByte key a = b := by
  unfold State.hbmPut State.hbmByte
  simp only [s.hbmClaim_line]
  rw [if_pos, readByte_writeByte, if_pos rfl]
  simp [State.keyToken, s.hbmClaim_sec]

/-- Bytes read where no written one stands. -/
theorem readBytes_congr (m m' : List Host.Cell) (a n : Nat) (h : ∀ x, a ≤ x → x < a + n → readByte m x = readByte m' x) : readBytes m a n = readBytes m' a n := by
  induction n generalizing a with
  | zero => rfl
  | succ n ih => rw [readBytes, readBytes, h a (by omega) (by omega), ih (a + 1) (fun x h1 h2 => h x (by omega) (by omega))]

/-- A write leaves every byte of another line alone, under every key. -/
theorem State.hbmByte_hbmPut_line (s : State) (key a k a' : Nat) (b : Byte) (h : a / 128 ≠ a' / 128) : (s.hbmPut key a b).hbmByte k a' = s.hbmByte k a' := by
  have hc : mget? (s.hbmClaim key (a / 128)).lineKeys (a' / 128) = mget? s.lineKeys (a' / 128) := by
    unfold State.hbmClaim; split
    · simp [mget?_mset, h]
    · split
      · rfl
      · simp [mget?_mset, h]
  have hr : ∀ x, x / 128 = a' / 128 → readByte (s.hbmClaim key (a / 128)).hbm x = readByte s.hbm x := by
    intro x hx; unfold State.hbmClaim; split
    · rfl
    · split
      · rfl
      · refine readByte_writeBytes_outside _ _ _ _ ?_
        have hl : (s.hbmRead key (a / 128 * 128) 128).length = 128 := by
          have : ∀ n k, (s.hbmRead key k n).length = n := by
            intro n; induction n with
            | zero => intro _; rfl
            | succ n ih => intro k; simp [State.hbmRead, ih]
          exact this 128 _
        rw [hl]; omega
  have ht : (s.hbmPut key a b).keyToken k = s.keyToken k := by simp [State.hbmPut, State.keyToken, s.hbmClaim_sec]
  have hp : ∀ x, x / 128 = a' / 128 → readByte (s.hbmPut key a b).hbm x = readByte s.hbm x := fun x hx => by
    simp only [State.hbmPut, readByte_writeByte]
    rw [if_neg (by rintro rfl; exact h hx), hr x hx]
  unfold State.hbmByte
  rw [ht, hp a' rfl, readBytes_congr _ s.hbm (a' / 16 * 16) 16 (fun x _ _ => hp x (by omega))]
  simp only [State.hbmPut, hc]

/-- The bytes that a write stores, read again under the same key. -/
theorem State.hbmRead_length (s : State) (key a n : Nat) : (s.hbmRead key a n).length = n := by
  induction n generalizing a with
  | zero => rfl
  | succ n ih => simp [State.hbmRead, ih]

@[simp] theorem State.memRead_length_hbm (s : State) (plot key a n : Nat) : (s.memRead plot .hbm key a n).length = n := s.hbmRead_length key a n

/-- Host memory reads as written. -/
theorem State.memRead_memWrite_host (s : State) (plot key a : Nat) (bs : List Byte) : (s.memWrite plot .host key a bs).memRead plot .host key a bs.length = bs :=
  readBytes_writeBytes _ _ _

/-- The memory of a plot reads as written. -/
theorem State.memRead_memWrite_plot (s : State) (plot key a : Nat) (bs : List Byte) : (s.memWrite plot .plot key a bs).memRead plot .plot key a bs.length = bs := by
  simp only [State.memRead, State.memWrite, State.plot_modPlot_same]
  exact readBytes_writeBytes _ _ _

/-- A put under the key that a line already has leaves the other bytes of the line, and the line's token, alone. -/
theorem State.hbmPut_other (s : State) (key a a' : Nat) (b : Byte) (h : mget? s.lineKeys (a' / 128) = some (s.keyToken key)) (ha : a ≠ a') :
    mget? (s.hbmPut key a b).lineKeys (a' / 128) = some ((s.hbmPut key a b).keyToken key) ∧ (s.hbmPut key a b).hbmByte key a' = s.hbmByte key a' := by
  have ht : (s.hbmPut key a b).keyToken key = s.keyToken key := by simp [State.hbmPut, State.keyToken, s.hbmClaim_sec]
  by_cases hl : a / 128 = a' / 128
  · have hc : s.hbmClaim key (a / 128) = s := by simp [State.hbmClaim, hl, h]
    have hp : s.hbmPut key a b = { s with hbm := writeByte s.hbm a b } := by simp [State.hbmPut, hc]
    refine ⟨by rw [ht, hp]; exact h, ?_⟩
    unfold State.hbmByte
    rw [ht, hp, h]
    simp [readByte_writeByte, if_neg ha]
  · refine ⟨?_, s.hbmByte_hbmPut_line key a key a' b hl⟩
    rw [ht, ← h]
    simp only [State.hbmPut]
    unfold State.hbmClaim; split
    · simp [mget?_mset, hl]
    · split
      · rfl
      · simp [mget?_mset, hl]

/-- A write of HBM leaves the security engine as it is. -/
theorem State.hbmWrite_sec (s : State) (key a : Nat) (bs : List Byte) : (s.hbmWrite key a bs).sec = s.sec := by
  induction bs generalizing s a with
  | nil => rfl
  | cons b bs ih => rw [State.hbmWrite, ih, State.hbmPut]; exact s.hbmClaim_sec key (a / 128)

theorem State.hbmByte_hbmWrite_before (s : State) (key a a' : Nat) (bs : List Byte) (h : mget? s.lineKeys (a' / 128) = some (s.keyToken key)) (ha : a' < a) :
    (s.hbmWrite key a bs).hbmByte key a' = s.hbmByte key a' := by
  induction bs generalizing s a with
  | nil => rfl
  | cons b r ih =>
    have hp := s.hbmPut_other key a a' b h (by omega)
    rw [State.hbmWrite, ih _ (a + 1) hp.1 (by omega), hp.2]

/-- HBM bytes read under the key they were written under are the bytes written (R461). -/
theorem State.hbmRead_hbmWrite (s : State) (key a : Nat) (bs : List Byte) : (s.hbmWrite key a bs).hbmRead key a bs.length = bs := by
  induction bs generalizing s a with
  | nil => rfl
  | cons b r ih =>
    rw [State.hbmWrite, List.length_cons, State.hbmRead, ih, State.hbmByte_hbmWrite_before _ _ _ _ _ _ (by omega), s.hbmByte_hbmPut_same]
    have := s.hbmClaim_line key (a / 128)
    simp only [State.hbmPut, State.keyToken, s.hbmClaim_sec] at this ⊢
    exact this

/-- A write to HBM leaves every byte of the lines that it does not touch alone, under every key. -/
theorem State.hbmByte_hbmWrite_outside (s : State) (key a k a' : Nat) (bs : List Byte) (h : ∀ i, i < bs.length → (a + i) / 128 ≠ a' / 128) :
    (s.hbmWrite key a bs).hbmByte k a' = s.hbmByte k a' := by
  induction bs generalizing s a with
  | nil => rfl
  | cons b r ih =>
    rw [State.hbmWrite, ih _ _ (fun i hi => by have := h (i + 1) (by simpa using hi); rwa [show a + 1 + i = a + (i + 1) by omega]),
      s.hbmByte_hbmPut_line key a k a' b (h 0 (by simp))]

/-- A read at the coherence point after a write of the same bytes. -/
theorem State.memRead_memWrite_hbm (s : State) (plot key a : Nat) (bs : List Byte) : (s.memWrite plot .hbm key a bs).memRead plot .hbm key a bs.length = bs :=
  s.hbmRead_hbmWrite key a bs

/-! ### The scratchpad of a core -/

theorem Core.word_setWord (k : Core) (n m : Nat) (v : Word) : (k.setWord n v).word m = if n = m then v else k.word m := by
  simp [Core.word, Core.setWord, mgetD_mput]

@[simp] theorem Core.setWord_acc (k : Core) (n : Nat) (v : Word) : (k.setWord n v).acc = k.acc := rfl

@[simp] theorem Core.setWord_warps (k : Core) (n : Nat) (v : Word) : (k.setWord n v).warps = k.warps := rfl

end Sys2Proof.Machine
end

