-- ==== Sys2Proof/Laws/Ops.lean ====
section
/-! SUPPORT. Laws of the shared operations of an issue: what each can answer, and that the ways in which an issue ends touch no
memory. -/

namespace Sys2Proof.Machine

/-! ### The shared operations of the instructions -/

/-- An encoded instruction answers the next state that its meaning gives the issuer. -/
theorem withIss_eq {s : State} {c : Iss} (k : Iss → State) (h : s.iss = some c) : withIss s k = .next (k c) := by
  simp [withIss, h]

/-- An encoded instruction stops only where no issuer is resident. -/
theorem withIss_cases (s : State) (k : Iss → State) :
    (∃ c, s.iss = some c ∧ withIss s k = .next (k c)) ∨ (s.iss = none ∧ withIss s k = .fault .noIssuer) := by
  cases h : s.iss with
  | none => exact .inr ⟨rfl, by simp [withIss, h]⟩
  | some c => exact .inl ⟨c, rfl, withIss_eq k h⟩

/-- A synchronous register instruction whose operands are in order writes its effects and finishes. -/
theorem aluStep_clear {s : State} {c : Iss} {sp : AluSpec} (f : AluIn → AluOut) (h : s.iss = some c) (hc : sp.Clear s c) :
    aluStep sp f s = .next (((s.effsBy c (sp.effects c f)).vop c (c.exec sp.g).length).finish c sp.pdst.toList) := by
  obtain ⟨h1, h2, h3, h4⟩ := hc
  simp [aluStep, withIss_eq _ h, aluState, h1, h2, h3, h4]

/-- All that a synchronous register instruction can do: take a decode trap, stall, take the trap of a write to the share or of an uncorrectable
error, or write its effects and finish. -/
theorem aluStep_cases {s : State} {c : Iss} (sp : AluSpec) (f : AluIn → AluOut) (h : s.iss = some c) :
    (∃ e, sp.cause c = some e ∧ aluStep sp f s = .next (s.decodeTrap c e)) ∨ aluStep sp f s = .next s.stall ∨
    aluStep sp f s = .next (s.takeTrap c .sharedWrite 0) ∨ aluStep sp f s = .next (s.takeTrap c .eccUncorrectable 0) ∨
    aluStep sp f s = .next (((s.effsBy c (sp.effects c f)).vop c (c.exec sp.g).length).finish c sp.pdst.toList) := by
  rw [aluStep, withIss_eq _ h, aluState]
  cases hc : sp.cause c with
  | some e => exact .inl ⟨e, rfl, rfl⟩
  | none =>
    refine .inr ?_
    dsimp only
    split
    · exact .inl rfl
    · split
      · exact .inr (.inl rfl)
      · split
        · exact .inr (.inr (.inl rfl))
        · exact .inr (.inr (.inr rfl))

/-- A sequencer instruction whose operands are in order does what its meaning says. -/
theorem seqOps_clear {s : State} {c : Iss} (inHelper : Bool) (tids : Iss → List Nat) (srcs : List (Opnd × Nat)) (dst : Option (Opnd × Nat))
    (k : Iss → State) (h : s.iss = some c) (hc : SeqClear s c inHelper (tids c) srcs dst) : seqOps s inHelper tids srcs dst k = .next (k c) := by
  obtain ⟨h1, h2, h3, h4, h5, h6⟩ := hc
  rw [seqOps, withIss_eq _ h]
  have h1' : (c.hel.isSome && !inHelper) = false := by
    cases hi : c.hel.isSome
    · rfl
    · simp [h1 hi]
  rw [if_neg (by simp [h1'])]
  simp only [h2]
  cases dst with
  | none => simp only [h4, h5, h6, Bool.or_false, Bool.false_eq_true, if_false]
  | some d => simp only [h3 d rfl, h4, h5, h6, Bool.or_false, Bool.false_eq_true, if_false]

/-- A memory instruction whose operands are in order and whose engine has room goes on to its accesses, with the guards that are still
being written. -/
theorem memPrologue_clear {s : State} {c : Iss} {m : MemSpec} (k : List Nat → State) (hc : m.Clear s c) :
    memPrologue m s c k = k (if m.g then s.pendingGuards c c.tids else []) := by
  obtain ⟨h1, h2, h3, h4, h5, h6, h7, h8, h9, h10⟩ := hc
  have h1' : (c.hel.isSome && !m.inHelper) = false := by
    cases hi : c.hel.isSome
    · rfl
    · simp [h1 hi]
  have h8' : ∀ cl, m.cls = some cl → decide (cl.max ≤ c.counterOf cl) = false := fun cl h => by
    have := h8 cl h
    simp; omega
  unfold memPrologue
  dsimp only
  rw [if_neg (by simp [h1'])]
  simp only [h2]
  cases hd : m.dst with
  | none => cases hcl : m.cls <;> simp_all
  | some d => cases hcl : m.cls <;> simp_all

/-! ### What leaves the memories alone -/

/-- No memory of the device, and nothing that says how HBM reads, has changed. -/
def State.SameStores (s t : State) : Prop :=
  t.hbm = s.hbm ∧ t.hostMem = s.hostMem ∧ t.plots = s.plots ∧ t.lineKeys = s.lineKeys ∧ t.sec.keys = s.sec.keys

theorem State.SameStores.refl (s : State) : s.SameStores s := ⟨rfl, rfl, rfl, rfl, rfl⟩

theorem State.SameStores.trans {s t u : State} (h1 : s.SameStores t) (h2 : t.SameStores u) : s.SameStores u := by
  obtain ⟨a, b, c, d, e⟩ := h1
  obtain ⟨a', b', c', d', e'⟩ := h2
  exact ⟨a'.trans a, b'.trans b, c'.trans c, d'.trans d, e'.trans e⟩

theorem State.SameStores.memWf {s t : State} (h : s.SameStores t) (hs : s.memWf) : t.memWf := State.memWf_of_same hs h.1 h.2.1 h.2.2.1

theorem State.SameStores.hbmRead {s t : State} (h : s.SameStores t) (key a n : Nat) : t.hbmRead key a n = s.hbmRead key a n := by
  induction n generalizing a with
  | zero => rfl
  | succ n ih =>
    rw [State.hbmRead, State.hbmRead, ih]
    have hk : t.keyToken = s.keyToken := by funext k; simp only [State.keyToken, h.2.2.2.2]
    simp only [State.hbmByte, hk, h.1, h.2.2.2.1]

/-- Every read gives what it gave before. -/
theorem State.SameStores.memRead {s t : State} (h : s.SameStores t) (plot : Nat) (sp : Space) (key a n : Nat) :
    t.memRead plot sp key a n = s.memRead plot sp key a n := by
  cases sp with
  | hbm => exact h.hbmRead key a n
  | host => simp only [State.memRead, h.2.1]
  | plot => simp only [State.memRead, State.plot, h.2.2.1]
  | fabric => rfl
  | scratch => rfl

theorem State.sameStores_modCore (s : State) (c : Nat) (f : Core → Core) : s.SameStores (s.modCore c f) := ⟨rfl, rfl, rfl, rfl, rfl⟩

theorem State.sameStores_modWarp (s : State) (c slot : Nat) (f : Warp → Warp) : s.SameStores (s.modWarp c slot f) := by
  simp [State.SameStores]

theorem State.sameStores_modWg (s : State) (g : Nat) (f : Workgroup → Workgroup) : s.SameStores (s.modWg g f) := by simp [State.SameStores]

theorem State.sameStores_modCtx (s : State) (x : Nat) (f : Context → Context) : s.SameStores (s.modCtx x f) := by simp [State.SameStores]

theorem State.sameStores_modHelper (s : State) (core slot lane : Nat) (f : Helper → Helper) : s.SameStores (s.modHelper core slot lane f) :=
  ⟨rfl, rfl, rfl, rfl, rfl⟩

theorem State.sameStores_modSplit (s : State) (c : Iss) (f : Split → Split) : s.SameStores (s.modSplit c f) := by
  unfold State.modSplit; split
  · exact s.sameStores_modWarp _ _ _
  · exact .refl s

theorem State.sameStores_stall (s : State) : s.SameStores s.stall := ⟨rfl, rfl, rfl, rfl, rfl⟩

theorem State.sameStores_count (s : State) (p : Nat) (k : Counter) (n : Nat) : s.SameStores (s.count p k n) := ⟨rfl, rfl, rfl, rfl, rfl⟩

theorem State.sameStores_meterAt (s : State) (c : Nat) (m : Meter) (n : Nat) : s.SameStores (s.meterAt c m n) := by simp [State.SameStores]

theorem State.sameStores_vop (s : State) (c : Iss) (n : Nat) : s.SameStores (s.vop c n) := s.sameStores_meterAt _ _ _

theorem State.sameStores_effs (s : State) (core slot : Nat) (who : Who) (es : List Eff) : s.SameStores (s.effs core slot who es) := by
  unfold State.effs; split
  · exact s.sameStores_modWarp _ _ _
  · exact s.sameStores_modHelper _ _ _ _

theorem State.sameStores_coolAt (s : State) (core slot after : Nat) (ls : List (RegLoc × Nat)) : s.SameStores (s.coolAt core slot after ls) := by
  unfold State.coolAt; split
  · exact .refl s
  · exact s.sameStores_modCore _ _

theorem State.sameStores_cool (s : State) (c : Iss) (resumed : Bool) (ls : List (RegLoc × Nat)) : s.SameStores (s.cool c resumed ls) :=
  s.sameStores_coolAt _ _ _ _

theorem State.sameStores_coolFlags (s : State) (c : Iss) (resumed : Bool) : s.SameStores (s.coolFlags c resumed) := by
  unfold State.coolFlags; split
  · exact s.sameStores_cool _ _ _
  · exact .refl s

theorem State.sameStores_effsBy (s : State) (c : Iss) (es : List Eff) : s.SameStores (s.effsBy c es) :=
  (s.sameStores_effs _ _ _ _).trans (State.sameStores_cool _ _ _ _)

theorem State.sameStores_spend (s : State) (c : Iss) (leased : Bool) (n : Nat) : s.SameStores (s.spend c leased n) := by
  have h : ∀ (t : State) (g : Workgroup → Workgroup), s.SameStores t → s.SameStores (t.modWg c.w.wg g) :=
    fun t g ht => ht.trans (t.sameStores_modWg _ _)
  unfold State.spend
  dsimp only
  split
  · exact (h _ _ (by simp [State.SameStores])).trans (State.sameStores_modCtx _ _ _)
  · exact h _ _ (by simp [State.SameStores])

theorem State.sameStores_charge (s : State) (c : Iss) (ps : List Nat) : s.SameStores (s.charge c ps) := by
  unfold State.charge
  split
  · exact .refl s
  · dsimp only
    split
    · exact ((((s.sameStores_modCore _ _).trans (State.sameStores_coolFlags _ _ _)).trans (State.sameStores_modWarp _ _ _ _)).trans
        (State.sameStores_spend _ _ _ _)).trans (State.sameStores_modSplit _ _ _)
    · exact ((((s.sameStores_modCore _ _).trans (State.sameStores_coolFlags _ _ _)).trans (State.sameStores_modWarp _ _ _ _)).trans
        (State.sameStores_spend _ _ _ _)).trans (State.sameStores_modHelper _ _ _ _ _)

theorem State.sameStores_retire (s : State) (c : Iss) (ps : List Nat) : s.SameStores (s.retire c ps) := by
  unfold State.retire
  dsimp only
  split
  · exact (s.sameStores_charge c ps).trans (State.sameStores_modWarp _ _ _ _)
  · exact s.sameStores_charge c ps

theorem State.sameStores_wake (s : State) (c : Iss) : s.SameStores (s.wake c) := by
  unfold State.wake; split
  · exact s.sameStores_modSplit _ _
  · exact s.sameStores_modHelper _ _ _ _

theorem State.sameStores_stepPc (s : State) (c : Iss) : s.SameStores (s.stepPc c) := by
  unfold State.stepPc; split
  · exact s.sameStores_modWarp _ _ _
  · exact s.sameStores_modHelper _ _ _ _

theorem State.sameStores_setPc (s : State) (c : Iss) (pc : DWord) : s.SameStores (s.setPc c pc) := by
  unfold State.setPc; split
  · exact s.sameStores_modWarp _ _ _
  · exact s.sameStores_modHelper _ _ _ _

/-- The ordinary end of an instruction touches no memory. -/
theorem State.sameStores_finish (s : State) (c : Iss) (ps : List Nat) : s.SameStores (s.finish c ps) :=
  ((s.sameStores_retire c ps).trans (State.sameStores_wake _ c)).trans (State.sameStores_stepPc _ c)

/-- Parking touches no memory. -/
theorem State.sameStores_park (s : State) (c : Iss) (w : Wait) : s.SameStores (s.park c w) := by
  unfold State.park
  dsimp only
  split
  · exact (s.sameStores_charge c []).trans (State.sameStores_modSplit _ _ _)
  · exact (s.sameStores_charge c []).trans (State.sameStores_modHelper _ _ _ _ _)

theorem State.sameStores_await (s : State) (c : Iss) (n : Nat) : s.SameStores (s.await c n) := by
  unfold State.await; split
  · exact s.sameStores_stall
  · exact s.sameStores_park c _

theorem State.sameStores_setReserve (s : State) (c : Iss) (r : Option (TimingClass × Nat)) : s.SameStores (s.setReserve c r) := by
  unfold State.setReserve; split
  · exact s.sameStores_modSplit _ _
  · exact s.sameStores_modHelper _ _ _ _

/-- A return from an exception touches no memory. -/
theorem State.sameStores_returnTrap (s : State) (c : Iss) : s.SameStores (s.returnTrap c) :=
  ((((s.sameStores_retire c []).trans (State.sameStores_modWarp _ _ _ _)).trans (State.sameStores_setReserve _ _ _)).trans
    (State.sameStores_setPc _ _ _)).trans (State.sameStores_wake _ c)

/-- A helper fault touches no memory. -/
theorem State.sameStores_helperFault (s : State) (core slot lane inner : Nat) : s.SameStores (s.helperFault core slot lane inner) :=
  ⟨rfl, rfl, rfl, rfl, rfl⟩

/-- Taking an exception at the handler (R157): outside trap state, with a trap base, and not for an uncorrectable error, no record is
written and no memory is touched. -/
theorem State.sameStores_enterTrap {s : State} {c : Iss} (cause : Cause) (info : Nat) (pc : DWord) (addr : Nat) (h1 : c.w.trap = none)
    (h2 : s.trapBase c ≠ 0) (h3 : cause ≠ .eccUncorrectable) : s.SameStores (s.enterTrap c cause info pc addr) := by
  unfold State.enterTrap
  split
  · exact s.sameStores_helperFault _ _ _ _
  · dsimp only
    rw [if_neg h3, h1]
    dsimp only
    cases hx : s.ctxOf c.w with
    | none => exact absurd (by simp [State.trapBase, hx]) h2
    | some x =>
      have hb : x.trapbase ≠ 0 := by simpa [State.trapBase, hx] using h2
      dsimp only
      rw [if_neg hb]
      exact (((s.sameStores_modWarp _ _ _).trans (State.sameStores_modWarp _ _ _ _)).trans (State.sameStores_setPc _ _ _)).trans
        (State.sameStores_wake _ c)

/-! ### What an issue leaves alone of the other cores -/

/-- Every core but one is as before. -/
def State.SameOthers (s t : State) (core : Nat) : Prop := ∀ d, d ≠ core → t.core d = s.core d

theorem State.SameOthers.refl (s : State) (core : Nat) : s.SameOthers s core := fun _ _ => rfl

theorem State.SameOthers.trans {s t u : State} {core : Nat} (h1 : s.SameOthers t core) (h2 : t.SameOthers u core) : s.SameOthers u core :=
  fun d hd => (h2 d hd).trans (h1 d hd)

theorem State.sameOthers_of_cores {s t : State} (core : Nat) (h : t.cores = s.cores) : s.SameOthers t core := fun d _ => by simp [State.core, h]

theorem State.sameOthers_modCore (s : State) (c : Nat) (f : Core → Core) : s.SameOthers (s.modCore c f) c :=
  fun _ hd => s.core_modCore_other f (Ne.symm hd)

theorem State.sameOthers_modWarp (s : State) (c slot : Nat) (f : Warp → Warp) : s.SameOthers (s.modWarp c slot f) c := by
  unfold State.modWarp; split
  · exact s.sameOthers_modCore c _
  · exact .refl s c

theorem State.sameOthers_modSplit (s : State) (c : Iss) (f : Split → Split) : s.SameOthers (s.modSplit c f) c.core := by
  unfold State.modSplit; split
  · exact s.sameOthers_modWarp _ _ _
  · exact .refl s _

theorem State.sameOthers_modHelper (s : State) (core slot lane : Nat) (f : Helper → Helper) : s.SameOthers (s.modHelper core slot lane f) core :=
  s.sameOthers_modCore core _

theorem State.sameOthers_spend (s : State) (c : Iss) (leased : Bool) (n : Nat) : s.SameOthers (s.spend c leased n) c.core := by
  apply State.sameOthers_of_cores
  unfold State.spend
  dsimp only
  split <;> simp

theorem State.sameOthers_coolFlags (s : State) (c : Iss) (resumed : Bool) : s.SameOthers (s.coolFlags c resumed) c.core := by
  unfold State.coolFlags State.cool State.coolAt; split
  · split
    · exact .refl s _
    · exact s.sameOthers_modCore _ _
  · exact .refl s _

theorem State.sameOthers_charge (s : State) (c : Iss) (ps : List Nat) : s.SameOthers (s.charge c ps) c.core := by
  unfold State.charge
  split
  · exact .refl s _
  · dsimp only
    split
    · exact ((((s.sameOthers_modCore _ _).trans (State.sameOthers_coolFlags _ _ _)).trans (State.sameOthers_modWarp _ _ _ _)).trans
        (State.sameOthers_spend _ _ _ _)).trans (State.sameOthers_modSplit _ _ _)
    · exact ((((s.sameOthers_modCore _ _).trans (State.sameOthers_coolFlags _ _ _)).trans (State.sameOthers_modWarp _ _ _ _)).trans
        (State.sameOthers_spend _ _ _ _)).trans (State.sameOthers_modHelper _ _ _ _ _)

theorem State.sameOthers_finish (s : State) (c : Iss) (ps : List Nat) : s.SameOthers (s.finish c ps) c.core := by
  have hr : s.SameOthers (s.retire c ps) c.core := by
    unfold State.retire
    dsimp only
    split
    · exact (s.sameOthers_charge c ps).trans (State.sameOthers_modWarp _ _ _ _)
    · exact s.sameOthers_charge c ps
  have hw : (s.retire c ps).SameOthers ((s.retire c ps).wake c) c.core := by
    unfold State.wake; split
    · exact State.sameOthers_modSplit _ _ _
    · exact State.sameOthers_modHelper _ _ _ _ _
  refine (hr.trans hw).trans ?_
  show State.SameOthers _ (((s.retire c ps).wake c).stepPc c) _
  unfold State.stepPc; split
  · exact State.sameOthers_modWarp _ _ _ _
  · exact State.sameOthers_modHelper _ _ _ _ _

end Sys2Proof.Machine
end

