-- ==== Sys2Proof/Tests/Slice0.lean ====
section
/-! SUPPORT. Tests: worked words of the spec decode to the instructions that they stand for, each static rule refuses an ill-formed
term, single instructions give the results that the spec works out, and a concrete state meets the hypotheses of every statement. -/

namespace Sys2Proof.Tests

open Sys2Proof.Machine
set_option Elab.async false

/-! ### Words that the spec writes out -/

/-- Chapters 2 and 3: the worked encodings. -/
theorem test_words_chapters_2_and_3 :
    decode 0x762048A4#32 = .ok (.ffma { d := .win 8, a := .win 9, b := .win 10, h := some 0, g := false, u := false }) ∧
    decode 0x022FFFE8#32 = .ok (.brp { p := 5, n := true, off := -12 }) ∧
    decode 0xC23037DC#32 = .ok (.ldn .sx16 { d := .win 12, a := .win 6, off := -3, g := false, u := false }) ∧
    decode 0x500817FC#32 = .ok (.addi { d := .win 2, a := .win 2, imm := -1, g := false, u := false }) ∧
    decode 0x020BFFFA#32 = .ok (.brp { p := 1, n := false, off := -3 }) := by decide

/-- Table 6-7. -/
theorem test_words_sequencer :
    decode 0x06000000#32 = .ok .nop ∧ decode 0x06140000#32 = .ok (.exit false) ∧ decode 0x061C0000#32 = .ok .reconv ∧
    decode 0x06282800#32 = .ok (.guard 5) ∧ decode 0x060C001C#32 = .ok (.trap 7 false) ∧ decode 0x0647C040#32 = .ok (.wbase .vz 16) ∧
    decode 0x064FC7F4#32 = .ok (.ixadd .vz 1 (-1) false false) ∧ decode 0x06543834#32 = .ok (.wrsr (.win 7) .fpst false false) ∧
    decode 0x0A03FFFC#32 = .ok (.waitc 0 63 63 15) ∧ decode 0x0C100024#32 = .ok (.rdsr (.win 4) .elapsed false false) ∧
    decode 0x08181040#32 = .ok (.pand { p := 3, q := 1, r := 2, g := false, u := false }) ∧
    decode 0x04000020#32 = .ok (.call { p := 0, n := false, off := 16 }) := by decide

/-- Table 7-3. -/
theorem test_words_integer :
    decode 0x100C0800#32 = .ok (.add { d := .win 3, a := .win 1, b := .win 0, h := none, g := false, u := false }) ∧
    decode 0x5004080C#32 = .ok (.addi { d := .win 1, a := .win 1, imm := 3, g := false, u := false }) ∧
    decode 0x14103080#32 = .ok (.addc { d := .win 4, a := .win 6, b := .win 8, g := false, u := false }) ∧
    decode 0x262048A8#32 = .ok (.mad { d := .win 8, a := .win 9, b := .win 10, h := some 1, g := false, u := false }) ∧
    decode 0x2A50A961#32 = .ok (.divu { d := .win 20, a := .win 21, b := .win 22, h := none, g := false, u := true }) ∧
    decode 0x48285030#32 = .ok (.lea { d := .win 10, a := .win 10, b := .win 3, g := false, u := false }) ∧
    decode 0x4A0C3860#32 = .ok (.clz { d := .win 3, a := .win 7, h := none, g := false, u := false }) ∧
    decode 0x4C082F04#32 = .ok (.setp .ne { p := 1, a := .win 2, b := .vz, g := false, u := false }) ∧
    decode 0x5C14207C#32 = .ok (.shrai { d := .win 5, a := .win 4, c := 31, g := false, u := false }) ∧
    decode 0x60080190#32 = .ok (.movl { d := .win 2, imm := 0x64, g := false, u := false }) ∧
    decode 0x620848D0#32 = .ok (.movh { d := .win 2, imm := 0x1234, g := false, u := false }) := by decide

/-- Table 8-2. -/
theorem test_words_float :
    decode 0x70041030#32 = .ok (.fadd { d := .win 1, a := .win 2, b := .win 3, h := none, g := false, u := false }) ∧
    decode 0x7C143070#32 = .ok (.fdiv { d := .win 5, a := .win 6, b := .win 7, h := none, g := false, u := false }) ∧
    decode 0x765C1830#32 = .ok (.ffma { d := .win 23, a := .win 3, b := .win 3, h := none, g := false, u := false }) ∧
    decode 0x78703070#32 = .ok (.fmin { d := .win 28, a := .win 6, b := .win 7, h := none, g := false, u := false }) ∧
    decode 0x7E104820#32 = .ok (.fsqrt { d := .win 4, a := .win 9, h := none, g := false, u := false }) ∧
    decode 0x7E0C3850#32 = .ok (.fclass { d := .win 3, a := .win 7, h := none, g := false, u := false }) ∧
    decode 0x842050C0#32 = .ok (.dfma { d := .win 8, a := .win 10, b := .win 12, g := false, u := false }) ∧
    decode 0x861040A8#32 = .ok (.fsetp .lt { p := 2, a := .win 4, b := .win 5, g := false, u := false }) ∧
    decode 0x8838005C#32 = .ok (.dsetp .nan { p := 7, a := .win 0, b := .win 2, g := false, u := false }) ∧
    decode 0x90041031#32 = .ok (.hadd2 { d := .win 1, a := .win 2, b := .win 3, h := none, g := false, u := true }) ∧
    decode 0x9C50A968#32 = .ok (.hfma2Bf { d := .win 20, a := .win 21, b := .win 22, h := some 1, g := false, u := false }) := by decide

/-- Table 9-8. -/
theorem test_words_exchange :
    decode 0xA00C2200#32 = .ok (.cvt (.wide .f32 .s32) { d := .win 3, a := .win 4, h := none, g := false, u := false }) ∧
    decode 0xA0041690#32 = .ok (.cvt (.narrow .e2m1 .f32) { d := .win 1, a := .win 2, h := none, g := false, u := false }) ∧
    decode 0xA2208180#32 = .ok (.qnt { x := .win 8, a := .win 16, b := .win 24, g := false }) ∧
    decode 0xA2404184#32 = .ok (.dqnt { x := .win 16, a := .win 8, b := .win 24, g := false }) ∧
    decode 0xA4081840#32 = .ok (.pack { d := .win 2, a := .win 3, b := .win 4, h := none, g := false, u := false }) ∧
    decode 0xA60C3920#32 = .ok (.unpk .sx8 2 { d := .win 3, a := .win 7, h := none, g := false, u := false }) ∧
    decode 0xA853E180#32 = .ok (.shfl { d := .win 20, a := .ix 0, b := .win 24, h := none, g := false, u := false }) ∧
    decode 0xAA14240C#32 = .ok (.shflx { d := .win 5, a := .win 4, k := 3, g := false, u := false }) ∧
    decode 0xAA041600#32 = .ok (.bcast { d := .win 1, a := .win 2, k := 0, g := false, u := false }) ∧
    decode 0xAC141800#32 = .ok (.voteAll { p := 5, q := 3, g := false, u := false }) ∧
    decode 0xAC181820#32 = .ok (.voteBallot { d := .win 6, q := 3, g := false, u := false }) ∧
    decode 0xAE244100#32 = .ok (.redx .fadd { d := .win 9, a := .win 8, h := none, g := false, u := false }) ∧
    decode 0xB0281840#32 = .ok (.matchMask { d := .win 10, a := .win 3, b := .win 4, h := none, g := false }) := by decide

/-- Table 10-9. -/
theorem test_words_memory :
    decode 0xC4283024#32 = .ok (.st .w64 { d := .win 10, a := .win 6, off := 2, g := false, u := false }) ∧
    decode 0xC8104380#32 = .ok (.lda .w32 .dev { d := .win 4, a := .win 8, g := false, u := false }) ∧
    decode 0xCC101020#32 = .ok (.lds .w32 { d := .win 4, a := .win 2, off := 2, g := false, u := false }) ∧
    decode 0xD0181800#32 = .ok (.ldp .w32 { d := .win 6, a := .win 3, off := 0, g := false, u := false }) ∧
    decode 0xD2181800#32 = .ok (.stp .w32 { d := .win 6, a := .win 3, off := 0, g := false, u := false }) ∧
    decode 0xD40C40AC#32 = .ok (.atomCas { x := .win 3, a := .win 8, b := .win 10, g := false, u := false }) ∧
    decode 0xDA004020#32 = .ok (.redAdd { a := .win 8, b := .win 2, g := false, u := false }) ∧
    decode 0xE0304030#32 = .ok (.cpa16Bar (.win 12) (.win 8) 3 false false) ∧ decode 0xE200001C#32 = .ok (.fence .dev) ∧
    decode 0xE204980C#32 = .ok (.fenceX .cp .mx .wkg) ∧ decode 0xE2084004#32 = .ok (.cinvAddr (.win 8)) ∧
    decode 0xE2104004#32 = .ok (.prefL1 (.win 8) false false) := by decide

/-- Tables 11-6, 12-6, 13-8 and 14-5. -/
theorem test_words_engines :
    decode 0xEC60A160#32 = .ok (.rcrt (.win 24) (.win 20) (.win 22) false) ∧ decode 0xEC000804#32 = .ok (.rnext (.win 0) 1) ∧
    decode 0xEC001008#32 = .ok (.rpart32 (.win 2) false) ∧ decode 0xEC64190C#32 = .ok (.rjoin .fadd (.win 25) 3) ∧
    decode 0xEE000000#32 = .ok .rlse ∧ decode 0xEE1C0004#32 = .ok (.rqry (.win 7) false) ∧
    decode 0xE4485140#32 = .ok (.cpbG2s { x := .win 18, a := .win 10, b := .win 20, g := false }) ∧
    decode 0xE4247784#32 = .ok (.cpbS2g { x := .win 9, a := .win 14, b := .vz, g := false }) ∧
    decode 0xE6485140#32 = .ok (.cpbm { x := .win 18, a := .win 10, b := .win 20, g := false }) ∧
    decode 0xE8205784#32 = .ok (.cpbpS2s { x := .win 8, a := .win 10, b := .vz, g := false }) ∧
    decode 0xEA001000#32 = .ok (.bari (.win 2) 0) ∧ decode 0xEA080000#32 = .ok (.barw 0 false) ∧
    decode 0xEA0C2000#32 = .ok (.barc (.win 4) 0) ∧ decode 0xEA103014#32 = .ok (.barq (.win 6) 5 false) ∧
    decode 0xF200C780#32 = .ok (.mmap 0 (.win 24) .vz false) ∧ decode 0xF200C782#32 = .ok (.mmap 0 (.win 24) .vz true) ∧
    decode 0xF008C1A4#32 = .ok (.mmaZ 2 (.win 24) (.win 26) false) ∧ decode 0xF4009140#32 = .ok (.mscl (.win 18) (.win 20) false) ∧
    decode 0xF604F000#32 = .ok (.maepi 1 (.win 30) false) ∧ decode 0xF80C3004#32 = .ok (.mardCol 3 (.win 6) false) ∧
    decode 0xFA000004#32 = .ok (.maclr 1 0) ∧ decode 0xFA000010#32 = .ok (.maclrRel 0 0) ∧ decode 0xFA0000A8#32 = .ok (.maclr 2 5) ∧
    decode 0xFA056004#32 = .ok (.mstat (.win 44) 1) ∧ decode 0xFA081000#32 = .ok (.mtest (.win 2)) ∧
    decode 0xFC101000#32 = .ok (.wsbind (.win 4) (.win 2)) ∧ decode 0xFC482186#32 = .ok (.wstrm (.win 18) (.win 4) (.win 24) true) ∧
    decode 0xFC802788#32 = .ok (.wsqry (.win 32) (.win 4) .vz) ∧ decode 0xFC00200C#32 = .ok (.wsrel (.win 4)) := by decide

/-- Table 15-10, and the word of zeros, whose opcode 0x00 is unused (R49). -/
theorem test_words_launch :
    decode 0xB8144020#32 = .ok (.lnch (.win 5) (.win 8) 2 false) ∧ decode 0xB8002804#32 = .ok (.join (.win 5) false) ∧
    decode 0xB8000008#32 = .ok (.lqw false) ∧ decode 0xB850516C#32 = .ok (.flnch (.win 20) (.win 10) (.win 22) false) ∧
    decode 0xBA142000#32 = .ok (.garr (.win 5) (.win 4) false) ∧ decode 0xBA182054#32 = .ok (.gwait (.win 6) (.win 4) (.win 5) false) ∧
    decode 0xBA002088#32 = .ok (.gmem (.win 4) (.win 8) false) ∧ decode 0xBC201000#32 = .ok (.fwr (.win 8) (.win 2) false false) ∧
    decode 0xBC001068#32 = .ok (.fsig (.win 2) (.win 6) false false) ∧
    decode 0xBC10108C#32 = .ok (.fatom (.win 4) (.win 2) (.win 8) false false) ∧
    decode 0x00000000#32 = .error (.unusedOpcode 0) := by decide

/-! ### Ill-formed terms -/

/-- Each static rule of R48 refuses a term that breaks it: a pair at an odd field, a quad at a field that is no multiple of 4, a group
of eight at one that is no multiple of 8, and a latch entry where none may stand. -/
theorem test_wf_operands :
    (Instr.addc { d := .win 5, a := .win 6, b := .win 8, g := false, u := false }).wf = false ∧
    (Instr.addc { d := .win 4, a := .latch 0, b := .win 8, g := false, u := false }).wf = false ∧
    (Instr.dqnt { x := .win 16, a := .win 6, b := .win 24, g := false }).wf = false ∧
    (Instr.qnt { x := .win 8, a := .win 20, b := .win 24, g := false }).wf = false ∧
    (Instr.ldn .zx8 { d := .latch 1, a := .win 6, off := 0, g := false, u := false }).wf = false ∧
    (Instr.ld .w32 { d := .latch 2, a := .win 6, off := 0, g := false, u := false }).wf = false ∧
    (Instr.ld .w64 { d := .win 7, a := .win 6, off := 0, g := false, u := false }).wf = false ∧
    (Instr.ld .w128 { d := .win 6, a := .win 6, off := 0, g := false, u := false }).wf = false ∧
    (Instr.rdsr (.win 3) .elapsed false false).wf = false ∧ (Instr.wrsr (.win 3) .tid false false).wf = false := by decide

/-- The rules for function codes and for the forms of single instructions (Table 2-5, R55, R71, R168, R226, R234, Table 11-5). -/
theorem test_wf_functions :
    (Instr.cvt (.wide .f32 .f32) { d := .win 3, a := .win 4, h := none, g := false, u := false }).wf = false ∧
    (Instr.cvt (.narrow .e4m3 .s32) { d := .win 3, a := .win 4, h := none, g := false, u := false }).wf = false ∧
    (Instr.cvt (.wide .f64 .f32) { d := .win 3, a := .win 4, h := none, g := false, u := false }).wf = false ∧
    (Instr.cvt (.wide .f32 .f64) { d := .win 3, a := .win 4, h := some 0, g := false, u := false }).wf = false ∧
    (Instr.unpk .sx16 2 { d := .win 3, a := .win 7, h := none, g := false, u := false }).wf = false ∧
    (Instr.redx .dadd { d := .win 9, a := .win 8, h := none, g := false, u := false }).wf = false ∧
    (Instr.rjoin .add (.latch 0) 3).wf = false ∧ (Instr.rjoin .dadd (.win 25) 3).wf = false ∧
    (Instr.brp { p := 0, n := false, off := 1 }).wf = false ∧ (Instr.call { p := 0, n := true, off := 1 }).wf = false := by decide

/-! ### A small machine -/

/-- The placed machine with NOP at its program counter, its one warp the issuer with threads 0 and 1, and every register zero: v0 as an
address is the address 0, which maps to the byte 0 of HBM. -/
def bench : State :=
  ({ (State.reset.withFetchWord 32 0x06000000) with
    agenda := [], issuer := some { core := 0, slot := 0, who := .split 0, cost := noCost, stalled := false } } : State).modWarp 0 0 (fun w => { w with
      strands := w.strands.zipIdx.map (fun e => { e.1 with active := if e.2 = 0 then 3 else 0 }),
      splits := w.splits.map (fun e => (e.1, { e.2 with strands := 1 })) })

theorem bench_some : bench.iss.isSome = true := by decide +kernel

/-- The issue of the small machine. -/
def benchIss : Iss := bench.iss.get bench_some

theorem bench_iss : bench.iss = some benchIss := (Option.some_get _).symm

/-- A change of the warp of the small machine. -/
def benchWith (f : Warp → Warp) : State := bench.modWarp 0 0 f

/-- The issue of a machine like the small one. -/
def issOf (s : State) : Iss := s.iss.getD benchIss

theorem issOf_iss {s : State} (h : s.iss.isSome = true) : s.iss = some (issOf s) := by
  cases e : s.iss with
  | none => simp [e] at h
  | some c => simp [issOf, e]

/-- The checks of `SeqClear` as one truth value. -/
def seqOk (s : State) (c : Iss) (inHelper : Bool) (tids : List Nat) (srcs : List (Opnd × Nat)) (dst : Option (Opnd × Nat)) : Bool :=
  (!c.hel.isSome || inHelper) && decide (c.opsCause tids srcs = none) && dst.all (fun d => decide (c.opCause c.tids d.1 d.2 = none)) &&
  !c.pendingRead (s.pendingLocs c.core c.slot) tids srcs && !(s.pendingLocs c.core c.slot).hasIx c.tids dst.toList && !c.badRead tids srcs

theorem seqClear_of_ok {s : State} {c : Iss} {inHelper : Bool} {tids : List Nat} {srcs : List (Opnd × Nat)} {dst : Option (Opnd × Nat)}
    (h : seqOk s c inHelper tids srcs dst = true) : SeqClear s c inHelper tids srcs dst := by
  simp only [seqOk, Bool.and_eq_true, Bool.or_eq_true, Bool.not_eq_true', decide_eq_true_eq] at h
  obtain ⟨⟨⟨⟨⟨h1, h2⟩, h3⟩, h4⟩, h5⟩, h6⟩ := h
  refine ⟨fun g => ?_, h2, fun d e => ?_, h4, h5, h6⟩
  · rcases h1 with h1 | h1
    · simp [h1] at g
    · exact h1
  · subst e; simpa using h3

/-- The checks of `MemSpec.Clear` as one truth value. -/
def memOk (m : MemSpec) (s : State) (c : Iss) : Bool :=
  let stids := c.srcTids m.u c.tids
  (!c.hel.isSome || m.inHelper) && decide (c.checksCause (m.checks c) = none) &&
  !c.pendingRead (s.pendingLocs c.core c.slot) stids m.srcs && !(s.pendingLocs c.core c.slot).hasIx c.tids m.dst.toList &&
  !c.badRead stids m.srcs && m.dst.all (fun d => !c.sharedWrite (c.exec m.g) d.1 d.2) &&
  !s.queueFull c.core m.fab && m.cls.all (fun cl => decide (c.counterOf cl < cl.max)) &&
  !c.slotsFull (if m.g then s.pendingGuards c c.tids else []) && !s.ldaOpen c.core c.slot

theorem memClear_of_ok {m : MemSpec} {s : State} {c : Iss} (h : memOk m s c = true) : m.Clear s c := by
  simp only [memOk, Bool.and_eq_true, Bool.or_eq_true, Bool.not_eq_true', decide_eq_true_eq] at h
  obtain ⟨⟨⟨⟨⟨⟨⟨⟨⟨h1, h2⟩, h4⟩, h5⟩, h6⟩, h7⟩, h8⟩, h9⟩, h10⟩, h11⟩ := h
  refine ⟨fun g => ?_, h2, h4, h5, h6, fun d e => ?_, h8, fun cl e => ?_, h10, h11⟩
  · rcases h1 with h1 | h1
    · simp [h1] at g
    · exact h1
  · rw [e] at h7; simpa using h7
  · rw [e] at h9; simpa using h9

/-- `FabricClear` as one truth value, on a machine whose buffers hold nothing of a window page. -/
def fabricOk (s : State) (tgs : List Target) : Bool :=
  tgs.all (fun t => t.space != .fabric || s.devPresent (fabricDev t.pa)) && s.cores.all (fun k => k.2.wcb.all (fun e => e.space != .fabric)) &&
  s.fabOps.all (fun f => f.seq.isSome || s.devPresent f.dev)

theorem mem_of_mget? {α : Type} {m : NatMap α} {k : Nat} {v : α} (h : mget? m k = some v) : ∃ e ∈ m, e.2 = v := by
  induction m with
  | nil => simp [mget?] at h
  | cons e r ih =>
    simp only [mget?] at h
    split at h
    · exact ⟨e, List.mem_cons_self, by simpa using h⟩
    · obtain ⟨x, hx, hv⟩ := ih h
      exact ⟨x, List.mem_cons_of_mem _ hx, hv⟩

theorem fabricClear_of_ok {s : State} {tgs : List Target} (h : fabricOk s tgs = true) : FabricClear s tgs := by
  simp only [fabricOk, Bool.and_eq_true, Bool.or_eq_true, List.all_eq_true, bne_iff_ne] at h
  obtain ⟨⟨h1, h2⟩, h3⟩ := h
  refine ⟨fun t ht hf => (h1 t ht).resolve_left (fun n => n hf), fun core e he hf => ?_, fun f hf hs => (h3 f hf).resolve_left (by simp [hs])⟩
  simp only [State.core, mgetD] at he
  cases hk : mget? s.cores core with
  | none => simp [hk, Core.initial] at he
  | some k =>
    obtain ⟨x, hx, rfl⟩ := mem_of_mget? hk
    rw [hk] at he
    exact absurd hf (h2 x hx e he)

/-- The target that each thread's address of an access translates to. -/
def targets (s : State) (c : Iss) (u : Bool) (a : Opnd) (off : Int) (kind : AccessKind) (th : Nat) : Target :=
  match s.translate c.core c.w.ctx kind (c.globalVa u th a off) with
  | .ok t => t
  | .error _ => { space := .hbm, key := 0, pa := 0 }

/-- The checks of `GlobalClear` for those targets, none of which is a fabric window, as one truth value. -/
def globalOk (m : MemSpec) (s : State) (c : Iss) (a : Opnd) (off : Int) (n : Nat) (kind : AccessKind) : Bool :=
  let tg := targets s c m.u a off kind
  (m.units s c).all (fun x => decide (c.globalVa m.u x.1 a off % n = 0) &&
    decide (s.translate c.core c.w.ctx kind (c.globalVa m.u x.1 a off) = .ok (tg x.1)) && decide ((tg x.1).space ≠ .fabric) &&
    (kind != .load || !s.bufferEcc c.core (tg x.1).space (tg x.1).key (tg x.1).pa n)) &&
  !s.overlaps c.core c.slot ((m.units s c).map (fun x =>
    ({ t := x.1, space := (tg x.1).space, addr := (tg x.1).pa, n := n, data := [], dests := [], aux := (tg x.1).key } : Access))) && fabricOk s []

theorem globalClear_of_ok {m : MemSpec} {s : State} {c : Iss} {a : Opnd} {off : Int} {n : Nat} {kind : AccessKind}
    (h : globalOk m s c a off n kind = true) : GlobalClear m s c a off n kind (targets s c m.u a off kind) := by
  simp only [globalOk, Bool.and_eq_true, Bool.or_eq_true, Bool.not_eq_true', decide_eq_true_eq, List.all_eq_true, bne_iff_ne] at h
  obtain ⟨⟨h1, h2⟩, h3⟩ := h
  refine ⟨fun x hx => ⟨(h1 x hx).1.1.1, (h1 x hx).1.1.2, fun e => (h1 x hx).2.resolve_left (fun n => n e)⟩, h2, fun t ht hf => ?_, (fabricClear_of_ok h3).2⟩
  obtain ⟨x, hx, rfl⟩ := List.mem_map.mp ht
  exact absurd hf (h1 x hx).1.2

/-- An answer that exists and passes a test, as one truth value. -/
def okAnd {ε α : Type} (e : Except ε α) (p : α → Bool) : Bool := match e with
  | .ok x => p x
  | .error _ => false

theorem of_okAnd {ε α : Type} {e : Except ε α} {p : α → Bool} (h : okAnd e p = true) : ∃ x, e = .ok x ∧ p x = true := by
  cases e with
  | ok x => exact ⟨x, rfl, h⟩
  | error c => simp [okAnd] at h

/-- An option that holds something that passes a test. -/
def someAnd {α : Type} (o : Option α) (p : α → Bool) : Bool := match o with
  | some x => p x
  | none => false

theorem of_someAnd {α : Type} {o : Option α} {p : α → Bool} (h : someAnd o p = true) : ∃ x, o = some x ∧ p x = true := by
  cases o with
  | some x => exact ⟨x, rfl, h⟩
  | none => simp [someAnd] at h

/-! ### The hypotheses of the statements are met

Each theorem below names in its docstring the statements whose hypotheses it meets, on the small machine or a change of it. -/

/-- Forms whose destination is also a source, and a held operand. -/
def rBench : RForm := { d := .win 1, a := .win 1, b := .win 119, h := some 2, g := true, u := false }

/-- The small machine with a file of 128 registers, so that the last window field is in range. -/
def bench128 : State := benchWith (fun w => { w with fileSize := 128 })

theorem bench128_iss : bench128.iss = some (issOf bench128) := issOf_iss (by decide +kernel)

/-- IntegerTwoSource, FloatSingle, FloatDoubleAndPacked, ConvertAndPack, OperandAndAddressTraps: operands at both ends of the window. -/
theorem witness_register_operands :
    (specR rBench false).Clear bench128 (issOf bench128) ∧ (specR rBench true).Clear bench128 (issOf bench128) ∧
    (specR { rBench with a := .latch 2, d := .vz, u := true } false).Clear bench128 (issOf bench128) ∧
    (specX { d := .win 0, a := .win 119, h := none, g := false, u := true } 1 1).Clear bench128 (issOf bench128) ∧
    (specX { d := .win 118, a := .win 0, h := none, g := false, u := false } 2 2).Clear bench128 (issOf bench128) := by
  unfold AluSpec.Clear; decide +kernel

/-- IntegerPairAndUnary, IntegerImmediateAndCompare, FloatSingle. -/
theorem witness_register_forms :
    let f : PairForm := { d := .win 118, a := .win 0, b := .win 118, g := false, u := true }
    (specPair f 2 false).Clear bench128 (issOf bench128) ∧ (specPair f 2 true).Clear bench128 (issOf bench128) ∧
    (specPair f 1 false).Clear bench128 (issOf bench128) ∧
    (specI { d := .win 1, a := .win 1, imm := -1, g := false, u := false }).Clear bench128 (issOf bench128) ∧
    (specSh { d := .win 1, a := .win 1, c := 31, g := false, u := false }).Clear bench128 (issOf bench128) ∧
    (specL { d := .win 1, imm := 0xFFFF, g := false, u := false } false).Clear bench128 (issOf bench128) ∧
    (specL { d := .win 1, imm := 0xFFFF, g := false, u := false } true).Clear bench128 (issOf bench128) ∧
    (specC { p := 0, a := .win 2, b := .vz, g := false, u := false } 1).Clear bench128 (issOf bench128) ∧
    (specC { p := 63, a := .win 2, b := .win 118, g := true, u := false } 2).Clear bench128 (issOf bench128) := by
  unfold AluSpec.Clear; decide +kernel

/-- Shuffles: a shift of 1, under which thread 0 has no source, a broadcast of thread 1 by slots, and SHFL of the thread that v2 names. -/
theorem witness_shuffles :
    let c := benchIss
    let ok := fun (own : List (Opnd × Nat)) (u : Bool) (src : Nat → Option Nat) =>
      let source := fun (t : Nat) => (src (srcTid u t)).filter c.w.liveBit
      ExchangeClear bench c (c.shuffleChecks (.win 1) (.win 3) own u (fun _ => src))
        (c.tids.flatMap (fun t => own.map (fun o => (srcTid u t, o))) ++ (c.exec false).flatMap (fun t => (source t).toList.map (fun j => (j, .win 3, 1))))
        ((c.exec false).flatMap (fun t => (source t).toList.map (fun _ => (t, .win 1, 1)))) ∧
      ∀ t ∈ c.exec false, (source t).all (fun j => !bench.replaying c j) = true
    ok [] false (fun t => if 1 ≤ t then some (t - 1) else none) ∧ ok [] true (fun _ => some 1) ∧
    ok [(.win 2, 1)] false (fun t => if c.read t (.win 2) 1 < 64 then some (c.read t (.win 2) 1) else none) ∧
    (c.exec false).filter (fun t => (if 1 ≤ t then some (t - 1) else none : Option Nat).isSome) = [1] := by
  unfold ExchangeClear; decide +kernel

/-- VotesAndMatch. -/
theorem witness_votes :
    let c := benchIss
    ExchangeClear bench c [] [] [] ∧ ExchangeClear bench c (c.checkAll [(.win 6, 2)]) [] ((c.exec false).map (fun t => (t, .win 6, 2))) ∧
    ExchangeClear bench c (c.checkAll [(.win 6, 2), (.win 1, 1), (.vz, 1)]) (c.tids.flatMap (fun t => [(t, .win 1, 1), (t, .vz, 1)]))
      ((c.exec false).map (fun t => (t, .win 6, 2))) := by
  unfold ExchangeClear; decide +kernel

/-- Reduction: the sum of zeros is zero; and a fold of FP32 zeros raises nothing. -/
theorem witness_reduction :
    let c := benchIss
    ExchangeClear bench c (c.redxChecks .add { d := .win 1, a := .win 2, h := none, g := false, u := false }) (c.tids.map (fun t => (srcTid false t, .win 2, 1))) ((c.exec false).map (fun t => (t, .win 1, 1))) ∧
    treeReduce .add ((upto 64).map (fun k => if (c.exec false).any (fun t => srcTid false t == k) then some (c.read k (.win 2) 1, 0) else none)) = some (0, 0) ∧
    treeReduce .fadd ((upto 64).map (fun k => if (c.exec false).any (fun t => srcTid false t == k) then some (c.read k (.win 2) 1, 0) else none)) = some (0, 0) := by
  unfold ExchangeClear; decide +kernel

/-- The small machine with ELEM e2m1 in every strand and the band scale 1 in v24 of every thread. -/
def benchQnt : State := benchWith (fun w => { w with
  strands := w.strands.map (fun st => { st with fmt := 0x0F104000 }), regs := (upto 64).map (fun t => (256 * t + 24, 0x3F800000#32)) })

/-- Quantise and Dequantise: each thread is a run of its own. -/
theorem witness_quantise :
    benchQnt.iss = some (issOf benchQnt) ∧
    let c := issOf benchQnt
    let f : QForm := { x := .win 8, a := .win 16, b := .win 24, g := false }
    ExchangeClear benchQnt c (c.checkAll [(f.a, 8), (f.b, 1), (f.x, 4)]) (c.tids.flatMap (fun t => [(t, f.b, 1), (t, f.a, c.qntRegs f t)]))
      ((c.exec f.g).flatMap (fun t => [(t, f.x, 4), (t, f.b, 1)])) ∧
    ExchangeClear benchQnt c (c.checkAll [(f.a, 4), (f.b, 1), (f.x, 8)]) (c.tids.flatMap (fun t => [(t, f.a, 4), (t, f.b, 1)]))
      ((c.exec f.g).map (fun t => (t, f.x, 8))) ∧
    c.qntLen f ≠ 7 ∧ (c.runHeads f).length = 2 ∧ (∀ t ∈ c.runHeads f, (c.qntRun f.b t).bad = false) ∧ (∀ t ∈ c.exec f.g, (c.qntRun f.b t).bad = false) := by
  unfold ExchangeClear; decide +kernel

/-- SequencerPredicates, Exits (no executing thread, by a guard that is false everywhere): a warp's thread has all 64 predicates. -/
theorem witness_predicates :
    (∀ p : Fin 64, benchIss.hel.isSome → p.val < 16) ∧
    (let s := benchWith (fun w => { w with strands := w.strands.map (fun st => { st with guardP := 0, guardInv := true }) })
     s.iss = some (issOf s) ∧ (issOf s).exec true = [] ∧ (issOf s).hel = none) := by decide +kernel

/-- Branches: one split of sixteen strands with empty stacks, and v62:v63 zero. -/
theorem witness_branches :
    benchIss.Live ∧ stackRoom benchIss 4 ∧ SeqClear bench benchIss false benchIss.tids [(linkOpnd, 2)] (some (linkOpnd, 2)) ∧
    SeqClear bench benchIss false benchIss.tids [(linkOpnd, 2)] none ∧ SeqClear bench benchIss false [] [] (some (linkOpnd, 2)) ∧
    (∀ t ∈ benchIss.tids, (benchIss.read64 t linkOpnd).toNat % 4 = 0 ∧ (benchIss.read64 t linkOpnd).toNat < 2 ^ 57) ∧
    benchIss.sharedWrite benchIss.tids linkOpnd 2 = false := by
  refine ⟨fun e he => ?_, by unfold stackRoom; decide +kernel, seqClear_of_ok (by decide +kernel), seqClear_of_ok (by decide +kernel),
    seqClear_of_ok (by decide +kernel), by decide +kernel, by decide +kernel⟩
  constructor <;> decide +kernel

/-- WindowIndexFormat: WBASE 8, the most for a file of 128, IXSET with base, limit and index 0, IXADD and FMT. -/
theorem witness_window :
    let c := issOf bench128
    SeqClear bench128 c false (c.tids.take 1) [(.vz, 1)] none ∧ c.w.splits.length ≤ 1 ∧
    (let v := c.first .vz 1 + (8 : BitVec 9).toNat
     v % 8 = 0 ∧ v ≤ (if c.w.fileSize = 256 then 136 else if c.w.fileSize = 128 then 8 else 0)) ∧
    SeqClear bench128 c false ((c.tids.map (srcTid true)).dedup) [(.win 119, 1)] none ∧
    (∀ t ∈ c.exec true, let v := c.read (srcTid true t) (.win 119) 1
      bitsOf v 24 8 + bitsOf v 19 5 + 1 ≤ c.w.fileSize) ∧
    SeqClear bench128 c true (c.strandHeads.map (fun x => x.2)) [(.vz, 1)] none := by
  refine ⟨seqClear_of_ok (by decide +kernel), by decide +kernel, by decide +kernel, seqClear_of_ok (by decide +kernel), by decide +kernel,
    seqClear_of_ok (by decide +kernel)⟩

/-- SpecialRegisters: RDSR of a 64-bit register and WRSR of each writable one. -/
theorem witness_special :
    let c := benchIss
    SeqClear bench c true c.tids [] (some (.win 62, 2)) ∧ c.sharedWrite (c.exec false) (.win 62) 2 = false ∧
    SeqClear bench c true ((c.tids.map (srcTid true)).dedup) [(.win 1, 1)] none ∧
    SeqClear bench c true (c.strandHeads.map (fun x => x.2)) [(.win 1, 1)] none ∧
    (∀ x ∈ c.strandHeads, (∃ t ∈ c.exec false, t / 4 = x.1) → let v := c.read x.2 (.win 1) 1
      bitsOf v 12 4 < 11 ∧ bitsOf v 9 3 < 5 ∧ bitsOf v 6 2 < 3) ∧
    SeqClear bench c true (c.tids.take 1) [(.win 2, 2)] none ∧ c.hel = none ∧ c.exec false ≠ [] := by
  refine ⟨seqClear_of_ok (by decide +kernel), by decide +kernel, seqClear_of_ok (by decide +kernel), seqClear_of_ok (by decide +kernel), by decide +kernel,
    seqClear_of_ok (by decide +kernel), by decide +kernel, by decide +kernel⟩

/-- A split parked by MWAIT, one of whose monitors has fired. -/
def benchFired : State := benchWith (fun w => { w with
  splits := w.splits.map (fun e => (e.1, { e.2 with status := .parked (.mwait none (.win 1)) })),
  monitors := [{ line := 0, armed := false, fired := true }] })

/-- Waits: MWAIT with no monitor armed and a time of 0, and after one has fired; counters within limits; no batch open. -/
theorem witness_waits :
    (∃ sp, benchIss.split = some sp ∧ sp.status = .ready ∧ ∀ m ∈ benchIss.w.monitors, m.armed = false) ∧
    SeqClear bench benchIss false benchIss.tids [] (some (.win 1, 1)) ∧ benchIss.sharedWrite benchIss.tids (.win 1) 1 = false ∧
    (benchFired.iss = some (issOf benchFired) ∧ SeqClear benchFired (issOf benchFired) false (issOf benchFired).tids [] (some (.win 1, 1)) ∧
      (∃ sp, (issOf benchFired).split = some sp ∧ sp.status = .parked (.mwait none (.win 1))) ∧ (issOf benchFired).w.anyFired = true) ∧
    benchIss.counterOf .loads ≤ 0 ∧ benchIss.counterOf .stores ≤ 0 ∧ benchIss.w.copies ≤ 0 ∧ benchIss.w.tiles ≤ 0 ∧
    benchIss.w.batches.length < 8 ∧ SeqClear bench benchIss false (benchIss.tids.take 1) [(.win 1, 1)] none ∧ benchIss.resumed = none ∧
    (let v := (benchIss.first (.win 1) 1 + (511 : BitVec 9).toNat) % 2 ^ 32
     ∀ b ∈ benchIss.w.batches, batchLater b.1 (if batchLater v benchIss.w.batch.toNat then benchIss.w.batch.toNat else v) = true) := by
  refine ⟨⟨_, rfl, by decide +kernel, by decide +kernel⟩, seqClear_of_ok (by decide +kernel), by decide +kernel,
    ⟨by decide +kernel, seqClear_of_ok (by decide +kernel), ⟨_, rfl, by decide +kernel⟩, by decide +kernel⟩, by decide +kernel, by decide +kernel,
    by decide +kernel, by decide +kernel, by decide +kernel, seqClear_of_ok (by decide +kernel), by decide +kernel, by decide +kernel⟩

/-- GlobalLoads, GlobalStores, Atomics: every thread accesses the address 0, or the last aligned one that the offset reaches. -/
theorem witness_global :
    (loadSpec (.win 60) (.win 0) 4 true true).Clear bench benchIss ∧
    GlobalClear (loadSpec (.win 60) (.win 0) 4 true true) bench benchIss (.win 0) ((63#7).toInt * 16) 16 .load
      (targets bench benchIss true (.win 0) ((63#7).toInt * 16) .load) ∧
    (loadSpec (.win 60) (.win 0) 4 true true).AtOnce bench benchIss ∧
    (storeSpec (.win 1) (.win 0) 1 false false).Clear bench benchIss ∧
    GlobalClear (storeSpec (.win 1) (.win 0) 1 false false) bench benchIss (.win 0) 0 4 .store (targets bench benchIss false (.win 0) 0 .store) ∧
    (storeSpec (.win 1) (.win 0) 1 false false).AtOnce bench benchIss ∧
    ({ inHelper := true, g := false, u := false, cls := some .loads, srcs := [(.win 0, 2), (.win 2, 2)], dst := some (.win 1, 1), dstLast := true } : MemSpec).Clear bench benchIss ∧
    GlobalClear { inHelper := true, g := false, u := false, cls := some .loads, srcs := [(.win 0, 2), (.win 2, 2)], dst := some (.win 1, 1), dstLast := true } bench benchIss
      (.win 0) 0 4 .atomic (targets bench benchIss false (.win 0) 0 .atomic) ∧
    (∀ y ∈ (storeSpec (.win 1) (.win 0) 1 false false).units bench benchIss, hasBit (benchIss.read (srcTid false y.1) (.win 0) 2) 63 = false) := by
  refine ⟨memClear_of_ok (by decide +kernel), globalClear_of_ok (by decide +kernel), ⟨by decide +kernel, by decide +kernel⟩, memClear_of_ok (by decide +kernel),
    globalClear_of_ok (by decide +kernel), ⟨by decide +kernel, by decide +kernel⟩, memClear_of_ok (by decide +kernel), globalClear_of_ok (by decide +kernel),
    by decide +kernel⟩

/-- The small machine whose workgroup has a scratchpad allocation of 32 KiB, with a record of one word at the address 0x4000 and a record
of 32 codes of e2m1 at 0x4040, their addresses in v2:v3 and v10:v11, 64 in v9, and a target handle in word 16 of the scratchpad. -/
def benchScratch : State :=
  let s := (bench.hbmWrite 1 0x4000 (leBytes 64 (0x8000 + 2 ^ 192 + 2 ^ 224 + 2 ^ 256 + 2 ^ 288 + 2 * 2 ^ 402))).hbmWrite 1 0x4040
    (leBytes 64 (0x1000 + 32 * 2 ^ 192 + 2 ^ 224 + 2 ^ 256 + 2 ^ 288 + 31 * 2 ^ 320 + 4 * 2 ^ 407))
  (s.modWarp 0 0 (fun w => { w with regs := [(2, 0x4000#32), (9, 64#32), (10, 0x4040#32)] })).modCore 0 (fun k =>
    { k with scratch := [(16, 0x80000000#32)], allocs := [{ base := 0, words := 8192, gen := 0, wg := 0, ctx := 0, inbound := 0, released := none }] })

theorem benchScratch_iss : benchScratch.iss = some (issOf benchScratch) := issOf_iss (by decide +kernel)

/-- ScratchpadAccesses: LDS and STS at the byte 0 of the allocation. -/
theorem witness_scratchpad :
    let c := issOf benchScratch
    let m : MemSpec := { inHelper := true, g := false, u := false, cls := some .loads, srcs := [(.vz, 1)], dst := some (.win 1, 1) }
    let n : MemSpec := { inHelper := true, g := false, u := false, cls := some .stores, srcs := [(.win 1, 1), (.vz, 1)], dst := none }
    m.Clear benchScratch c ∧ n.Clear benchScratch c ∧ n.AtOnce benchScratch c ∧ c.resumed = none ∧
    (∀ p : MemSpec, p = m ∨ p = n → benchScratch.overlaps c.core c.slot ((p.units benchScratch c).map (fun x =>
      ({ t := x.1, space := .scratch, addr := 0, n := 4, data := [], dests := [], aux := 0 } : Access))) = false) ∧
    (∀ x ∈ m.units benchScratch c, benchScratch.scrTarget c (c.read (srcTid false x.1) .vz 1) 0 4 true = .ok (.local 0) ∧
      (benchScratch.core c.core).scrEcc 0 4 = false) ∧
    (∀ x ∈ n.units benchScratch c, benchScratch.scrTarget c (c.read (srcTid false x.1) .vz 1) ((-1#7).toInt * 4 + 4) 4 false = .ok (.local 0)) := by
  refine ⟨memClear_of_ok (by decide +kernel), memClear_of_ok (by decide +kernel), ⟨by decide +kernel, by decide +kernel⟩, by decide +kernel, ?_, by decide +kernel,
    by decide +kernel⟩
  rintro p (rfl | rfl) <;> decide +kernel

/-- PrivateAccesses: the first word of every thread, on a machine with nothing outstanding. -/
def privTarget (t i : Nat) : Target := match bench.translate 0 0 .load (privVa 0 0 1 0 65520 t (4 * i) % 2 ^ 64) with
  | .ok x => x
  | .error _ => { space := .hbm, key := 0, pa := 0 }

theorem witness_private :
    let m : MemSpec := { inHelper := false, g := false, u := false, cls := some .loads, srcs := [(.vz, 1)], dst := some (.win 1, 1) }
    (∃ g, bench.gridOf benchIss.w = some g ∧ (g.2.pbase == 0 && g.2.warps == 1) = true) ∧ (∃ x, bench.ctxOf benchIss.w = some x ∧ (x.plim == 65520) = true) ∧
    m.Clear bench benchIss ∧ bench.overlaps benchIss.core benchIss.slot = (fun _ => false) ∧
    (∀ y ∈ m.units bench benchIss, bench.translate benchIss.core benchIss.w.ctx .load (privVa 0 (benchIss.w.wg % 2 ^ 32) 1 benchIss.w.index 65520 y.1 0 % 2 ^ 64) =
      .ok (privTarget y.1 0) ∧ (privTarget y.1 0).space ≠ .fabric ∧
      bench.bufferEcc benchIss.core (privTarget y.1 0).space (privTarget y.1 0).key (privTarget y.1 0).pa 4 = false ∧
      bench.privEcc benchIss.core benchIss.slot (privTarget y.1 0).key (privTarget y.1 0).pa 4 = false) := by
  refine ⟨of_someAnd (by decide +kernel), of_someAnd (by decide +kernel), memClear_of_ok (by decide +kernel), ?_, by decide +kernel⟩
  funext l
  rw [State.overlaps, show (bench.core benchIss.core).loadsPending = [] from by decide +kernel,
    show (bench.core benchIss.core).storesPending = [] from by decide +kernel, show (bench.core benchIss.core).memQ = [] from by decide +kernel,
    show bench.hostReqs = [] from by decide +kernel, show bench.fabOps = [] from by decide +kernel, show bench.remotes = [] from by decide +kernel]
  simp

/-- FencesAndCaches and MonitorArms. -/
theorem witness_fences :
    EngineIdle bench benchIss ∧ benchIss.resumed = none ∧ (bench.core benchIss.core).copyQ = [] ∧ (bench.core benchIss.core).matQ = [] ∧
    (bench.core benchIss.core).streamQ = [] ∧ (bench.plot (plotOf benchIss.core)).fuse ≠ 1 ∧ (msysSpec (.win 0) false false).Clear bench benchIss ∧
    (∀ l ∈ (bench.core benchIss.core).l1, l.owner = some benchIss.slot → l.dirty = []) ∧
    (∀ e ∈ (bench.core benchIss.core).drains, e.wg ≠ some benchIss.w.wg) ∧
    ({ inHelper := false, g := false, u := false, cls := none, srcs := [(.win 0, 2)], dst := none } : MemSpec).Clear bench benchIss ∧
    benchIss.tids.head? = some 0 ∧ (bench.translate benchIss.core benchIss.w.ctx .load (benchIss.read 0 (.win 0) 2)).toOption.isSome ∧
    benchIss.w.monitors.length = 4 ∧ bench.mcasts = [] ∧ bench.fabOps = [] ∧ bench.arrivals = [] ∧ bench.fab.launches = [] := by
  refine ⟨?_, by decide +kernel, by decide +kernel, by decide +kernel, by decide +kernel, by decide +kernel, memClear_of_ok (by decide +kernel),
    by decide +kernel, by decide +kernel, memClear_of_ok (by decide +kernel), by decide +kernel, by decide +kernel, by decide +kernel,
    by decide +kernel, by decide +kernel, by decide +kernel, by decide +kernel⟩
  unfold EngineIdle; decide +kernel

/-- CopyCommands: each verdict passes on its record, which no access outstanding holds up. -/
theorem witness_copies :
    let s := benchScratch
    let c := issOf s
    let at0 := [0, 0, 0, 0]
    QueueClear s c 0 [(.win 2, 2), (.vz, 4), (.vz, 1)] false ∧ ((s.core c.core).copyQ.filter (fun q => !q.ga)).length < Config.queueDepth ∧ c.w.copies < 31 ∧
    s.loadsWait c (s.recordAccs c (c.read 0 (.win 2) 2) 64 ++ s.listAccs c 64) = false ∧ s.loadsWait c (s.recordAccs c (c.read 0 (.win 10) 2) 64) = false ∧
    (let r := s.readRecord c (c.read 0 (.win 2) 2) 64
     ∃ bs, r.2 = .ok bs ∧ ((r.1.boxVerdict c (Layout.of (leNat bs)) at0 0 true).toOption.isSome && (r.1.boxVerdict c (Layout.of (leNat bs)) at0 0 false).toOption.isSome &&
      (r.1.castVerdict c (Layout.of (leNat bs)) at0 64).toOption.isSome) = true) ∧
    (let r := s.readRecord c (c.read 0 (.win 10) 2) 64
     ∃ bs, r.2 = .ok bs ∧ ((r.1.planeVerdict c (Layout.of (leNat bs)) at0 0 false).toOption.isSome &&
      (r.1.planeVerdict c (Layout.of (leNat bs)) at0 0 true).toOption.isSome) = true) :=
  ⟨by unfold QueueClear; decide +kernel, by decide +kernel, by decide +kernel, by decide +kernel, by decide +kernel, of_okAnd (by decide +kernel),
    of_okAnd (by decide +kernel)⟩

/-- CopyCommands: CPA16 of sixteen bytes at the address 0 into the byte 0, uncounted, and counted at barrier 0. -/
theorem witness_cpa16 :
    let m : MemSpec := { inHelper := false, g := false, u := false, cls := some .copies, srcs := [(.win 0, 2), (.vz, 1)], dst := none }
    let s : State := benchScratch.modWg 0 (fun g => { g with barriers := [(0, { Barrier.clear with init := true, exp := 1, cpm := true })] })
    m.Clear benchScratch (issOf benchScratch) ∧
    CpaClear benchScratch (issOf benchScratch) m .vz (.win 0) none (targets benchScratch (issOf benchScratch) false (.win 0) 0 .load) ∧
    CpaClear s (issOf s) m .vz (.win 0) (some 0) (targets s (issOf s) false (.win 0) 0 .load) := by
  refine ⟨memClear_of_ok (by decide +kernel), ?_, ?_⟩
  · intro y hy
    refine ⟨?_, ?_, ?_, ?_, fun k e => by simp at e, ?_⟩ <;> revert y <;> decide +kernel
  · intro y hy
    refine ⟨?_, ?_, ?_, ?_, fun k e => ?_, ?_⟩
    case refine_5 => cases e; decide +kernel
    all_goals revert y; decide +kernel

/-- The small machine with barrier 0 as given and the greatest EXP in v1. -/
def benchBar (b : Barrier) : State :=
  (benchWith (fun w => { w with regs := [(1, 256#32)] })).modWg 0 (fun g => { g with barriers := [(0, b)] })

/-- NamedBarriers: BARI of EXP 256 on a barrier never set; BARA, BARC and BARQ on one of EXP 64; BARW after its wait; BARX. -/
theorem witness_barriers :
    let s := benchBar Barrier.clear
    let b : Barrier := { Barrier.clear with init := true, exp := 64 }
    let t := benchBar b
    let c := issOf s
    let d := issOf t
    (s.iss = some c ∧ (mget? s.wgs c.w.wg).isSome = true ∧ SeqClear s c false (c.tids.take 1) [(.win 1, 1)] none ∧ c.first (.win 1) 1 = 256 ∧
      (s.barrier c.w.wg 0).init = false) ∧
    (t.iss = some d ∧ d.hel = none ∧ t.lsOpen d.core d.slot = [] ∧ t.barrier d.w.wg 0 = b ∧ (∀ th ∈ d.exec false, hasBit b.cur (d.barWho th) = false) ∧
      arrivals b.cur + (d.exec false).length < b.exp ∧ SeqClear t d false (d.tids.take 1) [(.win 2, 2)] none ∧
      (∃ g, t.gridOf d.w = some g ∧ decide (d.first (.win 2) 2 % 2 ^ 32 < g.2.codeSize) = true) ∧ SeqClear t d false d.tids [] (some (.win 2, 2)) ∧
      d.sharedWrite (d.exec false) (.win 2) 2 = false) ∧
    (let u : State := t.modWarp 0 0 (fun w => { w with splits := w.splits.map (fun e => (e.1, { e.2 with status := .parked (.barw 0 [0] 0 false (some true)) })) })
     u.iss = some (issOf u) ∧ (issOf u).split.map (fun sp => sp.status) = some (.parked (.barw 0 [0] 0 false (some true)))) := by
  refine ⟨⟨by decide +kernel, by decide +kernel, seqClear_of_ok (by decide +kernel), by decide +kernel, by decide +kernel⟩,
    ⟨by decide +kernel, by decide +kernel, by decide +kernel, by decide +kernel, by decide +kernel, by decide +kernel, seqClear_of_ok (by decide +kernel),
      of_someAnd (by decide +kernel), seqClear_of_ok (by decide +kernel), by decide +kernel⟩, by decide +kernel, by decide +kernel⟩

/-- A pricking of the small machine's thread 0 over 64 items in one chunk, which is unclaimed, with the given helpers. -/
def benchPk (hs : NatMap Helper) : Pricking :=
  { slot := 0, tid := 0, entry := 0, shareBase := 8, shareLen := 8, n := 64, c := 64, chunks := [.unclaimed], parts := [], helpers := hs, fault := none,
    flags := 0, rsn := 0, held := none, claims := [], served := [] }

/-- A helper on lane 3 that holds nothing. -/
def benchHelper : Helper :=
  { lentFrom := 0, pc := BitVec.ofNat 64 placedCode, regs := [], preds := 1, fmt := 0x0F100000, fpst := 0, guardP := 0, guardInv := false, chunk := none,
    loads := 0, stores := 0, guardSlots := [], release := Release.none, wait := none, age := 0, reserve := none, bad := [] }

/-- The small machine with that pricking; and with a helper of it as the issuer. -/
def benchOpen (p : Pricking) : State := bench.modCore 0 (fun k => { k with prickings := [(0, p)] })
def benchLane : State :=
  { (benchOpen (benchPk [(3, benchHelper)])) with issuer := some { core := 0, slot := 0, who := .helper 3, cost := noCost, stalled := false } }

/-- Recruiting: a share range of 32 registers that ends at the last one, an entry at the start of the code, 15 helpers wanted. -/
theorem witness_recruiting :
    let s := benchWith (fun w => { w with regs := [(2, BitVec.ofNat 32 (1 + 15 * 2 ^ 15 + 32 * 2 ^ 19 + 32 * 2 ^ 25)), (3, 2#32)] })
    let c := issOf s
    s.iss = some c ∧ SeqClear s c false ((c.exec false).take 1) [(.vz, 1), (.win 2, 2)] (some (.win 5, 1)) ∧ c.exec false = [0, 1] ∧ c.pk = none ∧
    (∃ g, s.gridOf c.w = some g ∧ decide (c.read 0 .vz 1 < g.2.codeSize) = true) ∧
    (let ctl := c.read 0 (.win 2) 2 % 2 ^ 32
     bitsOf ctl 19 6 ≤ 32 ∧ bitsOf ctl 0 15 ≠ 0 ∧ bitsOf ctl 25 7 + bitsOf ctl 19 6 ≤ 120 ∧ c.w.wbase + bitsOf ctl 25 7 + bitsOf ctl 19 6 ≤ c.w.fileSize) ∧
    c.sharedWrite [0, 1] (.win 5) 1 = false ∧ (∀ i, i < 32 → (s.pendingLocs c.core c.slot).has 0 (.file (c.w.wbase + 32 + i)) = false) ∧
    (let t := s.modCore 0 (fun k => { k with prickings := [(0, benchPk [])] })
     t.iss = some (issOf t) ∧ (issOf t).pk ≠ none) := by
  refine ⟨by decide +kernel, seqClear_of_ok (by decide +kernel), by decide +kernel, by decide +kernel, of_someAnd (by decide +kernel), by decide +kernel,
    by decide +kernel, by decide +kernel, by decide +kernel, by decide +kernel⟩

/-- The small machine with a pricking and a helper of it as the issuer. -/
def benchHel (p : Pricking) : State :=
  { (benchOpen p) with issuer := some { core := 0, slot := 0, who := .helper 3, cost := noCost, stalled := false } }

/-- Prickings, ClaimsServed: two claims of past cycles, of which the older is served first, with a chunk unclaimed and with none. -/
theorem witness_claims :
    (let p := { benchPk [] with claims := [(0, 1), (3, 0)] }
     p.claims.Pairwise (fun x y => x.1 < y.1) ∧ p.nextClaim 2 = some 3 ∧ p.nextChunk = some 0) ∧
    (let p := { benchPk [] with claims := [(0, 1), (3, 1)], chunks := [.done] }
     p.claims.Pairwise (fun x y => x.1 < y.1) ∧ p.nextClaim 2 = some 0 ∧ p.nextChunk = none) := by decide +kernel

/-- Prickings, ChunkClaims of the recruiter's thread: with no pricking, before its claim, and once the claim is served with a chunk or none. -/
theorem witness_recruiter_claims :
    (SeqClear bench benchIss true benchIss.tids [] (some (.win 2, 2)) ∧ benchIss.hel = none ∧ benchIss.mine benchIss.tids = none) ∧
    (∀ p ∈ [benchPk [], { benchPk [] with chunks := [.held 0], served := [(0, some 0)] }, { benchPk [] with chunks := [.done], served := [(0, none)] }],
      let s := benchOpen p
      let c := issOf s
      s.iss = some c ∧ seqOk s c true c.tids [] (some (.win 2, 2)) = true ∧ c.hel = none ∧ c.mine c.tids = some p ∧ c.resumed = none ∧
        c.sharedWrite [p.tid] (.win 2) 2 = false ∧ mget? (s.servedPk c p).served (p.tid / 4) = mget? p.served 0 ∧ mget? p.claims 0 = none) :=
  ⟨⟨seqClear_of_ok (by decide +kernel), by decide +kernel, by decide +kernel⟩, by decide +kernel⟩

/-- Prickings, ChunkClaims and RLSE of a helper: before its claim, asked to end, and once its claim is served with a chunk or none. -/
theorem witness_helper_claims :
    ∀ p ∈ [benchPk [(3, { benchHelper with chunk := some 0 })], benchPk [(3, { benchHelper with release := { Release.none with close := true } })],
        { benchPk [(3, benchHelper)] with chunks := [.held 3], served := [(3, some 0)] }, { benchPk [(3, benchHelper)] with served := [(3, none)] }],
      let s := benchHel p
      let c := issOf s
      s.iss = some c ∧ seqOk s c true c.tids [] (some (.win 2, 2)) = true ∧ seqOk s c true c.tids [] none = true ∧ c.who = .helper 3 ∧ c.hel = mget? p.helpers 3 ∧
        c.pk = some p ∧ c.hel.any (fun h => h.loads == 0 && h.stores == 0) = true ∧ c.sharedWrite c.tids (.win 2) 2 = false ∧ c.resumed = none ∧
        mget? (s.servedPk c p).served 3 = mget? p.served 3 ∧ mget? p.claims 3 = none := by decide +kernel

/-- Prickings, PartialsDeposited: a helper and a recruiter with a chunk, and a helper without one. -/
theorem witness_partials :
    (let p := benchPk [(3, { benchHelper with chunk := some 0 })]
     let c := issOf (benchHel p)
     (benchHel p).iss = some c ∧ seqOk (benchHel p) c true c.tids [(.win 2, 2)] none = true ∧ c.pk = some p ∧ (c.exec false).head? = some 12 ∧
      c.hel.any (fun h => h.chunk == some 0) = true) ∧
    (let p := { benchPk [] with chunks := [.held 0], held := some 0 }
     let c := issOf (benchOpen p)
     (benchOpen p).iss = some c ∧ seqOk (benchOpen p) c true c.tids [(.win 2, 2)] none = true ∧ c.pk = some p ∧ c.hel = none ∧ c.mine (c.exec false) = some p) ∧
    (let c := issOf benchLane
     benchLane.iss = some c ∧ seqOk benchLane c true c.tids [(.win 2, 2)] none = true ∧ c.hel = some benchHelper) := by decide +kernel

/-- Prickings, PrickingJoins and PrickingEnds: with no pricking; with a helper; with none and a chunk unclaimed, with every chunk done and a partial,
and with a recorded fault. -/
theorem witness_joins :
    (SeqClear bench benchIss false benchIss.tids [] (some (.win 2, 2)) ∧ benchIss.mine benchIss.tids = none ∧ SeqClear bench benchIss true benchIss.tids [] none) ∧
    (∀ p ∈ [benchPk [(3, benchHelper)], benchPk [], { benchPk [] with chunks := [.held 0], held := some 0, parts := [(0, 5)] },
        { benchPk [] with chunks := [.cancelled], fault := some (0, 3, 4) }],
      let s := (benchOpen p).modCtx 0 (fun x => { x with trapbase := 0x100 })
      let c := issOf s
      s.iss = some c ∧ seqOk s c false c.tids [] (some (.win 2, 2)) = true ∧ seqOk s c true c.tids [] none = true ∧ c.hel = none ∧ c.mine c.tids = some p ∧
        c.sharedWrite [p.tid] (.win 2) 2 = false ∧ c.resumed = none ∧ s.orphansOpen c.core c.slot = false ∧
        (c.who = .split 0 ∧ c.w.trap = none ∧ s.trapBase c ≠ 0)) ∧
    ((benchPk []).recruiterDone.nextChunk = some 0) ∧
    (let q := { benchPk [] with chunks := [.held 0], held := some 0, parts := [(0, 5)] }
     q.recruiterDone.nextChunk = none ∧ q.fault = none ∧ q.recruiterDone.present.fold .add = some (5, 0)) ∧
    ({ benchPk [] with chunks := [.cancelled], fault := some (0, 3, 4) } : Pricking).recruiterDone.nextChunk = none ∧
    (let s := bench
     SeqClear s benchIss true benchIss.tids [] (some (.win 2, 1)) ∧ benchIss.sharedWrite (benchIss.exec false) (.win 2) 1 = false) := by
  refine ⟨⟨seqClear_of_ok (by decide +kernel), by decide +kernel, seqClear_of_ok (by decide +kernel)⟩, by decide +kernel, by decide +kernel, by decide +kernel,
    by decide +kernel, seqClear_of_ok (by decide +kernel), by decide +kernel⟩

/-- The machine with a scratchpad allocation whose workgroup owns ma0 to ma3, with int4 operand words of one plane in v4 and v5, two band
scales of 1 in v6 and v7, and, as a handle and a stream word, binding slot 0 and the first plane of tensor 0 in v12 and v13. -/
def benchMatrix : State :=
  let x : Tensor := { fmt := .int4, spw := 1, rows := 1, k := 32, scl := false, planes := [], bounds := [], scales := [], bands := [] }
  let v : WeightVersion := { src := (0, 0), name := 7, ver := 1, owners := 1, key := 1, hbm := none, tensors := [x] }
  let s := (benchScratch.modCore 0 (fun k => { k with accOwner := [(0, 0), (1, 0), (2, 0), (3, 0)] })).modWarp 0 0 (fun w => { w with
    regs := [(1, 7#32), (4, 0x50840000#32), (5, 0x50840000#32), (6, 0x3F803F80#32), (7, 0x3F80#32), (12, 0x80000000#32), (13, 0x8000#32)] })
  { s with weights := [{ v := v, published := some 0, token := s.keyToken 1, ready := true, image := [], prog := none, bad := [] }], binds := [(0, { bound := some (7, 1), gen := 0 })] }

/-- MatrixProducts and MatrixOthers. -/
theorem witness_matrix :
    let s := benchMatrix
    let c := issOf s
    (s.iss = some c ∧ QueueClear s c 0 [(.win 4, 2), (.vz, 1)] false ∧ (s.core c.core).matFull = false ∧ c.w.tiles < 15 ∧
      (s.mmaVerdict c 3 false (c.read 0 (.win 4) 2 % 2 ^ 32) (c.read 0 (.win 4) 2 / 2 ^ 32) (c.read 0 .vz 1)).toOption.isSome = true ∧
      (s.mmaVerdict c 2 true (c.read 0 (.win 4) 2 % 2 ^ 32) (c.read 0 (.win 4) 2 / 2 ^ 32) (c.read 0 .vz 1)).toOption.isSome = true) ∧
    (QueueClear s c 0 [(.win 6, 2), (.vz, 2)] false ∧ betaInvalid (bitsOf (c.read 0 (.win 6) 2) 0 16) = false ∧
      betaInvalid (bitsOf (c.read 0 (.win 6) 2) 32 16) = false ∧ c.read 0 (.win 6) 2 < 2 ^ 48) ∧
    (mget? (s.core c.core).accOwner 3 = some c.w.wg ∧ QueueClear s c 0 [(.vz, 2)] false ∧ (epiFmt (bitsOf (c.read 0 .vz 2) 28 4)).isSome = true ∧
      bitsOf (c.read 0 .vz 2) 0 17 + (4096 * 4 + 4) ≤ (s.ownBytes c).2 ∧ c.read 0 .vz 1 + 16388 ≤ (s.ownBytes c).2) ∧
    (SeqClear s c false c.tids [] (some (.win 1, 1)) ∧ c.sharedWrite c.tids (.win 1) 1 = false ∧ c.resumed = none ∧ (s.core c.core).hold = none ∧
      (s.core c.core).matQ = [] ∧ s.privileged c = true ∧ c.opCause c.tids (.win 1) 1 = none ∧ c.hel = none) ∧
    (mget? (bench.core 0).accOwner 0 = none ∧ (0 : Nat) ∉ (bench.core 0).accReleasing) := by
  refine ⟨⟨by decide +kernel, by unfold QueueClear; decide +kernel, by decide +kernel, by decide +kernel, by decide +kernel, by decide +kernel⟩,
    ⟨by unfold QueueClear; decide +kernel, by decide +kernel, by decide +kernel, by decide +kernel⟩,
    ⟨by decide +kernel, by unfold QueueClear; decide +kernel, by decide +kernel, by decide +kernel, by decide +kernel⟩,
    ⟨seqClear_of_ok (by decide +kernel), by decide +kernel, by decide +kernel, by decide +kernel, by decide +kernel, by decide +kernel, by decide +kernel,
      by decide +kernel⟩, by decide +kernel, by decide +kernel⟩

/-- WeightInstructions. -/
theorem witness_weights :
    let s := benchMatrix
    let c := issOf s
    (SeqClear s c false (c.tids.take 1) [(.win 1, 1)] (some (.win 1, 1)) ∧ (s.bindAnswer c (c.first (.win 1) 1)).toOption.map Prod.fst = some 1 ∧
      (∃ r, s.bindAnswer c (c.first .vz 1) = .error r)) ∧
    (SeqClear s c false (c.tids.take 1) [(.win 12, 1), (.vz, 1)] (some (.win 2, 2)) ∧ c.sharedWrite c.tids (.win 2) 2 = false ∧
      (∃ v, s.liveHandle c.w.ctx (c.first (.win 12) 1) = some v ∧ (s.queryAnswer v.1 (c.first .vz 1)).isSome = true) ∧
      SeqClear s c false (c.tids.take 1) [(.win 12, 1)] none) ∧
    (QueueClear s c 0 [(.win 12, 2), (.vz, 4), (.vz, 1)] false ∧ (s.core c.core).streamQ.length < Config.queueDepth ∧ c.w.copies < 31 ∧
      (s.streamVerdict c 0 (c.read 0 .vz 1) (c.read 0 (.win 12) 2 % 2 ^ 32) (c.read 0 (.win 12) 2 / 2 ^ 32) (c.read 0 .vz 4)).toOption.isSome = true) := by
  refine ⟨⟨seqClear_of_ok (by decide +kernel), by decide +kernel, ⟨1, by decide +kernel⟩⟩,
    ⟨seqClear_of_ok (by decide +kernel), by decide +kernel, of_someAnd (by decide +kernel), seqClear_of_ok (by decide +kernel)⟩,
    by unfold QueueClear; decide +kernel, by decide +kernel, by decide +kernel, by decide +kernel⟩

/-- The memory of the machine below. -/
def benchLaunchMem : State :=
  let r : Nat := 0x5100 + 2 ^ 192
  let h : Nat := 0x4E545354 + 2 ^ 32 + 48 * 2 ^ 48 + 2 ^ 64 + 4 * 2 ^ 96
  (((bench.hbmWrite 1 0x5000 (leBytes 128 r)).hbmWrite 1 0x5080 (leBytes 128 (r + 3 * 2 ^ 224 + 2 * 2 ^ 336))).hbmWrite 1 0x5100
    (leBytes 32 (placedCode + 0x5200 * 2 ^ 64))).hbmWrite 1 0x5200 (leBytes 16 h)

/-- The registers, the domain and the group of the machine below. -/
def launchRegs (s : State) : State :=
  let s := (s.modWarp 0 0 (fun w => { w with regs := [(2, 0x5000#32), (4, 0x5080#32), (6, 0x40000000#32), (256 + 6, 0x40000000#32)] })).modCore 0 (fun k =>
    { k with tlb := [{ ctx := 0, page := 1, leaf := 1 + 2 ^ 5 + 2 ^ 6 + 2 ^ 8 + 4 * 2 ^ 9 + 2 ^ 48 + 2 * 2 ^ 52 + 2 ^ 54, shift := 30 }] })
  { s with fab := { s.fab with domain := [(0, (1, 1)), (1, (2, 1))] }, groups := [(0, { pair := 1 + 2 * 2 ^ 8, pend := none, count := 0, gen := 7 })] }

/-- A machine with a launch record for plot 0 at 0x5000 and one for device 1 at 0x5080, both of the kernel described at 0x5100 with its
station table at 0x5200; their addresses in v2:v3 and v4:v5; device 1 in the domain, its window from 1 GiB on, which v6:v7 holds; and
group 0 configured for plot 0 with two arrivals. -/
def benchLaunch : State := launchRegs benchLaunchMem

/-- `EngineIdle` as one truth value. -/
def idleOk (s : State) (c : Iss) : Bool :=
  decide ((s.core c.core).loadsPending = [] ∧ (s.core c.core).storesPending = [] ∧ (s.core c.core).memQ = [] ∧ s.unacked c.core = [] ∧
    (∀ r ∈ s.remotes, r.core ≠ c.core) ∧ (∀ r ∈ s.hostReqs, r.core ≠ c.core) ∧ (∀ f ∈ s.fabOps, f.core ≠ c.core) ∧ c.counterOf .stores = 0)

theorem engineIdle_of_ok {s : State} {c : Iss} (h : idleOk s c = true) : EngineIdle s c := by
  unfold EngineIdle; exact of_decide_eq_true (p := _ ∧ _) h

/-- Launches: a record that is read, checked and accepted; a full queue; a guard that is false; JOIN of grids complete and not. -/
theorem witness_launches :
    let s := benchLaunch
    let c := issOf s
    (s.iss = some c ∧ SeqClear s c false (c.tids.take 1) [(.win 2, 2)] (some (.win 9, 1)) ∧ c.sharedWrite c.tids (.win 9) 1 = false ∧ s.entriesOf c < 4 ∧
      c.resumed = none ∧ s.loadsWait c (s.recordAccs c (c.first (.win 2) 2) 128) = false ∧ s.launchBusy c = false ∧
      (∃ x, s.readLaunch c (c.first (.win 2) 2) false = .ok x ∧
        (let r := LaunchRec.of (leNat x.2.1)
         let e := x.1.enqGrid ((x.1.launchEngine c).getD 0) (r.grid x.1 c.w.ctx x.2.2 (x.1.rootTag c.w).1 (x.1.rootTag c.w).2 (.parent c.w.wg) (upto r.nwg) true)
           (.warp c.core c.slot x.1.nextId)
         someAnd e.2 (fun p => p.isSome) && (mget? e.1.wgs c.w.wg).isSome && idleOk e.1 c) = true) ∧
      (s.core c.core).lchQ = [] ∧ c.asked = none ∧ s.recordFar c (c.first (.win 2) 2) 128 = none) ∧
    (let t := s.modWg 0 (fun g => { g with entries := [.grid 0, .grid 0, .grid 0, .grid 0], issued := 2, done := 1 })
     t.iss = some (issOf t) ∧ 4 ≤ t.entriesOf (issOf t) ∧ (issOf t).resumed = none ∧ SeqClear t (issOf t) false ((issOf t).tids.take 1) [(.vz, 1)] none ∧
      joinTarget 1 2 = 1 ∧ (1 + 2 ^ 32 - joinTarget 1 2) % 2 ^ 32 < 2 ^ 31 ∧ 2 ^ 31 ≤ (1 + 2 ^ 32 - joinTarget 2 2) % 2 ^ 32) := by
  refine ⟨⟨by decide +kernel, seqClear_of_ok (by decide +kernel), by decide +kernel, by decide +kernel, by decide +kernel,
      by decide +kernel, by decide +kernel, of_okAnd (by decide +kernel), by decide +kernel, by decide +kernel, by decide +kernel⟩,
    by decide +kernel, by decide +kernel, by decide +kernel, seqClear_of_ok (by decide +kernel), by decide +kernel, by decide +kernel, by decide +kernel⟩

/-- A split parked for an answer, which has come. -/
def parkReply (v : Option Nat) (s : State) : State :=
  s.modWarp 0 0 (fun w => { w with splits := w.splits.map (fun e => (e.1, { e.2 with status := .parked (.reply 5 v) })) })

/-- GroupsAndFabricLaunches: a fabric launch that goes out and one that is answered; a configured group, a generation that has passed, and
pairs that make a group current, pending and unconfigured. -/
theorem witness_groups :
    let s := benchLaunch
    let c := issOf s
    let t := parkReply (some 3) s
    (SeqClear s c false (c.tids.take 1) [(.win 4, 2), (.vz, 1)] (some (.win 10, 2)) ∧ c.sharedWrite c.tids (.win 10) 2 = false ∧ bitsOf (c.first .vz 1) 10 18 = 0 ∧
      s.loadsWait c (s.recordAccs c (c.first (.win 4) 2) 128) = false ∧ c.resumed = none ∧
      (∃ x, s.readLaunch c (c.first (.win 4) 2) true = .ok x ∧
        (let r := LaunchRec.of (leNat x.2.1)
         idleOk x.1 c && decide (x.1.entriesOf c < 4) && r.conf == 3 && (bitsList 16 r.devm).any s.devPresent) = true)) ∧
    (t.iss = some (issOf t) ∧ (issOf t).replied = some (some 3) ∧ SeqClear t (issOf t) false ((issOf t).tids.take 1) [(.win 4, 2), (.vz, 1)] (some (.win 10, 2)) ∧
      SeqClear t (issOf t) false ((issOf t).tids.take 1) [(.vz, 1)] (some (.win 10, 1))) ∧
    (SeqClear s c false (c.tids.take 1) [(.vz, 1), (.vz, 1)] (some (.win 10, 1)) ∧ s.groupKey c (c.first .vz 1) = some 0 ∧ (s.group 0).configured = true ∧ idleOk s c = true ∧
      (let d := ((s.group 0).gen + 2 ^ 32 - c.first .vz 1 % 2 ^ 32) % 2 ^ 32
       1 ≤ d ∧ d < 2 ^ 31)) ∧
    (SeqClear s c false (c.tids.take 1) [(.vz, 1), (.vz, 2)] none ∧ s.badPair 0 (c.first .vz 2) = false ∧ s.badPair 0 (1 + 2 * 2 ^ 8) = false ∧ (s.group 0).count = 0) := by
  refine ⟨⟨seqClear_of_ok (by decide +kernel), by decide +kernel, by decide +kernel, by decide +kernel, by decide +kernel,
      of_okAnd (by decide +kernel)⟩,
    ⟨by decide +kernel, by decide +kernel, seqClear_of_ok (by decide +kernel), seqClear_of_ok (by decide +kernel)⟩,
    ⟨seqClear_of_ok (by decide +kernel), by decide +kernel, by decide +kernel, by decide +kernel, by decide +kernel⟩, seqClear_of_ok (by decide +kernel),
    by decide +kernel, by decide +kernel, by decide +kernel⟩

/-- RemoteOperations: an FWR and an FATOM at the first byte of the window of device 1. -/
theorem witness_remote :
    let s := benchLaunch
    let c := issOf s
    let m : MemSpec := { inHelper := false, g := false, u := false, cls := some .stores, srcs := [(.win 6, 2), (.win 8, 4)], dst := none, fab := true }
    let n : MemSpec := { inHelper := false, g := false, u := true, cls := some .loads, srcs := [(.win 6, 2), (.win 8, 4)], dst := some (.win 2, 2), dstLast := true, fab := true }
    m.Clear s c ∧ n.Clear s c ∧ c.exec false ≠ [] ∧ s.fabOps = [] ∧ s.devPresent 1 = true ∧
    (∀ y ∈ m.units s c, c.read (srcTid m.u y.1) (.win 6) 2 % 16 = 0 ∧ s.translate c.core c.w.ctx .store (c.read (srcTid m.u y.1) (.win 6) 2) =
      .ok { space := .fabric, pa := 2 ^ 48, key := 1 }) ∧
    (∀ y ∈ n.units s c, c.read (srcTid n.u y.1) (.win 6) 2 % 8 = 0 ∧ s.translate c.core c.w.ctx .atomic (c.read (srcTid n.u y.1) (.win 6) 2) =
      .ok { space := .fabric, pa := 2 ^ 48, key := 1 }) := by
  refine ⟨memClear_of_ok (by decide +kernel), memClear_of_ok (by decide +kernel), by decide +kernel, by decide +kernel, by decide +kernel, by decide +kernel,
    by decide +kernel⟩

/-- Exits: some threads of the one split exit by a guard that only they have; and all do, as the last of the warp. -/
theorem witness_exits :
    let s := benchWith (fun w => { w with preds := [(1, 3)], strands := w.strands.map (fun st => { st with guardP := 1 }) })
    (s.iss = some (issOf s) ∧ (issOf s).exec true = [1] ∧ (issOf s).mine [1] = none ∧
      (∀ l ∈ (issOf s).lanes, ∃ k, k < 4 ∧ ((issOf s).w.strand l).active.getLsbD k = true ∧ ((issOf s).exec true).contains (4 * l + k) = false)) ∧
    (benchIss.exec false ≠ [] ∧ benchIss.mine (benchIss.exec false) = none ∧ (∃ sp, benchIss.w.splits = [(0, sp)]) ∧
      (∀ l ∈ benchIss.lanes, (benchIss.w.strand l).stack = []) ∧
      (∀ l ∈ benchIss.lanes, ∀ k, k < 4 → (benchIss.w.strand l).active.getLsbD k = true → (benchIss.exec false).contains (4 * l + k) = true) ∧
      benchIss.w.loads = 0 ∧ benchIss.w.stores = 0 ∧ benchIss.w.copies = 0 ∧ benchIss.w.tiles = 0) := by
  refine ⟨⟨by decide +kernel, by decide +kernel, by decide +kernel, fun l hl => ⟨0, by decide, ?_⟩⟩, by decide +kernel, by decide +kernel, ⟨_, rfl⟩, by decide +kernel,
    by decide +kernel, by decide +kernel, by decide +kernel, by decide +kernel, by decide +kernel⟩
  revert l; decide +kernel

/-- Reconvergence: a strand with a PATH over a JOIN, a sole split with empty stacks, and one that must wait for a second split. -/
theorem witness_reconvergence :
    let s := benchWith (fun w => { w with strands := w.strands.map (fun st => { st with
      stack := [{ kind := .path, mask := 2, pc := some 0x20, fmt := 0x0F100000 }, { kind := .join, mask := 3, pc := none, fmt := 0x0F100000 }] }) })
    (s.iss = some (issOf s) ∧ (issOf s).hel = none ∧ (∀ l ∈ (issOf s).lanes, ((issOf s).w.strand l).stack.head?.any (fun e => e.mask != 0) = true)) ∧
    (∀ l ∈ benchIss.lanes, (benchIss.w.strand l).stack = [] ∧ (benchIss.w.strand l).pc = benchIss.pc) ∧
    (let t := benchWith (fun w => { w with splits := w.splits.flatMap (fun e => [e, (e.1 + 1, { e.2 with strands := 2, status := .held })]) })
     t.iss = some (issOf t) ∧ (mget? (issOf t).w.splits 1).isSome = true ∧ (∀ l ∈ (issOf t).lanes, ((issOf t).w.strand l).stack = [])) := by decide +kernel

/-- The small machine with a trap handler. -/
def benchTrap : State := bench.modCtx 0 (fun x => { x with trapbase := 0x100 })

/-- OperandAndAddressTraps and SoftwareTrapsAndReturn: a split that can trap, an operand out of the window, a load outstanding on a source, a
soft error in one, and a destination in a frozen range; a warp in trap state; and a context without a handler. -/
theorem witness_traps :
    let c := issOf benchTrap
    let f : RForm := { d := .win 1, a := .win 2, b := .win 3, h := none, g := false, u := false }
    (benchTrap.iss = some c ∧ CanTrap benchTrap c 0 ∧ (specR { f with a := .win 64 } false).cause c = some .window) ∧
    (let s := benchTrap.modCore 0 (fun k => { k with cooling := [{ slot := 0, loc := .file 2, tids := 1, left := 1 }] })
     s.iss = some (issOf s) ∧ CanTrap s (issOf s) 0 ∧ (specR f false).cause (issOf s) = none ∧ (specR f false).waits s (issOf s) = true) ∧
    (let s := benchTrap.modWarp 0 0 (fun w => { w with bad := [2] })
     CanTrap s (issOf s) 0 ∧ (specR f false).cause (issOf s) = none ∧ (specR f false).waits s (issOf s) = false ∧
      (issOf s).badRead ((issOf s).srcTids false (issOf s).tids) (specR f false).srcs = true) ∧
    (let s := benchTrap.modCore 0 (fun k => { k with prickings := [(0, { (benchPk []) with shareBase := 0 })] })
     CanTrap s (issOf s) 0 ∧ (specR f false).cause (issOf s) = none ∧ (specR f false).waits s (issOf s) = false ∧
      (issOf s).badRead ((issOf s).srcTids false (issOf s).tids) (specR f false).srcs = false ∧ (specR f false).shared (issOf s) = true) ∧
    (let s := benchTrap.modWarp 0 0 (fun w => { w with trap := some { strands := 1 }, trapcause := 0x16, trappc := 0x80 })
     s.iss = some (issOf s) ∧ (issOf s).who = .split 0 ∧ (issOf s).w.trap ≠ none ∧ (issOf s).w.trappc.toNat % 4 = 0 ∧ (issOf s).w.trappc.toNat < 2 ^ 57) ∧
    (benchIss.who = .split 0 ∧ benchIss.w.trap = none ∧ bench.trapBase benchIss = 0) ∧
    (let h := issOf benchLane
     h.who = .helper 3 ∧ h.hel = some benchHelper ∧ h.pk = some (benchPk [(3, benchHelper)])) := by
  unfold CanTrap; decide +kernel

/-- Privilege: the small machine's context is privileged; and one that is not can trap.  OperandAndAddressTraps: every address is 2. -/
theorem witness_privilege :
    (benchIss.hel = none ∧ bench.privileged benchIss = true) ∧
    (let s := bench.modCtx 0 (fun x => { x with trapbase := 0x100, priv := false })
     s.iss = some (issOf s) ∧ CanTrap s (issOf s) 0 ∧ s.privileged (issOf s) = false) ∧
    (let s := benchTrap.modWarp 0 0 (fun w => { w with regs := [(2, 2#32), (256 + 2, 2#32)] })
     s.iss = some (issOf s) ∧ CanTrap s (issOf s) 0 ∧ (loadSpec (.win 1) (.win 2) 1 false false).Clear s (issOf s) ∧
      (storeSpec (.win 1) (.win 2) 1 false false).Clear s (issOf s) ∧ (loadSpec (.win 1) (.win 2) 1 false false).units s (issOf s) ≠ [] ∧
      (∀ x ∈ (loadSpec (.win 1) (.win 2) 1 false false).units s (issOf s), (issOf s).globalVa false x.1 (.win 2) 0 % 4 ≠ 0) ∧
      (∀ x ∈ (storeSpec (.win 1) (.win 2) 1 false false).units s (issOf s), (issOf s).globalVa false x.1 (.win 2) 0 % 4 ≠ 0)) := by
  refine ⟨by decide +kernel, ⟨by decide +kernel, by unfold CanTrap; decide +kernel, by decide +kernel⟩, by decide +kernel, by unfold CanTrap; decide +kernel,
    memClear_of_ok (by decide +kernel), memClear_of_ok (by decide +kernel), by decide +kernel, by decide +kernel, by decide +kernel⟩

/-! Events. -/

/-- A store of one byte at the start of line 0x80 of HBM that has left the buffer. -/
def benchEntry : WcbEntry :=
  { eid := 0, line := 0x80, space := .hbm, key := 1, bytes := [(127, 9)], epoch := 0, since := 0, owners := [], tag := none, wg := none, bad := false }

/-- A store of one word into the last word of the allocation of `benchScratch`, from core 1, with a verdict or without. -/
def benchRemote (v : Option (Option Cause)) : Remote :=
  { id := 0, cid := 0, core := 1, slot := 0, who := .split 0, t := 0, target := 0, word := 8191, words := 1, gen := 0, ctx := 0, kind := .store,
    data := [1, 2, 3, 4], dests := [], verdict := v, go := true }

/-- A copy command, a matrix command and a stream of the small machine's warp. -/
def benchCopy (g : Bool) (m : Move) : CopyCmd :=
  { id := 0, ga := false, slot := 0, tid := 0, wg := 0, work := .box [m], allocGen := 0, bar := none, batch := 1, guardPend := [], guardVal := g,
    out := none, dropped := false }
def benchMat (g st : Bool) (w : MatWork) : MatCmd :=
  { id := 0, slot := 0, tid := 0, wg := 0, work := w, batch := 1, guardPend := [], guardVal := g, started := st, dropped := false,
    out := { acc := [], status := [], scr := [(0, 1#32)], flags := 0 }, headAt := none }
def benchStream : StreamCmd :=
  { id := 0, slot := 0, tid := 0, wg := 0, name := 7, ver := 1, tidx := 0, q := 1, row0 := 0, g0 := 0, ng := 1, nr := 1, scl := false, off := 0,
    soff := 0, bar := none, batch := 1, guardPend := [], guardVal := true, pc := 0 }

/-- MemoryEvents: a guard slot, a load with its bytes, an entry at its coherence point and one of 2,000 ns, a walk, page answers of either
kind, a remote store before and after its verdict, and a host write. -/
theorem witness_memory_events :
    (let s := bench.modCore 0 (fun k => { k with stages := [{ slot := 0, who := .split 0, cls := .c0, left := 1, preds := [5] }] })
     ∃ st ∈ (s.core 0).stages, st.slot = 0 ∧ st.preds.contains 5 = true) ∧
    (let l : Load := { cid := 0, slot := 0, who := .split 0, writes := [(63, .file 255, 7#32), (0, .file 1, 7#32)], kind := .load .none, accs := [], after := [], acquire := none }
     let s := bench.modCore 0 (fun k => { k with loadsPending := [l] })
     ((s.core 0).loadsPending.filter (fun x => x.slot == 0))[0]? = some l ∧ s.eidsOpen l.after = false ∧ (s.warp? 0 0).any (fun w => !w.splits.isEmpty) = true ∧
      (∀ x ∈ l.writes, x.1 < 64 ∧ (match x.2.1 with
        | .file r => decide (r < 256)
        | _ => true) = true) ∧ (l.writes.map (fun x => (x.1, x.2.1))).Nodup) ∧
    (let s := bench.modCore 0 (fun k => { k with drains := [benchEntry] })
     (s.core 0).drains[0]? = some benchEntry ∧ s.entryReady 0 benchEntry = true ∧ Distinct benchEntry.bytes ∧ ∀ x ∈ benchEntry.bytes, x.1 < 128) ∧
    (let s : State := { bench.modCore 0 (fun k => { k with wcb := [benchEntry] }) with elapsed := 2000 }
     (s.core 0).wcb[0]? = some benchEntry ∧ benchEntry.since + 2000 ≤ s.elapsed) ∧
    ((∃ x, mget? bench.ctxs 0 = some x ∧ (bench.walk x (2 ^ 30 - 1)).toOption.isSome = true) ∧ 2 ^ 30 - 1 < plotWindow ∧ (bench.core 0).tlbHit 0 (2 ^ 30 - 1) = none) ∧
    (∀ a ∈ [PageAnswer.retry, .decline], let s := benchTrap.modWarp 0 0 (fun w => { w with splits := w.splits.map (fun e =>
        (e.1, { e.2 with status := .parked (.page [{ page := 0, seq := 0, answer := a }]) })) })
      (s.issFor 0 0 (.split 0) noCost).any (fun c => c.split.any (fun sp => sp.status == .parked (.page [{ page := 0, seq := 0, answer := a }]) && sp.stopped.isNone) &&
        c.w.trap.isNone && s.trapBase c != 0) = true) ∧
    (∀ v ∈ [none, some (none : Option Cause)], let r := benchRemote v
      let s : State := { benchScratch with remotes := [r] }
      s.remotes[0]? = some r ∧ (s.remotes.take 0).any r.follows = false ∧ (s.core r.target).genHolds r.word.toNat r.gen = true ∧ r.data.length = 4 * r.words ∧ s.remoteVerdict r = none) ∧
    (let e := { benchEntry with space := .host, key := 0 }
     let r : HostReq := { cid := 0, core := 0, slot := 0, who := .split 0, part := 0, kind := .store, accs := [], entry := some e, after := [], acquire := none }
     let s : State := { bench with hostReqs := [r] }
     s.hostReqs[0]? = some r ∧ s.eidsOpen r.after = false ∧ r.entry = some e ∧ s.entryReady r.core e = true ∧ e.bad = false ∧ Distinct e.bytes) ∧
    bench.dir = [] := by
  unfold Distinct; decide +kernel

/-- No holder of any line stands in the directory of a machine without one, so that a host read meets no publish. -/
theorem witness_host_read : ∀ plot pa, bench.publishTo plot (lineNum .hbm (pa * 128)) none = [] := by
  intro plot pa
  have h : bench.dir = [] := by decide +kernel
  have hd : ∀ k, bench.dirLine k = { holders := [], many := 0, tag := none } := fun k => by rw [State.dirLine, h]; rfl
  simp [State.publishTo, hd, hasBit]

/-- EngineEvents: a released allocation with nothing inbound and after 4,000 ns; ways on the move either way; a copy whose guard is false, one
into the scratchpad and one to HBM. -/
theorem witness_copy_events :
    (let a : Alloc := { base := 0, words := 1, gen := 0, wg := 0, ctx := 0, inbound := 1, released := some 0 }
     let s : State := { bench.modCore 0 (fun k => { k with allocs := [a] }) with elapsed := 4000 }
     (s.core 0).allocs[0]? = some a ∧ a.released = some 0 ∧ (0 : Nat) + 4000 ≤ s.elapsed) ∧
    (let s := bench.modCore 0 (fun k => { k with carve := 1, carveTo := 2, allocs := [{ base := 0, words := 16384, gen := 0, wg := 0, ctx := 0, inbound := 0, released := none }] })
     (s.core 0).carve < (s.core 0).carveTo ∧ (∀ a ∈ (s.core 0).allocs, a.base + a.words ≤ (4 - ((s.core 0).carve + 1)) * 8192)) ∧
    (let s := bench.modCore 0 (fun k => { k with carve := 2, carveTo := 1 })
     (s.core 0).carveTo < (s.core 0).carve) ∧
    (let q := benchCopy
     let m : Move := { src := .fixed [1, 2, 3, 4], dst := .scratch 32764, n := 4 }
     let n : Move := { src := .scratch 0, dst := .mem .hbm 1 0x8000, n := 4 }
     let s := fun (q : CopyCmd) => benchScratch.modCore 0 (fun k => { k with copyQ := [q] })
     (∀ g ∈ [false, true], ∀ x ∈ [m, n], ((s (q g x)).core 0).copyQ[0]? = some (q g x) ∧ copyReady ((s (q g x)).core 0).copyQ 0 (q g x) = true ∧
       (s (q g x)).copyEcc 0 x.src x.n = false) ∧ ((s (q true m)).core 0).genHolds (32764 / 4) 0 = true) ∧
    (let m : McastWord := { wg := 0, accepted := true, core := 1, cmd := 0, part := 0, ctx := 0, target := 0, word := 8191, gen := 0, data := [(0, 1), (3, 2)] }
     let s : State := { benchScratch with mcasts := [m] }
     s.mcasts[0]? = some m ∧ s.targetVerdict m.target m.word 1 m.gen m.ctx = none ∧ (s.core m.target).genHolds m.word m.gen = true ∧ (m.data.map Prod.fst).Nodup ∧ ∀ x ∈ m.data, x.1 < 4) := by decide +kernel

/-- EngineEvents: a matrix command at the head before its start, with its guard either way, and after it; a stream; and a version that another
has superseded. -/
theorem witness_matrix_events :
    (let q := benchMat
     let s := fun (q : MatCmd) => bench.modCore 0 (fun k => { k with matQ := [q] })
     ∀ w ∈ [MatWork.clear 3 false, .clear 0 true, .mard 3 true 0], ∀ g ∈ [false, true], ∀ st ∈ [false, true], ((s (q g st w)).core 0).matQ = [q g st w] ∧
       ((s (q g st w)).core 0).hold = none ∧ ((s (q g st w)).core 0).readsBad w = false ∧ ((q g st w).out.scr.map Prod.fst).Nodup) ∧
    (let q := benchStream
     let s := benchMatrix.modCore 0 (fun k => { k with streamQ := [q] })
     (s.core 0).streamQ[0]? = some q ∧ streamReady (s.core 0).streamQ 0 q = true ∧
      (s.version 7 1).any (fun v => v.bad.isEmpty && v.token == s.keyToken v.v.key && !s.rangeChanged v && v.v.tensors[0]?.any (fun x => decide ((q.planeMoves x).map Prod.fst).Nodup)) = true) ∧
    (let s : State := { benchMatrix with binds := [], grids := [], weights := benchMatrix.weights ++ benchMatrix.weights.map (fun x => { x with v := { x.v with ver := 2 }, published := some 1 }) }
     (s.version 7 1).any s.erasable = true) := by decide +kernel

/-- The small machine with its workgroup changed, and with a status for its split. -/
def benchWg (f : Workgroup → Workgroup) : State := bench.modWg 0 f
def parked (st : SplitStatus) (s : State) : State :=
  s.modWarp 0 0 (fun w => { w with splits := w.splits.map (fun e => (e.1, { e.2 with status := st })) })

/-- WarpEvents: a held split that may be released, an MWAIT whose time has come, a helper at its bound of 1,024, a request that reaches a
workgroup, and ones withdrawn at the bounds of 4,352 and 4,096. -/
theorem witness_warp_events :
    (let s := parked .held bench
     (s.warp? 0 0).any (fun w => decide ((w.splits.map Prod.fst).Nodup) && w.canRelease && !s.stopping w) = true) ∧
    (let s : State := { parked (.parked (.mwait (some 5) (.win 1))) bench with elapsed := 5 }
     (s.issFor 0 0 (.split 0) noCost).any (fun c => !c.w.anyFired && c.split.any (fun sp => sp.status == .parked (.mwait (some 5) (.win 1)) && sp.stopped.isNone)) = true) ∧
    (let h := { benchHelper with release := { owner := some 1024, preempt := some 4096, close := false } }
     let s := (benchOpen (benchPk [(3, h)])).modWg 0 (fun g => { g with preempt := some .tick, reached := true })
     mget? (s.core 0).prickings 0 = some (benchPk [(3, h)]) ∧ mget? (benchPk [(3, h)]).helpers 3 = some h ∧ s.wgOfSlot 0 (benchPk [(3, h)]).slot = wgKey 0 0 ∧
      (mget? s.wgs (wgKey 0 0)).isSome = true) ∧
    (let s := benchWg (fun g => { g with preempt := some .tick })
     someAnd (mget? s.wgs (wgKey 0 0)) (fun w => w.core == some 0 && w.preempt == some .tick && !w.reached && w.slots.contains 0) = true) ∧
    (let s := (benchWg (fun g => { g with preempt := some .tick, reached := true })).modWarp 0 0 (fun w => { w with
        splits := w.splits.map (fun e => (e.1, { e.2 with sinceRequest := 4352 })) })
     someAnd (mget? s.wgs (wgKey 0 0)) (fun w => w.reached && (s.warpsOf w).any (fun x => x.2.splits.any (fun e => e.2.stopped.isNone && decide (4352 ≤ e.2.sinceRequest)))) =
       true) := by decide +kernel

/-- A saved image of the small machine's workgroup: one warp, no live register, one page at the start of the save area. -/
def benchSaved (why : Why) : Saved :=
  { why := why, ready := true, page := 0, pages := 1, image := List.replicate 64 0, body := [], keys := [1], scnt := 0,
    warps := (bench.core 0).warps, live := [], accs := [], accLive := [], words := 0, prickings := [], core := 0, prio := 0, migr := none, pick := some (0, 5),
    failed := none, wantMigr := true, wantWake := true, since := 0 }

/-- A machine whose one workgroup is saved. -/
def benchAway : State :=
  ({ bench with cores := [(0, Core.initial)], issuer := none } : State).modWg 0 (fun g => { g with core := none, slots := [], saved := some (benchSaved .block) })

/-- WarpEvents: a workgroup that has ended, a continuation that a free slot takes, a stopped workgroup that is saved, and one that is restored. -/
theorem witness_workgroup_events :
    (let s := { (benchWg (fun g => { g with slots := [] })) with grids := [] }
     someAnd (mget? s.wgs (wgKey 0 0)) (fun w => w.core == some 0 && w.slots.isEmpty && w.barriers.all (fun e => e.2.spawn.isEmpty && e.2.cont.isNone) &&
       (mget? s.grids w.grid).isNone && (s.core 0).drains.isEmpty) = true) ∧
    (let s := benchWg (fun g => { g with barriers := [(0, { Barrier.clear with init := true, exp := 1, spawn := [({ off := 0, word := 5 }, true)] })] })
     someAnd (mget? s.wgs (wgKey 0 0)) (fun w => w.core == some 0 && someAnd (mget? s.grids w.grid) (fun g => (s.core 0).freeSlots g.fileSize == [1, 2, 3]) &&
       (s.barrier (wgKey 0 0) 0).spawn.length == 1 && s.freeIndex 0 w == some 1 && w.preempt.isNone) = true) ∧
    (let s := ((parked .held bench).modWg 0 (fun g => { g with preempt := some .tick, reached := true })).modCtx 0 (fun x => { x with saveBase := 0x20000, savePages := 16 })
     someAnd (mget? s.wgs (wgKey 0 0)) (fun w => w.reached && s.drained (wgKey 0 0) 0 w && (mget? s.grids w.grid).map (fun g => g.ctx) == some 0 &&
       someAnd (mget? s.ctxs 0) (fun x => !x.prot &&
         (let s1 := s.saveRelease 0 w
          let g := s1.gather (wgKey 0 0) 0 x w
          let n := (64 + g.body.length + 4095) / 4096
          (s1.unacked 0).isEmpty && freeExtent (s1.savePagesTaken 0) x.savePages n == some 0 && okAnd (s1.extentKeys 0 (x.saveBase + 0) .store n) (fun _ => true) &&
            (mget? s1.wgs (wgKey 0 0)).isSome))) = true) ∧
    (let s := benchAway.modCtx 0 (fun x => { x with saveBase := 0x20000, savePages := 16 })
     someAnd (mget? s.wgs (wgKey 0 0)) (fun w => w.core.isNone && someAnd w.saved (fun sv => sv.pick == some (0, 5) && someAnd (mget? s.grids 0) (fun g =>
       (s.fits 0 g (some sv)).isSome && someAnd (mget? s.ctxs g.ctx) (fun x => okAnd (s.checkImage g.ctx x w sv) (fun _ => true))))) = true) := by decide +kernel

/-- PolicyAndPowerEvents: each call with no traverse loaded, a lease at the pool's bound and above it, and the times of the measurements. -/
theorem witness_policy :
    bench.pol.images = [] ∧
    (let s : State := { bench with cores := [(0, Core.initial)], wgs := [], issuer := none }
     s.partOfPlot (plotOf 0) = some 0 ∧ (s.plot (plotOf 0)).leaving = false ∧ s.engineBusy (plotOf 0) = false ∧
      (let t : State := { s with grids := s.grids.map (fun e => (e.1, { e.2 with waiting := [0] })) }
       t.pickContexts 0 0 = [(0, [(0, .grid 0)])] ∧ someAnd (mget? t.grids 0) (fun g => g.waiting == [0] && (t.fits 0 g none).isSome) = true)) ∧
    (bench.engineBusy 7 = false ∧ (bench.plot 7).ticks < ({ bench with elapsed := 10000 } : State).elapsed / 10000 ∧ Distinct bench.pol.now) ∧
    (let s := benchWg (fun g => { g with wantTick := true })
     someAnd (mget? s.wgs (wgKey 0 0)) (fun w => w.core == some 0 && w.wantTick && !s.engineBusy (plotOf 0)) = true) ∧
    (let s := parked .held bench
     someAnd (mget? s.wgs (wgKey 0 0)) (fun w => (s.wgCtx w).isSome && !w.blocked && s.whollyParked w && !(s.plot (plotOf 0)).leaving) = true) ∧
    (someAnd (mget? benchAway.wgs (wgKey 0 0)) (fun w => w.core.isNone && (benchAway.wgCtx w).isSome && someAnd w.saved (fun sv => sv.wantWake && sv.wantMigr) &&
      someAnd (mget? benchAway.grids w.grid) (fun g => !((benchAway.stayingPlots 0).filter (hasBit g.conf)).isEmpty) &&
      someAnd (benchAway.wakeEngine 0 w) (fun e => !benchAway.engineBusy e) && someAnd (benchAway.stayingPlots 0).head? (fun e => !benchAway.engineBusy e) &&
      !benchAway.migrRuns (wgKey 0 0)) = true) ∧
    (let s := bench.setPool 0 (2 ^ 48 - 1)
     someAnd (mget? s.ctxs 0) (fun x => x.lease.isNone && decide (2 ^ 48 - 1 ≤ s.pool x.part)) = true ∧
      bench.pool 0 < 1 ∧
      someAnd (mget? (bench.modCtx 0 (fun x => { x with lease := some 0 })).ctxs 0) (fun x => x.lease == some 0) = true) ∧
    (let s : State := { bench with elapsed := 1000000000 }
     s.pwr.measured < s.elapsed / 100000 ∧ mgetD s.pwr.reported 15 0 < s.elapsed / 10000 ∧ s.sec.seconds < s.elapsed / 1000000000 ∧ s.fab.refills < s.elapsed / 10000 ∧
      s.parts.length = 1) ∧
    (let s : State := { bench with pwr := { bench.pwr with snapctl := 6 } }
     hasBit s.pwr.snapctl 1 = true ∧ hasBit s.pwr.snapctl 2 = true ∧ s.pwr.snap = none ∧ s.pwr.snapHit = false ∧ bitsOf s.pwr.snapctl 8 5 < 18 ∧
      s.pwr.snapthr ≤ mgetD s.meters (64 * bitsOf s.pwr.snapctl 16 3 + bitsOf s.pwr.snapctl 8 5) 0) := by unfold Distinct; decide +kernel

/-! ### Witnesses: control pages, packets and partitions -/

/-- A queue of context 0 that has read one packet, the 512 bits `v`. -/
def benchQueue (v : Nat) : Queue :=
  { ctx := 0, idx := 0, eqbase := 0, rbase := 0, rlog := 4, eqlog := 4, qdb := 1, qrd := 0, eqrd := 0, eqwr := 0, eqlost := 0, halted := false,
    pending := none, ringFault := false, packet := some (leBytes 64 v), block := none }

/-- The small machine with that queue as queue 5. -/
def benchCmd (v : Nat) : State := { bench with cmd := { bench.cmd with queues := [(5, benchQueue v)] } }

def packetOf (v : Nat) : Packet := { count := 0, addr := (benchQueue v).packetAddr, v := v }

/-- The packet of PART_CFG for a function, an index and the address 0x8000 of its argument. -/
def cfgPacket (fn idx : Nat) : Nat := 5 + fn * 2 ^ 64 + idx * 2 ^ 80 + 0x8000 * 2 ^ 128

/-- The small machine with that packet and an argument block of `n` bytes. -/
def benchCfg (fn idx n arg : Nat) : State :=
  { bench.hbmWrite 1 0x8000 (leBytes n arg) with
    cmd := { bench.cmd with queues := [(5, benchQueue (cfgPacket fn idx))] }, ctxs := [(0, placedCtx)], parts := [(0, placedPart)], grids := bench.grids, cores := bench.cores,
    sec := bench.sec }

theorem bitsOf_low {va lo len : Nat} (h : va < 2 ^ lo) : bitsOf va lo len = 0 := by simp [bitsOf, Nat.div_eq_of_lt h]

theorem hbmRead_congr {s t : State} {key : Nat} : ∀ {n a : Nat}, (∀ i, i < n → s.hbmByte key (a + i) = t.hbmByte key (a + i)) → s.hbmRead key a n = t.hbmRead key a n
  | 0, _, _ => rfl
  | n + 1, a, h => by
    have h0 := h 0 (by omega)
    rw [Nat.add_zero] at h0
    rw [State.hbmRead, State.hbmRead, h0]
    exact congrArg _ (hbmRead_congr (fun i hi => by have := h (i + 1) (by omega); rwa [show a + (i + 1) = a + 1 + i by omega] at this))

/-- A machine with the tables, the partition and the context of the small one. -/
def LikeBench (s : State) : Prop := mget? s.parts 0 = some placedPart ∧ mget? s.ctxs 0 = some placedCtx ∧ ∀ a, a < 0x4000 → s.hbmByte 1 a = bench.hbmByte 1 a

/-- A step of a walk in such a machine, for an address below 1 GiB, is that of the small machine for the address 0. -/
theorem like_step {s : State} (hs : LikeBench s) {va table level : Nat} (h : va < 2 ^ 30) (hl : 2 ≤ level) (ht : table + 8 ≤ 0x4000) :
    s.walkStep placedPart 1 va table level = bench.walkStep placedPart 1 0 table level := by
  have h1 : va < 2 ^ (12 + 9 * level) := Nat.lt_of_lt_of_le h (Nat.pow_le_pow_right (by omega) (by omega))
  have h2 : (0 : Nat) < 2 ^ (12 + 9 * level) := Nat.two_pow_pos _
  have h3 : s.pte 1 table 0 = bench.pte 1 table 0 := by
    simp only [State.pte, Nat.mul_zero, Nat.add_zero, hbmRead_congr (n := 8) (a := table) (fun i hi => hs.2.2 (table + i) (by omega))]
  simp only [State.walkStep, bitsOf_low h1, bitsOf_low h2, h3]

theorem bench_root : bench.walkStep placedPart 1 0 placedRoot 4 = .next 0x2000 := by decide +kernel
theorem bench_middle : bench.walkStep placedPart 1 0 0x2000 3 = .next 0x3000 := by decide +kernel
theorem bench_leaf : bench.walkStep placedPart 1 0 0x3000 2 = .leaf (leNat placedLeaf) 30 := by decide +kernel

theorem like_walk {s : State} (hs : LikeBench s) {va : Nat} (h : va < 2 ^ 30) : s.walk placedCtx va = .ok (leNat placedLeaf, 30) := by
  have f4 := like_step hs h (table := placedRoot) (by decide : 2 ≤ 4) (by decide)
  have f3 := like_step hs h (table := 0x2000) (by decide : 2 ≤ 3) (by decide)
  have f2 := like_step hs h (table := 0x3000) (by decide : 2 ≤ 2) (by decide)
  rw [bench_root] at f4; rw [bench_middle] at f3; rw [bench_leaf] at f2
  have e1 : mget? s.parts placedCtx.part = some placedPart := hs.1
  have e2 : inGranules placedPart placedRoot = true := by decide +kernel
  have e6 : placedCtx.key = 1 ∧ placedCtx.root = placedRoot := ⟨rfl, rfl⟩
  simp only [State.walk, e1, e6, e2, if_true]
  simp only [State.walkFrom, f4, f3, f2]

/-- Such a machine maps the first GiB to itself. -/
theorem like_target {s : State} (hs : LikeBench s) {va : Nat} (h : va < 2 ^ 30) : s.translateCtx 0 .load va = .ok { space := .hbm, pa := va, key := 1 } := by
  have a : bitsOf (leNat placedLeaf) 52 2 = 0 ∧ bitsOf (leNat placedLeaf) 12 40 = 0 ∧ bitsOf (leNat placedLeaf) 54 10 = 1 ∧ hasBit (leNat placedLeaf) 5 = true := by
    decide +kernel
  have t : leafTarget (leNat placedLeaf) 30 va = { space := .hbm, pa := va, key := 1 } := by
    simp only [leafTarget, a, Nat.mod_eq_of_lt h, Nat.zero_mul, Nat.zero_add]
  have c : leafCause s placedCtx .load (leNat placedLeaf) va = none := by
    have e1 : mget? s.parts placedCtx.part = some placedPart := hs.1
    have e2 : inGranules placedPart va = true := by
      have z : va / 2 ^ 30 = 0 := Nat.div_eq_of_lt h
      have y : va < Config.hbmBytes := Nat.lt_of_lt_of_le h (by decide)
      simp only [inGranules, z, y, decide_true, Bool.true_and]; decide +kernel
    have e3 : placedCtx.key = 1 := rfl
    simp [leafCause, a, e1, e2, e3]
  have b : ¬ plotWindow ≤ va := by have : plotWindow = 0x01FFFFFFFF000000 := rfl; omega
  simp only [State.translateCtx, ge_iff_le, b, if_false, hs.2.1, like_walk hs h, t, c]

theorem like_load {s : State} (hs : LikeBench s) {va n : Nat} (h : va + n ≤ 2 ^ 30) : s.ctxLoad 0 va n = .ok (leNat (s.hbmRead 1 va n)) := by
  have r : ∀ (n va : Nat), va + n ≤ 2 ^ 30 → s.readCause 0 va n = none ∧ s.ctxRead 0 va n = .ok (s.hbmRead 1 va n) := by
    intro n
    induction n with
    | zero => intro va _; exact ⟨rfl, rfl⟩
    | succ n ih =>
      intro va hv
      have t := like_target hs (va := va) (by omega)
      obtain ⟨i1, i2⟩ := ih (va + 1) (by omega)
      constructor
      · simp only [State.readCause, t]; exact i1
      · simp only [State.ctxRead, t, i2]; rfl
  simp only [State.ctxLoad, r n va h]

/-- A machine that has been given an argument block reads it. -/
theorem arg_load {s : State} (n arg : Nat) (hp : mget? s.parts 0 = some placedPart) (hc : mget? s.ctxs 0 = some placedCtx)
    (hb : ∀ a, s.hbmByte 1 a = (bench.hbmWrite 1 0x8000 (leBytes n arg)).hbmByte 1 a) (hn : n ≤ 2048) (ha : arg < 256 ^ n) : s.ctxLoad 0 0x8000 n = .ok arg := by
  have hs : LikeBench s := ⟨hp, hc, fun a h => by rw [hb]; exact State.hbmByte_hbmWrite_outside _ _ _ _ _ _ (fun i _ => by omega)⟩
  rw [like_load hs (by omega), hbmRead_congr (t := bench.hbmWrite 1 0x8000 (leBytes n arg)) (fun i _ => hb _)]
  have e := bench.hbmRead_hbmWrite 1 0x8000 (leBytes n arg)
  rw [leBytes_length] at e
  rw [e, leNat_leBytes, Nat.mod_eq_of_lt ha]

theorem benchCfg_byte (fn idx n arg a : Nat) : (benchCfg fn idx n arg).hbmByte 1 a = (bench.hbmWrite 1 0x8000 (leBytes n arg)).hbmByte 1 a := by
  simp only [State.hbmByte, State.keyToken, State.hbmWrite_sec, benchCfg]; rfl

theorem cfg_load (fn idx n arg : Nat) (hn : n ≤ 2048) (ha : arg < 256 ^ n) : (benchCfg fn idx n arg).ctxLoad 0 0x8000 n = .ok arg :=
  arg_load n arg rfl rfl (fun a => benchCfg_byte fn idx n arg a) hn ha

/-- The conditions of `Starts` as one truth value. -/
def startsOk (s : State) (v : Nat) (kind : PacketKind) : Bool :=
  decide (mget? s.cmd.queues 5 = some (benchQueue v)) && decide (mget? s.ctxs 0 = some placedCtx) && s.queueReady placedCtx (benchQueue v) &&
  okAnd (s.readPacket (benchQueue v)) (fun p => decide (p = packetOf v)) && decide ((packetOf v).kind = kind) && s.ordReady 5 && (packetOf v).formatOk

theorem starts_of_ok {s : State} {v : Nat} {kind : PacketKind} (h : startsOk s v kind = true) :
    Starts s 5 (benchQueue v) placedCtx (packetOf v) kind := by
  simp only [startsOk, Bool.and_eq_true, decide_eq_true_eq] at h
  obtain ⟨⟨⟨⟨⟨⟨h1, h2⟩, h3⟩, h4⟩, h5⟩, h6⟩, h7⟩ := h
  obtain ⟨p, hp, e⟩ := of_okAnd h4
  exact ⟨h1, h2, h3, by rw [hp]; exact congrArg Except.ok (of_decide_eq_true e), h5, fun _ => h6, h7, fun _ _ _ _ => rfl⟩

/-- A record of a warp, and one of a page request. -/
def benchRecord (k : RecordKind) : Record := { Record.blank with kind := k, seq := 9 }

/-- ControlPageWrites: a doorbell at the size of the ring and one past it, a halted queue, a warp and a page request that wait for an answer, a
pending invalidation, and the carve values 1 and 5 to 7 where carve 0 to 4 are allowed. -/
theorem witness_control_page :
    (let s := benchCmd 0
     s.queueOf 0 0 = some (5, benchQueue 0) ∧ (16 + 2 ^ 32 - (benchQueue 0).qrd) % 2 ^ 32 ≤ 2 ^ (benchQueue 0).rlog ∧
      2 ^ (benchQueue 0).rlog < (17 + 2 ^ 32 - (benchQueue 0).qrd) % 2 ^ 32 ∧ mget? s.cmd.queues 5 = some (benchQueue 0)) ∧
    (let q := { benchQueue 0 with halted := true }
     let s : State := { bench with cmd := { bench.cmd with queues := [(5, q)] } }
     mget? s.cmd.queues 5 = some q ∧ q.ctx = 0 ∧ hasBit 1 q.idx = true) ∧
    (let r := benchRecord .warp
     let s : State := { parked (.parked (.record 9)) bench with recOpen := [r] }
     s.recOpen.find? (fun r => r.ctx == 0 && r.seq == 9 && r.kind.answered) = some r ∧ someAnd (s.warp? 0 0) (fun w => w.ctx == 0 &&
       w.splits.map (fun e => e.2.status) == [.parked (.record 9)] && w.loads == 0 && w.stores == 0 && w.copies == 0 && w.tiles == 0) = true) ∧
    (let r := benchRecord .pagereq
     let s : State := { parked (.parked (.page [{ page := 3, seq := 9, answer := .waiting }])) bench with recOpen := [r] }
     s.recOpen.find? (fun r => r.ctx == 0 && r.seq == 9 && r.kind == .pagereq) = some r ∧ someAnd (s.warp? 0 0) (fun w => w.ctx == 0 &&
       someAnd (mget? w.splits 0) (fun sp => sp.status == .parked (.page [{ page := 3, seq := 9, answer := .waiting }]))) = true ∧ (mget? s.ctxs 0).isSome = true) ∧
    (let s := bench.modCtx 0 (fun x => { x with tlbPend := [(1, 2)] })
     someAnd (mget? s.ctxs 0) (fun x => x.tlbPend == [(1, 2)] && someAnd (mget? s.parts x.part) (fun p =>
       (upto 5).all (fun v => hasBit p.carvok v) && decide (5 ≤ 13 % 8))) = true) := by decide +kernel

/-- A mailbox waiter of partition 0 on word 7. -/
def benchWaiter (op : MboxOp) : State :=
  { benchCmd 2 with cmd := { (benchCmd 2).cmd with mboxQ := [{ part := 0, word := 7, op := op, since := 0 }], mbox := [(7, (op.consumes, 1))] } }

/-- Packets: each kind starts; a NOP that is not zero where it must be; a launch that is accepted; words full and empty; an image. -/
theorem witness_packets :
    startsOk (benchCmd 0) 0 .nop = true ∧
    (let v := 2 ^ 100
     (packetOf v).kind = .nop ∧ (packetOf v).formatOk = false ∧ (benchCmd v).queueReady placedCtx (benchQueue v) = true ∧
      okAnd ((benchCmd v).readPacket (benchQueue v)) (fun p => decide (p = packetOf v)) = true) ∧
    (let v := 2 + 7 * 2 ^ 64
     startsOk (benchCmd v) v .wait = true ∧ ((benchCmd v).mboxWord 0 7).1 = false ∧ (packetOf v).ptr = 0 ∧
      (let s : State := { benchCmd v with cmd := { (benchCmd v).cmd with mbox := [(7, (true, 5))] } }
       startsOk s v .wait = true ∧ (s.mboxWord 0 7).1 = true ∧ s.firstWaiter 0 7 true = none)) ∧
    (let v := 3 + 8191 * 2 ^ 64 + 9 * 2 ^ 192
     startsOk (benchCmd v) v .signal = true ∧ ((benchCmd v).mboxWord 0 8191).1 = false ∧ (benchCmd v).firstWaiter 0 8191 false = none) ∧
    ((benchWaiter (.consume 5 none)).firstWaiter 0 7 true = some (0, { part := 0, word := 7, op := .consume 5 none, since := 0 }) ∧
      ((benchWaiter (.consume 5 none)).mboxWord 0 7).1 = true) ∧
    ((benchWaiter (.produce 5 1)).firstWaiter 0 7 false = some (0, { part := 0, word := 7, op := .produce 5 1, since := 0 }) ∧
      ((benchWaiter (.produce 5 1)).mboxWord 0 7).1 = false) ∧
    (((benchWaiter (.background 5 0 1)).firstWaiter 0 7 false).map Prod.fst = some 0 ∧ ((benchWaiter (.background 5 0 1)).mboxWord 0 7).1 = false) := by
  decide +kernel

/-- The machine with the launch record whose queue asks for it, with a completion of its largest mailbox word. -/
def launchPacket : Nat := 1 + 2 ^ 10 + 8191 * 2 ^ 64 + 0x5000 * 2 ^ 128
def withQueue (v : Nat) (s : State) : State := { s with cmd := { s.cmd with queues := [(5, benchQueue v)] } }
def benchLaunchCmd : State := withQueue launchPacket benchLaunch

theorem launchRegs_stores (s : State) (v : Nat) : s.SameStores (withQueue v (launchRegs s)) := by
  obtain ⟨a, b, c, d, e⟩ := s.sameStores_modWarp 0 0 (fun w => { w with regs := [(2, 0x5000#32), (4, 0x5080#32), (6, 0x40000000#32), (256 + 6, 0x40000000#32)] })
  exact ⟨a, b, c, d, e⟩

theorem benchLaunchCmd_stores : benchLaunchMem.SameStores benchLaunchCmd := launchRegs_stores benchLaunchMem launchPacket

theorem benchLaunchMem_byte {a : Nat} (h : a < 0x4000) : benchLaunchMem.hbmByte 1 a = bench.hbmByte 1 a := by
  have l : ∀ (s : State) (n at' v : Nat), 0x4000 ≤ at' → at' % 128 = 0 → (s.hbmWrite 1 at' (leBytes n v)).hbmByte 1 a = s.hbmByte 1 a := fun s n at' v h1 h2 =>
    State.hbmByte_hbmWrite_outside _ _ _ _ _ _ (fun i _ => by omega)
  rw [benchLaunchMem, l _ _ _ _ (by decide) (by decide), l _ _ _ _ (by decide) (by decide), l _ _ _ _ (by decide) (by decide), l _ _ _ _ (by decide) (by decide)]

theorem benchLaunchCmd_like : LikeBench benchLaunchCmd := by
  refine ⟨by decide +kernel, by decide +kernel, fun a h => ?_⟩
  obtain ⟨h1, -, -, h2, h3⟩ := benchLaunchCmd_stores
  rw [← benchLaunchMem_byte h, State.hbmByte, State.hbmByte, State.keyToken, State.keyToken, h1, h2, h3]

/-- Packets: a launch whose record is read, checked and accepted, and whose packet asks for a word to be produced. -/
theorem witness_launch_packet :
    startsOk benchLaunchCmd launchPacket .launch = true ∧ ((packetOf launchPacket).cmpl = true ∧ (packetOf launchPacket).mbx < 8192) ∧
    benchLaunchCmd.ctxLoad 0 (packetOf launchPacket).ptr 128 = .ok (0x5100 + 2 ^ 192) ∧
    someAnd (benchLaunchCmd.checkLaunch 0 (LaunchRec.of (0x5100 + 2 ^ 192)) false false) (fun k =>
      let r := LaunchRec.of (0x5100 + 2 ^ 192)
      let s0 := benchLaunchCmd.noteReads 0 ((0x5000, 128) :: benchLaunchCmd.kernelReads 0 r.kdesc)
      let g := r.grid s0 0 k 5 0 (.packet (some (8191, 0))) (upto r.nwg) false
      let e := s0.enqGrid ((s0.lowestPlot 0 r.plots).getD 0) g (.packet 5 0 0 0 0x5000)
      !benchLaunchCmd.engineWaits (benchLaunchCmd.lowestPlot 0 r.plots) && someAnd e.2 (fun p => p.isSome) && (mget? e.1.cmd.queues 5).map (fun y => y.qrd) == some 0) = true := by
  have p : (packetOf launchPacket).ptr = 0x5000 := by decide +kernel
  have v : leNat (benchLaunchCmd.hbmRead 1 0x5000 128) = 0x5100 + 2 ^ 192 := by decide +kernel
  refine ⟨by decide +kernel, by decide +kernel, by rw [p, like_load benchLaunchCmd_like (by decide), v], by decide +kernel⟩

/-- Packets: POLICY_LOAD of an image of one word, END, for PICK at the tenant's level. -/
theorem witness_policy_packet :
    let v := 4 + 0x8000 * 2 ^ 128
    let s := (benchCmd v).hbmWrite 1 0x8000 (leBytes 20 (0x504F4C59 + 2 ^ 48 + 0x1F * 2 ^ 26 * 2 ^ 128))
    startsOk s v .policy = true ∧ okAnd (s.ctxLoad 0 0x8000 16) (fun a =>
      let h := ImageHeader.of a
      h.level == 0 && h.ok && okAnd (s.ctxLoad 0 0x8010 (4 * h.len)) (fun body => verifyImage h ((upto h.len).map (fun i => bitsOf body (32 * i) 32))
        (s.engineRoom 0 (imageKey h.level 0 h.point)) == 0)) = true := by decide +kernel

/-! ### Witnesses: partitions, fabric, security and the whole machine -/

/-- A layout block for plot 1, granule 1 and no slot, and a context block for context 3 with one queue, queue 6. -/
def layoutArg : Nat := 2 + 2 * 2 ^ 512
def ctxArg : Nat := 3 * 2 ^ 388 + 2 ^ 398 + 2 ^ 368 + (1 + 6 * 2 ^ 12 + 4 * 2 ^ 22 + 4 * 2 ^ 27) * 2 ^ 512

/-- PartitionConfig: each function but WPROG and WPUB starts with its argument block, at the largest index where there is one. -/
theorem witness_part_cfg_reads :
    (benchCfg 0 1 1216 layoutArg).ctxLoad 0 0x8000 1216 = .ok layoutArg ∧ (benchCfg 1 0 8 31).ctxLoad 0 0x8000 8 = .ok 31 ∧
    (benchCfg 2 0 576 ctxArg).ctxLoad 0 0x8000 576 = .ok ctxArg ∧ (benchCfg 4 63 32 1).ctxLoad 0 0x8000 32 = .ok 1 ∧
    (benchCfg 5 4095 16 1).ctxLoad 0 0x8000 16 = .ok 1 ∧ (benchCfg 9 0 136 (3 + 2 ^ 112)).ctxLoad 0 0x8000 136 = .ok (3 + 2 ^ 112) ∧
    (benchCfg 8 8 192 (2 ^ 512)).ctxLoad 0 0x8000 192 = .ok (2 ^ 512) ∧ (benchCfg 6 0 64 0).ctxLoad 0 0x8000 64 = .ok 0 := by
  refine ⟨cfg_load _ _ _ _ ?_ ?_, cfg_load _ _ _ _ ?_ ?_, cfg_load _ _ _ _ ?_ ?_, cfg_load _ _ _ _ ?_ ?_, cfg_load _ _ _ _ ?_ ?_, cfg_load _ _ _ _ ?_ ?_,
    cfg_load _ _ _ _ ?_ ?_, cfg_load _ _ _ _ ?_ ?_⟩ <;> decide +kernel

theorem witness_part_cfg_starts :
    startsOk (benchCfg 0 1 1216 layoutArg) (cfgPacket 0 1) (.cfg 0) = true ∧ startsOk (benchCfg 1 0 8 31) (cfgPacket 1 0) (.cfg 1) = true ∧
    startsOk (benchCfg 2 0 576 ctxArg) (cfgPacket 2 0) (.cfg 2) = true ∧ startsOk (benchCfg 4 63 32 1) (cfgPacket 4 63) (.cfg 4) = true ∧
    startsOk (benchCfg 5 4095 16 1) (cfgPacket 5 4095) (.cfg 5) = true ∧ startsOk (benchCfg 9 0 136 (3 + 2 ^ 112)) (cfgPacket 9 0) (.cfg 9) = true ∧
    startsOk (benchCfg 8 8 192 (2 ^ 512)) (cfgPacket 8 8) (.cfg 8) = true ∧ startsOk (benchCfg 6 0 64 0) (cfgPacket 6 0) (.cfg 6) = true ∧
    (let s : State := { benchCfg 3 4 0 0 with ctxs := [(0, placedCtx), (4, placedCtx)] }
     startsOk s (cfgPacket 3 4) (.cfg 3) = true ∧ mget? s.ctxs 4 = some placedCtx) := by decide +kernel

theorem witness_part_cfg :
    ((benchCfg 0 1 1216 layoutArg).layoutWaits 1 = false ∧ (benchCfg 0 1 1216 layoutArg).cmd.layouts = [] ∧ (LayoutBlock.of layoutArg).ok = true ∧
      (benchCfg 0 1 1216 layoutArg).layoutConflicts 1 (LayoutBlock.of layoutArg) = false ∧ bitsOf layoutArg 0 8 ≠ 0) ∧
    someAnd (mget? (benchCfg 1 0 8 31).parts 0) (fun p => (bitsList 8 p.plots).all (fun i => !(benchCfg 1 0 8 31).plotFenced i)) = true ∧
    (benchCfg 2 0 576 ctxArg).blockCause placedCtx ctxArg ((upto 16).map (fun i => QueueDesc.of (bitsOf ctxArg (512 + 256 * i) 256))) = none ∧
    (let v : Nat := 2 ^ 512
     (benchCfg 8 8 192 v).cmd.chkpts = [] ∧ bitsOf v 0 12 = 0 ∧ bitsOf v 65 447 = 0 ∧ (bitsOf v 512 1024 &&& (benchCfg 8 8 192 v).granulesOf 8) = bitsOf v 512 1024) := by
  decide +kernel

/-- A weight version of one tensor of one row of 32 elements of int4. -/
def benchVersion : WeightVersion :=
  { src := (0x9000, 64), name := 5, ver := 1, owners := 1, key := 1, hbm := none,
    tensors := [{ fmt := .int4, spw := 4, rows := 1, k := 32, scl := false, planes := [], bounds := [], scales := [], bands := [] }] }

def withVersion (s : State) : State := { s with weights := [{ v := benchVersion, published := none, token := 0, ready := true, image := [], prog := none, bad := [] }] }

theorem withVersion_byte (s : State) (k a : Nat) : (withVersion s).hbmByte k a = s.hbmByte k a := rfl

def benchPub : State := withVersion (benchCfg 7 0 8 (5 + 2 ^ 32))

theorem benchPub_load : benchPub.ctxLoad 0 0x8000 8 = .ok (5 + 2 ^ 32) :=
  arg_load 8 (5 + 2 ^ 32) (by decide +kernel) (by decide +kernel)
    (fun a => (withVersion_byte (benchCfg 7 0 8 (5 + 2 ^ 32)) 1 a).trans (benchCfg_byte 7 0 8 (5 + 2 ^ 32) a)) (by decide) (by decide)

/-- PartitionConfig: WPUB of that version. -/
theorem witness_wpub : startsOk benchPub (cfgPacket 7 0) (.cfg 7) = true ∧ benchPub.ctxLoad 0 0x8000 8 = .ok (5 + 2 ^ 32) ∧
    someAnd (benchPub.version 5 1) (fun w => w.published.isNone) = true :=
  ⟨by decide +kernel, benchPub_load, by decide +kernel⟩

/-- A machine whose domain is device 1 alone, with a stream to it. -/
def withDomain (s : State) : State := { s with fab := { s.fab with domain := [(1, (1, 1))], streams := [(streamKey 1 0, Stream.fresh)] } }
def benchDomain : State := withDomain (benchCfg 9 0 136 3)

theorem withDomain_byte (s : State) (k a : Nat) : (withDomain s).hbmByte k a = s.hbmByte k a := rfl

theorem benchDomain_load : benchDomain.ctxLoad 0 0x8000 136 = .ok 3 :=
  arg_load 136 3 (by decide +kernel) (by decide +kernel)
    (fun a => (withDomain_byte (benchCfg 9 0 136 3) 1 a).trans (benchCfg_byte 9 0 136 3 a)) (by decide)
    (Nat.lt_of_lt_of_le (by decide : 3 < 256 ^ 1) (Nat.pow_le_pow_right (by decide) (by decide)))

/-- PartitionConfig: a DOMAIN that empties the one device of the domain, to which a stream goes. -/
theorem witness_domain : startsOk benchDomain (cfgPacket 9 0) (.cfg 9) = true ∧ benchDomain.ctxLoad 0 0x8000 136 = .ok 3 ∧
    benchDomain.fab.domain = [(1, (1, 1))] ∧ benchDomain.fab.streams.map Prod.fst = [streamKey 1 0] ∧ benchDomain.fabOps = [] ∧
    bitsOf 3 4 60 = 0 ∧ bitsOf 3 (112 + 64 * 1) 16 = 0 :=
  ⟨by decide +kernel, benchDomain_load, by decide +kernel, by decide +kernel, by decide +kernel, by decide, by decide⟩

/-- PartitionConfig: WPROG of that version, and of one that is resident in HBM before and after its range is written; the second part of a LAYOUT with
and without accesses of its granules under way, its third part, a plot to clear and the end of a CHKPT. -/
theorem witness_part_cfg_more :
    (benchVersion.tensors.all tensorOk && benchVersion.ver == bench.newestVersion benchVersion.name + 1 && bench.residenceOk benchVersion &&
      ((benchCfg 6 0 64 0).rangeCause 0 0x9000 1).isNone) = true ∧ bench.weights = [] ∧
    (let w : StoredVersion := { v := { benchVersion with hbm := some (0x100000, 0x100000) }, published := none, token := 0, ready := false, image := [], prog := some 5, bad := [] }
     (bench.residenceOk w.v = true) ∧ w.prog = some 5 ∧ mget? (benchCmd 0).cmd.queues 5 = some (benchQueue 0)) ∧
    (let l : LayoutStep := { qnum := 5, part := 0, plots := 1, granules := 1, slotMaps := [1, 0, 0, 0], leaving := 0, joining := 0, gone := 0, maps := false }
     let s : State := { benchCmd 0 with cmd := { (benchCmd 0).cmd with layouts := [l] } }
     let q := benchCopy true { src := .scratch 0, dst := .mem .hbm 1 0x80000000, n := 4 }
     (∃ p, s.cmd.layouts = [l] ∧ mget? s.parts l.part = some p ∧ (s.cores.any (fun k => k.2.usesGranules (p.granules - (p.granules &&& 1)))) = false ∧
       ((s.modCore 0 (fun k => { k with copyQ := [q] })).cores.any (fun k => k.2.usesGranules (2 ^ 2))) = true) ∧ l.plots ≠ 0) ∧
    ((State.reset.residents 3 = [] ∧ ∀ k ∈ State.reset.plotCores 3, k.allocs = []) ∧
      (State.reset.modPlot 3 (fun p => { p with sclr := true })).cmd.layouts = [] ∧ ((State.reset.modPlot 3 (fun p => { p with sclr := true })).plot 3).sclr = true) ∧
    (let c : ChkptStep := { qnum := 5, parts := 2, toHbm := false, base := 0, granules := 0 }
     c.qnum = 5 ∧ (benchCmd 0).residentOf c.parts = [] ∧ mget? (benchCmd 0).cmd.queues 5 = some (benchQueue 0)) := by
  refine ⟨by decide +kernel, by decide +kernel, by decide +kernel,
    ⟨⟨placedPart, by decide +kernel, by decide +kernel, by decide +kernel, by decide +kernel⟩, by decide +kernel⟩, by decide +kernel, by decide +kernel⟩

/-- The small machine as device 0 of a domain of two, with a window of partition 0 at page 5, readable and writable, and an entry of the
launch table for launches of device 1's partition 2 to queue 5. -/
def benchFab : State :=
  let w : WinEntry := { v := true, page := 5, pa := 4, part := 0, key := 1, r := true, w := true }
  let e : FlEntry := { v := true, srcPart := 2, srcDev := 1, tgtq := 5, rate := 1, key := 1, kdlo := 0, kdhi := 0x6000, tokens := 1 }
  { benchLaunch with fab := { benchLaunch.fab with wintab := [(0, w)], fltab := [(0, e)] }, cmd := (benchCmd 0).cmd }

def benchFrame (kind arg : Nat) (payload : List Byte) : Frame :=
  { kind := kind, sdev := 1, tdev := 0, spart := 2, seq := 0, ack := 0, arg := arg, payload := payload }

def arrivesOk (s : State) (f : Frame) : Bool :=
  s.frameOk f && decide (f.seq = (s.stream f.sdev f.spart).expect) && !(s.stream f.sdev f.spart).failed &&
  (s.stream f.sdev f.spart).unacked.all (fun u => !seqBelow u.seq f.ack)

theorem arrives_of_ok {s : State} {f : Frame} (h : arrivesOk s f = true) : Arrives s f f.kind := by
  simp only [arrivesOk, Bool.and_eq_true, Bool.not_eq_true', decide_eq_true_eq, List.all_eq_true] at h
  exact ⟨rfl, h.1.1.1, h.1.1.2, h.1.2, h.2⟩

def benchOp (kind : FabKind) : FabOp :=
  { cid := 1, core := 0, slot := 0, who := .split 0, wg := wgKey 0 0, index := 0, t := 0, qnum := 0, tagw := 0, ctx := 0, part := 2, dev := 1, kind := kind, arg := 0, n := 4, data := [], dests := [(0, .file 9)],
    ext := .none, co := true, seq := some 7, since := 0, guardPend := [], acquire := none }

/-- FabricAccesses: a frame that arrives in its turn and one that is not for this device; addresses that the window takes and refuses; an operation
that a frame answers and one that has waited 100,000 ns; a stream that owes an acknowledgement and one that has waited for its own. -/
theorem witness_fabric_accesses :
    arrivesOk benchFab (benchFrame 0x01 (5 * 4096 + 8) (leBytes 8 3)) = true ∧ benchFab.frameOk { benchFrame 0x01 0 [] with tdev := 1 } = false ∧
    (okAnd (benchFab.window (5 * 4096 + 8) .store) (fun x => x.2 == 4 * 2 ^ 17 + 8 && x.1.key == 1) && okAnd (benchFab.window (5 * 4096) .atomic) (fun _ => true)) = true ∧
    decide (4 * 2 ^ 17 + 8 + 8 ≤ Config.hbmBytes) = true ∧
    (match benchFab.window (6 * 4096) .load with
      | .error r => r == 1
      | .ok _ => false) = true ∧
    (let s : State := { benchFab with fabOps := [benchOp .rd], elapsed := 100000 }
     arrivesOk s (benchFrame 0x03 7 (leBytes 4 9)) = true ∧ s.fabOps = [benchOp .rd] ∧ (benchOp .rd).since + 100000 ≤ s.elapsed) ∧
    (let u : Frame := { benchFrame 0x01 0 [] with seq := 7, sdev := 0, tdev := 1 }
     let s : State := ({ benchFab with fabOps := [benchOp .wr], elapsed := 8000 } : State).setStream 1 2 { Stream.fresh with unacked := [u], tries := 8, due := some 6000 }
     (s.stream 1 2).unacked = [u] ∧ seqBelow u.seq 8 = true ∧ s.homeOf (benchOp .wr).wg (benchOp .wr).index = some (0, 0) ∧ s.frameOk { benchFrame 0x3F 0 [] with ack := 8 } = true ∧ (s.stream 1 2).due = some 6000 ∧ 6000 + 2000 ≤ s.elapsed ∧
      (s.stream 1 2).progress + 8000 ≤ s.elapsed ∧ 8 ≤ (s.stream 1 2).tries) := by decide +kernel

/-- A launch of the workgroup of the small machine to device 1. -/
def benchSent : FabLaunch :=
  { id := 5, arg := 3, core := 0, slot := 0, ctx := 0, part := 2, wg := wgKey 0 0, qnum := 0, tagw := 0, targets := [1], answers := [], since := 0, timedOut := false,
    lost := [], open_ := [], committed := false }

/-- The payload of a launch of `n` workgroups of the kernel of `benchLaunch`, for queue 5 with key 1, with device 0 in its mask. -/
def launchPayload (kdesc : Nat) : List Byte := leBytes 128 (kdesc + 2 ^ 192 + 3 * 2 ^ 224 + 2 ^ 336) ++ leBytes 2 5 ++ leBytes 2 1

/-- FabricLaunchesAndGroups: a launch with no entry, one above the entry's range, and one that is accepted; an answer to a launch; a held grid; arrivals. -/
theorem witness_fabric_launches :
    (let f := benchFrame 0x10 3 (launchPayload 0x5100)
     let s := benchFab
     arrivesOk s f = true ∧ s.admissionBusy f = false ∧ someAnd (s.fab.fltab.find? (fun e => e.2.v && e.2.srcDev == f.sdev && e.2.srcPart == f.spart && e.2.tgtq == leNat ((f.payload.drop 128).take 2)))
       (fun e => decide (e.2.key = leNat ((f.payload.drop 130).take 2)) && decide (0 < e.2.tokens) && s.queueRoom 5 &&
         (let rec' := LaunchRec.of (leNat (f.payload.take 128))
          let s0 : State := { past s f with fab := { (past s f).fab with fltab := mset s.fab.fltab e.1 { e.2 with tokens := e.2.tokens - 1 } } }
          decide (e.2.kdlo ≤ rec'.kdesc ∧ rec'.kdesc ≤ e.2.kdhi) && someAnd (s0.checkLaunch 0 rec' true true) (fun k =>
            let s2 := s0.noteReads 0 (s0.kernelReads 0 rec'.kdesc)
            let g := rec'.grid s2 0 k 5 0 (.fabric f.sdev f.spart f.arg) [0] true
            someAnd (s2.enqGrid ((s2.lowestPlot 0 g.conf).getD 0) g (.frame f.sdev f.spart f.arg 5)).2 (fun p => p.isSome)))) = true ∧ bitsList 16 (LaunchRec.of (leNat (f.payload.take 128))).devm = [0]) ∧
    (LaunchRec.of (leNat ((launchPayload 0x7000).take 128))).kdesc = 0x7000 ∧
    (let s : State := { parkReply none benchFab with fab := { benchFab.fab with launches := [benchSent] }, elapsed := 50000 }
     arrivesOk s (benchFrame 0x11 3 [0]) = true ∧ s.fab.launches = [benchSent] ∧ benchSent.since + 50000 ≤ s.elapsed ∧
      someAnd (s.warp? 0 0) (fun w => w.splits.map (fun e => e.2.status) == [.parked (.reply 5 none)]) = true) ∧
    (let f := benchFrame 0x12 3 []
     let s : State := { benchFab with grids := benchFab.grids ++ [(9, { placedGrid with heldPart := true, launcher := .fabric 1 2 3, left := 0 })] }
     arrivesOk s f = true ∧ (s.heldGrid f).map (fun e => e.1) = some 9 ∧ (mget? s.grids 9).map (fun g => g.left) = some 0) ∧
    (let s : State := { benchFab with fab := { benchFab.fab with launches := [{ benchSent with committed := true, open_ := [1] }] } }
     arrivesOk s (benchFrame 0x14 3 []) = true ∧ (mget? s.wgs benchSent.wg).isSome = true) ∧
    (let a : Arrival := { part := 0, group := 0, plot := 0, dev := none, from? := some (0, 0), id := 5, sent := none }
     let s : State := { parkReply none benchLaunch with arrivals := [a, { a with plot := 1 }] }
     s.arrivals[0]? = some a ∧ hasBit (pairPlots (s.group 0).pair) a.plot = true ∧ hasBit (pairPlots (s.group 0).pair) 1 = false ∧ pairDom (s.group 0).pair = false ∧
      (s.group 0).pend = none ∧ someAnd (s.warp? 0 0) (fun w => w.splits.map (fun e => e.2.status) == [.parked (.reply 5 none)]) = true) ∧
    (arrivesOk benchFab (benchFrame 0x20 0 []) && arrivesOk benchFab (benchFrame 0x21 (2 ^ 32) [])) = true := by decide +kernel

/-- A session of partition 0 that is finished. -/
def benchSession : Session := { part := 0, pinst := placedPart.pinst, secret := 0, done := true }

/-- The small machine with keys in each state, and that session. -/
def benchSec : State :=
  { bench with sec := { bench.sec with keys := [(1, ⟨.ord, 0, 0, 0, 0⟩), (2, ⟨.ord, 0, 0, 0, 0⟩), (3, ⟨.pend, 0, 0, 7, 0⟩), (4, ⟨.zero, 0, 0, 0, 0⟩)],
                                       sessions := [(0, benchSession)] } }

/-- KeySlots: a free slot; slots that are ORD, named and not, PEND with no session, and ZERO; a finished session. -/
theorem witness_keys :
    benchSec.freeKey = some 5 ∧ (mget? benchSec.parts 0).isSome = true ∧
    (benchSec.keySlot 9).state ≠ .ord ∧ ((benchSec.keySlot 2).state = .ord ∧ (benchSec.keySlot 2).part ≠ 3 ∧ benchSec.keyNamed 2 = false ∧ benchSec.keyNamed 1 = true) ∧
    ((benchSec.keySlot 3).state = .pend ∧ mget? benchSec.sec.sessions (benchSec.keySlot 3).sess = none) ∧
    ((benchSec.keySlot 4).state = .zero ∧ benchSec.keyBuffered 4 = false) ∧
    (someAnd (benchSec.session 0) (fun x => someAnd (benchSec.sessionPart x) (fun p => p.lgen == 1)) && !benchSec.sec.debug) = true := by decide +kernel

def benchEntryOf (n : Nat) : ChainEntry := { pinst := 0, number := n, time := 0, lgen := 0, flags := 0, meters := [], derates := [], prev := 0 }

/-- SessionsAndEvidence: fewer than 4 sessions of a partition and 4, an entry that is kept and one that is sealed. -/
theorem witness_sessions :
    (benchSec.sec.sessions.filter (fun e => e.2.part == 0 && e.2.pinst == placedPart.pinst)).length < 4 ∧
    4 ≤ (((upto 4).map (fun i => (i, benchSession))).filter (fun e => e.2.part == 0 && e.2.pinst == placedPart.pinst)).length ∧
    (let s := benchSec.modPart 0 (fun p => { p with chain := [benchEntryOf 3] })
     s.session 0 = some benchSession ∧ s.keptEntry benchSession 3 = some (benchEntryOf 3)) ∧
    (let s : State := { benchSec with sec := { benchSec.sec with sealed := [(0, benchEntryOf 4)], midx := 18 } }
     s.keptEntry benchSession 4 = none ∧ s.sec.sealed.find? (sealedIs benchSession 4) = some (0, benchEntryOf 4) ∧ s.sec.midx % 32 = 18 ∧
      s.sec.sealed.find? (fun x => x.1 == s.sec.midx / 256 % 8) = some (0, benchEntryOf 4)) := by decide +kernel

/-- FabricAccesses: no line of the machine has a holder to publish. -/
theorem witness_fabric_publish (plot line : Nat) : benchFab.publishTo plot line none = [] := by
  have h : benchFab.dir = [] := by decide +kernel
  simp [State.publishTo, State.dirLine, h, mgetD, hasBit]

theorem mget?_same {α : Type} (x : α) (l : List Nat) (k : Nat) (h : k ∈ l) : mget? (l.map (fun i => (i, x))) k = some x := by
  induction l with
  | nil => simp at h
  | cons a r ih =>
    simp only [List.map_cons, mget?]
    split
    · rfl
    · rename_i e
      exact ih ((List.mem_cons.mp h).resolve_left (fun c => e c.symm))

/-- KeySlots: a device whose every slot is taken. -/
theorem witness_keys_full (s : State) (h : s.sec.keys = (upto 1024).map (fun k => (k, (⟨.ord, 0, 0, 0, 0⟩ : KeySlot)))) : s.freeKey = none := by
  rw [State.freeKey, List.find?_eq_none]
  intro k hk
  simp [State.keySlot, mgetD, h, mget?_same _ _ k (List.mem_of_mem_drop hk)]

theorem fields_of {a p d q n : Nat} (ha : a < p) (hd : d < q) :
    (a + d * p + n * (p * q)) % p = a ∧ (a + d * p + n * (p * q)) / p % q = d ∧ (a + d * p + n * (p * q)) / (p * q) = n := by
  have e : a + d * p + n * (p * q) = a + p * (d + q * n) := by ring
  have v : (a + d * p + n * (p * q)) / p = d + q * n := by
    rw [e, Nat.add_mul_div_left _ _ (by omega), Nat.div_eq_of_lt ha, Nat.zero_add]
  refine ⟨by rw [e, Nat.add_mul_mod_self_left, Nat.mod_eq_of_lt ha], by rw [v, Nat.add_mul_mod_self_left, Nat.mod_eq_of_lt hd], ?_⟩
  rw [← Nat.div_div_eq_div_mul, v, Nat.add_mul_div_left _ _ (by omega), Nat.div_eq_of_lt hd, Nat.zero_add]

theorem number_of_bytes {v : Nat} (h : v < 2 ^ 672) : leNat (leBytes 208 v) = v := by
  rw [leNat_leBytes, Nat.mod_eq_of_lt]
  refine Nat.lt_of_lt_of_le h ?_
  rw [show (256 : Nat) = 2 ^ 8 from rfl, ← Nat.pow_mul]
  exact Nat.pow_le_pow_right (by decide) (by decide)

theorem below_of_div {v : Nat} (h : v / 2 ^ 416 = 5) : v < 2 ^ 672 := by
  have hb : v / 2 ^ 416 < 2 ^ 256 := by rw [h]; decide
  rw [show (2 : Nat) ^ 672 = 2 ^ 256 * 2 ^ 416 from Nat.pow_add 2 256 416]; exact (Nat.div_lt_iff_lt_mul (Nat.two_pow_pos _)).mp hb

/-- The number that a token of this device is, with the access bits and the signature zero, for a digest and a nonce. -/
def tokenNumber (d : Nat) : Nat := 0x44424754 + d * 2 ^ 32 + 5 * (2 ^ 32 * 2 ^ 384)

theorem tokenNumber_fields {d : Nat} (hd : d < 2 ^ 384) : bitsOf (tokenNumber d) 0 32 = 0x44424754 ∧ bitsOf (tokenNumber d) 32 384 = d ∧
    tokenNumber d / 2 ^ 416 = 5 := by
  obtain ⟨f1, f2, f3⟩ := fields_of (a := 0x44424754) (p := 2 ^ 32) (n := 5) (by decide) hd
  refine ⟨?_, f2, ?_⟩
  · rw [bitsOf, Nat.pow_zero, Nat.div_one]; exact f1
  · rw [Nat.pow_add 2 32 384]; exact f3

/-- The bytes of a token for this device and the nonce 5. -/
def tokenBytes : List Byte := leBytes 208 (tokenNumber deviceDigest)

theorem tokenBytes_length : tokenBytes.length = 208 := by rw [tokenBytes, leBytes_length]

theorem tokenBytes_fields : bitsOf (leNat tokenBytes) 0 32 = 0x44424754 ∧ bitsOf (leNat tokenBytes) 32 384 = deviceDigest ∧
    bitsOf (leNat tokenBytes) 416 256 = 5 ∧ bitsOf (leNat tokenBytes) 672 224 = 0 := by
  obtain ⟨f1, f2, f3⟩ := tokenNumber_fields (d := deviceDigest) (Nat.mod_lt _ (Nat.two_pow_pos _))
  rw [tokenBytes, number_of_bytes (below_of_div f3)]
  refine ⟨f1, f2, ?_, ?_⟩
  · rw [bitsOf, f3]; decide
  · rw [bitsOf, Nat.div_eq_of_lt (below_of_div f3)]; exact Nat.zero_mod _

/-- The small machine with a nonce of a number made at the time 0, and the token in host memory. -/
def benchToken (nonce : Nat) : State :=
  ({ bench with sec := { bench.sec with nonce := some (nonce, 0) } } : State).memWrite 0 .host 0 0x100 tokenBytes

/-- DebugAndLinks: the machine reads a token whose every field is right, so what stands between it and an unlock is its signature, which is
free; against another nonce it is refused, and so is a token of zeros. -/
theorem witness_token :
    (benchToken 5).memRead 0 .host 0 0x100 208 = tokenBytes ∧
    (Config.signatureOk (tokenBytes.take 112) (tokenBytes.drop 112) = true → (benchToken 5).tokenCheck tokenBytes = 0) ∧
    (Config.signatureOk (tokenBytes.take 112) (tokenBytes.drop 112) = false → (benchToken 5).tokenCheck tokenBytes = 5) ∧
    (benchToken 6).tokenCheck tokenBytes = 3 ∧ bench.tokenCheck tokenBytes = 3 ∧ bench.tokenCheck [] = 1 := by
  obtain ⟨a1, a2, a3, a4⟩ := tokenBytes_fields
  have n5 : (benchToken 5).sec.nonce = some (5, 0) ∧ (benchToken 5).elapsed = 0 := ⟨rfl, rfl⟩
  have n6 : (benchToken 6).sec.nonce = some (6, 0) := rfl
  have n0 : bench.sec.nonce = none := by decide +kernel
  refine ⟨?_, fun h => ?_, fun h => ?_, ?_, ?_, ?_⟩
  · rw [← tokenBytes_length]; exact State.memRead_memWrite_host _ _ _ _ _
  · simp [State.tokenCheck, a1, a2, a3, a4, n5, h]
  · simp [State.tokenCheck, a1, a2, a3, a4, n5, h]
  · simp [State.tokenCheck, a1, a2, a3, n6]
  · simp [State.tokenCheck, a1, a2, n0]
  · simp [State.tokenCheck, leNat, bitsOf]

/-- An image, and an update to it in a state. -/
def benchImage (sv minor : Nat) : ImageInfo := { sv := sv, signed := true, digest := 9, major := 1, minor := minor }
def benchUpdate (state : UpdState) (tries : Nat) : State :=
  { benchSec with
    elapsed := 20000000,
    cmd := { benchSec.cmd with
      images := [benchImage 0 0, benchImage 0 0], active := 0, switched := some (1, 0),
      update := some { state := state, img := benchImage 1 1, win := 86400, staged := 0, run := 1, owing := 1, tries := tries, since := 19900000 } } }

/-- UpdateEvents: an image that may be staged and one that is too old; updates in BOOT, READY and QUIESCE; a switch less than 1 s ago and one of 1 s. -/
theorem witness_updates :
    (bench.cmd.update = none ∧ bench.sec.accepts 0 = true ∧ (benchImage 0 0).sv < 1) ∧
    ((benchUpdate .boot 0).cmd.images[(benchUpdate .boot 0).cmd.active]? = some (benchImage 0 0) ∧ (benchImage 0 0).major = (benchImage 1 1).major ∧
      (benchImage 0 0).minor ≤ (benchImage 1 1).minor ∧ (benchUpdate .boot 0).runMask = 0) ∧
    ({ benchUpdate .boot 0 with ctxs := [(0, { placedCtx with prot := true })] } : State).runMask = 1 ∧
    someAnd ((benchUpdate .ready 0).session 0) (fun x => hasBit 1 x.part && decide ((benchUpdate .ready 0).elapsed < 0 + 86400 * 1000000000)) = true ∧
    ((benchUpdate .quiesce 0).atBoundary = true ∧ (benchUpdate .quiesce 0).elapsed < 19900000 + 500000) ∧
    (19000000 + 500000 ≤ (benchUpdate .quiesce 0).elapsed ∧ 10000000 + 10000000 ≤ (benchUpdate .ready 8).elapsed) ∧
    ((benchUpdate .ready 0).elapsed < 0 + 1000000000 ∧ (benchUpdate .ready 0).sec.half = false ∧ (benchUpdate .ready 0).sec.fuses < (benchImage 1 1).sv) := by
  decide +kernel

/-- StepRunsDecoded: the placed machine lets core 0 issue the instruction at its program counter, and a machine event is at the head of an agenda. -/
theorem witness_step :
    let s := State.reset.withFetchWord 32 0x06000000
    let s0 : State := { s with agenda := s.agenda.tail }
    let s1 : State := s0.noteWithheld exec 0
    s.agenda.head? = some (.issue 0) ∧ (s1.tryOrder 0).map (fun a => (a.slot, a.who)) = [(0, .split 0)] ∧
    someAnd (s1.issFor 0 0 (.split 0) Cost.free) (fun c =>
      c.hel.isNone && someAnd c.split (fun sp => sp.status == .ready && !sp.fabric && decide (s1.stopAt c sp (.instr .nop) = none)) &&
      okAnd (s1.translate c.core c.w.ctx .fetch c.pc.toNat) (fun tg => tg.space != .fabric &&
        okAnd (decodeBytes (s1.memRead (plotOf c.core) tg.space tg.key tg.pa 4)) (fun x => decide (x = (.nop, [])))) &&
      (s1.unstopSources c (.instr .nop)).isNone && !s1.withholds 0 c.w (c.costOf .nop) && !s1.lacks c (usesOf .nop)) = true ∧
    (let t0 : State := { s1.noteFetch (issOf s1) with issuer := some { core := 0, slot := 0, who := .split 0, cost := noCost, stalled := false } }
     match exec .nop t0 with
     | .next t => someAnd t.issuer (fun x => !x.stalled)
     | _ => false) = true ∧ isEvent .mdata = true ∧ s0.urgent.isNone = true ∧ s0.agenda = [] ∧ s0.turn = some (0, 0) ∧
    s0.ticksDue = none ∧ ({ s0 with elapsed := 10000 } : State).ticksDue.isSome = true ∧ ({ s0 with elapsed := 10000 } : State).urgent = none := by decide +kernel

/-- DecodeEncode, EncodeDecode and MemoryStaysCanonical: a well-formed instruction and its word, and a canonical state that steps. -/
theorem witness_whole :
    Instr.nop.wf = true ∧ encode .nop = some 0x06000000#32 ∧ decode 0x06000000#32 = .ok .nop ∧ MemoryCanonical State.reset ∧ ∃ t, step State.reset = .next t := by
  refine ⟨by decide, by decide, by decide, ⟨rfl, rfl, fun _ h => nomatch h⟩, ?_⟩
  have h : (match step State.reset with
    | .next _ => true
    | _ => false) = true := by decide +kernel
  cases e : step State.reset with
  | next t => exact ⟨t, rfl⟩
  | fault x => simp [e] at h
  | refused x => simp [e] at h

/-! ### Further witnesses: waiting, events, policy and updates -/

/-- The small machine with its core changed. -/
def benchCore (f : Core → Core) : State := bench.modCore 0 f

/-- A load of the issuing split under way, a queued copy on either path, a queued matrix command and a queued stream, all of number 0. -/
def benchLoad (k : MemKind) (accs : List Access) (after : List Nat) (sc : Option Scope) : Load :=
  { cid := 0, slot := 0, who := .split 0, writes := [], kind := k, accs := accs, after := after, acquire := sc }
def benchOpenCore (k : Core) : Core := { k with
  loadsPending := [benchLoad (.load .none) [] [] none], drains := [{ benchEntry with bytes := [(0, 1)] }], wcb := [{ benchEntry with eid := 0, since := 0 }],
  copyQ := [benchCopy true { src := .fixed [1], dst := .scratch 0, n := 1 }, { benchCopy true { src := .fixed [1], dst := .scratch 0, n := 1 } with ga := true }],
  matQ := [benchMat true false (.clear 0 false)], streamQ := [benchStream] }

/-- A split that waits in its instruction for what is numbered below 1. -/
def benchParkedAt (n : Nat) (s : State) : State := parked (.parked (.instr n)) s

/-- The small machine with all of it, and a remote write not yet sent, to a device of its domain. -/
def benchOpenAll : State :=
  { bench.modCore 0 benchOpenCore with
    nextId := 1, fabOps := [{ benchOp .wr with cid := 0, seq := none, dev := 1 }], fab := { bench.fab with domain := [(1, (2, 1))] } }

/-- FencesAndCaches: something of every path is open, for a fence that issues and for one that waits; a machine with nothing open that waits; an
entry for CWB.wcb and a dirty private line for CWB.priv, and such a line on its way. -/
theorem witness_fences_wait :
    (let s := benchOpenAll
     let t := benchParkedAt 1 s
     s.iss = some (issOf s) ∧ (issOf s).hel = none ∧ (issOf s).resumed = none ∧ fabricOk s [] = true ∧ t.iss = some (issOf t) ∧ (issOf t).resumed = some 1 ∧
     ∀ u ∈ [s, t], let c := issOf u
       (∀ sc : Scope, ReleaseOpen u c sc 1) ∧ ∀ p ∈ [Path.ls, .ga, .cp, .mx, .ws, .co], ∀ sc ∈ [Scope.thr, .dom], PathOpen u c p sc 1) ∧
    (let t := benchParkedAt 1 bench
     t.iss = some (issOf t) ∧ (issOf t).resumed = some 1 ∧ EngineIdle t (issOf t)) ∧
    (let s : State := { benchCore (fun k => { k with wcb := [benchEntry] }) with nextId := 1 }
     (∃ e ∈ s.unacked (issOf s).core, OlderEntry e s.nextId) ∧ (issOf s).resumed = none ∧ fabricOk s [] = true) ∧
    (let s := benchCore (fun k => { k with l1 := [{ line := 0x80, key := 1, data := [], owner := some 0, dirty := [(0, 1)], bad := false }] })
     (issOf s).resumed = none ∧ ∃ l ∈ (s.core (issOf s).core).l1, l.owner = some (issOf s).slot ∧ l.dirty ≠ []) ∧
    (let s := benchParkedAt 1 (benchCore (fun k => { k with drains := [{ benchEntry with wg := some (wgKey 0 0) }] }))
     (issOf s).resumed = some 1 ∧ ∃ e ∈ (s.core (issOf s).core).drains, e.wg = some (issOf s).w.wg ∧ e.eid < 1) := by
  refine ⟨⟨by decide +kernel, by decide +kernel, by decide +kernel, by decide +kernel, by decide +kernel, by decide +kernel, ?_⟩,
    ⟨by decide +kernel, by decide +kernel, engineIdle_of_ok (by decide +kernel)⟩,
    ⟨⟨benchEntry, by decide +kernel, by decide, by decide⟩, by decide +kernel, by decide +kernel⟩,
    ⟨by decide +kernel, _, List.mem_cons_self, by decide +kernel, by decide⟩, by decide +kernel, _, List.mem_cons_self, by decide +kernel, by decide⟩
  have open_ : ∀ u ∈ [benchOpenAll, benchParkedAt 1 benchOpenAll],
      (∃ l ∈ (u.core (issOf u).core).loadsPending, l.slot = (issOf u).slot ∧ l.cid < 1) ∧
      (∃ q ∈ (u.core (issOf u).core).copyQ, q.slot = (issOf u).slot ∧ q.ga = true ∧ q.id < 1) ∧
      (∃ q ∈ (u.core (issOf u).core).copyQ, q.slot = (issOf u).slot ∧ q.ga = false ∧ q.id < 1) ∧
      (∃ q ∈ (u.core (issOf u).core).matQ, q.slot = (issOf u).slot ∧ q.id < 1) ∧ (∃ q ∈ (u.core (issOf u).core).streamQ, q.slot = (issOf u).slot ∧ q.id < 1) ∧
      (∃ f ∈ u.fabOps, f.wg = (issOf u).w.wg ∧ f.index = (issOf u).w.index ∧ f.co = true ∧ f.cid < 1) := by decide +kernel
  intro u hu
  obtain ⟨h1, h2, h3, h4, h5, h6⟩ := open_ u hu
  refine ⟨fun _ => .inl h1, fun p hp sc _ => ?_⟩
  simp only [List.mem_cons, List.not_mem_nil, or_false] at hp
  rcases hp with rfl | rfl | rfl | rfl | rfl | rfl
  · exact .inl h1
  · exact h2
  · exact .inl h3
  · exact h4
  · exact h5
  · exact .inl h6

/-- `MayArrive` and what the completion of a generation asks beside it, as one truth value. -/
def arriveOk (s : State) (c : Iss) (k : Nat) (gr : Workgroup) : Bool :=
  c.hel.isNone && (s.lsOpen c.core c.slot).isEmpty && (s.barrier c.w.wg k).init && (c.exec false).all (fun t => !hasBit (s.barrier c.w.wg k).cur (c.barWho t)) &&
  gr.core == some c.core && decide (c.w.index < 4) && !(c.exec false).isEmpty

/-- NamedBarriers: arrivals that complete a generation, on barriers 0 and 15, and that do not, for want of threads and for transfers; a BARW that
waits, one whose generation had an error, and one that BARX has woken; BARX with a transfer in flight, new and waiting, and with none. -/
theorem witness_generations :
    (∀ k ∈ [0, 15], ∀ b ∈ [{ Barrier.clear with init := true, exp := 2 }, { Barrier.clear with init := true, exp := 64 },
        { Barrier.clear with init := true, exp := 2, cpm := true, inflCur := 1 }],
      let s := benchWg (fun g => { g with barriers := [(k, b)] })
      let c := issOf s
      s.iss = some c ∧ someAnd (mget? s.wgs c.w.wg) (arriveOk s c k) = true ∧ s.barrier c.w.wg k = b ∧ c.split.any (fun sp => sp.status == .ready) = true ∧
        ((arrivals b.cur + (c.exec false).length = b.exp ∧ b.inflCur = 0 ∧ arrivals b.next < b.exp) ∨
          (arrivals b.cur + (c.exec false).length < b.exp ∨ b.inflCur ≠ 0))) ∧
    (∀ st ∈ [((none : Option Bool), false), (some true, true), (some false, false)],
      let s := parked (.parked (.barw 15 [0] 0 st.2 st.1)) benchTrap
      s.iss = some (issOf s) ∧ (issOf s).hel = none ∧ (issOf s).split.any (fun sp => sp.status == .parked (.barw 15 [0] 0 st.2 st.1)) = true ∧ CanTrap s (issOf s) 0) ∧
    (∀ b ∈ [{ Barrier.clear with init := true, exp := 2, cpm := true, inflNext := 1 }, { Barrier.clear with init := true, exp := 2 }],
      let s := benchWg (fun g => { g with barriers := [(15, b)] })
      let t := benchParkedAt 0 s
      s.iss = some (issOf s) ∧ (issOf s).hel = none ∧ (issOf s).resumed = none ∧ s.barrier (issOf s).w.wg 15 = b ∧ (issOf t).resumed = some 0) := by
  unfold CanTrap; decide +kernel

/-- A machine with the window of device 1 in its translations, and as many of its launch engine's commands as `q` names. -/
def benchQueued (q : List (Nat × Who)) : State := benchLaunch.modCore 0 (fun k => { k with lchQ := q })

/-- CopyCommands and Launches: records in a window page, of 64 and of 128 bytes; an LNCH behind another command of its engine, with room in its
queue and with none; one whose ENQ runs; and one whose engine is busy. -/
theorem witness_records_asked :
    (let s := benchLaunch
     let c := issOf s
     QueueClear s c 0 [(.win 6, 2), (.vz, 4), (.vz, 1)] false ∧ s.loadsWait c (s.recordAccs c (c.read 0 (.win 6) 2) 64) = false ∧
      someAnd (s.recordFar c (c.read 0 (.win 6) 2) 64) (fun far => fabricOk s [far]) = true ∧
      SeqClear s c false (c.tids.take 1) [(.win 6, 2)] (some (.win 9, 1)) ∧ s.loadsWait c (s.recordAccs c (c.first (.win 6) 2) 128) = false ∧ s.launchBusy c = false ∧
      someAnd (s.recordFar c (c.first (.win 6) 2) 128) (fun far => fabricOk s [far]) = true ∧ c.asked = none ∧ (s.core c.core).lchQ = []) ∧
    (∀ q ∈ [[(1, Who.split 0)], (upto 16).map (fun i => (4 + i, Who.split 0))], let s := benchQueued q
      let c := issOf s
      s.iss = some c ∧ seqOk s c false (c.tids.take 1) [(.win 2, 2)] (some (.win 9, 1)) = true ∧ (s.core c.core).lchQ ≠ [] ∧ c.resumed = none ∧ c.issued = false ∧
        (c.slot, c.who) ∉ (s.core c.core).lchQ) ∧
    (let s := parked (.parked (.enq 3 none)) benchLaunch
     s.iss = some (issOf s) ∧ (issOf s).asked = some (3, none)) ∧
    (let s : State := { benchLaunch with pol := { benchLaunch.pol with calls := [(0, { part := 0, kind := .block 0 0 [], results := [], running := none, cycles := 0, since := 0, ends := 9 })] } }
     s.iss = some (issOf s) ∧ s.launchBusy (issOf s) = true ∧ (issOf s).resumed = none) := by
  refine ⟨⟨by unfold QueueClear; decide +kernel, by decide +kernel, by decide +kernel, seqClear_of_ok (by decide +kernel), by decide +kernel, by decide +kernel,
    by decide +kernel, by decide +kernel, by decide +kernel⟩, by decide +kernel, by decide +kernel, by decide +kernel⟩

/-- An access of a word of HBM at the address 0x4000 by thread 63, and the machine with a load or a pending store of it, with a line of that key there. -/
def benchAccess (data : List Byte) : Access :=
  { t := 63, space := .hbm, addr := 0x4000, n := 4, data := data, dests := [(63, .file 255)], aux := 1 }
def benchWith_ (l : List Load) (p : List StorePend) (d : List WcbEntry) : State :=
  benchScratch.modCore 0 (fun k => { k with loadsPending := l, storesPending := p, drains := d })
def benchPend (w : StoreWork) (after cids : List Nat) : StorePend := { cid := 3, slot := 0, who := .split 0, work := w, after := after, afterCids := cids }

/-- MemoryEvents: ATOM and RED with the publish done and not; an LDA with its own scope, a wider one by the line's release tag, and a buffer entry
outstanding; an STL that still waits for an entry or for a command, and one that is free. -/
theorem witness_atomics_performed :
    (∀ op ∈ [AtomOp.add, .cas], let a := benchAccess (leBytes (if op = .cas then 8 else 4) (2 ^ 32 - 1))
      AtomAccess op a ∧
      let s := benchWith_ [benchLoad (.atom op true) [a] [7] none] [benchPend (.red op [a]) [7] []] []
      let t := benchWith_ [benchLoad (.atom op true) [a] [7] none] [benchPend (.red op [a]) [7] []] [{ benchEntry with eid := 7 }]
      ((s.core 0).loadsPending.filter (fun x => x.slot == 0))[0]? = some (benchLoad (.atom op true) [a] [7] none) ∧ s.eidsOpen [7] = false ∧ t.eidsOpen [7] = true ∧
        (s.core 0).storesPending[0]? = some (benchPend (.red op [a]) [7] []) ∧ (s.warp? 0 0).any (fun w => !w.splits.isEmpty) = true ∧
        mget? s.lineKeys (0x4000 / 128) = some (s.keyToken 1)) ∧
    (let a := { benchAccess [1, 2, 3, 4] with t := 0 }
     (∀ sc ∈ [Scope.thr, .pai, .dom], let l := benchLoad (.load .none) [a] [7] (some sc)
       let s := benchWith_ [l] [] []
       ((s.core 0).loadsPending.filter (fun x => x.slot == 0))[0]? = some l ∧ s.eidsOpen [7] = false ∧ s.widened 0 sc a = none ∧ s.fused 0 = false ∧ a.dests.Nodup) ∧
     (let s : State := { benchWith_ [] [] [] with dir := [(lineKey 0 .hbm 0x4000, { holders := [], many := 0, tag := some (1, .thr) })] }
      s.widened 0 .wkg a = some .pai ∧ s.widened 0 .dom a = some .pai) ∧
     (∀ e ∈ [[(7 : Nat)], []], let s := benchWith_ [{ benchLoad (.load .none) [] [] none with cid := 5 }] [benchPend (.release [a] .dom) e [5]] [{ benchEntry with eid := 7 }]
       (s.core 0).storesPending[0]? = some (benchPend (.release [a] .dom) e [5]) ∧ s.eidsOpen e = !e.isEmpty ∧ s.cidOpen 0 5 = true) ∧
     (let s := benchWith_ [] [benchPend (.release [a] .thr) [7] [5]] []
      s.eidsOpen [7] = false ∧ s.cidOpen 0 5 = false ∧ fabricOk s [] = true)) := by
  unfold AtomAccess; decide +kernel

/-- EngineEvents: a CPA16 with a source in a window page, before and after it asks; and an accepted word of a multicast whose target has gone. -/
theorem witness_far_copies :
    (let q : CopyCmd := { benchCopy true { src := .mem .fabric 1 (2 ^ 48), dst := .scratch 0, n := 16 } with ga := true }
     let s : State := { bench.modCore 0 (fun k => { k with copyQ := [q] }) with fab := { bench.fab with domain := [(1, (2, 1))] } }
     (s.core 0).copyQ[0]? = some q ∧ copyReady (s.core 0).copyQ 0 q = true ∧ q.work.farReads = [(0, 1, 2 ^ 48)] ∧ q.asked = false ∧ fabricOk s [] = true ∧
      (∀ f ∈ q.work.farReads, s.devPresent (fabricDev f.2.2) = true) ∧ copyReady [{ q with asked := true }] 0 { q with asked := true } = true) ∧
    (let m : McastWord := { wg := 0, accepted := true, core := 0, cmd := 0, part := 0, ctx := 0, target := 1, word := 8191, gen := 0, data := [(0, 1)] }
     let q : CopyCmd := { benchCopy true { src := .fixed [1], dst := .scratch 0, n := 1 } with work := .multicast [] [0x80000001], out := some 1 }
     let s : State := { bench.modCore 0 (fun k => { k with copyQ := [q] }) with mcasts := [m] }
     s.mcasts[0]? = some m ∧ (s.core m.target).genHolds m.word m.gen = false ∧ (s.core m.core).copyQ = [q] ∧ q.id = m.cmd) := by
  decide +kernel

/-- A matrix command at the head of core 0's array, and another at the head of the other array of its pair. -/
def benchHead (q : MatCmd) (x : List MatCmd) : State :=
  (benchScratch.modCore 0 (fun k => { k with matQ := [q], accOwner := [(0, 0), (1, 0), (2, 0), (3, 0)] })).modCore (pairOfCore 0) (fun k => { k with matQ := x })

/-- An operand of int4 of one plane at byte 0, and one of e2m1 of four planes; a product of their first rows. -/
def benchInt : MatOperand := { fmt := .int4, q := 1, sp := 1, off := 0 }
def benchFp4 : MatOperand := { fmt := .e2m1, q := 4, sp := 4, off := 4096 }
def benchMma (pair : Bool) (kk : Nat) : MatWork := .mma 2 true pair benchInt benchFp4 kk none

/-- EngineEvents: each kind of command at the head; a pair that leads, and one that waits; an element in error; a defect of the
array; a product whose self-test leaves too few sub-arrays in time; and outcomes that retire. -/
theorem witness_matrix_heads :
    (∀ w ∈ [MatWork.mscl 0, .clear 3 true, .mard 3 false 0, .mard 3 true 0, .maepi 3 0 0 0x3F800000#32 0, benchMma false 32], ∀ g ∈ [false, true],
      let s := benchHead (benchMat g false w) []
      AtHead s 0 (benchMat g false w) [] ∧ s.pairLeads 0 (benchMat g false w) = false ∧ (s.core 0).readsBad w = false ∧ (s.core 0).scrBad = []) ∧
    (let x := { benchMat true false (benchMma true 32) with headAt := some 0 }
     let q := { benchMat true false (.mard 3 true 0) with headAt := some 1 }
     (benchHead q [x]).pairLeads 0 q = true ∧ (benchHead { x with headAt := some 1 } [x]).pairWaits 0 { x with headAt := some 1 } = true) ∧
    (let s := (benchHead (benchMat true false (.mard 3 true 0)) []).modCore 0 (fun k => { k with accBad := [4096 * 3] })
     (s.core 0).readsBad (.mard 3 true 0) = true) ∧
    (let s : State := { benchHead (benchMat true false (benchMma false 32)) [] with defects := [(0, 5)] }
     mgetD s.defects 0 0 = 5) ∧
    (let s := (benchHead (benchMat true false (benchMma false 16416)) []).modCore 0 (fun k => { k with fence := 1 })
     (s.core 0).fence ≠ 0 ∧ 8192 < 2 * matCycles benchInt benchFp4 16416 ∧ mgetD s.defects 0 0 = 0) ∧
    (let q : MatCmd := { benchMat true true (.mard 3 true 0) with out := { acc := [(5, 1#32)], status := [(3, 2)], scr := [(8191, 9#32)], flags := 0 } }
     ((benchHead q []).core 0).matQ = [q] ∧ (q.out.acc.map Prod.fst).Nodup ∧ (q.out.scr.map Prod.fst).Nodup ∧ (q.out.status.map Prod.fst).Nodup) := by
  unfold AtHead; decide +kernel

/-- MatrixArithmetic: products of the least and the greatest number of elements, alone and as a pair. -/
theorem witness_products :
    LegalOperand benchInt ∧ LegalOperand benchFp4 ∧ (∀ pair ∈ [false, true], ∀ kk ∈ [32, 128], let q := benchMat true false (benchMma pair kk)
      let s := benchHead q []
      AtHead s 0 q [] ∧ (if pair then s.pairWaits 0 q else s.pairLeads 0 q) = false ∧ mgetD s.defects 0 0 = 0 ∧
        (s.core 0).fence = 0 ∧ mgetD s.defects (pairOfCore 0) 0 = 0 ∧ (s.core (pairOfCore 0)).fence = 0 ∧ mgetD s.stagedPick 0 [] = []) := by
  unfold AtHead LegalOperand; decide +kernel


/-! ### Witnesses: policy bytecode -/

/-- The code word of an opcode with A = k1, and a run of it that has used some cycles of 64 + 10. -/
def benchCode (op imm : Nat) : Nat := op * 2 ^ 26 + 2 ^ 22 + imm
def benchRun (op imm used : Nat) : Running :=
  { job := { level := 0, owner := 0, cands := [[7]] }, words := [benchCode op imm], load := 1, budget := 74, run := { Run.start with k := [(1, 5)], used := used } }

/-- A call of BLOCK for the small machine's workgroup, and the machine whose engine of plot 0 performs a call; its traverse is that of queue 5. -/
def benchCall (k : CallKind) (l : List LevelRun) (r : Option Running) : PolicyCall :=
  { part := 0, kind := k, results := l, running := r, cycles := 0, since := 0, ends := 0 }
def benchBlock (r : Running) : PolicyCall := benchCall (.block (wgKey 0 0) 0 []) [] (some r)
def benchTrav : Traverse := { words := [benchCode 0x1F 0], qnum := 5, ctx := 0, disp := false, vcode := 0, load := 1 }
def benchCalls (c : PolicyCall) (s : State := benchCmd 0) : State :=
  { s with pol := { s.pol with calls := [(0, c)], images := [(imageKey 0 0 3, benchTrav)], lines := [(0, 1)] } }

/-- A level that has written decision registers, and one that answers as round robin. -/
def benchLevel (d : List (Nat × Nat)) : LevelRun := { d := some d, ran := true, cycles := 3, writes := [] }
def benchRobin : LevelRun := { d := none, ran := false, cycles := 1, writes := [] }

/-- PolicyBytecode: a run that goes on and one that does not fit; each opcode that is performed at its own time, with cycles enough and without; and a
BLOCK that starts a traverse, one without a traverse, and one whose traverse is displaced. -/
theorem witness_bytecode :
    (∀ op ∈ [(1 : Nat), 0x19, 0x1C], let r := benchRun op 3 72
      ((r.words.map Code.of)[r.run.pc]?.map (fun x => x.op)) = some op ∧ 72 + 2 ≤ r.budget ∧ (benchRun op 3 74).budget < 74 + 1 ∧ ∀ e ∈ r.run.k, e.2 < 2 ^ 64) ∧
    (∀ op ∈ [(0x18 : Nat), 0x1A, 0x1B, 0x1F], ∀ u ∈ [(72 : Nat), 74], let r := benchRun op 0x40 u
      let s := benchCalls (benchBlock r)
      (s.pol.calls = [(0, benchBlock r)] ∧ (benchBlock r).ends ≤ s.elapsed) ∧ (r.words.map Code.of)[r.run.pc]?.map (fun x => x.op) = some op ∧
        s.dieHolds 0 (scratchKey 0 0 5) = true ∧ (u = 72 → u + 2 ≤ r.budget) ∧ (u = 74 → r.budget < u + 1) ∧
        mget? s.pol.images (imageKey 0 0 3) = some benchTrav ∧ mget? s.cmd.queues 5 = some (benchQueue 0) ∧ (benchQueue 0).full = false ∧ benchTrav.load = r.load) ∧
    (∀ l ∈ [[benchTrav], [{ benchTrav with disp := true }], []],
      let s0 := parked .held bench
      let s : State := { s0 with pol := { s0.pol with images := l.map (fun i => (imageKey 0 0 3, i)) } }
      someAnd (mget? s.wgs (wgKey 0 0)) (fun w => w.core == some 0 && s.wgCtx w == some (0, placedCtx) && !w.blocked && w.parkCalls.isEmpty && s.whollyParked w &&
        !(s.plot 0).leaving && !s.engineBusy 0) = true) := by decide +kernel

/-- The small machine with its workgroup unplaced, as in `witness_policy`. -/
def benchWaits : State :=
  { benchCmd 0 with cores := [(0, Core.initial)], wgs := [], issuer := none, grids := bench.grids.map (fun e => (e.1, { e.2 with waiting := [0] })) }

/-- PolicyBytecode: the end of each call. -/
theorem witness_calls_end :
    (∀ k ∈ [CallKind.block (wgKey 0 0) 0 [], .wake (wgKey 0 0) 0 3 []], let s := benchCalls (benchCall k [{ benchLevel [(0, 7)] with writes := [(5, 9)] }] none)
      s.pol.calls.map (fun e => e.2.ends) = [0] ∧ someAnd (mget? s.wgs (wgKey 0 0)) (fun w => w.preempt.isNone && w.saved.isNone) = true) ∧
    (∀ l ∈ [[benchRobin, benchLevel [(0, 0)]], [benchRobin, benchLevel [(1, 6)]], [benchLevel [(1, 8)], benchRobin], [benchRobin, benchRobin]],
      someAnd (mget? (benchCmd 0).grids 0) (fun g =>
        let s := benchCalls (benchCall (.enq g [] (.warp 0 0 4)) l none) (parked (.parked (.enq 4 none)) (benchCmd 0))
        s.pol.calls.length == 1 && someAnd (s.warp? 0 0) (fun w => someAnd (mget? w.splits 0) (fun sp => sp.status == .parked (.enq 4 none)))) = true) ∧
    (let s := benchCalls (benchCall (.tick [(wgKey 0 0, 0, [])] none []) [benchLevel [(0, 1)], benchRobin] none)
     s.pol.calls.length = 1 ∧ (s.plot 0).leaving = false ∧ someAnd (mget? (s.residents 0) (wgKey 0 0)) (fun w => mget? s.wgs (wgKey 0 0) == some w && w.preempt.isNone && w.saved.isNone) = true) ∧
    (∀ d ∈ [benchLevel [(0, 0)], benchLevel [(0, 0), (1, 0)], benchLevel [(0, 0), (1, 65535)]],
      let s := benchCalls (benchCall (.pick 0 0 [(0, [(0, .grid 0, [])])]) [benchLevel [(0, 0)], d] none) benchWaits
      s.pol.calls.length = 1 ∧ (s.plot (plotOf 0)).leaving = false ∧ s.partOfPlot (plotOf 0) = some 0 ∧ (0, Pick.grid 0) ∈ mgetD (s.pickContexts 0 0) 0 [] ∧
        someAnd (mget? s.grids 0) (fun g => g.waiting == [0] && (s.fits 0 g none).isSome) = true) := by decide +kernel


/-! ### Further witnesses: private stores, policy events, snapshots and the command processors -/

/-- PrivateAccesses: STP of one word by every thread that the memory engine runs at once, to HBM. -/
theorem witness_private_store :
    let m : MemSpec := { inHelper := false, g := false, u := false, cls := some .stores, srcs := [(.win 1, 1), (.vz, 1)], dst := none }
    m.Clear bench benchIss ∧ m.AtOnce bench benchIss ∧ fabricOk bench ((m.units bench benchIss).map (fun y => privTarget y.1 0)) = true ∧
    (∀ y ∈ m.units bench benchIss, (privTarget y.1 0).space = .hbm ∧ bench.translate benchIss.core benchIss.w.ctx .store (privVa 0 (benchIss.w.wg % 2 ^ 32) 1 benchIss.w.index 65520 y.1 0 % 2 ^ 64) =
      .ok (privTarget y.1 0)) :=
  ⟨memClear_of_ok (by decide +kernel), by unfold MemSpec.AtOnce; decide +kernel, by decide +kernel, by decide +kernel⟩

/-- PolicyAndPowerEvents: a workgroup that has woken, a saved one whose wait is over, a lease at zero whose cores are past its cycle and whose core is not,
a lease to return, and a measurement before and at its time. -/
theorem witness_policy_more :
    (let s := benchWg (fun g => { g with blocked := true })
     someAnd (mget? s.wgs (wgKey 0 0)) (fun w => w.core == some 0 && w.blocked && s.hasWoken w && (s.wgCtx w).isSome && !(s.plot 0).leaving && w.parkCalls.isEmpty) = true) ∧
    (let s := benchAway.modWg 0 (fun g => { g with saved := g.saved.map (fun v => { v with ready := false, wantWake := false, warps := ((parked (.parked (.mwait (some 0) (.win 1))) bench).core 0).warps }) })
     someAnd (mget? s.wgs (wgKey 0 0)) (fun w => w.core.isNone && someAnd w.saved (fun sv => s.deadlineDue sv && someAnd (s.wakeEngine 0 w) (fun e => !s.engineBusy e))) = true) ∧
    (∀ e ∈ [((20 : Nat), true), (0, false)],
      let s : State := { bench.modCtx 0 (fun x => { x with lease := some 0, leaseAt := 0 }) with elapsed := e.1 }
      decide (∀ k ∈ s.cores, (∃ w ∈ k.2.warps, w.2.ctx = 0) → 0 < k.2.start (36 * s.elapsed)) = e.2) ∧
    someAnd (mget? (bench.modCtx 0 (fun x => { x with lease := some 5 })).ctxs 0) (fun x => x.lease == some 5) = true ∧
    bench.elapsed < bench.pwr.measured + 100000 := by decide +kernel

/-- Privilege: the trigger of SNAP disabled, enabled with no snapshot held, and with one of the same cycle and of an earlier one. -/
theorem witness_snapshots :
    hasBit bench.pwr.snapctl 0 = false ∧
    (let s : State := { bench with pwr := { bench.pwr with snapctl := 1 } }
     hasBit s.pwr.snapctl 0 = true ∧ s.pwr.snap = none ∧ s.iss = some (issOf s) ∧ (issOf s).hel = none ∧ s.privileged (issOf s) = true) ∧
    (∀ e ∈ [((0 : Nat), true), (1000, false)],
      let s0 : State := { bench with pwr := { bench.pwr with snapctl := 1 } }
      let s : State := { s0.latch .snap 5 (some 1) with elapsed := e.1 }
      someAnd s.pwr.snap (fun x => (x.cycle == s.triggerCycle (some 0)) == e.2 && x.tagCore == some 1) = true ∧ s.iss = some (issOf s) ∧ s.privileged (issOf s) = true) := by
  decide +kernel

/-- WarpEvents: a workgroup that has ended, with a store of a helper that a fault ended still in the buffer of its core. -/
theorem witness_orphans :
    (let s := { (benchWg (fun g => { g with slots := [] })).modCore 0 (fun k => { k with wcb := [{ benchEntry with owners := [(0, .helper 16, 0)] }] }) with grids := [] }
     s.orphansLeft 0 = true ∧ fabricOk s [] = true ∧ (s.core 0).drains = [] ∧
      someAnd (mget? s.wgs (wgKey 0 0)) (fun w => w.core == some 0 && w.slots.isEmpty && w.barriers.all (fun e => e.2.spawn.isEmpty && e.2.cont.isNone)) = true) := by decide +kernel

/-- ControlPageWrites: EQRD where there is no queue; and writes that are latched. -/
theorem witness_latches :
    ((benchCmd 0).queueOf 0 15 = none ∧ (mget? (benchCmd 0).ctxs 0).isSome = true ∧ (benchCmd 0).quiescing = false) ∧
    (∀ st ∈ [UpdState.quiesce, .switch], (benchUpdate st 0).quiescing = true ∧ (mget? (benchUpdate st 0).ctxs 0).isSome = true) := by decide +kernel

/-- UpdateEvents: a boot whose state table fits, and two whose does not; debug access open; a switch with every section known and with none; and a mailbox
word that is latched when the quiesce ends either way. -/
theorem witness_updates_more :
    (∀ e ∈ [(benchImage 1 1, true), ({ benchImage 1 1 with major := 2 }, false)], let s0 := benchUpdate .boot 0
      let s : State := { s0 with cmd := { s0.cmd with table := some (imageTable (benchImage 0 0)), update := s0.cmd.update.map (fun u => { u with img := e.1 }) } }
      someAnd s.cmd.update (fun u => someAnd s.cmd.table (fun tb => decide (tb.major = u.img.major ∧ tb.minor ≤ u.img.minor) == e.2) && u.state == .boot) = true) ∧
    (let s0 := benchUpdate .ready 0
     let s : State := { s0 with sec := { s0.sec with debug := true } }
     s.sec.debug = true ∧ (s.session 0).isSome = true ∧ someAnd (s0.session 0) (fun x => (s0.sessionPart x).isSome && !s0.sec.debug) = true) ∧
    (∀ l ∈ [[(0 : Nat), 1, 2, 3, 4], []], let s0 := benchUpdate .switch 0
      let s : State := { s0 with cmd := { s0.cmd with table := some (imageTable (benchImage 0 0)), update := s0.cmd.update.map (fun u => { u with img := { benchImage 1 1 with sections := l } }) } }
      s.cmd.latched = [] ∧ (l ≠ [] → someAnd s.cmd.table (fun tb => (upto 5).all (fun n => tb.sections.contains n)) = true) ∧ (l = [] → 1 ∉ l)) ∧
    (∀ st ∈ [UpdState.switch, .quiesce], let s0 := benchUpdate st 0
      let s : State := { s0 with elapsed := 20400000, cmd := { s0.cmd with latched := [.mailbox 0 7 9] } }
      s.cmd.latched = [.mailbox 0 7 9] ∧ someAnd s.cmd.update (fun u => u.state == .switch || decide (u.since + 500000 ≤ s.elapsed)) = true) ∧
    ((benchUpdate .ready 0).cmd.images[1]? = some (some (benchImage 0 0)) ∧ (benchUpdate .ready 0).activeImage = some (benchImage 0 0)) := by decide +kernel

/-- FabricAccesses: a store of the LS path with a release tag and without; a refusal that acknowledges the frame it refuses; and the store of a buffer
entry that fails. -/
theorem witness_fabric_more :
    (∀ tag ∈ [some Scope.dom, none], ∀ n ∈ [(1 : Nat), 128], let bs := List.replicate n (3 : Byte)
      arrivesOk benchFab (benchFrame 0x01 (5 * 4096 + 8) (lsPayload tag bs)) = true ∧ bs.length ≤ 128) ∧
    (let u : Frame := { benchFrame 0x01 0 [] with seq := 7, sdev := 0, tdev := 1 }
     let s : State := ({ benchFab with fabOps := [benchOp .wr] } : State).setStream 1 2 { Stream.fresh with unacked := [u], next := 8 }
     let f := { benchFrame 0x07 7 [1] with ack := 8 }
     s.frameOk f = true ∧ f.seq = (s.stream 1 2).expect ∧ seqBelow u.seq f.ack = true ∧ s.fabOps = [benchOp .wr] ∧ (benchOp .wr).seq = some f.arg) ∧
    (let o := { benchOp .wr with entry := some { benchEntry with marks := [] } }
     let s : State := { benchFab with fabOps := [o], elapsed := 100000 }
     s.fabOps = [o] ∧ o.entry.isSome = true ∧ o.since + 100000 ≤ s.elapsed) := by decide +kernel

/-- KeySlots and SessionsAndEvidence: a session whose partition is gone. -/
theorem witness_session_gone :
    (let s : State := { benchSec with parts := [(0, { placedPart with pinst := placedPart.pinst + 1 })] }
     s.session 0 = some benchSession ∧ s.sessionPart benchSession = none) ∧ (benchSec.keySlot 3).state = .pend := by decide +kernel

theorem bench_core_free : ∀ (core : Nat), core ≠ 0 → (benchCmd 0).core core = Core.initial := by
  intro core h
  have hc : mkeys (benchCmd 0).cores = [0] := by decide +kernel
  have : ∀ m : NatMap Core, mkeys m = [0] → mgetD m core Core.initial = Core.initial := by
    intro m hm
    match m with
    | [] => rfl
    | [(a, b)] =>
      have : a = 0 := by simpa [mkeys] using hm
      subst this
      simp [mgetD, mget?, Ne.symm h]
    | _ :: _ :: _ => simp [mkeys] at hm
  exact this _ hc

/-- PartitionConfig: no core of the small machine has a store in its buffer or a private line. -/
theorem witness_buffers_empty : ∀ core, (benchCmd 0).unacked core = [] ∧ ((benchCmd 0).core core).l1 = [] := by
  intro core
  have hr : (benchCmd 0).hostReqs = [] ∧ (benchCmd 0).fabOps = [] := by decide +kernel
  by_cases h : core = 0
  · subst h; decide +kernel
  · rw [State.unacked, bench_core_free core h, hr.1, hr.2]; exact ⟨rfl, rfl⟩

/-- StatedValues: an environment at the bounds of its fields, the least and the greatest normal word, and band scales and a magnitude at their bounds. -/
theorem witness_stated :
    (let env : FEnv := { rnd := 4, ftz := true, sat := 2 }
     env.rnd < 5 ∧ env.sat < 3) ∧ NormalWord fp32 0x00800000 ∧ NormalWord fp32 0x7F7FFFFF ∧ FiniteWord fp64 0 ∧ (∀ band ∈ [(128 : Nat), 32639], 128 ≤ band ∧ band < 32640) ∧
    [SpecReg.tid, .lane][1]? = some .lane ∧ bench.ctxOf benchIss.w = some placedCtx ∧ (∃ grid wg, benchIss.w.wg = wgKey grid wg ∧ wg < 2 ^ 32) := by
  refine ⟨by decide, by unfold NormalWord FiniteWord; decide, by unfold NormalWord FiniteWord; decide, by unfold FiniteWord; decide, by decide, rfl, by decide +kernel,
    0, 0, by decide +kernel, by decide⟩

/-! ### Results that the spec states

The expected values are the spec's own, from the rule that each docstring names. -/

/-- What thread 0 reads in v3 after an instruction on two operands in v1 and v2. -/
def result (i : Instr) (a b : Word) : Option Word :=
  match exec i (benchWith (fun w => { w with regs := [(1, a), (2, b)] })) with
  | .next t => (t.warp? 0 0).map (fun w => mgetD w.regs 3 0)
  | _ => none

def rOps : RForm := { d := .win 3, a := .win 1, b := .win 2, h := none, g := false, u := false }
def xOps : XForm := { d := .win 3, a := .win 1, h := none, g := false, u := false }

/-- R198: a division by zero, the one signed overflow, and the sign of a remainder. -/
theorem test_division : result (.divu rOps) 7 0 = some 0xFFFFFFFF#32 ∧ result (.divs rOps) 0x80000000 0xFFFFFFFF = some 0x80000000#32 ∧
    result (.rems rOps) 0xFFFFFFF9 2 = some 0xFFFFFFFF#32 := by decide +kernel

/-- R197: the high words of (−1) × (−1), signed and unsigned. -/
theorem test_multiply_high : result (.mulh rOps) 0xFFFFFFFF 0xFFFFFFFF = some 0#32 ∧ result (.mulhu rOps) 0xFFFFFFFF 0xFFFFFFFF = some 0xFFFFFFFE#32 := by
  decide +kernel

/-- R200: a shift of the whole width or more, and a rotation by 33. -/
theorem test_shift_counts : result (.shl rOps) 1 32 = some 0#32 ∧ result (.shra rOps) 0x80000000 99 = some 0xFFFFFFFF#32 ∧
    result (.rol rOps) 0x80000001 33 = some 3#32 := by decide +kernel

/-- Table 7-2: the borderline values. -/
theorem test_unary_borderline : result (.neg xOps) 0x80000000 0 = some 0x80000000#32 ∧ result (.abss xOps) 0x80000000 0 = some 0x7FFFFFFF#32 ∧
    result (.clz xOps) 0 0 = some 32#32 ∧ result (.popc xOps) 0xFFFFFFFF 0 = some 32#32 := by decide +kernel

/-- R217: the number is returned beside a NaN, and −0 is below +0. -/
theorem test_float_minimum : result (.fmin rOps) 0x7FC00001 0x3F800000 = some 0x3F800000#32 ∧ result (.fmin rOps) 0 0x80000000 = some 0x80000000#32 := by
  decide +kernel

/-- R213 with R103: 1 + 1 is 2, and the greatest value added to itself overflows to infinity under RNE. -/
theorem test_float_add : result (.fadd rOps) 0x3F800000 0x3F800000 = some 0x40000000#32 ∧ result (.fadd rOps) 0x7F7FFFFF 0x7F7FFFFF = some 0x7F800000#32 := by
  decide +kernel

/-- Table 8-4: the classes of −0, of a denormal and of a quiet NaN. -/
theorem test_classes : result (.fclass xOps) 0x80000000 0 = some 8#32 ∧ result (.fclass xOps) 1 0 = some 32#32 ∧ result (.fclass xOps) 0x7FC00000 0 = some 512#32 := by
  decide +kernel
end Sys2Proof.Tests
end

/-! SUPPORT. The canonical form of the memories, as a fact of the three fields of the state that hold memory: the rules by which the proofs of
MemoryStaysCanonical go through records, branches, folds and answers. -/

namespace Sys2Proof.Machine

/-! ### The three fields that hold memory -/

/-- The canonical form of HBM, of host memory and of the memory of every plot. -/
def MemsWf (hbm hostMem : List Host.Cell) (plots : NatMap Plot) : Prop :=
  Memory.wf hbm = true ∧ Memory.wf hostMem = true ∧ ∀ e ∈ plots, Memory.wf e.2.mem = true

@[simp] theorem memsWf_fields (s : State) : MemsWf s.hbm s.hostMem s.plots ↔ s.memWf := Iff.rfl

/-- A change of every plot that keeps its memory. -/
@[simp] theorem memsWf_map_plots {hbm hostMem : List Host.Cell} {plots : NatMap Plot} (g : Nat × Plot → Nat × Plot) (hg : ∀ e, (g e).2.mem = e.2.mem) :
    MemsWf hbm hostMem (plots.map g) ↔ MemsWf hbm hostMem plots := by
  simp only [MemsWf, List.forall_mem_map, hg]

/-- A state written out as a record is judged by the three fields that hold memory alone. -/
@[simp] theorem State.memWf_mk {cores grids wgs ctxs parts plots hbm lineKeys hostMem dir remotes hostReqs mcasts fabOps tier counters meters weights
    wepoch binds
    recQ recOpen recSeq elapsed defects stagedPick tidOrder placePick gridSeq groups arrivals cmd fab pol sec pwr issuer withheld agenda cursor fresh
        nextId} :
    (State.mk cores grids wgs ctxs parts plots hbm lineKeys hostMem dir remotes hostReqs mcasts fabOps tier counters meters weights wepoch binds recQ recOpen
      recSeq elapsed defects stagedPick tidOrder placePick gridSeq groups arrivals cmd fab pol sec pwr issuer withheld agenda cursor fresh nextId).memWf ↔
      MemsWf hbm hostMem plots := Iff.rfl

@[simp] theorem State.memWf_ite (p : Prop) [Decidable p] (a b : State) : (if p then a else b).memWf ↔ if p then a.memWf else b.memWf := by
  split <;> rfl

theorem memWf_of_ite {p : Prop} [Decidable p] {a b : State} (ha : a.memWf) (hb : b.memWf) : (if p then a else b).memWf := by
  split <;> assumption

/-- A state that a call has answered beside something else. -/
theorem memWf_fst {α : Type} {p : State × α} {t : State} {a : α} (h : p = (t, a)) : t.memWf ↔ p.1.memWf := by rw [h]

/-! ### Maps and folds -/

theorem mem_of_mget? {α : Type} {m : NatMap α} {k : Nat} {v : α} (h : mget? m k = some v) : (k, v) ∈ m := by
  induction m with
  | nil => cases h
  | cons e r ih =>
    obtain ⟨i, w⟩ := e
    unfold mget? at h
    split at h
    next hi => simp_all
    next => exact List.mem_cons_of_mem _ (ih h)

/-- What holds of every value listed in a map, and of the default, holds of the value of every key. -/
theorem mgetD_of_forall_mem {α : Type} {P : α → Prop} {m : NatMap α} {d : α} (k : Nat) (hm : ∀ e ∈ m, P e.2) (hd : P d) : P (mgetD m k d) := by
  unfold mgetD
  cases hv : mget? m k with
  | none => exact hd
  | some v => exact hm (k, v) (mem_of_mget? hv)

/-- A key is set to a value as good as the one it had: every listed value is as good as before. -/
theorem forall_mem_mset {α : Type} (P : α → Prop) {m : NatMap α} (k : Nat) {v d : α} (hv : P v ↔ P (mgetD m k d)) (hd : P d) :
    (∀ e ∈ mset m k v, P e.2) ↔ ∀ e ∈ m, P e.2 := by
  induction m with
  | nil => simp_all [mset, mgetD]
  | cons e r ih =>
    obtain ⟨i, w⟩ := e
    unfold mset
    split
    · rw [List.forall_mem_cons]
      exact and_iff_right_of_imp fun h => hv.mpr (mgetD_of_forall_mem k h hd)
    · split
      next hi => simp_all [mgetD, mget?]
      next hi =>
        rw [List.forall_mem_cons, List.forall_mem_cons, ih (by simpa [mgetD, mget?, hi] using hv)]

/-- Steps that keep the canonical form and hide no fault of it do so one after another. -/
@[simp] theorem foldl_memWf_iff {α : Type} {f : State → α → State} (hf : ∀ t a, (f t a).memWf ↔ t.memWf) (l : List α) (s : State) :
    (l.foldl f s).memWf ↔ s.memWf := by
  induction l generalizing s with
  | nil => rfl
  | cons a l ih => exact (ih _).trans (hf s a)

/-- Steps that keep the canonical form keep it one after another. -/
@[simp] theorem foldl_memWf {α : Type} {f : State → α → State} (l : List α) {s : State} (hs : s.memWf) (hf : ∀ t a, t.memWf → (f t a).memWf) :
    (l.foldl f s).memWf :=
  List.foldlRecOn l f hs fun t ht a _ => hf t a ht

/-- The same of steps that carry something else along. -/
theorem foldl_fst_memWf {α β : Type} {f : State × β → α → State × β} (l : List α) {p : State × β} (hp : p.1.memWf)
    (hf : ∀ q a, q.1.memWf → (f q a).1.memWf) : (l.foldl f p).1.memWf :=
  List.foldlRecOn l f hp fun q hq a _ => hf q a hq

/-! ### Answers -/

/-- The next state that a step answers, if any, has every memory in canonical form. -/
def EndsMemWf (r : Result) : Prop := ∀ t, r = .next t → t.memWf

@[simp] theorem endsMemWf_next (t : State) : EndsMemWf (.next t) ↔ t.memWf := by simp [EndsMemWf]

@[simp] theorem endsMemWf_fault (e : Fault) : EndsMemWf (.fault e) := by simp [EndsMemWf]

@[simp] theorem endsMemWf_ite (p : Prop) [Decidable p] (a b : Result) : EndsMemWf (if p then a else b) ↔ if p then EndsMemWf a else EndsMemWf b := by
  split <;> rfl

theorem endsMemWf_of_ite {p : Prop} [Decidable p] {a b : Result} (ha : EndsMemWf a) (hb : EndsMemWf b) : EndsMemWf (if p then a else b) := by
  split <;> assumption

/-- An issue whose meaning gives good states ends in one. -/
theorem withIss_memWf {s : State} {k : Iss → State} (hk : ∀ c, (k c).memWf) : EndsMemWf (withIss s k) := by
  unfold withIss
  split <;> simp [hk]

end Sys2Proof.Machine

/-! SUPPORT. The operations that leave HBM, host memory and the memories of the plots alone: the state after one is canonical exactly where the
state before it is (`State.op_memWf`, an equivalence, so that simp takes such operations off one after another). -/

namespace Sys2Proof.Machine

section
variable {s : State}

/-! ### Translations and accesses -/

@[simp] theorem State.setCore_memWf (c : Nat) (k : Core) : (s.setCore c k).memWf ↔ s.memWf := Iff.rfl

@[simp] theorem State.modCore_memWf (c : Nat) (f : Core → Core) : (s.modCore c f).memWf ↔ s.memWf := Iff.rfl

@[simp] theorem State.modWarp_memWf (c slot : Nat) (f : Warp → Warp) : (s.modWarp c slot f).memWf ↔ s.memWf := by
  unfold State.modWarp
  split <;> simp

/-- A change of a plot that keeps its memory keeps the canonical form of every memory, and hides no fault of one. -/
@[simp] theorem memsWf_modPlot {hbm hostMem : List Host.Cell} (p : Nat) (f : Plot → Plot) (hf : ∀ x : Plot, (f x).mem = x.mem) :
    MemsWf hbm hostMem (s.modPlot p f).plots ↔ MemsWf hbm hostMem s.plots :=
  have key : (∀ e ∈ mset s.plots p (f (s.plot p)), Memory.wf e.2.mem = true) ↔ ∀ e ∈ s.plots, Memory.wf e.2.mem = true :=
    forall_mem_mset (fun x : Plot => Memory.wf x.mem = true) p (by rw [hf]; rfl) rfl
  and_congr_right fun _ => and_congr_right fun _ => key

@[simp] theorem State.modPlot_memWf (p : Nat) (f : Plot → Plot) (hf : ∀ x : Plot, (f x).mem = x.mem) : (s.modPlot p f).memWf ↔ s.memWf :=
  memsWf_modPlot p f hf

@[simp] theorem State.modCtx_memWf (x : Nat) (f : Context → Context) : (s.modCtx x f).memWf ↔ s.memWf := by
  unfold State.modCtx
  split <;> simp

@[simp] theorem State.modWg_memWf (g : Nat) (f : Workgroup → Workgroup) : (s.modWg g f).memWf ↔ s.memWf := by
  unfold State.modWg
  split <;> simp

@[simp] theorem State.modGrid_memWf (g : Nat) (f : Grid → Grid) : (s.modGrid g f).memWf ↔ s.memWf := by
  unfold State.modGrid
  split <;> simp

@[simp] theorem State.count_memWf (part : Nat) (c : Counter) (n : Nat) : (s.count part c n).memWf ↔ s.memWf := Iff.rfl

@[simp] theorem State.countAt_memWf (core : Nat) (c : Counter) (n : Nat) : (s.countAt core c n).memWf ↔ s.memWf := by
  unfold State.countAt
  split <;> simp

@[simp] theorem State.meter_memWf (part : Nat) (m : Meter) (n : Nat) : (s.meter part m n).memWf ↔ s.memWf := Iff.rfl

@[simp] theorem State.meterAt_memWf (core : Nat) (m : Meter) (n : Nat) : (s.meterAt core m n).memWf ↔ s.memWf := by
  unfold State.meterAt
  split <;> simp

@[simp] theorem State.meterHost_memWf (part : Option Nat) (sp : Space) (toward from' : Nat) : (s.meterHost part sp toward from').memWf ↔ s.memWf := by
  unfold State.meterHost
  split <;> simp

/-! ### Translation -/

@[simp] theorem State.tlbFill_memWf (core ctx va : Nat) : (s.tlbFill core ctx va).memWf ↔ s.memWf := by
  unfold State.tlbFill
  (repeat' split) <;> simp

/-! ### Operands, effects and ends of instructions -/

@[simp] theorem State.modHelper_memWf (core slot lane : Nat) (f : Helper → Helper) : (s.modHelper core slot lane f).memWf ↔ s.memWf := Iff.rfl

@[simp] theorem State.effs_memWf (core slot : Nat) (who : Who) (es : List Eff) : (s.effs core slot who es).memWf ↔ s.memWf := by
  unfold State.effs
  split <;> simp

@[simp] theorem State.coolAt_memWf (core slot after : Nat) (ls : List (RegLoc × Nat)) : (s.coolAt core slot after ls).memWf ↔ s.memWf := by
  simp [State.coolAt]

@[simp] theorem State.cool_memWf (c : Iss) (resumed : Bool) (ls : List (RegLoc × Nat)) : (s.cool c resumed ls).memWf ↔ s.memWf := by simp [State.cool]

@[simp] theorem State.effsBy_memWf (c : Iss) (es : List Eff) : (s.effsBy c es).memWf ↔ s.memWf := by simp [State.effsBy]

@[simp] theorem State.coolFlags_memWf (c : Iss) (resumed : Bool) : (s.coolFlags c resumed).memWf ↔ s.memWf := by simp [State.coolFlags]

@[simp] theorem State.coolSpecial_memWf (c : Iss) (r : SpecReg) : (s.coolSpecial c r).memWf ↔ s.memWf := Iff.rfl

/-! ### Accesses that are performed -/

@[simp] theorem State.fusedWrite_memWf (sp : Space) (key pa : Nat) (bs : List Byte) : (s.fusedWrite sp key pa bs).memWf ↔ s.memWf := by
  simp [State.fusedWrite]

@[simp] theorem State.setDir_memWf (key : Nat) (d : DirLine) : (s.setDir key d).memWf ↔ s.memWf := Iff.rfl

@[simp] theorem State.askLanes_memWf (core slot lanes : Nat) : (s.askLanes core slot lanes).memWf ↔ s.memWf := Iff.rfl

@[simp] theorem State.fireSaved_memWf (key : Nat) : (s.fireSaved key).memWf ↔ s.memWf := Iff.rfl

@[simp] theorem State.fireLine_memWf (key : Nat) : (s.fireLine key).memWf ↔ s.memWf := by
  unfold State.fireLine
  refine (foldl_memWf_iff (fun t core => foldl_memWf_iff (fun t slot => ?_) _ t) _ _).trans (by simp)
  (repeat' split) <;> simp

@[simp] theorem State.noteReads_memWf (ctx : Nat) (rs : List (Nat × Nat)) : (s.noteReads ctx rs).memWf ↔ s.memWf := by simp [State.noteReads]

/-! ### Records, rings and traps -/

@[simp] theorem State.latch_memWf (src : SnapSrc) (tag : Nat) (core : Option Nat) : (s.latch src tag core).memWf ↔ s.memWf := Iff.rfl

@[simp] theorem State.trigger_memWf (src : SnapSrc) (tag : Nat) (core : Option Nat) : (s.trigger src tag core).memWf ↔ s.memWf := by
  unfold State.trigger
  (repeat' split) <;> simp

@[simp] theorem State.modQueue_memWf (n : Nat) (f : Queue → Queue) : (s.modQueue n f).memWf ↔ s.memWf := by
  unfold State.modQueue
  split <;> simp

@[simp] theorem State.countRequest_memWf (r : Record) : (s.countRequest r).memWf ↔ s.memWf := by
  unfold State.countRequest
  split <;> simp

@[simp] theorem State.markRing_memWf (n : Nat) : (s.markRing n).memWf ↔ s.memWf := by simp [State.markRing]

/-! ### Shared operations -/

@[simp] theorem State.stall_memWf : (s.stall).memWf ↔ s.memWf := Iff.rfl

@[simp] theorem State.modSplit_memWf (c : Iss) (f : Split → Split) : (s.modSplit c f).memWf ↔ s.memWf := by
  unfold State.modSplit
  split <;> simp

@[simp] theorem State.setReserve_memWf (c : Iss) (r : Option (TimingClass × Nat)) : (s.setReserve c r).memWf ↔ s.memWf := by
  unfold State.setReserve
  split <;> simp

@[simp] theorem State.spend_memWf (c : Iss) (leased : Bool) (units : Nat) : (s.spend c leased units).memWf ↔ s.memWf := by simp [State.spend]

@[simp] theorem State.charge_memWf (c : Iss) (preds : List Nat) : (s.charge c preds).memWf ↔ s.memWf := by
  unfold State.charge
  (repeat' split) <;> simp

@[simp] theorem State.retire_memWf (c : Iss) (preds : List Nat) : (s.retire c preds).memWf ↔ s.memWf := by
  unfold State.retire
  split <;> simp

@[simp] theorem State.wake_memWf (c : Iss) : (s.wake c).memWf ↔ s.memWf := by
  unfold State.wake
  split <;> simp

@[simp] theorem State.stepPc_memWf (c : Iss) : (s.stepPc c).memWf ↔ s.memWf := by
  unfold State.stepPc
  split <;> simp

@[simp] theorem State.finish_memWf (c : Iss) (preds : List Nat) : (s.finish c preds).memWf ↔ s.memWf := by simp [State.finish]

@[simp] theorem State.park_memWf (c : Iss) (w : Wait) : (s.park c w).memWf ↔ s.memWf := by
  unfold State.park
  split <;> simp

@[simp] theorem State.await_memWf (c : Iss) (aux : Nat) : (s.await c aux).memWf ↔ s.memWf := by simp [State.await]

@[simp] theorem State.orphan_memWf (core slot lane : Nat) : (s.orphan core slot lane).memWf ↔ s.memWf := Iff.rfl

@[simp] theorem State.helperFault_memWf (core slot lane inner : Nat) : (s.helperFault core slot lane inner).memWf ↔ s.memWf := Iff.rfl

@[simp] theorem State.setPc_memWf (c : Iss) (pc : DWord) : (s.setPc c pc).memWf ↔ s.memWf := by
  unfold State.setPc
  split <;> simp

@[simp] theorem State.returnTrap_memWf (c : Iss) : (s.returnTrap c).memWf ↔ s.memWf := by simp [State.returnTrap]

/-! ### The memory hierarchy -/

@[simp] theorem State.writeBack_memWf (core wg : Nat) (l : L1Line) : (s.writeBack core wg l).memWf ↔ s.memWf := by simp [State.writeBack]

@[simp] theorem State.l1Put_memWf (core : Nat) (l : L1Line) : (s.l1Put core l).memWf ↔ s.memWf := by
  unfold State.l1Put
  split <;> simp

@[simp] theorem State.l1Load_memWf (core key pa : Nat) : (s.l1Load core key pa).memWf ↔ s.memWf := by
  unfold State.l1Load
  dsimp only
  split <;> simp

@[simp] theorem State.l1Store_memWf (core key pa : Nat) (bs : List Byte) : (s.l1Store core key pa bs).memWf ↔ s.memWf := by simp [State.l1Store]

@[simp] theorem State.l1Drop_memWf (core key pa : Nat) : (s.l1Drop core key pa).memWf ↔ s.memWf := Iff.rfl

@[simp] theorem State.acquire_memWf (core : Nat) (sc : Scope) : (s.acquire core sc).memWf ↔ s.memWf := by simp [State.acquire]

@[simp] theorem State.holderAdd_memWf (core key : Nat) : (s.holderAdd core key).memWf ↔ s.memWf := by simp [State.holderAdd]

@[simp] theorem State.holderDrop_memWf (core key : Nat) : (s.holderDrop core key).memWf ↔ s.memWf := Iff.rfl

@[simp] theorem State.marker_memWf (core : Nat) : (s.marker core).memWf ↔ s.memWf := Iff.rfl

@[simp] theorem State.addCounter_memWf (core slot : Nat) (who : Who) (cl : CounterCls) (n : Nat) : (s.addCounter core slot who cl n).memWf ↔ s.memWf := by
  unfold State.addCounter
  split <;> simp

@[simp] theorem State.endWarp_memWf (core slot : Nat) : (s.endWarp core slot).memWf ↔ s.memWf := by simp [State.endWarp]

@[simp] theorem State.reap_memWf (core slot : Nat) : (s.reap core slot).memWf ↔ s.memWf := by
  unfold State.reap
  split <;> simp

@[simp] theorem State.lowerCounter_memWf (core slot : Nat) (who : Who) (cl : CounterCls) : (s.lowerCounter core slot who cl).memWf ↔ s.memWf := by
  unfold State.lowerCounter
  split <;> simp

@[simp] theorem State.partDone_memWf (core slot : Nat) (who : Who) (cl : CounterCls) (cid : Nat) : (s.partDone core slot who cl cid).memWf ↔ s.memWf := by
  simp [State.partDone]

@[simp] theorem State.ownersDone_memWf (core : Nat) (owners : List (Nat × Who × Nat)) : (s.ownersDone core owners).memWf ↔ s.memWf := by
  simp [State.ownersDone]

@[simp] theorem State.opDone_memWf (core slot : Nat) (cl : CounterCls) (batch : Nat) : (s.opDone core slot cl batch).memWf ↔ s.memWf := by simp [State.opDone]

@[simp] theorem State.opIssue_memWf (core slot : Nat) (cl : CounterCls) : (s.opIssue core slot cl).memWf ↔ s.memWf := by simp [State.opIssue]

@[simp] theorem State.pairUnstage_memWf (core : Nat) : (s.pairUnstage core).memWf ↔ s.memWf := Iff.rfl

@[simp] theorem State.forgetAccs_memWf (core : Nat) (accs : List Nat) : (s.forgetAccs core accs).memWf ↔ s.memWf := Iff.rfl

@[simp] theorem State.takeId_memWf : (s.takeId).memWf ↔ s.memWf := Iff.rfl

/-! ### Frames of the fabric -/

@[simp] theorem State.setStream_memWf (dev part : Nat) (x : Machine.Stream) : (s.setStream dev part x).memWf ↔ s.memWf := Iff.rfl

@[simp] theorem State.sendFrame_memWf (dev part kind arg : Nat) (payload : List Byte) : (s.sendFrame dev part kind arg payload).1.memWf ↔ s.memWf := by
  simp [State.sendFrame]

@[simp] theorem State.fabDone_memWf (f : FabOp) : (s.fabDone f).memWf ↔ s.memWf := by
  unfold State.fabDone
  split <;> simp

@[simp] theorem State.markFabric_memWf (f : FabOp) : (s.markFabric f).memWf ↔ s.memWf := by
  unfold State.markFabric
  (repeat' split) <;> simp

@[simp] theorem State.fabFill_memWf (f : FabOp) (ws : List (Nat × RegLoc × Word)) (bs : List Byte) : (s.fabFill f ws bs).memWf ↔ s.memWf := by
  unfold State.fabFill
  split <;> simp

/-! ### Shared operations on memory -/

@[simp] theorem State.splitOff_memWf (c : Iss) (parked : Nat) (asks : List PageAsk) (replay : Nat) : (s.splitOff c parked asks replay).1.memWf ↔ s.memWf := by
  unfold State.splitOff
  dsimp only
  (repeat' split) <;> simp

@[simp] theorem State.takeSlots_memWf (c : Iss) (ps : List Nat) : (s.takeSlots c ps).memWf ↔ s.memWf := by
  unfold State.takeSlots
  split <;> simp

@[simp] theorem State.pushLoad_memWf (core : Nat) (l : Load) : (s.pushLoad core l).memWf ↔ s.memWf := Iff.rfl

@[simp] theorem State.pushStore_memWf (core : Nat) (p : StorePend) : (s.pushStore core p).memWf ↔ s.memWf := Iff.rfl

@[simp] theorem State.privTouch_memWf (core slot key pa : Nat) : (s.privTouch core slot key pa).memWf ↔ s.memWf := by
  unfold State.privTouch
  split <;> simp

@[simp] theorem State.privWrite_memWf (core slot key pa : Nat) (bs : List Byte) : (s.privWrite core slot key pa bs).memWf ↔ s.memWf := by
  simp [State.privWrite]

@[simp] theorem State.noteReplay_memWf (c : Iss) (cid : Nat) : (s.noteReplay c cid).memWf ↔ s.memWf := by
  unfold State.noteReplay
  split <;> simp

@[simp] theorem State.fillTlbs_memWf (c : Iss) (vas : List Nat) : (s.fillTlbs c vas).memWf ↔ s.memWf := by simp [State.fillTlbs]

/-! ### Memory instructions -/

@[simp] theorem State.releaseRemotes_memWf (id cid : Nat) (ts ex : List Nat) : (s.releaseRemotes id cid ts ex).memWf ↔ s.memWf := by
  simp [State.releaseRemotes]

@[simp] theorem State.cleanPrivate_memWf (core slot : Nat) : (s.cleanPrivate core slot).memWf ↔ s.memWf := by simp [State.cleanPrivate]

/-! ### Events of the memory system -/

@[simp] theorem State.ldaAcquire_memWf (core : Nat) (sc : Scope) (accs : List Access) : (s.ldaAcquire core sc accs).memWf ↔ s.memWf := by
  simp [State.ldaAcquire]

@[simp] theorem State.fillRegs_memWf (core slot : Nat) (who : Who) (ws : List (Nat × RegLoc × Word)) : (s.fillRegs core slot who ws).memWf ↔ s.memWf := by
  simp [State.fillRegs]

@[simp] theorem State.storeDone_memWf (core : Nat) (p : StorePend) : (s.storeDone core p).memWf ↔ s.memWf := by simp [State.storeDone]

theorem execCarveWayMove_next {t : State} {core : Nat} (ht : execCarveWayMove core s = .next t) : t.memWf ↔ s.memWf := by
  unfold execCarveWayMove at ht
  dsimp only at ht
  split at ht
  · cases ht
    rw [State.modCore_memWf]
    exact foldl_memWf_iff (fun t l => by split <;> simp) _ s
  · (repeat' split at ht) <;> cases ht <;> simp

/-! ### The integer and float units -/

@[simp] theorem State.vop_memWf (c : Iss) (n : Nat) : (s.vop c n).memWf ↔ s.memWf := by simp [State.vop]

/-! ### The sequencer -/

@[simp] theorem State.mwaitReturn_memWf (c : Iss) (d : Opnd) (timeout : Bool) : (s.mwaitReturn c d timeout).memWf ↔ s.memWf := by simp [State.mwaitReturn]

@[simp] theorem State.setFmt_memWf (c : Iss) (l v : Nat) : (s.setFmt c l v).memWf ↔ s.memWf := by
  unfold State.setFmt
  split <;> simp

/-! ### Barriers -/

@[simp] theorem State.setBarrier_memWf (wg k : Nat) (b : Barrier) : (s.setBarrier wg k b).memWf ↔ s.memWf := by simp [State.setBarrier]

@[simp] theorem State.mapWgWaits_memWf (wg : Nat) (f : Wait → Wait) : (s.mapWgWaits wg f).memWf ↔ s.memWf := by
  unfold State.mapWgWaits
  split
  · split
    · refine foldl_memWf_iff (fun t slot => ?_) _ s
      dsimp only
      split <;> simp
    · rfl
  · rfl

@[simp] theorem State.barrierSettle_memWf (wg k n : Nat) : (s.barrierSettle wg k n).1.memWf ↔ s.memWf := by
  induction n generalizing s with
  | zero => rfl
  | succ n ih =>
    unfold State.barrierSettle
    dsimp only
    split <;> simp [ih]

@[simp] theorem State.arriveOne_memWf (wg k who : Nat) : (s.arriveOne wg k who).1.memWf ↔ s.memWf := by
  unfold State.arriveOne
  dsimp only
  split <;> simp

@[simp] theorem State.arriveAll_memWf (wg k : Nat) (ts : List Nat) : (s.arriveAll wg k ts).1.memWf ↔ s.memWf := by
  induction ts generalizing s with
  | nil => rfl
  | cons t ts ih => simp [State.arriveAll, ih]

@[simp] theorem State.countTransfer_memWf (wg k who : Nat) : (s.countTransfer wg k who).1.memWf ↔ s.memWf := by
  unfold State.countTransfer
  dsimp only
  split <;> simp

@[simp] theorem State.transferLanded_memWf (wg : Nat) (kg : Nat × Nat) (err : Bool) : (s.transferLanded wg kg err).memWf ↔ s.memWf := by
  simp [State.transferLanded]

/-! ### Copies -/

@[simp] theorem State.loadWide_memWf (c : Iss) (t : Target) (n : Nat) : (s.loadWide c t n).1.memWf ↔ s.memWf := by
  unfold State.loadWide
  dsimp only
  split <;> simp

@[simp] theorem State.readRecord_memWf (c : Iss) (va size : Nat) : (s.readRecord c va size).1.memWf ↔ s.memWf := by
  unfold State.readRecord
  dsimp only
  (repeat' split) <;> simp

@[simp] theorem State.issueCopy_memWf (c : Iss) (t : Nat) (g : Bool) (bar : Option Nat) (work : CopyWork) : (s.issueCopy c t g bar work).memWf ↔ s.memWf := by
  unfold State.issueCopy
  dsimp only
  split <;> simp

@[simp] theorem State.l1DropLine_memWf (core pa : Nat) : (s.l1DropLine core pa).memWf ↔ s.memWf := Iff.rfl

@[simp] theorem State.workRead_memWf (core : Nat) (w : CopyWork) : (s.workRead core w).memWf ↔ s.memWf := by simp [State.workRead]

@[simp] theorem State.copyDone_memWf (core : Nat) (q : CopyCmd) (err : Bool) : (s.copyDone core q err).memWf ↔ s.memWf := by
  unfold State.copyDone
  split <;> simp

@[simp] theorem State.castStart_memWf (core : Nat) (q : CopyCmd) (moves : List Move) (targets : List Nat) :
    (s.castStart core q moves targets).memWf ↔ s.memWf := Iff.rfl

@[simp] theorem State.castAccept_memWf (n : Nat) (m : McastWord) : (s.castAccept n m).memWf ↔ s.memWf := by simp [State.castAccept]

@[simp] theorem State.castLand_memWf (n : Nat) (m : McastWord) : (s.castLand n m).memWf ↔ s.memWf := by simp [State.castLand]

/-! ### The policy engines -/

@[simp] theorem State.useLine_memWf (die key : Nat) (write : Bool) : (s.useLine die key write).memWf ↔ s.memWf := Iff.rfl

@[simp] theorem State.looseLine_memWf (key : Nat) : (s.looseLine key).memWf ↔ s.memWf := Iff.rfl

@[simp] theorem State.putScratch_memWf (ws : NatMap Nat) : (s.putScratch ws).memWf ↔ s.memWf := Iff.rfl

@[simp] theorem State.refillOverdrafts_memWf (plot : Nat) : (s.refillOverdrafts plot).memWf ↔ s.memWf := Iff.rfl

@[simp] theorem State.installImage_memWf (key vcode : Nat) (words : List Nat) (qnum ctx : Nat) :
    (s.installImage key vcode words qnum ctx).memWf ↔ s.memWf := by
  simp [State.installImage]

@[simp] theorem State.setCall_memWf (plot : Nat) (c : PolicyCall) : (s.setCall plot c).memWf ↔ s.memWf := Iff.rfl

@[simp] theorem State.callGo_memWf (plot : Nat) (c : PolicyCall) (n : Nat) : (s.callGo plot c n).1.memWf ↔ s.memWf := by
  induction n generalizing s c with
  | zero => rfl
  | succ n ih =>
    unfold State.callGo
    split
    · split <;> simp
    · split <;> simp [ih]

@[simp] theorem State.beginCall_memWf (plot part : Nat) (k : CallKind) : (s.beginCall plot part k).1.memWf ↔ s.memWf := by simp [State.beginCall]

@[simp] theorem State.levelOver_memWf (plot : Nat) (c : PolicyCall) (job : LevelJob) (l : LevelRun) : (s.levelOver plot c job l).memWf ↔ s.memWf := by
  simp [State.levelOver]

@[simp] theorem State.runEnds_memWf (plot : Nat) (c : PolicyCall) (r : Running) (used : Nat) : (s.runEnds plot c r used).memWf ↔ s.memWf := by
  simp [State.runEnds]

@[simp] theorem State.enqDecide_memWf (c : PolicyCall) : (s.enqDecide c).1.memWf ↔ s.memWf := by
  unfold State.enqDecide
  dsimp only
  split <;> simp

@[simp] theorem State.enqCall_memWf (part plot : Nat) (g : Grid) (entry : List Nat) (asker : Asker) :
    (s.enqCall part plot g entry asker).1.memWf ↔ s.memWf := by
  rw [← s.beginCall_memWf plot part (.enq g entry asker)]
  unfold State.enqCall
  split <;> simp [*]

/-! ### Placement -/

@[simp] theorem State.enqGrid_memWf (plot : Nat) (g : Grid) (asker : Asker) : (s.enqGrid plot g asker).1.memWf ↔ s.memWf := by simp [State.enqGrid]

@[simp] theorem State.acceptGrid_memWf (g : Grid) (prio : Nat) : (s.acceptGrid g prio).1.memWf ↔ s.memWf := Iff.rfl

@[simp] theorem State.endStep_memWf (qnum : Nat) : (s.endStep qnum).memWf ↔ s.memWf := by simp [State.endStep]

@[simp] theorem State.blockStep_memWf (qnum : Nat) (b : Block) : (s.blockStep qnum b).memWf ↔ s.memWf := by simp [State.blockStep]

@[simp] theorem State.carveTo_memWf (core code n : Nat) : (s.carveTo core code n).memWf ↔ s.memWf := by
  induction n generalizing s with
  | zero => rfl
  | succ n ih =>
    unfold State.carveTo
    split
    · rfl
    · split
      next t ht => rw [ih, execCarveWayMove_next ht, State.modCore_memWf]
      · rfl

@[simp] theorem State.recarve_memWf (core code : Nat) : (s.recarve core code).memWf ↔ s.memWf := by simp [State.recarve]

@[simp] theorem State.catchUp_memWf : (s.catchUp).memWf ↔ s.memWf := Iff.rfl

@[simp] theorem State.enterCore_memWf (core : Nat) : (s.enterCore core).memWf ↔ s.memWf := Iff.rfl

@[simp] theorem State.allocScratch_memWf (core wg : Nat) (g : Grid) (base : Nat) : (s.allocScratch core wg g base).memWf ↔ s.memWf := Iff.rfl

@[simp] theorem State.freeEntry_memWf (wg : Nat) (e : PendEntry) : (s.freeEntry wg e).memWf ↔ s.memWf := by simp [State.freeEntry]

@[simp] theorem State.freeGridEntry_memWf (gid : Nat) (g : Grid) : (s.freeGridEntry gid g).memWf ↔ s.memWf := by
  unfold State.freeGridEntry
  split <;> simp

@[simp] theorem State.askSlot_memWf (core slot fileSize : Nat) : (s.askSlot core slot fileSize).memWf ↔ s.memWf := by simp [State.askSlot]

@[simp] theorem State.pushWaiter_memWf (part word : Nat) (op : MboxOp) : (s.pushWaiter part word op).memWf ↔ s.memWf := Iff.rfl

@[simp] theorem State.doneUp_memWf (wg : Nat) : (s.doneUp wg).memWf ↔ s.memWf := by simp [State.doneUp]

@[simp] theorem State.completeGrid_memWf (gid : Nat) (g : Grid) : (s.completeGrid gid g).memWf ↔ s.memWf := by
  unfold State.completeGrid
  split <;> simp

@[simp] theorem State.wgGone_memWf (id : Nat) : (s.wgGone id).memWf ↔ s.memWf := by
  unfold State.wgGone
  dsimp only
  (repeat' split) <;> simp

@[simp] theorem State.dropWarp_memWf (core slot : Nat) : (s.dropWarp core slot).memWf ↔ s.memWf := by simp [State.dropWarp]

@[simp] theorem State.discardWg_memWf (id : Nat) : (s.discardWg id).memWf ↔ s.memWf := by
  unfold State.discardWg
  (repeat' split) <;> simp

@[simp] theorem State.dropGrid_memWf (gid : Nat) : (s.dropGrid gid).memWf ↔ s.memWf := by
  unfold State.dropGrid
  split <;> simp

/-! ### Launches and groups -/

@[simp] theorem State.countCtx_memWf (c : Iss) (k : Counter) : (s.countCtx c k).memWf ↔ s.memWf := by
  unfold State.countCtx
  split <;> simp

@[simp] theorem State.acceptLaunch_memWf (c : Iss) (x : Opnd) (p gid : Nat) : (s.acceptLaunch c x p gid).memWf ↔ s.memWf := by simp [State.acceptLaunch]

@[simp] theorem State.askPreempt_memWf (wg : Nat) (why : Why) : (s.askPreempt wg why).memWf ↔ s.memWf := by simp [State.askPreempt]

@[simp] theorem State.giveReply_memWf (core slot id v : Nat) : (s.giveReply core slot id v).memWf ↔ s.memWf := by simp [State.giveReply]

@[simp] theorem State.answerLaunch_memWf (f : FabLaunch) : (s.answerLaunch f).memWf ↔ s.memWf := by simp [State.answerLaunch]

@[simp] theorem State.launchAnswer_memWf (f : FabLaunch) (dev rsn : Nat) : (s.launchAnswer f dev rsn).memWf ↔ s.memWf := by simp [State.launchAnswer]

@[simp] theorem State.sendLaunch_memWf (c : Iss) (bytes : List Byte) (targets : List Nat) (tgtq : Nat) :
    (s.sendLaunch c bytes targets tgtq).memWf ↔ s.memWf := by
  simp [State.sendLaunch]

@[simp] theorem State.trySend_memWf (c : Iss) (x : Opnd) (bytes : List Byte) (tw : Nat) : (s.trySend c x bytes tw).memWf ↔ s.memWf := by simp [State.trySend]

@[simp] theorem State.setGroup_memWf (key : Nat) (g : Machine.Group) : (s.setGroup key g).memWf ↔ s.memWf := Iff.rfl

@[simp] theorem State.mapWaits_memWf (f : Wait → Wait) : (s.mapWaits f).memWf ↔ s.memWf := Iff.rfl

@[simp] theorem State.wakeSaved_memWf (met : Warp → Bool) : (s.wakeSaved met).memWf ↔ s.memWf := Iff.rfl

@[simp] theorem State.settleGroup_memWf (key : Nat) : (s.settleGroup key).memWf ↔ s.memWf := by
  unfold State.settleGroup
  dsimp only
  split <;> simp

@[simp] theorem State.countArrival_memWf (key : Nat) : (s.countArrival key).1.memWf ↔ s.memWf := by
  unfold State.countArrival
  dsimp only
  split <;> simp

@[simp] theorem State.sendArrival_memWf (n : Nat) (a : Arrival) (key : Nat) : (s.sendArrival n a key).memWf ↔ s.memWf := Iff.rfl

/-! ### Fabric frames and timers -/

@[simp] theorem State.fabAnswer_memWf (f : FabOp) (bs : List Byte) : (s.fabAnswer f bs).memWf ↔ s.memWf := by simp [State.fabAnswer]

@[simp] theorem State.dropFrame_memWf : (s.dropFrame).memWf ↔ s.memWf := Iff.rfl

@[simp] theorem State.refuse_memWf (f : Frame) (reason : Nat) : (s.refuse f reason).memWf ↔ s.memWf := Iff.rfl

@[simp] theorem State.remoteTag_memWf (dev pa : Nat) (sc : Scope) : (s.remoteTag dev pa sc).memWf ↔ s.memWf := Iff.rfl

@[simp] theorem State.admission_memWf (f : Frame) : (s.admission f).1.memWf ↔ s.memWf := by
  unfold State.admission
  dsimp only
  (repeat' split) <;> simp
  all_goals simp [memWf_fst ‹_ = (_, _)›]

@[simp] theorem State.answerPart_memWf (dev part arg qnum rsn : Nat) : (s.answerPart dev part arg qnum rsn).memWf ↔ s.memWf := by simp [State.answerPart]

@[simp] theorem State.setLaunch_memWf (l : FabLaunch) : (s.setLaunch l).memWf ↔ s.memWf := Iff.rfl

@[simp] theorem State.loseAnswers_memWf (dev part : Nat) (which : FabLaunch → Bool) : (s.loseAnswers dev part which).memWf ↔ s.memWf := by
  simp [State.loseAnswers]

@[simp] theorem State.doubtAnswers_memWf (dev part : Nat) : (s.doubtAnswers dev part).memWf ↔ s.memWf := by simp [State.doubtAnswers]

@[simp] theorem State.partEnded_memWf (l : FabLaunch) (dev : Nat) : (s.partEnded l dev).memWf ↔ s.memWf := by simp [State.partEnded]

@[simp] theorem State.discardHeld_memWf (dev part : Nat) : (s.discardHeld dev part).memWf ↔ s.memWf := by simp [State.discardHeld]

@[simp] theorem State.renewAssoc_memWf (port : Nat) : (s.renewAssoc port).memWf ↔ s.memWf := Iff.rfl

@[simp] theorem State.dropArrivals_memWf (dev part : Nat) : (s.dropArrivals dev part).memWf ↔ s.memWf := by simp [State.dropArrivals]

/-! ### The matrix units -/

@[simp] theorem State.pushMat_memWf (core : Nat) (q : MatCmd) : (s.pushMat core q).memWf ↔ s.memWf := Iff.rfl

@[simp] theorem State.issueMat_memWf (c : Iss) (tid : Nat) (g : Bool) (work : MatWork) : (s.issueMat c tid g work).memWf ↔ s.memWf := by simp [State.issueMat]

@[simp] theorem State.fenceArrays_memWf (core bad : Nat) : (s.fenceArrays core bad).memWf ↔ s.memWf := by simp [State.fenceArrays]

@[simp] theorem State.selfTest_memWf (core : Nat) : (s.selfTest core).memWf ↔ s.memWf := by simp [State.selfTest]

@[simp] theorem State.popMat_memWf (core : Nat) : (s.popMat core).memWf ↔ s.memWf := Iff.rfl

@[simp] theorem State.matDone_memWf (core : Nat) (q : MatCmd) : (s.matDone core q).memWf ↔ s.memWf := by simp [State.matDone]

@[simp] theorem State.dropAttach_memWf (core : Nat) (q : MatCmd) (id : Nat) : (s.dropAttach core q id).memWf ↔ s.memWf := by simp [State.dropAttach]

@[simp] theorem State.matDiscard_memWf (core : Nat) (q : MatCmd) : (s.matDiscard core q).memWf ↔ s.memWf := by
  unfold State.matDiscard
  split <;> simp

@[simp] theorem State.matDrop_memWf (core : Nat) (q : MatCmd) : (s.matDrop core q).memWf ↔ s.memWf := by simp [State.matDrop]

@[simp] theorem State.matCount_memWf (core : Nat) (w : MatWork) : (s.matCount core w).memWf ↔ s.memWf := by
  unfold State.matCount
  split <;> simp

@[simp] theorem State.matAfter_memWf (core : Nat) (w : MatWork) : (s.matAfter core w).memWf ↔ s.memWf := by
  unfold State.matAfter
  split <;> simp

/-! ### Fetch and issue -/

@[simp] theorem State.noteFetch_memWf (c : Iss) : (s.noteFetch c).memWf ↔ s.memWf := by
  unfold State.noteFetch
  split <;> simp

theorem State.unstopSources_memWf {t : State} {c : Iss} {f : Fetched} (ht : s.unstopSources c f = some t) : t.memWf ↔ s.memWf := by
  unfold State.unstopSources at ht
  dsimp only at ht
  split at ht <;> cases ht
  simp

@[simp] theorem State.noteWithheld_memWf (run : Instr → State → Result) (core : Nat) : (s.noteWithheld run core).memWf ↔ s.memWf := Iff.rfl

/-! ### The recruiter -/

@[simp] theorem State.modPk_memWf (c : Iss) (f : Pricking → Pricking) : (s.modPk c f).memWf ↔ s.memWf := Iff.rfl

@[simp] theorem State.endOwn_memWf (c : Iss) (lane : Nat) : (s.endOwn c lane).memWf ↔ s.memWf := by simp [State.endOwn]

@[simp] theorem State.sendClaim_memWf (c : Iss) (lane : Nat) (f : Pricking → Pricking) : (s.sendClaim c lane f).memWf ↔ s.memWf := by simp [State.sendClaim]

@[simp] theorem State.helperWait_memWf (c : Iss) (l : Nat) (h : Helper) : (s.helperWait c l h).memWf ↔ s.memWf := by simp [State.helperWait]

@[simp] theorem State.recruiterRelease_memWf (c : Iss) (p : Pricking) : (s.recruiterRelease c p).1.memWf ↔ s.memWf := by
  unfold State.recruiterRelease
  dsimp only
  split <;> simp

/-! ### Ends of threads and workgroups -/

@[simp] theorem State.exitThreads_memWf (c : Iss) (e : Nat) (ts : List Nat) : (s.exitThreads c e ts).memWf ↔ s.memWf := by simp [State.exitThreads]

@[simp] theorem State.spawn_memWf (id k : Nat) : ((s.spawn id k).getD s).memWf ↔ s.memWf := by
  unfold State.spawn
  (repeat' split) <;> simp

/-! ### Pre-emption -/

@[simp] theorem State.modSplits_memWf (id : Nat) (f : Warp → Split → Split) : (s.modSplits id f).memWf ↔ s.memWf := by
  unfold State.modSplits
  split <;> simp

@[simp] theorem State.modHelpers_memWf (id : Nat) (f : Helper → Helper) : (s.modHelpers id f).memWf ↔ s.memWf := by
  unfold State.modHelpers
  split <;> simp

@[simp] theorem State.askHelpers_memWf (id : Nat) : (s.askHelpers id).memWf ↔ s.memWf := by
  unfold State.askHelpers
  split <;> simp

@[simp] theorem State.withdraw_memWf (id : Nat) : (s.withdraw id).memWf ↔ s.memWf := by
  unfold State.withdraw
  split
  · rfl
  · dsimp only
    split <;> simp

@[simp] theorem State.takeFree_memWf (n : Nat) : (s.takeFree n).1.memWf ↔ s.memWf := Iff.rfl

@[simp] theorem State.leaveCore_memWf (id core : Nat) (w : Workgroup) : (s.leaveCore id core w).memWf ↔ s.memWf := Iff.rfl

/-! ### Calls of the policy engines -/

@[simp] theorem State.replaced_memWf (part : Nat) (named : Bool) : (s.replaced part named).memWf ↔ s.memWf := by simp [State.replaced]

@[simp] theorem State.endTick_memWf (part plot : Nat) (hyper : Option Nat) (hyperNamed : Bool) (ctx : Nat) (tenant : Option Nat) (tenantNamed : Bool) :
    (s.endTick part plot hyper hyperNamed ctx tenant tenantNamed).memWf ↔ s.memWf := by
  unfold State.endTick
  dsimp only
  (repeat' split) <;> simp

@[simp] theorem State.endMigr_memWf (part wg prio : Nat) (target : Option Nat) (named : Bool) : (s.endMigr part wg prio target named).memWf ↔ s.memWf := by
  unfold State.endMigr
  split <;> simp

@[simp] theorem State.giveEnq_memWf (core slot id : Nat) (d : Option Nat) : (s.giveEnq core slot id d).memWf ↔ s.memWf := by simp [State.giveEnq]

@[simp] theorem State.moveWindow_memWf (plot : Nat) : (s.moveWindow plot).memWf ↔ s.memWf := Iff.rfl

@[simp] theorem State.notePark_memWf (id : Nat) : (s.notePark id).memWf ↔ s.memWf := by
  unfold State.notePark
  split <;> simp

@[simp] theorem State.noteReady_memWf (id : Nat) : (s.noteReady id).memWf ↔ s.memWf := by
  unfold State.noteReady
  split <;> simp

/-! ### The attestation chain and layouts -/

@[simp] theorem State.modPart_memWf (p : Nat) (f : Machine.Partition → Machine.Partition) : (s.modPart p f).memWf ↔ s.memWf := by
  unfold State.modPart
  split <;> simp

@[simp] theorem State.chainAppend_memWf (part flag : Nat) : (s.chainAppend part flag).memWf ↔ s.memWf := by
  unfold State.chainAppend
  split <;> simp

@[simp] theorem State.chainTick_memWf : (s.chainTick).memWf ↔ s.memWf := by simp [State.chainTick]

@[simp] theorem State.openDerate_memWf (stack part : Nat) : (s.openDerate stack part).memWf ↔ s.memWf := by simp [State.openDerate]

@[simp] theorem State.closeDerate_memWf (stack part : Nat) : (s.closeDerate stack part).memWf ↔ s.memWf := by
  unfold State.closeDerate
  dsimp only
  (repeat' split) <;> simp

@[simp] theorem State.setKey_memWf (key : Nat) (k : KeySlot) : (s.setKey key k).memWf ↔ s.memWf := Iff.rfl

@[simp] theorem State.setPool_memWf (part n : Nat) : (s.setPool part n).memWf ↔ s.memWf := Iff.rfl

@[simp] theorem State.returnLease_memWf (ctx : Nat) : (s.returnLease ctx).memWf ↔ s.memWf := by
  unfold State.returnLease
  (repeat' split) <;> simp

@[simp] theorem State.extend4_memWf (event : List Nat) : (s.extend4 event).memWf ↔ s.memWf := Iff.rfl

@[simp] theorem State.extend5_memWf (event : List Nat) : (s.extend5 event).memWf ↔ s.memWf := Iff.rfl

@[simp] theorem State.setStandby_memWf (i : Option ImageInfo) : (s.setStandby i).memWf ↔ s.memWf := Iff.rfl

@[simp] theorem State.withdrawUpdate_memWf (u : Update) : (s.withdrawUpdate u).memWf ↔ s.memWf := Iff.rfl

/-! ### Packets -/

@[simp] theorem State.setMbox_memWf (part word : Nat) (full : Bool) (v : Nat) : (s.setMbox part word full v).memWf ↔ s.memWf := Iff.rfl

@[simp] theorem State.dropWaiter_memWf (n : Nat) : (s.dropWaiter n).memWf ↔ s.memWf := Iff.rfl

/-! ### The weight store -/

@[simp] theorem State.setBinding_memWf (ctx n : Nat) (b : Binding) : (s.setBinding ctx n b).memWf ↔ s.memWf := Iff.rfl

@[simp] theorem State.unbind_memWf (ctx n : Nat) : (s.unbind ctx n).memWf ↔ s.memWf := Iff.rfl

@[simp] theorem State.issueStream_memWf (c : Iss) (t : Nat) (g : Bool) (q : StreamCmd) (bar : Option Nat) : (s.issueStream c t g q bar).memWf ↔ s.memWf := by
  unfold State.issueStream
  dsimp only
  split <;> simp

@[simp] theorem State.streamDone_memWf (core : Nat) (q : StreamCmd) : (s.streamDone core q).memWf ↔ s.memWf := by
  unfold State.streamDone
  split <;> simp

/-! ### Partition configuration -/

@[simp] theorem State.createPart_memWf (part : Nat) : (s.createPart part).memWf ↔ s.memWf := Iff.rfl

@[simp] theorem State.askLeaving_memWf (plots : Nat) : (s.askLeaving plots).memWf ↔ s.memWf := by simp [State.askLeaving]

@[simp] theorem State.migrateSaved_memWf (part plots : Nat) : (s.migrateSaved part plots).memWf ↔ s.memWf := by simp [State.migrateSaved]

@[simp] theorem State.leaveGranules_memWf (gs core : Nat) : (s.leaveGranules gs core).memWf ↔ s.memWf := by simp [State.leaveGranules]

@[simp] theorem State.layoutEnd_memWf (l : LayoutStep) : (s.layoutEnd l).memWf ↔ s.memWf := by simp [State.layoutEnd]

@[simp] theorem State.createCtx_memWf (v : Nat) (qs : List QueueDesc) : (s.createCtx v qs).memWf ↔ s.memWf := by simp [State.createCtx]

@[simp] theorem State.discardCtxWork_memWf (ctx : Nat) : (s.discardCtxWork ctx).memWf ↔ s.memWf := by
  refine foldl_memWf_iff (fun t e => ?_) _ s
  dsimp only
  (repeat' split) <;> simp

@[simp] theorem State.wprogEnds_memWf (qnum : Nat) : (s.wprogEnds qnum).memWf ↔ s.memWf := by simp [State.wprogEnds]

/-! ### Control pages -/

@[simp] theorem State.abortPricking_memWf (core slot : Nat) : (s.abortPricking core slot).memWf ↔ s.memWf := by
  unfold State.abortPricking
  split <;> simp

@[simp] theorem State.abortLease_memWf (ctx gone : Nat) : (s.abortLease ctx gone).memWf ↔ s.memWf := by simp [State.abortLease]

@[simp] theorem State.answerWarp_memWf (r : Record) (a : Answer) : (s.answerWarp r a).memWf ↔ s.memWf := by
  unfold State.answerWarp
  dsimp only
  split <;> simp

@[simp] theorem State.answerRestore_memWf (r : Record) (a : Answer) : (s.answerRestore r a).memWf ↔ s.memWf := by
  unfold State.answerRestore
  (repeat' split) <;> simp

@[simp] theorem State.answerPacket_memWf (r : Record) (a : Answer) : (s.answerPacket r a).memWf ↔ s.memWf := by
  unfold State.answerPacket
  (repeat' split) <;> simp

@[simp] theorem State.answerRecord_memWf (ctx seq : Nat) (a : Answer) : (s.answerRecord ctx seq a).memWf ↔ s.memWf := by
  unfold State.answerRecord
  (repeat' split) <;> simp

@[simp] theorem State.answerPage_memWf (ctx seq : Nat) (a : PageAnswer) : (s.answerPage ctx seq a).memWf ↔ s.memWf := Iff.rfl

@[simp] theorem State.replyPage_memWf (ctx seq : Nat) (a : PageAnswer) : (s.replyPage ctx seq a).memWf ↔ s.memWf := by
  unfold State.replyPage
  split <;> simp

@[simp] theorem State.takeWrite_memWf (a : HostWrite) : (s.takeWrite a).memWf ↔ s.memWf := by
  unfold State.takeWrite
  split <;> simp

@[simp] theorem State.hostWrite_memWf (x : HostWrite) : (s.hostWrite x).memWf ↔ s.memWf := by simp [State.hostWrite]

@[simp] theorem State.unlatch_memWf : (s.unlatch).memWf ↔ s.memWf := by simp [State.unlatch]

@[simp] theorem State.writeControl_memWf (ctx : Nat) (hyper : Bool) (off value : Nat) : (s.writeControl ctx hyper off value).memWf ↔ s.memWf := by
  simp [State.writeControl]

@[simp] theorem State.rearmMeter_memWf : (s.rearmMeter).memWf ↔ s.memWf := Iff.rfl

@[simp] theorem State.writePower_memWf (off value : Nat) : (s.writePower off value).memWf ↔ s.memWf := by simp [State.writePower]

/-! ### The security engine -/

@[simp] theorem State.modSec_memWf (f : Security → Security) : (s.modSec f).memWf ↔ s.memWf := Iff.rfl

@[simp] theorem State.reply_memWf (k : ReplyKind) (fields : List Nat) : (s.reply k fields).memWf ↔ s.memWf := Iff.rfl

@[simp] theorem State.secret_memWf : (s.secret).1.memWf ↔ s.memWf := Iff.rfl

@[simp] theorem State.kstat_memWf (result key : Nat) : (s.kstat result key).memWf ↔ s.memWf := Iff.rfl

@[simp] theorem State.rekeyLinks_memWf : (s.rekeyLinks).memWf ↔ s.memWf := Iff.rfl

@[simp] theorem State.stopQueues_memWf : (s.stopQueues).memWf ↔ s.memWf := Iff.rfl

@[simp] theorem State.unlock_memWf : (s.unlock).memWf ↔ s.memWf := by simp [State.unlock]

@[simp] theorem State.rekeyLink_memWf (link : Nat) : (s.rekeyLink link).memWf ↔ s.memWf := by simp [State.rekeyLink]

@[simp] theorem State.setUpdate_memWf (u : Update) : (s.setUpdate u).memWf ↔ s.memWf := Iff.rfl

@[simp] theorem State.activate_memWf (u : Update) : (s.activate u).memWf ↔ s.memWf := Iff.rfl

@[simp] theorem State.importTable_memWf (img : ImageInfo) : (s.importTable img).memWf ↔ s.memWf := by simp [State.importTable]

@[simp] theorem State.exchange_memWf (u : Update) : (s.exchange u).memWf ↔ s.memWf := by simp [State.exchange]

/-! ### Power and clock -/

@[simp] theorem State.setLevel_memWf (stack level : Nat) : (s.setLevel stack level).memWf ↔ s.memWf := by simp [State.setLevel]

@[simp] theorem State.windowCycle_memWf (core : Nat) (k : Core) : (s.windowCycle core k).memWf ↔ s.memWf := by simp [State.windowCycle]

/-! ### The schedule -/

@[simp] theorem State.strike_memWf (a : SoftError) : (s.strike a).memWf ↔ s.memWf := by
  unfold State.strike
  split <;> simp

@[simp] theorem State.modLink_memWf (link : Nat) (f : Link → Link) : (s.modLink link f).memWf ↔ s.memWf := by simp [State.modLink]

@[simp] theorem State.linkDrain_memWf (core n : Nat) : (s.linkDrain core n).memWf ↔ s.memWf := by simp [State.linkDrain]

end

end Sys2Proof.Machine

/-! SUPPORT. The operations that write memory: each writes through the operations of Laws/Memory, and keeps the canonical form
(`State.memWf_op`, from a canonical state). -/

namespace Sys2Proof.Machine

section
variable {s : State} (h : s.memWf)
include h

/-! ### Translations and accesses -/

@[simp] theorem State.memWf_afterWrite (plot : Nat) (sp : Space) (key a : Nat) (bs : List Byte) : (s.memWrite plot sp key a bs).memWf :=
  State.memWf_memWrite plot sp key a bs h

/-! ### Accesses that are performed -/

@[simp] theorem State.memWf_performBytes (plot : Nat) (sp : Space) (key line : Nat) (m : NatMap Byte) (tag : Option (Nat × Scope)) :
    (s.performBytes plot sp key line m tag).memWf := by
  simp +contextual [State.performBytes, h]

@[simp] theorem State.memWf_performWrite (plot : Nat) (sp : Space) (key pa : Nat) (bs : List Byte) : (s.performWrite plot sp key pa bs).memWf := by
  simp [State.performWrite, h]

@[simp] theorem State.memWf_ctxPutBy (bad : Bool) (ctx va : Nat) (bs : List Byte) (n : Nat) : (s.ctxPutBy bad ctx va bs n).memWf := by
  induction n generalizing s va bs with
  | zero => exact h
  | succ n ih =>
    unfold State.ctxPutBy
    dsimp only
    (repeat' split) <;> simp [h, ih]

@[simp] theorem State.memWf_ctxPut (ctx va : Nat) (bs : List Byte) : (s.ctxPut ctx va bs).memWf := by simp [State.ctxPut, h]

theorem State.memWf_ctxWrite {t : State} {ctx va : Nat} {bs : List Byte} (ht : s.ctxWrite ctx va bs = .ok t) : t.memWf := by
  unfold State.ctxWrite at ht
  split at ht <;> cases ht
  exact State.memWf_ctxPut h ctx va bs

/-! ### Records, rings and traps -/

theorem State.memWf_ringWrite {t : State} {n : Nat} {r : Record} (ht : s.ringWrite n r = some t) : t.memWf := by
  unfold State.ringWrite at ht
  dsimp only at ht
  split at ht
  · cases ht
  · split at ht
    · cases ht
    · split at ht
      · cases ht
      next hw =>
        cases ht
        simp [State.memWf_ctxWrite h hw]

@[simp] theorem flushRecs_memWf (stuck : List Nat) (rs : List Record) : (flushRecs stuck rs s).1.memWf := by
  induction rs generalizing s stuck with
  | nil => exact h
  | cons r rs ih =>
    unfold flushRecs
    (repeat' split)
    · exact ih h stuck
    · exact ih h stuck
    · next ht => exact ih (State.memWf_ringWrite h ht) stuck
    · exact ih (by simp [h]) _

@[simp] theorem State.memWf_flush : (s.flush).memWf := by simp [State.flush, h]

@[simp] theorem State.memWf_retryRings (ctx : Nat) : (s.retryRings ctx).memWf := by simp [State.retryRings, h]

@[simp] theorem State.memWf_notice (r : Record) : (s.notice r).memWf := by
  unfold State.notice
  dsimp only
  split
  · exact h
  · split
    · next ht => simp [State.memWf_ringWrite h ht]
    · simp [h]

@[simp] theorem State.memWf_post (r : Record) : (s.post r).memWf := by simp [State.post, h]

/-! ### Shared operations -/

@[simp] theorem State.memWf_stopRecord (c : Iss) (cause inner pc addr : Nat) : (s.stopRecord c cause inner pc addr).memWf := by simp [State.stopRecord, h]

@[simp] theorem State.memWf_enterTrap (c : Iss) (cause : Cause) (info : Nat) (pc : DWord) (addr : Nat) : (s.enterTrap c cause info pc addr).memWf := by
  unfold State.enterTrap
  (repeat' split) <;> simp [h]

@[simp] theorem State.memWf_decodeTrap (c : Iss) (cause : Cause) : (s.decodeTrap c cause).memWf := by simp [State.decodeTrap, h]

@[simp] theorem State.memWf_takeTrap (c : Iss) (cause : Cause) (addr : Nat) : (s.takeTrap c cause addr).memWf := by simp [State.takeTrap, h]

/-! ### Frames of the fabric -/

@[simp] theorem State.memWf_fabError (f : FabOp) : (s.fabError f).memWf := by simp [State.fabError, h]

@[simp] theorem State.memWf_fabFail (f : FabOp) : (s.fabFail f).memWf := by
  unfold State.fabFail
  dsimp only
  (repeat' split) <;> simp +contextual [h]

@[simp] theorem State.memWf_sendOp (f : FabOp) : (s.sendOp f).memWf := by simp [State.sendOp, h]

@[simp] theorem State.memWf_sendFab : (s.sendFab).memWf := by simp +contextual [State.sendFab, h]

/-! ### Drains -/

@[simp] theorem State.memWf_sendEntry (core : Nat) (e : WcbEntry) : (s.sendEntry core e).memWf := by simp [State.sendEntry, h]

@[simp] theorem State.memWf_ageEntry (core : Nat) (e : WcbEntry) : (s.ageEntry core e).memWf := by simp [State.ageEntry, h]

@[simp] theorem State.memWf_ageAll : s.ageAll.memWf :=
  foldl_memWf _ h fun _ _ ht => foldl_memWf _ ht fun _ _ hu => State.memWf_ageEntry hu _ _

@[simp] theorem State.memWf_timeTo (ns : Nat) : (s.timeTo ns).memWf := by simp [State.timeTo, h]

@[simp] theorem State.memWf_drainAll (core : Nat) : (s.drainAll core).memWf := by simp +contextual [State.drainAll, h]

@[simp] theorem State.memWf_drainLine (core : Nat) (sp : Space) (pa : Nat) : (s.drainLine core sp pa).memWf := by simp +contextual [State.drainLine, h]

@[simp] theorem State.memWf_publish (part : Option Nat) (targets : List Nat) : (s.publish part targets).memWf := by
  unfold State.publish
  dsimp only
  (repeat' split) <;> simp +contextual [h]

@[simp] theorem State.memWf_publishLine (core : Nat) (sp : Space) (pa : Nat) : (s.publishLine core sp pa).1.memWf := by simp [State.publishLine, h]

@[simp] theorem State.memWf_wcbAlloc (core slot : Nat) (who : Who) (cid : Nat) (sp : Space) (key pa : Nat) (m : NatMap Byte) (tag : Option Scope)
    (mark : List StoreMark) :
    (s.wcbAlloc core slot who cid sp key pa m tag mark).memWf := by
  unfold State.wcbAlloc
  (repeat' split) <;> simp [h]

@[simp] theorem State.memWf_wcbPut (core slot : Nat) (who : Who) (cid : Nat) (sp : Space) (key pa : Nat) (bs : List Byte) (tag : Option Scope)
    (mark : List StoreMark) :
    (s.wcbPut core slot who cid sp key pa bs tag mark).memWf := by
  unfold State.wcbPut
  dsimp only
  split <;> simp [h]

/-! ### Shared operations on memory -/

@[simp] theorem State.memWf_askPages (c : Iss) (pages : List Nat) : (s.askPages c pages).1.memWf :=
  foldl_fst_memWf pages h fun _ _ hp => State.memWf_post hp _

@[simp] theorem State.memWf_parkPages (c : Iss) (pages : List Nat) (replay : Option Nat) : (s.parkPages c pages replay).memWf := by simp [State.parkPages, h]

theorem State.memWf_settle (c : Iss) (v : Verdict) {run : State → State} (hrun : ∀ t, t.memWf → (run t).memWf) : (s.settle c v run).memWf := by
  have hr : (if v.performs then run s else s).memWf := by simp [h, hrun]
  unfold State.settle
  dsimp only
  generalize (if v.performs then run s else s) = t at hr ⊢
  (repeat' split) <;> simp [hr]

theorem memPrologue_memWf (m : MemSpec) (c : Iss) {k : List Nat → State} (hk : ∀ ps, (k ps).memWf) : (memPrologue m s c k).memWf := by
  unfold memPrologue
  dsimp only
  (repeat' split) <;> simp [h, hk]

@[simp] theorem State.memWf_atomAccess (core : Nat) (op : AtomOp) (a : Access) : (s.atomAccess core op a).1.memWf := by
  unfold State.atomAccess
  split <;> simp [h]

@[simp] theorem State.memWf_atomAll (core : Nat) (op : AtomOp) (accs : List Access) : (s.atomAll core op accs).1.memWf := by
  induction accs generalizing s with
  | nil => exact h
  | cons a accs ih => exact ih (State.memWf_atomAccess h core op a)

@[simp] theorem State.memWf_fabricOps (core : Nat) (m : MemCmd) (kind : FabKind) (ext : Extend) (accs : List Access) (after : List Nat) :
    (s.fabricOps core m kind ext accs after).memWf := by
  simp [State.fabricOps, h]

@[simp] theorem State.memWf_storeAccs (core slot : Nat) (who : Who) (cid : Nat) (tag : Option Scope) (accs : List Access) :
    (s.storeAccs core slot who cid tag accs).memWf := by
  simp +contextual [State.storeAccs, h]

@[simp] theorem State.memWf_publishAccs (core : Nat) (own others : Bool) (accs : List Access) : (s.publishAccs core own others accs).1.memWf := by
  refine foldl_fst_memWf _ h fun p l hp => ?_
  have hd : (if own then p.1.drainLine core l.1 l.2 else p.1).memWf := by simp [hp]
  dsimp only
  split
  · exact State.memWf_publishLine hd core l.1 l.2
  · exact hd

@[simp] theorem State.memWf_hostAccs (core : Nat) (m : MemCmd) (accs : List Access) : (s.hostAccs core m accs).memWf := by simp [State.hostAccs, h]

@[simp] theorem State.memWf_fabricLs (core : Nat) (m : MemCmd) (kind : FabKind) (ext : Extend) (accs : List Access) :
    (s.fabricLs core m kind ext accs).memWf := by
  simp [State.fabricLs, h]

@[simp] theorem State.memWf_runLoad (core : Nat) (m : MemCmd) (ext : Extend) : (s.runLoad core m ext).memWf := by
  have hf : ((s.hostAccs core m (inSpace .host m.accs)).fabricLs core m .rd ext (inSpace .fabric m.accs)).memWf := by simp [h]
  unfold State.runLoad
  dsimp only
  split
  · rw [State.pushLoad_memWf]
    exact State.memWf_publishAccs hf _ _ _ _
  · simp [hf]

@[simp] theorem State.memWf_runStore (core : Nat) (m : MemCmd) : (s.runStore core m).memWf := by
  unfold State.runStore
  split <;> simp [h]

@[simp] theorem State.memWf_runAtom (core : Nat) (m : MemCmd) (op : AtomOp) (returns : Bool) : (s.runAtom core m op returns).memWf := by
  have ha := State.memWf_atomAll h core op (orderAccs s.tidOrder (inSpace .scratch m.accs))
  have hp := fun a b l => State.memWf_publishAccs (State.memWf_fabricLs (State.memWf_hostAccs ha core m a) core m (.amo op) .none b) core true true l
  unfold State.runAtom
  dsimp only
  split
  · rw [State.pushLoad_memWf]
    exact hp _ _ _
  · rw [State.pushStore_memWf]
    exact hp _ _ _

@[simp] theorem State.memWf_runPriv (core : Nat) (m : MemCmd) (store : Bool) : (s.runPriv core m store).memWf := by simp [State.runPriv, h]

@[simp] theorem State.memWf_runMem (core : Nat) (m : MemCmd) : (s.runMem core m).memWf := by
  unfold State.runMem
  split <;> simp [h]

@[simp] theorem State.memWf_runMemQ (core n : Nat) : (s.runMemQ core n).memWf := by
  induction n generalizing s with
  | zero => exact h
  | succ n ih =>
    unfold State.runMemQ
    split
    · exact h
    · split
      · exact ih (by simp [h])
      · exact h

@[simp] theorem State.memWf_giveMem (core : Nat) (m : MemCmd) : (s.giveMem core m).memWf := by simp [State.giveMem, h]

@[simp] theorem State.memWf_issueMem (c : Iss) (m : MemSpec) (ps : List Nat) (kind : MemKind) (acq rel : Option Scope) (accs : List Access) :
    (s.issueMem c m ps kind acq rel accs).memWf := by
  unfold State.issueMem
  dsimp only
  split <;> simp [h]

/-! ### Memory instructions -/

@[simp] theorem State.memWf_releaseStart (c : Iss) (sc : Scope) : (s.releaseStart c sc).memWf := by simp [State.releaseStart, h]

theorem fenceWait_memWf (c : Iss) {start after : State → State} (done : State → Nat → Bool) (hs : ∀ t, t.memWf → (start t).memWf)
    (ha : ∀ t, t.memWf → (after t).memWf) : (fenceWait s c start done after).memWf := by
  have ht : (start s.takeId).memWf := hs _ (by simp [h])
  unfold fenceWait
  split
  · simp [h, ha]
  · simp [ht, ha]

/-! ### Events of the memory system -/

@[simp] theorem State.memWf_resolveGuard (core slot p : Nat) : (s.resolveGuard core slot p).memWf := by simp [State.resolveGuard, h]

@[simp] theorem State.memWf_ackOwners (core : Nat) (owners : List (Nat × Who × Nat)) : (s.ackOwners core owners).memWf := by simp [State.ackOwners, h]

@[simp] theorem State.memWf_eccRecord (core slot addr : Nat) : (s.eccRecord core slot addr).memWf := by
  unfold State.eccRecord
  split <;> simp [h]

@[simp] theorem State.memWf_entryEcc (core : Nat) (e : WcbEntry) : (s.entryEcc core e).memWf := by
  unfold State.entryEcc
  split <;> simp [h]

@[simp] theorem State.memWf_performEntry (core : Nat) (e : WcbEntry) : (s.performEntry core e).memWf := by simp [State.performEntry, h]

@[simp] theorem State.memWf_performDrains (core n : Nat) : (s.performDrains core n).memWf := by
  induction n generalizing s with
  | zero => exact h
  | succ n ih =>
    unfold State.performDrains
    split
    · exact h
    · exact ih (by simp [h])

@[simp] theorem State.memWf_remoteRead (r : Remote) (n : Nat) : (s.remoteRead r n).1.memWf := by
  unfold State.remoteRead
  dsimp only
  split <;> simp [h]

@[simp] theorem State.memWf_remoteLand (r : Remote) : (s.remoteLand r).memWf := by
  unfold State.remoteLand
  split <;> simp [h]

/-! ### The integer and float units -/

@[simp] theorem aluState_memWf (sp : AluSpec) (f : AluIn → AluOut) (c : Iss) : (aluState sp f s c).memWf := by
  unfold aluState
  split <;> simp [h]

/-! ### Control transfers -/

@[simp] theorem State.memWf_branch (c : Iss) (moves : Bool) (key : Nat → Nat) (pcOf : Nat → DWord) (es : List Eff) :
    (s.branch c moves key pcOf es).memWf := by
  unfold State.branch
  split <;> simp [h]

/-! ### Copies -/

@[simp] theorem State.memWf_askRecord (c : Iss) (t : Target) (size : Nat) : (s.askRecord c t size).memWf := by simp [State.askRecord, h]

@[simp] theorem State.memWf_issueCpa (c : Iss) (g u : Bool) (bar : Option Nat) (ps : List Nat) (accs : List Access) :
    (s.issueCpa c g u bar ps accs).memWf := by
  have ht : ((s.takeId.takeSlots c ps).opIssue c.core c.slot .copies).memWf := by simp [h]
  unfold State.issueCpa
  refine State.memWf_giveMem ?_ _ _
  split
  · exact ht
  · dsimp only
    split
    · exact ht
    · exact foldl_fst_memWf _ ht fun p as hp => by simp [hp]

@[simp] theorem State.memWf_copyWrite (core gen i : Nat) (dst : CopyDst) (bs : List Byte) : (s.copyWrite core gen i dst bs).1.memWf := by
  unfold State.copyWrite
  (repeat' split) <;> simp [h]

@[simp] theorem State.memWf_copyWrites (core gen : Nat) (ws : List (CopyDst × List Byte)) : (s.copyWrites core gen ws).1.memWf :=
  foldl_fst_memWf _ h fun _ _ hp => State.memWf_copyWrite hp _ _ _ _ _

@[simp] theorem State.memWf_askCopy (core : Nat) (q : CopyCmd) (far : List (Nat × Nat × Nat)) : (s.askCopy core q far).memWf := by simp [State.askCopy, h]

/-! ### The policy engines -/

@[simp] theorem State.memWf_overrun (plot : Nat) (c : PolicyCall) (r : Running) : (s.overrun plot c r).memWf := by
  unfold State.overrun
  dsimp only
  split <;> simp [h]

@[simp] theorem State.memWf_runOp (plot : Nat) (c : PolicyCall) (r : Running) : (s.runOp plot c r).memWf := by
  unfold State.runOp
  dsimp only
  split <;> simp [h]

/-! ### Placement -/

@[simp] theorem State.memWf_packetFault (qnum : Nat) (q : Queue) (tag cause inner addr : Nat) : (s.packetFault qnum q tag cause inner addr).memWf := by
  simp [State.packetFault, h]

@[simp] theorem State.memWf_enterPlot (plot : Nat) (g : Grid) : (s.enterPlot plot g).memWf := by
  refine State.memWf_modPlot plot _ h ?_
  dsimp only
  split
  · exact State.memWf_plot h plot
  · rfl

@[simp] theorem State.memWf_placeWg (core gid index : Nat) (g : Grid) (f : Fit) (slice : Nat) : (s.placeWg core gid index g f slice).memWf := by
  simp [State.placeWg, h]

/-! ### Launches and groups -/

theorem releaseThen_memWf (c : Iss) (sc : Scope) {k : State → State} (hk : ∀ t, t.memWf → (k t).memWf) : (releaseThen s c sc k).memWf := by
  unfold releaseThen
  split <;> simp [h, hk]

theorem State.memWf_readLaunch_ok {t : State} {c : Iss} {va : Nat} {fabric : Bool} {bs : List Byte} {k : Kernel}
    (ht : s.readLaunch c va fabric = .ok (t, bs, k)) : t.memWf := by
  unfold State.readLaunch at ht
  split at ht
  · cases ht
  next hr =>
    dsimp only at ht
    split at ht <;> cases ht
    simp [memWf_fst hr, h]

theorem State.memWf_readLaunch_error {t : State} {c : Iss} {va : Nat} {fabric : Bool} (ht : s.readLaunch c va fabric = .error t) : t.memWf := by
  unfold State.readLaunch at ht
  split at ht
  next hr =>
    cases ht
    simp [memWf_fst hr, h]
  next hr =>
    dsimp only at ht
    split at ht <;> cases ht
    simp [memWf_fst hr, h]

theorem State.memWf_decideLaunch_ok {t : State} {c : Iss} {va : Nat} {g : Grid} {d : Option Nat} (ht : s.decideLaunch c va = .ok (t, g, d)) : t.memWf := by
  unfold State.decideLaunch at ht
  cases hr : s.readLaunch c va false with
  | error e => rw [hr] at ht; cases ht
  | ok r =>
    have h1 : r.1.memWf := State.memWf_readLaunch_ok h hr
    rw [hr] at ht
    simp only [Except.bind] at ht
    split at ht <;> cases ht
    simp [memWf_fst ‹_ = (_, _)›, h1]

theorem State.memWf_decideLaunch_error {t : State} {c : Iss} {va : Nat} (ht : s.decideLaunch c va = .error t) : t.memWf := by
  unfold State.decideLaunch at ht
  cases hr : s.readLaunch c va false with
  | error e => rw [hr] at ht; cases ht; exact State.memWf_readLaunch_error h hr
  | ok r =>
    have h1 : r.1.memWf := State.memWf_readLaunch_ok h hr
    rw [hr] at ht
    simp only [Except.bind] at ht
    split at ht <;> cases ht
    simp [memWf_fst ‹_ = (_, _)›, h1]

@[simp] theorem State.memWf_beginAccept (c : Iss) (x : Opnd) (p : Nat) (g : Grid) (prio : Nat) : (s.beginAccept c x p g prio).memWf := by
  simp [State.beginAccept, h]

@[simp] theorem State.memWf_decidedLaunch (c : Iss) (x : Opnd) (p va : Nat) (g : Grid) (a : Option Nat) : (s.decidedLaunch c x p va g a).memWf := by
  unfold State.decidedLaunch
  split <;> simp [h]

theorem launchTurn_memWf (busy : State → Iss → Bool) {k : State → Iss → State} (c : Iss) (hk : ∀ t c, t.memWf → (k t c).memWf) :
    (launchTurn busy k s c).memWf := by
  simp [launchTurn, h, hk]

@[simp] theorem State.memWf_beginSend (c : Iss) (x : Opnd) (bytes : List Byte) (tw : Nat) : (s.beginSend c x bytes tw).memWf := by simp [State.beginSend, h]

@[simp] theorem State.memWf_issueFab (c : Iss) (m : MemSpec) (ps : List Nat) (kind : FabKind) (accs : List Access) : (s.issueFab c m ps kind accs).memWf := by
  unfold State.issueFab
  (repeat' split) <;> simp [h]

/-! ### Fabric frames and timers -/

@[simp] theorem State.memWf_publishOutside (part : Option Nat) (line : Nat) : (s.publishOutside part line).memWf := by
  simp +contextual [State.publishOutside, h]

@[simp] theorem State.memWf_publishRange (part : Option Nat) (pa n : Nat) : (s.publishRange part pa n).memWf := by simp +contextual [State.publishRange, h]

@[simp] theorem State.memWf_takeAck (dev part ack : Nat) : (s.takeAck dev part ack).memWf := by simp [State.takeAck, h]

theorem State.memWf_throughWindow (f : Frame) (kind : AccessKind) (publish : Bool) (n : Nat) {k : State → WinEntry → Nat → State}
    (hk : ∀ t e pa, t.memWf → (k t e pa).memWf) : (s.throughWindow f kind publish n k).memWf := by
  unfold State.throughWindow
  split
  · simp [h]
  · exact hk _ _ _ (by simp [h])

@[simp] theorem State.memWf_commitNotice (l : FabLaunch) (dev : Nat) : (s.commitNotice l dev).memWf := by simp [State.commitNotice, h]

@[simp] theorem State.memWf_failStream (dev part : Nat) : (s.failStream dev part).memWf := by
  unfold State.failStream
  dsimp only
  refine foldl_memWf _ (foldl_memWf _ (by simp [h]) fun t o ht => ?_) fun t l ht => ?_
  · exact State.memWf_fabFail ht o
  · simp [ht]

/-! ### The matrix units -/

@[simp] theorem State.memWf_matBegin (core : Nat) (q : MatCmd) : (s.matBegin core q).memWf := by simp [State.matBegin, h]

/-! ### Fetch and issue -/

@[simp] theorem State.memWf_parkFetch (c : Iss) : (s.parkFetch c).memWf := by
  unfold State.parkFetch
  dsimp only
  split <;> simp [h]

/-! ### The recruiter -/

@[simp] theorem State.memWf_joinFold (c : Iss) (p : Pricking) (op : RedOp) (x : Opnd) (pa : Nat) : (s.joinFold c p op x pa).memWf := by
  unfold State.joinFold
  split <;> simp [h]

/-! ### Pre-emption -/

@[simp] theorem State.memWf_writeImage (id core ctx page pages : Nat) (keys : List Nat) (x : Context) (w : Workgroup) (g : Gathered) (why : Why) :
    (s.writeImage id core ctx page pages keys x w g why).memWf := by
  unfold State.writeImage
  dsimp only
  (repeat' split) <;> simp [h]

@[simp] theorem State.memWf_saveRelease (core : Nat) (w : Workgroup) : (s.saveRelease core w).memWf :=
  State.memWf_performDrains (State.memWf_drainAll (by simp [h]) core) core _

@[simp] theorem State.memWf_loadWg (id core : Nat) (w : Workgroup) (g : Grid) (x : Context) (sv : Saved) (f : Fit) (slice : Nat) (body : List Byte) :
    (s.loadWg id core w g x sv f slice body).memWf := by
  have hp : ((((s.enterCore core).recarve core x.carve).enterPlot (plotOf core) g).allocScratch core id g f.base).memWf := by simp [h]
  unfold State.loadWg
  refine foldl_memWf _ (foldl_memWf _ ?_ fun t e ht => ?_) fun t k ht => ?_
  · rw [State.acquire_memWf, State.modWg_memWf]
    refine foldl_memWf _ hp fun t e ht => ?_
    split <;> simp [ht]
  · simp [ht]
  · simp [ht]

@[simp] theorem State.memWf_failRestore (id : Nat) (w : Workgroup) (g : Grid) (cause : Cause) (addr : Nat) : (s.failRestore id w g cause addr).memWf := by
  simp [State.failRestore, h]

/-! ### Calls of the policy engines -/

@[simp] theorem State.memWf_applyPick (core slice : Nat) (p : Pick) : (s.applyPick core slice p).memWf := by
  unfold State.applyPick
  (repeat' split) <;> simp [h]

@[simp] theorem State.memWf_pickNow (core ctx slice : Nat) (e : Nat × Pick) : (s.pickNow core ctx slice e).memWf := by simp [State.pickNow, h]

@[simp] theorem State.memWf_pickRobin (part core ctx slice : Nat) : (s.pickRobin part core ctx slice).memWf := by
  unfold State.pickRobin
  dsimp only
  (repeat' split) <;> simp [h]

@[simp] theorem State.memWf_endPick (part core ctx : Nat) (named : Bool) (entry : Option (Nat × Pick)) (slice : Nat) :
    (s.endPick part core ctx named entry slice).memWf := by
  unfold State.endPick
  dsimp only
  split <;> simp [h]

@[simp] theorem State.memWf_endEnq (g : Grid) (asker : Asker) (d : Option Nat) : (s.endEnq g asker d).memWf := by
  unfold State.endEnq
  (repeat' split) <;> simp [h]

@[simp] theorem State.memWf_endCall (plot : Nat) (c : PolicyCall) : (s.endCall plot c).memWf := by
  unfold State.endCall
  split <;> simp [h]

@[simp] theorem State.memWf_startCall (plot part : Nat) (k : CallKind) : (s.startCall plot part k).memWf := by
  unfold State.startCall
  split
  · simp [memWf_fst ‹_ = (_, _)›, h]
  · exact State.memWf_endCall (by simp [memWf_fst ‹_ = (_, _)›, h]) _ _

theorem State.memWf_callStep {t : State} {plot : Nat} (ht : s.callStep plot = some t) : t.memWf := by
  unfold State.callStep at ht
  (repeat' split at ht) <;> cases ht <;> simp [h]

@[simp] theorem State.memWf_tick (plot : Nat) : (s.tick plot).memWf := by
  unfold State.tick
  dsimp only
  split <;> simp [h]

/-! ### The attestation chain and layouts -/

@[simp] theorem State.memWf_clearCore (core : Nat) : (s.clearCore core).memWf := by
  unfold State.clearCore
  exact State.memWf_performDrains (State.memWf_drainAll (by simp [h]) core) core _

@[simp] theorem State.memWf_clearPlot (plot : Nat) : (s.clearPlot plot).memWf := by
  refine State.memWf_modPlot plot _ ?_ rfl
  split <;> simp +contextual [h]

@[simp] theorem State.memWf_afterZero (g : Nat) : (s.zeroGranule g).memWf := State.memWf_zeroGranule g h

@[simp] theorem State.memWf_updateNotices : (s.updateNotices).memWf := by simp +contextual [State.updateNotices, h]

/-! ### Packets -/

@[simp] theorem State.memWf_launchStep (qnum : Nat) (q : Queue) (x : Context) (p : Packet) : (s.launchStep qnum q x p).memWf := by
  unfold State.launchStep
  split
  · simp [h]
  · split
    · simp [h]
    · dsimp only
      split
      · simp [h]
      · split <;> simp [memWf_fst ‹_ = (_, _)›, h]

@[simp] theorem State.memWf_consume (part word qnum : Nat) (dest : Option (Space × Nat × Nat)) : (s.consume part word qnum dest).memWf := by
  unfold State.consume
  split <;> simp [h]

@[simp] theorem State.memWf_waitStep (qnum : Nat) (q : Queue) (x : Context) (p : Packet) : (s.waitStep qnum q x p).memWf := by
  unfold State.waitStep
  (repeat' split) <;> simp [h]

@[simp] theorem State.memWf_signalStep (qnum : Nat) (q : Queue) (x : Context) (p : Packet) : (s.signalStep qnum q x p).memWf := by simp [State.signalStep, h]

@[simp] theorem State.memWf_policyStep (qnum : Nat) (q : Queue) (x : Context) (p : Packet) : (s.policyStep qnum q x p).memWf := by
  unfold State.policyStep
  dsimp only
  (repeat' split) <;> simp [h]

/-! ### The weight store -/

@[simp] theorem State.memWf_streamNotice (core : Nat) (q : StreamCmd) (key : Nat) : (s.streamNotice core q key).memWf := by
  unfold State.streamNotice
  dsimp only
  split <;> simp [h]

@[simp] theorem State.memWf_streamWrite (core : Nat) (q : StreamCmd) : (s.streamWrite core q).memWf := by
  unfold State.streamWrite
  split
  · exact h
  · split
    · exact h
    · rw [State.meterAt_memWf]
      exact foldl_memWf _ (by simp [h]) fun t e ht => State.memWf_streamNotice ht _ _ _

/-! ### Partition configuration -/

theorem State.memWf_withArg (qnum : Nat) (q : Queue) (p : Packet) (n : Nat) {k : State → Nat → State} (hk : ∀ t v, t.memWf → (k t v).memWf) :
    (s.withArg qnum q p n k).memWf := by
  unfold State.withArg
  split
  · simp [h]
  · exact hk _ _ (by simp [h])

@[simp] theorem State.memWf_cfgFault (qnum : Nat) (q : Queue) (p : Packet) (cause : Nat) : (s.cfgFault qnum q p cause).memWf := by simp [State.cfgFault, h]

@[simp] theorem State.memWf_layoutBegin (qnum part : Nat) (b : LayoutBlock) : (s.layoutBegin qnum part b).memWf := by simp [State.layoutBegin, h]

theorem State.memWf_layoutStart {t : State} {qnum : Nat} {q : Queue} {p : Packet} (ht : s.layoutStart qnum q p = some t) : t.memWf := by
  unfold State.layoutStart at ht
  (repeat' split at ht) <;> cases ht
  · simp [h]
  · refine State.memWf_withArg h _ _ _ _ fun t v ht => ?_
    simp [ht]

@[simp] theorem State.memWf_flushGranules (gs : Nat) : (s.flushGranules gs).memWf := by
  refine foldl_memWf _ h fun t c ht => ?_
  simp [ht]

@[simp] theorem State.memWf_layoutGoOn (l : LayoutStep) : (s.layoutGoOn l).memWf := by simp +contextual [State.layoutGoOn, h]

@[simp] theorem State.memWf_freeCtx (ctx : Nat) (x : Context) : (s.freeCtx ctx x).memWf := by
  simp [State.freeCtx, h]

@[simp] theorem State.memWf_destroyCtx (ctx : Nat) (x : Context) : (s.destroyCtx ctx x).memWf := by simp [State.destroyCtx, h]

@[simp] theorem State.memWf_setDomain (dev : Nat) (table : NatMap (Nat × Nat)) : (s.setDomain dev table).memWf := by
  unfold State.setDomain
  dsimp only
  split
  · simp [h]
  · refine State.memWf_sendFab (foldl_memWf _ (by simp [h]) fun t k ht => ?_)
    simp [ht]

@[simp] theorem State.memWf_tierOut (g base : Nat) : (s.tierOut g base).memWf := by
  have hf := Memory.wf_filter (fun e => decide (e.1 < base) || decide (base + 2 ^ 30 ≤ e.1)) h.2.1
  exact foldl_memWf _ ⟨h.1, hf, h.2.2⟩ fun t e ht => ⟨ht.1, Memory.wf_writeBytes _ _ ht.2.1, ht.2.2⟩

@[simp] theorem State.memWf_lineIn (line : Nat) (bs : List Byte) : (s.lineIn line bs).memWf := by
  unfold State.lineIn
  split <;> exact ⟨Memory.wf_writeBytes _ _ h.1, h.2⟩

@[simp] theorem State.memWf_tierIn (g base : Nat) : (s.tierIn g base).memWf := by simp +contextual [State.tierIn, h]

@[simp] theorem State.memWf_tierCopy (toHbm : Bool) (base : Nat) (gs : List Nat) : (s.tierCopy toHbm base gs).memWf := by
  induction gs generalizing s base with
  | nil => exact h
  | cons g gs ih => exact ih (by simp [h]) _

@[simp] theorem State.memWf_chkptStart (qnum : Nat) (q : Queue) (p : Packet) : (s.chkptStart qnum q p).memWf := by
  unfold State.chkptStart
  split
  · simp [h]
  · refine State.memWf_withArg h _ _ _ _ fun t v ht => ?_
    simp [ht]

@[simp] theorem State.memWf_chkptGoOn (c : ChkptStep) (hostOk : Bool) : (s.chkptGoOn c hostOk).memWf := by
  unfold State.chkptGoOn
  dsimp only
  split
  · simp [h]
  · generalize hd : (mkeys s.cores).foldl _ s = t
    have ht : t.memWf := by
      rw [← hd]
      refine foldl_memWf _ h fun t k ht => ?_
      split <;> simp [ht]
    split
    · simp [ht]
    · split <;> simp [ht]

/-! ### Power and clock -/

@[simp] theorem State.memWf_lasting : s.lasting.memWf := ⟨rfl, h.2.1, fun _ he => nomatch he⟩

/-! ### The schedule -/

@[simp] theorem State.memWf_linkLoad (core slot n : Nat) : (s.linkLoad core slot n).memWf := by
  unfold State.linkLoad
  split <;> simp [h]

@[simp] theorem State.memWf_linkRed (core n : Nat) : (s.linkRed core n).memWf := by
  unfold State.linkRed
  (repeat' split) <;> simp [h]

@[simp] theorem State.memWf_linkCopy (core n : Nat) : (s.linkCopy core n).memWf := by
  unfold State.linkCopy
  split <;> simp [h]

@[simp] theorem State.memWf_linkStream (core n : Nat) : (s.linkStream core n).memWf := by
  unfold State.linkStream
  (repeat' split) <;> simp [h]

@[simp] theorem State.memWf_passTime (ns : Nat) : (s.passTime ns).memWf := by
  unfold State.passTime
  split <;> simp [h]

end

end Sys2Proof.Machine

/-! SUPPORT. What every instruction and machine event makes of a canonical state is canonical. -/

namespace Sys2Proof.Machine

section
variable {s : State} (h : s.memWf)
include h

/-! ### Memory instructions -/

@[simp] theorem globalAccess_memWf (m : MemSpec) (a : Opnd) (off : Int) (n : Nat) (kind : MemKind) (acc : AccessKind) (acq rel : Option Scope)
    (dst data : Option (Opnd × Nat)) :
    EndsMemWf (globalAccess m s a off n kind acc acq rel dst data) :=
  withIss_memWf fun c => memPrologue_memWf h _ c fun _ => memWf_of_ite (State.stall_memWf.mpr h) <|
    State.memWf_settle (by simp [h]) c _ fun _ ht => State.memWf_issueMem ht _ _ _ _ _ _ _

@[simp] theorem scratchAccess_memWf (m : MemSpec) (n : Nat) (kind : MemKind) (reads : Bool) (target : Iss → Nat → Option (Except MemCause ScrTarget))
    (glob : Iss → (Nat × List Nat) → Except MemCause (List Access)) (vas : Iss → List Nat → List Nat) (data : Iss → Nat → List Byte) :
    EndsMemWf (scratchAccess m s n kind reads target glob vas data) := by
  refine withIss_memWf fun c => memPrologue_memWf h _ c fun ps => memWf_of_ite (by simp [h]) <| memWf_of_ite (by simp [h]) <|
    memWf_of_ite (by simp [h]) ?_
  cases c.resumed.map (fun n => n / 2) with
  | none => exact State.memWf_settle (by simp [h]) c _ fun t ht => State.memWf_issueMem ht _ _ _ _ _ _ _
  | some id =>
    refine memWf_of_ite ?_ ((State.releaseRemotes_memWf id 0 [] []).mpr ?_) <;>
      exact State.memWf_settle (by simp [h]) c _ fun t ht => State.memWf_issueMem (by simp [ht]) _ _ _ _ _ _ _

@[simp] theorem scrAccess_memWf (m : MemSpec) (w : MWidth) (f : MForm) (kind : MemKind) (load : Bool) : EndsMemWf (scrAccess m s w f kind load) := by
  simp [scrAccess, h]

@[simp] theorem privAccess_memWf (m : MemSpec) (w : MWidth) (f : MForm) (store : Bool) : EndsMemWf (privAccess m s w f store) :=
  withIss_memWf fun c => memPrologue_memWf h _ c fun _ => memWf_of_ite (State.stall_memWf.mpr h) <|
    State.memWf_settle h c _ fun _ ht => State.memWf_issueMem ht _ _ _ _ _ _ _

@[simp] theorem atomAccess_memWf (op : AtomOp) (a b : Opnd) (x : Option Opnd) (g u : Bool) : EndsMemWf (atomAccess s op a b x g u) := by simp [atomAccess, h]

@[simp] theorem execFence_memWf (sc : Scope) : EndsMemWf (execFence sc s) :=
  withIss_memWf fun c => fenceWait_memWf h c _ (fun t ht => by simp [ht]) fun t ht => by simp [ht]

@[simp] theorem execFenceX_memWf (pa pb : Path) (sc : Scope) : EndsMemWf (execFenceX pa pb sc s) := by
  refine withIss_memWf fun c => ?_
  split
  · simp [h]
  · refine fenceWait_memWf h c _ (fun t ht => by simp [ht]) fun t ht => ?_
    split <;> simp [ht]

@[simp] theorem execCinv_memWf : EndsMemWf (execCinv s) :=
  withIss_memWf fun c => by simp [h]

@[simp] theorem execCinvAddr_memWf (a : Opnd) : EndsMemWf (execCinvAddr a s) := by
  refine withIss_memWf fun c => memPrologue_memWf h _ c fun ps => ?_
  refine (State.finish_memWf c []).mpr (foldl_memWf _ (by simp [h]) fun t va ht => ?_)
  split <;> simp [ht]

@[simp] theorem execCwbWcb_memWf : EndsMemWf (execCwbWcb s) := by
  refine withIss_memWf fun c => ?_
  split
  · simp [h]
  · exact fenceWait_memWf h c _ (fun t ht => by simp [ht]) fun t ht => ht

@[simp] theorem execCwbPriv_memWf : EndsMemWf (execCwbPriv s) := by
  refine withIss_memWf fun c => ?_
  (repeat' split) <;> simp [h]

@[simp] theorem execPrefL2_memWf (a : Opnd) (g u : Bool) : EndsMemWf (execPrefL2 a g u s) := by
  refine withIss_memWf fun c => memPrologue_memWf h _ c fun ps => ?_
  simp [h]

@[simp] theorem execPrefL1_memWf (a : Opnd) (g u : Bool) : EndsMemWf (execPrefL1 a g u s) := by
  refine withIss_memWf fun c => memPrologue_memWf h _ c fun ps => ?_
  refine (State.finish_memWf c []).mpr (foldl_memWf _ (by simp [h]) fun t va ht => ?_)
  split <;> simp [ht]

@[simp] theorem execMarm_memWf (a : Opnd) (k : Fin 4) : EndsMemWf (execMarm a k s) := by
  refine withIss_memWf fun c => memWf_of_ite (by simp [h]) <| memPrologue_memWf h _ c fun _ => ?_
  split
  · simp [h]
  · dsimp only
    split <;> simp [h]

/-! ### Events of the memory system -/

@[simp] theorem execGuardSlotResolve_memWf (core slot p : Nat) : EndsMemWf (execGuardSlotResolve core slot p s) := by simp [execGuardSlotResolve, h]

@[simp] theorem execLoadDataReturn_memWf (core slot n : Nat) : EndsMemWf (execLoadDataReturn core slot n s) := by
  unfold execLoadDataReturn
  dsimp only
  (repeat' split) <;> simp [h]

@[simp] theorem execWritePerformed_memWf (core n : Nat) : EndsMemWf (execWritePerformed core n s) := by
  unfold execWritePerformed
  dsimp only
  (repeat' split) <;> simp [h]

@[simp] theorem execWcbAgeDrain_memWf (core n : Nat) : EndsMemWf (execWcbAgeDrain core n s) := by
  unfold execWcbAgeDrain
  split <;> simp [h]

@[simp] theorem execPageWalk_memWf (core ctx va : Nat) : EndsMemWf (execPageWalk core ctx va s) := by simp [execPageWalk, h]

@[simp] theorem execPageReplay_memWf (core slot sp : Nat) : EndsMemWf (execPageReplay core slot sp s) := by
  unfold execPageReplay
  dsimp only
  (repeat' split) <;> simp [h]

@[simp] theorem execRemoteScratchAccess_memWf (n : Nat) : EndsMemWf (execRemoteScratchAccess n s) := by
  unfold execRemoteScratchAccess
  split
  · simp [h]
  · split
    · refine (endsMemWf_next _).mpr ?_
      split <;> simp [h]
    · refine endsMemWf_of_ite ((endsMemWf_next _).mpr ?_) (by simp [h])
      refine foldl_memWf _ (State.memWf_remoteLand (memWf_of_ite ?_ ?_) _) fun t r ht => State.memWf_remoteLand ht r <;> simp [h]

@[simp] theorem execAllocationRelease_memWf (core n : Nat) : EndsMemWf (execAllocationRelease core n s) := by
  unfold execAllocationRelease
  (repeat' split) <;> simp [h]

@[simp] theorem execCarveWayMove_memWf (core : Nat) : EndsMemWf (execCarveWayMove core s) :=
  fun _ ht => (execCarveWayMove_next ht).mpr h

@[simp] theorem execHostCompletion_memWf (n : Nat) (ok : Bool) : EndsMemWf (execHostCompletion n ok s) := by
  unfold execHostCompletion
  (repeat' split) <;> simp [h]

/-! ### The integer and float units -/

@[simp] theorem aluStep_memWf (sp : AluSpec) (f : AluIn → AluOut) : EndsMemWf (aluStep sp f s) :=
  withIss_memWf fun c => by simp [h]

/-! ### Control transfers -/

@[simp] theorem execReconv_memWf : EndsMemWf (execReconv s) := by
  refine withIss_memWf fun c => ?_
  (repeat' split) <;> simp [h]

@[simp] theorem execSplitRelease_memWf (core slot : Nat) : EndsMemWf (execSplitRelease core slot s) := by
  unfold execSplitRelease
  split <;> simp [h]

/-! ### The sequencer -/

theorem seqOps_memWf {inHelper : Bool} {tids : Iss → List Nat} {srcs : List (Opnd × Nat)} {dst : Option (Opnd × Nat)} {k : Iss → State}
    (hk : ∀ c, (k c).memWf) : EndsMemWf (seqOps s inHelper tids srcs dst k) := by
  refine withIss_memWf fun c => ?_
  (repeat' split) <;> simp [h, hk]

@[simp] theorem execBrp_memWf (f : BForm) : EndsMemWf (execBrp f s) :=
  withIss_memWf fun c => by simp [h]

@[simp] theorem execBr_memWf (off : BitVec 17) : EndsMemWf (execBr off s) :=
  withIss_memWf fun c => by simp [h]

@[simp] theorem execCall_memWf (f : BForm) : EndsMemWf (execCall f s) :=
  seqOps_memWf h fun c => by simp [h]

@[simp] theorem indirect_memWf (a : Opnd) (link : Bool) : EndsMemWf (indirect a link s) := by
  refine seqOps_memWf h fun c => ?_
  dsimp only
  (repeat' split) <;> simp [h]

@[simp] theorem execNop_memWf : EndsMemWf (execNop s) :=
  withIss_memWf fun c => by simp [h]

@[simp] theorem execYield_memWf : EndsMemWf (execYield s) :=
  withIss_memWf fun c => by simp [h]

@[simp] theorem execBkpt_memWf (_code : BitVec 9) : EndsMemWf (execBkpt _code s) :=
  withIss_memWf fun c => by simp [h]

@[simp] theorem execTrap_memWf (_code : BitVec 9) (g : Bool) : EndsMemWf (execTrap _code g s) :=
  withIss_memWf fun c => by simp [h]

@[simp] theorem execRft_memWf : EndsMemWf (execRft s) := by
  refine withIss_memWf fun c => ?_
  (repeat' split) <;> simp [h]

@[simp] theorem setGuard_memWf (p : Fin 64) (inv : Bool) : EndsMemWf (setGuard p inv s) := by
  refine withIss_memWf fun c => ?_
  (repeat' split) <;> simp [h]

@[simp] theorem execElect_memWf (p : Fin 64) (g : Bool) : EndsMemWf (execElect p g s) :=
  withIss_memWf fun c => by simp [h]

@[simp] theorem execMwait_memWf (d : Opnd) (t : BitVec 9) : EndsMemWf (execMwait d t s) :=
  seqOps_memWf h fun c => by simp [h]

@[simp] theorem execMwaitTimeout_memWf (core slot sp : Nat) : EndsMemWf (execMwaitTimeout core slot sp s) := by
  unfold execMwaitTimeout
  (repeat' split) <;> simp [h]

@[simp] theorem execFenceb_memWf : EndsMemWf (execFenceb s) :=
  withIss_memWf fun c => by simp [h]

@[simp] theorem execWaitb_memWf (a : Opnd) (n : BitVec 9) : EndsMemWf (execWaitb a n s) :=
  seqOps_memWf h fun c => by simp [h]

@[simp] theorem execWbase_memWf (a : Opnd) (n : BitVec 9) : EndsMemWf (execWbase a n s) :=
  seqOps_memWf h fun c => by simp [h]

@[simp] theorem execIxset_memWf (a : Opnd) (k : Fin 4) (g u : Bool) : EndsMemWf (execIxset a k g u s) :=
  seqOps_memWf h fun c => by simp [h]

@[simp] theorem execIxadd_memWf (a : Opnd) (k : Fin 4) (m : BitVec 7) (g u : Bool) : EndsMemWf (execIxadd a k m g u s) :=
  seqOps_memWf h fun c => by simp [h]

@[simp] theorem execFmt_memWf (a : Opnd) (e : Elem) (r : Rnd) (t : Sat) : EndsMemWf (execFmt a e r t s) :=
  seqOps_memWf h fun c => by simp [h]

@[simp] theorem execRdsr_memWf (d : Opnd) (r : SpecReg) (g u : Bool) : EndsMemWf (execRdsr d r g u s) := by
  unfold execRdsr
  extract_lets n
  exact seqOps_memWf h fun c => memWf_of_ite (by simp [h]) (by simp [h])

@[simp] theorem execWrsr_memWf (a : Opnd) (r : SpecReg) (g u : Bool) : EndsMemWf (execWrsr a r g u s) := by
  unfold execWrsr
  extract_lets n perThread
  refine seqOps_memWf h fun c => ?_
  dsimp only
  split
  · split <;> simp [h]
  · exact memWf_of_ite (by simp [h]) (by simp [h])
  · refine memWf_of_ite (by simp [h]) ?_
    split <;> simp [h]
  · refine memWf_of_ite (by simp [h]) ?_
    split <;> simp [h]
  · simp [h]

@[simp] theorem execClassHint_memWf (cl : TimingClass) (n : Fin 8) : EndsMemWf (execClassHint cl n s) :=
  withIss_memWf fun c => by simp [h]

@[simp] theorem execSclr_memWf : EndsMemWf (execSclr s) :=
  withIss_memWf fun c => by simp [h]

@[simp] theorem plog_memWf (pd : Nat) (srcs : List Nat) (g u : Bool) (fn : (Nat → Bool) → Bool) : EndsMemWf (plog pd srcs g u fn s) :=
  withIss_memWf fun c => by simp [h]

@[simp] theorem execWaitc_memWf (cps : BitVec 5) (lds sts : BitVec 6) (tls : BitVec 4) : EndsMemWf (execWaitc cps lds sts tls s) :=
  withIss_memWf fun c => by simp [h]

@[simp] theorem execUnusedEncoding_memWf (_w : Word) : EndsMemWf (execUnusedEncoding _w s) :=
  withIss_memWf fun c => by simp [h]

/-! ### Barriers -/

@[simp] theorem execBari_memWf (a : Opnd) (k : Fin 16) : EndsMemWf (execBari a k s) :=
  seqOps_memWf h fun c => by simp [h]

@[simp] theorem execBara_memWf (k : Fin 16) (g : Bool) : EndsMemWf (execBara k g s) :=
  seqOps_memWf h fun c => by simp [h]

@[simp] theorem execBarw_memWf (k : Fin 16) (g : Bool) : EndsMemWf (execBarw k g s) := by
  refine seqOps_memWf h fun c => ?_
  dsimp only
  split
  · simp [h]
  · simp [h]
  · simp [h]
  · refine memWf_of_ite (by simp [h]) <| memWf_of_ite (by simp [h]) <| memWf_of_ite (by simp [h]) <| memWf_of_ite ?_ (by simp [h])
    simp [h]

@[simp] theorem execBarc_memWf (a : Opnd) (k : Fin 16) : EndsMemWf (execBarc a k s) :=
  seqOps_memWf h fun c => by simp [h]

@[simp] theorem execBarq_memWf (d : Opnd) (k : Fin 16) (g : Bool) : EndsMemWf (execBarq d k g s) :=
  seqOps_memWf h fun c => by simp [h]

@[simp] theorem execBarx_memWf (k : Fin 16) : EndsMemWf (execBarx k s) :=
  seqOps_memWf h fun c => by simp [h]

/-! ### Exchanges -/

@[simp] theorem exchStep_memWf (g : Bool) (checks : Iss → Checks) (reads : Iss → List (Nat × Opnd × Nat)) (bad : Iss → Bool) (es : Iss → List Eff)
    (preds : List Nat) :
    EndsMemWf (exchStep g checks reads bad es preds s) := by
  refine withIss_memWf fun c => ?_
  (repeat' split) <;> simp [h]

@[simp] theorem shuffle_memWf (d a : Opnd) (own : List (Opnd × Nat)) (hold : Hold) (g u : Bool) (srcOf : Iss → Nat → Option Nat) :
    EndsMemWf (shuffle d a own hold g u srcOf s) := by
  unfold shuffle
  split <;> simp [h]

/-! ### Copies -/

@[simp] theorem copyCmd_memWf (f : CopyForm) (cast : Bool) (verdict : State → Iss → Layout → List Int → Nat → Except CopyFail CopyWork) :
    EndsMemWf (copyCmd f cast verdict s) := by
  refine withIss_memWf fun c => ?_
  dsimp only
  split
  · simp [h]
  · refine memWf_of_ite (by simp [h]) ?_
    split
    · simp [h]
    · refine memWf_of_ite (by simp [h]) <| memWf_of_ite (by simp [h]) <| memWf_of_ite (by simp [h]) ?_
      split
      · simp [h]
      · split
        · simp [h]
        · exact memWf_of_ite (by simp [h]) (State.memWf_settle (by simp [h]) _ _ fun t ht => ht)

@[simp] theorem cpa16_memWf (x a : Opnd) (bar : Option Nat) (g u : Bool) : EndsMemWf (cpa16 x a bar g u s) :=
  withIss_memWf fun c => memPrologue_memWf h _ c fun _ =>
    State.memWf_settle (by simp [h]) c _ fun _ ht => State.memWf_issueCpa ht _ _ _ _ _ _

@[simp] theorem execCopyLand_memWf (core n : Nat) : EndsMemWf (execCopyLand core n s) := by
  unfold execCopyLand
  dsimp only
  (repeat' split) <;> simp [h]

@[simp] theorem execMulticastWrite_memWf (n : Nat) : EndsMemWf (execMulticastWrite n s) := by
  unfold execMulticastWrite
  split <;> simp [h]

/-! ### Launches and groups -/

@[simp] theorem execLnch_memWf (x a : Opnd) (p : Fin 64) (g : Bool) : EndsMemWf (execLnch x a p g s) := by
  refine seqOps_memWf h fun c => launchTurn_memWf h _ c fun t c ht => ?_
  split
  · simp [ht]
  · split <;> simp [ht]
  · refine memWf_of_ite (by simp [ht]) <| memWf_of_ite (by simp [ht]) ?_
    split
    · exact memWf_of_ite (by simp [ht]) (by simp [ht])
    · refine memWf_of_ite (by simp [ht]) <| memWf_of_ite (by simp [ht]) ?_
      split
      · simp [ht]
      · split
        next he => exact State.memWf_decideLaunch_error ht he
        next ho => exact State.memWf_decidedLaunch (State.memWf_decideLaunch_ok ht ho) _ _ _ _ _ _

@[simp] theorem execJoin_memWf (a : Opnd) (g : Bool) : EndsMemWf (execJoin a g s) := by
  refine seqOps_memWf h fun c => launchTurn_memWf h _ c fun t c ht => ?_
  (repeat' split) <;> simp [ht]

@[simp] theorem execLqw_memWf (g : Bool) : EndsMemWf (execLqw g s) := by
  refine seqOps_memWf h fun c => launchTurn_memWf h _ c fun t c ht => ?_
  (repeat' split) <;> simp [ht]

@[simp] theorem execFlnch_memWf (x a b : Opnd) (g : Bool) : EndsMemWf (execFlnch x a b g s) := by
  refine seqOps_memWf h fun c => launchTurn_memWf h _ c fun t c ht => ?_
  split
  · simp [ht]
  · simp [ht]
  · refine memWf_of_ite (by simp [ht]) <| memWf_of_ite (by simp [ht]) <| memWf_of_ite (by simp [ht]) ?_
    split
    · exact memWf_of_ite (by simp [ht]) (by simp [ht])
    · refine memWf_of_ite (by simp [ht]) ?_
      split
      · simp [ht]
      · split
        next he => exact State.memWf_readLaunch_error ht he
        next ho => exact State.memWf_beginSend (State.memWf_readLaunch_ok ht ho) _ _ _ _

@[simp] theorem execGroupArrival_memWf (n : Nat) : EndsMemWf (execGroupArrival n s) := by
  unfold execGroupArrival
  (repeat' split) <;> simp [h]

@[simp] theorem execGarr_memWf (x a : Opnd) (g : Bool) : EndsMemWf (execGarr x a g s) := by
  refine seqOps_memWf h fun c => launchTurn_memWf h _ c fun t c ht => ?_
  (repeat' split) <;> simp [ht]
  exact releaseThen_memWf ht _ _ fun u hu => by simp [hu]

@[simp] theorem execGwait_memWf (x a b : Opnd) (g : Bool) : EndsMemWf (execGwait x a b g s) := by
  refine seqOps_memWf h fun c => launchTurn_memWf h _ c fun t c ht => ?_
  dsimp only
  split
  · simp [ht]
  · simp [ht]
  · refine memWf_of_ite (by simp [ht]) ?_
    split
    · simp [ht]
    · simp [ht]

@[simp] theorem execGmem_memWf (a b : Opnd) (g : Bool) : EndsMemWf (execGmem a b g s) := by
  refine seqOps_memWf h fun c => launchTurn_memWf h _ c fun t c ht => ?_
  (repeat' split) <;> simp [ht]

@[simp] theorem fabAccess_memWf (m : MemSpec) (a : Opnd) (kind : FabKind) (acc : AccessKind) (align n : Nat) (data : Option (Opnd × Nat)) :
    EndsMemWf (fabAccess m s a kind acc align n data) :=
  withIss_memWf fun c => memPrologue_memWf h _ c fun _ =>
    State.memWf_settle (by simp [h]) c _ fun _ ht => State.memWf_issueFab ht _ _ _ _ _

/-! ### Fabric frames and timers -/

theorem receive_memWf (kind : Nat) (f : Frame) {deliver : State → State} (hd : ∀ t, t.memWf → (deliver t).memWf) :
    EndsMemWf (receive kind f s deliver) := by
  simp [receive, h, hd]

@[simp] theorem execEftWr_memWf (f : Frame) : EndsMemWf (execEftWr f s) := by
  refine receive_memWf h _ f fun t ht => State.memWf_throughWindow ht _ _ _ _ fun u e pa hu => ?_
  dsimp only
  split <;> simp [hu]

@[simp] theorem execEftRd_memWf (f : Frame) : EndsMemWf (execEftRd f s) := by
  refine receive_memWf h _ f fun t ht => State.memWf_throughWindow ht _ _ _ _ fun u e pa hu => ?_
  simp [hu]

@[simp] theorem execEftRdrsp_memWf (f : Frame) : EndsMemWf (execEftRdrsp f s) := by
  refine receive_memWf h _ f fun t ht => ?_
  split <;> simp [ht]

@[simp] theorem execEftSig_memWf (f : Frame) : EndsMemWf (execEftSig f s) := by
  refine receive_memWf h _ f fun t ht => State.memWf_throughWindow ht _ _ _ _ fun u e pa hu => ?_
  simp [hu]

@[simp] theorem execEftAtom_memWf (f : Frame) : EndsMemWf (execEftAtom f s) := by
  refine receive_memWf h _ f fun t ht => State.memWf_throughWindow ht _ _ _ _ fun u e pa hu => ?_
  (repeat' split) <;> simp [hu]

@[simp] theorem execEftAtomrsp_memWf (f : Frame) : EndsMemWf (execEftAtomrsp f s) := by
  refine receive_memWf h _ f fun t ht => ?_
  (repeat' split) <;> simp [ht]

@[simp] theorem execEftRefuse_memWf (f : Frame) : EndsMemWf (execEftRefuse f s) := by
  refine receive_memWf ?_ _ f fun t ht => State.memWf_sendFab ht
  split <;> simp [h]

@[simp] theorem execEftLaunch_memWf (f : Frame) : EndsMemWf (execEftLaunch f s) := by
  unfold execEftLaunch
  split
  · simp [h]
  · refine receive_memWf h _ f fun t ht => ?_
    split <;> simp [memWf_fst ‹_ = (_, _)›, ht]

@[simp] theorem execEftLans_memWf (f : Frame) : EndsMemWf (execEftLans f s) := by
  unfold execEftLans
  extract_lets rsn
  refine receive_memWf h _ f fun t ht => ?_
  split
  · exact ht
  · refine memWf_of_ite (by simp [ht]) (by simp [ht])

@[simp] theorem execEftCommit_memWf (f : Frame) : EndsMemWf (execEftCommit f s) := by
  refine receive_memWf h _ f fun t ht => ?_
  (repeat' split) <;> simp [ht]

@[simp] theorem execEftAbandon_memWf (f : Frame) : EndsMemWf (execEftAbandon f s) := by
  refine receive_memWf h _ f fun t ht => ?_
  split <;> simp [ht]

@[simp] theorem execEftDone_memWf (f : Frame) : EndsMemWf (execEftDone f s) := by
  refine receive_memWf h _ f fun t ht => ?_
  split <;> simp [ht]

@[simp] theorem execEftGarr_memWf (f : Frame) : EndsMemWf (execEftGarr f s) := by
  refine receive_memWf h _ f fun t ht => ?_
  simp [ht]

@[simp] theorem execEftGgen_memWf (f : Frame) : EndsMemWf (execEftGgen f s) := by
  refine receive_memWf h _ f fun t ht => ?_
  simp [ht]

@[simp] theorem execEftMgmt_memWf (f : Frame) : EndsMemWf (execEftMgmt f s) := by simp [execEftMgmt, h]

@[simp] theorem execEftAckonly_memWf (f : Frame) : EndsMemWf (execEftAckonly f s) := by simp [execEftAckonly, h]

@[simp] theorem execFrameDrop_memWf (_f : Frame) : EndsMemWf (execFrameDrop _f s) := by simp [execFrameDrop, h]

@[simp] theorem execEftAckTimeout_memWf (dev part : Nat) : EndsMemWf (execEftAckTimeout dev part s) := by
  unfold execEftAckTimeout
  dsimp only
  split <;> simp [h]

@[simp] theorem execEftRetransmit_memWf (dev part : Nat) : EndsMemWf (execEftRetransmit dev part s) := by simp [execEftRetransmit, h]

@[simp] theorem execFlnchTimeout_memWf (n : Nat) : EndsMemWf (execFlnchTimeout n s) := by
  unfold execFlnchTimeout
  split <;> simp [h]

@[simp] theorem execRateBucketRefill_memWf : EndsMemWf (execRateBucketRefill s) := by simp [execRateBucketRefill, h]

@[simp] theorem execRemoteAccessTimeout_memWf (n : Nat) : EndsMemWf (execRemoteAccessTimeout n s) := by
  unfold execRemoteAccessTimeout
  split <;> simp [h]

@[simp] theorem execSecureAssociationRenewal_memWf (port : Nat) : EndsMemWf (execSecureAssociationRenewal port s) := by simp [execSecureAssociationRenewal, h]

/-! ### The matrix units -/

theorem matStep_memWf (ops : List (Opnd × Nat)) (g : Bool) {k : Iss → Nat → Except (Cause × Nat) (State → State)}
    (hk : ∀ c t f, k c t = .ok f → (f s).memWf) : EndsMemWf (matStep ops g k s) := by
  refine withIss_memWf fun c => ?_
  split
  · simp [h]
  · refine memWf_of_ite (by simp [h]) ?_
    split
    · simp [h]
    · refine memWf_of_ite (by simp [h]) <| memWf_of_ite (by simp [h]) <| memWf_of_ite (by simp [h]) ?_
      split
      · simp [h]
      next hf => exact (State.finish_memWf c []).mpr (hk _ _ _ hf)

@[simp] theorem mmaStep_memWf (acc : Nat) (pair zero : Bool) (a b : Opnd) (g : Bool) : EndsMemWf (mmaStep acc pair zero a b g s) := by
  refine matStep_memWf h _ _ fun c t f hf => ?_
  dsimp only at hf
  (repeat' split at hf) <;> cases hf
  simp [h]

@[simp] theorem msclStep_memWf (a : Opnd) (recs : Option Opnd) (g : Bool) : EndsMemWf (msclStep a recs g s) := by
  refine matStep_memWf h _ _ fun c t f hf => ?_
  extract_lets at hf
  split at hf
  · cases hf
  · split at hf <;> cases hf
    simp [h]

@[simp] theorem execMaepi_memWf (k : Fin 4) (a : Opnd) (g : Bool) : EndsMemWf (execMaepi k a g s) := by
  refine matStep_memWf h _ _ fun c t f hf => ?_
  dsimp only at hf
  (repeat' split at hf) <;> cases hf
  simp [h]

@[simp] theorem mardStep_memWf (k : Fin 4) (col : Bool) (a : Opnd) (g : Bool) : EndsMemWf (mardStep k col a g s) := by
  refine matStep_memWf h _ _ fun c t f hf => ?_
  dsimp only at hf
  (repeat' split at hf) <;> cases hf
  simp [h]

@[simp] theorem maclrStep_memWf (k : Fin 4) (rel : Bool) (p : Fin 64) : EndsMemWf (maclrStep k rel p s) :=
  withIss_memWf fun c => by simp [h]

@[simp] theorem execMstat_memWf (d : Opnd) (k : Fin 4) : EndsMemWf (execMstat d k s) :=
  seqOps_memWf h fun c => by simp [h]

@[simp] theorem execMtest_memWf (d : Opnd) : EndsMemWf (execMtest d s) := by
  refine withIss_memWf fun c => ?_
  (repeat' split) <;> simp [h]

@[simp] theorem execMatrixQueueHead_memWf (core : Nat) : EndsMemWf (execMatrixQueueHead core s) := by
  unfold execMatrixQueueHead
  dsimp only
  split
  · simp [h]
  · refine endsMemWf_of_ite (by simp [h]) <| endsMemWf_of_ite (by simp [h]) ?_
    split
    · simp [h]
    · refine endsMemWf_of_ite (by simp [h]) ?_
      split <;> simp [h]
    · simp [h]

@[simp] theorem execMatrixRetire_memWf (core : Nat) : EndsMemWf (execMatrixRetire core s) := by
  unfold execMatrixRetire
  (repeat' split) <;> simp [h]

/-! ### The recruiter -/

@[simp] theorem execRcrt_memWf (x a b : Opnd) (g : Bool) : EndsMemWf (execRcrt x a b g s) := by
  refine seqOps_memWf h fun c => ?_
  dsimp only
  split
  · simp [h]
  · simp [h]

@[simp] theorem execRnext_memWf (x : Opnd) (pa : Fin 64) : EndsMemWf (execRnext x pa s) := by
  refine seqOps_memWf h fun c => ?_
  dsimp only
  (repeat' split) <;> simp [h]

@[simp] theorem depositStep_memWf (a : Opnd) (n : Nat) (g : Bool) : EndsMemWf (depositStep a n g s) := by
  refine seqOps_memWf h fun c => ?_
  (repeat' split) <;> simp [h]

@[simp] theorem execRjoin_memWf (op : RedOp) (x : Opnd) (pa : Fin 64) : EndsMemWf (execRjoin op x pa s) := by
  refine seqOps_memWf h fun c => ?_
  (repeat' split) <;> simp [h]

@[simp] theorem execRlse_memWf : EndsMemWf (execRlse s) := by
  refine seqOps_memWf h fun c => ?_
  dsimp only
  (repeat' split) <;> simp [h]

@[simp] theorem execRqry_memWf (x : Opnd) (g : Bool) : EndsMemWf (execRqry x g s) :=
  seqOps_memWf h fun c => by simp [h]

@[simp] theorem execHelperCancel_memWf (core pair lane : Nat) : EndsMemWf (execHelperCancel core pair lane s) := by
  unfold execHelperCancel
  (repeat' split) <;> simp [h]

/-! ### Ends of threads and workgroups -/

@[simp] theorem execExit_memWf (g : Bool) : EndsMemWf (execExit g s) := by
  refine seqOps_memWf h fun c => ?_
  dsimp only
  (repeat' split) <;> simp [h]

@[simp] theorem execWorkgroupEnd_memWf (grid wg : Nat) : EndsMemWf (execWorkgroupEnd grid wg s) := by
  unfold execWorkgroupEnd
  dsimp only
  (repeat' split) <;> simp [h]

@[simp] theorem execContinuationSpawn_memWf (grid wg k : Nat) : EndsMemWf (execContinuationSpawn grid wg k s) := by
  unfold execContinuationSpawn
  dsimp only
  split
  · simp [h]
  · refine endsMemWf_of_ite (by simp [h]) ?_
    simp [h]

/-! ### Pre-emption -/

@[simp] theorem execPreemptRequest_memWf (grid wg : Nat) : EndsMemWf (execPreemptRequest grid wg s) := by
  unfold execPreemptRequest
  dsimp only
  split
  · simp [h]
  · split
    · simp [h]
    · refine (endsMemWf_next _).mpr (foldl_memWf _ (by simp [h]) fun t x ht => ?_)
      split <;> simp [ht]

@[simp] theorem execPreemptWithdraw_memWf (grid wg : Nat) : EndsMemWf (execPreemptWithdraw grid wg s) := by
  unfold execPreemptWithdraw
  dsimp only
  split <;> simp [h]

@[simp] theorem execPrickingWithdraw_memWf (core pair : Nat) : EndsMemWf (execPrickingWithdraw core pair s) := by
  unfold execPrickingWithdraw
  split <;> simp [h]

@[simp] theorem execWorkgroupSave_memWf (grid wg : Nat) : EndsMemWf (execWorkgroupSave grid wg s) := by
  unfold execWorkgroupSave
  extract_lets +onlyGivenNames id
  split
  · simp [h]
  · split
    next core _ ctx x _ _ _ =>
      refine endsMemWf_of_ite (by simp [h]) ?_
      extract_lets +onlyGivenNames t g pages
      have ht : t.memWf := State.memWf_saveRelease h _ _
      obtain ⟨n, hn⟩ : ∃ n, pages = n := ⟨_, rfl⟩
      rw [hn]
      clear_value t g pages
      refine endsMemWf_of_ite (by simp [ht]) ?_
      split
      · simp [ht]
      · split
        · simp [ht]
        · exact (endsMemWf_next _).mpr (State.memWf_writeImage ht _ _ _ _ _ _ _ _ _ _)
    · simp [h]

/-! ### Calls of the policy engines -/

@[simp] theorem execPickCall_memWf (core : Nat) : EndsMemWf (execPickCall core s) := by
  unfold execPickCall
  dsimp only
  split <;> simp [h]

@[simp] theorem execWorkgroupRestore_memWf (grid wg core : Nat) : EndsMemWf (execWorkgroupRestore grid wg core s) := by
  unfold execWorkgroupRestore
  dsimp only
  (repeat' split) <;> simp [h]

@[simp] theorem execTickCall_memWf (plot : Nat) : EndsMemWf (execTickCall plot s) := by simp [execTickCall, h]

@[simp] theorem execSliceExpiry_memWf (grid wg : Nat) : EndsMemWf (execSliceExpiry grid wg s) := by
  unfold execSliceExpiry
  dsimp only
  (repeat' split) <;> simp [h]

@[simp] theorem execBlockCall_memWf (grid wg : Nat) : EndsMemWf (execBlockCall grid wg s) := by
  unfold execBlockCall
  dsimp only
  (repeat' split) <;> simp [h]

@[simp] theorem execWakeCall_memWf (grid wg : Nat) : EndsMemWf (execWakeCall grid wg s) := by
  unfold execWakeCall
  dsimp only
  (repeat' split) <;> simp [h]

@[simp] theorem execMigrCall_memWf (grid wg : Nat) : EndsMemWf (execMigrCall grid wg s) := by
  unfold execMigrCall
  dsimp only
  (repeat' split) <;> simp [h]

/-! ### Packets -/

theorem packetStep_memWf (qnum : Nat) (kind : PacketKind) {go : State → Queue → Context → Packet → Option State}
    (hgo : ∀ t q x p, t.memWf → ((go t q x p).getD s).memWf) : EndsMemWf (packetStep qnum kind go s) := by
  unfold packetStep
  (repeat' split) <;> simp [h, hgo]

@[simp] theorem execNopPacket_memWf (qnum : Nat) : EndsMemWf (execNopPacket qnum s) := by
  refine packetStep_memWf h _ _ fun t q x p ht => ?_
  simp [ht]

@[simp] theorem execLaunch_memWf (qnum : Nat) : EndsMemWf (execLaunch qnum s) := by
  refine packetStep_memWf h _ _ fun t q x p ht => ?_
  split <;> simp [h, ht]

@[simp] theorem execMboxWait_memWf (qnum : Nat) : EndsMemWf (execMboxWait qnum s) := by
  refine packetStep_memWf h _ _ fun t q x p ht => ?_
  simp [ht]

@[simp] theorem execMboxSignal_memWf (qnum : Nat) : EndsMemWf (execMboxSignal qnum s) := by
  refine packetStep_memWf h _ _ fun t q x p ht => ?_
  simp [ht]

@[simp] theorem execMboxConsume_memWf (part word : Nat) : EndsMemWf (execMboxConsume part word s) := by
  unfold execMboxConsume
  (repeat' split) <;> simp [h]

@[simp] theorem execMboxProduce_memWf (part word : Nat) : EndsMemWf (execMboxProduce part word s) := by
  unfold execMboxProduce
  (repeat' split) <;> simp [h]

@[simp] theorem execBackgroundProduce_memWf (n : Nat) : EndsMemWf (execBackgroundProduce n s) := by
  unfold execBackgroundProduce
  (repeat' split) <;> simp [h]

@[simp] theorem execPolicyLoad_memWf (qnum : Nat) : EndsMemWf (execPolicyLoad qnum s) := by
  refine packetStep_memWf h _ _ fun t q x p ht => ?_
  simp [ht]

/-! ### The weight store -/

@[simp] theorem execWsbind_memWf (x a : Opnd) : EndsMemWf (execWsbind x a s) := by
  refine seqOps_memWf h fun c => ?_
  dsimp only
  (repeat' split) <;> simp [h]

@[simp] theorem execWsqry_memWf (x a b : Opnd) : EndsMemWf (execWsqry x a b s) := by
  refine seqOps_memWf h fun c => ?_
  dsimp only
  (repeat' split) <;> simp [h]

@[simp] theorem execWsrel_memWf (a : Opnd) : EndsMemWf (execWsrel a s) := by
  refine seqOps_memWf h fun c => ?_
  dsimp only
  (repeat' split) <;> simp [h]

@[simp] theorem execWstrm_memWf (x a b : Opnd) (g : Bool) : EndsMemWf (execWstrm x a b g s) := by
  refine withIss_memWf fun c => ?_
  dsimp only
  (repeat' split) <;> simp [h]

@[simp] theorem execStreamLand_memWf (core n : Nat) : EndsMemWf (execStreamLand core n s) := by
  unfold execStreamLand
  dsimp only
  split <;> simp [h]

@[simp] theorem execVersionErase_memWf (name ver : Nat) : EndsMemWf (execVersionErase name ver s) := by
  unfold execVersionErase
  split <;> simp [h]

/-! ### Partition configuration -/

@[simp] theorem execLayout_memWf (qnum : Nat) : EndsMemWf (execLayout qnum s) := by
  unfold execLayout
  split
  · simp [h]
  · refine packetStep_memWf h _ _ fun t q x p ht => ?_
    cases hl : t.layoutStart qnum q p with
    | none => exact h
    | some u => exact State.memWf_layoutStart ht hl

@[simp] theorem execClearSequence_memWf (plot : Nat) : EndsMemWf (execClearSequence plot s) := by
  unfold execClearSequence
  dsimp only
  split
  · simp [h]
  · split
    · simp [h]
    · simp [h]
    · simp [h]

@[simp] theorem execSlotMapSwitch_memWf : EndsMemWf (execSlotMapSwitch s) := by simp [execSlotMapSwitch, h]

@[simp] theorem execMeplim_memWf (qnum : Nat) : EndsMemWf (execMeplim qnum s) := by
  refine packetStep_memWf h _ _ fun t q x p ht => ?_
  rw [Option.getD_some]
  refine State.memWf_withArg ht _ _ _ _ fun u v hu => ?_
  (repeat' split) <;> simp [hu]

@[simp] theorem execCtxCreate_memWf (qnum : Nat) : EndsMemWf (execCtxCreate qnum s) := by
  refine packetStep_memWf h _ _ fun t q x p ht => ?_
  rw [Option.getD_some]
  refine State.memWf_withArg ht _ _ _ _ fun u v hu => ?_
  dsimp only
  (repeat' split) <;> simp [hu]

@[simp] theorem execCtxDestroy_memWf (qnum : Nat) : EndsMemWf (execCtxDestroy qnum s) := by
  refine packetStep_memWf h _ _ fun t q x p ht => ?_
  dsimp only [Option.getD_some]
  (repeat' split) <;> simp [ht]

@[simp] theorem execFltab_memWf (qnum : Nat) : EndsMemWf (execFltab qnum s) := by
  refine packetStep_memWf h _ _ fun t q x p ht => ?_
  dsimp only [Option.getD_some]
  split
  · simp [ht]
  · refine State.memWf_withArg ht _ _ _ _ fun u v hu => ?_
    (repeat' split) <;> simp [hu]

@[simp] theorem execWintab_memWf (qnum : Nat) : EndsMemWf (execWintab qnum s) := by
  refine packetStep_memWf h _ _ fun t q x p ht => ?_
  dsimp only [Option.getD_some]
  split
  · simp [ht]
  · refine State.memWf_withArg ht _ _ _ _ fun u v hu => ?_
    (repeat' split) <;> simp [hu]

@[simp] theorem execDomain_memWf (qnum : Nat) : EndsMemWf (execDomain qnum s) := by
  refine packetStep_memWf h _ _ fun t q x p ht => ?_
  rw [Option.getD_some]
  refine State.memWf_withArg ht _ _ _ _ fun u v hu => ?_
  (repeat' split) <;> simp [hu]

@[simp] theorem execWprog_memWf (qnum : Nat) (v : WeightVersion) : EndsMemWf (execWprog qnum v s) := by
  unfold execWprog
  split
  · simp [h]
  · refine packetStep_memWf h _ _ fun t q x p ht => ?_
    rw [Option.getD_some]
    refine State.memWf_withArg ht _ _ _ _ fun u _ hu => ?_
    (repeat' split) <;> simp [hu]

@[simp] theorem execWpub_memWf (qnum : Nat) : EndsMemWf (execWpub qnum s) := by
  refine packetStep_memWf h _ _ fun t q x p ht => ?_
  rw [Option.getD_some]
  refine State.memWf_withArg ht _ _ _ _ fun u v hu => ?_
  dsimp only
  (repeat' split) <;> simp [hu]

@[simp] theorem execChkpt_memWf (qnum : Nat) (hostOk : Bool) : EndsMemWf (execChkpt qnum hostOk s) := by
  unfold execChkpt
  split
  · simp [h]
  · exact packetStep_memWf h _ _ fun t q x p ht => State.memWf_chkptStart ht _ _ _

/-! ### Control pages -/

@[simp] theorem execQdb_memWf (ctx q value : Nat) : EndsMemWf (execQdb ctx q value s) := by
  unfold execQdb
  split <;> simp [h]

@[simp] theorem execEqrd_memWf (ctx q value : Nat) : EndsMemWf (execEqrd ctx q value s) := by
  unfold execEqrd
  split <;> simp [h]

@[simp] theorem execQreset_memWf (ctx value : Nat) : EndsMemWf (execQreset ctx value s) := by simp [execQreset, h]

@[simp] theorem execEqansResume_memWf (ctx seq : Nat) : EndsMemWf (execEqansResume ctx seq s) := by simp [execEqansResume, h]

@[simp] theorem execEqansSkip_memWf (ctx seq : Nat) : EndsMemWf (execEqansSkip ctx seq s) := by simp [execEqansSkip, h]

@[simp] theorem execEqansAbort_memWf (ctx seq : Nat) : EndsMemWf (execEqansAbort ctx seq s) := by simp [execEqansAbort, h]

@[simp] theorem execFsreplyRetry_memWf (ctx seq : Nat) : EndsMemWf (execFsreplyRetry ctx seq s) := by simp [execFsreplyRetry, h]

@[simp] theorem execFsreplyDecline_memWf (ctx seq : Nat) : EndsMemWf (execFsreplyDecline ctx seq s) := by simp [execFsreplyDecline, h]

@[simp] theorem execTlbinv_memWf (ctx value : Nat) : EndsMemWf (execTlbinv ctx value s) := by simp [execTlbinv, h]

@[simp] theorem execTlbinvComplete_memWf (ctx : Nat) : EndsMemWf (execTlbinvComplete ctx s) := by
  unfold execTlbinvComplete
  split <;> simp [h]

@[simp] theorem execMbxdata_memWf (ctx value : Nat) : EndsMemWf (execMbxdata ctx value s) := by
  unfold execMbxdata
  split <;> simp [h]

@[simp] theorem execMecarve_memWf (ctx value : Nat) : EndsMemWf (execMecarve ctx value s) := by
  unfold execMecarve
  (repeat' split) <;> simp [h]

@[simp] theorem execPsdata_memWf (ctx value : Nat) : EndsMemWf (execPsdata ctx value s) := by
  unfold execPsdata
  split <;> simp [h]

@[simp] theorem execRegisterWrite_memWf (page : RegPage) (off value : Nat) : EndsMemWf (execRegisterWrite page off value s) := by
  unfold execRegisterWrite
  split <;> simp [h]

/-! ### The security engine -/

@[simp] theorem execKcmdGenerate_memWf (part : Nat) : EndsMemWf (execKcmdGenerate part s) := by
  unfold execKcmdGenerate
  split
  · simp [h]
  · exact endsMemWf_of_ite (by simp [h]) (by simp [h])

@[simp] theorem execKcmdRetire_memWf (part key : Nat) : EndsMemWf (execKcmdRetire part key s) := by simp [execKcmdRetire, h]

@[simp] theorem execKeyPendTimeout_memWf (key : Nat) : EndsMemWf (execKeyPendTimeout key s) := by simp [execKeyPendTimeout, h]

@[simp] theorem execKeyZeroise_memWf (key : Nat) : EndsMemWf (execKeyZeroise key s) := by simp [execKeyZeroise, h]

@[simp] theorem execGetVersion_memWf : EndsMemWf (execGetVersion s) := by simp [execGetVersion, h]

@[simp] theorem execGetCapabilities_memWf : EndsMemWf (execGetCapabilities s) := by simp [execGetCapabilities, h]

@[simp] theorem execNegotiateAlgorithms_memWf : EndsMemWf (execNegotiateAlgorithms s) := by simp [execNegotiateAlgorithms, h]

@[simp] theorem execGetDigests_memWf : EndsMemWf (execGetDigests s) := by simp [execGetDigests, h]

@[simp] theorem execGetCertificate_memWf : EndsMemWf (execGetCertificate s) := by simp [execGetCertificate, h]

@[simp] theorem execChallenge_memWf (nonce : Nat) : EndsMemWf (execChallenge nonce s) := by simp [execChallenge, h]

@[simp] theorem execGetMeasurements_memWf (sess : Nat) : EndsMemWf (execGetMeasurements sess s) := by simp [execGetMeasurements, h]

@[simp] theorem execKeyExchange_memWf (part : Nat) : EndsMemWf (execKeyExchange part s) := by
  unfold execKeyExchange
  split <;> simp [h]

@[simp] theorem execFinish_memWf (sess : Nat) : EndsMemWf (execFinish sess s) := by
  unfold execFinish
  split <;> simp [h]

@[simp] theorem execEndSession_memWf (sess : Nat) : EndsMemWf (execEndSession sess s) := by
  unfold execEndSession
  split <;> simp [h]

@[simp] theorem execKeyImport_memWf (sess gen wrapped : Nat) : EndsMemWf (execKeyImport sess gen wrapped s) := by
  unfold execKeyImport
  (repeat' split) <;> simp [h]

@[simp] theorem execMeterRead_memWf (sess entry : Nat) : EndsMemWf (execMeterRead sess entry s) := by
  unfold execMeterRead
  (repeat' split) <;> simp [h]

@[simp] theorem execMdata_memWf : EndsMemWf (execMdata s) := by
  unfold execMdata
  (repeat' split) <;> simp [h]

@[simp] theorem execChainTick_memWf : EndsMemWf (execChainTick s) := by simp [execChainTick, h]

@[simp] theorem execDbgnonce_memWf : EndsMemWf (execDbgnonce s) := by simp [execDbgnonce, h]

@[simp] theorem execNonceExpiry_memWf : EndsMemWf (execNonceExpiry s) := by
  unfold execNonceExpiry
  split <;> simp [h]

@[simp] theorem execDbgtok_memWf (addr : Nat) : EndsMemWf (execDbgtok addr s) := by simp [execDbgtok, h]

@[simp] theorem execLinkTagFailure_memWf (link : Nat) : EndsMemWf (execLinkTagFailure link s) := by simp [execLinkTagFailure, h]

@[simp] theorem execLinkRekey_memWf (link : Nat) : EndsMemWf (execLinkRekey link s) := by simp [execLinkRekey, h]

@[simp] theorem execUpdstage_memWf (win : Nat) (img : ImageInfo) : EndsMemWf (execUpdstage win img s) := by simp [execUpdstage, h]

@[simp] theorem execUpdwdr_memWf : EndsMemWf (execUpdwdr s) := by
  unfold execUpdwdr
  split <;> simp [h]

@[simp] theorem execUpdwinExpiry_memWf : EndsMemWf (execUpdwinExpiry s) := by
  unfold execUpdwinExpiry
  split <;> simp [h]

@[simp] theorem execImageBoot_memWf (ok : Bool) : EndsMemWf (execImageBoot ok s) := by
  unfold execImageBoot
  split <;> simp [h]

@[simp] theorem execUpdateAck_memWf (sess digest : Nat) : EndsMemWf (execUpdateAck sess digest s) := by
  unfold execUpdateAck
  split <;> simp [h]

@[simp] theorem execUpdateNak_memWf (sess _digest : Nat) : EndsMemWf (execUpdateNak sess _digest s) := by
  unfold execUpdateNak
  split <;> simp [h]

@[simp] theorem execQuiesceComplete_memWf : EndsMemWf (execQuiesceComplete s) := by
  unfold execQuiesceComplete
  split <;> simp [h]

@[simp] theorem execQuiesceTimeout_memWf : EndsMemWf (execQuiesceTimeout s) := by
  unfold execQuiesceTimeout
  split <;> simp [h]

@[simp] theorem execQuiesceRetry_memWf : EndsMemWf (execQuiesceRetry s) := by
  unfold execQuiesceRetry
  split <;> simp [h]

@[simp] theorem execWatchdogMiss_memWf : EndsMemWf (execWatchdogMiss s) := by
  unfold execWatchdogMiss
  (repeat' split) <;> simp [h]

@[simp] theorem execFuseAdvance_memWf (first second : Bool) : EndsMemWf (execFuseAdvance first second s) := by
  unfold execFuseAdvance
  split <;> simp [h]

/-! ### Power and clock -/

@[simp] theorem execSnap_memWf (tag : BitVec 9) : EndsMemWf (execSnap tag s) :=
  withIss_memWf fun c => by simp [h]

@[simp] theorem execSnaptrig_memWf (tag : Nat) : EndsMemWf (execSnaptrig tag s) := by simp [execSnaptrig, h]

@[simp] theorem execSnapThreshold_memWf : EndsMemWf (execSnapThreshold s) := by simp [execSnapThreshold, h]

@[simp] theorem execSnapack_memWf : EndsMemWf (execSnapack s) := by simp [execSnapack, h]

@[simp] theorem execPowerMeasure_memWf (watts : Nat) : EndsMemWf (execPowerMeasure watts s) := by simp [execPowerMeasure, h]

@[simp] theorem execLease_memWf (ctx iiu : Nat) : EndsMemWf (execLease ctx iiu s) := by
  unfold execLease
  split <;> simp [h]

@[simp] theorem execLeaseEnd_memWf (ctx : Nat) : EndsMemWf (execLeaseEnd ctx s) := by
  unfold execLeaseEnd
  split <;> simp [h]

@[simp] theorem execThermalReport_memWf (stack : Nat) (celsius : Int) : EndsMemWf (execThermalReport stack celsius s) := by simp [execThermalReport, h]

@[simp] theorem execCoreCycle_memWf (core : Nat) : EndsMemWf (execCoreCycle core s) := by
  refine (endsMemWf_next _).mpr (foldl_memWf _ ?_ fun t e ht => State.memWf_resolveGuard ht _ _ _)
  simp [h]

@[simp] theorem execHostAccess_memWf (op : HostOp) : EndsMemWf (execHostAccess op s) := by
  unfold execHostAccess
  split <;> simp [h]

@[simp] theorem execModuleReset_memWf (blown : Bool) : EndsMemWf (execModuleReset blown s) := by simp [execModuleReset, h]

@[simp] theorem execPowerLoss_memWf : EndsMemWf (execPowerLoss s) := by simp [execPowerLoss, h]

/-! ### Every instruction and event -/

theorem exec_memWf (i : Instr) : EndsMemWf (exec i s) := by
  cases i with
  | ret | bri _ | calli _ => simp [exec, execRet, execBri, execCalli, h]
  | guard _ | guardn _ => simp [exec, execGuard, execGuardn, h]
  | pand _ | por _ | pxor _ | pnot _ | pmov _ => simp [exec, execPand, execPor, execPxor, execPnot, execPmov, h]
  | add _ | sub _ | adds _ | subs _ | addsu _ | subsu _ | mul _ | mulh _ | mulhu _ | divs _ | divu _ | rems _ | remu _ | min _ | max _ | minu _
    | maxu _ | and _ | or _ | xor _ | shl _ | shr _ | shra _ | rol _ | pack _ | addc _ | subb _ | mad _ | sel _ | lea _ | setp _ _ | movl _ | movh _
    | ffma _ | fclass _ | dadd _ | dmul _ | dfma _ | fsetp _ _ | dsetp _ _ | cvt _ _ | mov _ | not _ | neg _ | abs _ | negs _ | abss _ | clz _
    | popc _ | brev _ | unpk _ _ _ | addi _ | andi _ | ori _ | xori _ | shli _ | shri _ | shrai _ | fadd _ | fsub _ | fmul _ | fmin _ | fmax _
    | fdiv _ | frcp _ | frsq _ | fsqrt _ | fexp2 _ | flog2 _ | hadd2 _ | hmul2 _ | hadd2Bf _ | hmul2Bf _ | hfma2 _ | hfma2Bf _ =>
    simp only [exec]; apply aluStep_memWf h
  | qnt _ | dqnt _ | voteBallot _ | redx _ _ | matchMask _ | voteAll _ | voteAny _ =>
    simp [exec, execQnt, execDqnt, execVoteBallot, execRedx, execMatchMask, execVoteAll, execVoteAny, votePred, h]
  | shfl _ | shflu _ | shfld _ | shflx _ | bcast _ => simp [exec, execShfl, execShflu, execShfld, execShflx, execBcast, h]
  | fwr _ _ _ _ | frd _ _ _ _ | fsig _ _ _ _ | fatom _ _ _ _ _ => simp [exec, execFwr, execFrd, execFsig, execFatom, h]
  | ld _ _ | ldn _ _ | lda _ _ _ | st _ _ | stn _ _ | stl _ _ _ =>
    simp [exec, execLd, execLdn, execLda, execSt, execStn, execStl, globalLoad, globalStore, h]
  | lds _ _ | sts _ _ => simp [exec, execLds, execSts, h]
  | ldp _ _ | stp _ _ => simp [exec, execLdp, execStp, h]
  | atomAdd _ | atomIncw _ | atomExch _ | atomCas _ | atomMin _ | atomMax _ | atomMinu _ | atomMaxu _ | atomAnd _ | atomOr _ | atomXor _ | redAdd _
    | redIncw _ | redMin _ | redMax _ | redMinu _ | redMaxu _ | redAnd _ | redOr _ | redXor _ =>
    simp only [exec]; apply atomAccess_memWf h
  | cpa16Bar _ _ _ _ _ | cpa16Nb _ _ _ _ => simp [exec, execCpa16Bar, execCpa16Nb, h]
  | cpbG2s _ | cpbS2g _ | cpbm _ | cpbpG2s _ | cpbpS2s _ => simp [exec, execCpbG2s, execCpbS2g, execCpbm, execCpbpG2s, execCpbpS2s, h]
  | rpart32 _ _ | rpart64 _ _ => simp [exec, execRpart32, execRpart64, h]
  | mma _ _ _ _ | mmaZ _ _ _ _ | mmap _ _ _ _ | mmapZ _ _ _ _ => simp [exec, execMma, execMmaZ, execMmap, execMmapZ, h]
  | mscl _ _ _ | msclBand _ _ => simp [exec, execMscl, execMsclBand, h]
  | mard _ _ _ | mardCol _ _ _ => simp [exec, execMard, execMardCol, h]
  | maclr _ _ | maclrRel _ _ => simp [exec, execMaclr, execMaclrRel, h]
  | _ => simp [exec, h]

end

end Sys2Proof.Machine

/-! PROOF. MemoryStaysCanonical: the steps that the model's own order finds, those that the agenda names, and the issues of the cores. -/

namespace Sys2Proof.Machine

/-! ### Lists of events -/

/-- A step that keeps the canonical form. -/
def KeepsMemWf (f : State → Result) : Prop := ∀ s, s.memWf → EndsMemWf (f s)

/-- Every step of a list keeps the canonical form. -/
def AllKeepMemWf (l : List (State → Result)) : Prop := ∀ f ∈ l, KeepsMemWf f

@[simp] theorem allKeepMemWf_nil : AllKeepMemWf [] := by simp [AllKeepMemWf]

@[simp] theorem allKeepMemWf_cons (f : State → Result) (l : List (State → Result)) : AllKeepMemWf (f :: l) ↔ KeepsMemWf f ∧ AllKeepMemWf l :=
  List.forall_mem_cons

@[simp] theorem allKeepMemWf_append (l m : List (State → Result)) : AllKeepMemWf (l ++ m) ↔ AllKeepMemWf l ∧ AllKeepMemWf m :=
  List.forall_mem_append

@[simp] theorem allKeepMemWf_ite (p : Prop) [Decidable p] (l m : List (State → Result)) :
    AllKeepMemWf (if p then l else m) ↔ if p then AllKeepMemWf l else AllKeepMemWf m := by
  split <;> rfl

@[simp] theorem allKeepMemWf_map {α : Type} (g : α → State → Result) (l : List α) : AllKeepMemWf (l.map g) ↔ ∀ a ∈ l, KeepsMemWf (g a) :=
  List.forall_mem_map

@[simp] theorem allKeepMemWf_flatMap {α : Type} (g : α → List (State → Result)) (l : List α) :
    AllKeepMemWf (l.flatMap g) ↔ ∀ a ∈ l, AllKeepMemWf (g a) := by
  simp only [AllKeepMemWf, List.mem_flatMap]
  exact ⟨fun h a ha f hf => h f ⟨a, ha, hf⟩, fun h f ⟨a, ha, hf⟩ => h a ha f hf⟩

@[simp] theorem allKeepMemWf_filterMap {α : Type} (g : α → Option (State → Result)) (l : List α) :
    AllKeepMemWf (l.filterMap g) ↔ ∀ a ∈ l, ∀ f, g a = some f → KeepsMemWf f := by
  simp only [AllKeepMemWf, List.mem_filterMap]
  exact ⟨fun h a ha f hf => h f ⟨a, ha, hf⟩, fun h f ⟨a, ha, hf⟩ => h a ha f hf⟩

theorem State.memWf_of_changed {s t : State} {r : Result} (hr : EndsMemWf r) (ht : changed s r = some t) : t.memWf := by
  unfold changed at ht
  split at ht
  · split at ht <;> cases ht
    exact hr _ rfl
  · cases ht

theorem State.memWf_of_firstChange {s t : State} (h : s.memWf) {l : List (State → Result)} (hl : AllKeepMemWf l) (ht : firstChange s l = some t) :
    t.memWf := by
  induction l with
  | nil => cases ht
  | cons f r ih =>
    obtain ⟨hf, hr⟩ := (allKeepMemWf_cons f r).mp hl
    unfold firstChange at ht
    split at ht
    next hc => cases ht; exact State.memWf_of_changed (hf s h) hc
    next => exact ih hr ht

theorem forall_mem_insertKey {α : Type} {P : Nat × α → Prop} {x : Nat × α} {l : List (Nat × α)} (hx : P x) (hl : ∀ e ∈ l, P e) :
    ∀ e ∈ insertKey x l, P e := by
  induction l with
  | nil => simpa [insertKey] using hx
  | cons y r ih =>
    unfold insertKey
    split
    · exact List.forall_mem_cons.mpr ⟨hx, hl⟩
    · exact List.forall_mem_cons.mpr ⟨hl y List.mem_cons_self, ih fun e he => hl e (List.mem_cons_of_mem y he)⟩

/-- Calls that keep the canonical form do so in whatever order their keys put them. -/
theorem allKeepMemWf_sorted {l : List (Nat × (State → Result))} (hl : ∀ e ∈ l, KeepsMemWf e.2) :
    AllKeepMemWf ((l.foldl (fun l x => insertKey x l) []).map Prod.snd) :=
  (allKeepMemWf_map _ _).mpr <|
    List.foldlRecOn (motive := fun m => ∀ e ∈ m, KeepsMemWf e.2) l _ (by simp) fun _ hm x hx => forall_mem_insertKey (hl x hx) hm

theorem Core.allKeepMemWf_warpEvents (core : Nat) (k : Core) : AllKeepMemWf (k.warpEvents core) := by
  unfold Core.warpEvents
  refine (allKeepMemWf_flatMap _ _).mpr fun x _ => ?_
  dsimp only
  refine (allKeepMemWf_append _ _).mpr ⟨(allKeepMemWf_flatMap _ _).mpr fun e _ => ?_, ?_⟩
  · split <;> simp +contextual [KeepsMemWf]
  · split
    · refine (allKeepMemWf_ite _ _ _).mpr ?_
      split
      · refine (allKeepMemWf_flatMap _ _).mpr fun l _ => ?_
        split <;> simp +contextual [KeepsMemWf]
      · simp
    · simp

theorem Core.allKeepMemWf_events (core : Nat) (k : Core) : AllKeepMemWf (k.events core) := by
  unfold Core.events
  simp +contextual [KeepsMemWf, Core.allKeepMemWf_warpEvents]

theorem Workgroup.allKeepMemWf_events (id : Nat) (w : Workgroup) : AllKeepMemWf (w.events id) := by
  unfold Workgroup.events
  simp +contextual [KeepsMemWf]

theorem State.allKeepMemWf_queueEvents (s : State) (n : Nat) (q : Queue) : AllKeepMemWf (s.queueEvents n q) := by
  unfold State.queueEvents
  (repeat' split) <;> simp +contextual [KeepsMemWf]

theorem State.allKeepMemWf_commandEvents (s : State) : AllKeepMemWf s.commandEvents := by
  unfold State.commandEvents
  simp +contextual [KeepsMemWf, State.allKeepMemWf_queueEvents]
  intro _ _ _ t ht
  split <;> simp [ht]

theorem State.allKeepMemWf_fabricEvents (s : State) : AllKeepMemWf s.fabricEvents := by
  simp +contextual [State.fabricEvents, KeepsMemWf]

theorem State.allKeepMemWf_engineEvents (s : State) : AllKeepMemWf s.engineEvents := by
  unfold State.engineEvents
  simp +contextual [KeepsMemWf]
  intro _ _ _
  split <;> simp +contextual [KeepsMemWf]

theorem State.allKeepMemWf_plotEvents (s : State) : AllKeepMemWf s.plotEvents := by
  simp +contextual [State.plotEvents, KeepsMemWf]

theorem State.allKeepMemWf_pendingEvents (s : State) : AllKeepMemWf s.pendingEvents := by
  simp +contextual [State.pendingEvents, KeepsMemWf, Core.allKeepMemWf_events, Workgroup.allKeepMemWf_events, State.allKeepMemWf_fabricEvents,
    State.allKeepMemWf_commandEvents, State.allKeepMemWf_engineEvents, State.allKeepMemWf_plotEvents]
theorem State.allKeepMemWf_callsOf (s : State) (due : Workgroup → Bool) {call : Nat → Nat → State → Result} (hc : ∀ g i, KeepsMemWf (call g i)) :
    AllKeepMemWf (s.callsOf due call) :=
  allKeepMemWf_sorted fun e he => by
    obtain ⟨x, -, rfl⟩ := List.mem_map.mp he
    exact hc _ _

theorem State.allKeepMemWf_restores (s : State) : AllKeepMemWf s.restores := by
  refine (allKeepMemWf_filterMap _ _).mpr fun e _ f hf => ?_
  obtain ⟨x, -, rfl⟩ := Option.map_eq_some_iff.mp hf
  intro t ht
  simp [ht]

@[simp] theorem State.notePicks_memWf {s : State} (h : s.memWf) (plot : Nat) : EndsMemWf (State.notePicks plot s) := by
  simp [State.notePicks, h]

theorem State.allKeepMemWf_callNotes (s : State) : AllKeepMemWf s.callNotes := by
  simp +contextual [State.callNotes, KeepsMemWf]

theorem State.keepsMemWf_pickTurn {s : State} {plot : Nat} {x : Nat × (State → Result)} (hx : s.pickTurn plot = some x) : KeepsMemWf x.2 := by
  unfold State.pickTurn at hx
  dsimp only at hx
  split at hx
  · cases hx
  · split at hx <;> cases hx
    intro t ht
    dsimp only
    (repeat' split) <;> simp [ht]

theorem State.allKeepMemWf_dueCalls (s : State) : AllKeepMemWf s.dueCalls := by
  unfold State.dueCalls
  simp only [allKeepMemWf_append]
  refine ⟨⟨⟨State.allKeepMemWf_callsOf s _ ?_, allKeepMemWf_sorted ?_⟩, State.allKeepMemWf_callsOf s _ ?_⟩, State.allKeepMemWf_callsOf s _ ?_⟩
  · simp +contextual [KeepsMemWf]
  · intro e he
    obtain ⟨plot, -, hp⟩ := List.mem_filterMap.mp he
    exact State.keepsMemWf_pickTurn hp
  · simp +contextual [KeepsMemWf]
  · simp +contextual [KeepsMemWf]

section
variable {s : State} (h : s.memWf)
include h

theorem State.memWf_pending {t : State} (ht : s.pending = some t) : t.memWf :=
  State.memWf_of_firstChange h s.allKeepMemWf_pendingEvents ht

theorem State.memWf_urgent {t : State} (ht : s.urgent = some t) : t.memWf := by
  unfold State.urgent at ht
  split at ht
  next hc =>
    cases ht
    obtain ⟨plot, -, hp⟩ := List.exists_of_findSome?_eq_some hc
    exact State.memWf_callStep h hp
  next =>
    refine State.memWf_of_firstChange h ?_ ht
    simp [State.allKeepMemWf_restores, State.allKeepMemWf_callNotes, State.allKeepMemWf_dueCalls]

theorem State.memWf_ticksDue {t : State} (ht : s.ticksDue = some t) : t.memWf := by
  refine State.memWf_of_firstChange h ?_ ht
  simp only [allKeepMemWf_append]
  refine ⟨⟨?_, ?_⟩, State.allKeepMemWf_callsOf s _ ?_⟩ <;> simp +contextual [KeepsMemWf]

theorem State.memWf_before {t : State} {a : Sched} (ht : s.before a = some t) : t.memWf := by
  unfold State.before at ht
  split at ht
  next hu => cases ht; exact State.memWf_urgent h hu
  next =>
    split at ht
    · exact State.memWf_ticksDue h ht
    · cases ht

theorem State.pendingOr_memWf {rest : State → Result} (hrest : EndsMemWf (rest s)) : EndsMemWf (s.pendingOr rest) := by
  unfold State.pendingOr
  split
  next hp => exact (endsMemWf_next _).mpr (State.memWf_pending h hp)
  next ht => exact (endsMemWf_next _).mpr (State.memWf_ticksDue h ht)
  next => exact hrest

/-! ### Issues -/

theorem Fetched.exec_memWf {run : Instr → State → Result} (hrun : ∀ i t, t.memWf → EndsMemWf (run i t)) (f : Fetched) : EndsMemWf (f.exec run s) := by
  cases f with
  | instr i => exact hrun i s h
  | unused w => exact execUnusedEncoding_memWf h w

theorem State.tryIssue_memWf {run : Instr → State → Result} (hrun : ∀ i t, t.memWf → EndsMemWf (run i t)) {core slot : Nat} {who : Who} {r : Result}
    (hr : s.tryIssue run core slot who = some r) : EndsMemWf r := by
  unfold State.tryIssue at hr
  split at hr
  · cases hr
  next c _ =>
    extract_lets +onlyGivenNames ready failed at hr
    split at hr
    · cases hr; simp [h]
    · split at hr
      · cases hr
        refine (endsMemWf_next _).mpr (memWf_of_ite ?_ ?_) <;> simp [h]
      next i _ =>
        split at hr
        · cases hr; simp [h]
        · split at hr
          next hu => cases hr; exact (endsMemWf_next _).mpr ((State.unstopSources_memWf hu).mpr h)
          next =>
            extract_lets +onlyGivenNames cost at hr
            split at hr
            · cases hr
            · have hx := fun issuer => Fetched.exec_memWf (s := { (if ready then s.noteFetch c else s) with issuer := issuer }) (by simp [h]) hrun i
              split at hr
              next he =>
                (repeat' split at hr) <;> cases hr <;> exact he ▸ hx _
              next => cases hr; exact hx _

theorem State.tryAll_memWf {run : Instr → State → Result} (hrun : ∀ i t, t.memWf → EndsMemWf (run i t)) {core : Nat} {l : List Cand} {r : Result}
    (hr : s.tryAll run core l = some r) : EndsMemWf r := by
  induction l with
  | nil => cases hr
  | cons a l ih =>
    unfold State.tryAll at hr
    split at hr
    next hx => cases hr; exact State.tryIssue_memWf h hrun hx
    next => exact ih hr

theorem State.issueCore_memWf {run : Instr → State → Result} (hrun : ∀ i t, t.memWf → EndsMemWf (run i t)) {core : Nat} {r : Result}
    (hr : s.issueCore run core = some r) : EndsMemWf r :=
  State.tryAll_memWf ((State.noteWithheld_memWf run core).mpr h) hrun hr

/-! ### Steps -/

theorem State.advance_memWf {run : Instr → State → Result} (hrun : ∀ i t, t.memWf → EndsMemWf (run i t)) : EndsMemWf (s.advance run) := by
  unfold State.advance
  split
  next hu => exact (endsMemWf_next _).mpr (State.memWf_urgent h hu)
  next =>
    split
    · exact State.pendingOr_memWf h (by simp [h])
    · split
      next hi => exact State.issueCore_memWf h hrun hi
      next => exact State.pendingOr_memWf h (by simp [h])

theorem State.perform_memWf {run : Instr → State → Result} (hrun : ∀ i t, t.memWf → EndsMemWf (run i t)) (a : Sched) : EndsMemWf (s.perform run a) := by
  cases a with
  | event i =>
    simp only [State.perform]
    split
    · refine hrun i _ ?_
      split <;> simp [h]
    · simp [h]
  | issue core =>
    cases hi : s.issueCore run core with
    | none => simp [State.perform, hi, h]
    | some r => simpa [State.perform, hi] using State.issueCore_memWf h hrun hi
  | _ => simp [State.perform, h]

theorem State.stepWith_memWf {run : Instr → State → Result} (hrun : ∀ i t, t.memWf → EndsMemWf (run i t)) : EndsMemWf (s.stepWith run) := by
  unfold State.stepWith
  split
  · split
    next hb => exact (endsMemWf_next _).mpr (State.memWf_before h hb)
    next => exact State.perform_memWf (by simpa using h) hrun _
  · exact State.advance_memWf h hrun

end

/-- Settles O60: a step is an event, a call, an issue or an entry of the agenda, and each of them keeps the canonical form (`exec_memWf`). -/
theorem memoryStaysCanonical : Obligations.MemoryStaysCanonical := fun _ t h ht =>
  State.stepWith_memWf h (fun i _ hu => exec_memWf hu i) t ht

end Sys2Proof.Machine

/-! SUPPORT. What the writes of records leave alone: the contexts, and of a queue all but its ring. -/

namespace Sys2Proof.Machine

/-! ### Maps -/

/-- The value of a key after a change of every entry that keeps the keys. -/
theorem mget?_map {α β : Type} {f : Nat × α → Nat × β} (hf : ∀ e, (f e).1 = e.1) (m : NatMap α) (k : Nat) :
    mget? (m.map f) k = (mget? m k).map (fun v => (f (k, v)).2) := by
  induction m with
  | nil => rfl
  | cons e r ih =>
    obtain ⟨i, w⟩ := e
    simp only [List.map_cons, mget?, hf, ih]
    split
    next hi => subst hi; rfl
    next => rfl

theorem mget?_isSome_of_mem {α : Type} {m : NatMap α} {e : Nat × α} (he : e ∈ m) : ∃ v, mget? m e.1 = some v := by
  induction m with
  | nil => cases he
  | cons d r ih =>
    obtain ⟨i, w⟩ := d
    unfold mget?
    split
    · exact ⟨w, rfl⟩
    · rcases List.mem_cons.mp he with rfl | hr
      · contradiction
      · exact ih hr

theorem State.ctxs_modCtx_same {s : State} {ctx : Nat} {x : Context} (hx : mget? s.ctxs ctx = some x) (f : Context → Context) :
    mget? (s.modCtx ctx f).ctxs ctx = some (f x) := by
  simp [State.modCtx, hx]

theorem State.queues_modQueue_same {s : State} {n : Nat} {q : Queue} (hq : mget? s.cmd.queues n = some q) (f : Queue → Queue) :
    mget? (s.modQueue n f).cmd.queues n = some (f q) := by
  simp [State.modQueue, hq]

/-! ### What the writes of records leave alone -/

/-- What the command processors hold, and the contexts: no write of memory changes them. -/
def State.hub (s : State) : Command × NatMap Context := (s.cmd, s.ctxs)

@[simp] theorem foldl_hub {α : Type} {f : State → α → State} (hf : ∀ t a, (f t a).hub = t.hub) (l : List α) (s : State) : (l.foldl f s).hub = s.hub := by
  induction l generalizing s with
  | nil => rfl
  | cons a l ih => exact (ih _).trans (hf s a)

@[simp] theorem State.modWarp_hub (s : State) (c slot : Nat) (f : Warp → Warp) : (s.modWarp c slot f).hub = s.hub := by simp [State.hub]

@[simp] theorem State.hbmClaim_hub (s : State) (key line : Nat) : (s.hbmClaim key line).hub = s.hub := by
  unfold State.hbmClaim
  (repeat' split) <;> rfl

@[simp] theorem State.hbmPut_hub (s : State) (key a : Nat) (b : Byte) : (s.hbmPut key a b).hub = s.hub := s.hbmClaim_hub key (a / 128)

@[simp] theorem State.hbmWrite_hub (s : State) (key a : Nat) (bs : List Byte) : (s.hbmWrite key a bs).hub = s.hub := by
  induction bs generalizing s a with
  | nil => rfl
  | cons b bs ih => exact (ih _ _).trans (s.hbmPut_hub key a b)

@[simp] theorem State.memWrite_hub (s : State) (plot : Nat) (sp : Space) (key a : Nat) (bs : List Byte) : (s.memWrite plot sp key a bs).hub = s.hub := by
  cases sp with
  | hbm => exact s.hbmWrite_hub key a bs
  | _ => rfl

@[simp] theorem State.fusedWrite_hub (s : State) (sp : Space) (key pa : Nat) (bs : List Byte) : (s.fusedWrite sp key pa bs).hub = s.hub := by
  unfold State.fusedWrite
  split
  · refine foldl_hub (fun t e => ?_) _ s
    dsimp only
    split <;> rfl
  · rfl

@[simp] theorem State.fireLine_hub (s : State) (key : Nat) : (s.fireLine key).hub = s.hub := by
  unfold State.fireLine
  refine (foldl_hub (fun t core => foldl_hub (fun u slot => ?_) _ t) _ _).trans ?_
  · split
    · rfl
    · split
      · exact State.modWarp_hub u _ _ _
      · rfl
  · split <;> rfl

@[simp] theorem State.setDir_hub (s : State) (key : Nat) (d : DirLine) : (s.setDir key d).hub = s.hub := rfl

@[simp] theorem State.meterHost_hub (s : State) (part : Option Nat) (sp : Space) (toward back : Nat) : (s.meterHost part sp toward back).hub = s.hub := by
  unfold State.meterHost
  (repeat' split) <;> rfl

@[simp] theorem State.performWrite_hub (s : State) (plot : Nat) (sp : Space) (key pa : Nat)
    (bs : List Byte) : (s.performWrite plot sp key pa bs).hub = s.hub := by
  simp [State.performWrite]

@[simp] theorem State.ctxPutBy_hub (s : State) (bad : Bool) (ctx va : Nat) (bs : List Byte) (n : Nat) : (s.ctxPutBy bad ctx va bs n).hub = s.hub := by
  induction n generalizing s va bs with
  | zero => rfl
  | succ n ih =>
    unfold State.ctxPutBy
    split
    · rfl
    · refine (ih _ _ _).trans ?_
      split
      · rfl
      · split
        · rfl
        · simp

@[simp] theorem State.ctxPut_hub (s : State) (ctx va : Nat) (bs : List Byte) : (s.ctxPut ctx va bs).hub = s.hub := by
  unfold State.ctxPut
  split
  · refine (State.ctxPutBy_hub _ _ _ _ _ _).trans ?_
    split <;> rfl
  · exact State.ctxPutBy_hub _ _ _ _ _ _

/-! ### Rings -/

/-- A queue but for what the writes of its ring change. -/
def Queue.apartRing (q : Queue) : Queue := { q with eqwr := 0, eqlost := 0, ringFault := false }

/-- Writes of records: no context changes, and of the queues their rings alone. -/
structure RingsOnly (s t : State) : Prop where
  ctxs : t.ctxs = s.ctxs
  queue : ∀ n, (mget? t.cmd.queues n).map Queue.apartRing = (mget? s.cmd.queues n).map Queue.apartRing
  listed : ∀ e ∈ t.cmd.queues, ∃ d ∈ s.cmd.queues, d.2.apartRing = e.2.apartRing

theorem RingsOnly.trans {s t u : State} (h : RingsOnly s t) (k : RingsOnly t u) : RingsOnly s u where
  ctxs := k.ctxs.trans h.ctxs
  queue n := (k.queue n).trans (h.queue n)
  listed e he := by
    obtain ⟨d, hd, hde⟩ := k.listed e he
    obtain ⟨c, hc, hcd⟩ := h.listed d hd
    exact ⟨c, hc, hcd.trans hde⟩

theorem RingsOnly.of_queues {s t : State} (hx : t.ctxs = s.ctxs) (hq : t.cmd.queues = s.cmd.queues) : RingsOnly s t where
  ctxs := hx
  queue n := by rw [hq]
  listed e he := ⟨e, hq ▸ he, rfl⟩

theorem RingsOnly.refl (s : State) : RingsOnly s s := .of_queues rfl rfl

theorem RingsOnly.of_hub {s t : State} (h : t.hub = s.hub) : RingsOnly s t :=
  have ⟨hcmd, hctxs⟩ := Prod.mk.inj h
  .of_queues hctxs (congrArg Command.queues hcmd)

theorem RingsOnly.modQueue (s : State) (n : Nat) {f : Queue → Queue} (hf : ∀ q, (f q).apartRing = q.apartRing) : RingsOnly s (s.modQueue n f) := by
  unfold State.modQueue
  split
  next q hq =>
    refine ⟨rfl, fun m => ?_, fun e he => ?_⟩
    · simp only [mget?_mset]
      split
      next hm => rw [← hm, hq]; exact congrArg some (hf q)
      next => rfl
    · rcases mem_mset he with rfl | he
      · exact ⟨(n, q), mem_of_mget? hq, (hf q).symm⟩
      · exact ⟨e, he, rfl⟩
  next => exact .refl s

/-- What a queue holds beside its ring, after writes of records. -/
theorem RingsOnly.queueIs {s t : State} (h : RingsOnly s t) {n : Nat} {q : Queue} (hq : mget? s.cmd.queues n = some q) {post : Queue → Prop}
    (hp : ∀ y : Queue, y.apartRing = q.apartRing → post y) : QueueIs t n post := by
  have hn := h.queue n
  rw [hq] at hn
  obtain ⟨y, hy, hyq⟩ := Option.map_eq_some_iff.mp hn
  exact ⟨y, hy, hp y hyq⟩

/-- No queue of a context has an index where none had one before. -/
theorem RingsOnly.queueOf_none {s t : State} (h : RingsOnly s t) {ctx i : Nat} (hq : s.queueOf ctx i = none) : t.queueOf ctx i = none := by
  refine List.find?_eq_none.mpr fun e he => ?_
  obtain ⟨d, hd, hde⟩ := h.listed e he
  have hctx : d.2.ctx = e.2.ctx := show d.2.apartRing.ctx = e.2.apartRing.ctx from congrArg Queue.ctx hde
  have hidx : d.2.idx = e.2.idx := show d.2.apartRing.idx = e.2.apartRing.idx from congrArg Queue.idx hde
  simpa [hctx, hidx] using List.find?_eq_none.mp hq d hd

theorem RingsOnly.ctxWrite {s t : State} {ctx va : Nat} {bs : List Byte} (ht : s.ctxWrite ctx va bs = .ok t) : RingsOnly s t := by
  unfold State.ctxWrite at ht
  split at ht <;> cases ht
  exact .of_hub (s.ctxPut_hub ctx va bs)

theorem RingsOnly.countRequest (s : State) (r : Record) : RingsOnly s (s.countRequest r) := by
  unfold State.countRequest
  split <;> exact .of_queues rfl rfl

theorem RingsOnly.ringWrite {s t : State} {n : Nat} {r : Record} (ht : s.ringWrite n r = some t) : RingsOnly s t := by
  unfold State.ringWrite at ht
  split at ht
  · cases ht
  · split at ht
    · cases ht
    · split at ht
      · cases ht
      next hw =>
        cases ht
        have hq := (RingsOnly.ctxWrite hw).trans
          (.modQueue _ n (f := fun q => { q with eqwr := (q.eqwr + 1) % 2 ^ 32, ringFault := false }) fun _ => rfl)
        split
        · exact hq
        · refine RingsOnly.trans ?_ (.countRequest _ r)
          exact hq.trans (.of_queues rfl rfl)

theorem RingsOnly.markRing (s : State) (n : Nat) : RingsOnly s (s.markRing n) :=
  .modQueue s n fun q => by split <;> rfl

theorem RingsOnly.flushRecs (stuck : List Nat) (rs : List Record) (s : State) : RingsOnly s (flushRecs stuck rs s).1 := by
  induction rs generalizing s stuck with
  | nil => exact .refl s
  | cons r rs ih =>
    unfold Machine.flushRecs
    split
    · exact ih stuck s
    · split
      · exact ih stuck s
      · split
        next ht => exact (RingsOnly.ringWrite ht).trans (ih stuck _)
        · exact (RingsOnly.markRing s _).trans (ih _ _)

theorem RingsOnly.flush (s : State) : RingsOnly s s.flush :=
  (RingsOnly.flushRecs _ s.recQ s).trans (.of_queues rfl rfl)

theorem RingsOnly.map_queues (s : State) {f : Nat × Queue → Nat × Queue} (hk : ∀ e, (f e).1 = e.1) (hv : ∀ e, (f e).2.apartRing = e.2.apartRing) :
    RingsOnly s { s with cmd := { s.cmd with queues := s.cmd.queues.map f } } where
  ctxs := rfl
  queue n := by
    dsimp only
    rw [mget?_map hk, Option.map_map]
    exact Option.map_congr fun q _ => hv (n, q)
  listed e he := by
    obtain ⟨d, hd, rfl⟩ := List.mem_map.mp he
    exact ⟨d, hd, (hv d).symm⟩

theorem RingsOnly.retryRings (s : State) (ctx : Nat) : RingsOnly s (s.retryRings ctx) := by
  refine RingsOnly.trans ?_ (RingsOnly.flush _)
  refine .map_queues s (fun _ => rfl) fun e => ?_
  dsimp only
  split <;> rfl

theorem RingsOnly.notice (s : State) (r : Record) : RingsOnly s (s.notice r) := by
  unfold State.notice
  dsimp only
  split
  · exact .refl s
  · split
    next ht => exact (RingsOnly.ringWrite ht).trans (.of_queues rfl rfl)
    next => exact RingsOnly.modQueue s _ fun q => rfl

end Sys2Proof.Machine

/-! PROOF. ControlPageWrites: each register of the control page by its own lemma, in the order of the statement. -/

namespace Sys2Proof.Machine

/-! ### Queues -/

theorem mget?_of_queueOf {s : State} {ctx i n : Nat} {q : Queue} (h : s.queueOf ctx i = some (n, q)) : ∃ y, mget? s.cmd.queues n = some y :=
  mget?_isSome_of_mem (List.mem_of_find?_eq_some h)

theorem execQdb_within {s : State} {ctx i n value : Nat} {q : Queue} (h : s.queueOf ctx i = some (n, q)) (hh : q.halted = false) (hv : value < 2 ^ 32)
    (hr : (value + 2 ^ 32 - q.qrd) % 2 ^ 32 ≤ 2 ^ q.rlog) : execQdb ctx i value s = .next (s.modQueue n (fun y => { y with qdb := value })) := by
  have hin : ¬(2 ^ q.rlog < (value + 2 ^ 32 - q.qrd) % 2 ^ 32 ∨ 2 ^ 32 ≤ value) := by omega
  simp only [execQdb, h, hh, if_neg hin, Bool.false_eq_true, if_false]

theorem execQdb_beyond {s : State} {ctx i n value : Nat} {q : Queue} (h : s.queueOf ctx i = some (n, q)) (hh : q.halted = false)
    (hr : 2 ^ q.rlog < (value + 2 ^ 32 - q.qrd) % 2 ^ 32) :
    execQdb ctx i value s = .next (s.notice { Record.blank with ctx := ctx, qnum := n, cause := pktFormat }) := by
  simp only [execQdb, h, hh, hr, true_or, Bool.false_eq_true, if_false, if_true]

theorem execEqrd_of_queue {s : State} {ctx i n value : Nat} {q : Queue} (h : s.queueOf ctx i = some (n, q)) :
    execEqrd ctx i value s = .next ((s.modQueue n (fun y => { y with eqrd := value % 2 ^ 32 })).retryRings ctx) := by
  simp only [execEqrd, h]

theorem execEqrd_of_no_queue {s : State} {ctx i value : Nat} (h : s.queueOf ctx i = none) :
    execEqrd ctx i value s = .next ((s.modCtx ctx (fun x => { x with eqrds := mput 0 x.eqrds i (value % 2 ^ 32) })).retryRings ctx) := by
  simp only [execEqrd, h]

theorem sameMemory_modQueue (s : State) (n : Nat) (f : Queue → Queue) : SameMemory s (s.modQueue n f) := by
  have hs : s.SameStores (s.modQueue n f) := by simp [State.SameStores]
  have hc : ∀ core, (s.modQueue n f).core core = s.core core := fun core => by simp [State.core]
  exact ⟨fun _ _ _ _ => hs.memRead _ _ _ _ _, fun core a => by rw [hc], fun core => by rw [hc]⟩

/-- A doorbell within the ring: the count of the queue is the written one. -/
theorem answers_qdb_within {s : State} {ctx i n value : Nat} {q : Queue} (h : s.queueOf ctx i = some (n, q)) (hh : q.halted = false) (hv : value < 2 ^ 32)
    (hr : (value + 2 ^ 32 - q.qrd) % 2 ^ 32 ≤ 2 ^ q.rlog) :
    Answers (.qdb ctx i value) s (fun t => SameMemory s t ∧ QueueIs t n (fun x => x.qdb = value)) := by
  obtain ⟨y, hy⟩ := mget?_of_queueOf h
  exact ⟨_, execQdb_within h hh hv hr, sameMemory_modQueue s n _, _, State.queues_modQueue_same hy _, rfl⟩

/-- A doorbell past the ring is ignored with a NOTICE. -/
theorem answers_qdb_beyond {s : State} {ctx i n value : Nat} {q : Queue} (h : s.queueOf ctx i = some (n, q)) (hh : q.halted = false)
    (hr : 2 ^ q.rlog < (value + 2 ^ 32 - q.qrd) % 2 ^ 32) (hq : mget? s.cmd.queues n = some q) :
    Answers (.qdb ctx i value) s (fun t => QueueIs t n (fun x => x.qdb = q.qdb)) :=
  ⟨_, execQdb_beyond h hh hr, (RingsOnly.notice s _).queueIs hq fun _ hy => (congrArg Queue.qdb hy :)⟩

theorem answers_eqrd {s : State} {ctx i n value : Nat} {q : Queue} (h : s.queueOf ctx i = some (n, q)) :
    Answers (.eqrd ctx i value) s (fun t => QueueIs t n (fun x => x.eqrd = value % 2 ^ 32)) := by
  obtain ⟨y, hy⟩ := mget?_of_queueOf h
  exact ⟨_, execEqrd_of_queue h, (RingsOnly.retryRings _ ctx).queueIs (State.queues_modQueue_same hy _) fun z hz => (congrArg Queue.eqrd hz :)⟩

/-- EQRD where the context has no queue: the field keeps what is written. -/
theorem answers_eqrd_unused {s : State} {ctx i value : Nat} (hi : i < 16) (h : s.queueOf ctx i = none) (hx : (mget? s.ctxs ctx).isSome = true) :
    Answers (.eqrd ctx i value) s (fun t => t.readControl ctx (32 * i + 16) = value % 2 ^ 32) := by
  obtain ⟨x, hx⟩ := Option.isSome_iff_exists.mp hx
  refine ⟨_, execEqrd_of_no_queue h, ?_⟩
  have hr := RingsOnly.retryRings (s.modCtx ctx (fun x => { x with eqrds := mput 0 x.eqrds i (value % 2 ^ 32) })) ctx
  have hq := hr.queueOf_none (ctx := ctx) (i := i) (by simpa only [State.queueOf, State.modCtx_cmd] using h)
  have hlt : 32 * i + 16 < 0x200 := by omega
  have hdiv : (32 * i + 16) / 32 = i := by omega
  have hmod : (32 * i + 16) % 32 = 16 := by omega
  simp only [State.readControl, hr.ctxs, State.ctxs_modCtx_same hx, if_pos hlt, hdiv, hq, hmod, if_true, mgetD_mput_same]

theorem answers_qreset {s : State} {ctx n value : Nat} {q : Queue} (hq : mget? s.cmd.queues n = some q) (hc : q.ctx = ctx) (hb : hasBit value q.idx = true)
    (hh : q.halted = true) : Answers (.qreset ctx value) s (fun t => QueueIs t n (fun x => x.halted = false ∧ x.qrd = q.qdb ∧ x.packet = none)) := by
  refine ⟨_, rfl, (RingsOnly.retryRings _ ctx).queueIs (q := { q with qrd := q.qdb, halted := false, packet := none, block := none }) ?_
    fun y hy => ⟨(congrArg Queue.halted hy :), (congrArg Queue.qrd hy :), (congrArg Queue.packet hy :)⟩⟩
  dsimp only
  rw [mget?_map, hq]
  · simp [hc, hb, hh]
  · exact fun _ => rfl

/-! ### Host writes -/

theorem State.hostWrite_of_quiescing {s : State} (h : s.quiescing = true) (x : HostWrite) :
    s.hostWrite x = { s with cmd := { s.cmd with latched := s.cmd.latched ++ [x] } } := if_pos h

theorem State.hostWrite_of_not_quiescing {s : State} (h : s.quiescing = false) (x : HostWrite) : s.hostWrite x = s.takeWrite x := by
  simp [State.hostWrite, h]

theorem answers_latched {s : State} {i : Instr} {x : HostWrite} (hi : exec i s = .next (s.hostWrite x)) (h : s.quiescing = true) :
    Answers i s (fun t => t = { s with cmd := { s.cmd with latched := s.cmd.latched ++ [x] } }) :=
  ⟨_, hi, State.hostWrite_of_quiescing h x⟩

theorem execMbxdata_of_ctx {s : State} {ctx value : Nat} {x : Context} (hx : mget? s.ctxs ctx = some x) :
    execMbxdata ctx value s = .next (s.hostWrite (.mailbox x.part x.mbxIdx value)) := by
  simp only [execMbxdata, hx]

/-! ### Answers to the record of a warp -/

theorem Warp.answer_resume {w : Warp} {e : Nat} {sp : Split} {seq : Nat} (hs : w.splits = [(e, sp)]) (hp : sp.status = .parked (.record seq)) :
    w.answer seq .resume = { w with splits := [(e, { sp with status := .ready })] } := by
  simp [Warp.answer, hs, hp, mset]

theorem getElem?_modAt {α : Type} (l : List α) (n k : Nat) (f : α → α) : (modAt l n f)[k]? = if n = k then l[k]?.map f else l[k]? := by
  induction l generalizing n k with
  | nil => simp [modAt]
  | cons a l ih => cases n <;> cases k <;> simp [modAt, ih]

/-- A change of several places of a list, each named once. -/
theorem getElem?_foldl_modAt {α : Type} (f : α → α) {ns : List Nat} (hn : ns.Nodup) (l : List α) (k : Nat) :
    (ns.foldl (fun l n => modAt l n f) l)[k]? = if k ∈ ns then l[k]?.map f else l[k]? := by
  induction ns generalizing l with
  | nil => simp
  | cons n ns ih =>
    obtain ⟨hmem, hns⟩ := List.nodup_cons.mp hn
    rw [List.foldl_cons, ih hns, getElem?_modAt]
    by_cases hk : n = k
    · subst hk
      simp [hmem]
    · simp [hk, Ne.symm hk]

theorem Warp.foldl_modStrand (w : Warp) (ls : List Nat) (f : Strand → Strand) :
    ls.foldl (fun (w : Warp) l => w.modStrand l f) w = { w with strands := ls.foldl (fun ss l => modAt ss l f) w.strands } := by
  induction ls generalizing w with
  | nil => rfl
  | cons l ls ih => exact ih _

/-- The strands of a mask have gone on behind the instruction at which they stood. -/
def Warp.skipped (w : Warp) (mask : Nat) : List Strand :=
  (bitsList 16 mask).foldl (fun ss l => modAt ss l (fun st => { st with pc := st.pc + 4 })) w.strands

theorem Warp.answer_skip {w : Warp} {e : Nat} {sp : Split} {seq : Nat} (hs : w.splits = [(e, sp)]) (hp : sp.status = .parked (.record seq)) :
    w.answer seq .skip = { w with strands := w.skipped sp.strands, splits := [(e, { sp with status := .ready, replay := none })] } := by
  simp [Warp.answer, hs, hp, mset, Warp.foldl_modStrand, Warp.skipped]

theorem Warp.pc_skipped (w : Warp) (mask : Nat) {l : Nat} (hl : l < 16) (hw : l < w.strands.length) :
    (((w.skipped mask)[l]?).getD Strand.idle).pc = (w.strand l).pc + (if hasBit mask l then 4 else 0) := by
  have hmem : l ∈ bitsList 16 mask ↔ hasBit mask l = true := by simp [bitsList, upto, hl]
  have hnodup : (bitsList 16 mask).Nodup := List.nodup_range.filter _
  rw [Warp.skipped, getElem?_foldl_modAt _ hnodup, Warp.strand]
  simp only [hmem, List.getElem?_eq_getElem hw]
  split <;> simp

theorem Warp.answer_abort {w : Warp} {e : Nat} {sp : Split} {seq : Nat} (hs : w.splits = [(e, sp)]) (hp : sp.status = .parked (.record seq)) :
    w.answer seq .abort = { w with splits := [], trap := none, strands := w.strands.map (fun st => { st with active := 0, stack := [] }) } := by
  simp [Warp.answer, hs, hp]

/-! ### Every warp that stands under a record -/

/-- The warps that stand under a record, by core and slot. -/
def State.under (s : State) (ctx seq : Nat) : List (Nat × Nat) :=
  s.cores.flatMap (fun c => (c.2.warps.filter (fun w => w.2.under ctx seq)).map (fun w => (c.1, w.1)))

theorem State.listed_of_warp? {s : State} {core slot : Nat} {w : Warp} (hw : s.warp? core slot = some w) : mget? s.cores core = some (s.core core) := by
  cases hc : mget? s.cores core with
  | none => simp [State.warp?, State.core, mgetD, hc, Core.initial] at hw
  | some k => simp [State.core, mgetD, hc]

theorem State.mem_under {s : State} {ctx seq core slot : Nat} {w : Warp} (hw : s.warp? core slot = some w) (hu : w.under ctx seq = true) :
    (core, slot) ∈ s.under ctx seq :=
  List.mem_flatMap.mpr ⟨_, mem_of_mget? (State.listed_of_warp? hw), List.mem_map.mpr ⟨_, List.mem_filter.mpr ⟨mem_of_mget? hw, hu⟩, rfl⟩⟩

/-- Warps changed in turn: one that a second change would leave as it is has been changed just where it is listed. -/
theorem State.warp?_foldl_modWarp {s : State} {core slot : Nat} {w : Warp} {f : Warp → Warp} (hf : f (f w) = f w) (places : List (Nat × Nat))
    (hw : s.warp? core slot = some w) :
    (places.foldl (fun s x => s.modWarp x.1 x.2 f) s).warp? core slot = some (if (core, slot) ∈ places then f w else w) := by
  induction places generalizing s w with
  | nil => simpa using hw
  | cons x places ih =>
    rw [List.foldl_cons]
    by_cases hx : (core, slot) = x
    · subst hx
      rw [ih (congrArg f hf) (State.warp?_modWarp_same f hw)]
      simp [hf]
    · have hne : x.1 ≠ core ∨ x.2 ≠ slot := by
        by_contra hc
        push Not at hc
        exact hx (Prod.ext hc.1.symm hc.2.symm)
      rw [ih hf ((State.warp?_modWarp_other s f hne).trans hw)]
      simp [hx]

/-! ### Warps that an abort ends -/

/-- What an abort does at one warp: its threads end, its pricking closes, and where nothing of it is on its way it leaves its slot. -/
def State.abortAt (s : State) (seq : Nat) (x : Nat × Nat) : State :=
  ((s.modWarp x.1 x.2 (fun w => w.answer seq .abort)).abortPricking x.1 x.2).reap x.1 x.2

theorem State.warp?_modCore_of_warps (s : State) (c core slot : Nat) {f : Core → Core} (hf : ∀ k, (f k).warps = k.warps) :
    (s.modCore c f).warp? core slot = s.warp? core slot := by
  by_cases h : c = core
  · subst h
    simp [State.warp?, hf]
  · exact s.warp?_modCore_other f slot h

theorem State.warp?_of_cores {s t : State} (h : t.cores = s.cores) (core slot : Nat) : t.warp? core slot = s.warp? core slot := by
  simp only [State.warp?, State.core, h]

@[simp] theorem State.warp?_orphan (s : State) (c d lane core slot : Nat) : (s.orphan c d lane).warp? core slot = s.warp? core slot := by
  unfold State.orphan
  extract_lets t
  refine (State.warp?_of_cores (s := t) rfl core slot).trans (s.warp?_modCore_of_warps c core slot ?_)
  exact fun _ => rfl

theorem State.warp?_foldl {α : Type} {f : State → α → State} (core slot : Nat) (hf : ∀ t a, (f t a).warp? core slot = t.warp? core slot) (l : List α)
    (s : State) : (l.foldl f s).warp? core slot = s.warp? core slot := by
  induction l generalizing s with
  | nil => rfl
  | cons a l ih => exact (ih _).trans (hf s a)

@[simp] theorem State.warp?_abortPricking (s : State) (c d core slot : Nat) : (s.abortPricking c d).warp? core slot = s.warp? core slot := by
  unfold State.abortPricking
  split
  · rfl
  · split
    · rfl
    · extract_lets t
      refine (t.warp?_modCore_of_warps c core slot ?_).trans (State.warp?_foldl core slot (fun t l => t.warp?_orphan c d l core slot) _ s)
      exact fun _ => rfl

@[simp] theorem State.warp?_writeBack (s : State) (c wg : Nat) (l : L1Line) (core slot : Nat) : (s.writeBack c wg l).warp? core slot = s.warp? core slot := by
  unfold State.writeBack
  split
  · rfl
  · extract_lets e t
    refine (State.warp?_of_cores (s := t) rfl core slot).trans (s.warp?_modCore_of_warps c core slot ?_)
    exact fun _ => rfl

theorem State.warp?_endWarp_same (s : State) (core slot : Nat) : (s.endWarp core slot).warp? core slot = none := by
  unfold State.endWarp
  extract_lets mine wg t u
  refine (State.warp?_of_cores (s := u) (u.modWg_cores wg _) core slot).trans ?_
  simp [u, State.warp?]

theorem State.warp?_endWarp_other (s : State) {c d core slot : Nat} (h : c ≠ core ∨ d ≠ slot) : (s.endWarp c d).warp? core slot = s.warp? core slot := by
  unfold State.endWarp
  extract_lets mine wg t u
  refine (State.warp?_of_cores (s := u) (u.modWg_cores wg _) core slot).trans ?_
  have ht : t.warp? core slot = s.warp? core slot := State.warp?_foldl core slot (fun t l => t.warp?_writeBack c wg l core slot) _ s
  rw [← ht]
  by_cases hc : c = core
  · subst hc
    simp [u, State.warp?, mget?_mdel_other _ (h.resolve_left (by simp))]
  · exact t.warp?_modCore_other _ slot hc

theorem State.warp?_reap_other (s : State) {c d core slot : Nat} (h : c ≠ core ∨ d ≠ slot) : (s.reap c d).warp? core slot = s.warp? core slot := by
  unfold State.reap
  split
  · split
    · exact s.warp?_endWarp_other h
    · rfl
  · rfl

theorem State.warp?_reap_none {s : State} {core slot : Nat} (h : s.warp? core slot = none) (c d : Nat) : (s.reap c d).warp? core slot = none := by
  by_cases hx : c = core ∧ d = slot
  · obtain ⟨rfl, rfl⟩ := hx
    unfold State.reap
    rw [h]
    exact h
  · exact (s.warp?_reap_other (not_and_or.mp hx)).trans h

theorem State.warp?_reap_idle {s : State} {core slot : Nat} {w : Warp} (hw : s.warp? core slot = some w) (hs : w.splits = []) (hl : w.loads = 0)
    (hst : w.stores = 0)
    (hc : w.copies = 0) (ht : w.tiles = 0) : (s.reap core slot).warp? core slot = none := by
  unfold State.reap
  rw [hw]
  simpa [hs, hl, hst, hc, ht] using s.warp?_endWarp_same core slot

theorem State.warp?_modWarp_none {s : State} {core slot : Nat} (h : s.warp? core slot = none) (c d : Nat) (f : Warp → Warp) :
    (s.modWarp c d f).warp? core slot = none := by
  by_cases hx : c = core ∧ d = slot
  · obtain ⟨rfl, rfl⟩ := hx
    unfold State.modWarp
    rw [h]
    exact h
  · exact (s.warp?_modWarp_other f (not_and_or.mp hx)).trans h

theorem State.warp?_abortAt_none {s : State} {core slot : Nat} (h : s.warp? core slot = none) (seq : Nat) (x : Nat × Nat) :
    (s.abortAt seq x).warp? core slot = none :=
  State.warp?_reap_none ((State.warp?_abortPricking _ _ _ _ _).trans (State.warp?_modWarp_none h _ _ _)) _ _

theorem State.warp?_abortAt_other (s : State) (seq : Nat) {x : Nat × Nat} {core slot : Nat} (h : x.1 ≠ core ∨ x.2 ≠ slot) :
    (s.abortAt seq x).warp? core slot = s.warp? core slot :=
  (State.warp?_reap_other _ h).trans ((State.warp?_abortPricking _ _ _ _ _).trans (s.warp?_modWarp_other _ h))

theorem State.warp?_abortAt_same {s : State} {seq core slot e : Nat} {w : Warp} {sp : Split} (hw : s.warp? core slot = some w) (hs : w.splits = [(e, sp)])
    (hp : sp.status = .parked (.record seq)) (hl : w.loads = 0) (hst : w.stores = 0) (hc : w.copies = 0) (ht : w.tiles = 0) :
    (s.abortAt seq (core, slot)).warp? core slot = none := by
  refine State.warp?_reap_idle ((State.warp?_abortPricking _ _ _ _ _).trans (State.warp?_modWarp_same _ hw)) ?_ ?_ ?_ ?_ ?_ <;>
    simp [Warp.answer_abort hs hp, hl, hst, hc, ht]

theorem State.warp?_foldl_abortAt {s : State} {seq core slot e : Nat} {w : Warp} {sp : Split} (hw : s.warp? core slot = some w) (hs : w.splits = [(e, sp)])
    (hp : sp.status = .parked (.record seq)) (hl : w.loads = 0) (hst : w.stores = 0) (hc : w.copies = 0) (ht : w.tiles = 0) {places : List (Nat × Nat)}
    (hx : (core, slot) ∈ places) : (places.foldl (fun s x => s.abortAt seq x) s).warp? core slot = none := by
  induction places generalizing s with
  | nil => cases hx
  | cons x places ih =>
    rw [List.foldl_cons]
    by_cases he : (core, slot) = x
    · subst he
      have hn := State.warp?_abortAt_same hw hs hp hl hst hc ht
      exact List.foldlRecOn (motive := fun t : State => t.warp? core slot = none) places _ hn fun t ht x _ => State.warp?_abortAt_none ht seq x
    · have hne : x.1 ≠ core ∨ x.2 ≠ slot := by
        by_contra hc
        push Not at hc
        exact he (Prod.ext hc.1.symm hc.2.symm)
      exact ih ((s.warp?_abortAt_other seq hne).trans hw) ((List.mem_cons.mp hx).resolve_left he)

/-! ### The answers of EQANS -/

theorem State.foldl_modWarp_recOpen (s : State) (f : Warp → Warp) (places : List (Nat × Nat)) :
    (places.foldl (fun s x => s.modWarp x.1 x.2 f) s).recOpen = s.recOpen := by
  induction places generalizing s with
  | nil => rfl
  | cons x places ih => exact (ih _).trans (s.modWarp_recOpen _ _ _)

/-- An answer that lets a warp go on changes the warps under its record, and the images of those that are saved. -/
theorem State.answerWarp_goesOn (s : State) (r : Record) {a : Answer} (ha : a ≠ .abort) : ∃ wgs, s.answerWarp r a =
    (s.under r.ctx r.seq).foldl (fun s x => s.modWarp x.1 x.2 (fun w => w.answer r.seq a)) { s with wgs := wgs } := by
  cases a with
  | abort => contradiction
  | _ => exact ⟨_, rfl⟩

theorem State.warp?_answerWarp {s : State} {r : Record} {a : Answer} {core slot : Nat} {w : Warp} (ha : a ≠ .abort) (hw : s.warp? core slot = some w)
    (hu : w.under r.ctx r.seq = true) (hf : (w.answer r.seq a).answer r.seq a = w.answer r.seq a) :
    (s.answerWarp r a).warp? core slot = some (w.answer r.seq a) := by
  obtain ⟨wgs, he⟩ := s.answerWarp_goesOn r ha
  rw [he, State.warp?_foldl_modWarp (s := { s with wgs := wgs }) (f := fun w => w.answer r.seq a) hf _ hw, if_pos (State.mem_under hw hu)]

@[simp] theorem State.abortLease_cores (s : State) (ctx gone : Nat) : (s.abortLease ctx gone).cores = s.cores := by
  unfold State.abortLease State.returnLease
  (repeat' split) <;> simp

theorem State.warp?_answerWarp_abort {s : State} {r : Record} {core slot e : Nat} {w : Warp} {sp : Split} (hw : s.warp? core slot = some w)
    (hu : w.under r.ctx r.seq = true) (hs : w.splits = [(e, sp)]) (hp : sp.status = .parked (.record r.seq)) (hl : w.loads = 0) (hst : w.stores = 0)
    (hc : w.copies = 0) (ht : w.tiles = 0) : (s.answerWarp r .abort).warp? core slot = none := by
  unfold State.answerWarp
  extract_lets t places u
  have hn : u.warp? core slot = none := State.warp?_foldl_abortAt (s := t) (seq := r.seq) hw hs hp hl hst hc ht (State.mem_under hw hu)
  split
  · extract_lets gone
    split
    · exact (State.warp?_of_cores (State.abortLease_cores _ _ _) core slot).trans hn
    · exact hn
  · exact hn

/-- EQANS for a record of a warp, with no latch. -/
theorem State.takeWrite_answer {s : State} {ctx seq act : Nat} {r : Record}
    (hr : s.recOpen.find? (fun r => r.ctx == ctx && r.seq == seq && r.kind.answered) = some r)
    (hk : r.kind = .warp) : s.takeWrite (.answer ctx seq act) =
      ({ s with recOpen := s.recOpen.erase r } : State).answerWarp r (if act = 0 then .resume else if act = 1 then .skip else .abort) := by
  simp only [State.takeWrite, State.answerRecord, hr, hk]

theorem State.names_of_find? {s : State} {ctx seq : Nat} {r : Record} {p : RecordKind → Bool}
    (hr : s.recOpen.find? (fun r => r.ctx == ctx && r.seq == seq && p r.kind) = some r) : r.ctx = ctx ∧ r.seq = seq := by
  have h := List.find?_some hr
  simp only [Bool.and_eq_true, beq_iff_eq] at h
  exact h.1

theorem Warp.under_of_parked {w : Warp} {ctx seq e : Nat} {sp : Split} (hc : w.ctx = ctx) (hs : w.splits = [(e, sp)])
    (hp : sp.status = .parked (.record seq)) : w.under ctx seq = true := by
  simp [Warp.under, hc, hs, hp]

theorem Warp.answer_of_not_parked {w : Warp} {e seq : Nat} {sp : Split} {a : Answer} (hs : w.splits = [(e, sp)]) (hp : sp.status ≠ .parked (.record seq)) :
    w.answer seq a = w := by
  simp [Warp.answer, hs, hp]

section
variable {s : State} {ctx seq core slot e : Nat} {r : Record} {w : Warp} {sp : Split} (hq : s.quiescing = false)
  (hr : s.recOpen.find? (fun r => r.ctx == ctx && r.seq == seq && r.kind.answered) = some r) (hk : r.kind = .warp) (hw : s.warp? core slot = some w)
  (hc : w.ctx = ctx) (hs : w.splits = [(e, sp)]) (hp : sp.status = .parked (.record seq))
include hq hr hk hw hc hs hp

theorem answers_eqansResume : Answers (.eqansResume ctx seq) s (fun t => t.recOpen = s.recOpen.erase r ∧
    ∃ w', t.warp? core slot = some w' ∧ w'.splits = [(e, { sp with status := .ready })] ∧ w'.strands = w.strands) := by
  obtain ⟨rfl, rfl⟩ := State.names_of_find? hr
  have ha := Warp.answer_resume hs hp
  refine ⟨_, congrArg Host.Outcome.next ((State.hostWrite_of_not_quiescing hq _).trans (State.takeWrite_answer hr hk)), ?_, _,
    State.warp?_answerWarp (by decide) hw (Warp.under_of_parked hc hs hp) ?_, ?_⟩
  · obtain ⟨wgs, he⟩ := ({ s with recOpen := s.recOpen.erase r } : State).answerWarp_goesOn r (a := .resume) (by decide)
    exact (congrArg State.recOpen he).trans (State.foldl_modWarp_recOpen _ _ _)
  · exact Warp.answer_of_not_parked (sp := { sp with status := .ready }) (by rw [if_pos rfl, ha]) (by simp)
  · simp [ha]

theorem answers_eqansSkip : Answers (.eqansSkip ctx seq) s (fun t => ∃ w', t.warp? core slot = some w' ∧
    w'.splits = [(e, { sp with status := .ready, replay := none })] ∧
    ∀ l, l < 16 → l < w.strands.length → (w'.strand l).pc = (w.strand l).pc + (if hasBit sp.strands l then 4 else 0)) := by
  obtain ⟨rfl, rfl⟩ := State.names_of_find? hr
  have ha := Warp.answer_skip hs hp
  refine ⟨_, congrArg Host.Outcome.next ((State.hostWrite_of_not_quiescing hq _).trans (State.takeWrite_answer hr hk)), _,
    State.warp?_answerWarp (by decide) hw (Warp.under_of_parked hc hs hp) ?_, ?_⟩
  · exact Warp.answer_of_not_parked (sp := { sp with status := .ready, replay := none }) (by rw [if_neg Nat.one_ne_zero, if_pos rfl, ha]) (by simp)
  · simp only [if_neg Nat.one_ne_zero, if_true, ha, true_and]
    exact fun l hl hw => w.pc_skipped sp.strands hl hw

theorem answers_eqansAbort (hl : w.loads = 0) (hst : w.stores = 0) (hcp : w.copies = 0) (ht : w.tiles = 0) :
    Answers (.eqansAbort ctx seq) s (fun t => t.warp? core slot = none) := by
  obtain ⟨rfl, rfl⟩ := State.names_of_find? hr
  exact ⟨_, congrArg Host.Outcome.next ((State.hostWrite_of_not_quiescing hq _).trans (State.takeWrite_answer hr hk)),
    State.warp?_answerWarp_abort (s := { s with recOpen := s.recOpen.erase r }) hw (Warp.under_of_parked hc hs hp) hs hp hl hst hcp ht⟩

end

/-! ### Answers to page requests -/

theorem State.core_of_map {s t : State} {f : Nat × Core → Nat × Core} (ht : t.cores = s.cores.map f) (hf : ∀ e, (f e).1 = e.1) {core : Nat} {k : Core}
    (hk : mget? s.cores core = some k) : t.core core = (f (core, k)).2 := by
  rw [State.core, ht, mgetD, mget?_map hf, hk]
  rfl

theorem Warp.splits_mapWaits {w : Warp} {e : Nat} {sp : Split} {x : Wait} (he : mget? w.splits e = some sp) (hp : sp.status = .parked x) (f : Wait → Wait) :
    mget? (w.mapWaits f).splits e = some { sp with status := .parked (f x) } := by
  unfold Warp.mapWaits
  dsimp only
  rw [mget?_map, he]
  · simp [hp]
  · intro d
    split <;> rfl

/-- A page request is answered in the splits that wait for it. -/
theorem State.warp?_answerPage {s : State} {ctx core slot : Nat} {w : Warp} (hw : s.warp? core slot = some w) (hc : w.ctx = ctx) (seq : Nat)
    (a : PageAnswer) :
    (s.answerPage ctx seq a).warp? core slot = some (w.mapWaits (Wait.answerPage seq a)) := by
  have hcore : (s.answerPage ctx seq a).core core = _ := State.core_of_map rfl (by intro; rfl) (State.listed_of_warp? hw)
  rw [State.warp?, hcore]
  dsimp only
  rw [mget?_map, show mget? (s.core core).warps slot = some w from hw]
  · simp [hc]
  · exact fun _ => rfl

/-- FSREPLY for a request that waits, with no latch. -/
theorem State.replyPage_of_find? {s : State} {ctx seq : Nat} {r : Record}
    (hr : s.recOpen.find? (fun r => r.ctx == ctx && r.seq == seq && r.kind == .pagereq) = some r)
    (a : PageAnswer) : s.replyPage ctx seq a = ({ s with recOpen := s.recOpen.erase r } : State).answerPage ctx seq a := by
  simp only [State.replyPage, hr]

/-- The place where a page request waits, once it is answered. -/
theorem State.asks_replyPage {s : State} {ctx seq core slot e : Nat} {r : Record} {w : Warp} {sp : Split} {asks : List PageAsk}
    (hr : s.recOpen.find? (fun r => r.ctx == ctx && r.seq == seq && r.kind == .pagereq) = some r) (hw : s.warp? core slot = some w) (hc : w.ctx = ctx)
    (hs : mget? w.splits e = some sp) (hp : sp.status = .parked (.page asks)) (a : PageAnswer) :
    ∃ w' sp', (s.replyPage ctx seq a).warp? core slot = some w' ∧ mget? w'.splits e = some sp' ∧
      sp'.status = .parked (.page (asks.map (fun x => if x.seq = seq then { x with answer := a } else x))) := by
  rw [State.replyPage_of_find? hr]
  exact ⟨_, _, State.warp?_answerPage (s := { s with recOpen := s.recOpen.erase r }) hw hc seq a, Warp.splits_mapWaits hs hp _, rfl⟩

section
variable {s : State} {ctx seq core slot e : Nat} {r : Record} {w : Warp} {sp : Split} {asks : List PageAsk} (hq : s.quiescing = false)
  (hr : s.recOpen.find? (fun r => r.ctx == ctx && r.seq == seq && r.kind == .pagereq) = some r) (hw : s.warp? core slot = some w) (hc : w.ctx = ctx)
  (hs : mget? w.splits e = some sp) (hp : sp.status = .parked (.page asks))
include hq hr hw hc hs hp

theorem answers_fsreplyRetry : Answers (.fsreplyRetry ctx seq) s (fun t => ∃ w' sp', t.warp? core slot = some w' ∧ mget? w'.splits e = some sp' ∧
    sp'.status = .parked (.page (asks.map (fun x => if x.seq = seq then { x with answer := .retry } else x)))) :=
  ⟨_, congrArg Host.Outcome.next (State.hostWrite_of_not_quiescing hq _), State.asks_replyPage hr hw hc hs hp .retry⟩

/-- A declined request counts in PGDECL of the partition of the context. -/
theorem answers_fsreplyDecline {x : Context} (hx : mget? s.ctxs ctx = some x) : Answers (.fsreplyDecline ctx seq) s (fun t =>
    (∃ w' sp', t.warp? core slot = some w' ∧ mget? w'.splits e = some sp' ∧
      sp'.status = .parked (.page (asks.map (fun x => if x.seq = seq then { x with answer := .decline } else x)))) ∧
    t.counter x.part .pgdecl = (s.counter x.part .pgdecl + 1) % 2 ^ 64) := by
  have ht : s.takeWrite (.page ctx seq true) = (s.replyPage ctx seq .decline).count x.part .pgdecl 1 := by
    have hpart : (s.replyPage ctx seq .decline).ctxPart ctx = x.part := by
      rw [State.replyPage_of_find? hr]
      exact (by simp [State.ctxPart, hx] : s.ctxPart ctx = x.part)
    have hknown : s.recOpen.any (fun r => r.ctx == ctx && r.seq == seq && r.kind == .pagereq) = true :=
      List.any_eq_true.mpr ⟨r, List.mem_of_find?_eq_some hr, (List.find?_some hr :)⟩
    simp only [State.takeWrite, hknown, Bool.and_self, if_true, hpart]
  refine ⟨_, congrArg Host.Outcome.next ((State.hostWrite_of_not_quiescing hq _).trans ht), State.asks_replyPage hr hw hc hs hp .decline, ?_⟩
  rw [State.counter_count_same, State.replyPage_of_find? hr]
  rfl

end

/-! ### Invalidations -/

theorem answers_tlbinv {s : State} {ctx value : Nat} {x : Context} (hx : mget? s.ctxs ctx = some x) : Answers (.tlbinv ctx value) s (fun t =>
    ∃ x', mget? t.ctxs ctx = some x' ∧ x'.tlbPend = x.tlbPend ++ [(value / 4096 % 2 ^ 52, value % 8)]) := by
  refine ⟨_, rfl, { x with tlbPend := x.tlbPend ++ [(value / 4096 % 2 ^ 52, value % 8)] }, ?_, rfl⟩
  rw [(RingsOnly.retryRings _ ctx).ctxs]
  exact State.ctxs_modCtx_same hx _

/-- The state in which no translation cache holds a page of a context any longer. -/
def State.forgetPage (s : State) (ctx page size : Nat) : State :=
  { s with cores := s.cores.map (fun c => (c.1, { c.2 with tlb := c.2.tlb.filter (fun t => !t.within ctx page size) })) }

/-- A core that the machine lists holds none of the page's translations, and any other holds none at all. -/
theorem State.within_forgetPage {s : State} {ctx page size core : Nat} {e : TlbEntry} (he : e ∈ ((s.forgetPage ctx page size).core core).tlb) :
    e.within ctx page size = false := by
  simp only [State.core, State.forgetPage, mgetD] at he
  rw [mget?_map (by intro; rfl)] at he
  cases hc : mget? s.cores core with
  | none => simp [hc, Core.initial] at he
  | some k =>
    simp only [hc, Option.map_some, Option.getD_some, List.mem_filter, Bool.not_eq_true'] at he
    exact he.2

theorem execTlbinvComplete_of_pending {s : State} {ctx page size : Nat} {rest : List (Nat × Nat)} {x : Context} (hx : mget? s.ctxs ctx = some x)
    (hp : x.tlbPend = (page, size) :: rest) :
    execTlbinvComplete ctx s = .next ((s.forgetPage ctx page size).modCtx ctx (fun x => { x with tlbPend := x.tlbPend.drop 1 })) := by
  simp only [execTlbinvComplete, hx, Option.bind_some, hp, List.head?_cons, State.forgetPage]

theorem answers_tlbinvComplete {s : State} {ctx page size : Nat} {rest : List (Nat × Nat)} {x : Context} (hx : mget? s.ctxs ctx = some x)
    (hp : x.tlbPend = (page, size) :: rest) : Answers (.tlbinvComplete ctx) s (fun t => mget? t.ctxs ctx = some { x with tlbPend := rest } ∧
      ∀ core, ∀ e ∈ (t.core core).tlb, e.within ctx page size = false) := by
  refine ⟨_, execTlbinvComplete_of_pending hx hp, ?_, fun core e he => State.within_forgetPage (s := s) (core := core) ?_⟩
  · rw [State.ctxs_modCtx_same (s := s.forgetPage ctx page size) hx, hp]
    rfl
  · simpa only [State.core, State.modCtx_cores] using he

/-! ### The registers of the control page -/

theorem answers_mbxdata {s : State} {ctx value : Nat} {x : Context} (hx : mget? s.ctxs ctx = some x) (hq : s.quiescing = false) :
    Answers (.mbxdata ctx value) s (fun t => t.mboxWord x.part x.mbxIdx = (true, value % 2 ^ 64)) := by
  refine ⟨_, (execMbxdata_of_ctx hx).trans (congrArg Host.Outcome.next (State.hostWrite_of_not_quiescing hq _)), ?_⟩
  simp [State.takeWrite, State.setMbox, State.mboxWord]

theorem execMecarve_allowed {s : State} {ctx value : Nat} {x : Context} {p : Partition} (hx : mget? s.ctxs ctx = some x) (hp : mget? s.parts x.part = some p)
    (hv : value % 8 < 5) (hb : hasBit p.carvok (value % 8) = true) : execMecarve ctx value s = .next
      { s.modCtx ctx (fun x => { x with carve := value % 8 }) with
        cores := s.cores.map (fun c => (c.1, if c.2.warps.any (fun w => w.2.ctx == ctx) then { c.2 with carveTo := value % 8 } else c.2)) } := by
  simp [execMecarve, hx, hp, hb, Nat.not_le.mpr hv]

theorem answers_mecarve_allowed {s : State} {ctx value : Nat} {x : Context} {p : Partition} (hx : mget? s.ctxs ctx = some x)
    (hp : mget? s.parts x.part = some p)
    (hv : value % 8 < 5) (hb : hasBit p.carvok (value % 8) = true) : Answers (.mecarve ctx value) s (fun t =>
      mget? t.ctxs ctx = some { x with carve := value % 8 } ∧
      ∀ core slot w, s.warp? core slot = some w → w.ctx = ctx → (t.core core).carveTo = value % 8) := by
  refine ⟨_, execMecarve_allowed hx hp hv hb, State.ctxs_modCtx_same hx _, fun core slot w hw hc => ?_⟩
  refine (congrArg Core.carveTo (State.core_of_map (s := s) rfl (by intro; rfl) (State.listed_of_warp? hw))).trans ?_
  have hany : (s.core core).warps.any (fun w => w.2.ctx == ctx) = true := List.any_eq_true.mpr ⟨_, mem_of_mget? hw, by simpa using hc⟩
  simp [hany]

theorem answers_mecarve_refused {s : State} {ctx value : Nat} {x : Context} {p : Partition} (hx : mget? s.ctxs ctx = some x)
    (hp : mget? s.parts x.part = some p)
    (hv : 5 ≤ value % 8 ∨ hasBit p.carvok (value % 8) = false) : Answers (.mecarve ctx value) s (fun t => t = s) := by
  refine ⟨s, ?_, rfl⟩
  show execMecarve ctx value s = _
  simp [execMecarve, hx, hp, hv]

theorem answers_psdata {s : State} {ctx value : Nat} {x : Context} (hx : mget? s.ctxs ctx = some x) :
    Answers (.psdata ctx value) s (fun t => mgetD t.cmd.scratch x.psKey 0 = value % 2 ^ 64) := by
  refine ⟨(s.putScratch [(x.psKey, value % 2 ^ 64)]).looseLine x.psKey, ?_, ?_⟩
  · show execPsdata ctx value s = _
    simp only [execPsdata, hx]
  · simp [State.putScratch, State.looseLine]

theorem answers_registerWrite_mbxidx {s : State} {ctx value : Nat} {x : Context} (hx : mget? s.ctxs ctx = some x) (hyper : Bool) :
    Answers (.registerWrite (.control ctx hyper) 0x228 value) s (fun t => mget? t.ctxs ctx = some { x with mbxIdx := value % 2 ^ 13 }) :=
  ⟨_, rfl, State.ctxs_modCtx_same hx _⟩

theorem answers_registerWrite_psidx {s : State} {ctx value : Nat} {x : Context} (hx : mget? s.ctxs ctx = some x) :
    Answers (.registerWrite (.control ctx true) 0x240 value) s (fun t => mget? t.ctxs ctx = some { x with psIdx := value % 2 ^ 8 }) :=
  ⟨_, rfl, State.ctxs_modCtx_same hx _⟩

/-- A write of a control page at an offset that lists no plain register. -/
theorem answers_registerWrite_unlisted (s : State) (ctx value : Nat) (hyper : Bool) {off : Nat} (h1 : off ≠ 0x228) (h2 : off ≠ 0x240) (h3 : off ≠ 0x250) :
    Answers (.registerWrite (.control ctx hyper) off value) s (fun t => t = s) := by
  refine ⟨s, ?_, rfl⟩
  show Host.Outcome.next (s.writeControl ctx hyper off value) = _
  simp only [State.writeControl, if_neg h1, if_neg h2, if_neg h3]

/-- PWRCAP takes a cap within its range alone. -/
theorem answers_registerWrite_cap (s : State) (value : Nat) : Answers (.registerWrite .power 0x008 value) s (fun t =>
    t.pwr.cap = if 1000 ≤ value % 2 ^ 16 ∧ value % 2 ^ 16 ≤ 3400 then value % 2 ^ 16 else s.pwr.cap) := by
  refine ⟨_, rfl, ?_⟩
  simp only [State.writePower, if_true]
  split <;> rfl

/-- Settles O45: doorbells and EQRD, QRESET, the writes that a quiesce latches, the answers to the record of a warp and to a page request,
invalidations, and the plain registers, each by its lemma above. -/
theorem controlPageWrites : Obligations.ControlPageWrites := by
  intro s ctx
  refine ⟨fun i n q value h => ⟨fun hh hv => ⟨answers_qdb_within h hh hv, answers_qdb_beyond h hh⟩, answers_eqrd h⟩,
    fun i value hi h hx => answers_eqrd_unused hi h hx,
    fun n q value => answers_qreset,
    fun seq value x hq hx => ⟨answers_latched rfl hq, answers_latched rfl hq, answers_latched rfl hq, answers_latched rfl hq, answers_latched rfl hq,
      answers_latched (execMbxdata_of_ctx hx) hq⟩,
    fun seq r core slot w e sp hq hr hk hw hc hs hp => ⟨answers_eqansResume hq hr hk hw hc hs hp, answers_eqansSkip hq hr hk hw hc hs hp,
      answers_eqansAbort hq hr hk hw hc hs hp⟩,
    fun seq r core slot w e sp asks hq hr hw hc hs hp => ⟨answers_fsreplyRetry hq hr hw hc hs hp, fun x => answers_fsreplyDecline hq hr hw hc hs hp⟩,
    fun x hx => ⟨fun value => answers_tlbinv hx, fun page size rest => answers_tlbinvComplete hx, fun value => answers_mbxdata hx,
      fun value p => answers_mecarve_allowed hx, fun value p => answers_mecarve_refused hx, fun value => answers_psdata hx,
      fun value hyper => ⟨answers_registerWrite_mbxidx hx hyper, answers_registerWrite_psidx hx,
        fun off => answers_registerWrite_unlisted s ctx value hyper⟩⟩,
    answers_registerWrite_cap s⟩

end Sys2Proof.Machine


/-! SUPPORT. An issue seen from the issuer: what the end of an issue makes of the issuing warp or helper, and what it leaves alone beside them. -/

namespace Sys2Proof.Machine

/-! ### The seat of an issuer: its warp, and its helper in the pricking -/

/-- Of some prickings only the helper that `who` names has changed, as `f` says. -/
structure HelperOnly (ps ps' : NatMap Pricking) (pair : Nat) (who : Who) (f : Helper → Helper) : Prop where
  others : ∀ p, p ≠ pair → mget? ps' p = mget? ps p
  rest : ∀ p, (mget? ps' p).map (fun p => { p with helpers := [] }) = (mget? ps p).map (fun p => { p with helpers := [] })
  helper : ∀ p, mget? ps pair = some p → ∃ p', mget? ps' pair = some p' ∧
    ∀ lane, mget? p'.helpers lane = if who = .helper lane then (mget? p.helpers lane).map f else mget? p.helpers lane

theorem HelperOnly.refl (ps : NatMap Pricking) (pair : Nat) (who : Who) : HelperOnly ps ps pair who id :=
  ⟨fun _ _ => rfl, fun _ => rfl, fun p hp => ⟨p, hp, fun lane => by simp⟩⟩

theorem HelperOnly.trans {ps qs rs : NatMap Pricking} {pair : Nat} {who : Who} {f g : Helper → Helper} (h : HelperOnly ps qs pair who f)
    (k : HelperOnly qs rs pair who g) : HelperOnly ps rs pair who (g ∘ f) := by
  refine ⟨fun p hp => (k.others p hp).trans (h.others p hp), fun p => (k.rest p).trans (h.rest p), fun p hp => ?_⟩
  obtain ⟨q, hq, hqp⟩ := h.helper p hp
  obtain ⟨r, hr, hrq⟩ := k.helper q hq
  refine ⟨r, hr, fun lane => ?_⟩
  rw [hrq, hqp]
  split <;> simp

/-- What has become of the issuer: its warp is what `fw` makes of it, and its helper what `fh` makes of it. -/
structure Seat (s t : State) (c : Iss) (fw : Warp → Warp) (fh : Helper → Helper) : Prop where
  warp : t.warp? c.core c.slot = (s.warp? c.core c.slot).map fw
  pricking : HelperOnly (s.core c.core).prickings (t.core c.core).prickings (c.slot / 2) c.who fh

theorem Seat.trans {s t u : State} {c : Iss} {fw gw : Warp → Warp} {fh gh : Helper → Helper} (h : Seat s t c fw fh) (k : Seat t u c gw gh) :
    Seat s u c (gw ∘ fw) (gh ∘ fh) :=
  ⟨by rw [k.warp, h.warp, Option.map_map], h.pricking.trans k.pricking⟩

theorem Seat.of_same {s t : State} {c : Iss} (hw : t.warp? c.core c.slot = s.warp? c.core c.slot)
    (hp : (t.core c.core).prickings = (s.core c.core).prickings) : Seat s t c id id :=
  ⟨by simp [hw], by rw [hp]; exact .refl _ _ _⟩

theorem Seat.refl (s : State) (c : Iss) : Seat s s c id id := .of_same rfl rfl

theorem Seat.of_cores {s t : State} {c : Iss} (h : t.cores = s.cores) : Seat s t c id id :=
  .of_same (State.warp?_of_cores h _ _) (by simp only [State.core, h])

/-- A step that leaves the seat alone, after another. -/
theorem Seat.then_same {s t u : State} {c : Iss} {fw : Warp → Warp} {fh : Helper → Helper} (h : Seat s t c fw fh) (k : Seat t u c id id) :
    Seat s u c fw fh := h.trans k

theorem State.warp?_modWarp (s : State) (c slot : Nat) (f : Warp → Warp) : (s.modWarp c slot f).warp? c slot = (s.warp? c slot).map f := by
  cases h : s.warp? c slot with
  | none => simp [State.modWarp, h]
  | some w => exact State.warp?_modWarp_same f h

theorem State.prickings_modWarp (s : State) (c slot d : Nat) (f : Warp → Warp) : ((s.modWarp c slot f).core d).prickings = (s.core d).prickings :=
  (congrArg Core.prickings (s.core_modWarp_warps c slot d f) :)

/-- A change of a core that keeps its warps and its prickings. -/
theorem State.seat_modCore (s : State) (c : Iss) {f : Core → Core} (core : Nat) (hw : ∀ k, (f k).warps = k.warps)
    (hp : ∀ k, (f k).prickings = k.prickings) : Seat s (s.modCore core f) c id id := by
  refine .of_same (s.warp?_modCore_of_warps core _ _ hw) ?_
  by_cases h : core = c.core
  · subst h
    simp [hp]
  · rw [s.core_modCore_other f h]

theorem State.seat_modWarp (s : State) (c : Iss) (f : Warp → Warp) : Seat s (s.modWarp c.core c.slot f) c f id :=
  ⟨s.warp?_modWarp _ _ f, by rw [s.prickings_modWarp]; exact .refl _ _ _⟩

/-- One entry of the split table, changed. -/
def Warp.modEntry (w : Warp) (e : Nat) (f : Split → Split) : Warp := match mget? w.splits e with
  | some sp => { w with splits := mset w.splits e (f sp) }
  | none => w

theorem State.seat_modSplit (s : State) {c : Iss} {e : Nat} (he : c.who = .split e) (f : Split → Split) :
    Seat s (s.modSplit c f) c (fun w => w.modEntry e f) id := by
  unfold State.modSplit
  rw [he]
  exact s.seat_modWarp c _

/-- One helper of a pricking, changed. -/
def Pricking.modLane (p : Pricking) (lane : Nat) (f : Helper → Helper) : Pricking := match mget? p.helpers lane with
  | some h => { p with helpers := mset p.helpers lane (f h) }
  | none => p

theorem Pricking.rest_modLane (p : Pricking) (lane : Nat) (f : Helper → Helper) : { p.modLane lane f with helpers := [] } = { p with helpers := [] } := by
  unfold Pricking.modLane
  split <;> rfl

theorem Pricking.helpers_modLane (p : Pricking) (lane l : Nat) (f : Helper → Helper) :
    mget? (p.modLane lane f).helpers l = if Who.helper lane = Who.helper l then (mget? p.helpers l).map f else mget? p.helpers l := by
  unfold Pricking.modLane
  by_cases hl : lane = l
  · subst hl
    cases hh : mget? p.helpers lane <;> simp [hh]
  · split <;> simp [hl, mget?_mset]

theorem Core.helperOnly_modPricking (k : Core) (pair lane : Nat) (f : Helper → Helper) :
    HelperOnly k.prickings (k.modPricking pair (fun p => p.modLane lane f)).prickings pair (.helper lane) f := by
  unfold Core.modPricking
  cases hp : mget? k.prickings pair with
  | none => exact ⟨fun _ _ => rfl, fun _ => rfl, fun p h => by simp [h] at hp⟩
  | some p =>
    refine ⟨fun q hq => mget?_mset_other _ _ (Ne.symm hq), fun q => ?_, fun q hq => ⟨_, mget?_mset_same _ _ _, fun l => ?_⟩⟩
    · simp only [mget?_mset]
      split
      next h => rw [← h, hp]; exact congrArg some (p.rest_modLane lane f)
      next => rfl
    · obtain rfl : p = q := Option.some.inj (hp.symm.trans hq)
      exact p.helpers_modLane lane l f

theorem State.seat_modHelper (s : State) {c : Iss} {lane : Nat} (hl : c.who = .helper lane) (f : Helper → Helper) :
    Seat s (s.modHelper c.core c.slot lane f) c id f := by
  constructor
  · unfold State.modHelper
    rw [s.warp?_modCore_of_warps, Option.map_id_fun, id]
    intro k
    unfold Core.modPricking
    split <;> rfl
  · unfold State.modHelper
    rw [State.core_modCore_same, hl]
    exact Core.helperOnly_modPricking _ _ _ f

/-! ### What an issue leaves alone beside its seat -/

/-- Beside the seat of an issuer nothing has changed but the accounts of an issue. -/
structure Quiet (s t : State) (core slot : Nat) : Prop where
  device : Footprint.plain.SameDevice s t
  others : s.SameOthers t core
  engines : Footprint.plain.SameEngines (s.core core) (t.core core)
  warps : ∀ d, d ≠ slot → t.warp? core d = s.warp? core d

theorem Quiet.refl (s : State) (core slot : Nat) : Quiet s s core slot := ⟨⟨rfl, fun _ => rfl, fun _ => rfl⟩, .refl _ _, rfl, fun _ _ => rfl⟩

theorem Quiet.trans {s t u : State} {core slot : Nat} (h : Quiet s t core slot) (k : Quiet t u core slot) : Quiet s u core slot := by
  obtain ⟨⟨hd, hg, hx⟩, ho, he, hw⟩ := h
  obtain ⟨⟨kd, kg, kx⟩, ko, ke, kw⟩ := k
  exact ⟨⟨kd.trans hd, fun i => (kg i).trans (hg i), fun i => (kx i).trans (hx i)⟩, ho.trans ko, ke.trans he, fun d hne => (kw d hne).trans (hw d hne)⟩

/-- A change of the accounts of the device alone. -/
theorem Quiet.of_cores {s t : State} (core slot : Nat) (hc : t.cores = s.cores) (hd : Footprint.plain.SameDevice s t) : Quiet s t core slot :=
  ⟨hd, State.sameOthers_of_cores core hc, by simp [Footprint.SameEngines, State.core, hc], fun d _ => State.warp?_of_cores hc core d⟩

theorem State.quiet_modCore (s : State) (core slot : Nat) {f : Core → Core} (he : ∀ k, Footprint.plain.SameEngines k (f k))
    (hw : ∀ k, (f k).warps = k.warps) : Quiet s (s.modCore core f) core slot :=
  ⟨⟨rfl, fun _ => rfl, fun _ => rfl⟩, s.sameOthers_modCore core f, by rw [s.core_modCore_same]; exact he _,
    fun d _ => s.warp?_modCore_of_warps core core d hw⟩

theorem State.quiet_modWarp (s : State) (core slot : Nat) (f : Warp → Warp) : Quiet s (s.modWarp core slot f) core slot := by
  unfold State.modWarp
  split
  · refine ⟨⟨rfl, fun _ => rfl, fun _ => rfl⟩, s.sameOthers_modCore core _, ?_, fun d hd => ?_⟩
    · rw [s.core_modCore_same]
      rfl
    · simp [State.warp?, Core.setWarp_other _ _ (Ne.symm hd)]
  · exact .refl _ _ _

theorem State.quiet_modSplit (s : State) (c : Iss) (f : Split → Split) : Quiet s (s.modSplit c f) c.core c.slot := by
  unfold State.modSplit
  split
  · exact s.quiet_modWarp _ _ _
  · exact .refl _ _ _

theorem State.quiet_modHelper (s : State) (core slot lane : Nat) (f : Helper → Helper) : Quiet s (s.modHelper core slot lane f) core slot := by
  refine s.quiet_modCore core slot (fun k => ?_) (fun k => ?_) <;>
  · unfold Core.modPricking
    split <;> rfl

theorem State.quiet_coolAt (s : State) (core slot after : Nat) (ls : List (RegLoc × Nat)) : Quiet s (s.coolAt core slot after ls) core slot := by
  unfold State.coolAt
  split
  · exact .refl _ _ _
  · exact s.quiet_modCore core slot (fun _ => rfl) (fun _ => rfl)

theorem State.seat_coolAt (s : State) (c : Iss) (core slot after : Nat) (ls : List (RegLoc × Nat)) : Seat s (s.coolAt core slot after ls) c id id := by
  unfold State.coolAt
  split
  · exact .refl _ _
  · exact s.seat_modCore c core (fun _ => rfl) (fun _ => rfl)

theorem State.seat_coolSpecial (s : State) (c : Iss) (r : SpecReg) : Seat s (s.coolSpecial c r) c id id := by
  unfold State.coolSpecial State.cool
  exact s.seat_coolAt _ _ _ _ _

theorem State.quiet_coolSpecial (s : State) (c : Iss) (r : SpecReg) : Quiet s (s.coolSpecial c r) c.core c.slot := by
  unfold State.coolSpecial State.cool
  exact s.quiet_coolAt _ _ _ _

theorem State.quiet_coolFlags (s : State) (c : Iss) (resumed : Bool) : Quiet s (s.coolFlags c resumed) c.core c.slot := by
  unfold State.coolFlags
  split
  · exact s.quiet_coolAt _ _ _ _
  · exact .refl _ _ _

theorem State.seat_coolFlags (s : State) (c : Iss) (resumed : Bool) : Seat s (s.coolFlags c resumed) c id id := by
  unfold State.coolFlags
  split
  · exact s.seat_coolAt _ _ _ _ _
  · exact .refl _ _

/-! ### The accounts of an issue -/

theorem State.quiet_meterAt (s : State) (core slot d : Nat) (m : Meter) (n : Nat) : Quiet s (s.meterAt d m n) core slot := by
  unfold State.meterAt
  split
  · exact .of_cores _ _ rfl ⟨rfl, fun _ => rfl, fun _ => rfl⟩
  · exact .refl _ _ _

/-- A change of a workgroup within the accounts of an issue. -/
theorem State.quiet_modWg (s : State) (core slot g : Nat) {f : Workgroup → Workgroup}
    (hf : ∀ x, ({ f x with slice := 0, blocked := false, expired := none, wantTick := false } : Workgroup) =
      { x with slice := 0, blocked := false, expired := none, wantTick := false }) : Quiet s (s.modWg g f) core slot := by
  unfold State.modWg
  split
  next x hx =>
    refine .of_cores _ _ rfl ⟨rfl, fun id => ?_, fun _ => rfl⟩
    simp only [mget?_mset]
    split
    next hid => rw [← hid, hx]; exact congrArg some (hf x)
    next => rfl
  next => exact .refl _ _ _

/-- A change of a context's lease. -/
theorem State.quiet_modCtx (s : State) (core slot g : Nat) {f : Context → Context}
    (hf : ∀ x, ({ f x with lease := none, leaseAt := 0 } : Context) = { x with lease := none, leaseAt := 0 }) : Quiet s (s.modCtx g f) core slot := by
  unfold State.modCtx
  split
  next x hx =>
    refine .of_cores _ _ rfl ⟨rfl, fun _ => rfl, fun id => ?_⟩
    simp only [mget?_mset]
    split
    next hid => rw [← hid, hx]; exact congrArg some (hf x)
    next => rfl
  next => exact .refl _ _ _

theorem State.cores_spend (s : State) (c : Iss) (leased : Bool) (n : Nat) : (s.spend c leased n).cores = s.cores := by
  unfold State.spend
  dsimp only
  split <;> simp

theorem State.quiet_spend (s : State) (c : Iss) (leased : Bool) (n : Nat) : Quiet s (s.spend c leased n) c.core c.slot := by
  unfold State.spend
  extract_lets key win s1 pol s2 now s3 start
  have h2 : Quiet s s2 c.core c.slot := (s.quiet_meterAt _ _ _ _ _).trans (.of_cores _ _ rfl ⟨rfl, fun _ => rfl, fun _ => rfl⟩)
  have h3 : Quiet s s3 c.core c.slot := h2.trans (s2.quiet_modWg _ _ _ fun _ => rfl)
  split
  · exact h3.trans (s3.quiet_modCtx _ _ _ fun _ => rfl)
  · exact h3

end Sys2Proof.Machine

namespace Sys2Proof.Machine

/-! ### The charge of an issue -/

theorem Warp.rest_modEntry (w : Warp) (e : Nat) (f : Split → Split) : { w.modEntry e f with splits := [] } = { w with splits := [] } := by
  unfold Warp.modEntry
  split <;> rfl

theorem Warp.splits_modEntry (w : Warp) (e d : Nat) (f : Split → Split) :
    mget? (w.modEntry e f).splits d = if e = d then (mget? w.splits d).map f else mget? w.splits d := by
  unfold Warp.modEntry
  by_cases h : e = d
  · subst h
    cases hs : mget? w.splits e <;> simp [hs]
  · split <;> simp [h, mget?_mset]

/-- What the accounts of an issue change of its warp: the count of units, and in the split table the issuing entry. -/
structure Warp.Charged (c : Iss) (w w' : Warp) : Prop where
  rest : ({ w' with iiu := 0, splits := [] } : Warp) = { w with iiu := 0, splits := [] }
  splits : ∀ e, c.who ≠ .split e → mget? w'.splits e = mget? w.splits e
  entry : ∀ e, (mget? w'.splits e).isSome = (mget? w.splits e).isSome

theorem Warp.Charged.refl (c : Iss) (w : Warp) : w.Charged c w := ⟨rfl, fun _ _ => rfl, fun _ => rfl⟩

theorem Warp.Charged.trans {c : Iss} {w v u : Warp} (h : w.Charged c v) (k : v.Charged c u) : w.Charged c u :=
  ⟨k.rest.trans h.rest, fun e he => (k.splits e he).trans (h.splits e he), fun e => (k.entry e).trans (h.entry e)⟩

theorem Warp.charged_modEntry {c : Iss} {e : Nat} (he : c.who = .split e) (w : Warp) (f : Split → Split) : w.Charged c (w.modEntry e f) := by
  refine ⟨?_, fun d hd => ?_, fun d => ?_⟩
  · exact (congrArg (fun w : Warp => { w with iiu := 0 }) (w.rest_modEntry e f) :)
  · rw [w.splits_modEntry, if_neg]
    rintro rfl
    exact hd he
  · rw [w.splits_modEntry]
    split <;> simp

/-- What the accounts of an issue change of its helper. -/
def Helper.Charged (h h' : Helper) : Prop :=
  ({ h' with age := 0, reserve := none, release := Release.none } : Helper) = { h with age := 0, reserve := none, release := Release.none }

theorem State.quiet_charge (s : State) (c : Iss) (ps : List Nat) : Quiet s (s.charge c ps) c.core c.slot := by
  unfold State.charge
  split
  · exact .refl _ _ _
  · extract_lets leased s1 s2 inside
    have h2 : Quiet s s2 c.core c.slot := (((show Quiet s s1 c.core c.slot from s.quiet_modCore _ _ (fun _ => rfl) (fun _ => rfl)).trans
      (s1.quiet_coolFlags c false)).trans (State.quiet_modWarp _ _ _ _)).trans (State.quiet_spend _ _ _ _)
    split
    · exact h2.trans (s2.quiet_modSplit _ _)
    · exact h2.trans (s2.quiet_modHelper _ _ _ _)

theorem State.seat_charge (s : State) (c : Iss) (ps : List Nat) :
    ∃ fw fh, Seat s (s.charge c ps) c fw fh ∧ (∀ w, Warp.Charged c w (fw w)) ∧ ∀ h, Helper.Charged h (fh h) := by
  unfold State.charge
  split
  · exact ⟨id, id, .refl _ _, .refl c, fun _ => rfl⟩
  · extract_lets leased s1 s2 inside
    have h2 : Seat s s2 c (fun w => { w with iiu := (w.iiu + c.cost.units) % 2 ^ 64 }) id :=
      (((show Seat s s1 c id id from s.seat_modCore c c.core (fun _ => rfl) (fun _ => rfl)).trans (s1.seat_coolFlags c false)).trans (State.seat_modWarp _ c _)).then_same
        (.of_cores (State.cores_spend _ _ _ _))
    have hiiu : ∀ w : Warp, w.Charged c { w with iiu := (w.iiu + c.cost.units) % 2 ^ 64 } := fun w => ⟨rfl, fun _ _ => rfl, fun _ => rfl⟩
    split
    next e he => exact ⟨_, _, h2.trans (s2.seat_modSplit he _), fun w => (hiiu w).trans (Warp.charged_modEntry he _ _), fun _ => rfl⟩
    next l hl => exact ⟨_, _, h2.trans (s2.seat_modHelper hl _), hiiu, fun _ => rfl⟩

/-! ### The end of an instruction -/

/-- An entry of the latches after one more instruction of a split (R66). -/
def LatchEntry.aged (e : LatchEntry) : Option LatchEntry := if e.life ≤ 1 then none else some { e with life := e.life - 1 }

/-- The entries of a map that a key keeps, each changed as its key says. -/
theorem mget?_filterMap {α : Type} {f : Nat × α → Option (Nat × α)} (drop : Nat → Bool) (g : Nat → α → α)
    (hf : ∀ e, f e = if drop e.1 then none else some (e.1, g e.1 e.2)) (m : NatMap α) (k : Nat) :
    mget? (m.filterMap f) k = if drop k then none else (mget? m k).map (g k) := by
  induction m with
  | nil => simp
  | cons e r ih =>
    obtain ⟨i, v⟩ := e
    rw [List.filterMap_cons, hf]
    by_cases hi : i = k
    · subst hi
      cases hd : drop i <;> simp [mget?, hd, ih]
    · cases hd : drop i <;> simp [mget?, hi, ih]

theorem Warp.latches_ageLatches (w : Warp) (sp : Split) (k : Nat) : mget? (w.ageLatches sp).latches k =
    if hasBit sp.strands (k / 16) then (mget? w.latches k).bind LatchEntry.aged else mget? w.latches k := by
  have hf := mget?_filterMap (m := w.latches) (k := k) (f := fun e => if hasBit sp.strands (e.1 / 16) then
        (match mget? w.latches e.1 with
          | some x => if x.life ≤ 1 then none else some (e.1, { e.2 with life := e.2.life - 1 })
          | none => none)
        else some e)
    (fun k => hasBit sp.strands (k / 16) && ((mget? w.latches k).bind LatchEntry.aged).isNone)
    (fun k e => if hasBit sp.strands (k / 16) then { e with life := e.life - 1 } else e) (fun e => by
      cases hb : hasBit sp.strands (e.1 / 16)
      · simp
      · cases hx : mget? w.latches e.1 with
        | none => simp
        | some x => by_cases hlife : x.life ≤ 1 <;> simp [LatchEntry.aged, hlife])
  refine hf.trans ?_
  cases hb : hasBit sp.strands (k / 16)
  · simp
  · cases hx : mget? w.latches k with
    | none => simp
    | some x => by_cases hlife : x.life ≤ 1 <;> simp [LatchEntry.aged, hlife]

/-- Does the end of an instruction age the latch entry at a key? -/
def Iss.ages (c : Iss) (k : Nat) : Bool := match c.split with
  | some sp => hasBit sp.strands (k / 16)
  | none => false

/-- The strands that go on as the issue ends. -/
def Iss.steps (c : Iss) : List Nat := match c.who with
  | .split _ => c.lanes
  | .helper _ => []

/-- What the end of an instruction makes of the issuing warp: besides its accounts, latch entries have aged, and where a split issued its strands
stand at the next instruction. -/
structure Warp.Finished (c : Iss) (w w' : Warp) : Prop where
  rest : ({ w' with iiu := 0, splits := [], strands := [], latches := [], latchBad := [] } : Warp) =
    { w with iiu := 0, splits := [], strands := [], latches := [], latchBad := [] }
  latches : ∀ k, mget? w'.latches k = if c.ages k then (mget? w.latches k).bind LatchEntry.aged else mget? w.latches k
  length : w'.strands.length = w.strands.length
  strand : ∀ l, w'.strand l = if l ∈ c.steps ∧ l < w.strands.length then { w.strand l with pc := (w.strand l).pc + 4 } else w.strand l
  splits : ∀ e, c.who ≠ .split e → mget? w'.splits e = mget? w.splits e
  entry : ∀ e, (mget? w'.splits e).isSome = (mget? w.splits e).isSome

/-- What the end of an instruction makes of the issuing helper. -/
structure Helper.Finished (h h' : Helper) : Prop where
  rest : ({ h' with age := 0, reserve := none, release := Release.none, wait := none, pc := 0 } : Helper) =
    { h with age := 0, reserve := none, release := Release.none, wait := none, pc := 0 }
  pc : h'.pc = h.pc + 4

/-- The program counters of some strands, moved on to the next instruction. -/
def Warp.stepLanes (w : Warp) (ls : List Nat) : Warp := ls.foldl (fun w l => w.modStrand l (fun st => { st with pc := st.pc + 4 })) w

theorem Warp.stepLanes_eq (w : Warp) (ls : List Nat) :
    w.stepLanes ls = { w with strands := ls.foldl (fun ss l => modAt ss l (fun st => { st with pc := st.pc + 4 })) w.strands } :=
  w.foldl_modStrand ls _

theorem length_modAt {α : Type} (l : List α) (n : Nat) (f : α → α) : (modAt l n f).length = l.length := by
  induction l generalizing n with
  | nil => rfl
  | cons a l ih => cases n <;> simp [modAt, ih]

theorem Warp.length_stepLanes (w : Warp) (ls : List Nat) : (w.stepLanes ls).strands.length = w.strands.length := by
  induction ls generalizing w with
  | nil => rfl
  | cons l ls ih => exact (ih _).trans (length_modAt _ _ _)

theorem Warp.strand_stepLanes (w : Warp) {ls : List Nat} (hn : ls.Nodup) (l : Nat) :
    (w.stepLanes ls).strand l = if l ∈ ls ∧ l < w.strands.length then { w.strand l with pc := (w.strand l).pc + 4 } else w.strand l := by
  rw [Warp.stepLanes_eq]
  simp only [Warp.strand, getElem?_foldl_modAt _ hn]
  by_cases hl : l < w.strands.length
  · by_cases hm : l ∈ ls <;> simp [hl, hm]
  · simp [hl]

theorem Iss.lanes_nodup (c : Iss) : c.lanes.Nodup := by
  unfold Iss.lanes
  split
  · exact List.nodup_range.filter _
  · exact List.nodup_nil

theorem State.quiet_retire (s : State) (c : Iss) (ps : List Nat) : Quiet s (s.retire c ps) c.core c.slot := by
  unfold State.retire
  extract_lets t
  split
  · exact (s.quiet_charge c ps).trans (t.quiet_modWarp _ _ _)
  · exact s.quiet_charge c ps

theorem State.quiet_wake (s : State) (c : Iss) : Quiet s (s.wake c) c.core c.slot := by
  unfold State.wake
  split
  · exact s.quiet_modSplit _ _
  · exact s.quiet_modHelper _ _ _ _

theorem State.quiet_stepPc (s : State) (c : Iss) : Quiet s (s.stepPc c) c.core c.slot := by
  unfold State.stepPc
  split
  · exact s.quiet_modWarp _ _ _
  · exact s.quiet_modHelper _ _ _ _

theorem State.quiet_finish (s : State) (c : Iss) (ps : List Nat) : Quiet s (s.finish c ps) c.core c.slot :=
  ((s.quiet_retire c ps).trans (State.quiet_wake _ c)).trans (State.quiet_stepPc _ c)

/-- What the retirement of an instruction makes of the issuing warp. -/
structure Warp.Retired (c : Iss) (w w' : Warp) : Prop where
  rest : ({ w' with iiu := 0, splits := [], latches := [], latchBad := [] } : Warp) = { w with iiu := 0, splits := [], latches := [], latchBad := [] }
  latches : ∀ k, mget? w'.latches k = if c.ages k then (mget? w.latches k).bind LatchEntry.aged else mget? w.latches k
  splits : ∀ e, c.who ≠ .split e → mget? w'.splits e = mget? w.splits e
  entry : ∀ e, (mget? w'.splits e).isSome = (mget? w.splits e).isSome

theorem State.seat_retire (s : State) (c : Iss) (ps : List Nat) :
    ∃ fw fh, Seat s (s.retire c ps) c fw fh ∧ (∀ w, Warp.Retired c w (fw w)) ∧ ∀ h, Helper.Charged h (fh h) := by
  obtain ⟨fw, fh, hs, hw, hh⟩ := s.seat_charge c ps
  unfold State.retire
  extract_lets t
  cases hsp : c.split with
  | none =>
    refine ⟨fw, fh, hs, fun w => ⟨?_, fun k => ?_, (hw w).splits, (hw w).entry⟩, hh⟩
    · exact (congrArg (fun w : Warp => { w with latches := [], latchBad := [] }) (hw w).rest :)
    · simp only [Iss.ages, hsp]
      exact (congrArg (fun w : Warp => mget? w.latches k) (hw w).rest :)
  | some sp =>
    refine ⟨fun w => (fw w).ageLatches sp, fh, hs.trans (t.seat_modWarp c _), fun w => ⟨?_, fun k => ?_, (hw w).splits, (hw w).entry⟩, hh⟩
    · exact (congrArg (fun w : Warp => { w with latches := [], latchBad := [] }) (hw w).rest :)
    · simp only [Iss.ages, hsp, Warp.latches_ageLatches]
      rw [show (fw w).latches = w.latches from (congrArg Warp.latches (hw w).rest :)]

theorem Warp.Retired.finished_of_split {c : Iss} {e : Nat} (he : c.who = .split e) {w v : Warp} (h : w.Retired c v) (f : Split → Split) :
    w.Finished c ((v.modEntry e f).stepLanes c.lanes) := by
  have hm := v.rest_modEntry e f
  have hstrands : (v.modEntry e f).strands = w.strands := (congrArg Warp.strands hm :).trans (congrArg Warp.strands h.rest :)
  have hsteps : c.steps = c.lanes := by simp [Iss.steps, he]
  have hsplits : ((v.modEntry e f).stepLanes c.lanes).splits = (v.modEntry e f).splits := by rw [Warp.stepLanes_eq]
  have hstrand : ∀ l, (v.modEntry e f).strand l = w.strand l := fun l => by simp only [Warp.strand, hstrands]
  constructor
  · rw [Warp.stepLanes_eq]
    exact (congrArg (fun w : Warp => { w with iiu := 0, strands := [], latches := [], latchBad := [] }) hm).trans
      (congrArg (fun w : Warp => { w with strands := [] }) h.rest)
  · intro k
    rw [Warp.stepLanes_eq, ← h.latches k]
    exact (congrArg (fun w : Warp => mget? w.latches k) hm :)
  · rw [Warp.length_stepLanes, hstrands]
  · intro l
    rw [Warp.strand_stepLanes _ c.lanes_nodup, hsteps, hstrand, hstrands]
  · intro d hd
    rw [hsplits, Warp.splits_modEntry, if_neg (by rintro rfl; exact hd he), h.splits d hd]
  · intro d
    rw [hsplits, Warp.splits_modEntry, ← h.entry d]
    split <;> simp

theorem Warp.Retired.finished_of_helper {c : Iss} {l : Nat} (hl : c.who = .helper l) {w v : Warp} (h : w.Retired c v) : w.Finished c v := by
  have hstrands : v.strands = w.strands := (congrArg Warp.strands h.rest :)
  refine ⟨(congrArg (fun w : Warp => { w with strands := [] }) h.rest :), h.latches, by rw [hstrands], fun l => ?_, h.splits, h.entry⟩
  simp [Iss.steps, hl, Warp.strand, hstrands]

/-- The ordinary end of an instruction, at the seat of its issuer. -/
theorem State.seat_finish (s : State) (c : Iss) (ps : List Nat) :
    ∃ fw fh, Seat s (s.finish c ps) c fw fh ∧ (∀ w, Warp.Finished c w (fw w)) ∧ ∀ l h, c.who = .helper l → Helper.Finished h (fh h) := by
  obtain ⟨fw, fh, hs, hw, hh⟩ := s.seat_retire c ps
  unfold State.finish State.wake State.stepPc
  split
  next e he =>
    refine ⟨_, _, (hs.trans (State.seat_modSplit _ he _)).trans (State.seat_modWarp _ c _), fun w => (hw w).finished_of_split he _, ?_⟩
    intro l h hl
    rw [he] at hl
    cases hl
  next l hl =>
    refine ⟨_, _, (hs.trans (State.seat_modHelper _ hl _)).trans (State.seat_modHelper _ hl _), fun w => (hw w).finished_of_helper hl, fun _ h _ => ?_⟩
    exact ⟨(congrArg (fun h : Helper => { h with wait := none, pc := 0 }) (hh h) :), congrArg (· + 4) (congrArg Helper.pc (hh h) :)⟩

end Sys2Proof.Machine

namespace Sys2Proof.Machine

/-! ### The issuer after an issue -/

/-- Where an issuer sits: the warp of its slot, and its entry of the split table or its helper of the pricking. -/
structure Seated (s : State) (c : Iss) : Prop where
  warp : s.warp? c.core c.slot = some c.w
  pk : c.pk = mget? (s.core c.core).prickings (c.slot / 2)
  charged : c.charged = false
  who : (∃ e sp, c.who = .split e ∧ c.split = some sp ∧ mget? c.w.splits e = some sp ∧ c.hel = none) ∨
    ∃ l p h, c.who = .helper l ∧ c.split = none ∧ c.pk = some p ∧ p.slot = c.slot ∧ mget? p.helpers l = some h ∧ c.hel = some h

theorem State.issFor_iff {s : State} {core slot : Nat} {who : Who} {cost : Cost} {c : Iss} : s.issFor core slot who cost = some c ↔
    Seated s c ∧ c.core = core ∧ c.slot = slot ∧ c.who = who ∧ c.cost = cost := by
  constructor
  · intro h
    unfold State.issFor at h
    cases hw : s.warp? core slot with
    | none => simp [hw] at h
    | some w =>
      simp only [hw] at h
      split at h
      next e =>
        split at h
        next sp hsp =>
          cases h
          exact ⟨⟨hw, rfl, rfl, .inl ⟨e, sp, rfl, rfl, hsp, rfl⟩⟩, rfl, rfl, rfl, rfl⟩
        next => cases h
      next l =>
        split at h
        next p hp =>
          split at h
          next hslot =>
            split at h
            next x hx =>
              cases h
              exact ⟨⟨hw, rfl, rfl, .inr ⟨l, p, x, rfl, rfl, hp, hslot, hx, rfl⟩⟩, rfl, rfl, rfl, rfl⟩
            next => cases h
          next => cases h
        next => cases h
  · rintro ⟨⟨hw, hpk, hch, hwho⟩, rfl, rfl, rfl, rfl⟩
    obtain ⟨core, slot, who, cost, w, split, pk, hel, charged⟩ := c
    dsimp only at hw hpk hch hwho
    subst hch
    unfold State.issFor
    rcases hwho with ⟨e, sp, rfl, rfl, hsp, rfl⟩ | ⟨l, p, x, rfl, rfl, rfl, hslot, hx, rfl⟩
    · simp [hw, hsp, hpk]
    · simp [hw, ← hpk, hslot, hx]

theorem State.seated_of_iss {s : State} {c : Iss} (h : s.iss = some c) : Seated s c := by
  unfold State.iss at h
  split at h
  · cases h
  · exact (State.issFor_iff.mp h).1

/-- The issuer in a later state: the same issuer, of whose warp and helper is known what has become of them. -/
structure Iss.Becomes (c c' : Iss) (w' : Warp) (h' : Option Helper) : Prop where
  core : c'.core = c.core
  slot : c'.slot = c.slot
  who : c'.who = c.who
  w : c'.w = w'
  hel : c'.hel = h'
  split : ∀ e, c.who = .split e → c'.split = mget? w'.splits e

/-- An issuer whose seat has changed is still there. -/
theorem Seated.after {s t : State} {c : Iss} (hc : Seated s c) {fw : Warp → Warp} {fh : Helper → Helper} (h : Seat s t c fw fh)
    (he : ∀ e, (mget? (fw c.w).splits e).isSome = (mget? c.w.splits e).isSome) :
    ∃ c', t.issFor c.core c.slot c.who c.cost = some c' ∧ c.Becomes c' (fw c.w) (c.hel.map fh) := by
  have hw : t.warp? c.core c.slot = some (fw c.w) := by rw [h.warp, hc.warp]; rfl
  rcases hc.who with ⟨e, sp, hwho, hsp, hent, hhel⟩ | ⟨l, p, x, hwho, hsp, hpk, hslot, hx, hhel⟩
  · obtain ⟨sp', hsp'⟩ := Option.isSome_iff_exists.mp ((he e).trans (by simp [hent]))
    let c' : Iss := { c with w := fw c.w, split := some sp', pk := mget? (t.core c.core).prickings (c.slot / 2), charged := false }
    refine ⟨c', State.issFor_iff.mpr ⟨⟨hw, rfl, rfl, .inl ⟨e, sp', hwho, rfl, hsp', hhel⟩⟩, rfl, rfl, rfl, rfl⟩, rfl, rfl, rfl, rfl, by simp [c', hhel], ?_⟩
    intro d hd
    rw [hwho] at hd
    cases hd
    exact hsp'.symm
  · obtain ⟨p', hp', hhp⟩ := h.pricking.helper p (hc.pk.symm.trans hpk)
    have hx' : mget? p'.helpers l = some (fh x) := by rw [hhp, if_pos hwho, hx]; rfl
    have hslot' : p'.slot = c.slot := by
      have hr := h.pricking.rest (c.slot / 2)
      rw [hp', hc.pk.symm.trans hpk] at hr
      exact (congrArg Pricking.slot (Option.some.inj hr) :).trans hslot
    let c' : Iss := { c with w := fw c.w, pk := mget? (t.core c.core).prickings (c.slot / 2), hel := some (fh x), charged := false }
    refine ⟨c', State.issFor_iff.mpr ⟨⟨hw, rfl, rfl, .inr ⟨l, p', fh x, hwho, hsp, hp', hslot', hx', rfl⟩⟩, rfl, rfl, rfl, rfl⟩, rfl, rfl, rfl, rfl,
      by simp [c', hhel], ?_⟩
    intro d hd
    rw [hwho] at hd
    cases hd

/-- The pricking of an issue of which only the issuing helper has changed, within a frame. -/
theorem Seat.samePricking {fr : Footprint} {s t : State} {c : Iss} (hc : Seated s c) {fw : Warp → Warp} {fh : Helper → Helper} (h : Seat s t c fw fh)
    {wr : Writes} (hh : ∀ lane x, c.who = .helper lane → c.hel = some x → fr.SameHelper x (fh x) ∧
      (∀ n, wr.reg (4 * lane) (.priv n) = false → mgetD (fh x).regs n 0 = mgetD x.regs n 0) ∧
      (∀ p, wr.pred (4 * lane) p = false → (p == 0 || hasBit (fh x).preds p) = (p == 0 || hasBit x.preds p)) ∧
      (wr.flags (4 * lane) = false → (fh x).fpst = x.fpst)) : fr.SamePricking s t c wr := by
  refine ⟨h.pricking.others, h.pricking.rest, fun p hp => ?_⟩
  obtain ⟨p', hp', hl⟩ := h.pricking.helper p (hc.pk.symm.trans hp)
  refine ⟨p', hp', fun lane hne => by rw [hl, if_neg hne], fun lane x hwho hx => ⟨fh x, ?_, hh lane x hwho hx⟩⟩
  rcases hc.who with ⟨e, sp, hwho', -⟩ | ⟨l, q, y, hwho', -, hq, -, hy, hhel⟩
  · rw [hwho] at hwho'; cases hwho'
  · rw [hwho] at hwho'; cases hwho'
    rw [hp] at hq; cases hq
    rw [hx] at hhel; cases hhel
    rw [hl, if_pos hwho, hy]
    rfl

/-! ### Registers that an instruction does not write -/

/-- Registers, predicates, flags, index registers and latch entries of a warp that `wr` does not name are as before, before any latch entry ages. -/
structure Writes.Spares (wr : Writes) (c : Iss) (w w' : Warp) : Prop where
  regs : ∀ th n, th < 64 → n < 256 → c.hel.isSome ∨ wr.reg th (.file n) = false → mgetD w'.regs (256 * th + n) 0 = mgetD w.regs (256 * th + n) 0
  preds : ∀ th p, c.hel.isSome ∨ wr.pred th p = false → w'.pred th p = w.pred th p
  fpst : ∀ th, c.hel.isSome ∨ wr.flags th = false → mgetD w'.fpst th 0 = mgetD w.fpst th 0
  ixs : ∀ th k, k < 4 → c.hel.isSome ∨ wr.index th k = false → w'.ix th k = w.ix th k
  latches : ∀ th k, k < 4 → c.hel.isSome ∨ wr.reg th (.latch k) = false → mget? w'.latches (4 * th + k) = mget? w.latches (4 * th + k)

/-- A warp of which no register has changed. -/
theorem Writes.Spares.of_same {wr : Writes} {c : Iss} {w w' : Warp} (hr : w'.regs = w.regs) (hp : w'.preds = w.preds) (hf : w'.fpst = w.fpst)
    (hi : w'.ixs = w.ixs) (hl : w'.latches = w.latches) : wr.Spares c w w' where
  regs _ _ _ _ _ := by rw [hr]
  preds _ _ _ := by simp only [Warp.pred, hp]
  fpst _ _ := by rw [hf]
  ixs _ _ _ _ := by simp only [Warp.ix, hi]
  latches _ _ _ _ := by rw [hl]

theorem Warp.Finished.sameRegisters {c : Iss} {wr : Writes} {w w' : Warp} (hf : w.Finished c w') (hs : wr.Spares c c.w w) : SameRegisters c wr w' := by
  refine ⟨fun th n hth hn h => ?_, fun th p h => ?_, fun th h => ?_, fun th k hk h => ?_, fun th k hk h => ?_⟩
  · rw [← hs.regs th n hth hn h, show w'.regs = w.regs from (congrArg Warp.regs hf.rest :)]
  · rw [← hs.preds th p h]
    simp only [Warp.pred, show w'.preds = w.preds from (congrArg Warp.preds hf.rest :)]
  · rw [← hs.fpst th h, show w'.fpst = w.fpst from (congrArg Warp.fpst hf.rest :)]
  · rw [← hs.ixs th k hk h]
    simp only [Warp.ix, show w'.ixs = w.ixs from (congrArg Warp.ixs hf.rest :)]
  · rw [hf.latches, hs.latches th k hk h]
    have hk4 : (4 * th + k) / 16 = th / 4 := by omega
    unfold Iss.ages
    cases hsp : c.split with
    | none => cases mget? c.w.latches (4 * th + k) <;> rfl
    | some sp =>
      dsimp only
      rw [hk4]
      by_cases hb : hasBit sp.strands (th / 4) = true
      · simp only [if_pos hb]
        rfl
      · simp only [if_neg hb]
        cases mget? c.w.latches (4 * th + k) <;> rfl

theorem Iss.contains_lanes (c : Iss) (l : Nat) : c.lanes.contains l = true ↔ l ∈ c.lanes := List.contains_iff_mem

theorem Warp.Finished.sameStrands {fr : Footprint} {s : State} {c : Iss} (hc : Seated s c) {w w' : Warp} (hf : w.Finished c w')
    (hl : w.strands.length = c.w.strands.length) (hst : ∀ l, (l ∈ c.lanes → fr.strand { w.strand l with pc := 0 } = fr.strand { c.w.strand l with pc := 0 }) ∧
      (l ∉ c.lanes → w.strand l = c.w.strand l)) (hsp : ∀ e, c.who ≠ .split e → mget? w.splits e = mget? c.w.splits e) : fr.SameStrands c w' := by
  refine ⟨hf.length.trans hl, fun l => ⟨fun h => ?_, fun h => ?_⟩, fun e he => (hf.splits e he).trans (hsp e he)⟩
  · rw [← (hst l).1 (List.contains_iff_mem.mp h), hf.strand]
    split <;> rfl
  · have hn : l ∉ c.lanes := by simpa using h
    rw [← (hst l).2 hn, hf.strand, if_neg]
    rintro ⟨hm, -⟩
    rcases hc.who with ⟨e, sp, hwho, -⟩ | ⟨e, p, x, hwho, -⟩ <;> simp [Iss.steps, hwho] at hm
    exact hn hm

theorem Warp.Finished.wentOn {s : State} {c : Iss} (hc : Seated s c) {w w' : Warp} (hf : w.Finished c w') {h' : Option Helper}
    (hpc : ∀ l, (w.strand l).pc = (c.w.strand l).pc) (hl : w.strands.length = c.w.strands.length)
    (hh : ∀ x, c.hel = some x → ∃ y, h' = some y ∧ y.pc = x.pc + 4) : WentOn c w' h' := by
  unfold WentOn
  cases hhel : c.hel with
  | some x => exact hh x hhel
  | none =>
    intro l hlen
    obtain ⟨e, sp, hwho, -⟩ : ∃ e sp, c.who = .split e ∧ c.split = some sp := by
      rcases hc.who with ⟨e, sp, hwho, hsp, -⟩ | ⟨_, _, _, _, _, _, _, _, hx⟩
      · exact ⟨e, sp, hwho, hsp⟩
      · rw [hhel] at hx; cases hx
    rw [hf.strand, ← hpc l]
    simp only [Iss.steps, hwho, hl]
    by_cases hm : l ∈ c.lanes
    · rw [if_pos ⟨hm, hlen⟩, if_pos (List.contains_iff_mem.mpr hm)]
    · rw [if_neg (fun h => hm h.1), if_neg (fun h => hm (List.contains_iff_mem.mp h))]
      simp

/-! ### Memory -/

/-- Where nothing but an issuer's seat and the accounts of an issue has changed, no memory has. -/
theorem Quiet.sameMemory {s t : State} {core slot : Nat} (h : Quiet s t core slot) : SameMemory s t := by
  have hd := h.device.1
  have hs : s.SameStores t := ⟨(congrArg State.hbm hd :), (congrArg State.hostMem hd :), (congrArg State.plots hd :), (congrArg State.lineKeys hd :),
    (congrArg (fun s : State => s.sec.keys) hd :)⟩
  refine ⟨fun _ _ _ _ => hs.memRead _ _ _ _ _, fun d a => ?_, fun d => ?_⟩
  · by_cases hd : d = core
    · subst hd
      simp only [Core.scrByte, Core.word, show (t.core d).scratch = (s.core d).scratch from (congrArg Core.scratch h.engines :)]
    · rw [h.others d hd]
  · by_cases hd : d = core
    · subst hd
      exact (congrArg Core.acc h.engines :)
    · rw [h.others d hd]

/-! ### Instructions that complete -/

theorem Warp.Finished.sameWarp {fr : Footprint} {c : Iss} {w w' : Warp} (hf : w.Finished c w') (h : fr.SameWarp c.w w) : fr.SameWarp c.w w' :=
  Eq.trans (congrArg (fun w : Warp => fr.warp { w with regs := [], preds := [], fpst := [], ixs := [], bad := [] }) hf.rest :) h

theorem Helper.Finished.sameHelper (fr : Footprint) {h h' : Helper} (k : h.Finished h') : fr.SameHelper h h' :=
  (congrArg (fun h : Helper => fr.helper { h with regs := [], preds := 0, fpst := 0, bad := [] }) k.rest :)

theorem Helper.Finished.spares {wr : Writes} {h h' : Helper} (k : h.Finished h') (lane : Nat) :
    (∀ n, wr.reg (4 * lane) (.priv n) = false → mgetD h'.regs n 0 = mgetD h.regs n 0) ∧
    (∀ p, wr.pred (4 * lane) p = false → (p == 0 || hasBit h'.preds p) = (p == 0 || hasBit h.preds p)) ∧
    (wr.flags (4 * lane) = false → h'.fpst = h.fpst) :=
  ⟨fun n _ => (congrArg (fun h : Helper => mgetD h.regs n 0) k.rest :), fun p _ => (congrArg (fun h : Helper => p == 0 || hasBit h.preds p) k.rest :),
    fun _ => (congrArg Helper.fpst k.rest :)⟩

/-- An instruction that ends as any ends completes, where before its end it changed its warp alone and stayed within the frame there: it kept the
strands and the splits, and spared the registers that `wr` does not name. -/
theorem completesIn_finish {g : Warp → Warp} {i : Instr} {s s1 : State} {c : Iss} {ps : List Nat} {wr : Writes} {post : Iss → State → Prop}
    {fw : Warp → Warp} (hc : s.iss = some c) (hi : exec i s = .next (s1.finish c ps)) (hq : Quiet s s1 c.core c.slot) (hs : Seat s s1 c fw id)
    (hw : ({ Footprint.plain with warp := g } : Footprint).SameWarp c.w (fw c.w)) (hsp : (fw c.w).splits = c.w.splits)
    (hst : (fw c.w).strands = c.w.strands) (hr : wr.Spares c c.w (fw c.w))
    (hpost : ∀ c' w', c.Becomes c' w' c'.hel → (fw c.w).Finished c w' → post c' (s1.finish c ps)) :
    CompletesIn { Footprint.plain with warp := g } i s c wr post := by
  have hseat := State.seated_of_iss hc
  obtain ⟨gw, gh, hs', hgw, hgh⟩ := s1.seat_finish c ps
  have hall := hs.trans hs'
  have hf := hgw (fw c.w)
  have hstrand : ∀ l, (fw c.w).strand l = c.w.strand l := fun l => by simp only [Warp.strand, hst]
  obtain ⟨c', hc', hb⟩ := hseat.after hall (fun e => (hf.entry e).trans (by rw [hsp]))
  have hbw : c'.w = gw (fw c.w) := hb.w
  have hq' := hq.trans (s1.quiet_finish c ps)
  refine ⟨_, c', hi, hc', hpost c' _ { hb with hel := rfl } hf, hq'.sameMemory, ⟨hq'.device, hq'.others, hq'.engines, hq'.warps, ?_, ?_, ?_, ?_⟩, ?_, ?_⟩
  · exact hall.samePricking hseat fun lane x hwho _ => ⟨(hgh lane x hwho).sameHelper _, (hgh lane x hwho).spares lane⟩
  · rw [hall.warp, hseat.warp, hbw]
    rfl
  · rw [hbw]
    exact hf.sameWarp hw
  · rw [hbw]
    exact hf.sameRegisters hr
  · rw [hbw]
    exact hf.sameStrands hseat (by rw [hst]) (fun l => ⟨fun _ => by rw [hstrand], fun _ => hstrand l⟩) (fun e _ => by rw [hsp])
  · rw [hbw, hb.hel]
    refine hf.wentOn hseat (fun l => by rw [hstrand]) (by rw [hst]) fun x hx => ⟨gh x, by rw [hx]; rfl, ?_⟩
    rcases hseat.who with ⟨_, _, _, _, _, hn⟩ | ⟨l, _, _, hwho, -⟩
    · rw [hn] at hx; cases hx
    · exact (hgh l x hwho).pc

end Sys2Proof.Machine

namespace Sys2Proof.Machine

/-! ### What effects on registers make of a warp -/

/-- Steps that leave an observation alone do so one after another. -/
theorem foldl_observe_same {α β γ : Type} {f : β → α → β} (obs : β → γ) {l : List α} (h : ∀ a ∈ l, ∀ b, obs (f b a) = obs b) (b : β) :
    obs (l.foldl f b) = obs b := by
  induction l generalizing b with
  | nil => rfl
  | cons a l ih => exact (ih (fun x hx => h x (List.mem_cons_of_mem _ hx)) _).trans (h a List.mem_cons_self b)

/-- Steps of which each sets an observation to one value or leaves it alone, and one does set it, set it. -/
theorem foldl_observe_set {α β γ : Type} {f : β → α → β} (obs : β → γ) (v : γ) {l : List α} (h : ∀ a ∈ l, ∀ b, obs (f b a) = v ∨ obs (f b a) = obs b)
    (hs : ∃ a ∈ l, ∀ b, obs (f b a) = v) (b : β) : obs (l.foldl f b) = v := by
  have keep : ∀ (l : List α) (b : β), (∀ a ∈ l, ∀ b, obs (f b a) = v ∨ obs (f b a) = obs b) → obs b = v → obs (l.foldl f b) = v := by
    intro l
    induction l with
    | nil => exact fun _ _ hb => hb
    | cons a l ih =>
      intro b h hb
      refine ih _ (fun x hx => h x (List.mem_cons_of_mem _ hx)) ?_
      rcases h a List.mem_cons_self b with ha | ha
      · exact ha
      · exact ha.trans hb
  induction l generalizing b with
  | nil => simp at hs
  | cons a l ih =>
    obtain ⟨x, hx, hv⟩ := hs
    rcases List.mem_cons.mp hx with rfl | hx
    · exact keep l _ (fun y hy => h y (List.mem_cons_of_mem _ hy)) (hv b)
    · exact ih (fun y hy => h y (List.mem_cons_of_mem _ hy)) ⟨x, hx, hv⟩ _

theorem Warp.rest_effs (es : List Eff) (w : Warp) :
    ({ es.foldl Warp.eff w with regs := [], preds := [], ixs := [], fpst := [], bad := [], latches := [], latchBad := [] } : Warp) =
      { w with regs := [], preds := [], ixs := [], fpst := [], bad := [], latches := [], latchBad := [] } :=
  foldl_observe_same (fun w : Warp => ({ w with regs := [], preds := [], ixs := [], fpst := [], bad := [], latches := [], latchBad := [] } : Warp))
    (fun e _ b => by
      cases e with
      | reg t l v => cases l <;> rfl
      | _ => rfl) w

/-- A location of a thread that has a place of its own in the warp: a register of the file, or a latch entry. -/
def RegLoc.Own : RegLoc → Prop
  | .file n => n < 256
  | .latch k => k < 4
  | _ => False

/-- The place of a thread's location in a warp: its word, and for a latch entry its life. -/
def Warp.cell (w : Warp) (t : Nat) : RegLoc → Option LatchEntry
  | .file n => some { val := mgetD w.regs (256 * t + n) 0, life := 3 }
  | .latch k => mget? w.latches (4 * t + k)
  | _ => none

/-- A write to one location of a thread changes that place alone. -/
theorem Warp.cell_eff_reg (w : Warp) {t th : Nat} {l m : RegLoc} (v : Word) (hl : l.Own) (hm : m.Own) :
    (w.eff (.reg t l v)).cell th m = if t = th ∧ l = m then some { val := v, life := 3 } else w.cell th m := by
  cases l with
  | file i =>
    cases m with
    | file j =>
      have hk : 256 * t + i = 256 * th + j ↔ t = th ∧ i = j := by simp only [RegLoc.Own] at hl hm; omega
      simp only [Warp.cell, Warp.eff, mgetD_mput, RegLoc.file.injEq, hk]
      split <;> rfl
    | latch j => simp [Warp.cell, Warp.eff]
    | _ => exact hm.elim
  | latch i =>
    cases m with
    | file j => simp [Warp.cell, Warp.eff]
    | latch j =>
      have hk : 4 * t + i = 4 * th + j ↔ t = th ∧ i = j := by simp only [RegLoc.Own] at hl hm; omega
      simp only [Warp.cell, Warp.eff, mget?_mset, RegLoc.latch.injEq, hk]
    | _ => exact hm.elim
  | _ => exact hl.elim

/-- Where effects may write: each place of a register effect is one of the file or of a latch entry, or is discarded. -/
def Eff.Placed (e : Eff) : Prop := ∀ t l v, e = .reg t l v → l = .zero ∨ l.Own

theorem Warp.cell_eff_other (w : Warp) {e : Eff} {th : Nat} {m : RegLoc} (he : e.Placed) (hm : m.Own) (hn : ∀ v, e ≠ .reg th m v) :
    (w.eff e).cell th m = w.cell th m := by
  cases e with
  | reg t l v =>
    rcases he t l v rfl with rfl | hl
    · rfl
    · rw [w.cell_eff_reg v hl hm, if_neg]
      rintro ⟨rfl, rfl⟩
      exact hn v rfl
  | _ => cases m <;> rfl

theorem Warp.cell_effs_other (w : Warp) {es : List Eff} {th : Nat} {m : RegLoc} (he : ∀ e ∈ es, e.Placed) (hm : m.Own) (hn : ∀ v, .reg th m v ∉ es) :
    (es.foldl Warp.eff w).cell th m = w.cell th m :=
  foldl_observe_same (fun w : Warp => w.cell th m) (fun e h b => b.cell_eff_other (he e h) hm fun v hv => hn v (hv ▸ h)) w

theorem Warp.cell_effs_set (w : Warp) {es : List Eff} {th : Nat} {m : RegLoc} {v : Word} (he : ∀ e ∈ es, e.Placed) (hm : m.Own) (hv : .reg th m v ∈ es)
    (hall : ∀ u, .reg th m u ∈ es → u = v) : (es.foldl Warp.eff w).cell th m = some { val := v, life := 3 } := by
  refine foldl_observe_set (fun w : Warp => w.cell th m) _ (fun e h b => ?_) ⟨_, hv, fun b => ?_⟩ w
  · by_cases hx : ∃ u, e = .reg th m u
    · obtain ⟨u, rfl⟩ := hx
      rw [hall u h]
      exact .inl (by simp [b.cell_eff_reg v hm hm])
    · exact .inr (b.cell_eff_other (he e h) hm fun u hu => hx ⟨u, hu⟩)
  · simp [b.cell_eff_reg v hm hm]

/-! ### Predicates -/

theorem hasBit_eq_testBit (m k : Nat) : hasBit m k = m.testBit k := by
  rw [hasBit, Nat.testBit_eq_decide_div_mod_eq]
  by_cases h : m / 2 ^ k % 2 = 1 <;> simp [h]

/-- A bit set to a value, and the others as before. -/
theorem hasBit_setBits_one (m q p : Nat) (b : Bool) : hasBit (setBits m q 1 (if b then 1 else 0)) p = if q = p then b else hasBit m p := by
  have hm : m = 2 ^ q * (2 * (m / 2 ^ q / 2) + m / 2 ^ q % 2) + m % 2 ^ q := by
    rw [Nat.div_add_mod (m / 2 ^ q) 2, Nat.div_add_mod]
  have hlo : m % 2 ^ q < 2 ^ q := Nat.mod_lt _ (by positivity)
  have hd : m / 2 ^ q % 2 < 2 := Nat.mod_lt _ (by decide)
  generalize m / 2 ^ q / 2 = h at hm
  generalize hde : m / 2 ^ q % 2 = d at hm hd
  generalize m % 2 ^ q = lo at hm hlo
  have hset : setBits m q 1 (if b then 1 else 0) = 2 ^ q * (2 * h + (if b then 1 else 0)) + lo := by
    have hb : (if b = true then 1 else 0) % 2 ^ 1 = if b = true then 1 else 0 := by cases b <;> rfl
    rw [setBits, bitsOf, hb, pow_one, hde, hm, Nat.mul_add, Nat.mul_add, Nat.mul_comm d, Nat.mul_comm (if b = true then 1 else 0)]
    omega
  rw [hasBit_eq_testBit, hasBit_eq_testBit, hset, hm, Nat.testBit_two_pow_mul_add _ hlo, Nat.testBit_two_pow_mul_add _ hlo]
  by_cases hp : p < q
  · simp [hp, show q ≠ p by omega]
  · rw [if_neg hp, if_neg hp]
    obtain ⟨j, rfl⟩ : ∃ j, p = q + j := ⟨p - q, by omega⟩
    rw [Nat.add_sub_cancel_left]
    cases j with
    | zero => cases b <;> simp
    | succ j =>
      have h1 : (2 * h + (if b = true then 1 else 0)) / 2 = h := by split <;> omega
      have h2 : (2 * h + d) / 2 = h := by omega
      rw [if_neg (show ¬q = q + (j + 1) by omega), Nat.testBit_succ, Nat.testBit_succ, h1, h2]

theorem hasBit_predSet (m q p : Nat) (b : Bool) : (p == 0 || hasBit (predSet m q b) p) = if q = p ∧ p ≠ 0 then b else (p == 0 || hasBit m p) := by
  unfold predSet
  by_cases hq : q = 0
  · by_cases hp : p = 0 <;> simp [hq, hp, Ne.symm]
  · rw [if_neg hq, hasBit_setBits_one]
    by_cases hp : p = 0
    · simp [hp]
    · by_cases h : q = p <;> simp [h, hp]

theorem Warp.pred_eff (w : Warp) (e : Eff) (th p : Nat) :
    (w.eff e).pred th p = match e with
      | .pred t q b => if t = th ∧ q = p ∧ p ≠ 0 then b else w.pred th p
      | _ => w.pred th p := by
  cases e with
  | pred t q b =>
    simp only [Warp.pred, Warp.eff, mgetD_mput]
    by_cases ht : t = th
    · subst ht
      simp [hasBit_predSet]
    · simp [ht]
  | reg t l v => cases l <;> rfl
  | _ => rfl

theorem Warp.pred_effs_other (w : Warp) {es : List Eff} {th p : Nat} (hn : ∀ b, .pred th p b ∉ es) : (es.foldl Warp.eff w).pred th p = w.pred th p :=
  foldl_observe_same (fun w : Warp => w.pred th p) (fun e h b => by
    rw [b.pred_eff]
    split
    next t q v => exact if_neg fun hx => hn v (by rw [← hx.1, ← hx.2.1]; exact h)
    next => rfl) w

theorem Warp.pred_effs_set (w : Warp) {es : List Eff} {th p : Nat} {v : Bool} (hp : p ≠ 0) (hv : .pred th p v ∈ es)
    (hall : ∀ u, .pred th p u ∈ es → u = v) : (es.foldl Warp.eff w).pred th p = v := by
  refine foldl_observe_set (fun w : Warp => w.pred th p) v (fun e h b => ?_) ⟨_, hv, fun b => ?_⟩ w
  · rw [b.pred_eff]
    split
    next t q u =>
      split
      next hx => exact .inl (hall u (by rw [← hx.1, ← hx.2.1]; exact h))
      next => exact .inr rfl
    next => exact .inr rfl
  · simp [b.pred_eff, hp]

end Sys2Proof.Machine

namespace Sys2Proof.Machine

/-! ### Destinations of a split's instruction -/

theorem Iss.placed_of_resolve {c : Iss} (hh : c.hel = none) {t n : Nat} {o : Opnd} {ls : List RegLoc} (hr : c.resolve t o n = .ok ls) :
    ∀ l ∈ ls, l = .zero ∨ l.Own := by
  unfold Iss.resolve at hr
  rw [hh] at hr
  cases o with
  | vz => cases hr; exact fun l hl => .inl (List.eq_of_mem_replicate hl)
  | latch k =>
    cases hr
    intro l hl
    rw [List.mem_singleton.mp hl]
    exact .inr (Nat.lt_trans k.isLt (by decide))
  | win k =>
    dsimp only at hr
    split at hr
    next hle =>
      cases hr
      intro l hl
      obtain ⟨i, hi, rfl⟩ := List.mem_map.mp hl
      have hi' : i < n := by simpa [upto] using hi
      have : Nat.min 256 c.w.fileSize ≤ 256 := Nat.min_le_left _ _
      exact .inr (show c.w.wbase + k.val + i < 256 by omega)
    next => cases hr
  | ix k =>
    dsimp only at hr
    split at hr
    next hle =>
      cases hr
      intro l hl
      obtain ⟨i, hi, rfl⟩ := List.mem_map.mp hl
      have hi' : i < n := by simpa [upto] using hi
      simp only [Bool.and_eq_true, decide_eq_true_eq] at hle
      exact .inr (show bitsOf _ 24 8 + bitsOf _ 0 8 + i < 256 by omega)
    next => cases hr

theorem Iss.length_of_resolve_one {c : Iss} (hh : c.hel = none) {t : Nat} {o : Opnd} {ls : List RegLoc} (hr : c.resolve t o 1 = .ok ls) : ls.length = 1 := by
  unfold Iss.resolve at hr
  rw [hh] at hr
  cases o with
  | vz => cases hr; rfl
  | latch k => cases hr; rfl
  | win k =>
    dsimp only at hr
    split at hr <;> cases hr
    rfl
  | ix k =>
    dsimp only at hr
    split at hr <;> cases hr
    rfl

/-- A write of one word is one effect, at the one location that the operand resolves to. -/
theorem Iss.mem_writeEffs_one {c : Iss} (hh : c.hel = none) {t v : Nat} {o : Opnd} {e : Eff} :
    e ∈ c.writeEffs t o 1 v ↔ ∃ l, c.resolve t o 1 = .ok [l] ∧ e = .reg t l (BitVec.ofNat 32 v) := by
  unfold Iss.writeEffs
  cases hr : c.resolve t o 1 with
  | error x => simp
  | ok ls =>
    obtain ⟨l, rfl⟩ := List.length_eq_one_iff.mp (Iss.length_of_resolve_one hh hr)
    simp [natWords]

/-- The effects by which some threads receive one word. -/
theorem Iss.mem_writeAll_one {c : Iss} (hh : c.hel = none) {ts : List Nat} {v : Nat} {o : Opnd} {e : Eff} :
    e ∈ ts.flatMap (fun t => c.writeEffs t o 1 v) ↔ ∃ t ∈ ts, ∃ l, c.resolve t o 1 = .ok [l] ∧ e = .reg t l (BitVec.ofNat 32 v) := by
  simp [List.mem_flatMap, Iss.mem_writeEffs_one hh]

/-- A place just written keeps its word over the end of the instruction that wrote it (R66). -/
theorem Warp.Finished.readLoc {c c' : Iss} {w w' : Warp} (hf : w.Finished c w') (hw : c'.w = w') {th : Nat} {m : RegLoc} {v : Word} (hm : m.Own)
    (hcell : w.cell th m = some { val := v, life := 3 }) : c'.readLoc th m = v := by
  subst hw
  cases m with
  | file n =>
    have hr : c'.w.regs = w.regs := (congrArg Warp.regs hf.rest :)
    simp only [Iss.readLoc, hr]
    exact congrArg LatchEntry.val (Option.some.inj hcell)
  | latch k =>
    have hcell' : mget? w.latches (4 * th + k) = some { val := v, life := 3 } := hcell
    simp only [Iss.readLoc, hf.latches, hcell']
    cases c.ages (4 * th + k) <;> rfl
  | _ => exact hm.elim

/-- The effects of an issue on the registers of its warp. -/
theorem State.seat_effsBy (s : State) {c : Iss} {e : Nat} (he : c.who = .split e) (es : List Eff) :
    Seat s (s.effsBy c es) c (fun w => es.foldl Warp.eff w) id := by
  have h : Seat s (s.effs c.core c.slot c.who es) c (fun w => es.foldl Warp.eff w) id := by
    unfold State.effs
    rw [he]
    exact s.seat_modWarp c _
  exact h.then_same (State.seat_coolAt _ c _ _ _ _)

theorem State.quiet_effsBy (s : State) (c : Iss) (es : List Eff) : Quiet s (s.effsBy c es) c.core c.slot := by
  refine Quiet.trans ?_ (State.quiet_coolAt _ _ _ _ _)
  unfold State.effs
  split
  · exact s.quiet_modWarp _ _ _
  · exact s.quiet_modHelper _ _ _ _

/-- Effects spare what they do not write. -/
theorem spares_effs {wr : Writes} {c : Iss} (hh : c.hel = none) {es : List Eff} (hp : ∀ e ∈ es, e.Placed)
    (hreg : ∀ t l v, .reg t l v ∈ es → l.Own → wr.reg t l = true) (hpred : ∀ t p b, .pred t p b ∈ es → p ≠ 0 → wr.pred t p = true)
    (hflags : ∀ t f, .flags t f ∉ es) (hindex : ∀ t k v, .index t k v ∉ es) (w : Warp) : wr.Spares c w (es.foldl Warp.eff w) where
  regs th n _ hn h := by
    have := w.cell_effs_other hp (th := th) (m := .file n) hn fun v hv => by simp [hh, hreg th _ v hv hn] at h
    exact congrArg LatchEntry.val (Option.some.inj this)
  preds th p h := by
    by_cases h0 : p = 0
    · simp [Warp.pred, h0]
    · exact w.pred_effs_other fun b hb => by simp [hh, hpred th p b hb h0] at h
  fpst th _ := foldl_observe_same (fun w : Warp => mgetD w.fpst th 0) (fun e he b => by
    cases e with
    | flags t f => exact absurd he (hflags t f)
    | reg t l v => cases l <;> rfl
    | _ => rfl) w
  ixs th k _ _ := foldl_observe_same (fun w : Warp => w.ix th k) (fun e he b => by
    cases e with
    | index t j v => exact absurd he (hindex t j v)
    | reg t l v => cases l <;> rfl
    | _ => rfl) w
  latches th k hk h := w.cell_effs_other hp (th := th) (m := .latch k) hk fun v hv => by simp [hh, hreg th _ v hv hk] at h

/-- The registers that a destination names. -/
theorem Iss.names_of_resolve {c : Iss} {th n : Nat} {o : Opnd} {ls : List RegLoc} {l : RegLoc} (hr : c.resolve th o n = .ok ls) (hl : l ∈ ls) (ho : l.Own) :
    c.names th o n l = true := by
  have : l ≠ .zero := by rintro rfl; exact ho
  simp [Iss.names, hr, hl, this]

/-! ### Masks -/

theorem hasBit_maskOf (l : List Nat) (k : Nat) : hasBit (maskOf l) k = decide (k ∈ l) := by
  have step : ∀ m x, hasBit (if hasBit m x then m else m + 2 ^ x) k = (hasBit m k || decide (x = k)) := by
    intro m x
    by_cases hx : hasBit m x = true
    · by_cases hk : x = k
      · subst hk; simp [hx]
      · simp [hx, hk]
    · have hm : m + 2 ^ x = setBits m x 1 (if true then 1 else 0) := by
        have : m / 2 ^ x % 2 = 0 := by
          simp only [hasBit, beq_iff_eq] at hx
          omega
        simp [setBits, bitsOf, this]
      rw [if_neg hx, hm, hasBit_setBits_one]
      by_cases hk : x = k <;> simp [hk]
  have key : ∀ (l : List Nat) (m : Nat), hasBit (l.foldl (fun m k => if hasBit m k then m else m + 2 ^ k) m) k = (hasBit m k || decide (k ∈ l)) := by
    intro l
    induction l with
    | nil => simp
    | cons x r ih =>
      intro m
      rw [List.foldl_cons, ih, step, Bool.or_assoc]
      congr 1
      simp [eq_comm]
  have h := key l 0
  rwa [show hasBit 0 k = false by simp [hasBit], Bool.false_or] at h

/-- A number below 2^n is known by its first n bits. -/
theorem eq_of_hasBit {a b n : Nat} (ha : a < 2 ^ n) (hb : b < 2 ^ n) (h : ∀ k, k < n → hasBit a k = hasBit b k) : a = b := by
  refine Nat.eq_of_testBit_eq fun k => ?_
  by_cases hk : k < n
  · simpa only [hasBit_eq_testBit] using h k hk
  · have hp : 2 ^ n ≤ 2 ^ k := Nat.pow_le_pow_right (by decide) (by omega)
    rw [Nat.testBit_lt_two_pow (by omega), Nat.testBit_lt_two_pow (by omega)]

theorem maskOf_lt {l : List Nat} {n : Nat} (h : ∀ x ∈ l, x < n) : maskOf l < 2 ^ n := by
  refine Nat.lt_pow_two_of_testBit _ fun k hk => ?_
  rw [← hasBit_eq_testBit, hasBit_maskOf]
  exact decide_eq_false fun hm => by have := h k hm; omega

end Sys2Proof.Machine


/-! PROOF. Waits: what MWAIT, WAITC, FENCEB and WAITB do where they need not wait. -/

namespace Sys2Proof.Machine

theorem SeqClear.no_helper {s : State} {c : Iss} {tids : List Nat} {srcs : List (Opnd × Nat)} {dst : Option (Opnd × Nat)}
    (h : SeqClear s c false tids srcs dst) : c.hel = none := by
  cases hh : c.hel with
  | none => rfl
  | some x => exact absurd (h.1 (by simp [hh])) (by decide)

theorem Seated.split_of_no_helper {s : State} {c : Iss} (hc : Seated s c) (hh : c.hel = none) :
    ∃ e sp, c.who = .split e ∧ c.split = some sp ∧ mget? c.w.splits e = some sp := by
  rcases hc.who with ⟨e, sp, h1, h2, h3, -⟩ | ⟨_, _, _, _, _, _, _, _, hx⟩
  · exact ⟨e, sp, h1, h2, h3⟩
  · rw [hh] at hx; cases hx

/-! ### MWAIT -/

/-- The fired bits of a warp's monitors, as MWAIT reports them. -/
def Warp.firedMask (w : Warp) : Nat := maskOf ((upto 4).filter (fun k => match w.monitors[k]? with
  | some m => m.fired
  | none => false))

theorem Warp.hasBit_firedMask (w : Warp) {k : Nat} (hk : k < 4) : hasBit w.firedMask k = true ↔ ∃ x, w.monitors[k]? = some x ∧ x.fired = true := by
  simp only [Warp.firedMask, hasBit_maskOf, decide_eq_true_eq, List.mem_filter]
  cases w.monitors[k]? <;> simp [upto, hk]

theorem Warp.firedMask_eq {w : Warp} {m : Nat} (hm : m < 16) (h : ∀ k, k < 4 → (hasBit m k = true ↔ ∃ x, w.monitors[k]? = some x ∧ x.fired = true)) :
    m = w.firedMask := by
  refine eq_of_hasBit (n := 4) hm (maskOf_lt fun x hx => by simpa [upto] using (List.mem_filter.mp hx).1) fun k hk => ?_
  rw [Bool.eq_iff_iff, h k hk, w.hasBit_firedMask hk]

/-- The monitors of a warp once their fired bits have been reported. -/
def Warp.reported (w : Warp) : Warp := { w with monitors := w.monitors.map (fun m => { m with fired := false }) }

/-- MWAIT that need not wait returns the fired bits. -/
theorem execMwait_returns {s : State} {c : Iss} {d : Opnd} {t : BitVec 9} {sp : Split} (hc : s.iss = some c)
    (hclear : SeqClear s c false c.tids [] (some (d, 1))) (hsh : c.sharedWrite c.tids d 1 = false) (hsp : c.split = some sp)
    (h : (sp.status = .ready ∧ (c.w.anyFired = true ∨ (t = 0 ∧ ∀ m ∈ c.w.monitors, m.armed = false))) ∨
      ((∃ dl d', sp.status = .parked (.mwait dl d')) ∧ c.w.anyFired = true)) :
    exec (.mwait d t) s = .next (s.mwaitReturn c d false) := by
  show execMwait d t s = _
  rw [execMwait, seqOps_clear false (fun c => c.tids) [] (some (d, 1)) _ hc hclear]
  rcases h with ⟨hst, hf⟩ | ⟨⟨dl, d', hst⟩, hf⟩
  · have harm : (c.w.anyFired || (t == 0 && !c.w.monitors.any (fun m => m.armed))) = true := by
      rcases hf with hf | ⟨rfl, hm⟩
      · simp [hf]
      · simpa using .inr hm
    simp only [hsp, hst, Option.isSome_none, Bool.false_eq_true, if_false, hsh, harm, if_true]
  · simp [hsp, hst, hf]

theorem mwait_completes {s : State} {c : Iss} {d : Opnd} {t : BitVec 9} (hc : s.iss = some c) (hh : c.hel = none)
    (hx : exec (.mwait d t) s = .next (s.mwaitReturn c d false)) :
    CompletesIn { Footprint.plain with warp := fun w => { w with monitors := [] } } (.mwait d t) s c
      { Writes.none with reg := fun th l => c.tids.contains th && c.names th d 1 l }
      (fun c' _ => c'.w.monitors = c.w.monitors.map (fun m => { m with fired := false }) ∧
        ∀ m, m < 16 → (∀ k, k < 4 → (hasBit m k = true ↔ ∃ x, c.w.monitors[k]? = some x ∧ x.fired = true)) → ∀ th ∈ c.tids, c.holds c' th d 1 m) := by
  have hseat := State.seated_of_iss hc
  obtain ⟨e, sp, hwho, -⟩ := hseat.split_of_no_helper hh
  let es := c.tids.flatMap (fun t => c.writeEffs t d 1 (c.w.firedMask + 0))
  have hmem : ∀ {x : Eff}, x ∈ es ↔ ∃ t ∈ c.tids, ∃ l, c.resolve t d 1 = .ok [l] ∧ x = .reg t l (BitVec.ofNat 32 c.w.firedMask) :=
    Iss.mem_writeAll_one hh
  have hplaced : ∀ x ∈ es, x.Placed := by
    rintro x hx t l v rfl
    obtain ⟨t', -, l', hr, heq⟩ := hmem.mp hx
    cases heq
    exact Iss.placed_of_resolve hh hr l (by simp)
  have hspares := spares_effs (wr := { Writes.none with reg := fun th l => c.tids.contains th && c.names th d 1 l }) hh hplaced
    (fun t l v hm ho => by
      obtain ⟨t', ht, l', hr, heq⟩ := hmem.mp hm
      cases heq
      simp [ht, Iss.names_of_resolve hr (by simp) ho])
    (fun t p b hm => by obtain ⟨_, _, _, _, heq⟩ := hmem.mp hm; cases heq)
    (fun t f hm => by obtain ⟨_, _, _, _, heq⟩ := hmem.mp hm; cases heq)
    (fun t k v hm => by obtain ⟨_, _, _, _, heq⟩ := hmem.mp hm; cases heq) c.w
  have hrest := Warp.rest_effs es c.w
  have hmon : (es.foldl Warp.eff c.w).monitors = c.w.monitors := (congrArg Warp.monitors hrest :)
  refine completesIn_finish (fw := fun w => (es.foldl Warp.eff w).reported) hc hx
    ((s.quiet_effsBy c es).trans (State.quiet_modWarp _ _ _ _)) ((s.seat_effsBy hwho es).trans (State.seat_modWarp _ c _))
    (congrArg (fun w : Warp => ({ w with iiu := 0, splits := [], strands := [], monitors := [] } : Warp)) hrest :)
    (congrArg Warp.splits hrest :) (congrArg Warp.strands hrest :)
    ⟨hspares.regs, hspares.preds, hspares.fpst, hspares.ixs, hspares.latches⟩ fun c' w' hb hf => ⟨?_, fun m hm hbits th hth ls j l hr hj hl => ?_⟩
  · rw [hb.w, show w'.monitors = _ from (congrArg Warp.monitors hf.rest :), ← hmon]
    rfl
  · obtain ⟨l', rfl⟩ := List.length_eq_one_iff.mp (Iss.length_of_resolve_one hh hr)
    obtain ⟨rfl, rfl⟩ : j = 0 ∧ l' = l := by
      cases j with
      | zero => simpa using hj
      | succ j => simp at hj
    have hown := (Iss.placed_of_resolve hh hr l' (by simp)).resolve_left hl
    rw [Warp.firedMask_eq hm hbits]
    refine (hf.readLoc hb.w hown (Warp.cell_effs_set c.w hplaced hown (hmem.mpr ⟨th, hth, l', hr, rfl⟩) fun u hu => ?_)).trans (by simp)
    obtain ⟨_, _, _, hr', heq⟩ := hmem.mp hu
    cases heq
    rfl

/-! ### WAITC, FENCEB and WAITB -/

/-- An instruction that does nothing but end. -/
theorem completesWith_finish {i : Instr} {s : State} {c : Iss} {ps : List Nat} (hc : s.iss = some c) (hi : exec i s = .next (s.finish c ps)) :
    CompletesWith i s c Writes.none (fun _ _ => True) :=
  completesIn_finish (g := id) hc hi (.refl _ _ _) (.refl s c) rfl rfl rfl (.of_same rfl rfl rfl rfl rfl) fun _ _ _ _ => trivial

theorem execWaitc_met {s : State} {c : Iss} {cps : BitVec 5} {lds sts : BitVec 6} {tls : BitVec 4} (hc : s.iss = some c)
    (hl : c.counterOf .loads ≤ lds.toNat) (hs : c.counterOf .stores ≤ sts.toNat)
    (hw : c.hel = none → c.w.copies ≤ cps.toNat ∧ c.w.tiles ≤ tls.toNat) : exec (.waitc cps lds sts tls) s = .next (s.finish c []) := by
  show execWaitc cps lds sts tls s = _
  rw [execWaitc, withIss_eq _ hc]
  cases hh : c.hel with
  | none => simp [hl, hs, hw hh]
  | some h => simp [hl, hs]

theorem pruneBatches_append_single {bs : List (Nat × Nat)} (h : ∀ b, bs.head? = some b → b.2 ≠ 0) (n k : Nat) :
    pruneBatches (bs ++ [(n, k)]) = bs ++ (if bs = [] ∧ k = 0 then [] else [(n, k)]) := by
  cases bs with
  | nil => by_cases hk : k = 0 <;> simp [pruneBatches, hk]
  | cons b r =>
    have hb : b.2 ≠ 0 := h b rfl
    simp [pruneBatches, hb]

/-- What FENCEB makes of the batches of its warp. -/
def Warp.fenceBatch (w : Warp) : Warp :=
  { w with batch := w.batch + 1, openBatch := 0, batches := pruneBatches (w.batches ++ [(w.nextBatch, w.openBatch)]) }

theorem fenceb_completes {s : State} {c : Iss} (hc : s.iss = some c) (hh : c.hel = none) (hn : c.w.batches.length < 8) :
    CompletesIn { Footprint.plain with warp := fun w => { w with batch := 0, batches := [], openBatch := 0 } } .fenceb s c Writes.none
      (fun c' _ => c'.w.batch = c.w.batch + 1 ∧ c'.w.openBatch = 0 ∧
        ((∀ b, c.w.batches.head? = some b → b.2 ≠ 0) → c'.w.batches = c.w.batches ++
          (if c.w.batches = [] ∧ c.w.openBatch = 0 then [] else [((c.w.batch.toNat + 1) % 2 ^ 32, c.w.openBatch)]))) := by
  have hx : exec .fenceb s = .next (((s.modWarp c.core c.slot Warp.fenceBatch).coolSpecial c .batch).finish c []) := by
    show execFenceb s = _
    rw [execFenceb, withIss_eq _ hc]
    simp only [hh, Option.isSome_none, Bool.false_eq_true, if_false, if_neg (show ¬8 ≤ c.w.batches.length by omega)]
    rfl
  refine completesIn_finish (fw := Warp.fenceBatch) hc hx ((s.quiet_modWarp _ _ _).trans (State.quiet_coolSpecial _ _ _))
    ((s.seat_modWarp c _).then_same (State.seat_coolSpecial _ c _)) rfl rfl rfl (.of_same rfl rfl rfl rfl rfl) fun c' w' hb hf => ?_
  rw [hb.w]
  refine ⟨(congrArg Warp.batch hf.rest :), (congrArg Warp.openBatch hf.rest :), fun hhead => ?_⟩
  rw [show w'.batches = _ from (congrArg Warp.batches hf.rest :)]
  exact pruneBatches_append_single hhead _ _

theorem execWaitb_complete {s : State} {c : Iss} {a : Opnd} {n : BitVec 9} (hc : s.iss = some c) (hclear : SeqClear s c false (c.tids.take 1) [(a, 1)] none)
    (hres : c.resumed = none) (hall : ∀ b ∈ c.w.batches, batchLater b.1 (if batchLater ((c.first a 1 + n.toNat) % 2 ^ 32) c.w.batch.toNat
      then c.w.batch.toNat else (c.first a 1 + n.toNat) % 2 ^ 32) = true) : exec (.waitb a n) s = .next (s.finish c []) := by
  show execWaitb a n s = _
  rw [execWaitb, seqOps_clear false Iss.lowest [(a, 1)] none _ hc hclear]
  have hv : ∀ v, v = (c.first a 1 + n.toNat) % 2 ^ 32 →
      (c.w.batches.any fun b => !batchLater b.1 (if batchLater v c.w.batch.toNat then c.w.batch.toNat else v)) = false := by
    rintro v rfl
    rw [List.any_eq_false]
    intro b hb
    rw [hall b hb]
    decide
  simp only [hres]
  refine congrArg Host.Outcome.next (if_neg ?_)
  rw [Bool.not_eq_true]
  refine hv _ ?_
  unfold Iss.first
  have hn := n.isLt
  cases c.tids with
  | nil => simp only; omega
  | cons t ts => rfl

/-- Settles O16: where MWAIT, WAITC, FENCEB and WAITB need not wait, each is its own change of the warp and then the ordinary end of an
instruction (`completesIn_finish`). -/
theorem waits : Obligations.Waits := fun _ _ hc =>
  ⟨fun _ _ _ hclear hsh hsp h => mwait_completes hc hclear.no_helper (execMwait_returns hc hclear hsh hsp h),
    fun _ _ _ _ hl hs hw => completesWith_finish hc (execWaitc_met hc hl hs hw),
    fenceb_completes hc,
    fun _ _ hclear hres hall => completesWith_finish hc (execWaitb_complete hc hclear hres hall)⟩

end Sys2Proof.Machine

/-! PROOF. GlobalStores fails: the statement is about every state, also one whose unacknowledged buffer entries share a number.  Of two such
entries that hold one byte the later in the order of `State.unacked` answers, and a store that fills the entry of the buffer moves that
entry behind those that drain. -/

namespace Sys2Proof.Machine

/-- The byte that a core reads at a place of HBM in the state that an instruction leaves. -/
def hbmAfter (r : Result) (core key pa : Nat) : List Byte :=
  match r with
  | .next t => t.loadBytes core .hbm key pa 1
  | _ => []

end Sys2Proof.Machine

namespace Sys2Proof.Tests

open Sys2Proof.Machine

/-- Line 0 of HBM, every byte 0, in the buffer: the next store to the line completes it. -/
def twinStored : WcbEntry := { benchEntry with line := 0, bytes := (upto 128).map (fun o => (o, 0)) }

/-- An entry of the same line and number that drains, with byte 64 as 1. -/
def twinDraining : WcbEntry := { benchEntry with line := 0, bytes := [(64, 1)] }

/-- The small machine with the two entries. -/
def benchTwins : State := bench.modCore 0 (fun k => { k with wcb := [twinStored], drains := [twinDraining] })

theorem benchTwins_iss : benchTwins.iss = some (issOf benchTwins) := issOf_iss (by decide +kernel)

/-- A store of v1 at the address in v0. -/
def twinForm : MForm := { d := .win 1, a := .win 0, off := 0, g := false, u := false }

theorem benchTwins_before : benchTwins.loadBytes 0 .hbm 1 64 1 = [1] := by decide +kernel

theorem benchTwins_after : hbmAfter (exec (.st .w32 twinForm) benchTwins) 0 1 64 = [0] := by decide +kernel

theorem benchTwins_target : ∀ x ∈ (storeSpec (.win 1) (.win 0) 1 false false).units benchTwins (issOf benchTwins),
    (targets benchTwins (issOf benchTwins) false (.win 0) 0 .store x.1).pa = 0 := by decide +kernel

theorem benchTwins_clear : (storeSpec (.win 1) (.win 0) 1 false false).Clear benchTwins (issOf benchTwins) :=
  memClear_of_ok (by decide +kernel)

theorem benchTwins_global : GlobalClear (storeSpec (.win 1) (.win 0) 1 false false) benchTwins (issOf benchTwins) (.win 0) 0 4 .store
    (targets benchTwins (issOf benchTwins) false (.win 0) 0 .store) :=
  globalClear_of_ok (by decide +kernel)

end Sys2Proof.Tests

namespace Sys2Proof.Machine

open Sys2Proof.Tests in
/-- Refutes O18: on `benchTwins` ST of 4 bytes at address 0 sends its line, and byte 64, which it does not cover, reads as 0 where it read
as 1. -/
theorem not_globalStores : ¬ Obligations.GlobalStores := by
  unfold Obligations.GlobalStores
  intro h
  obtain ⟨st, -, -⟩ := h benchTwins (issOf benchTwins) benchTwins_iss
  obtain ⟨t, c', ht, -, ⟨-, same, -⟩, -⟩ := st .w32 twinForm _ benchTwins_clear benchTwins_global
  have apart : ∀ x ∈ (storeSpec (.win 1) (.win 0) 1 false false).units benchTwins (issOf benchTwins),
      ¬ (targets benchTwins (issOf benchTwins) false (.win 0) 0 .store x.1).covers 4 .hbm 1 64 := by
    rintro x hx ⟨-, -, -, hlt⟩
    have := benchTwins_target x hx
    omega
  have before : t.loadBytes 0 .hbm 1 64 1 = [1] := (same 0 .hbm 1 64 apart).trans benchTwins_before
  have after : t.loadBytes 0 .hbm 1 64 1 = [0] := by
    have := benchTwins_after
    rwa [ht] at this
  exact absurd (before.symm.trans after) (by decide)

end Sys2Proof.Machine

/-! PROOF. MemoryEvents fails: the entry of a window page that ages out of the buffer does not stay unacknowledged where its device is absent. -/

namespace Sys2Proof.Tests

open Sys2Proof.Machine

/-- A store of one byte to a window page of device 1, which the small machine does not have. -/
def absentEntry : WcbEntry := { benchEntry with space := .fabric, line := 2 ^ 48 / 128, key := 0, bytes := [(0, 9)] }

/-- The small machine 2 µs after that store. -/
def benchAbsent : State := ({ bench with elapsed := 2000 } : State).modCore 0 (fun k => { k with wcb := [absentEntry] })

/-- Is an entry of a core unacknowledged in the state that an event leaves? -/
def unackedAfter (r : Result) (core : Nat) (e : WcbEntry) : Bool :=
  match r with
  | .next t => (t.unacked core).contains e
  | _ => true

theorem absentEntry_failed : unackedAfter (exec (.wcbAgeDrain 0 0) benchAbsent) 0 absentEntry = false := by decide +kernel

end Sys2Proof.Tests

namespace Sys2Proof.Machine

open Sys2Proof.Tests in
/-- Refutes O39: on `benchAbsent` the entry leaves the buffer for a device that is not there, its write fails at once (R397, R405), and it is
not among the unacknowledged entries, where the clause of WCB_AGE_DRAIN has it. -/
theorem not_memoryEvents : ¬ Obligations.MemoryEvents := by
  unfold Obligations.MemoryEvents MemoryEventsBasic
  rintro ⟨basic, -, -⟩
  obtain ⟨-, -, -, ages, -⟩ := basic benchAbsent 0 0 0
  obtain ⟨t, ht, -, -, held⟩ := ages absentEntry (by decide +kernel) (by decide +kernel)
  have gone := absentEntry_failed
  rw [ht] at gone
  exact absurd (List.contains_iff_mem.mpr held) (by simpa [unackedAfter] using gone)

end Sys2Proof.Machine

/-! SUPPORT. What the memory and fabric engines leave alone as entries and operations move toward their coherence points: every device to which
something is sent being present, nothing but buffers, queues, streams and accounts changes. -/

namespace Sys2Proof.Machine

/-! ### What stands still -/

/-- Of a core its warps, its prickings, its scratchpad and its accumulators are as before. -/
structure Core.Kept (k k' : Core) : Prop where
  warps : k'.warps = k.warps
  prickings : k'.prickings = k.prickings
  scratch : k'.scratch = k.scratch
  acc : k'.acc = k.acc

/-- The memories, the kept parts of every core, the contexts and the domain are as before, and no remote operation is lost. -/
structure Still (s t : State) : Prop where
  stores : s.SameStores t
  kept : ∀ core, (s.core core).Kept (t.core core)
  ctxs : t.ctxs = s.ctxs
  domain : t.fab.domain = s.fab.domain
  ops : ∀ f ∈ s.fabOps, ∃ q, { f with seq := q } ∈ t.fabOps

theorem Still.refl (s : State) : Still s s := ⟨.refl s, fun _ => ⟨rfl, rfl, rfl, rfl⟩, rfl, rfl, fun f hf => ⟨f.seq, hf⟩⟩

theorem Still.trans {s t u : State} (h : Still s t) (k : Still t u) : Still s u := by
  refine ⟨h.stores.trans k.stores, fun core => ?_, k.ctxs.trans h.ctxs, k.domain.trans h.domain, fun f hf => ?_⟩
  · exact ⟨(k.kept core).warps.trans (h.kept core).warps, (k.kept core).prickings.trans (h.kept core).prickings,
      (k.kept core).scratch.trans (h.kept core).scratch, (k.kept core).acc.trans (h.kept core).acc⟩
  · obtain ⟨q, hq⟩ := h.ops f hf
    obtain ⟨r, hr⟩ := k.ops { f with seq := q } hq
    exact ⟨r, hr⟩

theorem Still.devPresent {s t : State} (h : Still s t) (d : Nat) : t.devPresent d = s.devPresent d := by simp only [State.devPresent, h.domain]

theorem Still.warp? {s t : State} (h : Still s t) (core slot : Nat) : t.warp? core slot = s.warp? core slot := by
  simp only [State.warp?, (h.kept core).warps]

theorem Still.sameMemory {s t : State} (h : Still s t) : SameMemory s t :=
  ⟨fun _ _ _ _ => h.stores.memRead _ _ _ _ _, fun core a => by simp only [Core.scrByte, Core.word, (h.kept core).scratch], fun core => (h.kept core).acc⟩

theorem Still.seat {s t : State} (h : Still s t) (c : Iss) : Seat s t c id id := .of_same (h.warp? _ _) (h.kept _).prickings

/-! ### Steps that keep the fabric clear -/

/-- A step of an engine: from a state where every device to which something waits to be sent is present, it leaves the rest of the machine still
and the fabric clear. -/
def Sends (s t : State) : Prop := FabricClear s [] → Still s t ∧ FabricClear t []

theorem Sends.refl (s : State) : Sends s s := fun h => ⟨.refl s, h⟩

theorem Sends.trans {s t u : State} (h : Sends s t) (k : Sends t u) : Sends s u := by
  intro hs
  obtain ⟨hst, ht⟩ := h hs
  obtain ⟨htu, hu⟩ := k ht
  exact ⟨hst.trans htu, hu⟩

theorem Sends.foldl {α : Type} {f : State → α → State} {l : List α} (h : ∀ s, ∀ x ∈ l, Sends s (f s x)) (s : State) : Sends s (l.foldl f s) := by
  induction l generalizing s with
  | nil => exact .refl s
  | cons x r ih =>
    exact (h s x List.mem_cons_self).trans (ih (fun s y hy => h s y (List.mem_cons_of_mem _ hy)) _)

/-- A buffer whose bytes for window pages all go to devices that are present. -/
def State.Reaches (s : State) (e : WcbEntry) : Prop := e.space = .fabric → ∀ o ∈ mkeys e.bytes, s.devPresent (fabricDev (e.line * 128 + o)) = true

theorem FabricClear.reaches {s : State} {tgs : List Target} (h : FabricClear s tgs) {core : Nat} {e : WcbEntry} (he : e ∈ (s.core core).wcb) :
    s.Reaches e := fun hf => h.2.1 core e he hf

theorem FabricClear.of_still {s t : State} (hs : Still s t) (hw : ∀ core, ∀ e ∈ (t.core core).wcb, s.Reaches e)
    (hf : ∀ f ∈ t.fabOps, f.seq = none → s.devPresent f.dev = true) : FabricClear t [] := by
  refine ⟨by simp, fun core e he hsp o ho => ?_, fun f hft hn => ?_⟩
  · rw [hs.devPresent]
    exact hw core e he hsp o ho
  · rw [hs.devPresent]
    exact hf f hft hn

/-- A step that sends nothing and adds nothing to a buffer. -/
theorem Sends.of_still {s t : State} (hs : Still s t) (hw : ∀ core, ∀ e ∈ (t.core core).wcb, e ∈ (s.core core).wcb) (hf : t.fabOps = s.fabOps) : Sends s t :=
  fun h => ⟨hs, .of_still hs (fun core e he => h.reaches (hw core e he)) (fun f hft hn => h.2.2 f (hf ▸ hft) hn)⟩

/-- A step that changes neither the cores nor anything of the fabric. -/
theorem Sends.of_device {s t : State} (hc : t.cores = s.cores) (hs : s.SameStores t) (hx : t.ctxs = s.ctxs) (hd : t.fab.domain = s.fab.domain)
    (hf : t.fabOps = s.fabOps) : Sends s t := by
  have hcore : ∀ core, t.core core = s.core core := fun core => by simp only [State.core, hc]
  exact .of_still ⟨hs, fun core => by rw [hcore]; exact ⟨rfl, rfl, rfl, rfl⟩, hx, hd, fun f h => ⟨f.seq, by rw [hf]; exact h⟩⟩
    (fun core e he => by rwa [hcore] at he) hf

theorem Still.setCore (s : State) (core : Nat) {k : Core} (hk : (s.core core).Kept k) : Still s (s.setCore core k) := by
  refine ⟨⟨rfl, rfl, rfl, rfl, rfl⟩, fun d => ?_, rfl, rfl, fun f h => ⟨f.seq, h⟩⟩
  by_cases h : core = d
  · subst h
    rwa [State.core_setCore_same]
  · rw [State.core_setCore_other _ _ h]
    exact ⟨rfl, rfl, rfl, rfl⟩

/-- A change of a core that keeps what is kept and adds no entry to its buffer. -/
theorem Sends.setCore (s : State) (core : Nat) {k : Core} (hk : (s.core core).Kept k) (hw : ∀ e ∈ k.wcb, e ∈ (s.core core).wcb) :
    Sends s (s.setCore core k) := by
  refine .of_still (.setCore s core hk) (fun d e he => ?_) rfl
  by_cases h : core = d
  · subst h
    rw [State.core_setCore_same] at he
    exact hw e he
  · rwa [State.core_setCore_other _ _ h] at he

theorem Sends.modCore (s : State) (core : Nat) {f : Core → Core} (hk : ∀ k, Core.Kept k (f k)) (hw : ∀ k, ∀ e ∈ (f k).wcb, e ∈ k.wcb) :
    Sends s (s.modCore core f) := .setCore s core (hk _) (hw _)

theorem Sends.count (s : State) (p : Nat) (k : Counter) (n : Nat) : Sends s (s.count p k n) := .of_device rfl ⟨rfl, rfl, rfl, rfl, rfl⟩ rfl rfl rfl

theorem Sends.countAt (s : State) (core : Nat) (k : Counter) (n : Nat) : Sends s (s.countAt core k n) := by
  unfold State.countAt
  split
  · exact .count _ _ _ _
  · exact .refl s

theorem Sends.meter (s : State) (p : Nat) (m : Meter) (n : Nat) : Sends s (s.meter p m n) := .of_device rfl ⟨rfl, rfl, rfl, rfl, rfl⟩ rfl rfl rfl

theorem Sends.takeId (s : State) : Sends s s.takeId := .of_device rfl ⟨rfl, rfl, rfl, rfl, rfl⟩ rfl rfl rfl

theorem Sends.tlbFill (s : State) (core ctx va : Nat) : Sends s (s.tlbFill core ctx va) := by
  unfold State.tlbFill
  split
  · exact .refl s
  · split
    · exact .refl s
    · split
      · exact .refl s
      · split
        · exact .refl s
        · exact .modCore _ _ (fun _ => ⟨rfl, rfl, rfl, rfl⟩) (fun _ _ h => h)

theorem Sends.fillTlbs (s : State) (c : Iss) (vas : List Nat) : Sends s (s.fillTlbs c vas) := .foldl (fun s va _ => .tlbFill s _ _ va) s

/-! ### Remote operations -/

theorem mem_replaceFirst {α : Type} [DecidableEq α] {x y z : α} {l : List α} (h : z ∈ replaceFirst x y l) : z = y ∨ z ∈ l := by
  induction l with
  | nil => simp [replaceFirst] at h
  | cons a r ih =>
    unfold replaceFirst at h
    split at h
    · exact (List.mem_cons.mp h).imp_right (List.mem_cons_of_mem _)
    · rcases List.mem_cons.mp h with rfl | h
      · exact .inr List.mem_cons_self
      · exact (ih h).imp_right (List.mem_cons_of_mem _)

theorem mem_replaceFirst_of_mem {α : Type} [DecidableEq α] {x y z : α} {l : List α} (h : z ∈ l) : z ∈ replaceFirst x y l ∨ z = x ∧ y ∈ replaceFirst x y l := by
  induction l with
  | nil => cases h
  | cons a r ih =>
    unfold replaceFirst
    split
    next ha =>
      rcases List.mem_cons.mp h with rfl | h
      · exact .inr ⟨ha, List.mem_cons_self⟩
      · exact .inl (List.mem_cons_of_mem _ h)
    next =>
      rcases List.mem_cons.mp h with rfl | h
      · exact .inl List.mem_cons_self
      · exact (ih h).imp (List.mem_cons_of_mem _) (fun k => ⟨k.1, List.mem_cons_of_mem _ k.2⟩)

theorem State.sendFrame_fabOps (s : State) (dev part kind arg : Nat) (payload : List Byte) : (s.sendFrame dev part kind arg payload).1.fabOps = s.fabOps := by
  unfold State.sendFrame
  dsimp only
  split <;> rfl

theorem Sends.sendFrame (s : State) (dev part kind arg : Nat) (payload : List Byte) : Sends s (s.sendFrame dev part kind arg payload).1 := by
  unfold State.sendFrame
  dsimp only
  split
  · exact .of_device rfl ⟨rfl, rfl, rfl, rfl, rfl⟩ rfl rfl rfl
  · exact .of_device rfl ⟨rfl, rfl, rfl, rfl, rfl⟩ rfl rfl rfl

/-- An operation that is sent stays in the list under its number. -/
theorem Sends.markSent (s : State) (f : FabOp) (q : Nat) : Sends s { s with fabOps := replaceFirst f { f with seq := some q } s.fabOps } := by
  intro h
  have hs : Still s { s with fabOps := replaceFirst f { f with seq := some q } s.fabOps } := by
    refine ⟨⟨rfl, rfl, rfl, rfl, rfl⟩, fun _ => ⟨rfl, rfl, rfl, rfl⟩, rfl, rfl, fun g hg => ?_⟩
    rcases mem_replaceFirst_of_mem (x := f) (y := { f with seq := some q }) hg with hm | ⟨rfl, hm⟩
    · exact ⟨g.seq, hm⟩
    · exact ⟨some q, hm⟩
  refine ⟨hs, .of_still hs (fun core e he => h.reaches he) fun g hg hn => ?_⟩
  rcases mem_replaceFirst hg with rfl | hg
  · cases hn
  · exact h.2.2 g hg hn

theorem Sends.sendOp (s : State) {f : FabOp} (hp : s.devPresent f.dev = true) : Sends s (s.sendOp f) := by
  unfold State.sendOp
  rw [if_pos hp]
  exact (Sends.sendFrame s f.dev f.part f.frame.1 f.arg f.frame.2).trans (.markSent _ f _)

theorem State.seq_of_fabSendable {s : State} {f : FabOp} (h : s.fabSendable f = true) : f.seq = none := by
  unfold State.fabSendable at h
  simp only [Bool.and_eq_true] at h
  obtain ⟨⟨⟨⟨⟨hseq, -⟩, -⟩, -⟩, -⟩, -⟩ := h
  exact Option.isNone_iff_eq_none.mp hseq

theorem Sends.sendFab (s : State) : Sends s s.sendFab := by
  refine .foldl (fun t f _ h => ?_) s
  split
  next hf =>
    obtain ⟨hmem, hsend⟩ := Bool.and_eq_true_iff.mp hf
    exact Sends.sendOp t (h.2.2 f (List.contains_iff_mem.mp hmem) (State.seq_of_fabSendable hsend)) h
  next => exact ⟨.refl t, h⟩

/-- New operations to devices that are present join the list and go out. -/
theorem Sends.addOps (s : State) {fs : List FabOp} (hp : ∀ f ∈ fs, s.devPresent f.dev = true) : Sends s { s with fabOps := s.fabOps ++ fs } := by
  intro h
  have hs : Still s { s with fabOps := s.fabOps ++ fs } :=
    ⟨⟨rfl, rfl, rfl, rfl, rfl⟩, fun _ => ⟨rfl, rfl, rfl, rfl⟩, rfl, rfl, fun f hf => ⟨f.seq, List.mem_append_left _ hf⟩⟩
  refine ⟨hs, .of_still hs (fun core e he => h.reaches he) fun f hf hn => ?_⟩
  rcases List.mem_append.mp hf with hf | hf
  · exact h.2.2 f hf hn
  · exact hp f hf

/-! ### Buffer entries -/

theorem mem_mkeys_of_runsOf {m : NatMap Byte} {r : Nat × List Byte} (h : r ∈ runsOf m) : r.1 ∈ mkeys m := by
  induction m generalizing r with
  | nil => simp [runsOf] at h
  | cons e m ih =>
    obtain ⟨o, b⟩ := e
    have hkeys : mkeys ((o, b) :: m) = o :: mkeys m := rfl
    unfold runsOf at h
    split at h
    next p bs t ht =>
      have ih' : ∀ x ∈ (p, bs) :: t, x.1 ∈ mkeys m := fun x hx => ih (by rw [ht]; exact hx)
      rw [hkeys]
      split at h
      · rcases List.mem_cons.mp h with rfl | h
        · exact List.mem_cons_self
        · exact List.mem_cons_of_mem _ (ih' r (List.mem_cons_of_mem _ h))
      · rcases List.mem_cons.mp h with rfl | h
        · exact List.mem_cons_self
        · exact List.mem_cons_of_mem _ (ih' r h)
    next =>
      rw [List.mem_singleton.mp h]
      exact List.mem_cons_self

theorem Sends.sendEntry (s : State) (core : Nat) {e : WcbEntry} (he : s.Reaches e) : Sends s (s.sendEntry core e) := by
  unfold State.sendEntry
  split
  next hf =>
    refine (Sends.addOps s fun f hf' => ?_).trans (.sendFab _)
    obtain ⟨r, hr, rfl⟩ := List.mem_map.mp hf'
    exact he hf r.1 (mem_mkeys_of_runsOf hr)
  next =>
    split
    · exact .of_device rfl ⟨rfl, rfl, rfl, rfl, rfl⟩ rfl rfl rfl
    · exact .modCore _ _ (fun _ => ⟨rfl, rfl, rfl, rfl⟩) (fun _ _ h => h)

theorem Sends.sendEntries (s : State) (core : Nat) {es : List WcbEntry} (he : ∀ e ∈ es, s.Reaches e) : Sends s (es.foldl (fun s e => s.sendEntry core e) s) := by
  induction es generalizing s with
  | nil => exact .refl s
  | cons e r ih =>
    intro h
    obtain ⟨hst, ht⟩ := Sends.sendEntry s core (he e List.mem_cons_self) h
    obtain ⟨htu, hu⟩ := ih (s.sendEntry core e) (fun x hx hf o ho => (hst.devPresent _).trans (he x (List.mem_cons_of_mem _ hx) hf o ho)) ht
    exact ⟨hst.trans htu, hu⟩

theorem Sends.drainAll (s : State) (core : Nat) : Sends s (s.drainAll core) := by
  intro h
  exact ((Sends.modCore s core (f := fun k => { k with wcb := [] }) (fun _ => ⟨rfl, rfl, rfl, rfl⟩) (fun _ _ h => by cases h)).trans
    (.sendEntries _ core fun e he => h.reaches he)) h

theorem Sends.drainLine (s : State) (core : Nat) (sp : Space) (pa : Nat) : Sends s (s.drainLine core sp pa) := by
  intro h
  exact ((Sends.modCore s core (f := fun k => { k with wcb := k.wcb.filter (fun e => !(e.space == sp && e.line == pa / 128)) })
    (fun _ => ⟨rfl, rfl, rfl, rfl⟩) (fun _ _ h => List.mem_of_mem_filter h)).trans
    (.sendEntries _ core fun e he => h.reaches (List.mem_of_mem_filter he))) h

theorem Sends.publish (s : State) (part : Option Nat) (targets : List Nat) : Sends s (s.publish part targets) := by
  have h := Sends.foldl (l := targets) (f := fun s c => s.drainAll c) (fun s c _ => .drainAll s c) s
  unfold State.publish
  cases part with
  | none => exact h
  | some p => exact h.trans (.count _ _ _ _)

theorem Sends.publishLine (s : State) (core : Nat) (sp : Space) (pa : Nat) : Sends s (s.publishLine core sp pa).1 := .publish s _ _

/-- The step of `publishAccs` for one line. -/
def publishStep (core : Nat) (own others : Bool) (acc : State × List Nat) (l : Space × Nat) : State × List Nat :=
  let s := if own then acc.1.drainLine core l.1 l.2 else acc.1
  let mine := if own then (s.unacked core).filterMap (fun e => if e.space = l.1 ∧ e.line = l.2 / 128 then some e.eid else none) else []
  if others && l.1 != .fabric then
    let (s, es) := s.publishLine core l.1 l.2
    (s, acc.2 ++ mine ++ es)
  else (s, acc.2 ++ mine)

theorem State.publishAccs_eq (s : State) (core : Nat) (own others : Bool) (accs : List Access) : s.publishAccs core own others accs =
    (((accs.filter (fun a => a.space == .hbm || a.space == .plot || a.space == .host || a.space == .fabric)).map
      (fun a => (a.space, a.addr / 128 * 128))).dedup).foldl (publishStep core own others) (s, []) := rfl

theorem Sends.publishStep (core : Nat) (own others : Bool) (acc : State × List Nat) (l : Space × Nat) :
    Sends acc.1 (publishStep core own others acc l).1 := by
  have h : Sends acc.1 (if own then acc.1.drainLine core l.1 l.2 else acc.1) := by
    split
    · exact .drainLine _ _ _ _
    · exact .refl _
  unfold Machine.publishStep
  dsimp only
  split
  · exact h.trans (.publishLine _ _ _ _)
  · exact h

theorem Sends.publishAccs (s : State) (core : Nat) (own others : Bool) (accs : List Access) : Sends s (s.publishAccs core own others accs).1 := by
  rw [State.publishAccs_eq]
  generalize (((accs.filter (fun a => a.space == .hbm || a.space == .plot || a.space == .host || a.space == .fabric)).map
      (fun a => (a.space, a.addr / 128 * 128))).dedup) = lines
  suffices h : ∀ acc : State × List Nat, Sends acc.1 (lines.foldl (Machine.publishStep core own others) acc).1 from h (s, [])
  induction lines with
  | nil => exact fun acc => .refl _
  | cons l r ih => exact fun acc => (Sends.publishStep core own others acc l).trans (ih _)

end Sys2Proof.Machine

/-! SUPPORT. The memory engine gives out loads and atomics of global memory: nothing of a memory changes, and the fabric stays clear. -/

namespace Sys2Proof.Machine

/-! ### The first-level cache -/

theorem Sends.writeBack (s : State) (core wg : Nat) (l : L1Line) : Sends s (s.writeBack core wg l) := by
  unfold State.writeBack
  split
  · exact .refl s
  · extract_lets e t
    exact (Sends.modCore s core (f := fun k => { k with drains := k.drains ++ [e] }) (fun _ => ⟨rfl, rfl, rfl, rfl⟩) (fun _ _ h => h)).trans
      (.of_device (s := t) rfl ⟨rfl, rfl, rfl, rfl, rfl⟩ rfl rfl rfl)

theorem Core.l1Insert_kept (k : Core) (l : L1Line) : k.Kept (k.l1Insert l).1 ∧ (k.l1Insert l).1.wcb = k.wcb := by
  unfold Core.l1Insert
  dsimp only
  split
  · exact ⟨⟨rfl, rfl, rfl, rfl⟩, rfl⟩
  · split
    · exact ⟨⟨rfl, rfl, rfl, rfl⟩, rfl⟩
    · exact ⟨⟨rfl, rfl, rfl, rfl⟩, rfl⟩

theorem Sends.l1Put (s : State) (core : Nat) (l : L1Line) : Sends s (s.l1Put core l) := by
  obtain ⟨hk, hw⟩ := (s.core core).l1Insert_kept l
  have h : Sends s (s.setCore core ((s.core core).l1Insert l).1) := .setCore s core hk fun e he => hw ▸ he
  unfold State.l1Put
  split
  next k v e =>
    rw [e] at h
    exact h.trans (.writeBack _ _ _ _)
  next k e =>
    rw [e] at h
    exact h

theorem Sends.l1Load (s : State) (core key pa : Nat) : Sends s (s.l1Load core key pa) := by
  unfold State.l1Load
  dsimp only
  split
  · exact .l1Put _ _ _
  · exact .l1Put _ _ _

/-! ### Accesses that travel -/

theorem Sends.hostAccs (s : State) (core : Nat) (m : MemCmd) (accs : List Access) : Sends s (s.hostAccs core m accs) := by
  unfold State.hostAccs
  split
  · exact .refl s
  · exact (Sends.publishAccs s core true m.publishes accs).trans (.of_device rfl ⟨rfl, rfl, rfl, rfl, rfl⟩ rfl rfl rfl)

theorem Sends.fabricOps (s : State) (core : Nat) (m : MemCmd) (kind : FabKind) (ext : Extend) {accs : List Access} (after : List Nat)
    (hp : ∀ a ∈ accs, s.devPresent (fabricDev a.addr) = true) : Sends s (s.fabricOps core m kind ext accs after) := by
  unfold State.fabricOps
  extract_lets w ctx part home f
  split
  · exact .refl s
  · refine (Sends.addOps s fun g hg => ?_).trans (.sendFab _)
    obtain ⟨a, ha, rfl⟩ := List.mem_map.mp hg
    exact hp a ha

theorem Sends.fabricLs (s : State) (core : Nat) (m : MemCmd) (kind : FabKind) (ext : Extend) {accs : List Access}
    (hp : ∀ a ∈ accs, s.devPresent (fabricDev a.addr) = true) : Sends s (s.fabricLs core m kind ext accs) := by
  unfold State.fabricLs
  split
  · exact .refl s
  · intro h
    have hpub := Sends.publishAccs s core true false accs h
    exact ((Sends.publishAccs s core true false accs).trans
      (.fabricOps _ core m kind ext _ fun a ha => (hpub.1.devPresent _).trans (hp a ha))) h

theorem Sends.pushLoad (s : State) (core : Nat) (l : Load) : Sends s (s.pushLoad core l) :=
  .modCore s core (fun _ => ⟨rfl, rfl, rfl, rfl⟩) (fun _ _ h => h)

theorem Sends.pushStore (s : State) (core : Nat) (p : StorePend) : Sends s (s.pushStore core p) :=
  .modCore s core (fun _ => ⟨rfl, rfl, rfl, rfl⟩) (fun _ _ h => h)

/-! ### Commands -/

/-- Every access of a command that goes over the fabric goes to a device that is present. -/
def State.Reached (s : State) (accs : List Access) : Prop := ∀ a ∈ accs, a.space = .fabric → s.devPresent (fabricDev a.addr) = true

theorem mem_inSpace {sp : Space} {accs : List Access} {a : Access} : a ∈ inSpace sp accs ↔ a ∈ accs ∧ a.space = sp := by
  simp [inSpace]

/-- The accesses of a load that travel. -/
theorem Sends.travels (s : State) (core : Nat) (m : MemCmd) (kind : FabKind) (ext : Extend) {hosts fabs : List Access} (hf : ∀ a ∈ fabs, a.space = .fabric)
    (hp : s.Reached fabs) : Sends s ((s.hostAccs core m hosts).fabricLs core m kind ext fabs) := by
  intro h
  have hh := Sends.hostAccs s core m hosts h
  exact ((Sends.hostAccs s core m hosts).trans (.fabricLs _ core m kind ext fun a ha => (hh.1.devPresent _).trans (hp a ha (hf a ha)))) h

theorem Sends.l1Loads (s : State) (core : Nat) (accs : List Access) :
    Sends s (accs.foldl (fun s a => if a.space = .hbm then s.l1Load core a.aux a.addr else s) s) := by
  refine .foldl (fun s a _ => ?_) s
  split
  · exact .l1Load _ _ _ _
  · exact .refl _

theorem Sends.runLoad (s : State) (core : Nat) (m : MemCmd) (ext : Extend) (hp : s.Reached m.accs) : Sends s (s.runLoad core m ext) := by
  have ht : Sends s ((s.hostAccs core m (inSpace .host m.accs)).fabricLs core m .rd ext (inSpace .fabric m.accs)) :=
    .travels s core m .rd ext (fun a ha => (mem_inSpace.mp ha).2) (fun a ha => hp a (mem_inSpace.mp ha).1)
  unfold State.runLoad
  extract_lets glob scr t
  split
  · exact (ht.trans (.publishAccs _ _ _ _ _)).trans (.pushLoad _ _ _)
  · exact (ht.trans (.l1Loads _ _ _)).trans (.pushLoad _ _ _)

theorem mem_orderAccs {order : List Nat} {accs : List Access} {a : Access} (h : a ∈ orderAccs order accs) : a ∈ accs := by
  unfold orderAccs at h
  rcases List.mem_append.mp h with h | h
  · obtain ⟨t, -, h⟩ := List.mem_flatMap.mp h
    exact List.mem_of_mem_filter h
  · exact List.mem_of_mem_filter h

theorem orderAccs_nil (order : List Nat) : orderAccs order [] = [] := List.eq_nil_iff_forall_not_mem.mpr fun _ h => by cases mem_orderAccs h

/-- An atomic none of whose accesses is of the scratchpad. -/
theorem Sends.runAtom (s : State) (core : Nat) (m : MemCmd) (op : AtomOp) (returns : Bool) (hp : s.Reached m.accs) (hs : ∀ a ∈ m.accs, a.space ≠ .scratch) :
    Sends s (s.runAtom core m op returns) := by
  have hscr : inSpace .scratch m.accs = [] := by
    simpa [inSpace] using hs
  have ht := Sends.travels s core m (.amo op) .none (hosts := orderAccs s.tidOrder (inSpace .host m.accs)) (fabs := orderAccs s.tidOrder (inSpace .fabric m.accs))
    (fun a ha => (mem_inSpace.mp (mem_orderAccs ha)).2) (fun a ha => hp a (mem_inSpace.mp (mem_orderAccs ha)).1)
  unfold State.runAtom
  dsimp only
  rw [hscr, orderAccs_nil]
  dsimp only [State.atomAll]
  have hu := (ht.trans (.publishAccs _ core true true (orderAccs s.tidOrder (inSpace .hbm m.accs ++ inSpace .plot m.accs)))).trans
    (.of_device (t := { State.publishAccs _ core true true (orderAccs s.tidOrder (inSpace .hbm m.accs ++ inSpace .plot m.accs)) |>.1 with tidOrder := [] })
      rfl ⟨rfl, rfl, rfl, rfl, rfl⟩ rfl rfl rfl)
  split
  · exact hu.trans (.pushLoad _ _ _)
  · exact hu.trans (.pushStore _ _ _)

/-- A command that the engine has, run or queued. -/
theorem Sends.giveMem (s : State) (core : Nat) (m : MemCmd) (h : Sends s (s.runMem core m)) : Sends s (s.giveMem core m) := by
  unfold State.giveMem
  split
  · exact h
  · exact .modCore _ _ (fun _ => ⟨rfl, rfl, rfl, rfl⟩) (fun _ _ h => h)

theorem Sends.giveLoad (s : State) (core : Nat) (m : MemCmd) {ext : Extend} (hk : m.kind = .load ext) (hp : s.Reached m.accs) : Sends s (s.giveMem core m) :=
  .giveMem s core m (by simpa only [State.runMem, hk] using Sends.runLoad s core m ext hp)

theorem Sends.giveAtom (s : State) (core : Nat) (m : MemCmd) {op : AtomOp} {returns : Bool} (hk : m.kind = .atom op returns) (hp : s.Reached m.accs)
    (hs : ∀ a ∈ m.accs, a.space ≠ .scratch) : Sends s (s.giveMem core m) :=
  .giveMem s core m (by simpa only [State.runMem, hk] using Sends.runAtom s core m op returns hp hs)

theorem Sends.giveCopier (s : State) (core : Nat) (m : MemCmd) {qs : List CopyCmd} (hk : m.kind = .copier qs) : Sends s (s.giveMem core m) :=
  .giveMem s core m (by
    simp only [State.runMem, hk]
    exact .modCore s core (fun _ => ⟨rfl, rfl, rfl, rfl⟩) (fun _ _ h => h))

end Sys2Proof.Machine

/-! SUPPORT. A command of an engine issues: the frame of its issue, and the counters of its issuer. -/

namespace Sys2Proof.Machine

/-! ### Beside the issuing warp -/

/-- No memory, no other warp and no context but for its lease has changed. -/
structure Calm (s t : State) (core slot : Nat) : Prop where
  memory : SameMemory s t
  others : ∀ d e, d ≠ core ∨ e ≠ slot → t.warp? d e = s.warp? d e
  ctxs : ∀ id, (mget? t.ctxs id).map (fun x => { x with lease := none, leaseAt := 0 }) = (mget? s.ctxs id).map (fun x => { x with lease := none, leaseAt := 0 })

theorem SameMemory.trans {s t u : State} (h : SameMemory s t) (k : SameMemory t u) : SameMemory s u :=
  ⟨fun p sp key a => (k.1 p sp key a).trans (h.1 p sp key a), fun c a => (k.2.1 c a).trans (h.2.1 c a), fun c => (k.2.2 c).trans (h.2.2 c)⟩

theorem Calm.trans {s t u : State} {core slot : Nat} (h : Calm s t core slot) (k : Calm t u core slot) : Calm s u core slot :=
  ⟨h.memory.trans k.memory, fun d e hd => (k.others d e hd).trans (h.others d e hd), fun id => (k.ctxs id).trans (h.ctxs id)⟩

theorem Calm.of_still {s t : State} (h : Still s t) (core slot : Nat) : Calm s t core slot :=
  ⟨h.sameMemory, fun d e _ => h.warp? d e, fun id => by rw [h.ctxs]⟩

theorem Calm.of_quiet {s t : State} {core slot : Nat} (h : Quiet s t core slot) : Calm s t core slot := by
  refine ⟨h.sameMemory, fun d e hd => ?_, h.device.2.2⟩
  by_cases hc : d = core
  · subst hc
    exact h.warps e (hd.resolve_left (fun n => n rfl))
  · simp only [State.warp?, h.others d hc]

/-- Where only the seat of an issuer and accounts have changed, the fabric is as clear as before. -/
theorem FabricClear.of_quiet {s t : State} {core slot : Nat} (h : Quiet s t core slot) (hs : FabricClear s []) : FabricClear t [] := by
  have hfab : t.fab = s.fab := (congrArg State.fab h.device.1 :)
  have hops : t.fabOps = s.fabOps := (congrArg State.fabOps h.device.1 :)
  have hp : ∀ d, t.devPresent d = s.devPresent d := fun d => by simp only [State.devPresent, hfab]
  have hw : ∀ d, (t.core d).wcb = (s.core d).wcb := fun d => by
    by_cases hc : d = core
    · subst hc
      exact (congrArg Core.wcb h.engines :)
    · rw [h.others d hc]
  refine ⟨by simp, fun d e he hf o ho => ?_, fun f hf hn => ?_⟩
  · rw [hp]
    exact hs.2.1 d e (hw d ▸ he) hf o ho
  · rw [hp]
    exact hs.2.2 f (hops ▸ hf) hn

/-! ### The issuer of a command -/

/-- Of a warp a command changes at issue only counters, the open batch, guard slots and the replays under way. -/
def Warp.Commanded (w w' : Warp) : Prop := Footprint.command.warp w' = Footprint.command.warp w

/-- Of a helper it changes only counters and guard slots. -/
def Helper.Commanded (h h' : Helper) : Prop := Footprint.command.helper h' = Footprint.command.helper h

/-- The issuer with the warp and the helper that it has become. -/
def Iss.with (c : Iss) (w : Warp) (h : Option Helper) : Iss := { c with w := w, hel := h }

theorem Iss.Becomes.counterOf {c c' : Iss} {w' : Warp} {h' : Option Helper} (h : c.Becomes c' w' h') (k : CounterCls) :
    c'.counterOf k = (c.with w' h').counterOf k := by
  unfold Iss.counterOf
  rw [h.hel, h.w]
  rfl

theorem Warp.Finished.counterOf {c : Iss} {w w' : Warp} (h : w.Finished c w') (k : CounterCls) : w'.counterOf k = w.counterOf k := by
  cases k
  · exact (congrArg Warp.loads h.rest :)
  · exact (congrArg Warp.stores h.rest :)
  · exact (congrArg Warp.copies h.rest :)
  · exact (congrArg Warp.tiles h.rest :)

theorem Iss.counterOf_with_none (c : Iss) (w : Warp) (k : CounterCls) : (c.with w none).counterOf k = w.counterOf k := by
  cases k <;> rfl

/-- The end of an issue moves no counter. -/
theorem Iss.counterOf_finished {c : Iss} {w w' : Warp} (hw : w.Finished c w') {h h' : Option Helper} (hh : (h' = none ↔ h = none) ∧
    ∀ x y, h = some x → h' = some y → x.Finished y) (k : CounterCls) : (c.with w' h').counterOf k = (c.with w h).counterOf k := by
  cases h with
  | none =>
    rw [hh.1.mpr rfl, Iss.counterOf_with_none, Iss.counterOf_with_none]
    exact hw.counterOf k
  | some x =>
    cases h' with
    | none => cases hh.1.mp rfl
    | some y =>
      have hf := hh.2 x y rfl rfl
      cases k
      · exact (congrArg Helper.loads hf.rest :)
      · exact (congrArg Helper.stores hf.rest :)
      · exact (hw.counterOf .copies :)
      · exact (hw.counterOf .tiles :)

/-- A command that ends as any instruction ends issues, where before its end it changed its issuer within the frame of a command and counted. -/
theorem commandIssues_finish {i : Instr} {s s1 : State} {c : Iss} {ps : List Nat} {cl : Option CounterCls} {post : Iss → State → Prop}
    {fw : Warp → Warp} {fh : Helper → Helper} (hc : s.iss = some c) (hi : exec i s = .next (s1.finish c ps)) (hq : Calm s s1 c.core c.slot)
    (hs : Seat s s1 c fw fh) (hw : c.w.Commanded (fw c.w)) (hh : ∀ h, c.hel = some h → h.Commanded (fh h))
    (hn : ∀ k, (c.with (fw c.w) (c.hel.map fh)).counterOf k = c.counterOf k + (if cl = some k then 1 else 0))
    (hpost : ∀ c', post c' (s1.finish c ps)) : CommandIssues Footprint.command i s c cl post := by
  have hseat := State.seated_of_iss hc
  obtain ⟨gw, gh, hs', hgw, hgh⟩ := s1.seat_finish c ps
  have hall := hs.trans hs'
  have hf := hgw (fw c.w)
  have hsplits : (fw c.w).splits = c.w.splits := (congrArg Warp.splits hw :)
  have hstrands : (fw c.w).strands = c.w.strands := (congrArg Warp.strands hw :)
  have hstrand : ∀ l, (fw c.w).strand l = c.w.strand l := fun l => by simp only [Warp.strand, hstrands]
  have hhelper : ∀ lane x, c.who = .helper lane → c.hel = some x → (fh x).Finished (gh (fh x)) := fun lane x hwho _ => hgh lane (fh x) hwho
  have hlane : ∀ x, c.hel = some x → ∃ lane, c.who = .helper lane := fun x hx => by
    rcases hseat.who with ⟨_, _, _, _, _, h⟩ | ⟨l, _, _, hwho, -⟩
    · rw [hx] at h; cases h
    · exact ⟨l, hwho⟩
  obtain ⟨c', hc', hb⟩ := hseat.after hall (fun e => (hf.entry e).trans (by rw [hsplits]))
  have hbw : c'.w = gw (fw c.w) := hb.w
  have hq' := hq.trans (.of_quiet (s1.quiet_finish c ps))
  refine ⟨_, c', hi, hc', hpost c', fun k => ?_, ⟨hq'.others, hq'.ctxs, ?_, ?_, ?_, ?_⟩, ?_, ?_⟩
  · rw [hb.counterOf, ← hn k]
    refine Iss.counterOf_finished hf ⟨by simp, fun x y hx hy => ?_⟩ k
    obtain ⟨z, hz, rfl⟩ := Option.map_eq_some_iff.mp hx
    obtain ⟨lane, hwho⟩ := hlane z hz
    rw [hz] at hy
    cases hy
    exact hhelper lane z hwho hz
  · refine hall.samePricking hseat fun lane x hwho hx => ⟨?_, ?_⟩
    · exact ((hhelper lane x hwho hx).sameHelper _).trans
        (congrArg (fun h : Helper => { h with regs := [], preds := 0, fpst := 0, pc := 0, age := 0, release := Release.none, wait := none, reserve := none, bad := [] }) (hh x hx) :)
    · have hr := hh x hx
      obtain ⟨h1, h2, h3⟩ := (hhelper lane x hwho hx).spares (wr := Writes.none) lane
      refine ⟨fun n hn => (h1 n hn).trans ?_, fun p hp => (h2 p hp).trans ?_, fun hf => (h3 hf).trans (congrArg Helper.fpst hr :)⟩
      · rw [show (fh x).regs = x.regs from (congrArg Helper.regs hr :)]
      · rw [show (fh x).preds = x.preds from (congrArg Helper.preds hr :)]
  · rw [hall.warp, hseat.warp, hbw]
    rfl
  · rw [hbw]
    refine hf.sameWarp ?_
    exact (congrArg (fun w : Warp => { w with regs := [], preds := [], fpst := [], latches := [], ixs := [], bad := [], latchBad := [], iiu := 0, splits := [], strands := [] }) hw :)
  · rw [hbw]
    exact hf.sameRegisters (.of_same (congrArg Warp.regs hw :) (congrArg Warp.preds hw :) (congrArg Warp.fpst hw :) (congrArg Warp.ixs hw :) (congrArg Warp.latches hw :))
  · rw [hbw]
    exact hf.sameStrands hseat (by rw [hstrands]) (fun l => ⟨fun _ => by rw [hstrand], fun _ => hstrand l⟩) (fun e _ => by rw [hsplits])
  · rw [hbw, hb.hel]
    refine hf.wentOn hseat (fun l => by rw [hstrand]) (by rw [hstrands]) fun x hx => ⟨gh (fh x), by rw [hx]; rfl, ?_⟩
    obtain ⟨lane, hwho⟩ := hlane x hx
    rw [(hgh lane (fh x) hwho).pc, show (fh x).pc = x.pc from (congrArg Helper.pc (hh x hx) :)]

end Sys2Proof.Machine

/-! SUPPORT. What the issue of a command writes down in its issuer (R28, R31, R222): its counter, its guard slots, and the replay that it is. -/

namespace Sys2Proof.Machine

/-- A step of an issue that changes only its issuer, within the frame of a command, and raises each counter by `d`. -/
structure Commands (s t : State) (c : Iss) (fw : Warp → Warp) (fh : Helper → Helper) (d : CounterCls → Nat) : Prop where
  quiet : Quiet s t c.core c.slot
  seat : Seat s t c fw fh
  warp : ∀ w, Warp.Commanded w (fw w)
  helper : ∀ h, Helper.Commanded h (fh h)
  counts : ∀ (w : Warp) (h : Option Helper) (k : CounterCls), (h.isSome = true ↔ ∃ l, c.who = .helper l) → (c.with (fw w) (h.map fh)).counterOf k = (c.with w h).counterOf k + d k

theorem Commands.trans {s t u : State} {c : Iss} {fw gw : Warp → Warp} {fh gh : Helper → Helper} {d e : CounterCls → Nat} (h : Commands s t c fw fh d)
    (k : Commands t u c gw gh e) : Commands s u c (gw ∘ fw) (gh ∘ fh) (fun x => d x + e x) := by
  refine ⟨h.quiet.trans k.quiet, h.seat.trans k.seat, fun w => (k.warp _).trans (h.warp w), fun x => (k.helper _).trans (h.helper x), fun w x q hx => ?_⟩
  have h1 := h.counts w x q hx
  have h2 := k.counts (fw w) (x.map fh) q (by simpa using hx)
  rw [Option.map_map] at h2
  simp only [Function.comp_apply]
  omega

theorem Commands.refl (s : State) (c : Iss) : Commands s s c id id (fun _ => 0) :=
  ⟨.refl s _ _, .refl s c, fun _ => rfl, fun _ => rfl, fun w h k _ => by simp⟩

/-- A change of the issuing warp. -/
theorem Commands.modWarp (s : State) (c : Iss) {f : Warp → Warp} {d : CounterCls → Nat} (hw : ∀ w, Warp.Commanded w (f w))
    (hn : ∀ (w : Warp) (h : Option Helper) (k : CounterCls), (h.isSome = true ↔ ∃ l, c.who = .helper l) → (c.with (f w) h).counterOf k = (c.with w h).counterOf k + d k) :
    Commands s (s.modWarp c.core c.slot f) c f id d :=
  ⟨s.quiet_modWarp _ _ _, s.seat_modWarp c f, hw, fun _ => rfl, fun w h k hh => by rw [Option.map_id]; exact hn w h k hh⟩

/-- A change of the issuing helper. -/
theorem Commands.modHelper (s : State) {c : Iss} {l : Nat} (hl : c.who = .helper l) {f : Helper → Helper} {d : CounterCls → Nat} (hf : ∀ h, Helper.Commanded h (f h))
    (hn : ∀ (w : Warp) (x : Helper) (k : CounterCls), (c.with w (some (f x))).counterOf k = (c.with w (some x)).counterOf k + d k) : Commands s (s.modHelper c.core c.slot l f) c id f d := by
  refine ⟨s.quiet_modHelper _ _ _ _, s.seat_modHelper hl f, fun _ => rfl, hf, fun w h k hh => ?_⟩
  cases h with
  | none => simp [hl] at hh
  | some x => exact hn w x k

/-- The counter that rises by `n`, and no other. -/
def onlyCounter (cl : CounterCls) (n : Nat) (k : CounterCls) : Nat := if cl = k then n else 0

theorem Warp.counterOf_setCounter (w : Warp) (cl k : CounterCls) (n : Nat) : (w.setCounter cl n).counterOf k = if cl = k then n else w.counterOf k := by
  cases cl <;> cases k <;> rfl

theorem Warp.counterOf_raise (w : Warp) (cl k : CounterCls) (n : Nat) :
    (w.setCounter cl (w.counterOf cl + n)).counterOf k = w.counterOf k + onlyCounter cl n k := by
  rw [Warp.counterOf_setCounter]
  unfold onlyCounter
  split
  next h => rw [h]
  next => simp

theorem Warp.commanded_setCounter (w : Warp) (cl : CounterCls) (n : Nat) : w.Commanded (w.setCounter cl n) := by
  cases cl <;> rfl

/-- The copies and the tiles of a helper count in its warp. -/
theorem Iss.counterOf_with_some (c : Iss) (w w' : Warp) (x : Helper) {cl : CounterCls} (h1 : cl ≠ .loads) (h2 : cl ≠ .stores) (n : Nat)
    (hw : w' = w.setCounter cl (w.counterOf cl + n)) (k : CounterCls) :
    (c.with w' (some x)).counterOf k = (c.with w (some x)).counterOf k + onlyCounter cl n k := by
  subst hw
  have hr := fun k => w.counterOf_raise cl k n
  cases k
  · simp [Iss.counterOf, Iss.with, onlyCounter, h1]
  · simp [Iss.counterOf, Iss.with, onlyCounter, h2]
  · exact hr .copies
  · exact hr .tiles

theorem Commands.addCounter (s : State) (c : Iss) (cl : CounterCls) (n : Nat) :
    ∃ fw fh, Commands s (s.addCounter c.core c.slot c.who cl n) c fw fh (onlyCounter cl n) := by
  cases hwho : c.who with
  | split e =>
    refine ⟨_, _, Commands.modWarp s c (fun w => w.commanded_setCounter cl _) fun w h k hh => ?_⟩
    cases h with
    | some x => simp [hwho] at hh
    | none =>
      rw [Iss.counterOf_with_none, Iss.counterOf_with_none]
      exact w.counterOf_raise cl k n
  | helper l =>
    cases cl with
    | loads => exact ⟨_, _, Commands.modHelper s hwho (fun _ => rfl) fun w x k => by cases k <;> rfl⟩
    | stores => exact ⟨_, _, Commands.modHelper s hwho (fun _ => rfl) fun w x k => by cases k <;> rfl⟩
    | copies =>
      refine ⟨_, _, Commands.modWarp s c (fun w => w.commanded_setCounter .copies _) fun w h k hh => ?_⟩
      obtain ⟨x, rfl⟩ := Option.isSome_iff_exists.mp (hh.mpr ⟨l, hwho⟩)
      exact c.counterOf_with_some w _ x (by decide) (by decide) n rfl k
    | tiles =>
      refine ⟨_, _, Commands.modWarp s c (fun w => w.commanded_setCounter .tiles _) fun w h k hh => ?_⟩
      obtain ⟨x, rfl⟩ := Option.isSome_iff_exists.mp (hh.mpr ⟨l, hwho⟩)
      exact c.counterOf_with_some w _ x (by decide) (by decide) n rfl k

theorem Iss.counterOf_with_same (c : Iss) {w w' : Warp} (hw : ∀ k, w'.counterOf k = w.counterOf k) (h : Option Helper) (k : CounterCls) :
    (c.with w' h).counterOf k = (c.with w h).counterOf k + 0 := by
  have hk := hw k
  cases h with
  | none =>
    rw [Iss.counterOf_with_none, Iss.counterOf_with_none]
    exact hk
  | some x =>
    cases k
    · rfl
    · rfl
    · exact hk
    · exact hk

theorem Commands.takeSlots (s : State) (c : Iss) (ps : List Nat) : ∃ fw fh, Commands s (s.takeSlots c ps) c fw fh (fun _ => 0) := by
  unfold State.takeSlots
  dsimp only
  split
  · exact ⟨_, _, Commands.modWarp s c (fun _ => rfl) fun w h k _ => c.counterOf_with_same (fun k => by cases k <;> rfl) h k⟩
  next l hl => exact ⟨_, _, Commands.modHelper s hl (fun _ => rfl) fun w x k => by cases k <;> rfl⟩

theorem Commands.noteReplay (s : State) (c : Iss) (cid : Nat) : ∃ fw fh, Commands s (s.noteReplay c cid) c fw fh (fun _ => 0) := by
  unfold State.noteReplay
  split
  · exact ⟨_, _, Commands.modWarp s c (fun _ => rfl) fun w h k _ => c.counterOf_with_same (fun k => by cases k <;> rfl) h k⟩
  · exact ⟨_, _, .refl s c⟩

/-- The accounts of a command at its issue. -/
def State.account (s : State) (c : Iss) (ps : List Nat) (cl : Option CounterCls) (cid : Nat) : State :=
  (match cl with
    | some cl => (s.takeSlots c ps).addCounter c.core c.slot c.who cl 1
    | none => s.takeSlots c ps).noteReplay c cid

/-- The counters that a command raises. -/
def raised (cl : Option CounterCls) (k : CounterCls) : Nat := if cl = some k then 1 else 0

theorem Commands.account (s : State) (c : Iss) (ps : List Nat) (cl : Option CounterCls) (cid : Nat) :
    ∃ fw fh, Commands s (s.account c ps cl cid) c fw fh (raised cl) := by
  unfold State.account
  obtain ⟨fw, fh, h⟩ := Commands.takeSlots s c ps
  cases cl with
  | none =>
    obtain ⟨gw, gh, k⟩ := Commands.noteReplay (s.takeSlots c ps) c cid
    exact ⟨_, _, h.trans k⟩
  | some cl =>
    obtain ⟨gw, gh, k⟩ := Commands.addCounter (s.takeSlots c ps) c cl 1
    obtain ⟨iw, ih, l⟩ := Commands.noteReplay ((s.takeSlots c ps).addCounter c.core c.slot c.who cl 1) c cid
    have hd : raised (some cl) = fun x => 0 + onlyCounter cl 1 x + 0 := by
      funext x
      simp [raised, onlyCounter]
    rw [hd]
    exact ⟨_, _, (h.trans k).trans l⟩

theorem Seated.hel_iff {s : State} {c : Iss} (h : Seated s c) : c.hel.isSome = true ↔ ∃ l, c.who = .helper l := by
  rcases h.who with ⟨e, sp, hwho, -, -, hh⟩ | ⟨l, p, x, hwho, -, -, -, -, hh⟩
  · simp [hwho, hh]
  · simp [hwho, hh]

/-- What an issue has done before its end: steps of the engines, the accounts of its command, and steps of the engines again. -/
theorem commandIssues_of_commands {i : Instr} {s s1 s2 s3 : State} {c : Iss} {ps : List Nat} {cl : Option CounterCls} {post : Iss → State → Prop}
    {fw : Warp → Warp} {fh : Helper → Helper} (hc : s.iss = some c) (hclear : FabricClear s []) (h1 : Sends s s1) (h2 : Commands s1 s2 c fw fh (raised cl))
    (h3 : Sends s2 s3) (hi : exec i s = .next (s3.finish c ps)) (hpost : ∀ c', post c' (s3.finish c ps)) :
    CommandIssues Footprint.command i s c cl post := by
  obtain ⟨k1, f1⟩ := h1 hclear
  obtain ⟨k3, -⟩ := h3 (.of_quiet h2.quiet f1)
  refine commandIssues_finish (fw := fw) (fh := fh) hc hi (((Calm.of_still k1 _ _).trans (.of_quiet h2.quiet)).trans (.of_still k3 _ _))
    (((k1.seat c).trans h2.seat).then_same (k3.seat c)) (h2.warp _) (fun h _ => h2.helper h) (fun k => ?_) hpost
  exact h2.counts c.w c.hel k (State.seated_of_iss hc).hel_iff

end Sys2Proof.Machine

/-! SUPPORT. A memory instruction whose every check passes: its verdict lets all accesses go, and the instruction ends as any ends (R238, R239). -/

namespace Sys2Proof.Machine

/-! ### The verdict -/

/-- The verdict over units that all pass their checks. -/
structure Verdict.Passes (v : Verdict) (go : List Access) : Prop where
  go : v.go = go
  performs : v.performs = true
  parked : v.parked = 0
  trap : v.trap = none

theorem decideVerdict_ok (us : List (Nat × List Nat)) (acc : Nat × List Nat → List Access) :
    (decideVerdict (us.map (fun x => (x, Except.ok (acc x))))).Passes (us.flatMap acc) := by
  have hcauses : ∀ l, (us.map (fun x => (x, (Except.ok (acc x) : Except MemCause (List Access))))).filterMap (fun e =>
      if e.1.1 / 4 = l then (match e.2 with | .error c => some c | .ok _ => none) else none) = [] := by
    intro l
    simp
  have hnone : ∀ ls : List Nat, lowestCause (ls.flatMap (fun _ => [])) = none := fun ls => by
    rw [List.flatMap_eq_nil_iff.mpr fun _ _ => rfl]
    rfl
  unfold decideVerdict
  constructor
  · simp [hnone, List.flatMap_map]
  · cases us with
    | nil => rfl
    | cons x r => simp [hnone, Except.toBool]
  · simp [maskOf]
  · simp [hnone]

/-- Units that all pass: their checks may be read off one by one. -/
theorem decideVerdict_passes {us : List (Nat × List Nat)} {check : Nat × List Nat → Except MemCause (List Access)} {acc : Nat × List Nat → List Access}
    (h : ∀ x ∈ us, check x = .ok (acc x)) : (decideVerdict (us.map (fun x => (x, check x)))).Passes (us.flatMap acc) := by
  rw [List.map_congr_left fun x hx => by rw [h x hx]]
  exact decideVerdict_ok us acc

theorem Verdict.Passes.settle {v : Verdict} {go : List Access} (h : v.Passes go) (s : State) (c : Iss) (run : State → State) :
    s.settle c v run = (run s).finish c [] := by
  unfold State.settle
  simp only [h.performs, if_true, h.parked, h.trap]

/-! ### Units -/

theorem Iss.tids_lt {s : State} {c : Iss} (hc : Seated s c) (hh : c.hel = none) {t : Nat} (h : t ∈ c.tids) : t < 64 := by
  obtain ⟨e, sp, hwho, hsp, -⟩ : ∃ e sp, c.who = .split e ∧ c.split = some sp ∧ True := by
    rcases hc.who with ⟨e, sp, hwho, hsp, -⟩ | ⟨l, p, x, -, -, -, -, -, hx⟩
    · exact ⟨e, sp, hwho, hsp, trivial⟩
    · rw [hh] at hx; cases hx
  have hact : ∀ t, t ∈ c.w.activeOf sp → t < 64 := fun t ht => List.mem_range.mp (List.mem_of_mem_filter ht)
  unfold Iss.tids at h
  rw [hwho, hsp] at h
  dsimp only at h
  split at h
  · exact hact t (List.mem_of_mem_filter h)
  · exact hact t h

/-- Does a unit access for a thread (R237)? -/
def unitServes (u : Bool) (th t : Nat) : Bool := if u then th / 4 == t / 4 else th == t

theorem unitServes_iff {u : Bool} {th t : Nat} : unitServes u th t = true ↔ if u then th / 4 = t / 4 else th = t := by
  cases u <;> simp [unitServes]

theorem Iss.mem_units_serves (c : Iss) {u : Bool} {ts : List Nat} {y : Nat × List Nat} (h : y ∈ c.units u ts) :
    y.1 ∈ ts ∧ y.1 ∈ y.2 ∧ ∀ th ∈ y.2, th ∈ ts ∧ unitServes u th y.1 = true := by
  unfold Iss.units at h
  cases u with
  | false =>
    obtain ⟨t, ht, rfl⟩ := List.mem_map.mp h
    simpa [unitServes] using ht
  | true =>
    obtain ⟨l, -, hl⟩ := List.mem_filterMap.mp h
    split at hl
    next => cases hl
    next t r hr =>
      cases hl
      have hm : ∀ x ∈ t :: r, x ∈ ts ∧ x / 4 = l := fun x hx => (List.mem_filter.mp (hr ▸ hx)).imp_right eq_of_beq
      have ht := (hm t List.mem_cons_self)
      refine ⟨ht.1, List.mem_cons_self, fun x hx => ⟨(hm x hx).1, ?_⟩⟩
      simp only [unitServes, if_true, (hm x hx).2, ht.2, beq_self_eq_true]

theorem Iss.exists_unit (c : Iss) {u : Bool} {ts : List Nat} {th : Nat} (h : th ∈ ts) (hlt : th < 64) : ∃ y ∈ c.units u ts, unitServes u th y.1 = true := by
  unfold Iss.units
  cases u with
  | false => exact ⟨(th, [th]), by simpa using h, by simp [unitServes]⟩
  | true =>
    have hmem : th ∈ ts.filter (fun t => t / 4 == th / 4) := by simp [h]
    cases hf : ts.filter (fun t => t / 4 == th / 4) with
    | nil => rw [hf] at hmem; cases hmem
    | cons t r =>
      have ht : t / 4 = th / 4 := by simpa using (List.mem_filter.mp (hf ▸ List.mem_cons_self : t ∈ ts.filter (fun t => t / 4 == th / 4))).2
      refine ⟨(t, t :: r), List.mem_filterMap.mpr ⟨th / 4, List.mem_range.mpr (by omega), by rw [hf]⟩, ?_⟩
      simp [unitServes, ht]

theorem Iss.exec_subset (c : Iss) (g : Bool) {t : Nat} (h : t ∈ c.exec g) : t ∈ c.tids := List.mem_of_mem_filter h

theorem Iss.exec_subset_verdict (c : Iss) (g : Bool) (ps : List Nat) {t : Nat} (h : t ∈ c.exec g) : t ∈ c.verdictTids g ps := by
  unfold Iss.verdictTids
  split
  · exact h
  · exact c.exec_subset g h

/-- The guard slots that a memory instruction takes (R28). -/
def MemSpec.slots (m : MemSpec) (s : State) (c : Iss) : List Nat := if m.g then s.pendingGuards c c.tids else []

theorem MemSpec.units_eq (m : MemSpec) (s : State) (c : Iss) : c.units m.u (c.verdictTids m.g (m.slots s c)) = m.units s c := rfl

/-- The accesses of an instruction whose guard lets them go, for the threads that execute (R115). -/
def goneOn (c : Iss) (m : MemSpec) (accs : List Access) : List Access :=
  (accs.map (fun a => { a with dests := a.dests.filter (fun d => (c.exec m.g).contains d.1) })).filter
    (fun a => (c.exec m.g).any (fun t => unitServes m.u t a.t))

theorem mem_goneOn {c : Iss} {m : MemSpec} {accs : List Access} {a : Access} : a ∈ goneOn c m accs ↔
    (∃ b ∈ accs, a = { b with dests := b.dests.filter (fun d => (c.exec m.g).contains d.1) }) ∧ ∃ t ∈ c.exec m.g, unitServes m.u t a.t = true := by
  simp only [goneOn, List.mem_filter, List.mem_map, List.any_eq_true]
  constructor
  · rintro ⟨⟨b, hb, rfl⟩, t, ht, h⟩
    exact ⟨⟨b, hb, rfl⟩, t, ht, h⟩
  · rintro ⟨⟨b, hb, rfl⟩, t, ht, h⟩
    exact ⟨⟨b, hb, rfl⟩, t, ht, h⟩

theorem State.issueMem_eq (s : State) (c : Iss) (m : MemSpec) (ps : List Nat) (kind : MemKind) (acq rel : Option Scope) (accs : List Access) :
    s.issueMem c m ps kind acq rel accs = (s.takeId.account c ps m.cls s.nextId).giveMem c.core
      { cid := s.nextId, slot := c.slot, who := c.who, kind := kind, accs := goneOn c m accs, acquire := acq, release := rel, guardPend := ps } := rfl

theorem State.fillTlbs_nextId (s : State) (c : Iss) (vas : List Nat) : (s.fillTlbs c vas).nextId = s.nextId := by
  unfold State.fillTlbs
  induction vas generalizing s with
  | nil => rfl
  | cons v r ih =>
    rw [List.foldl_cons, ih]
    unfold State.tlbFill
    (repeat' split) <;> rfl

end Sys2Proof.Machine

/-! PROOF. The remote operations issue: FWR, FRD, FSIG and FATOM (R402 to R404, R410). -/

namespace Sys2Proof.Machine

theorem Quiet.devPresent {s t : State} {core slot : Nat} (h : Quiet s t core slot) (d : Nat) : t.devPresent d = s.devPresent d := by
  simp only [State.devPresent, show t.fab = s.fab from (congrArg State.fab h.device.1 :)]

theorem Quiet.fabOps {s t : State} {core slot : Nat} (h : Quiet s t core slot) : t.fabOps = s.fabOps := (congrArg State.fabOps h.device.1 :)

theorem FabricClear.forget {s : State} {tgs : List Target} (h : FabricClear s tgs) : FabricClear s [] := ⟨by simp, h.2⟩

/-- The operation of one unit, as an issue gives it to the fabric interface. -/
def remoteOp (s s2 : State) (c : Iss) (ps : List Nat) (cid : Nat) (kind : FabKind) (a : Access) : FabOp :=
  { cid := cid, core := c.core, slot := c.slot, who := c.who, wg := c.w.wg, index := c.w.index, t := a.t, qnum := (s2.rootTag c.w).1,
    tagw := (s2.rootTag c.w).2, ctx := c.w.ctx, part := (match s.ctxOf c.w with
      | some x => x.part
      | none => 0), dev := fabricDev a.addr, kind := kind, arg := fabricArg a.addr,
    n := a.n, data := a.data, dests := a.dests, ext := .none, co := true, seq := none, since := s2.elapsed, guardPend := ps, acquire := none }

theorem State.issueFab_eq (s : State) (c : Iss) (m : MemSpec) (ps : List Nat) (kind : FabKind) (accs : List Access) (h : goneOn c m accs ≠ []) :
    s.issueFab c m ps kind accs =
      (let s2 := s.takeId.account c ps m.cls s.nextId
       ({ s2 with fabOps := s2.fabOps ++ (goneOn c m accs).map (remoteOp s s2 c ps s.nextId kind) } : State).sendFab) := by
  have he : (goneOn c m accs).isEmpty = false := by simpa using h
  unfold State.issueFab
  extract_lets ex accs' cid part t1 t2 t3 op
  rw [if_neg (by
    rw [show accs' = goneOn c m accs from rfl, he]
    decide)]
  rfl

/-- The bytes that a unit of a memory instruction stores. -/
def unitData (c : Iss) (u : Bool) (data : Option (Opnd × Nat)) (t : Nat) : List Byte := match data with
  | some d => leBytes (4 * d.2) (c.read (srcTid u t) d.1 d.2)
  | none => []

/-- The access of one unit of a remote operation. -/
def remoteAcc (c : Iss) (m : MemSpec) (n : Nat) (data : Option (Opnd × Nat)) (tg : Nat → Target) (x : Nat × List Nat) : Access :=
  { t := x.1, space := .fabric, addr := (tg x.1).pa, n := n,
    data := unitData c m.u data x.1,
    dests := match m.dst with
      | some d => c.destsOf x.2 d.1 d.2
      | none => [],
    aux := (tg x.1).key }

/-- The state in which a remote operation ends: its translations kept, its operations given to the fabric. -/
def State.remoteRun (s : State) (c : Iss) (m : MemSpec) (a : Opnd) (kind : FabKind) (n : Nat) (data : Option (Opnd × Nat)) (tg : Nat → Target) : State :=
  (s.fillTlbs c ((m.units s c).map (fun x => c.read (srcTid m.u x.1) a 2))).issueFab c m (m.slots s c) kind ((m.units s c).map (remoteAcc c m n data tg))

theorem fabAccess_clear {s : State} {c : Iss} {m : MemSpec} {a : Opnd} {kind : FabKind} {acc : AccessKind} {align n : Nat} {data : Option (Opnd × Nat)}
    {tg : Nat → Target} (hc : s.iss = some c) (hm : m.Clear s c)
    (hu : ∀ y ∈ m.units s c, c.read (srcTid m.u y.1) a 2 % align = 0 ∧ s.translate c.core c.w.ctx acc (c.read (srcTid m.u y.1) a 2) = .ok (tg y.1) ∧
      (tg y.1).space = .fabric) :
    fabAccess m s a kind acc align n data = .next ((s.remoteRun c m a kind n data tg).finish c []) := by
  have key : ∀ check : Nat × List Nat → Except MemCause (List Access), (∀ x ∈ m.units s c, check x = .ok [remoteAcc c m n data tg x]) →
      let v := decideVerdict ((m.units s c).map (fun x => (x, check x)))
      (s.fillTlbs c ((m.units s c).map (fun x => c.read (srcTid m.u x.1) a 2))).settle c v (fun t => t.issueFab c m (m.slots s c) kind v.go) =
        (s.remoteRun c m a kind n data tg).finish c [] := fun check h => by
    have hpass := decideVerdict_passes h
    dsimp only
    rw [hpass.settle, hpass.go, ← List.map_eq_flatMap]
    rfl
  unfold fabAccess
  rw [withIss_eq _ hc, memPrologue_clear _ hm]
  refine congrArg Host.Outcome.next (key _ fun x hx => ?_)
  obtain ⟨ha, ht, hf⟩ := hu x hx
  simp only [State.fabCheck, State.xlate, ha, ht, hf, ne_eq, not_true_eq_false, if_false, if_true]
  rfl

theorem goneOn_ne_nil {s : State} {c : Iss} {m : MemSpec} (hs : Seated s c) (hh : c.hel = none) (he : c.exec m.g ≠ []) {f : Nat × List Nat → Access}
    (hf : ∀ x, (f x).t = x.1) : goneOn c m ((m.units s c).map f) ≠ [] := by
  obtain ⟨th, hth⟩ := List.exists_mem_of_ne_nil _ he
  obtain ⟨y, hy, hserves⟩ := c.exists_unit (u := m.u) (c.exec_subset_verdict m.g (m.slots s c) hth) (Iss.tids_lt hs hh (c.exec_subset _ hth))
  exact List.ne_nil_of_mem (mem_goneOn.mpr ⟨⟨f y, List.mem_map_of_mem hy, rfl⟩, th, hth, by rw [show Access.t _ = (f y).t from rfl, hf]; exact hserves⟩)

theorem remoteIssues_of_fabAccess {i : Instr} {s : State} {c : Iss} {m : MemSpec} {a : Opnd} {kind : FabKind} {acc : AccessKind} {align n : Nat}
    {data : Option (Opnd × Nat)} (hc : s.iss = some c) (hin : m.inHelper = false) (hi : exec i s = fabAccess m s a kind acc align n data) :
    RemoteIssues i s c m a kind acc align (unitData c m.u data) := by
  intro tg hm he hu hf
  have hs := State.seated_of_iss hc
  have hh : c.hel = none := by
    cases hx : c.hel with
    | none => rfl
    | some x => exact absurd (hm.1 (by simp [hx])) (by simp [hin])
  let vas := (m.units s c).map (fun x => c.read (srcTid m.u x.1) a 2)
  let s1 := s.fillTlbs c vas
  let ops := goneOn c m ((m.units s c).map (remoteAcc c m n data tg))
  obtain ⟨fw, fh, hcmd⟩ := Commands.account s1.takeId c (m.slots s c) m.cls s1.nextId
  let s2 := s1.takeId.account c (m.slots s c) m.cls s1.nextId
  let given : State := { s2 with fabOps := s2.fabOps ++ ops.map (remoteOp s1 s2 c (m.slots s c) s1.nextId kind) }
  have hrun : s.remoteRun c m a kind n data tg = given.sendFab := State.issueFab_eq s1 c m _ kind _ (goneOn_ne_nil hs hh he fun _ => rfl)
  have hsend1 : Sends s s1.takeId := (Sends.fillTlbs s c vas).trans (.takeId s1)
  obtain ⟨hstill1, hclear1⟩ := hsend1 hf.forget
  have hclear2 : FabricClear s2 [] := .of_quiet hcmd.quiet hclear1
  have hpresent : ∀ d, s2.devPresent d = s.devPresent d := fun d => (hcmd.quiet.devPresent d).trans (hstill1.devPresent d)
  have hadd : Sends s2 given := .addOps s2 fun f hfm => by
    obtain ⟨b, hb, rfl⟩ := List.mem_map.mp hfm
    obtain ⟨⟨b', hb', rfl⟩, -⟩ := mem_goneOn.mp hb
    obtain ⟨y, hy, rfl⟩ := List.mem_map.mp hb'
    exact (hpresent _).trans (hf.1 (tg y.1) (List.mem_map_of_mem hy) (hu y hy).2.2)
  obtain ⟨-, hclear3⟩ := hadd hclear2
  obtain ⟨hstill4, -⟩ := Sends.sendFab given hclear3
  have hexec : exec i s = .next (given.sendFab.finish c []) := by rw [hi, fabAccess_clear hc hm hu, hrun]
  have hsend : Sends s2 given.sendFab := hadd.trans (.sendFab given)
  have hend : (given.sendFab.finish c []).fabOps = given.sendFab.fabOps := (given.sendFab.quiet_finish c []).fabOps
  refine commandIssues_of_commands hc hf.forget hsend1 hcmd hsend hexec fun c' => ⟨?_, fun y hy hth => ?_⟩
  · exact (((Calm.of_still hstill1 c.core c.slot).trans (.of_quiet hcmd.quiet)).trans (.of_still (hsend hclear2).1 _ _)).memory.trans
      (given.sendFab.quiet_finish c []).sameMemory
  · have hserves : ∃ t ∈ c.exec m.g, unitServes m.u t y.1 = true := by
      obtain ⟨th, hth, hy⟩ := hth
      exact ⟨th, hth, unitServes_iff.mpr hy⟩
    have hmem : ({ remoteAcc c m n data tg y with dests := (remoteAcc c m n data tg y).dests.filter (fun d => (c.exec m.g).contains d.1) } : Access) ∈ ops :=
      mem_goneOn.mpr ⟨⟨_, List.mem_map_of_mem hy, rfl⟩, hserves⟩
    obtain ⟨q, hq⟩ := hstill4.ops _ (List.mem_append_right _ (List.mem_map_of_mem hmem))
    refine ⟨_, by rw [hend]; exact hq, ?_, rfl, rfl, rfl, rfl, rfl, rfl, rfl⟩
    exact s.fillTlbs_nextId c vas

/-- Settles O33: each of the four gives one operation of every executing unit to the fabric interface, and with every device present nothing
of the machine changes as they go out. -/
theorem remoteOperations : Obligations.RemoteOperations := by
  unfold Obligations.RemoteOperations
  intro s c hc x a b g u
  exact ⟨remoteIssues_of_fabAccess (data := some (x, 4)) hc rfl rfl, remoteIssues_of_fabAccess (data := none) hc rfl rfl,
    remoteIssues_of_fabAccess (data := some (b, 2)) hc rfl rfl, remoteIssues_of_fabAccess (data := some (b, 4)) hc rfl rfl⟩

end Sys2Proof.Machine

/-! SUPPORT. An access to global memory whose every unit is aligned and translates (R239, R240). -/

namespace Sys2Proof.Machine

/-- Two accesses at one place. -/
structure Access.SamePlace (a b : Access) : Prop where
  space : a.space = b.space
  addr : a.addr = b.addr
  n : a.n = b.n
  aux : a.aux = b.aux

theorem Access.SamePlace.remote {a b : Access} (h : a.SamePlace b) : a.remote = b.remote := by
  simp only [Access.remote, h.space, h.aux]

theorem Access.SamePlace.meets {a b : Access} (h : a.SamePlace b) (core : Nat) (x : Access) : a.meets core x = b.meets core x := by
  simp only [Access.meets, h.space, h.remote, h.aux, h.addr]

theorem Access.SamePlace.remote_meets {a b : Access} (h : a.SamePlace b) (core : Nat) (r : Remote) : r.meets core a = r.meets core b := by
  simp only [Remote.meets, h.space, h.remote, h.addr, h.n]

/-- Where accesses lie decides alone whether they meet earlier ones. -/
theorem State.overlaps_congr {α : Type} (s : State) (core slot : Nat) {l : List α} {f g : α → Access} (h : ∀ x ∈ l, (f x).SamePlace (g x)) :
    s.overlaps core slot (l.map f) = s.overlaps core slot (l.map g) := by
  have hany : ∀ p : Access → Bool, (∀ x ∈ l, p (f x) = p (g x)) → (l.map f).any p = (l.map g).any p := fun p hp => by
    rw [Bool.eq_iff_iff, List.any_map, List.any_map, List.any_eq_true, List.any_eq_true]
    exact exists_congr fun x => and_congr_right fun hx => by rw [Function.comp_apply, Function.comp_apply, hp x hx]
  unfold State.overlaps
  dsimp only
  rw [hany _ fun x hx => by simp only [(h x hx).meets], hany _ fun x hx => by simp only [(h x hx).remote_meets],
    hany _ fun x hx => by simp only [(h x hx).space, (h x hx).addr]]

/-- The destinations of a unit. -/
def unitDests (c : Iss) (dst : Option (Opnd × Nat)) (x : Nat × List Nat) : List (Nat × RegLoc) := match dst with
  | some d => c.destsOf x.2 d.1 d.2
  | none => []

/-- The access of one unit to global memory. -/
def globalAcc (n : Nat) (data : Nat → List Byte) (dests : Nat × List Nat → List (Nat × RegLoc)) (tg : Nat → Target) (x : Nat × List Nat) : Access :=
  { t := x.1, space := (tg x.1).space, addr := (tg x.1).pa, n := n, data := data x.1, dests := dests x, aux := (tg x.1).key }

theorem globalCheck_ok {s : State} {c : Iss} {kind : AccessKind} {va n : Nat} {tg : Target} (ha : va % n = 0)
    (ht : s.translate c.core c.w.ctx kind va = .ok tg) (he : kind = .load → s.bufferEcc c.core tg.space tg.key tg.pa n = false) (t : Nat) (data : List Byte)
    (dests : List (Nat × RegLoc)) :
    s.globalCheck c kind va n t data dests = .ok [{ t := t, space := tg.space, addr := tg.pa, n := n, data := data, dests := dests, aux := tg.key }] := by
  have hbad : ¬(kind = .load ∧ s.bufferEcc c.core tg.space tg.key tg.pa n = true) := fun h => by
    rw [he h.1] at h
    exact absurd h.2 (by decide)
  simp only [State.globalCheck, State.xlate, ha, ht, ne_eq, not_true_eq_false, if_false, if_neg hbad]

theorem GlobalClear.overlaps {m : MemSpec} {s : State} {c : Iss} {a : Opnd} {off : Int} {n : Nat} {kind : AccessKind} {tg : Nat → Target}
    (h : GlobalClear m s c a off n kind tg) (data : Nat → List Byte) (dests : Nat × List Nat → List (Nat × RegLoc)) :
    s.overlaps c.core c.slot ((m.units s c).map (globalAcc n data dests tg)) = false := by
  rw [← h.2.1]
  exact s.overlaps_congr _ _ fun x _ => ⟨rfl, rfl, rfl, rfl⟩

/-- The state in which a command of the memory engine ends: the translations of `vas` kept, and the command issued with its accesses. -/
def State.memRun (s : State) (c : Iss) (m : MemSpec) (vas : List Nat) (kind : MemKind) (acq rel : Option Scope) (accs : List Access) : State :=
  (s.fillTlbs c vas).issueMem c m (m.slots s c) kind acq rel accs

theorem globalAccess_clear {s : State} {c : Iss} {m : MemSpec} {a : Opnd} {off : Int} {n : Nat} {kind : MemKind} {acc : AccessKind} {acq rel : Option Scope}
    {tg : Nat → Target} (hc : s.iss = some c) (hm : m.Clear s c) (hg : GlobalClear m s c a off n acc tg) (dst data : Option (Opnd × Nat)) :
    ∃ stored, globalAccess m s a off n kind acc acq rel dst data = .next ((s.memRun c m ((m.units s c).map (fun x => c.globalVa m.u x.1 a off)) kind acq rel
      ((m.units s c).map (globalAcc n stored (unitDests c dst) tg))).finish c []) := by
  let stored : Nat → List Byte := fun t => match data with
    | some d => leBytes n (c.read (srcTid m.u t) d.1 d.2)
    | none => []
  have key : ∀ check : Nat × List Nat → Except MemCause (List Access), (∀ x ∈ m.units s c, check x = .ok [globalAcc n stored (unitDests c dst) tg x]) →
      let v := decideVerdict ((m.units s c).map (fun x => (x, check x)))
      (if s.overlaps c.core c.slot v.go then s.stall
        else (s.fillTlbs c ((m.units s c).map (fun x => c.globalVa m.u x.1 a off))).settle c v (fun t => t.issueMem c m (m.slots s c) kind acq rel v.go)) =
      (s.memRun c m ((m.units s c).map (fun x => c.globalVa m.u x.1 a off)) kind acq rel
        ((m.units s c).map (globalAcc n stored (unitDests c dst) tg))).finish c [] := fun check h => by
    have hpass := decideVerdict_passes h
    dsimp only
    rw [hpass.settle, hpass.go, ← List.map_eq_flatMap, hg.overlaps]
    rfl
  refine ⟨stored, ?_⟩
  unfold globalAccess
  rw [withIss_eq _ hc, memPrologue_clear _ hm]
  refine congrArg Host.Outcome.next (key _ fun x hx => ?_)
  obtain ⟨ha, ht, he⟩ := hg.1 x hx
  exact globalCheck_ok ha ht he _ _ _

/-! ### The command in its engine -/

/-- The command that an issue gives to the memory engine. -/
def memCmdOf (s : State) (c : Iss) (m : MemSpec) (kind : MemKind) (acq rel : Option Scope) (accs : List Access) : MemCmd :=
  { cid := s.nextId, slot := c.slot, who := c.who, kind := kind, accs := goneOn c m accs, acquire := acq, release := rel, guardPend := m.slots s c }

/-- The state that gives it: translations kept, its number taken, its accounts written down. -/
def State.accounted (s : State) (c : Iss) (m : MemSpec) (vas : List Nat) : State :=
  (s.fillTlbs c vas).takeId.account c (m.slots s c) m.cls s.nextId

theorem State.memRun_eq (s : State) (c : Iss) (m : MemSpec) (vas : List Nat) (kind : MemKind) (acq rel : Option Scope) (accs : List Access) :
    s.memRun c m vas kind acq rel accs = (s.accounted c m vas).giveMem c.core (memCmdOf s c m kind acq rel accs) := by
  unfold State.memRun State.accounted memCmdOf
  rw [State.issueMem_eq, s.fillTlbs_nextId]

/-- An access that a target of a window page is for goes to a device that is present. -/
theorem GlobalClear.reached {m : MemSpec} {s : State} {c : Iss} {a : Opnd} {off : Int} {n : Nat} {kind : AccessKind} {tg : Nat → Target}
    (h : GlobalClear m s c a off n kind tg) (data : Nat → List Byte) (dests : Nat × List Nat → List (Nat × RegLoc)) :
    s.Reached (goneOn c m ((m.units s c).map (globalAcc n data dests tg))) := by
  intro b hb hf
  obtain ⟨⟨b', hb', rfl⟩, -⟩ := mem_goneOn.mp hb
  obtain ⟨x, hx, rfl⟩ := List.mem_map.mp hb'
  exact h.2.2.1 _ (List.mem_map_of_mem hx) hf

/-- A command of the memory engine issues, where its engine sends on what it can and nothing else of the machine changes. -/
theorem commandIssues_memRun {i : Instr} {s : State} {c : Iss} {m : MemSpec} {vas : List Nat} {kind : MemKind} {acq rel : Option Scope} {accs : List Access}
    {post : Iss → State → Prop} (hc : s.iss = some c) (hf : FabricClear s []) (hr : s.Reached (goneOn c m accs))
    (hi : exec i s = .next ((s.memRun c m vas kind acq rel accs).finish c []))
    (hgive : (s.accounted c m vas).Reached (goneOn c m accs) → Sends (s.accounted c m vas) ((s.accounted c m vas).giveMem c.core (memCmdOf s c m kind acq rel accs)))
    (hpost : ∀ c', post c' ((s.memRun c m vas kind acq rel accs).finish c [])) :
    CommandIssues Footprint.command i s c m.cls (fun c' t => SameMemory s t ∧ post c' t) := by
  obtain ⟨fw, fh, hcmd⟩ := Commands.account (s.fillTlbs c vas).takeId c (m.slots s c) m.cls s.nextId
  have hsend : Sends s (s.fillTlbs c vas).takeId := (Sends.fillTlbs s c vas).trans (.takeId _)
  obtain ⟨hstill, hclear⟩ := hsend hf
  have hpresent : ∀ d, (s.accounted c m vas).devPresent d = s.devPresent d := fun d => (hcmd.quiet.devPresent d).trans (hstill.devPresent d)
  have hsend2 := hgive fun a ha hfa => (hpresent _).trans (hr a ha hfa)
  rw [State.memRun_eq] at hi hpost
  refine commandIssues_of_commands hc hf hsend hcmd hsend2 hi fun c' => ⟨?_, hpost c'⟩
  exact (((Calm.of_still hstill c.core c.slot).trans (.of_quiet hcmd.quiet)).trans (.of_still (hsend2 (.of_quiet hcmd.quiet hclear)).1 _ _)).memory.trans
    (State.quiet_finish _ c []).sameMemory

end Sys2Proof.Machine

/-! PROOF. Atomics and reductions of global memory issue (R258, R259). -/

namespace Sys2Proof.Machine

theorem State.translate_space {s : State} {core ctx va : Nat} {kind : AccessKind} {tg : Target} (h : s.translate core ctx kind va = .ok tg) :
    tg.space ≠ .scratch := by
  have hleaf : ∀ e shift, (leafTarget e shift va).space ≠ .scratch := fun e shift => by
    unfold leafTarget
    dsimp only
    split <;> decide
  unfold State.translate at h
  split at h
  · cases h
  · split at h
    · split at h
      · cases h
      · split at h <;> cases h
        exact fun h => by cases h
    · split at h
      · cases h
      · split at h
        · split at h <;> cases h
          exact hleaf _ _
        · split at h
          · cases h
          · split at h <;> cases h
            exact hleaf _ _

theorem wordsNat_lt (ws : List Word) : wordsNat ws < 2 ^ (32 * ws.length) := by
  induction ws with
  | nil => decide
  | cons w r ih =>
    have hw : w.toNat < 2 ^ 32 := w.isLt
    rw [wordsNat, List.length_cons, show 32 * (r.length + 1) = 32 + 32 * r.length by omega, pow_add]
    have := Nat.mul_le_mul_left (2 ^ 32) (Nat.succ_le_of_lt ih)
    rw [Nat.mul_succ] at this
    omega

theorem length_allOk {α : Type} {l : List (Except Cause α)} {xs : List α} (h : allOk l = .ok xs) : xs.length = l.length := by
  induction l generalizing xs with
  | nil => cases h; rfl
  | cons e r ih =>
    cases e with
    | error e => cases h
    | ok a =>
      rw [allOk] at h
      cases hr : allOk r with
      | error e => rw [hr] at h; cases h
      | ok ys => rw [hr] at h; cases h; simp [ih hr]

/-- An operand resolves to as many words as it has registers, a latch entry to one. -/
theorem Iss.length_of_resolve {c : Iss} {t n : Nat} {o : Opnd} {ls : List RegLoc} (hr : c.resolve t o n = .ok ls) :
    ls.length = n ∨ ls.length = 1 ∧ noLatch o = false := by
  unfold Iss.resolve at hr
  split at hr
  · exact .inl ((length_allOk hr).trans (by simp [upto]))
  · cases hr
  · cases hr; exact .inl (List.length_replicate ..)
  · cases hr
  · cases hr
  · split at hr <;> cases hr
    exact .inl (by simp [upto])
  · cases hr; exact .inr ⟨rfl, rfl⟩
  · dsimp only at hr
    split at hr <;> cases hr
    exact .inl (by simp [upto])

theorem Iss.read_pair_lt (c : Iss) (t : Nat) (o : Opnd) : c.read t o 2 < 2 ^ 64 := by
  unfold Iss.read
  split
  next ls hr =>
    have hlen : ls.length ≤ 2 := by rcases Iss.length_of_resolve hr with h | h <;> omega
    refine Nat.lt_of_lt_of_le (wordsNat_lt _) (Nat.pow_le_pow_right (by decide) ?_)
    rw [List.length_map]
    omega
  next => decide

/-- An address with no offset is the pair itself. -/
theorem Iss.globalVa_zero (c : Iss) (u : Bool) (t : Nat) (a : Opnd) : c.globalVa u t a 0 = c.read (srcTid u t) a 2 := by
  have h : ((c.read (srcTid u t) a 2 : Nat) : Int) < 2 ^ 64 := by exact_mod_cast c.read_pair_lt (srcTid u t) a
  unfold Iss.globalVa wrap
  rw [Int.add_zero, Int.emod_eq_of_lt (by omega) (by simpa using h), Int.toNat_natCast]

/-! ### Atomics -/

/-- An access of which no unit is of the scratchpad runs as one of global memory. -/
theorem scratchAccess_global {s : State} {c : Iss} {m : MemSpec} {n : Nat} {kind : MemKind} {reads : Bool}
    {target : Iss → Nat → Option (Except MemCause ScrTarget)} {glob : Iss → (Nat × List Nat) → Except MemCause (List Access)}
    {vas : Iss → List Nat → List Nat} {data : Iss → Nat → List Byte} (hc : s.iss = some c) (hres : c.resumed = none) (hm : m.Clear s c)
    (htarget : ∀ y ∈ m.units s c, target c y.1 = none) {acc : Nat × List Nat → Access} (hglob : ∀ y ∈ m.units s c, glob c y = .ok [acc y])
    (hover : s.overlaps c.core c.slot ((m.units s c).map acc) = false) (hspace : ∀ y ∈ m.units s c, (acc y).space ≠ .scratch) :
    scratchAccess m s n kind reads target glob vas data =
      .next ((s.memRun c m (vas c ((m.units s c).map Prod.fst)) kind none none ((m.units s c).map acc)).finish c []) := by
  have hlocal : ((m.units s c).map acc).filter (fun a => !a.remote) = (m.units s c).map acc := by
    refine List.filter_eq_self.mpr fun a ha => ?_
    obtain ⟨y, hy, rfl⟩ := List.mem_map.mp ha
    simp [Access.remote, hspace y hy]
  have key : ∀ (check : Nat × List Nat → Except MemCause (List Access)) (remote : List ((Nat × List Nat) × Nat × Int × Nat)) (t : State), remote = [] →
      (∀ y ∈ m.units s c, check y = .ok [acc y]) →
      let v := decideVerdict ((m.units s c).map (fun y => (y, check y)))
      (if (true && !remote.isEmpty) = true then t else if s.overlaps c.core c.slot v.go then s.stall
        else (s.fillTlbs c (vas c ((m.units s c).map (fun y => y.1)))).settle c v
          (fun t => t.issueMem c m (m.slots s c) kind none none (v.go.filter (fun a => !a.remote)))) =
      (s.memRun c m (vas c ((m.units s c).map Prod.fst)) kind none none ((m.units s c).map acc)).finish c [] := by
    rintro check _ t rfl h
    have hpass := decideVerdict_passes h
    dsimp only
    rw [hpass.settle, hpass.go, ← List.map_eq_flatMap, hover, hlocal]
    rfl
  unfold scratchAccess
  rw [withIss_eq _ hc, memPrologue_clear _ hm]
  simp only [hres, Option.map_none, Option.any_none]
  refine congrArg Host.Outcome.next (key _ _ _ (List.filterMap_eq_nil_iff.mpr fun y hy => ?_) fun y hy => ?_)
  · simp only [htarget y hy]
  · simp only [htarget y hy, hglob y hy]

/-- The operands of an atomic that returns a word to `x`, or none. -/
def atomSpec (op : AtomOp) (a b : Opnd) (x : Option Opnd) (g u : Bool) : MemSpec :=
  { inHelper := true, g := g, u := u, cls := some (if x.isSome then .loads else .stores), srcs := [(a, 2), (b, if op = .cas then 2 else 1)],
    dst := x.map (fun o => (o, 1)), dstLast := true }

theorem atomAccess_clear {s : State} {c : Iss} {op : AtomOp} {a b : Opnd} {x : Option Opnd} {g u : Bool} {tg : Nat → Target} (hc : s.iss = some c)
    (hres : c.resumed = none) (hm : (atomSpec op a b x g u).Clear s c) (hg : GlobalClear (atomSpec op a b x g u) s c a 0 4 .atomic tg)
    (hu : ∀ y ∈ (atomSpec op a b x g u).units s c, hasBit (c.read (srcTid u y.1) a 2) 63 = false ∧ ((tg y.1).space = .host → hostAtomOk op x.isSome = true)) :
    ∃ vas stored dests, atomAccess s op a b x g u = .next ((s.memRun c (atomSpec op a b x g u) vas (.atom op x.isSome) none none
      (((atomSpec op a b x g u).units s c).map (globalAcc 4 stored dests tg))).finish c []) := by
  let stored : Nat → List Byte := fun t => leBytes (4 * if op = .cas then 2 else 1) (c.read (srcTid u t) b (if op = .cas then 2 else 1))
  let dests := unitDests c (atomSpec op a b x g u).dst
  refine ⟨((((atomSpec op a b x g u).units s c).map Prod.fst).map (fun t => c.read (srcTid u t) a 2)).filter (fun v => !hasBit v 63), stored, dests, ?_⟩
  unfold atomAccess
  refine scratchAccess_global (m := atomSpec op a b x g u) (acc := globalAcc 4 stored dests tg) hc hres hm (fun y hy => ?_) (fun y hy => ?_)
    (hg.overlaps _ _) fun y hy => ?_
  · simp only [(hu y hy).1]
    rfl
  · obtain ⟨ha, ht, he⟩ := hg.1 y hy
    rw [Iss.globalVa_zero] at ha ht
    have ha' : c.read (srcTid u y.1) a 2 % 4 = 0 := ha
    have ht' : s.translate c.core c.w.ctx .atomic (c.read (srcTid u y.1) a 2) = .ok (tg y.1) := ht
    have hnot : ¬((tg y.1).space = .host ∧ hostAtomOk op x.isSome = false) := fun h => by
      rw [(hu y hy).2 h.1] at h
      exact absurd h.2 (by decide)
    cases x with
    | none =>
      simp only [globalCheck_ok ha' ht' he, if_neg hnot]
      rfl
    | some o =>
      simp only [globalCheck_ok ha' ht' he, if_neg hnot]
      rfl
  · exact State.translate_space (hg.1 y hy).2.1

theorem commandIssues_atomAccess {i : Instr} {s : State} {c : Iss} {op : AtomOp} {a b : Opnd} {x : Option Opnd} {g u : Bool} {tg : Nat → Target}
    (hc : s.iss = some c) (hres : c.resumed = none) (hi : exec i s = atomAccess s op a b x g u) (hm : (atomSpec op a b x g u).Clear s c)
    (hg : GlobalClear (atomSpec op a b x g u) s c a 0 4 .atomic tg)
    (hu : ∀ y ∈ (atomSpec op a b x g u).units s c, hasBit (c.read (srcTid u y.1) a 2) 63 = false ∧ ((tg y.1).space = .host → hostAtomOk op x.isSome = true)) :
    CommandIssues Footprint.command i s c (some (if x.isSome then .loads else .stores)) (fun _ t => SameMemory s t) := by
  obtain ⟨vas, stored, dests, hrun⟩ := atomAccess_clear hc hres hm hg hu
  have hscr : ∀ d ∈ goneOn c (atomSpec op a b x g u) (((atomSpec op a b x g u).units s c).map (globalAcc 4 stored dests tg)), d.space ≠ .scratch := by
    intro d hd
    obtain ⟨⟨d', hd', rfl⟩, -⟩ := mem_goneOn.mp hd
    obtain ⟨y, hy, rfl⟩ := List.mem_map.mp hd'
    exact State.translate_space (hg.1 y hy).2.1
  obtain ⟨t, c', ht, hc', ⟨hmem, -⟩, hrest⟩ := commandIssues_memRun (post := fun _ _ => True) hc hg.2.2.forget (hg.reached _ _) (hi.trans hrun)
    (fun hr => Sends.giveAtom _ _ _ rfl hr hscr) (fun _ => trivial)
  exact ⟨t, c', ht, hc', hmem, hrest⟩

/-- The word operations of RED are those of ATOM, without the word that returns. -/
theorem exec_red {op : AtomOp} {f : RedForm} {i : Instr} (h : redOf f op = some i) (s : State) : exec i s = atomAccess s op f.a f.b none f.g f.u ∧ op ≠ .cas := by
  cases op <;> cases h <;> exact ⟨rfl, by decide⟩

theorem exec_atom (op : AtomOp) (f : AtomForm) (s : State) : exec (atomOf f op) s = atomAccess s op f.a f.b (some f.x) f.g f.u := by
  cases op <;> rfl

theorem hostAtomOk_atom {op : AtomOp} (h : op = .add ∨ op = .exch ∨ op = .cas) : hostAtomOk op true = true := by
  rcases h with rfl | rfl | rfl <;> rfl

/-- Settles O21: the checks pass, and the engine takes or queues the command; at issue it only publishes what other buffers hold of its lines. -/
theorem atomics : Obligations.Atomics := by
  unfold Obligations.Atomics
  intro s c hc hres
  refine ⟨fun op f tg hm hg hu => ?_, fun op f i tg hi hm hg hu => ?_⟩
  · exact commandIssues_atomAccess (x := some f.x) hc hres (exec_atom op f s) hm hg fun y hy => ⟨(hu y hy).1, fun h => hostAtomOk_atom ((hu y hy).2 h)⟩
  · obtain ⟨hexec, hcas⟩ := exec_red hi s
    have hspec : atomSpec op f.a f.b none f.g f.u =
        { inHelper := true, g := f.g, u := f.u, cls := some .stores, srcs := [(f.a, 2), (f.b, 1)], dst := none, dstLast := true } := by
      simp only [atomSpec, if_neg hcas]
      rfl
    rw [← hspec] at hm hg hu
    refine commandIssues_atomAccess (x := none) hc hres hexec hm hg fun y hy => ⟨(hu y hy).1, fun h => ?_⟩
    rw [(hu y hy).2 h]
    rfl

end Sys2Proof.Machine

/-! SUPPORT. What a load of HBM or plot memory finds is not changed by the accesses of its command that travel (R121, R249). -/

namespace Sys2Proof.Machine

/-! ### Bytes that a core reads -/

/-- Does an entry stand for bytes of HBM or of plot memory? -/
def WcbEntry.near (e : WcbEntry) : Bool := e.space == .hbm || e.space == .plot

theorem newestByte_near {sp : Space} (h : sp = .hbm ∨ sp = .plot) (es : List WcbEntry) (key pa : Nat) :
    newestByte (es.filter WcbEntry.near) sp key pa = newestByte es sp key pa := by
  induction es with
  | nil => rfl
  | cons e r ih =>
    by_cases hn : e.near = true
    · rw [List.filter_cons_of_pos hn]
      simp only [newestByte, ih]
    · rw [List.filter_cons_of_neg hn, ih]
      have hne : e.space ≠ sp := by
        rintro rfl
        exact hn (by rcases h with h | h <;> simp [WcbEntry.near, h])
      simp only [newestByte, hne, false_and, if_false]

/-- A core's buffers hold the same entries of HBM and plot memory in the same order, and every L1 and every memory is as before. -/
structure Unread (s t : State) (core : Nat) : Prop where
  stores : s.SameStores t
  l1 : ∀ d, (t.core d).l1 = (s.core d).l1
  entries : (t.unacked core).filter WcbEntry.near = (s.unacked core).filter WcbEntry.near

theorem Unread.refl (s : State) (core : Nat) : Unread s s core := ⟨.refl s, fun _ => rfl, rfl⟩

theorem Unread.trans {s t u : State} {core : Nat} (h : Unread s t core) (k : Unread t u core) : Unread s u core :=
  ⟨h.stores.trans k.stores, fun d => (k.l1 d).trans (h.l1 d), k.entries.trans h.entries⟩

theorem Unread.loadBytes {s t : State} {core : Nat} (h : Unread s t core) {sp : Space} (hsp : sp = .hbm ∨ sp = .plot) (key pa n : Nat) :
    t.loadBytes core sp key pa n = s.loadBytes core sp key pa n := by
  have hbuf : ∀ a, bufferedByte (t.unacked core) sp key a = bufferedByte (s.unacked core) sp key a := fun a => by
    unfold bufferedByte
    rw [← newestByte_near hsp (t.unacked core), h.entries, newestByte_near hsp]
  have hcore : ∀ d line, t.l1Core d line = s.l1Core d line := fun d line => by
    have hplot : ∀ i, t.plot i = s.plot i := fun i => by rw [State.plot, State.plot, h.stores.2.2.1]
    have hfused : ∀ i, t.fused i = s.fused i := fun i => by rw [State.fused, State.fused, hplot]
    simp only [State.l1Core, hfused]
  simp only [State.loadBytes, hbuf, hcore, h.l1, h.stores.memRead]

/-- Where no core's buffers and no entries that travel have changed. -/
theorem Unread.of_same {s t : State} {core : Nat} (hs : s.SameStores t) (hl : ∀ d, (t.core d).l1 = (s.core d).l1) (hw : (t.core core).wcb = (s.core core).wcb)
    (hd : (t.core core).drains = (s.core core).drains) (hr : t.hostReqs = s.hostReqs) (hf : t.fabOps = s.fabOps) : Unread s t core :=
  ⟨hs, hl, by simp only [State.unacked, hw, hd, hr, hf]⟩

theorem Unread.of_cores {s t : State} {core : Nat} (hs : s.SameStores t) (hc : t.cores = s.cores) (hr : t.hostReqs = s.hostReqs) (hf : t.fabOps = s.fabOps) :
    Unread s t core := by
  have hcore : ∀ d, t.core d = s.core d := fun d => by simp only [State.core, hc]
  exact .of_same hs (fun d => by rw [hcore]) (by rw [hcore]) (by rw [hcore]) hr hf

theorem Unread.of_quiet {s t : State} {core slot : Nat} (h : Quiet s t core slot) : Unread s t core := by
  have hd := h.device.1
  refine .of_same ⟨(congrArg State.hbm hd :), (congrArg State.hostMem hd :), (congrArg State.plots hd :), (congrArg State.lineKeys hd :),
    (congrArg (fun s : State => s.sec.keys) hd :)⟩ (fun d => ?_) (congrArg Core.wcb h.engines :) (congrArg Core.drains h.engines :)
    (congrArg State.hostReqs hd :) (congrArg State.fabOps hd :)
  by_cases hc : d = core
  · subst hc
    exact (congrArg Core.l1 h.engines :)
  · rw [h.others d hc]

theorem Unread.modCore (s : State) (core d : Nat) {f : Core → Core} (hf : ∀ k, (f k).l1 = k.l1 ∧ (f k).wcb = k.wcb ∧ (f k).drains = k.drains) :
    Unread s (s.modCore d f) core := by
  have h : ∀ e, ((s.modCore d f).core e).l1 = (s.core e).l1 ∧ ((s.modCore d f).core e).wcb = (s.core e).wcb ∧
      ((s.modCore d f).core e).drains = (s.core e).drains := fun e => by
    by_cases he : d = e
    · subst he
      rw [State.core_modCore_same]
      exact hf _
    · rw [State.core_modCore_other _ _ he]
      exact ⟨rfl, rfl, rfl⟩
  exact .of_same (s.sameStores_modCore d f) (fun e => (h e).1) (h core).2.1 (h core).2.2 rfl rfl

theorem Unread.tlbFill (s : State) (core d ctx va : Nat) : Unread s (s.tlbFill d ctx va) core := by
  unfold State.tlbFill
  split
  · exact .refl s core
  · split
    · exact .refl s core
    · split
      · exact .refl s core
      · split
        · exact .refl s core
        · exact .modCore s core _ fun _ => ⟨rfl, rfl, rfl⟩

theorem Unread.fillTlbs (s : State) (core : Nat) (c : Iss) (vas : List Nat) : Unread s (s.fillTlbs c vas) core := by
  unfold State.fillTlbs
  induction vas generalizing s with
  | nil => exact .refl s core
  | cons va r ih => exact (Unread.tlbFill s core c.core c.w.ctx va).trans (ih _)

/-! ### Entries of other spaces on their way -/

/-- A step of an engine after which a core reads HBM and plot memory as before, where the fabric is clear. -/
def Skips (s t : State) (core : Nat) : Prop := Sends s t ∧ (FabricClear s [] → Unread s t core)

theorem Skips.refl (s : State) (core : Nat) : Skips s s core := ⟨.refl s, fun _ => .refl s core⟩

theorem Skips.trans {s t u : State} {core : Nat} (h : Skips s t core) (k : Skips t u core) : Skips s u core :=
  ⟨h.1.trans k.1, fun hs => (h.2 hs).trans (k.2 (h.1 hs).2)⟩

/-- The entries of a list of operations that belong to a core. -/
def entriesOf (core : Nat) (fs : List FabOp) : List WcbEntry := (fs.filter (fun f => f.core == core)).filterMap (fun f => f.entry)

theorem entriesOf_replaceFirst (core : Nat) (f : FabOp) (q : Option Nat) (fs : List FabOp) :
    entriesOf core (replaceFirst f { f with seq := q } fs) = entriesOf core fs := by
  induction fs with
  | nil => rfl
  | cons g r ih =>
    unfold replaceFirst
    split
    next h =>
      subst h
      by_cases hc : (g.core == core) = true <;> simp [entriesOf, List.filterMap_cons, hc]
    next =>
      unfold entriesOf at ih ⊢
      by_cases hc : (g.core == core) = true <;> simp [List.filterMap_cons, hc, ih]

theorem Unread.of_ops {s t : State} {core : Nat} (hs : s.SameStores t) (hc : t.cores = s.cores) (hr : t.hostReqs = s.hostReqs)
    (hf : (entriesOf core t.fabOps).filter WcbEntry.near = (entriesOf core s.fabOps).filter WcbEntry.near) : Unread s t core := by
  have hcore : ∀ d, t.core d = s.core d := fun d => by simp only [State.core, hc]
  refine ⟨hs, fun d => by rw [hcore], ?_⟩
  simp only [State.unacked, hcore, hr, List.filter_append]
  exact congrArg _ hf

theorem State.unread_sendFrame (s : State) (core dev part kind arg : Nat) (payload : List Byte) : Unread s (s.sendFrame dev part kind arg payload).1 core := by
  unfold State.sendFrame
  dsimp only
  split
  · exact .of_cores ⟨rfl, rfl, rfl, rfl, rfl⟩ rfl rfl rfl
  · exact .of_cores ⟨rfl, rfl, rfl, rfl, rfl⟩ rfl rfl rfl

theorem Unread.sendOp (s : State) (core : Nat) {f : FabOp} (hp : s.devPresent f.dev = true) : Unread s (s.sendOp f) core := by
  unfold State.sendOp
  rw [if_pos hp]
  refine (s.unread_sendFrame core f.dev f.part f.frame.1 f.arg f.frame.2).trans ?_
  exact .of_ops ⟨rfl, rfl, rfl, rfl, rfl⟩ rfl rfl (by rw [entriesOf_replaceFirst])

theorem Skips.sendFab (s : State) (core : Nat) : Skips s s.sendFab core := by
  suffices h : ∀ (l : List FabOp) (t : State), Skips t (l.foldl (fun (s : State) f => if s.fabOps.contains f && s.fabSendable f then s.sendOp f else s) t) core from
    h s.fabOps s
  intro l
  induction l with
  | nil => exact fun t => .refl t core
  | cons f r ih =>
    refine fun t => Skips.trans ?_ (ih _)
    beta_reduce
    split
    next hf =>
      obtain ⟨hmem, hsend⟩ := Bool.and_eq_true_iff.mp hf
      have hp : FabricClear t [] → t.devPresent f.dev = true := fun h => h.2.2 f (List.contains_iff_mem.mp hmem) (State.seq_of_fabSendable hsend)
      exact ⟨fun h => Sends.sendOp t (hp h) h, fun h => .sendOp t core (hp h)⟩
    next => exact .refl t core

/-- New operations that carry no entry of HBM or plot memory. -/
theorem Skips.addOps (s : State) (core : Nat) {fs : List FabOp} (hp : ∀ f ∈ fs, s.devPresent f.dev = true)
    (hn : ∀ f ∈ fs, ∀ e, f.entry = some e → e.near = false) : Skips s { s with fabOps := s.fabOps ++ fs } core := by
  refine ⟨.addOps s hp, fun _ => .of_ops ⟨rfl, rfl, rfl, rfl, rfl⟩ rfl rfl ?_⟩
  have hnew : (entriesOf core fs).filter WcbEntry.near = [] := by
    refine List.filter_eq_nil_iff.mpr fun e he => ?_
    obtain ⟨f, hf, hfe⟩ := List.mem_filterMap.mp he
    simp [hn f (List.mem_of_mem_filter hf) e hfe]
  rw [show entriesOf core (s.fabOps ++ fs) = entriesOf core s.fabOps ++ entriesOf core fs by simp [entriesOf], List.filter_append, hnew, List.append_nil]

theorem Unread.addHost (s : State) (core : Nat) {r : HostReq} (hn : ∀ e, r.entry = some e → e.near = false) :
    Unread s { s with hostReqs := s.hostReqs ++ [r] } core := by
  refine ⟨⟨rfl, rfl, rfl, rfl, rfl⟩, fun _ => rfl, ?_⟩
  have hnew : (([r].filter (fun r => r.core == core)).filterMap (fun r => r.entry)).filter WcbEntry.near = [] := by
    refine List.filter_eq_nil_iff.mpr fun e he => ?_
    obtain ⟨x, hx, hxe⟩ := List.mem_filterMap.mp he
    rw [List.mem_singleton.mp (List.mem_of_mem_filter hx)] at hxe
    simp [hn e hxe]
  simp only [State.unacked, State.core, List.filter_append, List.filterMap_append, hnew, List.append_nil]

theorem Skips.sendEntry (s : State) (core d : Nat) {e : WcbEntry} (he : s.Reaches e) (hn : e.space = .host ∨ e.space = .fabric) :
    Skips s (s.sendEntry d e) core := by
  refine ⟨.sendEntry s d he, fun h => ?_⟩
  have hnear : e.near = false := by rcases hn with hn | hn <;> simp [WcbEntry.near, hn]
  unfold State.sendEntry
  split
  next hf =>
    refine ((Skips.addOps s core (fun f hf' => ?_) (fun f hf' x hx => ?_)).trans (.sendFab _ core)).2 h
    · obtain ⟨r, hr, rfl⟩ := List.mem_map.mp hf'
      exact he hf r.1 (mem_mkeys_of_runsOf hr)
    · obtain ⟨r, hr, rfl⟩ := List.mem_map.mp hf'
      cases hx
      exact hnear
  next hf =>
    rw [if_pos (hn.resolve_right hf)]
    refine Unread.addHost s core fun x hx => ?_
    cases hx
    exact hnear

theorem Skips.sendEntries (s : State) (core d : Nat) {es : List WcbEntry} (he : ∀ e ∈ es, s.Reaches e) (hn : ∀ e ∈ es, e.space = .host ∨ e.space = .fabric) :
    Skips s (es.foldl (fun s e => s.sendEntry d e) s) core := by
  induction es generalizing s with
  | nil => exact .refl s core
  | cons e r ih =>
    have h1 := Skips.sendEntry s core d (he e List.mem_cons_self) (hn e List.mem_cons_self)
    have h2 : FabricClear s [] → Skips (s.sendEntry d e) (r.foldl (fun s e => s.sendEntry d e) (s.sendEntry d e)) core := fun h =>
      ih _ (fun x hx hf o ho => ((h1.1 h).1.devPresent _).trans (he x (List.mem_cons_of_mem _ hx) hf o ho)) (fun x hx => hn x (List.mem_cons_of_mem _ hx))
    exact ⟨fun h => (h1.1.trans (h2 h).1) h, fun h => (h1.trans (h2 h)).2 h⟩

/-- The entries of a line of another space leave a buffer. -/
theorem Skips.drainLine (s : State) (core d : Nat) {sp : Space} (pa : Nat) (hsp : sp = .host ∨ sp = .fabric) : Skips s (s.drainLine d sp pa) core := by
  refine ⟨.drainLine s d sp pa, fun h => ?_⟩
  let hit := fun (e : WcbEntry) => e.space == sp && e.line == pa / 128
  have hfar : ∀ e, hit e = true → e.space = sp := fun e he => eq_of_beq (Bool.and_eq_true_iff.mp he).1
  have hkeep : ∀ l : List WcbEntry, (l.filter (fun e => !hit e)).filter WcbEntry.near = l.filter WcbEntry.near := fun l => by
    rw [List.filter_filter]
    refine List.filter_congr fun e _ => ?_
    cases he : hit e
    · simp
    · have : e.near = false := by rcases hsp with rfl | rfl <;> simp [WcbEntry.near, hfar e he]
      simp [this]
  have hfirst : Unread s (s.modCore d (fun k => { k with wcb := k.wcb.filter (fun e => !hit e) })) core := by
    refine ⟨s.sameStores_modCore d _, fun e => ?_, ?_⟩
    · by_cases he : d = e
      · subst he
        rw [State.core_modCore_same]
      · rw [State.core_modCore_other _ _ he]
    · by_cases he : d = core
      · subst he
        simp only [State.unacked, State.core_modCore_same, List.filter_append, hkeep]
        rfl
      · simp only [State.unacked, State.core_modCore_other _ _ he]
        rfl
  have hsend := Skips.sendEntries (s.modCore d (fun k => { k with wcb := k.wcb.filter (fun e => !hit e) })) core d (es := (s.core d).wcb.filter hit)
    (fun e he => h.reaches (List.mem_of_mem_filter he)) (fun e he => by
      rw [hfar e (List.of_mem_filter he)]
      exact hsp)
  have hsent : Sends s (s.modCore d (fun k => { k with wcb := k.wcb.filter (fun e => !hit e) })) :=
    .modCore s d (fun _ => ⟨rfl, rfl, rfl, rfl⟩) fun _ _ he => List.mem_of_mem_filter he
  exact (Skips.trans ⟨hsent, fun _ => hfirst⟩ hsend).2 h

/-- The publish of a core's own entries of the lines of accesses to another space. -/
theorem Skips.publishOwn (s : State) (core : Nat) {accs : List Access} (ha : ∀ a ∈ accs, a.space = .host ∨ a.space = .fabric) :
    Skips s (s.publishAccs core true false accs).1 core := by
  rw [State.publishAccs_eq]
  have hl : ∀ l ∈ ((accs.filter (fun a => a.space == .hbm || a.space == .plot || a.space == .host || a.space == .fabric)).map
      (fun a => (a.space, a.addr / 128 * 128))).dedup, l.1 = .host ∨ l.1 = .fabric := fun l hl => by
    obtain ⟨a, hm, rfl⟩ := List.mem_map.mp (List.mem_dedup.mp hl)
    exact ha a (List.mem_of_mem_filter hm)
  generalize ((accs.filter (fun a => a.space == .hbm || a.space == .plot || a.space == .host || a.space == .fabric)).map
      (fun a => (a.space, a.addr / 128 * 128))).dedup = lines at hl
  suffices h : ∀ acc : State × List Nat, Skips acc.1 (lines.foldl (publishStep core true false) acc).1 core from h (s, [])
  induction lines with
  | nil => exact fun acc => .refl _ core
  | cons l r ih =>
    exact fun acc => (Skips.drainLine acc.1 core core l.2 (hl l List.mem_cons_self)).trans (ih (fun x hx => hl x (List.mem_cons_of_mem _ hx)) (publishStep core true false acc l))

theorem Skips.hostAccs (s : State) (core : Nat) {m : MemCmd} (hm : m.publishes = false) {accs : List Access} (ha : ∀ a ∈ accs, a.space = .host) :
    Skips s (s.hostAccs core m accs) core := by
  refine ⟨.hostAccs s core m accs, ?_⟩
  unfold State.hostAccs
  split
  · exact fun _ => .refl s core
  · rw [hm]
    intro h
    exact ((Skips.publishOwn s core (fun a hx => .inl (ha a hx))).2 h).trans (.addHost _ core fun e he => by cases he)

theorem Skips.fabricLs (s : State) (core : Nat) (m : MemCmd) (kind : FabKind) (ext : Extend) {accs : List Access} (ha : ∀ a ∈ accs, a.space = .fabric)
    (hp : ∀ a ∈ accs, s.devPresent (fabricDev a.addr) = true) : Skips s (s.fabricLs core m kind ext accs) core := by
  refine ⟨.fabricLs s core m kind ext hp, ?_⟩
  unfold State.fabricLs
  split
  · exact fun _ => .refl s core
  · intro h
    have hpub := Skips.publishOwn s core (fun a hx => .inr (ha a hx))
    obtain ⟨hstill, hclear⟩ := hpub.1 h
    refine (hpub.2 h).trans ?_
    dsimp only
    unfold State.fabricOps
    extract_lets w ctx part home f
    split
    · exact .refl _ core
    · refine ((Skips.addOps _ core (fun g hg => ?_) (fun g hg e he => ?_)).trans (.sendFab _ core)).2 hclear
      · obtain ⟨a, hx, rfl⟩ := List.mem_map.mp hg
        exact (hstill.devPresent _).trans (hp a hx)
      · obtain ⟨a, hx, rfl⟩ := List.mem_map.mp hg
        cases he

end Sys2Proof.Machine

/-! PROOF. Loads of global memory issue (R121, R237, R246). -/

namespace Sys2Proof.Machine

/-! ### The words that a load fills -/

/-- Lists of `n` elements, or of none, set one behind another keep every element's place modulo `n`. -/
theorem exists_getElem?_flatMap {α β : Type} {f : α → List β} {n : Nat} {l : List α} (h : ∀ a ∈ l, f a = [] ∨ (f a).length = n) {a : α} (ha : a ∈ l) {j : Nat} {b : β}
    (hb : (f a)[j]? = some b) : ∃ i, (l.flatMap f)[i]? = some b ∧ i % n = j := by
  induction l with
  | nil => cases ha
  | cons x r ih =>
    rw [List.flatMap_cons]
    rcases List.mem_cons.mp ha with rfl | har
    · obtain ⟨hj, -⟩ := List.getElem?_eq_some_iff.mp hb
      have hn : (f a).length = n := (h a List.mem_cons_self).resolve_left fun he => by rw [he] at hj; cases hj
      exact ⟨j, by rw [List.getElem?_append_left hj, hb], Nat.mod_eq_of_lt (hn ▸ hj)⟩
    · obtain ⟨i, hi, hm⟩ := ih (fun y hy => h y (List.mem_cons_of_mem _ hy)) har
      refine ⟨(f x).length + i, by rw [List.getElem?_append_right (by omega), Nat.add_sub_cancel_left, hi], ?_⟩
      rcases h x List.mem_cons_self with he | he
      · simpa [he] using hm
      · rw [he, Nat.add_mod_left, hm]

theorem mem_fillDests {dests : List (Nat × RegLoc)} {ws : List Word} {i : Nat} {t : Nat} {l : RegLoc} {w : Word} (hd : dests[i]? = some (t, l))
    (hw : ws[i % ws.length]? = some w) : (t, l, w) ∈ fillDests dests ws := by
  refine List.mem_map.mpr ⟨((t, l), i), List.mem_zipIdx_iff_getElem?.mpr hd, ?_⟩
  simp only [hw, Option.getD_some]

theorem length_natWords (n v : Nat) : (natWords n v).length = n := by
  induction n generalizing v with
  | zero => rfl
  | succ n ih => simp [natWords, ih]

theorem State.length_loadBytes (s : State) (core : Nat) (sp : Space) (key pa n : Nat) : (s.loadBytes core sp key pa n).length = n := by
  simp [State.loadBytes, upto]

/-- The registers that one thread's access fills: as many as it loads words, or none. -/
def threadDests (c : Iss) (d : Opnd) (words th : Nat) : List (Nat × RegLoc) := match c.resolve th d words with
  | .ok ls => ls.map (fun l => (th, l))
  | .error _ => []

theorem Iss.destsOf_eq (c : Iss) (ts : List Nat) (d : Opnd) (words : Nat) : c.destsOf ts d words = ts.flatMap (threadDests c d words) := rfl

theorem threadDests_length {c : Iss} {d : Opnd} {words : Nat} (h : words = 1 ∨ noLatch d = true) (th : Nat) :
    threadDests c d words th = [] ∨ (threadDests c d words th).length = words := by
  unfold threadDests
  split
  next ls hls =>
    right
    rw [List.length_map]
    rcases Iss.length_of_resolve hls with hl | ⟨hl, hlatch⟩
    · exact hl
    · rcases h with rfl | h
      · exact hl
      · rw [h] at hlatch; cases hlatch
  next => exact .inl rfl

/-- A loaded word reaches the register of its place, in every thread that the access serves. -/
theorem mem_fillDests_destsOf {c : Iss} {d : Opnd} {words : Nat} (h : words = 1 ∨ noLatch d = true) {ts : List Nat} {th : Nat} (hth : th ∈ ts)
    {ls : List RegLoc} (hr : c.resolve th d words = .ok ls) {j : Nat} {loc : RegLoc} (hj : ls[j]? = some loc) {ws : List Word} (hws : ws.length = words) {w : Word}
    (hw : ws[j]? = some w) : (th, loc, w) ∈ fillDests (c.destsOf ts d words) ws := by
  have hat : (threadDests c d words th)[j]? = some (th, loc) := by
    unfold threadDests
    rw [hr]
    simp [hj]
  obtain ⟨i, hi, hm⟩ := exists_getElem?_flatMap (fun a _ => threadDests_length h a) hth hat
  exact mem_fillDests hi (by rw [hws, hm, hw])

theorem destsOf_fst {c : Iss} {ts : List Nat} {d : Opnd} {words : Nat} {x : Nat × RegLoc} (h : x ∈ c.destsOf ts d words) : x.1 ∈ ts := by
  obtain ⟨th, hth, hx⟩ := List.mem_flatMap.mp h
  split at hx
  · obtain ⟨l, -, rfl⟩ := List.mem_map.mp hx
    exact hth
  · cases hx

/-! ### A load that runs -/

/-- The loads of HBM and plot memory take their bytes as the load runs, whatever accesses of the command travel (R121). -/
theorem State.exists_load_of_runLoad {s : State} {core : Nat} {m : MemCmd} {ext : Extend} (hs : FabricClear s []) (hm : s.Reached m.accs) (ha : m.acquire = none)
    (hk : m.kind = .load ext) : ∃ l ∈ ((s.runLoad core m ext).core core).loadsPending, l.cid = m.cid ∧ l.slot = m.slot ∧ l.who = m.who ∧
      ∀ a ∈ m.accs, (a.space = .hbm ∨ a.space = .plot) → ∀ x ∈ fillDests a.dests (loadWords ext (s.loadBytes core a.space a.aux a.addr a.n)), x ∈ l.writes := by
  have hnp : m.publishes = false := by simp [MemCmd.publishes, ha, hk]
  have hhost := Skips.hostAccs s core hnp (accs := inSpace .host m.accs) fun a h => (mem_inSpace.mp h).2
  have hfab := Skips.fabricLs (s.hostAccs core m (inSpace .host m.accs)) core m .rd ext (accs := inSpace .fabric m.accs) (fun a h => (mem_inSpace.mp h).2)
    fun a h => ((hhost.1 hs).1.devPresent _).trans (hm a (mem_inSpace.mp h).1 (mem_inSpace.mp h).2)
  have hun := (hhost.trans hfab).2 hs
  unfold State.runLoad
  simp only [ha, State.pushLoad, State.core_modCore_same]
  refine ⟨_, List.mem_append_right _ List.mem_cons_self, rfl, rfl, rfl, fun a haa hsp x hx => ?_⟩
  refine List.mem_append_right _ (List.mem_flatMap.mpr ⟨a, ?_, by rw [hun.loadBytes hsp]; exact hx⟩)
  rcases hsp with h | h
  · exact List.mem_append_left _ (mem_inSpace.mpr ⟨haa, h⟩)
  · exact List.mem_append_right _ (mem_inSpace.mpr ⟨haa, h⟩)

/-- Of the cores only translations are kept. -/
theorem State.core_tlbFill {α : Type} {obs : Core → α} (ho : ∀ k l, obs { k with tlb := l } = obs k) (s : State) (core d ctx va : Nat) :
    obs ((s.tlbFill d ctx va).core core) = obs (s.core core) := by
  unfold State.tlbFill
  split
  · rfl
  · split
    · rfl
    · split
      · rfl
      · split
        · rfl
        · by_cases h : d = core
          · subst h
            rw [State.core_modCore_same, ho]
          · rw [State.core_modCore_other _ _ h]

theorem State.core_fillTlbs {α : Type} {obs : Core → α} (ho : ∀ k l, obs { k with tlb := l } = obs k) (s : State) (core : Nat) (c : Iss) (vas : List Nat) :
    obs ((s.fillTlbs c vas).core core) = obs (s.core core) := by
  unfold State.fillTlbs
  induction vas generalizing s with
  | nil => rfl
  | cons va r ih => exact (ih _).trans (s.core_tlbFill ho core c.core c.w.ctx va)

/-! ### A command that its engine takes at once -/

theorem MemSpec.AtOnce.slots {m : MemSpec} {s : State} {c : Iss} (h : m.AtOnce s c) : m.slots s c = [] := by
  unfold MemSpec.slots
  split
  next hg => exact h.1 hg
  next => rfl

theorem MemSpec.AtOnce.units {m : MemSpec} {s : State} {c : Iss} (h : m.AtOnce s c) : m.units s c = c.units m.u (c.exec m.g) := by
  rw [← MemSpec.units_eq, h.slots]
  rfl

/-- The accounts of a command leave all that its engine reads. -/
theorem State.accounted_quiet (s : State) (c : Iss) (m : MemSpec) (vas : List Nat) : Quiet (s.fillTlbs c vas).takeId (s.accounted c m vas) c.core c.slot := by
  obtain ⟨fw, fh, h⟩ := Commands.account (s.fillTlbs c vas).takeId c (m.slots s c) m.cls s.nextId
  exact h.quiet

theorem State.unread_accounted (s : State) (c : Iss) (m : MemSpec) (vas : List Nat) : Unread s (s.accounted c m vas) c.core := by
  have hid : Unread (s.fillTlbs c vas) (s.fillTlbs c vas).takeId c.core := .of_cores ⟨rfl, rfl, rfl, rfl, rfl⟩ rfl rfl rfl
  exact ((Unread.fillTlbs s c.core c vas).trans hid).trans (.of_quiet (s.accounted_quiet c m vas))

/-- The fabric is as clear at the engine as it was at the issue, and the same devices are there. -/
theorem State.accounted_clear {s : State} (c : Iss) (m : MemSpec) (vas : List Nat) (hf : FabricClear s []) :
    FabricClear (s.accounted c m vas) [] ∧ ∀ d, (s.accounted c m vas).devPresent d = s.devPresent d := by
  have hsend : Sends s (s.fillTlbs c vas).takeId := (Sends.fillTlbs s c vas).trans (.takeId _)
  obtain ⟨hstill, hclear⟩ := hsend hf
  have hquiet := s.accounted_quiet c m vas
  exact ⟨.of_quiet hquiet hclear, fun d => (hquiet.devPresent d).trans (hstill.devPresent d)⟩

theorem MemSpec.AtOnce.memRun {m : MemSpec} {s : State} {c : Iss} (h : m.AtOnce s c) (vas : List Nat) (kind : MemKind) (acq rel : Option Scope) (accs : List Access) :
    s.memRun c m vas kind acq rel accs = (s.accounted c m vas).runMem c.core (memCmdOf s c m kind acq rel accs) := by
  have hmemQ : ((s.accounted c m vas).core c.core).memQ = [] :=
    ((congrArg Core.memQ (s.accounted_quiet c m vas).engines :).trans (s.core_fillTlbs (obs := Core.memQ) (fun _ _ => rfl) c.core c vas)).trans h.2
  rw [State.memRun_eq, State.giveMem, hmemQ, show (memCmdOf s c m kind acq rel accs).guardPend = [] from h.slots]
  rfl

/-- Where every thread of the units executes, every access goes with all its destinations. -/
theorem MemSpec.AtOnce.mem_goneOn {m : MemSpec} {s : State} {c : Iss} (h : m.AtOnce s c) {n : Nat} {stored : Nat → List Byte} {d : Opnd × Nat} {tg : Nat → Target}
    {x : Nat × List Nat} (hx : x ∈ m.units s c) :
    globalAcc n stored (unitDests c (some d)) tg x ∈ goneOn c m ((m.units s c).map (globalAcc n stored (unitDests c (some d)) tg)) := by
  obtain ⟨hfirst, -, hserve⟩ := c.mem_units_serves (h.units ▸ hx)
  refine Machine.mem_goneOn.mpr ⟨⟨_, List.mem_map_of_mem hx, ?_⟩, x.1, hfirst, unitServes_iff.mpr (by split <;> rfl)⟩
  have hkeep : (unitDests c (some d) x).filter (fun e => (c.exec m.g).contains e.1) = unitDests c (some d) x :=
    List.filter_eq_self.mpr fun e he => List.contains_iff_mem.mpr (hserve _ (destsOf_fst he)).1
  unfold globalAcc
  rw [hkeep]

/-- A load whose engine takes it at once is under way. -/
theorem loadUnderWay_memRun {m : MemSpec} {s : State} {c : Iss} {d : Opnd} {words n : Nat} {ext : Extend} {tg : Nat → Target} (hf : FabricClear s [])
    (hd : words = 1 ∨ noLatch d = true) (hwords : ∀ bs, bs.length = n → (loadWords ext bs).length = words) {vas : List Nat} {stored : Nat → List Byte}
    (hr : s.Reached (goneOn c m ((m.units s c).map (globalAcc n stored (unitDests c (some (d, words))) tg)))) (hq : m.AtOnce s c) :
    LoadUnderWay m s ((s.memRun c m vas (.load ext) none none ((m.units s c).map (globalAcc n stored (unitDests c (some (d, words))) tg))).finish c [])
      c d words n ext tg := by
  obtain ⟨hclear, hpresent⟩ := State.accounted_clear c m vas hf
  obtain ⟨l, hl, hcid, hslot, hwho, hw⟩ := State.exists_load_of_runLoad
    (m := memCmdOf s c m (.load ext) none none ((m.units s c).map (globalAcc n stored (unitDests c (some (d, words))) tg))) hclear
    (fun b hb hfb => (hpresent _).trans (hr b hb hfb)) rfl rfl
  refine ⟨l, ?_, hcid, hslot, hwho, fun x hx hsp th hth ls j loc w hres hj hword => ?_⟩
  · rw [show ((_ : State).core c.core).loadsPending = _ from (congrArg Core.loadsPending (State.quiet_finish _ c []).engines :), hq.memRun]
    exact hl
  · refine hw _ (hq.mem_goneOn hx) hsp _ ?_
    simp only [globalAcc, (s.unread_accounted c m vas).loadBytes hsp]
    exact mem_fillDests_destsOf hd hth hres hj (hwords _ (State.length_loadBytes ..)) hword

/-! ### The instructions -/

theorem commandIssues_load {i : Instr} {s : State} {c : Iss} {d a : Opnd} {off : Int} {words n : Nat} {g u : Bool} {ext : Extend} {acq : Option Scope} {tg : Nat → Target}
    {post : State → Prop} (hc : s.iss = some c) (hi : exec i s = globalLoad s a d off n words ext acq g u) (hm : (loadSpec d a words g u).Clear s c)
    (hg : GlobalClear (loadSpec d a words g u) s c a off n .load tg)
    (hpost : ∀ stored, post ((s.memRun c (loadSpec d a words g u) (((loadSpec d a words g u).units s c).map (fun x => c.globalVa u x.1 a off)) (.load ext) acq none
      (((loadSpec d a words g u).units s c).map (globalAcc n stored (unitDests c (some (d, words))) tg))).finish c [])) :
    CommandIssues Footprint.command i s c (some .loads) (fun _ t => SameMemory s t ∧ post t) := by
  obtain ⟨stored, hrun⟩ := globalAccess_clear (kind := .load ext) (acq := acq) (rel := none) hc hm hg (some (d, words)) none
  exact commandIssues_memRun (post := fun _ t => post t) hc hg.2.2.forget (hg.reached _ _) (hi.trans hrun) (fun hr => Sends.giveLoad _ _ _ rfl hr)
    (fun _ => hpost stored)

theorem loadWords_length_none {words : Nat} {bs : List Byte} (h : bs.length = 4 * words) : (loadWords .none bs).length = words := by
  unfold loadWords
  rw [length_natWords, h, Nat.mul_div_cancel_left _ (by decide)]

theorem mWidth_bytes (k : MWidth) : k.bytes = 4 * k.words := by cases k <;> rfl

/-- A load into a latch entry is of one word (R237). -/
theorem noLatch_of_dataOk {k : MWidth} {o : Opnd} (h : dataOk k o = true) : noLatch o = true := by
  cases o with
  | latch n => cases k <;> cases h
  | _ => rfl

/-- Settles O17: the engine takes or queues the load, and one that it takes at once has read its bytes of HBM and plot memory, which the accesses of the
same command that travel leave as they are. -/
theorem globalLoads : Obligations.GlobalLoads := by
  unfold Obligations.GlobalLoads
  intro s c hc
  refine ⟨fun k f tg hwf hm hg => ?_, fun k f tg hm hg => ?_, fun k sc f tg hm hg => ?_⟩
  · have hd : noLatch f.d = true := noLatch_of_dataOk (Bool.and_eq_true_iff.mp hwf).1
    exact commandIssues_load hc rfl hm hg fun stored hq => loadUnderWay_memRun hg.2.2.forget (.inr hd)
      (fun bs hb => loadWords_length_none (hb.trans (mWidth_bytes k))) (hg.reached _ _) hq
  · have hone : ∀ bs : List Byte, (loadWords k.extend bs).length = 1 := fun bs => by cases k <;> rfl
    exact commandIssues_load hc rfl hm hg fun stored hq => loadUnderWay_memRun hg.2.2.forget (.inl rfl) (fun bs _ => hone bs) (hg.reached _ _) hq
  · obtain ⟨t, c', ht, hc', ⟨hmem, -⟩, hrest⟩ := commandIssues_load (post := fun _ => True) hc (i := .lda k sc f) rfl hm hg (fun _ => trivial)
    exact ⟨t, c', ht, hc', hmem, hrest⟩

end Sys2Proof.Machine

/-! SUPPORT. An instruction that waits: its split parks (R162), and a record on a window page is asked of its device (R249, R301). -/

namespace Sys2Proof.Machine

/-! ### Parking -/

theorem State.quiet_park (s : State) (c : Iss) (w : Wait) : Quiet s (s.park c w) c.core c.slot := by
  unfold State.park
  dsimp only
  split
  · exact (s.quiet_charge c []).trans (State.quiet_modSplit _ _ _)
  · exact (s.quiet_charge c []).trans (State.quiet_modHelper _ _ _ _ _)

/-- What parking makes of the issuing warp: its entry waits as `w` says, and beside it only accounts have changed. -/
theorem State.seat_park (s : State) {c : Iss} {e : Nat} (he : c.who = .split e) (w : Wait) : ∃ fw fh, Seat s (s.park c w) c fw fh ∧
    (∀ v, Warp.Charged c v (fw v)) ∧ ∀ v sp, mget? (fw v).splits e = some sp → sp.status = .parked w := by
  obtain ⟨fw, fh, hs, hw, -⟩ := s.seat_charge c []
  unfold State.park
  rw [he]
  refine ⟨_, _, hs.trans (State.seat_modSplit _ he _), fun v => (hw v).trans (Warp.charged_modEntry he _ _), fun v sp hsp => ?_⟩
  rw [Function.comp_apply, Warp.splits_modEntry, if_pos rfl] at hsp
  obtain ⟨sp0, -, rfl⟩ := Option.map_eq_some_iff.mp hsp
  rfl

/-- An instruction that parks its split waits, where around that only its engines have worked. -/
theorem waits_of_park {i : Instr} {s s1 s2 : State} {c : Iss} {w : Wait} {post : State → Prop} (hc : s.iss = some c) (hh : c.hel = none)
    (k1 : Still s s1) (k2 : Still (s1.park c w) s2) (hi : exec i s = .next s2) (hpost : post s2) :
    Waits i s c (fun c' t => ParkedAs w c' ∧ post t) := by
  have hseat := State.seated_of_iss hc
  obtain ⟨e, sp, hwho, -, hent⟩ := hseat.split_of_no_helper hh
  obtain ⟨fw, fh, hs, hcharged, hparked⟩ := s1.seat_park hwho w
  have hq := s1.quiet_park c w
  have hall : Seat s s2 c fw fh := ((k1.seat c).trans hs).then_same (k2.seat c)
  have hcalm := ((Calm.of_still k1 c.core c.slot).trans (.of_quiet hq)).trans (.of_still k2 _ _)
  obtain ⟨c', hc', hb⟩ := hseat.after hall (hcharged c.w).entry
  have hrest := (hcharged c.w).rest
  have hw := hb.w
  obtain ⟨sp', hsp'⟩ : ∃ sp', mget? (fw c.w).splits e = some sp' := Option.isSome_iff_exists.mp (by rw [(hcharged c.w).entry, hent]; rfl)
  refine ⟨s2, c', hi, hc', hcalm.memory, hw ▸ (congrArg Warp.strands hrest :), ?_, ⟨sp', (hb.split e hwho).trans hsp', hparked _ _ hsp'⟩, hpost⟩
  rw [hw]
  exact ⟨(congrArg Warp.regs hrest :), (congrArg Warp.preds hrest :), (congrArg Warp.fpst hrest :), (congrArg Warp.latches hrest :), (congrArg Warp.ixs hrest :)⟩

theorem ParkedAs.resumed {n : Nat} {c : Iss} (h : ParkedAs (.instr n) c) : c.resumed = some n := by
  obtain ⟨sp, hsp, hst⟩ := h
  simp [Iss.resumed, hsp, hst]

/-! ### A record on a window page -/

/-- The read of a record that its device is asked for. -/
def recordOp (s : State) (c : Iss) (t : Target) (size : Nat) (after : List Nat) : FabOp :=
  { cid := s.nextId, core := c.core, slot := c.slot, who := c.who, wg := c.w.wg, index := c.w.index, t := c.tids.headD 0, qnum := (s.rootTag c.w).1,
    tagw := (s.rootTag c.w).2, ctx := c.w.ctx, part := s.ctxPart c.w.ctx, dev := fabricDev t.pa, kind := .rd, arg := fabricArg t.pa, n := size, data := [],
    dests := [], ext := .none, co := false, seq := none, since := s.elapsed, guardPend := [], acquire := none, into := .record, after := after }

/-- Own entries of the record's lines leave first (R121). -/
def State.recordPublished (s : State) (c : Iss) (t : Target) (size : Nat) : State × List Nat :=
  (s.takeId.park c (.recRead s.nextId none)).publishAccs c.core true false [{ t := 0, space := .fabric, addr := t.pa, n := size, data := [], dests := [], aux := t.key }]

theorem State.askRecord_eq (s : State) (c : Iss) (t : Target) (size : Nat) :
    s.askRecord c t size = ({ (s.recordPublished c t size).1 with
      fabOps := (s.recordPublished c t size).1.fabOps ++ [recordOp s c t size (s.recordPublished c t size).2] } : State).sendFab := rfl

/-- A record whose bytes are still to come: its read is under way, and the split waits for it. -/
def RecordAsked (n : Nat) (far : Target) (size : Nat) (t : State) : Prop :=
  ∃ o ∈ t.fabOps, o.cid = n ∧ o.into = .record ∧ o.kind = .rd ∧ o.n = size ∧ o.dev = fabricDev far.pa ∧ o.arg = fabricArg far.pa

theorem State.recordFar_space {s : State} {c : Iss} {va size : Nat} {far : Target} (h : s.recordFar c va size = some far) : far.space = .fabric := by
  unfold State.recordFar at h
  split at h
  · cases h
  · split at h
    · cases h
    · obtain ⟨t, ht, rfl⟩ := Option.map_eq_some_iff.mp h
      exact eq_of_beq (Option.filter_eq_some_iff.mp ht).2

theorem waits_askRecord {i : Instr} {s : State} {c : Iss} {va size : Nat} {far : Target} (hc : s.iss = some c) (hh : c.hel = none)
    (hfar : s.recordFar c va size = some far) (hf : FabricClear s [far]) (hi : exec i s = .next (s.askRecord c far size)) :
    Waits i s c (fun c' t => ParkedAs (.recRead s.nextId none) c' ∧ RecordAsked s.nextId far size t) := by
  have hp : s.devPresent (fabricDev far.pa) = true := hf.1 far List.mem_cons_self (State.recordFar_space hfar)
  have hid := Sends.takeId s
  obtain ⟨kid, fid⟩ := hid hf.forget
  have hpark := s.takeId.quiet_park c (.recRead s.nextId none)
  have hpub : Sends (s.takeId.park c (.recRead s.nextId none)) (s.recordPublished c far size).1 := .publishAccs _ _ _ _ _
  obtain ⟨kpub, fpub⟩ := hpub (.of_quiet hpark fid)
  have hadd : Sends (s.recordPublished c far size).1 { (s.recordPublished c far size).1 with
      fabOps := (s.recordPublished c far size).1.fabOps ++ [recordOp s c far size (s.recordPublished c far size).2] } := .addOps _ fun f hm => by
    rw [List.mem_singleton.mp hm]
    exact (((kpub.devPresent _).trans (hpark.devPresent _)).trans (kid.devPresent _)).trans hp
  obtain ⟨kadd, fadd⟩ := hadd fpub
  obtain ⟨ksend, -⟩ := Sends.sendFab _ fadd
  obtain ⟨q, hq⟩ := ksend.ops (recordOp s c far size (s.recordPublished c far size).2) (List.mem_append_right _ List.mem_cons_self)
  rw [State.askRecord_eq] at hi
  exact waits_of_park hc hh kid ((kpub.trans kadd).trans ksend) hi ⟨_, hq, rfl, rfl, rfl, rfl, rfl, rfl⟩

end Sys2Proof.Machine

/-! SUPPORT. Commands that join the copy queue (R300 to R314): the frame of their issue. -/

namespace Sys2Proof.Machine

/-- As `commandIssues_of_commands`, where nothing is sent, whatever waits to be sent. -/
theorem commandIssues_still {i : Instr} {s s1 s2 s3 : State} {c : Iss} {ps : List Nat} {cl : Option CounterCls} {post : State → Prop}
    {fw : Warp → Warp} {fh : Helper → Helper} (hc : s.iss = some c) (h1 : Still s s1) (h2 : Commands s1 s2 c fw fh (raised cl)) (h3 : Still s2 s3)
    (hi : exec i s = .next (s3.finish c ps)) (hpost : post (s3.finish c ps)) : CommandIssues Footprint.command i s c cl (fun _ t => SameMemory s t ∧ post t) := by
  have hcalm := ((Calm.of_still h1 c.core c.slot).trans (.of_quiet h2.quiet)).trans (.of_still h3 _ _)
  refine commandIssues_finish (fw := fw) (fh := fh) hc hi hcalm (((h1.seat c).trans h2.seat).then_same (h3.seat c)) (h2.warp _) (fun h _ => h2.helper h)
    (fun k => ?_) fun _ => ⟨hcalm.memory.trans (s3.quiet_finish c ps).sameMemory, hpost⟩
  exact h2.counts c.w c.hel k (State.seated_of_iss hc).hel_iff

/-! ### Steps that send nothing -/

theorem Still.of_device {s t : State} (hc : t.cores = s.cores) (hs : s.SameStores t) (hx : t.ctxs = s.ctxs) (hd : t.fab.domain = s.fab.domain)
    (hf : t.fabOps = s.fabOps) : Still s t := by
  have hcore : ∀ core, t.core core = s.core core := fun core => by simp only [State.core, hc]
  exact ⟨hs, fun core => by rw [hcore]; exact ⟨rfl, rfl, rfl, rfl⟩, hx, hd, fun f h => ⟨f.seq, by rw [hf]; exact h⟩⟩

theorem Still.modCore (s : State) (core : Nat) {f : Core → Core} (hk : ∀ k, Core.Kept k (f k)) : Still s (s.modCore core f) := .setCore s core (hk _)

theorem Still.fillTlbs (s : State) (c : Iss) (vas : List Nat) : Still s (s.fillTlbs c vas) := by
  unfold State.fillTlbs
  induction vas generalizing s with
  | nil => exact .refl s
  | cons va r ih =>
    refine Still.trans ?_ (ih _)
    show Still s (s.tlbFill c.core c.w.ctx va)
    unfold State.tlbFill
    split
    · exact .refl s
    · split
      · exact .refl s
      · split
        · exact .refl s
        · split
          · exact .refl s
          · exact .modCore s _ fun _ => ⟨rfl, rfl, rfl, rfl⟩

theorem Still.writeBack (s : State) (core wg : Nat) (l : L1Line) : Still s (s.writeBack core wg l) := by
  unfold State.writeBack
  split
  · exact .refl s
  · extract_lets e t
    exact (Still.modCore s core (f := fun k => { k with drains := k.drains ++ [e] }) (fun _ => ⟨rfl, rfl, rfl, rfl⟩)).trans
      (.of_device (s := t) rfl ⟨rfl, rfl, rfl, rfl, rfl⟩ rfl rfl rfl)

theorem Still.l1Put (s : State) (core : Nat) (l : L1Line) : Still s (s.l1Put core l) := by
  obtain ⟨hk, -⟩ := (s.core core).l1Insert_kept l
  have h : Still s (s.setCore core ((s.core core).l1Insert l).1) := .setCore s core hk
  unfold State.l1Put
  split
  next k v e =>
    rw [e] at h
    exact h.trans (.writeBack _ _ _ _)
  next k e =>
    rw [e] at h
    exact h

theorem Still.l1Load (s : State) (core key pa : Nat) : Still s (s.l1Load core key pa) := by
  unfold State.l1Load
  dsimp only
  split <;> exact Still.l1Put s _ _

theorem Still.countAt (s : State) (core : Nat) (k : Counter) (n : Nat) : Still s (s.countAt core k n) := by
  unfold State.countAt
  split
  · exact .of_device rfl ⟨rfl, rfl, rfl, rfl, rfl⟩ rfl rfl rfl
  · exact .refl s

theorem Still.meterHost (s : State) (part : Option Nat) (sp : Space) (i o : Nat) : Still s (s.meterHost part sp i o) := by
  unfold State.meterHost
  split
  · split
    · exact .of_device rfl ⟨rfl, rfl, rfl, rfl, rfl⟩ rfl rfl rfl
    · exact .refl s
  · exact .refl s

theorem Still.takeId (s : State) : Still s s.takeId := .of_device rfl ⟨rfl, rfl, rfl, rfl, rfl⟩ rfl rfl rfl

/-! ### Accounts of a copy -/

theorem State.cores_setBarrier (s : State) (wg k : Nat) (b : Barrier) : (s.setBarrier wg k b).cores = s.cores := by
  unfold State.setBarrier State.modWg
  split <;> rfl

theorem Still.setBarrier (s : State) (wg k : Nat) (b : Barrier) : Still s (s.setBarrier wg k b) := by
  unfold State.setBarrier State.modWg
  split
  · exact .of_device rfl ⟨rfl, rfl, rfl, rfl, rfl⟩ rfl rfl rfl
  · exact .refl s

theorem State.cores_countTransfer (s : State) (wg k who : Nat) : (s.countTransfer wg k who).1.cores = s.cores := by
  unfold State.countTransfer
  dsimp only
  split <;> exact s.cores_setBarrier ..

theorem Still.countTransfer (s : State) (wg k who : Nat) : Still s (s.countTransfer wg k who).1 := by
  unfold State.countTransfer
  dsimp only
  split <;> exact Still.setBarrier s wg k _

/-- The issue of a copy counts it in its class and in the open batch (R31, R32). -/
theorem Commands.opIssue (s : State) (c : Iss) :
    ∃ fw fh, Commands s (s.opIssue c.core c.slot .copies) c fw fh (raised (some .copies)) := by
  have hd : ∀ k, onlyCounter .copies 1 k = raised (some .copies) k := fun k => by simp [raised, onlyCounter]
  refine ⟨_, _, Commands.modWarp s c (fun _ => rfl) fun w h k _ => ?_⟩
  rw [← hd]
  cases h with
  | none =>
    rw [Iss.counterOf_with_none, Iss.counterOf_with_none]
    exact w.counterOf_raise .copies k 1
  | some x => exact c.counterOf_with_some w _ x (by decide) (by decide) 1 rfl k

/-- What a copy command makes of its issuer: its guard slots and its counts. -/
theorem Commands.copyAccount (s : State) (c : Iss) (ps : List Nat) :
    ∃ fw fh, Commands s ((s.takeSlots c ps).opIssue c.core c.slot .copies) c fw fh (raised (some .copies)) := by
  obtain ⟨fw, fh, h⟩ := Commands.takeSlots s c ps
  obtain ⟨gw, gh, k⟩ := Commands.opIssue (s.takeSlots c ps) c
  have hd : raised (some .copies) = fun x => 0 + raised (some .copies) x := by
    funext x
    simp
  rw [hd]
  exact ⟨_, _, h.trans k⟩

theorem Quiet.copyQ {s t : State} {core slot : Nat} (h : Quiet s t core slot) : (t.core core).copyQ = (s.core core).copyQ :=
  (congrArg Core.copyQ h.engines :)

/-! ### The read of a record near by -/

theorem State.copyQ_writeBack (s : State) (core d wg : Nat) (l : L1Line) : ((s.writeBack d wg l).core core).copyQ = (s.core core).copyQ := by
  unfold State.writeBack
  split
  · rfl
  · extract_lets e t
    show ((s.modCore d (fun k => { k with drains := k.drains ++ [e] })).core core).copyQ = _
    by_cases h : d = core
    · subst h
      rw [State.core_modCore_same]
    · rw [State.core_modCore_other _ _ h]

theorem Core.copyQ_l1Insert (k : Core) (l : L1Line) : (k.l1Insert l).1.copyQ = k.copyQ := by
  unfold Core.l1Insert
  dsimp only
  split
  · rfl
  · split <;> rfl

theorem State.copyQ_l1Put (s : State) (core d : Nat) (l : L1Line) : ((s.l1Put d l).core core).copyQ = (s.core core).copyQ := by
  have h : ∀ k, k = ((s.core d).l1Insert l).1 → ((s.setCore d k).core core).copyQ = (s.core core).copyQ := by
    rintro k rfl
    by_cases h : d = core
    · subst h
      rw [State.core_setCore_same, Core.copyQ_l1Insert]
    · rw [State.core_setCore_other _ _ h]
  unfold State.l1Put
  split
  next k v e => rw [State.copyQ_writeBack, h k (by rw [e])]
  next k e => exact h k (by rw [e])

theorem State.copyQ_l1Load (s : State) (core d key pa : Nat) : ((s.l1Load d key pa).core core).copyQ = (s.core core).copyQ := by
  unfold State.l1Load
  dsimp only
  split <;> exact s.copyQ_l1Put ..

theorem State.cores_countAt (s : State) (core : Nat) (k : Counter) (n : Nat) : (s.countAt core k n).cores = s.cores := by
  unfold State.countAt
  split <;> rfl

theorem State.cores_meterHost (s : State) (part : Option Nat) (sp : Space) (i o : Nat) : (s.meterHost part sp i o).cores = s.cores := by
  unfold State.meterHost
  split
  · split <;> rfl
  · rfl

theorem copyQ_of_cores {s t : State} (h : t.cores = s.cores) (core : Nat) : (t.core core).copyQ = (s.core core).copyQ := by
  simp only [State.core, h]

/-- A step that sends nothing, after which the copy queue of a core stands as before. -/
def StillBeside (core : Nat) (s t : State) : Prop := Still s t ∧ (t.core core).copyQ = (s.core core).copyQ

theorem StillBeside.refl (core : Nat) (s : State) : StillBeside core s s := ⟨.refl s, rfl⟩

theorem StillBeside.trans {core : Nat} {s t u : State} (h : StillBeside core s t) (k : StillBeside core t u) : StillBeside core s u :=
  ⟨h.1.trans k.1, k.2.trans h.2⟩

theorem StillBeside.takeId (core : Nat) (s : State) : StillBeside core s s.takeId := ⟨.takeId s, rfl⟩

theorem StillBeside.countTransfer (core : Nat) (s : State) (wg k who : Nat) : StillBeside core s (s.countTransfer wg k who).1 :=
  ⟨.countTransfer s wg k who, copyQ_of_cores (State.cores_countTransfer ..) core⟩

theorem StillBeside.fillTlbs (s : State) (core : Nat) (c : Iss) (vas : List Nat) : StillBeside core s (s.fillTlbs c vas) :=
  ⟨.fillTlbs s c vas, s.core_fillTlbs (obs := Core.copyQ) (fun _ _ => rfl) core c vas⟩

theorem StillBeside.loadWide (s : State) (core : Nat) (c : Iss) (t : Target) (n : Nat) : StillBeside core s (s.loadWide c t n).1 := by
  unfold State.loadWide
  dsimp only
  split
  · exact ⟨.l1Load _ _ _ _, s.copyQ_l1Load ..⟩
  · have hfresh : Still s { s with fresh := s.fresh + n } := .of_device rfl ⟨rfl, rfl, rfl, rfl, rfl⟩ rfl rfl rfl
    refine ⟨(hfresh.trans (.countAt _ _ _ _)).trans (Still.meterHost _ _ _ _ _), ?_⟩
    exact copyQ_of_cores ((State.cores_meterHost ..).trans (State.cores_countAt ..)) core
  · exact .refl core s

theorem StillBeside.readRecord (s : State) (core : Nat) (c : Iss) (va size : Nat) : StillBeside core s (s.readRecord c va size).1 := by
  unfold State.readRecord
  split
  · exact .refl core s
  · split
    · exact .refl core s
    · split
      · exact .refl core s
      · dsimp only
        split
        · exact .fillTlbs s core c _
        · split
          · exact .refl core s
          · exact (StillBeside.fillTlbs s core c _).trans (.loadWide _ core c _ _)

end Sys2Proof.Machine

/-! SUPPORT. CPB, CPBM and CPBP: the record asked for, or read, and the command queued (R300 to R314). -/

namespace Sys2Proof.Machine

/-- What a copy command does once its operands stand. -/
def copyRun (f : CopyForm) (verdict : State → Iss → Layout → List Int → Nat → Except CopyFail CopyWork) (s : State) (c : Iss) (t : Nat) : State :=
  match s.recordFar c (c.read t f.a 2) 64 with
  | some far => s.askRecord c far 64
  | none =>
    match (s.readRecord c (c.read t f.a 2) 64).2.bind (fun bs => verdict (s.readRecord c (c.read t f.a 2) 64).1 c (Layout.of (leNat bs)) (coordsOf (c.read t f.b 4))
        (c.read t f.x 1)) with
    | .ok w => ((s.readRecord c (c.read t f.a 2) 64).1.issueCopy c t f.g (twBar (c.read t f.x 1)) w).finish c []
    | .error (e, a, pages) =>
      if pages.isEmpty then (s.readRecord c (c.read t f.a 2) 64).1.takeTrap c e a
      else (s.readRecord c (c.read t f.a 2) 64).1.settle c
        { go := [], performs := false, parked := 2 ^ (t / 4), replay := 2 ^ t, pages := pages, trap := none } id

theorem copyCmd_eq {f : CopyForm} {cast : Bool} {verdict : State → Iss → Layout → List Int → Nat → Except CopyFail CopyWork} {s : State} {c : Iss} {th : Nat}
    (hc : s.iss = some c) (hq : QueueClear s c th [(f.a, 2), (f.b, 4), (f.x, 1)] f.g) (hroom : ((s.core c.core).copyQ.filter (fun q => !q.ga)).length < Config.queueDepth)
    (hcopies : c.w.copies < 31) (hwait : s.loadsWait c (s.recordAccs c (c.read th f.a 2) 64 ++ if cast then s.listAccs c (c.read th f.x 1) else []) = false) :
    copyCmd f cast verdict s = .next (copyRun f verdict s c th) := by
  obtain ⟨hh, hth, hops, hpend, hbad, hslots⟩ := hq
  obtain ⟨r, hr⟩ : ∃ r, c.tids = th :: r := by
    cases ht : c.tids with
    | nil => rw [ht] at hth; cases hth
    | cons a r => rw [ht] at hth; cases hth; exact ⟨r, rfl⟩
  have hroom' : decide (Config.queueDepth ≤ ((s.core c.core).copyQ.filter (fun q => !q.ga)).length) = false := by simpa using hroom
  have hcopies' : decide (CounterCls.copies.max ≤ c.w.copies) = false := decide_eq_false (Nat.not_le.mpr hcopies)
  unfold copyCmd
  rw [withIss_eq _ hc]
  refine congrArg Host.Outcome.next ?_
  simp only [hr, hh, Option.isSome_none, hops, hpend, hbad, hroom', hcopies', hslots, hwait, Bool.or_self, if_false, Bool.false_eq_true]
  rfl

/-- The transfer counted into its barrier, where it names one (R317). -/
def State.counted (s : State) (c : Iss) (t : Nat) (bar : Option Nat) : State × Option (Nat × Nat) := match bar with
  | some k => ((s.countTransfer c.w.wg k (c.barWho t)).1, some (k, (s.countTransfer c.w.wg k (c.barWho t)).2))
  | none => (s, none)

theorem StillBeside.counted (s : State) (core : Nat) (c : Iss) (t : Nat) (bar : Option Nat) : StillBeside core s (s.counted c t bar).1 := by
  cases bar with
  | none => exact .refl core s
  | some k => exact .countTransfer core s _ _ _

/-- A command joins the copy queue of its core. -/
theorem State.issueCopy_queued (s : State) (c : Iss) (t : Nat) (g : Bool) (bar : Option Nat) (work : CopyWork) :
    ∃ s1 s2 fw fh, StillBeside c.core s s1 ∧ Commands s1 s2 c fw fh (raised (some .copies)) ∧ Still s2 (s.issueCopy c t g bar work) ∧
      ∃ q, ((s.issueCopy c t g bar work).core c.core).copyQ = (s2.core c.core).copyQ ++ [q] ∧ q.work = work ∧ q.tid = t ∧ q.slot = c.slot ∧ q.ga = false := by
  let s1 := (s.counted c t bar).1.takeId
  let ps := if g then s.pendingGuards c [t] else []
  obtain ⟨fw, fh, hcmd⟩ := Commands.copyAccount s1 c ps
  have heq : ∃ q : CopyCmd, s.issueCopy c t g bar work = (((s1.takeSlots c ps).opIssue c.core c.slot .copies).countAt c.core .cpxfer 1).modCore c.core
      (fun k => { k with copyQ := k.copyQ ++ [q] }) ∧ q.work = work ∧ q.tid = t ∧ q.slot = c.slot ∧ q.ga = false := by
    cases bar with
    | none => exact ⟨_, rfl, rfl, rfl, rfl, rfl⟩
    | some k => exact ⟨_, rfl, rfl, rfl, rfl, rfl⟩
  obtain ⟨q, heq, hq⟩ := heq
  refine ⟨s1, _, fw, fh, (StillBeside.counted s c.core c t bar).trans (.takeId _ _), hcmd, ?_, q, ?_, hq⟩
  · rw [heq]
    exact (Still.countAt _ _ _ _).trans (.modCore _ _ fun _ => ⟨rfl, rfl, rfl, rfl⟩)
  · rw [heq, State.core_modCore_same, copyQ_of_cores (State.cores_countAt ..)]

theorem copyIssues {i : Instr} {s : State} {c : Iss} {f : CopyForm} {cast : Bool} {verdict : State → Iss → Layout → List Int → Nat → Except CopyFail CopyWork}
    (hc : s.iss = some c) (hi : exec i s = copyCmd f cast verdict s) : CopyIssues i s c f cast (fun s r cs tw => verdict s c r cs tw) := by
  intro th s' bs w hq hroom hcopies hwait
  have hrun := hi.trans (copyCmd_eq hc hq hroom hcopies hwait)
  refine ⟨fun far hfar hf => ?_, fun hfar hread hw => ?_⟩
  · have ht : copyRun f verdict s c th = s.askRecord c far 64 := by
      unfold copyRun
      rw [hfar]
    exact waits_askRecord hc hq.1 hfar hf (hrun.trans (congrArg _ ht))
  · have hw' : verdict s' c (Layout.of (leNat bs)) (coordsOf (c.read th f.b 4)) (c.read th f.x 1) = .ok w := hw
    have ht : copyRun f verdict s c th = (s'.issueCopy c th f.g (twBar (c.read th f.x 1)) w).finish c [] := by
      unfold copyRun
      simp only [hfar, hread, Except.bind, hw']
    have hrec := StillBeside.readRecord s c.core c (c.read th f.a 2) 64
    rw [hread] at hrec
    obtain ⟨s1, s2, fw, fh, h1, h2, h3, q, hcq, hqw⟩ := s'.issueCopy_queued c th f.g (twBar (c.read th f.x 1)) w
    refine commandIssues_still hc (hrec.trans h1).1 h2 h3 (hrun.trans (congrArg _ ht)) ⟨q, ?_, hqw⟩
    rw [(State.quiet_finish _ c []).copyQ, hcq, h2.quiet.copyQ, h1.2, hrec.2]

end Sys2Proof.Machine

/-! PROOF. The copy commands and CPA16 issue (R260, R300 to R317). -/

namespace Sys2Proof.Machine

/-! ### The barrier of a transfer -/

theorem State.barrier_setBarrier_of_mem {s : State} {wg k : Nat} {g : Workgroup} (h : mget? s.wgs wg = some g) (b : Barrier) : (s.setBarrier wg k b).barrier wg k = b := by
  simp [State.setBarrier, State.modWg, State.barrier, h]

/-- A transfer counted into a barrier leaves its generation and its arrivals. -/
theorem State.barrier_countTransfer (s : State) (wg k who : Nat) :
    ((s.countTransfer wg k who).1.barrier wg k).gen = (s.barrier wg k).gen ∧ ((s.countTransfer wg k who).1.barrier wg k).cur = (s.barrier wg k).cur := by
  have hset : ∀ b : Barrier, b.gen = (s.barrier wg k).gen → b.cur = (s.barrier wg k).cur →
      ((s.setBarrier wg k b).barrier wg k).gen = (s.barrier wg k).gen ∧ ((s.setBarrier wg k b).barrier wg k).cur = (s.barrier wg k).cur := fun b h1 h2 => by
    cases hg : mget? s.wgs wg with
    | some g => rw [State.barrier_setBarrier_of_mem hg]; exact ⟨h1, h2⟩
    | none =>
      have hs : s.setBarrier wg k b = s := by simp [State.setBarrier, State.modWg, hg]
      rw [hs]
      exact ⟨rfl, rfl⟩
  unfold State.countTransfer
  dsimp only
  split
  · exact hset _ rfl rfl
  · exact hset _ rfl rfl

/-- The generation that counts a transfer of a thread (R317). -/
def Barrier.genFor (b : Barrier) (who : Nat) : Nat := if hasBit b.cur who then (b.gen + 1) % 2 ^ 32 else b.gen

theorem State.countTransfer_gen (s : State) (wg k who : Nat) : (s.countTransfer wg k who).2 = (s.barrier wg k).genFor who := by
  unfold State.countTransfer Barrier.genFor
  dsimp only
  split <;> rfl

theorem Quiet.barrier {s t : State} {core slot : Nat} (h : Quiet s t core slot) (wg k : Nat) : t.barrier wg k = s.barrier wg k := by
  have hg := h.device.2.1 wg
  unfold State.barrier
  cases hs : mget? s.wgs wg with
  | none => rw [hs] at hg; rw [Option.map_eq_none_iff.mp hg]
  | some g =>
    rw [hs] at hg
    obtain ⟨g', ht, he⟩ := Option.map_eq_some_iff.mp hg
    rw [ht]
    exact congrArg (fun b => mgetD b k Barrier.clear) (congrArg Workgroup.barriers he :)

theorem State.wgs_fillTlbs (s : State) (c : Iss) (vas : List Nat) : (s.fillTlbs c vas).wgs = s.wgs := by
  unfold State.fillTlbs
  induction vas generalizing s with
  | nil => rfl
  | cons va r ih =>
    refine (ih _).trans ?_
    show (s.tlbFill c.core c.w.ctx va).wgs = s.wgs
    unfold State.tlbFill
    (repeat' split) <;> rfl

/-! ### The commands of a CPA16 -/

/-- Does the access of a unit go: does any of its threads execute (R237)? -/
def cpaGoes (c : Iss) (g u : Bool) (a : Access) : Bool := (c.exec g).any (fun t => if u then t / 4 == a.t / 4 else t == a.t)

def cpaMove (a : Access) : Move := { src := .mem a.space a.aux a.addr, dst := .scratch ((a.dests.map Prod.fst).headD 0), n := 16 }

/-- The command of the copier for some accesses of one generation. -/
def cpaCmd (s : State) (c : Iss) (g u : Bool) (as : List Access) (kg : Option (Nat × Nat)) : CopyCmd :=
  { id := s.nextId, ga := true, slot := c.slot, tid := (as.map (fun a => a.t)).headD 0, wg := c.w.wg, work := .box ((as.filter (cpaGoes c g u)).map cpaMove),
    tids := (as.filter (cpaGoes c g u)).map (fun a => a.t), allocGen := (match (s.core c.core).allocOf c.w.wg with
      | some a => a.gen
      | none => 0), bar := kg, batch := c.w.nextBatch, guardPend := [], guardVal := true, out := none, dropped := false }

/-- The thread of some accesses by which their generation is found. -/
def cpaWho (c : Iss) (as : List Access) : Nat := c.barWho ((as.map (fun a => a.t)).headD 0)

/-- The accesses of the two generations that a barrier counts. -/
def cpaParts (b : Barrier) (c : Iss) (accs : List Access) : List (List Access) :=
  [accs.filter (fun a => !hasBit b.cur (c.barWho a.t)), accs.filter (fun a => hasBit b.cur (c.barWho a.t))].filter (fun p => !p.isEmpty)

/-- One generation's command, counted. -/
def cpaStep (s0 : State) (c : Iss) (g u : Bool) (k : Nat) (acc : State × List CopyCmd) (as : List Access) : State × List CopyCmd :=
  ((acc.1.countTransfer c.w.wg k (cpaWho c as)).1, acc.2 ++ [cpaCmd s0 c g u as (some (k, (acc.1.countTransfer c.w.wg k (cpaWho c as)).2))])

/-- The commands of a CPA16, counted into their barrier. -/
def State.cpaCmds (s s0 : State) (c : Iss) (g u : Bool) (bar : Option Nat) (accs : List Access) : State × List CopyCmd := match bar with
  | none => (s, [cpaCmd s0 c g u accs none])
  | some k => if (cpaParts (s.barrier c.w.wg k) c accs).isEmpty then (s, [cpaCmd s0 c g u [] none])
    else (cpaParts (s.barrier c.w.wg k) c accs).foldl (cpaStep s0 c g u k) (s, [])

/-- The issuer's accounts of a CPA16. -/
def State.cpaAccounted (s : State) (c : Iss) (ps : List Nat) : State := (s.takeId.takeSlots c ps).opIssue c.core c.slot .copies

/-- What the memory engine is given: the commands for its copier. -/
def cpaMemCmd (s : State) (c : Iss) (ps : List Nat) (cmds : List CopyCmd) : MemCmd :=
  { cid := s.nextId, slot := c.slot, who := c.who, kind := .copier cmds, accs := [], acquire := none, release := none, guardPend := ps }

theorem State.issueCpa_eq (s : State) (c : Iss) (g u : Bool) (bar : Option Nat) (ps : List Nat) (accs : List Access) :
    s.issueCpa c g u bar ps accs = ((s.cpaAccounted c ps).cpaCmds s c g u bar accs).1.giveMem c.core
      (cpaMemCmd s c ps ((s.cpaAccounted c ps).cpaCmds s c g u bar accs).2) := by
  cases bar <;> rfl

theorem cpaStep_foldl (s0 : State) (c : Iss) (g u : Bool) (k : Nat) (parts : List (List Access)) (acc : State × List CopyCmd) :
    Still acc.1 (parts.foldl (cpaStep s0 c g u k) acc).1 ∧ (parts.foldl (cpaStep s0 c g u k) acc).1.cores = acc.1.cores ∧
    (∀ q ∈ acc.2, q ∈ (parts.foldl (cpaStep s0 c g u k) acc).2) ∧
    ∀ as ∈ parts, cpaCmd s0 c g u as (some (k, (acc.1.barrier c.w.wg k).genFor (cpaWho c as))) ∈ (parts.foldl (cpaStep s0 c g u k) acc).2 := by
  induction parts generalizing acc with
  | nil => exact ⟨.refl _, rfl, fun q h => h, fun as h => by cases h⟩
  | cons p r ih =>
    obtain ⟨hstill, hcores, hkeep, hall⟩ := ih (cpaStep s0 c g u k acc p)
    obtain ⟨hgen, hcur⟩ := acc.1.barrier_countTransfer c.w.wg k (cpaWho c p)
    have hfor : ∀ who, ((cpaStep s0 c g u k acc p).1.barrier c.w.wg k).genFor who = (acc.1.barrier c.w.wg k).genFor who := fun who => by
      unfold Barrier.genFor
      rw [show ((cpaStep s0 c g u k acc p).1.barrier c.w.wg k).gen = _ from hgen, show ((cpaStep s0 c g u k acc p).1.barrier c.w.wg k).cur = _ from hcur]
    refine ⟨(Still.countTransfer acc.1 c.w.wg k _).trans hstill, hcores.trans (State.cores_countTransfer ..), fun q hq => hkeep q (List.mem_append_left _ hq),
      fun as has => ?_⟩
    rcases List.mem_cons.mp has with rfl | has
    · refine hkeep _ (List.mem_append_right _ (List.mem_singleton.mpr ?_))
      rw [State.countTransfer_gen]
    · rw [← hfor]
      exact hall as has

/-- Of one generation's accesses any names it. -/
theorem genFor_cpaWho {b : Barrier} {c : Iss} {accs as : List Access} (has : as ∈ cpaParts b c accs) {a : Access} (ha : a ∈ as) :
    b.genFor (cpaWho c as) = b.genFor (c.barWho a.t) := by
  obtain ⟨v, hv⟩ : ∃ v, ∀ x ∈ as, hasBit b.cur (c.barWho x.t) = v := by
    rcases List.mem_cons.mp (List.mem_of_mem_filter has) with rfl | has
    · exact ⟨false, fun x hx => by simpa using (List.mem_filter.mp hx).2⟩
    · rw [List.mem_singleton.mp has]
      exact ⟨true, fun x hx => (List.mem_filter.mp hx).2⟩
  cases as with
  | nil => cases ha
  | cons x r =>
    unfold Barrier.genFor
    rw [hv a ha, show hasBit b.cur (cpaWho c (x :: r)) = v from hv x List.mem_cons_self]

theorem exists_cpaPart (b : Barrier) (c : Iss) {accs : List Access} {a : Access} (ha : a ∈ accs) : ∃ as ∈ cpaParts b c accs, a ∈ as := by
  have hne : ∀ as : List Access, a ∈ as → (!as.isEmpty) = true := fun as h => by
    cases as with
    | nil => cases h
    | cons x r => rfl
  by_cases h : hasBit b.cur (c.barWho a.t) = true
  · have hm : a ∈ accs.filter (fun a => hasBit b.cur (c.barWho a.t)) := List.mem_filter.mpr ⟨ha, h⟩
    exact ⟨_, List.mem_filter.mpr ⟨List.mem_cons_of_mem _ List.mem_cons_self, hne _ hm⟩, hm⟩
  · have hm : a ∈ accs.filter (fun a => !hasBit b.cur (c.barWho a.t)) := List.mem_filter.mpr ⟨ha, by simpa using h⟩
    exact ⟨_, List.mem_filter.mpr ⟨List.mem_cons_self, hne _ hm⟩, hm⟩

/-- Counting sends nothing and keeps the cores, and every access stands in a command of its generation. -/
theorem State.cpaCmds_spec (s s0 : State) (c : Iss) (g u : Bool) (bar : Option Nat) (accs : List Access) :
    Still s (s.cpaCmds s0 c g u bar accs).1 ∧ (s.cpaCmds s0 c g u bar accs).1.cores = s.cores ∧
    ∀ a ∈ accs, ∃ as, a ∈ as ∧ cpaCmd s0 c g u as (bar.map (fun k => (k, (s.barrier c.w.wg k).genFor (c.barWho a.t)))) ∈ (s.cpaCmds s0 c g u bar accs).2 := by
  cases bar with
  | none => exact ⟨.refl s, rfl, fun a ha => ⟨accs, ha, List.mem_singleton.mpr rfl⟩⟩
  | some k =>
    unfold State.cpaCmds
    dsimp only
    split
    next h =>
      refine ⟨.refl s, rfl, fun a ha => ?_⟩
      obtain ⟨as, has, -⟩ := exists_cpaPart (s.barrier c.w.wg k) c ha
      rw [List.isEmpty_iff.mp h] at has
      cases has
    next =>
      obtain ⟨hstill, hcores, -, hall⟩ := cpaStep_foldl s0 c g u k (cpaParts (s.barrier c.w.wg k) c accs) (s, [])
      refine ⟨hstill, hcores, fun a ha => ?_⟩
      obtain ⟨as, has, hm⟩ := exists_cpaPart (s.barrier c.w.wg k) c ha
      refine ⟨as, hm, ?_⟩
      have h := hall as has
      rw [genFor_cpaWho has hm] at h
      exact h

theorem Still.giveCopier (s : State) (core : Nat) (m : MemCmd) {qs : List CopyCmd} (hk : m.kind = .copier qs) : Still s (s.giveMem core m) := by
  unfold State.giveMem State.runMem
  rw [hk]
  split
  · exact .modCore s core fun _ => ⟨rfl, rfl, rfl, rfl⟩
  · exact .modCore s core fun _ => ⟨rfl, rfl, rfl, rfl⟩

/-! ### CPA16 -/

/-- The operands of CPA16. -/
def cpaSpec (x a : Opnd) (g u : Bool) : MemSpec := { inHelper := false, g := g, u := u, cls := some .copies, srcs := [(a, 2), (x, 1)], dst := none }

/-- The access of one unit, to the scratchpad byte that stands in its destinations. -/
def cpaAcc (s : State) (c : Iss) (x : Opnd) (u : Bool) (tg : Nat → Target) (y : Nat × List Nat) : Access :=
  { t := y.1, space := (tg y.1).space, addr := (tg y.1).pa, n := 16, data := [], dests := [((s.ownBytes c).1 + c.read (srcTid u y.1) x 1, .zero)], aux := (tg y.1).key }

theorem cpa16_clear {s : State} {c : Iss} {x a : Opnd} {g u : Bool} {bar : Option Nat} {tg : Nat → Target} (hc : s.iss = some c) (hm : (cpaSpec x a g u).Clear s c)
    (hu : CpaClear s c (cpaSpec x a g u) x a bar tg) : ∃ vas, cpa16 x a bar g u s =
      .next (((s.fillTlbs c vas).issueCpa c g u bar ((cpaSpec x a g u).slots s c) (((cpaSpec x a g u).units s c).map (cpaAcc s c x u tg))).finish c []) := by
  have key : ∀ check : Nat × List Nat → Except MemCause (List Access), (∀ y ∈ (cpaSpec x a g u).units s c, check y = .ok [cpaAcc s c x u tg y]) → ∀ vas,
      let v := decideVerdict (((cpaSpec x a g u).units s c).map (fun y => (y, check y)))
      (s.fillTlbs c vas).settle c v (fun t => t.issueCpa c g u bar ((cpaSpec x a g u).slots s c) v.go) =
        ((s.fillTlbs c vas).issueCpa c g u bar ((cpaSpec x a g u).slots s c) (((cpaSpec x a g u).units s c).map (cpaAcc s c x u tg))).finish c [] := fun check h vas => by
    have hpass := decideVerdict_passes h
    dsimp only
    rw [hpass.settle, hpass.go, ← List.map_eq_flatMap]
  unfold cpa16
  dsimp only
  rw [withIss_eq _ hc, show ({ inHelper := false, g := g, u := u, cls := some .copies, srcs := [(a, 2), (x, 1)], dst := none } : MemSpec) = cpaSpec x a g u from rfl,
    memPrologue_clear _ hm]
  refine ⟨_, congrArg Host.Outcome.next (key _ (fun y hy => ?_) _)⟩
  obtain ⟨hva, hd, hlt, hroom, hbar, ht⟩ := hu y hy
  have hbad : s.badBar c bar = false := by
    cases bar with
    | none => rfl
    | some k => simp [State.badBar, hbar k rfl]
  have hbits : bitsOf (c.read (srcTid u y.1) x 1) 17 15 = 0 := by
    unfold bitsOf
    rw [Nat.div_eq_of_lt (show c.read (srcTid u y.1) x 1 < 2 ^ 17 from hlt)]
    rfl
  have hroom' : ¬ (s.ownBytes c).2 < c.read (srcTid u y.1) x 1 + 16 := Nat.not_lt.mpr hroom
  have hva' : c.read (srcTid u y.1) a 2 % 16 = 0 := hva
  have hd' : c.read (srcTid u y.1) x 1 % 16 = 0 := hd
  have ht' : s.translate c.core c.w.ctx .load (c.read (srcTid u y.1) a 2) = .ok (tg y.1) := ht
  simp only [State.cpaCheck, hva', hd', hbits, hroom', hbad, State.xlate, ht', ne_eq, not_true_eq_false, or_self, if_false, Bool.false_eq_true]
  rfl

theorem commandIssues_cpa16 {i : Instr} {s : State} {c : Iss} {x a : Opnd} {g u : Bool} {bar : Option Nat} {tg : Nat → Target} (hc : s.iss = some c)
    (hi : exec i s = cpa16 x a bar g u s) (hm : (cpaSpec x a g u).Clear s c) (hu : CpaClear s c (cpaSpec x a g u) x a bar tg) :
    CommandIssues Footprint.command i s c (some .copies) (fun _ t => SameMemory s t ∧ CpaQueued s t c (cpaSpec x a g u) x bar tg) := by
  obtain ⟨vas, hrun⟩ := cpa16_clear hc hm hu
  generalize hps : (cpaSpec x a g u).slots s c = ps at hrun
  generalize haccs : ((cpaSpec x a g u).units s c).map (cpaAcc s c x u tg) = accs at hrun
  rw [State.issueCpa_eq] at hrun
  obtain ⟨fw, fh, hcmd⟩ := Commands.copyAccount (s.fillTlbs c vas).takeId c ps
  have hquiet : Quiet (s.fillTlbs c vas).takeId ((s.fillTlbs c vas).cpaAccounted c ps) c.core c.slot := hcmd.quiet
  obtain ⟨hstill, hcores, hall⟩ := ((s.fillTlbs c vas).cpaAccounted c ps).cpaCmds_spec (s.fillTlbs c vas) c g u bar accs
  generalize hr : ((s.fillTlbs c vas).cpaAccounted c ps).cpaCmds (s.fillTlbs c vas) c g u bar accs = r at hrun hstill hcores hall
  refine commandIssues_still (post := fun t => CpaQueued s t c (cpaSpec x a g u) x bar tg) hc ((Still.fillTlbs s c vas).trans (.takeId _)) hcmd
    (hstill.trans (.giveCopier _ _ _ rfl)) (hi.trans hrun) fun honce y hy => ?_
  have hmemQ : (r.1.core c.core).memQ = [] := by
    rw [show (r.1.core c.core) = _ from congrArg (fun m => mgetD m c.core Core.initial) hcores]
    exact ((congrArg Core.memQ hquiet.engines :).trans (s.core_fillTlbs (obs := Core.memQ) (fun _ _ => rfl) c.core c vas)).trans honce.2
  have hbarrier : ∀ k, ((s.fillTlbs c vas).cpaAccounted c ps).barrier c.w.wg k = s.barrier c.w.wg k := fun k =>
    (hquiet.barrier _ k).trans (by simp only [State.barrier, State.takeId, s.wgs_fillTlbs])
  obtain ⟨as, has, hq⟩ := hall _ (haccs ▸ List.mem_map_of_mem hy)
  have hgoes : cpaGoes c g u (cpaAcc s c x u tg y) = true := by
    have hexec := (c.mem_units_serves (honce.units ▸ hy)).1
    exact List.any_eq_true.mpr ⟨y.1, hexec, by cases u <;> simp [cpaAcc]⟩
  have hcopyQ : ((r.1.giveMem c.core (cpaMemCmd (s.fillTlbs c vas) c ps r.2)).core c.core).copyQ = (r.1.core c.core).copyQ ++ r.2 := by
    rw [State.giveMem, hmemQ, ← hps, honce.slots]
    simp only [cpaMemCmd, List.isEmpty_nil, Bool.and_self, if_true, State.runMem, State.core_modCore_same]
  refine ⟨_, by rw [(State.quiet_finish _ c []).copyQ, hcopyQ]; exact List.mem_append_right _ hq, _, State.fillTlbs_nextId s c vas, rfl, rfl, rfl, rfl,
    List.mem_map_of_mem (f := cpaMove) (List.mem_filter.mpr ⟨has, hgoes⟩), ?_⟩
  simp only [cpaCmd, hbarrier]
  rfl

/-- Settles O24: a record on a window page is asked for, any other is read where it is; the command joins the copy queue, and nothing moves before it lands. -/
theorem copyCommands : Obligations.CopyCommands := by
  unfold Obligations.CopyCommands
  intro s c hc
  refine ⟨fun f => ⟨?_, ?_, ?_, ?_, ?_⟩, fun x a g u tg hm => ⟨fun k hu => commandIssues_cpa16 hc rfl hm hu, fun hu => commandIssues_cpa16 hc rfl hm hu⟩⟩
  · exact copyIssues (verdict := fun s c r cs tw => s.boxVerdict c r cs tw true) hc rfl
  · exact copyIssues (verdict := fun s c r cs tw => s.boxVerdict c r cs tw false) hc rfl
  · exact copyIssues (verdict := fun s c r cs tw => s.castVerdict c r cs tw) hc rfl
  · exact copyIssues (verdict := fun s c r cs tw => s.planeVerdict c r cs tw false) hc rfl
  · exact copyIssues (verdict := fun s c r cs tw => s.planeVerdict c r cs tw true) hc rfl

end Sys2Proof.Machine

/-! SUPPORT. An instruction of the launch engine: its turn in the engine's queue (R27), its end, and what it writes. -/

namespace Sys2Proof.Machine

/-! ### The guard and the turn -/

theorem Iss.guardLow_iff (c : Iss) (g : Bool) : c.guardLow g = true ↔ LowGuard c g := by
  unfold Iss.guardLow LowGuard
  cases g with
  | false => simp
  | true => cases c.tids <;> simp

theorem Iss.guardLow_eq_false (c : Iss) {g : Bool} (h : ¬ LowGuard c g) : c.guardLow g = false := by
  rw [← Bool.not_eq_true, c.guardLow_iff]
  exact h

/-- With nothing before it a command acts at once, on its first trial where the engine can take it, and on any later one. -/
theorem launchTurn_now {busy : State → Iss → Bool} {k : State → Iss → State} {s : State} {c : Iss} (hq : (s.core c.core).lchQ = [])
    (hgo : c.issued = true ∨ busy s c = false) : launchTurn busy k s c = k s c := by
  have hturn : (c.resumed.isSome || c.issued || (([] : List (Nat × Who)).isEmpty && !busy s c)) = true := by
    rcases hgo with h | h <;> simp [h]
  unfold launchTurn
  rw [hq]
  dsimp only
  rw [if_neg (by simp), if_pos hturn]

/-- A command that may not act yet joins the queue of the engine while it has room. -/
theorem launchTurn_waits {busy : State → Iss → Bool} {k : State → Iss → State} {s : State} {c : Iss} (hres : c.resumed = none) (hi : c.issued = false)
    (hm : (c.slot, c.who) ∉ (s.core c.core).lchQ) (hbusy : (s.core c.core).lchQ ≠ [] ∨ busy s c = true) :
    launchTurn busy k s c = if 16 ≤ (s.core c.core).lchQ.length then s.stall
      else (s.modCore c.core (fun x => { x with lchQ := (s.core c.core).lchQ ++ [(c.slot, c.who)] })).park c (.instr 0) := by
  have hturn : (c.resumed.isSome || c.issued || ((s.core c.core).lchQ.isEmpty && !busy s c)) = false := by
    rcases hbusy with h | h <;> simp [hres, hi, h]
  unfold launchTurn
  dsimp only
  rw [if_neg (by simpa using hm), if_neg (by simp [hturn])]
  rfl

theorem queuesUp {i : Instr} {s : State} {c : Iss} {busy : State → Iss → Bool} {k : State → Iss → State} (hc : s.iss = some c) (hh : c.hel = none)
    (hx : exec i s = .next (launchTurn busy k s c)) (hbusy : (s.core c.core).lchQ ≠ [] ∨ busy s c = true) : QueuesUp i s c := by
  intro hres hi hm
  rw [launchTurn_waits hres hi hm hbusy] at hx
  refine ⟨fun hlt => ?_, fun hle => by rw [hx, if_pos hle]⟩
  rw [if_neg (Nat.not_le.mpr hlt)] at hx
  let joined := s.modCore c.core (fun x => { x with lchQ := (s.core c.core).lchQ ++ [(c.slot, c.who)] })
  have hq : ((joined.park c (.instr 0)).core c.core).lchQ = (s.core c.core).lchQ ++ [(c.slot, c.who)] :=
    (congrArg Core.lchQ (joined.quiet_park c (.instr 0)).engines :).trans (congrArg Core.lchQ (State.core_modCore_same ..))
  obtain ⟨t, c', ht, hc', hmem, hst, hregs, hpark, hpost⟩ := waits_of_park (s1 := joined)
    (post := fun t => (t.core c.core).lchQ = (s.core c.core).lchQ ++ [(c.slot, c.who)]) hc hh (.modCore s c.core fun _ => ⟨rfl, rfl, rfl, rfl⟩) (.refl _) hx hq
  exact ⟨t, c', ht, hc', hmem, hst, hregs, ParkedAs.resumed hpark, hpost⟩

/-! ### The end of an instruction of a split -/

/-- What the end of an instruction makes of an issuer that kept its strands and its splits. -/
theorem Seat.finish {s s1 : State} {c : Iss} {fw : Warp → Warp} (hc : Seated s c) (hh : c.hel = none) (hs : Seat s s1 c fw id)
    (hsp : (fw c.w).splits = c.w.splits) (hst : (fw c.w).strands = c.w.strands) (ps : List Nat) :
    ∃ c' w', (s1.finish c ps).issFor c.core c.slot c.who c.cost = some c' ∧ c'.w = w' ∧ c'.hel = none ∧ (fw c.w).Finished c w' ∧
      Footprint.plain.SameStrands c w' ∧ WentOn c w' c'.hel := by
  obtain ⟨gw, gh, hs', hgw, -⟩ := s1.seat_finish c ps
  have hf := hgw (fw c.w)
  have hstrand : ∀ l, (fw c.w).strand l = c.w.strand l := fun l => by simp only [Warp.strand, hst]
  obtain ⟨c', hc', hb⟩ := hc.after (hs.trans hs') (fun e => (hf.entry e).trans (by rw [hsp]))
  refine ⟨c', _, hc', hb.w, by rw [hb.hel, hh]; rfl, hf, ?_, ?_⟩
  · exact hf.sameStrands hc (by rw [hst]) (fun l => ⟨fun _ => by rw [hstrand], fun _ => hstrand l⟩) (fun e _ => by rw [hsp])
  · exact hf.wentOn hc (fun l => by rw [hstrand]) (by rw [hst]) fun x hx => by rw [hh] at hx; cases hx

/-- An instruction goes on, where before its end its engines have worked and its warp has taken some effects. -/
theorem goesOn_finish {i : Instr} {s s1 s2 : State} {c : Iss} {ps : List Nat} {wr : Writes} {post : Iss → State → Prop} {es : List Eff} (hc : s.iss = some c)
    (hh : c.hel = none) (hi : exec i s = .next (s2.finish c ps)) (h1 : Still s s1) (hq : Quiet s1 s2 c.core c.slot)
    (hs : Seat s1 s2 c (fun w => es.foldl Warp.eff w) id) (hr : wr.Spares c c.w (es.foldl Warp.eff c.w))
    (hpost : ∀ c', c'.hel = none → (es.foldl Warp.eff c.w).Finished c c'.w → post c' (s2.finish c ps)) : GoesOn Footprint.plain i s c wr post := by
  have hseat := State.seated_of_iss hc
  have hrest := Warp.rest_effs es c.w
  obtain ⟨c', _, hc', rfl, hn, hf, hstrands, hwent⟩ := Seat.finish hseat hh ((h1.seat c).trans hs) (congrArg Warp.splits hrest :)
    (congrArg Warp.strands hrest :) ps
  have hcalm := ((Calm.of_still h1 c.core c.slot).trans (.of_quiet hq)).trans (.of_quiet (State.quiet_finish _ c ps))
  exact ⟨_, c', hi, hc', hpost c' hn hf, hcalm.memory, hcalm.others,
    hf.sameWarp (congrArg (fun w : Warp => ({ w with iiu := 0, splits := [], strands := [] } : Warp)) hrest :), hf.sameRegisters hr, hstrands, hwent⟩

/-- A word written to a destination of one register, with predicates beside it, is held there (R66). -/
theorem holds_of_effs {c c' : Iss} {o : Opnd} {v : Nat} {es : List Eff} (hh : c.hel = none)
    (hes : ∀ t l w, .reg t l w ∈ es ↔ t ∈ c.tids ∧ c.resolve t o 1 = .ok [l] ∧ w = BitVec.ofNat 32 v) (hf : (es.foldl Warp.eff c.w).Finished c c'.w) {th : Nat}
    (hth : th ∈ c.tids) : c.holds c' th o 1 v := by
  intro ls j l hr hj hl
  have hplaced : ∀ x ∈ es, x.Placed := by
    rintro x hx t l w rfl
    exact Iss.placed_of_resolve hh ((hes t l w).mp hx).2.1 l (by simp)
  obtain ⟨l', rfl⟩ := List.length_eq_one_iff.mp (Iss.length_of_resolve_one hh hr)
  obtain ⟨rfl, rfl⟩ : j = 0 ∧ l' = l := by
    cases j with
    | zero => simpa using hj
    | succ j => simp at hj
  have hown := (Iss.placed_of_resolve hh hr l' (by simp)).resolve_left hl
  exact (hf.readLoc rfl hown (Warp.cell_effs_set c.w hplaced hown ((hes _ _ _).mpr ⟨hth, hr, rfl⟩) fun u hu => ((hes _ _ _).mp hu).2.2)).trans (by simp)

/-- A predicate written is held. -/
theorem pred_of_effs {c c' : Iss} {es : List Eff} (hh : c'.hel = none) (hf : (es.foldl Warp.eff c.w).Finished c c'.w) {th p : Nat} {b : Bool} (hp : p ≠ 0)
    (hb : .pred th p b ∈ es) (hall : ∀ u, .pred th p u ∈ es → u = b) : c'.pred th p = b := by
  have h := c.w.pred_effs_set hp hb hall
  unfold Iss.pred
  rw [hh]
  unfold Warp.pred at h ⊢
  rw [show c'.w.preds = _ from (congrArg Warp.preds hf.rest :)]
  exact h

end Sys2Proof.Machine

/-! SUPPORT. JOIN, LQW, and the forms of LNCH that launch nothing (R384 to R390, R406, R407). -/

namespace Sys2Proof.Machine

/-! ### JOIN and LQW -/

theorem Still.foldl {α : Type} {f : State → α → State} (h : ∀ s x, Still s (f s x)) (l : List α) (s : State) : Still s (l.foldl f s) := by
  induction l generalizing s with
  | nil => exact .refl s
  | cons x r ih => exact (h s x).trans (ih _)

theorem Still.acquire (s : State) (core : Nat) (sc : Scope) : Still s (s.acquire core sc) := by
  have hdrop : ∀ (t : State) (d : Nat), Still t (t.modCore d Core.dropGlobal) := fun t d => .modCore t d fun _ => ⟨rfl, rfl, rfl, rfl⟩
  unfold State.acquire
  dsimp only
  split
  · exact .refl s
  · split
    · split
      · exact .refl s
      · refine Still.foldl (fun t i => ?_) _ s
        split
        · exact hdrop t _
        · exact .refl t
    · exact hdrop s core

theorem Still.modWg (s : State) (wg : Nat) (f : Workgroup → Workgroup) : Still s (s.modWg wg f) := by
  unfold State.modWg
  split
  · exact .of_device rfl ⟨rfl, rfl, rfl, rfl, rfl⟩ rfl rfl rfl
  · exact .refl s

/-- An instruction that changes nothing but what its engines hold goes on. -/
theorem goesOn_still {i : Instr} {s s1 : State} {c : Iss} (hc : s.iss = some c) (hh : c.hel = none) (hi : exec i s = .next (s1.finish c [])) (h1 : Still s s1) :
    GoesOn Footprint.plain i s c Writes.none (fun _ _ => True) :=
  goesOn_finish (es := []) hc hh hi h1 (.refl _ _ _) (.refl s1 c) (.of_same rfl rfl rfl rfl rfl) fun _ _ _ => trivial

theorem execJoin_clear {s : State} {c : Iss} {a : Opnd} {g : Bool} (hc : s.iss = some c) (hq : (s.core c.core).lchQ = [])
    (hclear : SeqClear s c false (c.tids.take 1) [(a, 1)] none) {gr : Workgroup} (hgr : mget? s.wgs c.w.wg = some gr) :
    exec (.join a g) s = .next (if !c.guardLow g then s.finish c []
      else
        let n := match c.resumed with
          | some m => m
          | none => joinTarget (c.first a 1) gr.issued
        if reached gr.done n then (s.acquire c.core .dev).finish c []
        else if c.resumed.isSome then s.stall
        else (s.park c (.instr n)).askPreempt c.w.wg (.join n)) := by
  show execJoin a g s = _
  rw [execJoin, seqOps_clear false Iss.lowest [(a, 1)] none _ hc hclear, launchTurn_now hq (.inr rfl)]
  simp only [State.wgOf, hgr]
  rfl

theorem execLqw_clear {s : State} {c : Iss} {g : Bool} (hc : s.iss = some c) (hq : (s.core c.core).lchQ = [])
    (hclear : SeqClear s c false (c.tids.take 1) [] none) : exec (.lqw g) s = .next (if !c.guardLow g then s.finish c []
      else if s.entriesOf c < 4 then s.finish c []
      else s.await c 0) := by
  show execLqw g s = _
  rw [execLqw, seqOps_clear false Iss.lowest [] none _ hc hclear, launchTurn_now hq (.inr rfl)]

theorem lqw_completes {s : State} {c : Iss} {g : Bool} (hc : s.iss = some c) (hq : (s.core c.core).lchQ = [])
    (hclear : SeqClear s c false (c.tids.take 1) [] none) (h : ¬ LowGuard c g ∨ s.entriesOf c < 4) : CompletesWith (.lqw g) s c Writes.none (fun _ _ => True) := by
  refine completesWith_finish (ps := []) hc ((execLqw_clear hc hq hclear).trans (congrArg Host.Outcome.next ?_))
  rcases h with h | h
  · rw [c.guardLow_eq_false h]
    rfl
  · rw [if_pos h, ite_self]

theorem join_skips {s : State} {c : Iss} {a : Opnd} {g : Bool} {gr : Workgroup} (hc : s.iss = some c) (hq : (s.core c.core).lchQ = [])
    (hclear : SeqClear s c false (c.tids.take 1) [(a, 1)] none) (hgr : mget? s.wgs c.w.wg = some gr) (h : ¬ LowGuard c g) :
    CompletesWith (.join a g) s c Writes.none (fun _ _ => True) := by
  refine completesWith_finish (ps := []) hc ((execJoin_clear hc hq hclear hgr).trans (congrArg Host.Outcome.next ?_))
  rw [c.guardLow_eq_false h]
  rfl

theorem joinTarget_lt {n issued : Nat} (hn : n < 2 ^ 32) (hi : issued < 2 ^ 32) : joinTarget n issued < 2 ^ 32 := by
  unfold joinTarget
  dsimp only
  split
  · exact hi
  · exact hn

theorem Iss.first_one_lt (c : Iss) (a : Opnd) : c.first a 1 < 2 ^ 32 := by
  unfold Iss.first
  split
  next th _ _ =>
    unfold Iss.read
    split
    next ls hr =>
      have hlen : ls.length = 1 := by rcases Iss.length_of_resolve hr with h | h <;> omega
      have hlt := wordsNat_lt (ls.map (c.readLoc th))
      rw [List.length_map, hlen] at hlt
      exact hlt
    next => decide
  next => decide

theorem join_acts {s : State} {c : Iss} {a : Opnd} {g : Bool} {gr : Workgroup} (hc : s.iss = some c) (hq : (s.core c.core).lchQ = [])
    (hclear : SeqClear s c false (c.tids.take 1) [(a, 1)] none) (hgr : mget? s.wgs c.w.wg = some gr) (hlow : LowGuard c g) (hres : c.resumed = none)
    (hissued : gr.issued < 2 ^ 32) : let n := joinTarget (c.first a 1) gr.issued
      ((gr.done + 2 ^ 32 - n) % 2 ^ 32 < 2 ^ 31 → GoesOn Footprint.plain (.join a g) s c Writes.none (fun _ _ => True)) ∧
      (2 ^ 31 ≤ (gr.done + 2 ^ 32 - n) % 2 ^ 32 → Waits (.join a g) s c (fun c' _ => ParkedAs (.instr n) c')) := by
  intro n
  have hx := execJoin_clear (g := g) hc hq hclear hgr
  have hh := hclear.no_helper
  have hn : n % 2 ^ 32 = n := Nat.mod_eq_of_lt (joinTarget_lt (c.first_one_lt a) hissued)
  rw [(c.guardLow_iff g).mpr hlow] at hx
  simp only [hres, Bool.not_true, Bool.false_eq_true, if_false, Option.isSome_none] at hx
  refine ⟨fun hd => ?_, fun hd => ?_⟩
  · have hr : reached gr.done n = true := by
      unfold reached
      rw [hn]
      exact decide_eq_true hd
    rw [if_pos hr] at hx
    exact goesOn_still hc hh hx (.acquire s c.core .dev)
  · have hr : reached gr.done n = false := by
      unfold reached
      rw [hn]
      exact decide_eq_false (Nat.not_lt.mpr hd)
    rw [if_neg (by rw [hr]; decide)] at hx
    obtain ⟨t, c', ht, hc', hmem, hst, hregs, hpark, -⟩ := waits_of_park (post := fun _ => True) hc hh (.refl s) (Still.modWg _ _ _) hx trivial
    exact ⟨t, c', ht, hc', hmem, hst, hregs, hpark⟩

/-! ### LNCH -/

/-- What LNCH does at its turn, where no ENQ of it has been asked for. -/
def lnchAct (x a : Opnd) (p : Fin 64) (g : Bool) (s : State) (c : Iss) : State :=
  if !c.guardLow g then s.finish c []
  else if c.sharedWrite c.tids x 1 then s.takeTrap c .sharedWrite 0
  else match c.resumed with
    | some n => if s.releaseDone c .dev (n % 2 ^ 64) then s.acceptLaunch c x p.val (n / 2 ^ 64) else s.stall
    | none =>
      if 4 ≤ s.entriesOf c then ((s.countCtx c .lnfull).effsBy c (c.tids.map (fun t => .pred t p.val false))).finish c [p.val]
      else if s.loadsWait c (s.recordAccs c (c.first a 2) 128) then s.stall
      else match s.recordFar c (c.first a 2) 128 with
        | some t => s.askRecord c t 128
        | none => match s.decideLaunch c (c.first a 2) with
          | .error s => s
          | .ok (s, g, d) => s.decidedLaunch c x p.val (c.first a 2) g d

/-- What it does at its turn. -/
def lnchTurn (x a : Opnd) (p : Fin 64) (g : Bool) (s : State) (c : Iss) : State := match c.asked with
  | some (_, none) => s.stall
  | some (id, some d) => (match mget? s.pol.enqs id with
    | some g => ({ s with pol := { s.pol with enqs := mdel s.pol.enqs id } } : State).decidedLaunch c x p.val (c.first a 2) g d
    | none => s.stall)
  | none => lnchAct x a p g s c

theorem execLnch_clear {s : State} {c : Iss} {x a : Opnd} {p : Fin 64} {g : Bool} (hc : s.iss = some c)
    (hclear : SeqClear s c false (c.tids.take 1) [(a, 2)] (some (x, 1))) :
    exec (.lnch x a p g) s = .next (launchTurn (fun s c => c.guardLow g && s.launchBusy c) (lnchTurn x a p g) s c) := by
  show execLnch x a p g s = _
  rw [execLnch, seqOps_clear false Iss.lowest [(a, 2)] (some (x, 1)) _ hc hclear]
  rfl

theorem execLnch_acts {s : State} {c : Iss} {x a : Opnd} {p : Fin 64} {g : Bool} (hc : s.iss = some c)
    (hclear : SeqClear s c false (c.tids.take 1) [(a, 2)] (some (x, 1))) (hq : (s.core c.core).lchQ = []) (hasked : c.asked = none)
    (hbusy : c.guardLow g = true → s.launchBusy c = false) : exec (.lnch x a p g) s = .next (lnchAct x a p g s c) := by
  have hb : (c.guardLow g && s.launchBusy c) = false := by
    cases h : c.guardLow g
    · rfl
    · rw [hbusy h]
      rfl
  rw [execLnch_clear hc hclear, launchTurn_now hq (.inr hb), lnchTurn, hasked]

theorem Still.countCtx (s : State) (c : Iss) (k : Counter) : Still s (s.countCtx c k) := by
  unfold State.countCtx
  split
  · exact .of_device rfl ⟨rfl, rfl, rfl, rfl, rfl⟩ rfl rfl rfl
  · exact .refl s

theorem State.gridSeq_countCtx (s : State) (c : Iss) (k : Counter) : (s.countCtx c k).gridSeq = s.gridSeq := by
  unfold State.countCtx
  split <;> rfl

theorem Quiet.gridSeq {s t : State} {core slot : Nat} (h : Quiet s t core slot) : t.gridSeq = s.gridSeq := (congrArg State.gridSeq h.device.1 :)

/-- Predicates alone are written. -/
theorem spares_preds {c : Iss} (hh : c.hel = none) (ts : List Nat) (p : Nat) (b : Bool) :
    ({ Writes.none with pred := fun th q => ts.contains th && q == p } : Writes).Spares c c.w ((ts.map (fun t => Eff.pred t p b)).foldl Warp.eff c.w) := by
  have hm : ∀ {e : Eff}, e ∈ ts.map (fun t => Eff.pred t p b) → ∃ t ∈ ts, e = .pred t p b := fun h => by
    obtain ⟨t, ht, rfl⟩ := List.mem_map.mp h
    exact ⟨t, ht, rfl⟩
  refine spares_effs hh (fun e he t l v h => ?_) (fun t l v h => ?_) (fun t q v h _ => ?_) (fun t f h => ?_) (fun t k v h => ?_) c.w
  · obtain ⟨_, _, rfl⟩ := hm he
    cases h
  · obtain ⟨_, _, h⟩ := hm h
    cases h
  · obtain ⟨t', ht, h⟩ := hm h
    cases h
    simp [ht]
  · obtain ⟨_, _, h⟩ := hm h
    cases h
  · obtain ⟨_, _, h⟩ := hm h
    cases h

theorem lnch_full {s : State} {c : Iss} {x a : Opnd} {p : Fin 64} {g : Bool} (hc : s.iss = some c)
    (hclear : SeqClear s c false (c.tids.take 1) [(a, 2)] (some (x, 1))) (hq : (s.core c.core).lchQ = []) (hasked : c.asked = none) (hlow : LowGuard c g)
    (hsh : c.sharedWrite c.tids x 1 = false) (hfull : 4 ≤ s.entriesOf c) (hres : c.resumed = none) (hbusy : s.launchBusy c = false) :
    GoesOn Footprint.plain (.lnch x a p g) s c { Writes.none with pred := fun th q => c.tids.contains th && q == p.val }
      (fun c' t => t.gridSeq = s.gridSeq ∧ (p ≠ 0 → ∀ th ∈ c.tids, c'.pred th p.val = false)) := by
  have hh := hclear.no_helper
  obtain ⟨e, -, hwho, -, -⟩ := (State.seated_of_iss hc).split_of_no_helper hh
  have hx := execLnch_acts (p := p) (g := g) hc hclear hq hasked fun _ => hbusy
  have hact : lnchAct x a p g s c = ((s.countCtx c .lnfull).effsBy c (c.tids.map (fun t => .pred t p.val false))).finish c [p.val] := by
    simp only [lnchAct, (c.guardLow_iff g).mpr hlow, hsh, hres, hfull, Bool.not_true, Bool.false_eq_true, if_false, if_true]
  rw [hact] at hx
  refine goesOn_finish hc hh hx (.countCtx s c _) (State.quiet_effsBy _ c _) (State.seat_effsBy _ hwho _) (spares_preds hh _ _ _) fun c' hn hf => ⟨?_, fun hp th hth => ?_⟩
  · exact ((State.quiet_finish _ c _).gridSeq.trans (State.quiet_effsBy _ c _).gridSeq).trans (s.gridSeq_countCtx c _)
  · refine pred_of_effs hn hf (fun h => hp (Fin.ext h)) (List.mem_map.mpr ⟨th, hth, rfl⟩) fun u hu => ?_
    obtain ⟨_, -, h⟩ := List.mem_map.mp hu
    cases h
    rfl

theorem launchesWait : LaunchesWait := by
  intro s c x a p g hc hclear
  have hh := hclear.no_helper
  refine ⟨fun hbusy => queuesUp hc hh (execLnch_clear hc hclear) (hbusy.imp_right fun h => ?_), fun hq id hasked => ?_,
    fun hq hasked hres hlow hbusy hsh hroom hwait far hfar hf => ?_⟩
  · rw [(c.guardLow_iff g).mpr h.1, h.2]
    rfl
  · rw [execLnch_clear hc hclear, launchTurn_now hq (.inl (by simp [Iss.issued, hasked])), lnchTurn, hasked]
  · have hx := execLnch_acts (p := p) (g := g) hc hclear hq hasked fun _ => hbusy
    have hact : lnchAct x a p g s c = s.askRecord c far 128 := by
      simp only [lnchAct, (c.guardLow_iff g).mpr hlow, hsh, hres, Nat.not_le.mpr hroom, hwait, hfar, Bool.not_true, Bool.false_eq_true, if_false]
    rw [hact] at hx
    obtain ⟨t, c', ht, hc', hmem, hst, hregs, hpark, o, ho, hcid, hinto, -, hn, -⟩ := waits_askRecord hc hh hfar hf hx
    exact ⟨t, c', ht, hc', hmem, hst, hregs, hpark, o, ho, hcid, hinto, hn⟩

end Sys2Proof.Machine

/-! PROOF. LNCH accepts a grid (R385); the launch instructions together (R384 to R390, R406, R407). -/

namespace Sys2Proof.Machine

/-! ### Up to the decision -/

theorem Still.count (s : State) (p : Nat) (k : Counter) (n : Nat) : Still s (s.count p k n) := .of_device rfl ⟨rfl, rfl, rfl, rfl, rfl⟩ rfl rfl rfl

theorem Still.noteReads (s : State) (ctx : Nat) (rs : List (Nat × Nat)) : Still s (s.noteReads ctx rs) := by
  have hfresh : Still s { s with fresh := s.fresh + 1 } := .of_device rfl ⟨rfl, rfl, rfl, rfl, rfl⟩ rfl rfl rfl
  unfold State.noteReads
  dsimp only
  split
  · exact .refl s
  · split
    · exact hfresh.trans (.count _ _ _ _)
    · exact hfresh.trans (.meterHost _ _ _ _ _)

theorem State.still_of_readLaunch {s s1 : State} {c : Iss} {va : Nat} {fabric : Bool} {bs : List Byte} {k : Kernel}
    (h : s.readLaunch c va fabric = .ok (s1, bs, k)) : Still s s1 := by
  have hrec := (StillBeside.readRecord s c.core c va 128).1
  unfold State.readLaunch at h
  split at h
  next => cases h
  next hr =>
    rw [hr] at hrec
    dsimp only at h
    split at h
    · cases h
    · cases h
      exact hrec.trans (.noteReads _ _ _)

theorem Still.callGo (s : State) (plot : Nat) (k : PolicyCall) (n : Nat) : Still s (s.callGo plot k n).1 := by
  have hset : ∀ (t : State) (q : PolicyCall), Still t (t.setCall plot q) := fun t q => .of_device rfl ⟨rfl, rfl, rfl, rfl, rfl⟩ rfl rfl rfl
  induction n generalizing s k with
  | zero => exact .refl s
  | succ n ih =>
    unfold State.callGo
    split
    · split
      · exact hset s _
      · exact .refl s
    · split
      · exact (Still.count s _ _ _).trans (ih _ _)
      · exact (Still.count s _ _ _).trans (hset _ _)

theorem Still.beginCall (s : State) (plot part : Nat) (k : CallKind) : Still s (s.beginCall plot part k).1 := .callGo s plot _ 3

theorem Still.enqDecide (s : State) (k : PolicyCall) : Still s (s.enqDecide k).1 := by
  unfold State.enqDecide
  dsimp only
  split
  · exact .count _ _ _ _
  · exact .refl s

theorem Still.enqGrid (s : State) (plot : Nat) (g : Grid) (asker : Asker) : Still s (s.enqGrid plot g asker).1 := by
  unfold State.enqGrid State.enqCall
  dsimp only
  split
  next t hb =>
    obtain rfl : _ = t := congrArg Prod.fst hb
    exact .beginCall s plot _ _
  next t q hb =>
    obtain rfl : _ = t := congrArg Prod.fst hb
    exact Still.trans (.beginCall s plot _ _) (.enqDecide _ q)

/-! ### The release actions, with nothing outstanding -/

theorem wcb_of_idle {s : State} {c : Iss} (h : EngineIdle s c) : (s.core c.core).wcb = [] := by
  obtain ⟨-, -, -, hu, -⟩ := h
  unfold State.unacked at hu
  exact (List.append_eq_nil_iff.mp (List.append_eq_nil_iff.mp (List.append_eq_nil_iff.mp hu).1).1).1

theorem releaseDone_of_idle {s : State} {c : Iss} (h : EngineIdle s c) (sc : Scope) (n : Nat) : s.releaseDone c sc n = true := by
  obtain ⟨hloads, hstores, hmemQ, hun, hrem, hhost, hfab, hcount⟩ := h
  have hr : ∀ p : Remote → Bool, s.remotes.any (fun r => r.core == c.core && p r) = false := fun p => by
    rw [List.any_eq_false]
    intro r hm
    simp [hrem r hm]
  have hq : ∀ p : HostReq → Bool, s.hostReqs.any (fun r => r.core == c.core && p r) = false := fun p => by
    rw [List.any_eq_false]
    intro r hm
    simp [hhost r hm]
  have hf : ∀ p : FabOp → Bool, s.fabOps.any (fun r => r.core == c.core && p r) = false := fun p => by
    rw [List.any_eq_false]
    intro r hm
    simp [hfab r hm]
  simp only [State.releaseDone, State.lsIssuedDone, hloads, hstores, hmemQ, hun, hcount, List.any_nil, Bool.and_assoc, hr, hq, hf, List.all_nil, Bool.not_false,
    Bool.and_self, BEq.rfl, Bool.or_true]

/-- The release actions of an idle engine: only the number of the launch is taken. -/
theorem releaseStart_of_idle {s : State} {c : Iss} (h : EngineIdle s c) :
    s.takeId.releaseStart c .dev = s.takeId.modCore c.core (fun k => { k with wcb := [] }) := by
  have hw : (s.takeId.core c.core).wcb = [] := wcb_of_idle h
  unfold State.releaseStart
  rw [if_neg (by decide), State.drainAll, hw]
  rfl

/-! ### The accepted grid -/

/-- The workgroup of an accepted launch. -/
def Workgroup.launched (w : Workgroup) (gid : Nat) : Workgroup := { w with entries := w.entries ++ [.grid gid], issued := (w.issued + 1) % 2 ^ 32 }

/-- The grid as it stands once accepted. -/
def Grid.accepted (g : Grid) (s : State) (prio : Nat) : Grid := { g with prio := prio, heldPart := false, since := s.elapsed, wepoch := s.wepoch }

/-- What an accepted launch changes beside its issuer. -/
structure Accepted (s t : State) (c : Iss) (g : Grid) (prio : Nat) (gr : Workgroup) : Prop where
  still : Still s t
  wg : mget? t.wgs c.w.wg = some (gr.launched s.gridSeq)
  gridSeq : t.gridSeq = s.gridSeq + 1
  grid : mget? t.grids s.gridSeq = some (g.accepted s prio)

/-- The effects of an accepted launch: the number of grids issued, and the predicate. -/
def launchEffs (c : Iss) (x : Opnd) (p n : Nat) : List Eff := c.tids.flatMap (fun t => c.writeEffs t x 1 n ++ [.pred t p true])

theorem Still.modGrid (s : State) (gid : Nat) (f : Grid → Grid) : Still s (s.modGrid gid f) := by
  unfold State.modGrid
  split
  · exact .of_device rfl ⟨rfl, rfl, rfl, rfl, rfl⟩ rfl rfl rfl
  · exact .refl s

/-- A launch whose grid has its entry is accepted. -/
theorem State.acceptLaunch_eq {s : State} {c : Iss} {x : Opnd} {p gid : Nat} {g : Grid} {gr : Workgroup} (hg : mget? s.grids gid = some g)
    (hw : mget? s.wgs c.w.wg = some gr) : ∃ t, s.acceptLaunch c x p gid = (t.effsBy c (launchEffs c x p ((gr.issued + 1) % 2 ^ 32))).finish c [p] ∧ Still s t ∧
      mget? t.wgs c.w.wg = some { gr with issued := (gr.issued + 1) % 2 ^ 32 } ∧ t.gridSeq = s.gridSeq ∧
      mget? t.grids gid = some { g with heldPart := false, since := s.elapsed, wepoch := s.wepoch } := by
  let s1 := s.modGrid gid (fun g => { g with heldPart := false, since := s.elapsed, wepoch := s.wepoch })
  let s2 := s1.modWg c.w.wg (fun w => { w with issued := (gr.issued + 1) % 2 ^ 32 })
  have h1 : s1 = { s with grids := mset s.grids gid { g with heldPart := false, since := s.elapsed, wepoch := s.wepoch } } := by
    simp only [s1, State.modGrid, hg]
  have h2 : s2 = { s1 with wgs := mset s1.wgs c.w.wg { gr with issued := (gr.issued + 1) % 2 ^ 32 } } := by
    have hw1 : mget? s1.wgs c.w.wg = some gr := by rw [h1]; exact hw
    simp only [s2, State.modWg, hw1]
  have hcount : (s2.countCtx c .lnacc).wgs = s2.wgs ∧ (s2.countCtx c .lnacc).gridSeq = s2.gridSeq ∧ (s2.countCtx c .lnacc).grids = s2.grids := by
    unfold State.countCtx
    split <;> exact ⟨rfl, rfl, rfl⟩
  obtain ⟨hcw, hcs, hcg⟩ := hcount
  refine ⟨s2.countCtx c .lnacc, ?_, ((Still.modGrid s gid _).trans (.modWg _ _ _)).trans (.countCtx _ _ _), ?_, ?_, ?_⟩
  · unfold State.acceptLaunch State.wgOf
    simp only [hw]
    rfl
  · rw [hcw, h2]
    exact mget?_mset_same _ _ _
  · rw [hcs, h2, h1]
  · rw [hcg, h2, h1]
    exact mget?_mset_same _ _ _

theorem State.beginAccept_eq {s : State} {c : Iss} {x : Opnd} {p : Nat} {g : Grid} {prio : Nat} {gr : Workgroup} (hidle : EngineIdle s c)
    (hw : mget? s.wgs c.w.wg = some gr) : ∃ t, s.beginAccept c x p g prio = (t.effsBy c (launchEffs c x p ((gr.issued + 1) % 2 ^ 32))).finish c [p] ∧
      Accepted s t c g prio gr := by
  let s1 := s.takeId.modCore c.core (fun k => { k with wcb := [] })
  let s2 := (s1.acceptGrid g prio).1
  let s3 := s2.modWg c.w.wg (fun w => { w with entries := w.entries ++ [.grid s.gridSeq] })
  have h3 : s3 = { s2 with wgs := mset s2.wgs c.w.wg { gr with entries := gr.entries ++ [.grid s.gridSeq] } } := by
    have hw2 : mget? s2.wgs c.w.wg = some gr := hw
    simp only [s3, State.modWg, hw2]
  have hcore : s3.core c.core = { s.core c.core with wcb := [] } := by
    have h32 : s3.core c.core = s2.core c.core := by rw [h3]; rfl
    exact h32.trans (s.takeId.core_modCore_same c.core (fun k => { k with wcb := [] }))
  have hidle3 : EngineIdle s3 c := by
    obtain ⟨hloads, hstores, hmemQ, hun, hrem, hhost, hfab, hcount⟩ := hidle
    have hsame : s3.remotes = s.remotes ∧ s3.hostReqs = s.hostReqs ∧ s3.fabOps = s.fabOps := by
      rw [h3]
      exact ⟨rfl, rfl, rfl⟩
    obtain ⟨hr, hq, hf⟩ := hsame
    refine ⟨by rw [hcore]; exact hloads, by rw [hcore]; exact hstores, by rw [hcore]; exact hmemQ, ?_, by rw [hr]; exact hrem, by rw [hq]; exact hhost,
      by rw [hf]; exact hfab, hcount⟩
    unfold State.unacked at hun ⊢
    rw [hcore, hq, hf]
    simp only [List.append_eq_nil_iff] at hun ⊢
    exact ⟨⟨⟨trivial, hun.1.1.2⟩, hun.1.2⟩, hun.2⟩
  have hg3 : mget? s3.grids s.gridSeq = some { g with prio := prio } := by
    rw [h3]
    exact mget?_mset_same _ _ _
  have hw3 : mget? s3.wgs c.w.wg = some { gr with entries := gr.entries ++ [.grid s.gridSeq] } := by
    rw [h3]
    exact mget?_mset_same _ _ _
  obtain ⟨t, ht, hstill, hwg, hseq, hgrid⟩ := State.acceptLaunch_eq (x := x) (p := p) hg3 hw3
  have hstill1 : Still s.takeId s1 := .modCore _ _ fun _ => ⟨rfl, rfl, rfl, rfl⟩
  have hstill2 : Still s1 s2 := .of_device rfl ⟨rfl, rfl, rfl, rfl, rfl⟩ rfl rfl rfl
  refine ⟨t, ?_, ⟨?_, hwg, hseq.trans (by rw [h3]; rfl), hgrid.trans (by rw [h3]; rfl)⟩⟩
  · rw [State.beginAccept, releaseStart_of_idle hidle]
    exact (if_pos (releaseDone_of_idle hidle3 .dev s.nextId)).trans ht
  · exact ((((Still.takeId s).trans hstill1).trans hstill2).trans (.modWg _ _ _)).trans hstill

/-! ### LNCH -/

theorem mem_launchEffs {c : Iss} (hh : c.hel = none) {x : Opnd} {p n : Nat} {e : Eff} : e ∈ launchEffs c x p n ↔
    ∃ t ∈ c.tids, (∃ l, c.resolve t x 1 = .ok [l] ∧ e = .reg t l (BitVec.ofNat 32 n)) ∨ e = .pred t p true := by
  simp [launchEffs, List.mem_flatMap, Iss.mem_writeEffs_one hh]

theorem reg_mem_launchEffs {c : Iss} (hh : c.hel = none) {x : Opnd} {p n : Nat} (t : Nat) (l : RegLoc) (w : Word) : .reg t l w ∈ launchEffs c x p n ↔
    t ∈ c.tids ∧ c.resolve t x 1 = .ok [l] ∧ w = BitVec.ofNat 32 n := by
  rw [mem_launchEffs hh]
  constructor
  · rintro ⟨t', ht, ⟨l', hr, h⟩ | h⟩
    · cases h
      exact ⟨ht, hr, rfl⟩
    · cases h
  · rintro ⟨ht, hr, rfl⟩
    exact ⟨t, ht, .inl ⟨l, hr, rfl⟩⟩

theorem pred_mem_launchEffs {c : Iss} (hh : c.hel = none) {x : Opnd} {p n : Nat} (t q : Nat) (b : Bool) : .pred t q b ∈ launchEffs c x p n ↔
    t ∈ c.tids ∧ q = p ∧ b = true := by
  rw [mem_launchEffs hh]
  constructor
  · rintro ⟨t', ht, ⟨l', hr, h⟩ | h⟩
    · cases h
    · cases h
      exact ⟨ht, rfl, rfl⟩
  · rintro ⟨ht, rfl, rfl⟩
    exact ⟨t, ht, .inr rfl⟩

theorem Quiet.grids {s t : State} {core slot : Nat} (h : Quiet s t core slot) : t.grids = s.grids := (congrArg State.grids h.device.1 :)

theorem lnch_accepts {s s1 s2 : State} {c : Iss} {x a : Opnd} {p : Fin 64} {g : Bool} {bs : List Byte} {k : Kernel} {prio : Nat} {gr : Workgroup} {grid : Grid}
    (hc : s.iss = some c) (hclear : SeqClear s c false (c.tids.take 1) [(a, 2)] (some (x, 1))) (hq : (s.core c.core).lchQ = []) (hasked : c.asked = none)
    (hlow : LowGuard c g) (hsh : c.sharedWrite c.tids x 1 = false) (hroom : s.entriesOf c < 4) (hres : c.resumed = none)
    (hwait : s.loadsWait c (s.recordAccs c (c.first a 2) 128) = false) (hbusy : s.launchBusy c = false) (hfar : s.recordFar c (c.first a 2) 128 = none)
    (hread : s.readLaunch c (c.first a 2) false = .ok (s1, bs, k))
    (hgrid : grid = (LaunchRec.of (leNat bs)).grid s1 c.w.ctx k (s1.rootTag c.w).1 (s1.rootTag c.w).2 (.parent c.w.wg) (upto (LaunchRec.of (leNat bs)).nwg) true)
    (henq : s1.enqGrid ((s1.launchEngine c).getD 0) grid (.warp c.core c.slot s1.nextId) = (s2, some (some prio))) (hidle : EngineIdle s2 c)
    (hw : mget? s2.wgs c.w.wg = some gr) :
    ∃ t c', exec (.lnch x a p g) s = .next t ∧ t.issFor c.core c.slot c.who c.cost = some c' ∧ WentOn c c'.w c'.hel ∧
      (∃ gr', mget? t.wgs c.w.wg = some gr' ∧ gr'.issued = (gr.issued + 1) % 2 ^ 32 ∧ gr'.entries = gr.entries ++ [.grid s2.gridSeq]) ∧
      t.gridSeq = s2.gridSeq + 1 ∧ mget? t.grids s2.gridSeq = some (grid.accepted s2 prio) ∧
      ∀ th ∈ c.tids, c.holds c' th x 1 ((gr.issued + 1) % 2 ^ 32) ∧ (p ≠ 0 → c'.pred th p.val = true) := by
  have hh := hclear.no_helper
  have hseat := State.seated_of_iss hc
  obtain ⟨e, -, hwho, -, -⟩ := hseat.split_of_no_helper hh
  have hx := execLnch_acts (p := p) (g := g) hc hclear hq hasked fun _ => hbusy
  have hdecide : s.decideLaunch c (c.first a 2) = .ok (s2, grid, some prio) := by
    unfold State.decideLaunch
    rw [hread]
    simp only [Except.bind, ← hgrid, henq]
  have hact : lnchAct x a p g s c = s2.beginAccept c x p.val grid prio := by
    simp only [lnchAct, (c.guardLow_iff g).mpr hlow, hsh, hres, Nat.not_le.mpr hroom, hwait, hfar, hdecide, State.decidedLaunch, Bool.not_true, Bool.false_eq_true,
      if_false]
  obtain ⟨t, ht, hacc⟩ := State.beginAccept_eq (x := x) (p := p.val) (g := grid) (prio := prio) hidle hw
  rw [hact, ht] at hx
  have henq' := Still.enqGrid s1 ((s1.launchEngine c).getD 0) grid (.warp c.core c.slot s1.nextId)
  rw [henq] at henq'
  have hstill : Still s t := ((State.still_of_readLaunch hread).trans henq').trans hacc.still
  generalize hes : launchEffs c x p.val ((gr.issued + 1) % 2 ^ 32) = es at hx
  have hrest := Warp.rest_effs es c.w
  obtain ⟨c', _, hc', rfl, hn, hf, -, hwent⟩ := Seat.finish hseat hh ((hstill.seat c).trans (t.seat_effsBy hwho es)) (congrArg Warp.splits hrest :)
    (congrArg Warp.strands hrest :) [p.val]
  have hquiet := (t.quiet_effsBy c es).trans (State.quiet_finish _ c [p.val])
  refine ⟨_, c', hx, hc', hwent, ?_, hquiet.gridSeq.trans hacc.gridSeq, ?_, fun th hth => ⟨?_, fun hp => ?_⟩⟩
  · have hg := hquiet.device.2.1 c.w.wg
    rw [hacc.wg] at hg
    obtain ⟨gr', hgr', heq⟩ := Option.map_eq_some_iff.mp hg
    exact ⟨gr', hgr', (congrArg Workgroup.issued heq :), (congrArg Workgroup.entries heq :)⟩
  · rw [hquiet.grids]
    exact hacc.grid
  · exact holds_of_effs hh (fun t l w => hes ▸ reg_mem_launchEffs hh t l w) hf hth
  · refine pred_of_effs hn hf (fun h => hp (Fin.ext h)) (hes ▸ (pred_mem_launchEffs hh th p.val true).mpr ⟨hth, rfl, rfl⟩) fun u hu => ?_
    exact ((pred_mem_launchEffs hh th p.val u).mp (hes ▸ hu)).2.2

theorem lnch_skips {s : State} {c : Iss} {x a : Opnd} {p : Fin 64} {g : Bool} (hc : s.iss = some c)
    (hclear : SeqClear s c false (c.tids.take 1) [(a, 2)] (some (x, 1))) (hq : (s.core c.core).lchQ = []) (hasked : c.asked = none) (h : ¬ LowGuard c g) :
    CompletesWith (.lnch x a p g) s c Writes.none (fun _ _ => True) := by
  have hlow := c.guardLow_eq_false h
  refine completesWith_finish (ps := []) hc ((execLnch_acts hc hclear hq hasked fun hg => ?_).trans (congrArg Host.Outcome.next ?_))
  · rw [hlow] at hg
    cases hg
  · rw [lnchAct, hlow]
    rfl

theorem launchesAct : LaunchesAct := by
  intro s c hc hq hasked
  refine ⟨fun x a p g hclear => ⟨lnch_skips hc hclear hq hasked, fun hlow hsh => ⟨lnch_full hc hclear hq hasked hlow hsh, ?_⟩⟩,
    fun a g gr hclear hgr => ⟨join_skips hc hq hclear hgr, fun hlow hres hissued _ => ?_⟩, fun g hclear => lqw_completes hc hq hclear⟩
  · intro s1 s2 bs k prio gr hroom hres hwait hbusy hfar hread r grid henq hidle hw
    exact lnch_accepts hc hclear hq hasked hlow hsh hroom hres hwait hbusy hfar hread rfl henq hidle hw
  · obtain ⟨hgo, hpark⟩ := join_acts hc hq hclear hgr hlow hres hissued
    refine ⟨hgo, fun hd => ?_⟩
    obtain ⟨t, c', ht, hc', hmem, hst, ⟨hregs, hpreds, -, hlatches, -⟩, hp⟩ := hpark hd
    exact ⟨t, c', ht, hc', hmem, ParkedAs.resumed hp, hst, hregs, hpreds, hlatches⟩

/-- Settles O31: what the launch engine does at its turn, and how a command waits for its turn, its answer or its record. -/
theorem launches : Obligations.Launches := ⟨launchesAct, launchesWait⟩

end Sys2Proof.Machine

/-! SUPPORT. Fields of an instruction word (R43, R44, Table 2-1): what each layout of the encoder puts into a field the decoder reads back from
it, and each operand, code and number of an instruction is the value of its field. -/

namespace Sys2Proof

-- One theorem at a time: elaborated side by side, these would not fit the check's memory.
set_option Elab.async false

/-! ### Fields -/

theorem fld_lt (w lo len : Nat) : fld w lo len < 2 ^ len := Nat.mod_lt _ (Nat.two_pow_pos len)

/-- A field stands above the bits below it. -/
theorem mod_eq_fld_add (w lo len : Nat) : w % 2 ^ (lo + len) = fld w lo len * 2 ^ lo + w % 2 ^ lo := by
  rw [Nat.pow_add, Nat.mod_mul, fld, Nat.mul_comm, Nat.add_comm]

theorem bitNum_lt (b : Bool) : bitNum b < 2 := by cases b <;> decide

@[simp] theorem bitNum_bitOf (w lo : Nat) : bitNum (bitOf w lo) = fld w lo 1 := by
  have := fld_lt w lo 1
  simp only [bitOf, bitNum, beq_iff_eq]
  split <;> omega

@[simp] theorem bitNum_false : bitNum false = 0 := rfl

theorem bitOf_of_fld {w lo : Nat} {b : Bool} (h : fld w lo 1 = bitNum b) : bitOf w lo = b := by
  unfold bitOf
  rw [h]
  cases b <;> rfl

/-! ### Operands -/

@[simp] theorem opndNum_lt (o : Opnd) : opndNum o < 128 := by
  cases o <;> simp only [opndNum] <;> omega

@[simp] theorem opndOf_opndNum (o : Opnd) : opndOf (opndNum o) = o := by
  cases o with
  | win n => simp [opndNum, opndOf]
  | vz => rfl
  | latch k => revert k; decide
  | ix k => revert k; decide

theorem opndNum_opndOf {n : Nat} (h : n < 128) : opndNum (opndOf n) = n := by
  unfold opndOf
  split
  · rfl
  split
  · simp [opndNum, *]
  split <;> simp only [opndNum, Fin.ofNat] <;> omega

@[simp] theorem opndNum_opndOf_fld (w lo : Nat) : opndNum (opndOf (fld w lo 7)) = fld w lo 7 := opndNum_opndOf (fld_lt w lo 7)

@[simp] theorem holdNum_lt (h : Hold) : holdNum h < 4 := by
  cases h <;> simp only [holdNum] <;> omega

@[simp] theorem holdOf_holdNum (h : Hold) : holdOf (holdNum h) = h := by
  revert h; decide

@[simp] theorem holdNum_none : holdNum none = 0 := rfl

theorem holdNum_holdOf {n : Nat} (h : n < 4) : holdNum (holdOf n) = n := by
  revert n; decide

@[simp] theorem holdNum_holdOf_fld (w lo : Nat) : holdNum (holdOf (fld w lo 2)) = fld w lo 2 := holdNum_holdOf (fld_lt w lo 2)

@[simp] theorem predOf_val (p : Fin 64) : predOf p.val = p := Fin.ofNat_val_eq_self p

@[simp] theorem predOf_fld_val (w lo : Nat) : (predOf (fld w lo 6)).val = fld w lo 6 := Nat.mod_eq_of_lt (fld_lt w lo 6)

@[simp] theorem imm7_lt (m : BitVec 7) : m.toNat < 128 := m.isLt

@[simp] theorem imm9_lt (m : BitVec 9) : m.toNat < 512 := m.isLt

open scoped Fin.NatCast in
@[simp] theorem cast_val_mod {n : Nat} [NeZero n] (k : Fin n) : (Nat.cast (k.val % n) : Fin n) = k := by
  rw [Nat.mod_eq_of_lt k.isLt, Fin.cast_val_eq_self]

@[simp] theorem predOf_val_mod (p : Fin 64) : predOf (p.val % 64) = p := by
  rw [Nat.mod_eq_of_lt p.isLt, predOf_val]

/-! ### Codes -/

@[simp] theorem intCcOf_num (c : IntCc) : intCcOf (intCcNum c) = c := by cases c <;> rfl
@[simp] theorem fltCcOf_num (c : FltCc) : fltCcOf (fltCcNum c) = c := by cases c <;> rfl
@[simp] theorem elemOf_num (e : Elem) : elemOf (elemNum e) = some e := by cases e <;> rfl
@[simp] theorem rndOf_num (r : Rnd) : rndOf (rndNum r) = some r := by cases r <;> rfl
@[simp] theorem satOf_num (t : Sat) : satOf (satNum t) = some t := by cases t <;> rfl
@[simp] theorem classOf_num (c : TimingClass) : classOf (classNum c) = c := by cases c <;> rfl
@[simp] theorem specRegOf_num (r : SpecReg) : specRegOf (specRegNum r) = some r := by cases r <;> rfl
@[simp] theorem wideOf_num (d : WideFmt) : wideOf (wideNum d) = d := by cases d <;> rfl
@[simp] theorem narrowOf_num (d : NarrowFmt) : narrowOf (narrowNum d) = some d := by cases d <;> rfl
@[simp] theorem sideOf_num (d : NarrowSide) : sideOf (sideNum d) = d := by cases d <;> rfl
@[simp] theorem unpkKindOf_num (k : UnpkKind) : unpkKindOf (unpkKindNum k) = some k := by cases k <;> rfl
@[simp] theorem redOpOf_num (op : RedOp) : redOpOf (redOpNum op) = some op := by cases op <;> rfl
@[simp] theorem mWidthOf_num (k : MWidth) : mWidthOf (mWidthNum k) = some k := by cases k <;> rfl
@[simp] theorem narrowLoadOf_num (k : NarrowLoad) : narrowLoadOf (narrowLoadNum k) = k := by cases k <;> rfl
@[simp] theorem scopeOf_num (sc : Scope) : scopeOf (scopeNum sc) = some sc := by cases sc <;> rfl
@[simp] theorem pathOf_num (p : Path) : pathOf (pathNum p) = some p := by cases p <;> rfl

theorem intCcNum_lt (c : IntCc) : intCcNum c < 8 := by cases c <;> decide
theorem fltCcNum_lt (c : FltCc) : fltCcNum c < 8 := by cases c <;> decide
theorem elemNum_lt (e : Elem) : elemNum e < 16 := by cases e <;> decide
theorem rndNum_lt (r : Rnd) : rndNum r < 8 := by cases r <;> decide
theorem satNum_lt (t : Sat) : satNum t < 4 := by cases t <;> decide
theorem classNum_lt (c : TimingClass) : classNum c < 4 := by cases c <;> decide
theorem specRegNum_lt (r : SpecReg) : specRegNum r < 512 := by cases r <;> decide
theorem wideNum_lt (d : WideFmt) : wideNum d < 8 := by cases d <;> decide
theorem narrowNum_lt (d : NarrowFmt) : narrowNum d < 8 := by cases d <;> decide
theorem sideNum_lt (d : NarrowSide) : sideNum d < 4 := by cases d <;> decide
theorem unpkKindNum_lt (k : UnpkKind) : unpkKindNum k < 8 := by cases k <;> decide
theorem redOpNum_lt (op : RedOp) : redOpNum op < 128 := by cases op <;> decide
theorem mWidthNum_lt (k : MWidth) : mWidthNum k < 4 := by cases k <;> decide
theorem narrowLoadNum_lt (k : NarrowLoad) : narrowLoadNum k < 4 := by cases k <;> decide
theorem scopeNum_lt (sc : Scope) : scopeNum sc < 16 := by cases sc <;> decide
theorem pathNum_lt (p : Path) : pathNum p < 8 := by cases p <;> decide

theorem intCcNum_of {n : Nat} (h : n < 8) : intCcNum (intCcOf n) = n := by revert n; decide
theorem fltCcNum_of {n : Nat} (h : n < 8) : fltCcNum (fltCcOf n) = n := by revert n; decide
theorem classNum_of {n : Nat} (h : n < 4) : classNum (classOf n) = n := by revert n; decide
theorem narrowLoadNum_of {n : Nat} (h : n < 4) : narrowLoadNum (narrowLoadOf n) = n := by revert n; decide

theorem elemNum_of {n : Nat} {e : Elem} (h : elemOf n = some e) : elemNum e = n := by
  unfold elemOf at h
  split at h <;> cases h <;> rfl

theorem rndNum_of {n : Nat} {r : Rnd} (h : rndOf n = some r) : rndNum r = n := by
  unfold rndOf at h
  split at h <;> cases h <;> rfl

theorem satNum_of {n : Nat} {t : Sat} (h : satOf n = some t) : satNum t = n := by
  unfold satOf at h
  split at h <;> cases h <;> rfl

theorem specRegNum_of {n : Nat} {r : SpecReg} (h : specRegOf n = some r) : specRegNum r = n := by
  unfold specRegOf at h
  split at h <;> cases h <;> rfl

theorem unpkKindNum_of {n : Nat} {k : UnpkKind} (h : unpkKindOf n = some k) : unpkKindNum k = n := by
  unfold unpkKindOf at h
  split at h <;> cases h <;> rfl

theorem redOpNum_of {n : Nat} {op : RedOp} (h : redOpOf n = some op) : redOpNum op = n := by
  unfold redOpOf at h
  split at h <;> cases h <;> rfl

theorem mWidthNum_of {n : Nat} {k : MWidth} (h : mWidthOf n = some k) : mWidthNum k = n := by
  unfold mWidthOf at h
  split at h <;> cases h <;> rfl

theorem scopeNum_of {n : Nat} {sc : Scope} (h : scopeOf n = some sc) : scopeNum sc = n := by
  unfold scopeOf at h
  split at h <;> cases h <;> rfl

theorem pathNum_of {n : Nat} {p : Path} (h : pathOf n = some p) : pathNum p = n := by
  unfold pathOf at h
  split at h <;> cases h <;> rfl

/-- Table 2-5: the function field of a valid CVT is read back. -/
theorem cvtFnOf_num {fn : CvtFn} (h : cvtFnValid fn = true) : cvtFnOf (cvtFnNum fn) = some fn := by
  cases fn with
  | wide d s =>
    have hd := wideNum_lt d
    have hs := wideNum_lt s
    simp only [cvtFnOf, cvtFnNum, show (wideNum d * 8 + wideNum s) / 64 % 2 = 0 by omega, show (wideNum d * 8 + wideNum s) / 8 % 8 = wideNum d by omega,
      show (wideNum d * 8 + wideNum s) % 8 = wideNum s by omega, wideOf_num, if_true, Option.filter_some, h]
  | narrow d s =>
    have hd := narrowNum_lt d
    have hs := sideNum_lt s
    simp only [cvtFnOf, cvtFnNum, show (64 + narrowNum d * 8 + sideNum s) / 64 % 2 = 1 by omega,
      show (64 + narrowNum d * 8 + sideNum s) / 8 % 8 = narrowNum d by omega, show (64 + narrowNum d * 8 + sideNum s) / 4 % 2 = 0 by omega,
      show (64 + narrowNum d * 8 + sideNum s) % 4 = sideNum s by omega, narrowOf_num, sideOf_num, if_true, Nat.one_ne_zero, if_false, Option.filter_some, h]
  | widen d s =>
    have hd := narrowNum_lt s
    have hs := sideNum_lt d
    simp only [cvtFnOf, cvtFnNum, show (64 + narrowNum s * 8 + 4 + sideNum d) / 64 % 2 = 1 by omega,
      show (64 + narrowNum s * 8 + 4 + sideNum d) / 8 % 8 = narrowNum s by omega, show (64 + narrowNum s * 8 + 4 + sideNum d) / 4 % 2 = 1 by omega,
      show (64 + narrowNum s * 8 + 4 + sideNum d) % 4 = sideNum d by omega, narrowOf_num, sideOf_num, if_true, Nat.one_ne_zero, if_false, Option.filter_some, h]

theorem cvtFnNum_lt (fn : CvtFn) : cvtFnNum fn < 128 := by
  cases fn with
  | wide d s => have := wideNum_lt d; have := wideNum_lt s; simp only [cvtFnNum]; omega
  | narrow d s => have := narrowNum_lt d; have := sideNum_lt s; simp only [cvtFnNum]; omega
  | widen d s => have := sideNum_lt d; have := narrowNum_lt s; simp only [cvtFnNum]; omega

theorem all_cvtFnOf : ∀ n < 128, (cvtFnOf n).all (fun fn => cvtFnValid fn && cvtFnNum fn == n) = true := by decide

theorem cvtFnNum_of {n : Nat} {fn : CvtFn} (hn : n < 128) (h : cvtFnOf n = some fn) : cvtFnValid fn = true ∧ cvtFnNum fn = n := by
  have := all_cvtFnOf n hn
  rw [h] at this
  simpa using this

end Sys2Proof

/-! SUPPORT. The layouts of Table 2-1: the fields of a word that the encoder makes, and a word that is that of its fields. -/

namespace Sys2Proof

-- One theorem at a time: elaborated side by side, these would not fit the check's memory.
set_option Elab.async false

/-- The fields of a word of the R, X, M and E formats: seven bits at 25, 18, 11 and 4, two at 2, and g and u. -/
structure IsE (w op x a b fn : Nat) (g u : Bool) : Prop where
  op : fld w 25 7 = op
  x : fld w 18 7 = x
  a : fld w 11 7 = a
  b : fld w 4 7 = b
  fn : fld w 2 2 = fn
  g : fld w 1 1 = bitNum g
  u : fld w 0 1 = bitNum u

/-- The fields of a word of the I and S formats: as IsE, with the nine bits at 2 as one number. -/
structure IsS (w op x a imm : Nat) (g u : Bool) : Prop where
  op : fld w 25 7 = op
  x : fld w 18 7 = x
  a : fld w 11 7 = a
  imm : fld w 2 9 = imm
  g : fld w 1 1 = bitNum g
  u : fld w 0 1 = bitNum u

/-- The fields of a word of the C format. -/
structure IsC (w op p a b cc : Nat) (g u : Bool) : Prop where
  op : fld w 25 7 = op
  p : fld w 19 6 = p
  a : fld w 12 7 = a
  b : fld w 5 7 = b
  cc : fld w 2 3 = cc
  g : fld w 1 1 = bitNum g
  u : fld w 0 1 = bitNum u

section
variable {op x a b fn imm p cc : Nat} {g u : Bool}

theorem isE_encE (hop : op < 128) (hx : x < 128) (ha : a < 128) (hb : b < 128) (hfn : fn < 4) :
    encE op x a b fn g u < 2 ^ 32 ∧ IsE (encE op x a b fn g u) op x a b fn g u := by
  have hg := bitNum_lt g
  have hu := bitNum_lt u
  refine ⟨?_, ?_, ?_, ?_, ?_, ?_, ?_, ?_⟩
  all_goals simp only [fld, encE]; omega

theorem isS_encS (hop : op < 128) (hx : x < 128) (ha : a < 128) (himm : imm < 512) :
    encS op x a imm g u < 2 ^ 32 ∧ IsS (encS op x a imm g u) op x a imm g u := by
  have hg := bitNum_lt g
  have hu := bitNum_lt u
  refine ⟨?_, ?_, ?_, ?_, ?_, ?_, ?_⟩
  all_goals simp only [fld, encS]; omega

theorem isC_encPLog (hp : p < 64) (ha : a < 128) (hb : b < 128) (hcc : cc < 8) :
    encPLog cc p a b g u < 2 ^ 32 ∧ IsC (encPLog cc p a b g u) 0x04 p a b cc g u := by
  have hg := bitNum_lt g
  have hu := bitNum_lt u
  refine ⟨?_, ?_, ?_, ?_, ?_, ?_, ?_, ?_⟩
  all_goals simp only [fld, encPLog]; omega

theorem isC_encC (hop : op < 128) (hcc : cc < 8) (f : CmpForm) :
    encC op cc f < 2 ^ 32 ∧ IsC (encC op cc f) op f.p.val (opndNum f.a) (opndNum f.b) cc f.g f.u := by
  have hg := bitNum_lt f.g
  have hu := bitNum_lt f.u
  have ha := opndNum_lt f.a
  have hb := opndNum_lt f.b
  refine ⟨?_, ?_, ?_, ?_, ?_, ?_, ?_, ?_⟩
  all_goals simp only [fld, encC]; omega

variable {w : Nat}

/-- The parts of the fields that single instructions read. -/
theorem IsE.reads (h : IsE w op x a b fn g u) :
    fld w 29 3 = op / 16 ∧ fld w 24 1 = x / 64 ∧ fld w 20 5 = x / 4 ∧ fld w 19 1 = x / 2 % 2 ∧ fld w 18 1 = x % 2 ∧ fld w 18 2 = x % 4 ∧ fld w 18 6 = x % 64 ∧
    fld w 17 1 = a / 64 ∧ fld w 11 6 = a % 64 ∧ fld w 10 1 = b / 64 ∧ fld w 9 2 = b / 32 ∧ fld w 8 1 = b / 16 % 2 ∧ fld w 8 3 = b / 16 ∧
    fld w 7 4 = b / 8 ∧ fld w 4 3 = b % 8 ∧ fld w 4 4 = b % 16 ∧ fld w 4 6 = b % 64 ∧ fld w 2 6 = b % 16 * 4 + fn ∧ fld w 0 2 = 2 * bitNum g + bitNum u ∧
    bitOf w 1 = g ∧ bitOf w 0 = u ∧
    fld w 25 7 = op ∧ fld w 18 7 = x ∧ fld w 11 7 = a ∧ fld w 4 7 = b ∧ fld w 2 2 = fn ∧ fld w 1 1 = bitNum g ∧ fld w 0 1 = bitNum u := by
  obtain ⟨rfl, rfl, rfl, rfl, rfl, hg, hu⟩ := h
  refine ⟨?_, ?_, ?_, ?_, ?_, ?_, ?_, ?_, ?_, ?_, ?_, ?_, ?_, ?_, ?_, ?_, ?_, ?_, ?_, bitOf_of_fld hg, bitOf_of_fld hu, rfl, rfl, rfl, rfl, rfl, hg, hu⟩
  all_goals unfold fld at *; omega

theorem IsS.reads (h : IsS w op x a imm g u) :
    fld w 29 3 = op / 16 ∧ fld w 2 16 = a * 512 + imm ∧ fld w 17 1 = a / 64 ∧ fld w 14 3 = a / 8 % 8 ∧ fld w 11 3 = a % 8 ∧ fld w 11 6 = a % 64 ∧
    fld w 7 4 = imm / 32 ∧ fld w 6 5 = imm / 16 ∧ fld w 5 6 = imm / 8 ∧ fld w 4 1 = imm / 4 % 2 ∧ fld w 4 3 = imm / 4 % 8 ∧ fld w 4 7 = imm / 4 ∧
    fld w 2 2 = imm % 4 ∧ fld w 2 4 = imm % 16 ∧ fld w 2 5 = imm % 32 ∧ fld w 0 2 = 2 * bitNum g + bitNum u ∧ bitOf w 1 = g ∧ bitOf w 0 = u ∧
    fld w 25 7 = op ∧ fld w 18 7 = x ∧ fld w 11 7 = a ∧ fld w 2 9 = imm ∧ fld w 1 1 = bitNum g ∧ fld w 0 1 = bitNum u := by
  obtain ⟨rfl, rfl, rfl, rfl, hg, hu⟩ := h
  refine ⟨?_, ?_, ?_, ?_, ?_, ?_, ?_, ?_, ?_, ?_, ?_, ?_, ?_, ?_, ?_, ?_, bitOf_of_fld hg, bitOf_of_fld hu, rfl, rfl, rfl, rfl, hg, hu⟩
  all_goals unfold fld at *; omega

theorem IsC.reads (h : IsC w op p a b cc g u) :
    fld w 29 3 = op / 16 ∧ fld w 18 1 = a / 64 ∧ fld w 12 6 = a % 64 ∧ fld w 11 1 = b / 64 ∧ fld w 5 6 = b % 64 ∧ bitOf w 1 = g ∧ bitOf w 0 = u ∧
    fld w 25 7 = op ∧ fld w 19 6 = p ∧ fld w 12 7 = a ∧ fld w 5 7 = b ∧ fld w 2 3 = cc := by
  obtain ⟨rfl, rfl, rfl, rfl, rfl, hg, hu⟩ := h
  refine ⟨?_, ?_, ?_, ?_, ?_, bitOf_of_fld hg, bitOf_of_fld hu, rfl, rfl, rfl, rfl, rfl⟩
  all_goals unfold fld at *; omega

theorem IsE.eq (h : IsE w op x a b fn g u) (hw : w < 2 ^ 32) : encE op x a b fn g u = w := by
  obtain ⟨rfl, rfl, rfl, rfl, rfl, hg, hu⟩ := h
  have h25 := mod_eq_fld_add w 25 7
  have h18 := mod_eq_fld_add w 18 7
  have h11 := mod_eq_fld_add w 11 7
  have h4 := mod_eq_fld_add w 4 7
  have h2 := mod_eq_fld_add w 2 2
  have h1 := mod_eq_fld_add w 1 1
  have h0 := mod_eq_fld_add w 0 1
  unfold encE
  omega

theorem IsS.eq (h : IsS w op x a imm g u) (hw : w < 2 ^ 32) : encS op x a imm g u = w := by
  obtain ⟨rfl, rfl, rfl, rfl, hg, hu⟩ := h
  have h25 := mod_eq_fld_add w 25 7
  have h18 := mod_eq_fld_add w 18 7
  have h11 := mod_eq_fld_add w 11 7
  have h2 := mod_eq_fld_add w 2 9
  have h1 := mod_eq_fld_add w 1 1
  have h0 := mod_eq_fld_add w 0 1
  unfold encS
  omega

end

/-! ### The forms as layouts -/

theorem encR_eq_encE (op : Nat) (f : RForm) : encR op f = encE op (opndNum f.d) (opndNum f.a) (opndNum f.b) (holdNum f.h) f.g f.u := rfl
theorem encX_eq_encE (op fn : Nat) (f : XForm) : encX op fn f = encE op (opndNum f.d) (opndNum f.a) fn (holdNum f.h) f.g f.u := rfl
theorem encXp_eq_encE (op fn d a : Nat) (g u : Bool) : encXp op fn d a g u = encE op d a fn 0 g u := by
  unfold encXp encE
  omega
theorem encM_eq_encE (op k : Nat) (f : MForm) : encM op k f = encE op (opndNum f.d) (opndNum f.a) f.off.toNat k f.g f.u := rfl
theorem encI_eq_encS (op : Nat) (f : IForm) : encI op f = encS op (opndNum f.d) (opndNum f.a) f.imm.toNat f.g f.u := rfl
theorem encSh_eq_encS (op : Nat) (f : ShForm) : encSh op f = encS op (opndNum f.d) (opndNum f.a) f.c.val f.g f.u := rfl

theorem encScoped_eq_encE (op k sc : Nat) (f : ScopedForm) : encScoped op k sc f = encE op (opndNum f.d) (opndNum f.a) (sc * 8) k f.g f.u := by
  simp only [encScoped, encE]
  omega

theorem encShfl_eq_encE (form : Nat) (f : ShflForm) :
    encShfl form f = encE 0x55 (opndNum f.d) (opndNum f.a) (form * 32 + f.k.val / 4) (f.k.val % 4) f.g f.u := by
  have hk : f.k.val / 4 * 16 + f.k.val % 4 * 4 = f.k.val * 4 := by omega
  generalize f.k.val / 4 = q, f.k.val % 4 = r at hk ⊢
  unfold encShfl encE
  omega

theorem encL_eq_encS (op : Nat) (f : LForm) : encL op f = encS op (opndNum f.d) (f.imm.toNat / 512) (f.imm.toNat % 512) f.g f.u := by
  have himm : f.imm.toNat * 4 = f.imm.toNat / 512 * 2 ^ 11 + f.imm.toNat % 512 * 4 := by omega
  rw [encL, encS, himm, ← Nat.add_assoc]

end Sys2Proof

/-! PROOF. DecodeEncode: the decoder reads the fields that the encoder wrote, layout by layout. -/

namespace Sys2Proof

-- One theorem at a time: elaborated side by side, these would not fit the check's memory.
set_option Elab.async false

/-- A number is a word, and it decodes to an instruction. -/
def Decodes (n : Nat) (i : Instr) : Prop := n < 2 ^ 32 ∧ decodeNat n = .ok i

theorem Decodes.of_some {m n : Nat} {i : Instr} (hd : Decodes m i) (h : some m = some n) : Decodes n i := by
  cases h
  exact hd

theorem Decodes.of_eq_some {k m n : Nat} {i : Instr} (hd : Decodes m i) (he : k = m) (h : some k = some n) : Decodes n i := (he ▸ hd).of_some h

/-- The rows of Table 2-2, by the high three bits of the opcode. -/
def decodeRow (r w : Nat) : Except DecodeFail Instr :=
  match r with
  | 0 => decodeRow0 w
  | 1 => decodeRow1 w
  | 2 => decodeRow2 w
  | 3 => decodeRow3 w
  | 4 => decodeRow4 w
  | 5 => decodeRow5 w
  | 6 => decodeRow6 w
  | _ => decodeRow7 w

theorem decodeNat_eq_decodeRow (w : Nat) : decodeNat w = decodeRow (fld w 29 3) w := by
  unfold decodeNat decodeRow
  rfl

section
variable {op x a b fn imm p cc : Nat} {g u : Bool} {i : Instr}

theorem decodes_encE (hd : ∀ w, IsE w op x a b fn g u → decodeRow (op / 16) w = .ok i) (hop : op < 128 := by decide)
    (hx : x < 128 := by simp [Fin.val_lt_of_le]) (ha : a < 128 := by simp [Fin.val_lt_of_le])
    (hb : b < 128 := by simp [Fin.val_lt_of_le]) (hfn : fn < 4 := by simp [Fin.val_lt_of_le]) : Decodes (encE op x a b fn g u) i := by
  obtain ⟨hlt, h⟩ := isE_encE (g := g) (u := u) hop hx ha hb hfn
  refine ⟨hlt, ?_⟩
  rw [decodeNat_eq_decodeRow, h.reads.1, hd _ h]

theorem decodes_encS (hd : ∀ w, IsS w op x a imm g u → decodeRow (op / 16) w = .ok i) (hop : op < 128 := by decide)
    (hx : x < 128 := by simp [Fin.val_lt_of_le]) (ha : a < 128 := by simp [Fin.val_lt_of_le])
    (himm : imm < 512 := by simp [Fin.val_lt_of_le]) : Decodes (encS op x a imm g u) i := by
  obtain ⟨hlt, h⟩ := isS_encS (g := g) (u := u) hop hx ha himm
  refine ⟨hlt, ?_⟩
  rw [decodeNat_eq_decodeRow, h.reads.1, hd _ h]

theorem decodes_encPLog (hd : ∀ w, IsC w 0x04 p a b cc g u → decodeRow (0x04 / 16) w = .ok i) (hp : p < 64 := by simp [Fin.val_lt_of_le])
    (ha : a < 128 := by simp [Fin.val_lt_of_le]) (hb : b < 128 := by simp [Fin.val_lt_of_le]) (hcc : cc < 8 := by decide) : Decodes (encPLog cc p a b g u) i := by
  obtain ⟨hlt, h⟩ := isC_encPLog (g := g) (u := u) hp ha hb hcc
  refine ⟨hlt, ?_⟩
  rw [decodeNat_eq_decodeRow, h.reads.1, hd _ h]

theorem decodes_encR {f : RForm} (hd : ∀ w, fld w 25 7 = op → rFormOf w = f → decodeRow (op / 16) w = .ok i) (hop : op < 128 := by decide) :
    Decodes (encR op f) i := by
  rw [encR_eq_encE]
  refine decodes_encE (fun w h => hd w h.op ?_) hop
  simp only [rFormOf, h.reads, opndOf_opndNum, holdOf_holdNum]

theorem decodes_encX {f : XForm} (hd : ∀ w, IsE w op (opndNum f.d) (opndNum f.a) fn (holdNum f.h) f.g f.u → xFormOf w = f → decodeRow (op / 16) w = .ok i)
    (hop : op < 128 := by decide) (hfn : fn < 128 := by simp [Fin.val_lt_of_le]) : Decodes (encX op fn f) i := by
  rw [encX_eq_encE]
  refine decodes_encE (fun w h => hd w h ?_) hop (hb := hfn)
  simp only [xFormOf, h.reads, opndOf_opndNum, holdOf_holdNum]

theorem decodes_encC {f : CmpForm} (hd : ∀ w, fld w 25 7 = op → fld w 2 3 = cc → cmpFormOf w = f → decodeRow (op / 16) w = .ok i)
    (hop : op < 128 := by decide) (hcc : cc < 8) : Decodes (encC op cc f) i := by
  obtain ⟨hlt, h⟩ := isC_encC hop hcc f
  refine ⟨hlt, ?_⟩
  rw [decodeNat_eq_decodeRow, h.reads.1]
  refine hd _ h.op h.cc ?_
  simp only [cmpFormOf, h.reads, opndOf_opndNum, predOf_val]

theorem decodes_encScoped {f : ScopedForm} {k sc : Nat}
    (hd : ∀ w, fld w 25 7 = op → fld w 2 2 = k → fld w 7 4 = sc → fld w 4 3 = 0 → scopedFormOf w = f → decodeRow (op / 16) w = .ok i)
    (hk : k < 4) (hsc : sc < 16) (hop : op < 128 := by decide) : Decodes (encScoped op k sc f) i := by
  rw [encScoped_eq_encE]
  refine decodes_encE (fun w h => hd w h.op h.fn ?_ ?_ ?_) hop (hb := by omega) (hfn := hk)
  · simp [h.reads]
  · simp [h.reads]
  · simp [scopedFormOf, h.reads]

theorem decodes_encShfl {f : ShflForm} {form : Nat}
    (hd : ∀ w, fld w 25 7 = 0x55 → fld w 9 2 = form → fld w 8 1 = 0 → shflFormOf w = f → decodeRow (0x55 / 16) w = .ok i) (hform : form < 4 := by decide) :
    Decodes (encShfl form f) i := by
  rw [encShfl_eq_encE]
  refine decodes_encE (fun w h => hd w h.op ?_ ?_ ?_) (hb := by omega) (hfn := by omega)
  · simp only [h.reads]
    omega
  · simp only [h.reads]
    omega
  · have hk : (form * 32 + f.k.val / 4) % 16 * 4 + f.k.val % 4 = f.k.val := by omega
    simp only [shflFormOf, h.reads, hk, opndOf_opndNum, predOf_val]

theorem decodes_encL {f : LForm} (hd : ∀ w, fld w 25 7 = op → lFormOf w = f → decodeRow (op / 16) w = .ok i) (hop : op < 128 := by decide) :
    Decodes (encL op f) i := by
  have hparts := Nat.div_add_mod' f.imm.toNat 512
  have hhigh : f.imm.toNat / 512 < 128 := Nat.div_lt_of_lt_mul f.imm.isLt
  have hlow : f.imm.toNat % 512 < 512 := Nat.mod_lt _ (by decide)
  rw [encL_eq_encS]
  refine decodes_encS (fun w h => hd w h.op ?_) hop (ha := hhigh) (himm := hlow)
  simp [lFormOf, h.reads, hparts]

theorem decodes_encB {f : BForm}
    (hd : ∀ w, fld w 25 7 = op → fld w 19 6 = f.p.val → fld w 18 1 = bitNum f.n → fld w 0 1 = 0 → bFormOf w = f → decodeRow (op / 16) w = .ok i)
    (hop : op < 128 := by decide) : Decodes (encB op f) i := by
  have hn := bitNum_lt f.n
  have hoff := f.off.isLt
  have hlt : encB op f < 2 ^ 32 := by unfold encB; omega
  have h29 : fld (encB op f) 29 3 = op / 16 := by unfold fld encB; omega
  have h25 : fld (encB op f) 25 7 = op := by unfold fld encB; omega
  have h19 : fld (encB op f) 19 6 = f.p.val := by unfold fld encB; omega
  have h18 : fld (encB op f) 18 1 = bitNum f.n := by unfold fld encB; omega
  have h1 : fld (encB op f) 1 17 = f.off.toNat := by unfold fld encB; omega
  have h0 : fld (encB op f) 0 1 = 0 := by unfold fld encB; omega
  refine ⟨hlt, ?_⟩
  rw [decodeNat_eq_decodeRow, h29, hd _ h25 h19 h18 h0 ?_]
  simp [bFormOf, h19, bitOf_of_fld h18, h1]

end

/-! ### Instructions whose fields hold more than one operand -/

theorem decodes_unpk {k : UnpkKind} {e : Fin 8} (f : XForm) (hwf : e.val < unpkCount k) :
    Decodes (encX 0x53 (unpkKindNum k * 16 + e.val) f) (.unpk k e f) := by
  have hk := unpkKindNum_lt k
  have hkind : (unpkKindNum k * 16 + e.val) / 16 = unpkKindNum k := by omega
  have helem : e.val % 16 = e.val := by omega
  refine decodes_encX (fun w hw hf => ?_) (hfn := by omega)
  simp [decodeRow, decodeRow5.eq_def, hw.reads, hf, hkind, helem, hwf]

theorem decodes_stn (k : NarrowStore) {f : MForm} (hwf : noLatch f.d = true ∧ pairOk f.a = true) :
    Decodes (encM 0x63 (narrowStoreNum k) f) (.stn k f) := by
  have hk : narrowStoreNum k < 4 := by cases k <;> decide
  rw [encM_eq_encE]
  refine decodes_encE (hfn := hk) fun w hw => ?_
  cases k <;> simp [decodeRow, decodeRow6.eq_def, narrowStoreNum, mFormOf, hw.reads, okIf, hwf]

theorem decodes_fenceX (pa pb : Path) (sc : Scope) :
    Decodes (encS 0x71 1 (pathNum pa * 8 + pathNum pb) (scopeNum sc) false false) (.fenceX pa pb sc) := by
  have hsc := scopeNum_lt sc
  have ha := pathNum_lt pa
  have hb := pathNum_lt pb
  have hpa : (pathNum pa * 8 + pathNum pb) / 8 % 8 = pathNum pa := by omega
  have hpb : pathNum pb % 8 = pathNum pb := by omega
  have hlt : pathNum pa * 8 + pathNum pb < 64 := by omega
  refine decodes_encS (ha := by omega) (himm := by omega) fun w hw => ?_
  simp [decodeRow, decodeRow7.eq_def, hw.reads, okIf, hpa, hpb, hlt]

theorem decodes_maclr (k : Fin 4) (p : Fin 64) :
    Decodes (encS 0x7D 0 0 (p.val * 8 + k.val) false false) (.maclr k p) := by
  have hrel : (p.val * 8 + k.val) / 4 % 2 = 0 := by omega
  have hk : (p.val * 8 + k.val) % 4 = k.val % 4 := by omega
  have hp : (p.val * 8 + k.val) / 8 = p.val := by omega
  refine decodes_encS (himm := by omega) fun w hw => ?_
  simp [decodeRow, decodeRow7.eq_def, hw.reads, okIf, hrel, hk, hp]

theorem decodes_maclrRel (k : Fin 4) (p : Fin 64) :
    Decodes (encS 0x7D 0 0 (p.val * 8 + 4 + k.val) false false) (.maclrRel k p) := by
  have hrel : (p.val * 8 + 4 + k.val) / 4 % 2 = 1 := by omega
  have hk : (p.val * 8 + 4 + k.val) % 4 = k.val % 4 := by omega
  have hp : (p.val * 8 + 4 + k.val) / 8 = p.val := by omega
  refine decodes_encS (himm := by omega) fun w hw => ?_
  simp [decodeRow, decodeRow7.eq_def, hw.reads, okIf, hrel, hk, hp]

theorem decodes_ixadd (a : Opnd) (k : Fin 4) (m : BitVec 7) (g u : Bool) :
    Decodes (encS 0x03 0x13 (opndNum a) (m.toNat * 4 + k.val) g u) (.ixadd a k m g u) := by
  have hlt := m.isLt
  have hm : (m.toNat * 4 + k.val) / 4 = m.toNat := by omega
  have hk : (m.toNat * 4 + k.val) % 4 = k.val % 4 := by omega
  refine decodes_encS (himm := by omega) fun w hw => ?_
  simp [decodeRow, decodeRow0.eq_def, decodeSys, hw.reads, hm, hk]

theorem decodes_fmt (a : Opnd) (e : Elem) (r : Rnd) (t : Sat) :
    Decodes (encS 0x03 20 (opndNum a) (elemNum e * 32 + rndNum r * 4 + satNum t) false false) (.fmt a e r t) := by
  have he := elemNum_lt e
  have hr := rndNum_lt r
  have ht := satNum_lt t
  have hee : (elemNum e * 32 + rndNum r * 4 + satNum t) / 32 = elemNum e := by omega
  have hrr : (elemNum e * 32 + rndNum r * 4 + satNum t) / 4 % 8 = rndNum r := by omega
  have htt : (elemNum e * 32 + rndNum r * 4 + satNum t) % 4 = satNum t := by omega
  refine decodes_encS (himm := by omega) fun w hw => ?_
  simp [decodeRow, decodeRow0.eq_def, decodeSys, hw.reads, okIf, hee, hrr, htt]

theorem decodes_classHint (c : TimingClass) (k : Fin 8) :
    Decodes (encS 0x03 22 0 (k.val * 4 + classNum c) false false) (.classHint c k) := by
  have hc := classNum_lt c
  have hlt : k.val * 4 + classNum c < 32 := by omega
  have hk : (k.val * 4 + classNum c) / 4 % 8 = k.val % 8 := by omega
  have hcc : classNum c % 4 = classNum c := by omega
  refine decodes_encS (himm := by omega) fun w hw => ?_
  simp [decodeRow, decodeRow0.eq_def, decodeSys, hw.reads, okIf, hlt, hk, hcc]

theorem decodes_rdsr {d : Opnd} {r : SpecReg} (g u : Bool) (hwf : specOk r d = true) :
    Decodes (encI 0x06 { d := d, a := .win 0, imm := BitVec.ofNat 9 (specRegNum r), g := g, u := u }) (.rdsr d r g u) := by
  have hr : specRegNum r % 512 = specRegNum r := Nat.mod_eq_of_lt (specRegNum_lt r)
  have ha : opndNum (.win 0) = 0 := rfl
  rw [encI_eq_encS]
  refine decodes_encS (himm := BitVec.isLt _) fun w hw => ?_
  simp [decodeRow, decodeRow0.eq_def, hw.reads, okIf, hwf, hr, ha]

theorem decodes_brp {f : BForm} (hwf : f.p ≠ 0) :
    Decodes (encB 0x01 f) (.brp f) := by
  have hp : f.p.val ≠ 0 := fun h0 => hwf (Fin.ext h0)
  refine decodes_encB fun w hop hw hn h0 hf => ?_
  simp only [decodeRow, Nat.reduceDiv, decodeRow0.eq_def, hop, hw, h0, hf, hp, if_true, if_false]

theorem decodes_br (off : BitVec 17) :
    Decodes (encB 0x01 { p := 0, n := false, off := off }) (.br off) := by
  refine decodes_encB fun w hop hw hn h0 hf => ?_
  simp [decodeRow, decodeRow0.eq_def, hop, hw, hn, h0, hf]

theorem decodes_call {f : BForm} (hwf : f.p ≠ 0 ∨ f.n = false) :
    Decodes (encB 0x02 f) (.call f) := by
  have hp : f.p.val ≠ 0 ∨ bitNum f.n = 0 := hwf.imp (fun hne h0 => hne (Fin.ext h0)) fun hn => by rw [hn]; rfl
  refine decodes_encB fun w hop hw hn h0 hf => ?_
  simp only [decodeRow, Nat.reduceDiv, decodeRow0.eq_def, hop, hw, hn, h0, hf, bne_iff_ne, decide_eq_true_eq, Bool.and_eq_true, Bool.or_eq_true, hp, if_true, and_self, decide_true]

theorem decodes_waitc (c : BitVec 5) (l t : BitVec 6) (m : BitVec 4) :
    Decodes (0x05 * 2 ^ 25 + c.toNat * 2 ^ 18 + l.toNat * 2 ^ 12 + t.toNat * 2 ^ 6 + m.toNat * 4) (.waitc c l t m) := by
  have hc := c.isLt
  have hl := l.isLt
  have ht := t.isLt
  have hm := m.isLt
  generalize hw : 0x05 * 2 ^ 25 + c.toNat * 2 ^ 18 + l.toNat * 2 ^ 12 + t.toNat * 2 ^ 6 + m.toNat * 4 = w
  have h29 : fld w 29 3 = 0 := by unfold fld; omega
  have h25 : fld w 25 7 = 5 := by unfold fld; omega
  have h23 : fld w 23 2 = 0 := by unfold fld; omega
  have h18 : fld w 18 5 = c.toNat := by unfold fld; omega
  have h12 : fld w 12 6 = l.toNat := by unfold fld; omega
  have h6 : fld w 6 6 = t.toNat := by unfold fld; omega
  have h2 : fld w 2 4 = m.toNat := by unfold fld; omega
  have h0 : fld w 0 2 = 0 := by unfold fld; omega
  refine ⟨by omega, ?_⟩
  rw [decodeNat_eq_decodeRow, h29]
  simp [decodeRow, decodeRow0.eq_def, okIf, h25, h23, h18, h12, h6, h2, h0]

/-! ### Every encoded instruction -/

theorem decodes_encodeNat {i : Instr} {n : Nat} (hwf : i.wf = true) (h : encodeNat i = some n) : Decodes n i := by
  cases i with
  | add | sub | adds | subs | addsu | subsu | mul | mulh | mulhu | mad | divs | divu | rems | remu | min | max | minu | maxu | and | or | xor | shl
  | shr | shra | rol | fadd | fsub | fmul | ffma | fmin | fmax | fdiv | hadd2 | hmul2 | hfma2 | hadd2Bf | hmul2Bf | hfma2Bf | pack | shfl =>
    refine (decodes_encR fun w hop hf => ?_).of_some h
    simp only [decodeRow, Nat.reduceDiv, decodeRow0.eq_def, decodeRow1.eq_def, decodeRow2.eq_def, decodeRow3.eq_def, decodeRow4.eq_def, decodeRow5.eq_def, hop, hf]
  | mov | not | neg | abs | negs | abss | clz | popc | brev | frcp | frsq | fsqrt | fexp2 | flog2 | fclass =>
    refine (decodes_encX fun w hw hf => ?_).of_some h
    simp only [decodeRow, Nat.reduceDiv, decodeRow2.eq_def, decodeRow3.eq_def, hw.reads, hf]
  | cvt fn f =>
    simp only [Instr.wf, Bool.and_eq_true] at hwf
    refine (decodes_encX (hfn := cvtFnNum_lt fn) fun w hw hf => ?_).of_some h
    simp [decodeRow, decodeRow5.eq_def, hw.reads, hf, cvtFnOf_num, okIf, hwf]
  | redx op f =>
    simp only [Instr.wf] at hwf
    refine (decodes_encX (hfn := redOpNum_lt op) fun w hw hf => ?_).of_some h
    simp [decodeRow, decodeRow5.eq_def, hw.reads, hf, okIf, hwf]
  | unpk k e f => exact (decodes_unpk f (of_decide_eq_true hwf)).of_some h
  | addc | subb | lea | dadd | dmul | dfma =>
    simp only [Instr.wf, Bool.and_eq_true] at hwf
    refine (decodes_encE fun w hw => ?_).of_some h
    simp [decodeRow, decodeRow0.eq_def, decodeRow2.eq_def, decodeRow4.eq_def, pairR, pairFormOf, okIf, hw.reads, hwf]
  | sel =>
    refine (decodes_encE fun w hw => ?_).of_some h
    simp [decodeRow, decodeRow1.eq_def, selFormOf, hw.reads]
  | addi | andi | ori | xori | shli | shri | shrai =>
    refine (decodes_encS fun w hw => ?_).of_some h
    simp [decodeRow, decodeRow2.eq_def, iFormOf, shFormOf, imm9Of, hw.reads]
  | movl | movh =>
    refine (decodes_encL fun w hop hf => ?_).of_some h
    simp only [decodeRow, Nat.reduceDiv, decodeRow3.eq_def, hop, hf]
  | setp c f =>
    refine (decodes_encC (hcc := intCcNum_lt c) fun w hop hcc hf => ?_).of_some h
    simp only [decodeRow, Nat.reduceDiv, decodeRow2.eq_def, hop, hcc, hf, intCcOf_num]
  | fsetp c f =>
    refine (decodes_encC (hcc := fltCcNum_lt c) fun w hop hcc hf => ?_).of_some h
    simp only [decodeRow, Nat.reduceDiv, decodeRow4.eq_def, hop, hcc, hf, fltCcOf_num]
  | dsetp c f =>
    simp only [Instr.wf, Bool.and_eq_true] at hwf
    refine (decodes_encC (hcc := fltCcNum_lt c) fun w hop hcc hf => ?_).of_some h
    simp only [decodeRow, Nat.reduceDiv, decodeRow4.eq_def, hop, hcc, hf, fltCcOf_num, okIf, hwf, Bool.and_self, if_true]
  | shflu | shfld | shflx | bcast =>
    refine (decodes_encShfl fun w hop hform h0 hf => ?_).of_some h
    simp only [decodeRow, Nat.reduceDiv, decodeRow5.eq_def, hop, hform, h0, hf, if_true]
  | voteAll | voteAny =>
    refine (decodes_encE fun w hw => ?_).of_eq_some (encXp_eq_encE ..) h
    simp [decodeRow, decodeRow5.eq_def, voteFormOf, hw.reads, okIf]
  | voteBallot =>
    simp only [Instr.wf] at hwf
    refine (decodes_encE fun w hw => ?_).of_eq_some (encXp_eq_encE ..) h
    simp [decodeRow, decodeRow5.eq_def, ballotFormOf, hw.reads, okIf, hwf]
  | ld k f | st k f | lds k f | sts k f | ldp k f | stp k f =>
    simp only [Instr.wf, Bool.and_eq_true] at hwf
    refine (decodes_encE (hfn := mWidthNum_lt k) fun w hw => ?_).of_some h
    simp [decodeRow, decodeRow6.eq_def, mFormOf, hw.reads, okIf, hwf]
  | ldn k f =>
    simp only [Instr.wf, Bool.and_eq_true] at hwf
    refine (decodes_encE (hfn := narrowLoadNum_lt k) fun w hw => ?_).of_some h
    simp [decodeRow, decodeRow6.eq_def, mFormOf, hw.reads, okIf, hwf]
  | stn k f => exact (decodes_stn k (Bool.and_eq_true_iff.mp hwf)).of_some h
  | lda k sc f | stl k sc f =>
    simp only [Instr.wf, Bool.and_eq_true] at hwf
    refine (decodes_encScoped (hk := mWidthNum_lt k) (hsc := scopeNum_lt sc) fun w hop hk hsc h0 hf => ?_).of_some h
    simp [decodeRow, decodeRow6.eq_def, hop, hk, hsc, h0, hf, okIf, hwf]
  | qnt | dqnt | matchMask | atomAdd | atomIncw | atomExch | atomCas | atomMin | atomMax | atomMinu | atomMaxu | atomAnd | atomOr | atomXor
  | redAdd | redIncw | redMin | redMax | redMinu | redMaxu | redAnd | redOr | redXor | cpbG2s | cpbS2g | cpbm | cpbpG2s | cpbpS2s =>
    simp only [Instr.wf, Bool.and_eq_true] at hwf
    refine (decodes_encE fun w hw => ?_).of_some h
    simp [decodeRow, decodeRow5.eq_def, decodeRow6.eq_def, decodeRow7.eq_def, qFormOf, matchFormOf, atomFormOf, redFormOf, copyFormOf, hw.reads, okIf, hwf]
  | lnch | join | lqw | flnch | garr | gwait | gmem | fwr | frd | fsig | fatom | cpa16Bar | cpa16Nb | rcrt | rnext | rpart32 | rpart64 | rqry | mma
  | mmaZ | mscl | msclBand | maepi | mard | mardCol | wsbind | wstrm | wsqry | wsrel =>
    simp only [Instr.wf, Bool.and_eq_true] at hwf
    refine (decodes_encE fun w hw => ?_).of_some h
    simp [decodeRow, decodeRow5.eq_def, decodeRow7.eq_def, hw.reads, okIf, hwf]
  | rjoin op x p =>
    simp only [Instr.wf] at hwf
    refine (decodes_encE (hb := redOpNum_lt op) fun w hw => ?_).of_some h
    simp [decodeRow, decodeRow7.eq_def, hw.reads, okIf, hwf]
  | mmap k | mmapZ k =>
    simp only [Instr.wf, Bool.and_eq_true] at hwf
    have hk : 2 * k.val < 4 := by omega
    refine (decodes_encE (hx := by omega) fun w hw => ?_).of_some h
    simp [decodeRow, decodeRow7.eq_def, hw.reads, okIf, hwf, hk]
  | rlse =>
    refine (decodes_encE fun w hw => ?_).of_some h
    simp [decodeRow, decodeRow7.eq_def, hw.reads, okIf]
  | fence sc =>
    have hsc := scopeNum_lt sc
    refine (decodes_encS (himm := by omega) fun w hw => ?_).of_some h
    simp [decodeRow, decodeRow7.eq_def, hw.reads, okIf]
  | fenceX pa pb sc => exact (decodes_fenceX pa pb sc).of_some h
  | cinv | cwbWcb | cwbPriv | bara | barw | barx =>
    refine (decodes_encS fun w hw => ?_).of_some h
    simp [decodeRow, decodeRow7.eq_def, hw.reads, okIf]
  | cinvAddr | prefL2 | prefL1 | bari | barc | barq | mstat | mtest =>
    simp only [Instr.wf] at hwf
    refine (decodes_encS fun w hw => ?_).of_some h
    simp [decodeRow, decodeRow7.eq_def, hw.reads, okIf, hwf]
  | maclr k p => exact (decodes_maclr k p).of_some h
  | maclrRel k p => exact (decodes_maclrRel k p).of_some h
  | nop | yield | bkpt | trap | rft | exit | ret | reconv | guard | guardn | elect | mwait | fenceb | waitb | wbase | ixset | sclr | snap =>
    refine (decodes_encS fun w hw => ?_).of_some h
    simp [decodeRow, decodeRow0.eq_def, decodeSys, imm9Of, hw.reads, okIf]
  | bri | calli | marm =>
    simp only [Instr.wf] at hwf
    refine (decodes_encS fun w hw => ?_).of_some h
    simp [decodeRow, decodeRow0.eq_def, decodeSys, hw.reads, okIf, hwf]
  | wrsr a r =>
    simp only [Instr.wf, Bool.and_eq_true] at hwf
    refine (decodes_encS (himm := specRegNum_lt r) fun w hw => ?_).of_some h
    simp [decodeRow, decodeRow0.eq_def, decodeSys, hw.reads, okIf, hwf]
  | ixadd a k m => exact (decodes_ixadd a k m _ _).of_some h
  | fmt a e r t => exact (decodes_fmt a e r t).of_some h
  | classHint c k => exact (decodes_classHint c k).of_some h
  | rdsr d r => exact (decodes_rdsr _ _ hwf).of_some h
  | pand | por | pxor | pnot | pmov =>
    refine (decodes_encPLog fun w hw => ?_).of_some h
    simp [decodeRow, decodeRow0.eq_def, pLogFormOf, pUnFormOf, hw.reads, okIf]
  | brp f => exact (decodes_brp (bne_iff_ne.mp hwf)).of_some h
  | br off => exact (decodes_br off).of_some h
  | call f => exact (decodes_call (by simpa [Instr.wf] using hwf)).of_some h
  | waitc c l t m => exact (decodes_waitc c l t m).of_some h
  | _ => cases h

/-- Settles O56: each layout's fields are read back as they were put in, and the row of the opcode makes the instruction of them. -/
theorem decodeEncode : Obligations.DecodeEncode := by
  intro i w hwf h
  obtain ⟨n, hn, rfl⟩ := Option.map_eq_some_iff.mp h
  obtain ⟨hlt, hd⟩ := decodes_encodeNat hwf hn
  rwa [decode, BitVec.toNat_ofNat, Nat.mod_eq_of_lt hlt]

end Sys2Proof

/-! PROOF. EncodeDecode: a word that decodes is the word of its fields. -/

namespace Sys2Proof

-- One theorem at a time: elaborated side by side, these would not fit the check's memory.
set_option Elab.async false

/-! ### The word of its fields -/

/-- A field is that of its high bits and that of its low bits. -/
theorem fld_eq_add (w lo m n : Nat) : fld w lo (m + n) = fld w (lo + m) n * 2 ^ m + fld w lo m := by
  rw [fld, Nat.pow_add, Nat.mod_mul, Nat.div_div_eq_div_mul, ← Nat.pow_add, Nat.mul_comm, Nat.add_comm]
  rfl

theorem fld_eq_low {w lo m : Nat} (n : Nat) (h : fld w (lo + m) n = 0) : fld w lo (m + n) = fld w lo m := by
  rw [fld_eq_add, h, Nat.zero_mul, Nat.zero_add]

@[simp] theorem fld_mod {m : Nat} (w lo len : Nat) (h : 2 ^ len = m) : fld w lo len % m = fld w lo len :=
  h ▸ Nat.mod_eq_of_lt (fld_lt w lo len)

@[simp] theorem imm9Of_toNat (w : Nat) : (imm9Of w).toNat = fld w 2 9 := Nat.mod_eq_of_lt (fld_lt w 2 9)

@[simp] theorem intCcNum_of_fld (w lo : Nat) : intCcNum (intCcOf (fld w lo 3)) = fld w lo 3 := intCcNum_of (fld_lt w lo 3)
@[simp] theorem fltCcNum_of_fld (w lo : Nat) : fltCcNum (fltCcOf (fld w lo 3)) = fld w lo 3 := fltCcNum_of (fld_lt w lo 3)
@[simp] theorem classNum_of_fld (w lo : Nat) : classNum (classOf (fld w lo 2)) = fld w lo 2 := classNum_of (fld_lt w lo 2)
@[simp] theorem narrowLoadNum_of_fld (w lo : Nat) : narrowLoadNum (narrowLoadOf (fld w lo 2)) = fld w lo 2 := narrowLoadNum_of (fld_lt w lo 2)

theorem fld_eq_three {w lo : Nat} (h0 : fld w lo 2 ≠ 0) (h1 : fld w lo 2 ≠ 1) (h2 : fld w lo 2 ≠ 2) : fld w lo 2 = 3 := by
  have hlt : fld w lo 2 < 4 := fld_lt w lo 2
  omega

theorem predOf_ne_zero {w lo : Nat} (h : fld w lo 6 ≠ 0) : predOf (fld w lo 6) ≠ 0 := fun h0 => h (predOf_fld_val w lo ▸ congrArg Fin.val h0)

theorem fld_0_2_eq_zero {w : Nat} : fld w 0 2 = 0 ↔ fld w 1 1 = 0 ∧ fld w 0 1 = 0 := by
  unfold fld
  omega

section
variable {w op x a b fn imm : Nat} {g u : Bool}

theorem encE_eq (hw : w < 2 ^ 32) (hop : fld w 25 7 = op) (hx : fld w 18 7 = x := by simp [*]) (ha : fld w 11 7 = a := by simp [*])
    (hb : fld w 4 7 = b := by simp [*]) (hfn : fld w 2 2 = fn := by simp [*]) (hg : fld w 1 1 = bitNum g := by simp [*])
    (hu : fld w 0 1 = bitNum u := by simp [*]) : encE op x a b fn g u = w :=
  IsE.eq ⟨hop, hx, ha, hb, hfn, hg, hu⟩ hw

theorem encS_eq (hw : w < 2 ^ 32) (hop : fld w 25 7 = op) (hx : fld w 18 7 = x := by simp [*]) (ha : fld w 11 7 = a := by simp [*])
    (himm : fld w 2 9 = imm := by simp [*]) (hg : fld w 1 1 = bitNum g := by simp [*]) (hu : fld w 0 1 = bitNum u := by simp [*]) :
    encS op x a imm g u = w :=
  IsS.eq ⟨hop, hx, ha, himm, hg, hu⟩ hw

theorem encR_eq (hw : w < 2 ^ 32) (hop : fld w 25 7 = op) : encR op (rFormOf w) = w := by
  rw [encR_eq_encE, rFormOf]
  exact encE_eq hw hop

theorem encPair_eq (hw : w < 2 ^ 32) (hop : fld w 25 7 = op) (hh : fld w 2 2 = 0 := by simp [*]) : encPair op (pairFormOf w) = w := by
  rw [encPair, encR_eq_encE, pairFormOf]
  exact encE_eq hw hop

theorem encSel_eq (hw : w < 2 ^ 32) (hop : fld w 25 7 = op) (hg : fld w 1 1 = 0) : encSel op (selFormOf w) = w := by
  rw [encSel, encR_eq_encE, selFormOf]
  exact encE_eq hw hop

theorem encX_eq (hw : w < 2 ^ 32) (hop : fld w 25 7 = op) (hfn : fld w 4 7 = fn) : encX op fn (xFormOf w) = w := by
  rw [encX_eq_encE, xFormOf]
  exact encE_eq hw hop

theorem encM_eq (hw : w < 2 ^ 32) (hop : fld w 25 7 = op) (hfn : fld w 2 2 = fn) : encM op fn (mFormOf w) = w := by
  rw [encM_eq_encE, mFormOf]
  exact encE_eq hw hop

theorem encAtom_eq (hw : w < 2 ^ 32) (hop : fld w 25 7 = op) (hfn : fld w 2 2 = fn) :
    encE op (opndNum (atomFormOf w).x) (opndNum (atomFormOf w).a) (opndNum (atomFormOf w).b) fn (atomFormOf w).g (atomFormOf w).u = w := by
  simp only [atomFormOf]
  exact encE_eq hw hop

theorem encRed_eq (hw : w < 2 ^ 32) (hop : fld w 25 7 = op) (hfn : fld w 2 2 = fn) (hx : fld w 18 7 = 0 := by simp [*]) :
    encE op 0 (opndNum (redFormOf w).a) (opndNum (redFormOf w).b) fn (redFormOf w).g (redFormOf w).u = w := by
  simp only [redFormOf]
  exact encE_eq hw hop

theorem encCopy_eq (hw : w < 2 ^ 32) (hop : fld w 25 7 = op) (hfn : fld w 2 2 = fn) (hu : fld w 0 1 = 0 := by simp [*]) :
    encE op (opndNum (copyFormOf w).x) (opndNum (copyFormOf w).a) (opndNum (copyFormOf w).b) fn (copyFormOf w).g false = w := by
  simp only [copyFormOf]
  exact encE_eq hw hop

theorem encI_eq (hw : w < 2 ^ 32) (hop : fld w 25 7 = op) : encI op (iFormOf w) = w := by
  rw [encI_eq_encS, iFormOf, imm9Of]
  exact encS_eq hw hop

theorem encSh_eq (hw : w < 2 ^ 32) (hop : fld w 25 7 = op) (h7 : fld w 7 4 = 0) : encSh op (shFormOf w) = w := by
  have himm : fld w 2 9 = fld w 7 4 * 2 ^ 5 + fld w 2 5 := fld_eq_add w 2 5 4
  rw [encSh_eq_encS, shFormOf]
  exact encS_eq hw hop (himm := by simpa [h7] using himm)

theorem encScoped_eq {k sc : Nat} (hw : w < 2 ^ 32) (hop : fld w 25 7 = op) (hk : fld w 2 2 = k) (hsc : fld w 7 4 = sc) (h4 : fld w 4 3 = 0) :
    encScoped op k sc (scopedFormOf w) = w := by
  have hb : fld w 4 7 = fld w 7 4 * 2 ^ 3 + fld w 4 3 := fld_eq_add w 4 3 4
  rw [encScoped_eq_encE, scopedFormOf]
  exact encE_eq hw hop (hb := by simpa [h4, hsc] using hb)

theorem encL_eq (hw : w < 2 ^ 32) (hop : fld w 25 7 = op) : encL op (lFormOf w) = w := by
  have ha : fld w 2 16 = fld w 11 7 * 2 ^ 9 + fld w 2 9 := fld_eq_add w 2 9 7
  have himm := fld_lt w 2 9
  rw [encL_eq_encS, lFormOf]
  exact encS_eq hw hop (ha := by simp; omega) (himm := by simp; omega)

theorem encShfl_eq {form : Nat} (hw : w < 2 ^ 32) (hop : fld w 25 7 = 0x55) (hform : fld w 9 2 = form) (h8 : fld w 8 1 = 0) :
    encShfl form (shflFormOf w) = w := by
  have hb : fld w 4 7 = fld w 8 3 * 2 ^ 4 + fld w 4 4 := fld_eq_add w 4 4 3
  have hbb : fld w 8 3 = fld w 9 2 * 2 ^ 1 + fld w 8 1 := fld_eq_add w 8 1 2
  have hk : fld w 2 6 = fld w 4 4 * 2 ^ 2 + fld w 2 2 := fld_eq_add w 2 2 4
  have hfn := fld_lt w 2 2
  rw [encShfl_eq_encE, shflFormOf]
  exact encE_eq hw hop (hb := by simp; omega) (hfn := by simp; omega)

theorem encB_eq {f : BForm} (hw : w < 2 ^ 32) (hop : fld w 25 7 = op) (h0 : fld w 0 1 = 0) (hp : fld w 19 6 = f.p.val := by simp [bFormOf, *])
    (hn : fld w 18 1 = bitNum f.n := by simp [bFormOf, *]) (hoff : fld w 1 17 = f.off.toNat := by simp [bFormOf, *]) : encB op f = w := by
  have h25 := mod_eq_fld_add w 25 7
  have h19 := mod_eq_fld_add w 19 6
  have h18 := mod_eq_fld_add w 18 1
  have h1 := mod_eq_fld_add w 1 17
  have h00 := mod_eq_fld_add w 0 1
  unfold encB
  omega

theorem encC_eq {cc : Nat} (hw : w < 2 ^ 32) (hop : fld w 25 7 = op) (hcc : fld w 2 3 = cc) : encC op cc (cmpFormOf w) = w := by
  have h25 := mod_eq_fld_add w 25 7
  have h19 := mod_eq_fld_add w 19 6
  have h12 := mod_eq_fld_add w 12 7
  have h5 := mod_eq_fld_add w 5 7
  have h2 := mod_eq_fld_add w 2 3
  have h1 := mod_eq_fld_add w 1 1
  have h0 := mod_eq_fld_add w 0 1
  simp only [encC, cmpFormOf, predOf_fld_val, opndNum_opndOf_fld, bitNum_bitOf]
  omega

theorem encPLog_eq {cc p q r : Nat} (hw : w < 2 ^ 32) (hop : fld w 25 7 = 0x04) (hcc : fld w 2 3 = cc)
    (hp : fld w 19 6 = p := by simp [pLogFormOf, pUnFormOf, *]) (hq : fld w 12 7 = q := by simp [pLogFormOf, pUnFormOf, *])
    (hr : fld w 5 7 = r := by simp [pLogFormOf, pUnFormOf, *]) : encPLog cc p q r (bitOf w 1) (bitOf w 0) = w := by
  have h25 := mod_eq_fld_add w 25 7
  have h19 := mod_eq_fld_add w 19 6
  have h12 := mod_eq_fld_add w 12 7
  have h5 := mod_eq_fld_add w 5 7
  have h2 := mod_eq_fld_add w 2 3
  have h1 := mod_eq_fld_add w 1 1
  have h0 := mod_eq_fld_add w 0 1
  simp only [encPLog, bitNum_bitOf]
  omega

theorem encWaitc_eq (hw : w < 2 ^ 32) (hop : fld w 25 7 = 0x05) (h23 : fld w 23 2 = 0) (h0 : fld w 0 2 = 0) :
    0x05 * 2 ^ 25 + fld w 18 5 * 2 ^ 18 + fld w 12 6 * 2 ^ 12 + fld w 6 6 * 2 ^ 6 + fld w 2 4 * 4 = w := by
  have h25 := mod_eq_fld_add w 25 7
  have h233 := mod_eq_fld_add w 23 2
  have h18 := mod_eq_fld_add w 18 5
  have h12 := mod_eq_fld_add w 12 6
  have h6 := mod_eq_fld_add w 6 6
  have h2 := mod_eq_fld_add w 2 4
  have h00 := mod_eq_fld_add w 0 2
  omega

end

/-- A word encodes the well-formed instruction that a decoding of it gives. -/
def Encodes (w : Nat) (r : Except DecodeFail Instr) : Prop := ∀ i, r = .ok i → i.wf = true ∧ encodeNat i = some w

theorem Encodes.error {w : Nat} (e : DecodeFail) : Encodes w (.error e) := fun _ h => nomatch h

theorem Encodes.ok {w : Nat} {i : Instr} (hwf : i.wf = true) (henc : encodeNat i = some w) : Encodes w (.ok i) := by
  rintro _ ⟨⟩
  exact ⟨hwf, henc⟩

theorem Encodes.okIf {w op : Nat} {c : Bool} {i : Instr} (h : c = true → i.wf = true ∧ encodeNat i = some w) : Encodes w (okIf c op i) := by
  intro j hj
  unfold Sys2Proof.okIf at hj
  split at hj
  · cases hj
    exact h ‹_›
  · cases hj

/-! ### The rows of Table 2-2 -/

section
variable {w : Nat}

theorem encodes_decodeRow1 (hw : w < 2 ^ 32) : Encodes w (decodeRow1 w) := by
  unfold decodeRow1
  split
  case h_16 hop =>
    split
    · exact .ok rfl (congrArg some (encSel_eq hw hop ‹_›))
    · exact .error _
  case h_17 => exact .error _
  all_goals exact .ok rfl (congrArg some (encR_eq hw ‹_›))

theorem encodes_decodeRow2 (hw : w < 2 ^ 32) : Encodes w (decodeRow2 w) := by
  unfold decodeRow2
  split
  case h_1 | h_2 | h_3 | h_4 => exact .ok rfl (congrArg some (encR_eq hw ‹_›))
  case h_5 hop =>
    refine .okIf fun hc => ?_
    simp only [Bool.and_eq_true, decide_eq_true_eq] at hc
    exact ⟨by simp [Instr.wf, hc], congrArg some (encPair_eq hw hop)⟩
  case h_6 hop =>
    split
    case h_10 => exact .error _
    all_goals exact .ok rfl (congrArg some (encX_eq hw hop ‹_›))
  case h_7 hop => exact .ok rfl (congrArg some (encC_eq hw hop (intCcNum_of_fld w 2).symm))
  case h_8 | h_9 | h_10 | h_11 => exact .ok rfl (congrArg some (encI_eq hw ‹_›))
  case h_12 hop | h_13 hop | h_14 hop =>
    split
    · exact .ok rfl (congrArg some (encSh_eq hw hop ‹_›))
    · exact .error _
  case h_15 => exact .error _

theorem encodes_decodeRow3 (hw : w < 2 ^ 32) : Encodes w (decodeRow3 w) := by
  unfold decodeRow3
  split
  case h_1 | h_2 => exact .ok rfl (congrArg some (encL_eq hw ‹_›))
  case h_10 hop =>
    split
    case h_7 => exact .error _
    all_goals exact .ok rfl (congrArg some (encX_eq hw hop ‹_›))
  case h_11 => exact .error _
  all_goals exact .ok rfl (congrArg some (encR_eq hw ‹_›))

theorem encodes_decodeRow4 (hw : w < 2 ^ 32) : Encodes w (decodeRow4 w) := by
  unfold decodeRow4
  split
  case h_1 hop | h_2 hop | h_3 hop =>
    refine .okIf fun hc => ?_
    simp only [Bool.and_eq_true, decide_eq_true_eq] at hc
    exact ⟨by simp [Instr.wf, hc], congrArg some (encPair_eq hw hop)⟩
  case h_4 hop => exact .ok rfl (congrArg some (encC_eq hw hop (fltCcNum_of_fld w 2).symm))
  case h_5 hop => exact .okIf fun hc => ⟨hc, congrArg some (encC_eq hw hop (fltCcNum_of_fld w 2).symm)⟩
  case h_12 => exact .error _
  all_goals exact .ok rfl (congrArg some (encR_eq hw ‹_›))

theorem encodes_decodeSys (hw : w < 2 ^ 32) (hop : fld w 25 7 = 0x03) : Encodes w (decodeSys w) := by
  unfold decodeSys
  split
  case h_1 | h_2 | h_3 | h_4 | h_5 | h_6 | h_7 | h_8 | h_16 | h_24 | h_25 | h_9 | h_10 | h_15 | h_17 | h_18 =>
    refine .okIf fun hc => ?_
    simp only [Bool.and_eq_true, decide_eq_true_eq, fld_0_2_eq_zero] at hc
    exact ⟨by simp [Instr.wf, hc], congrArg some (encS_eq hw hop)⟩
  case h_11 | h_12 | h_13 =>
    have ha : fld w 11 7 = fld w 17 1 * 2 ^ 6 + fld w 11 6 := fld_eq_add w 11 6 1
    refine .okIf fun hc => ?_
    simp only [Bool.and_eq_true, decide_eq_true_eq, fld_0_2_eq_zero] at hc
    exact ⟨rfl, congrArg some (encS_eq hw hop)⟩
  case h_14 | h_19 =>
    have himm : fld w 2 9 = fld w 4 7 * 2 ^ 2 + fld w 2 2 := fld_eq_add w 2 2 7
    refine .okIf fun hc => ?_
    simp only [Bool.and_eq_true, decide_eq_true_eq, fld_0_2_eq_zero] at hc
    exact ⟨by simp [Instr.wf, hc], congrArg some (encS_eq hw hop)⟩
  case h_20 =>
    have himm : fld w 2 9 = fld w 4 7 * 2 ^ 2 + fld w 2 2 := fld_eq_add w 2 2 7
    exact .ok rfl (congrArg some (encS_eq hw hop))
  case h_21 =>
    have himm : fld w 2 9 = fld w 4 7 * 2 ^ 2 + fld w 2 2 := fld_eq_add w 2 2 7
    have hhigh : fld w 4 7 = fld w 7 4 * 2 ^ 3 + fld w 4 3 := fld_eq_add w 4 3 4
    split
    case h_1 e r t he hr ht =>
      refine .okIf fun hc => ?_
      simp only [decide_eq_true_eq, fld_0_2_eq_zero] at hc
      have hnum : fld w 2 9 = elemNum e * 32 + rndNum r * 4 + satNum t := by
        rw [elemNum_of he, rndNum_of hr, satNum_of ht]
        omega
      exact ⟨rfl, congrArg some (encS_eq hw hop (himm := hnum))⟩
    case h_2 => exact .error _
  case h_22 =>
    split
    case h_1 r hr =>
      exact .okIf fun hc => ⟨hc, congrArg some (encS_eq hw hop (himm := (specRegNum_of hr).symm))⟩
    case h_2 => exact .error _
  case h_23 =>
    have himm : fld w 2 9 = fld w 4 7 * 2 ^ 2 + fld w 2 2 := fld_eq_add w 2 2 7
    have hhigh : fld w 4 7 = fld w 7 4 * 2 ^ 3 + fld w 4 3 := fld_eq_add w 4 3 4
    refine .okIf fun hc => ?_
    simp only [Bool.and_eq_true, decide_eq_true_eq, fld_0_2_eq_zero] at hc
    exact ⟨rfl, congrArg some (encS_eq hw hop)⟩
  case h_26 => exact .error _

theorem encodes_decodeRow0 (hw : w < 2 ^ 32) : Encodes w (decodeRow0 w) := by
  unfold decodeRow0
  split
  case h_1 hop =>
    split
    case isFalse => exact .error _
    split
    case isFalse hp =>
      exact .ok (bne_iff_ne.mpr (predOf_ne_zero hp)) (congrArg some (encB_eq hw hop ‹_›))
    split
    · exact .ok rfl (congrArg some (encB_eq hw hop ‹_›))
    · exact .error _
  case h_2 hop =>
    split
    case isFalse => exact .error _
    case isTrue hc =>
      simp only [Bool.and_eq_true, Bool.or_eq_true, bne_iff_ne, decide_eq_true_eq] at hc
      obtain ⟨h0, hp⟩ := hc
      refine .ok (Bool.or_eq_true_iff.mpr (hp.imp (fun hp => bne_iff_ne.mpr (predOf_ne_zero hp)) fun hn => ?_)) (congrArg some (encB_eq hw hop h0))
      exact Bool.not_eq_true' _ ▸ bitOf_of_fld hn
  case h_3 hop => exact encodes_decodeSys hw hop
  case h_4 hop =>
    split
    case h_6 => exact .error _
    all_goals
      refine .okIf fun hc => ?_
      simp only [Bool.and_eq_true, decide_eq_true_eq] at hc
      obtain ⟨h18, hr⟩ := hc
      have hq : fld w 12 7 = fld w 12 6 := fld_eq_low 1 h18
    case h_4 | h_5 => exact ⟨rfl, congrArg some (encPLog_eq hw hop ‹_›)⟩
    all_goals
      have hr : fld w 5 7 = fld w 5 6 := fld_eq_low 1 hr
      exact ⟨rfl, congrArg some (encPLog_eq hw hop ‹_›)⟩
  case h_5 hop =>
    refine .okIf fun hc => ?_
    simp only [Bool.and_eq_true, decide_eq_true_eq] at hc
    obtain ⟨h23, h0⟩ := hc
    exact ⟨rfl, congrArg some (by simpa using encWaitc_eq hw hop h23 h0)⟩
  case h_6 hop =>
    split
    case h_1 r hr =>
      refine .okIf fun hc => ?_
      simp only [Bool.and_eq_true, decide_eq_true_eq] at hc
      obtain ⟨ha, hd⟩ := hc
      have himm : fld w 2 9 = (BitVec.ofNat 9 (specRegNum r)).toNat := by simp [specRegNum_of hr]
      exact ⟨hd, congrArg some (encS_eq hw hop (ha := ha) (himm := himm))⟩
    case h_2 => exact .error _
  case h_9 hop | h_10 hop =>
    refine .okIf fun hc => ?_
    simp only [Bool.and_eq_true, decide_eq_true_eq] at hc
    exact ⟨by simp [Instr.wf, hc], congrArg some (encPair_eq hw hop)⟩
  case h_15 => exact .error _
  all_goals exact .ok rfl (congrArg some (encR_eq hw ‹_›))

theorem encodes_unpk {k : UnpkKind} (hw : w < 2 ^ 32) (hop : fld w 25 7 = 0x53) (hk : unpkKindOf (fld w 8 3) = some k) (he : fld w 4 4 < unpkCount k) :
    Encodes w (.ok (.unpk k (Fin.ofNat 8 (fld w 4 4)) (xFormOf w))) := by
  have hcount : unpkCount k ≤ 8 := by cases k <;> decide
  have hval : (Fin.ofNat 8 (fld w 4 4)).val = fld w 4 4 := Nat.mod_eq_of_lt (by omega)
  have hfn : fld w 4 7 = fld w 8 3 * 16 + fld w 4 4 := fld_eq_add w 4 4 3
  refine .ok (decide_eq_true ?_) (congrArg some (encX_eq hw hop ?_))
  · rwa [hval]
  · rw [unpkKindNum_of hk, hval, hfn]

theorem encodes_decodeRow5 (hw : w < 2 ^ 32) : Encodes w (decodeRow5 w) := by
  unfold decodeRow5
  split
  case h_1 hop =>
    split
    case h_1 fn hfn =>
      obtain ⟨hvalid, hnum⟩ := cvtFnNum_of (fld_lt w 4 7) hfn
      exact .okIf fun hc => ⟨by simp [Instr.wf, hvalid, hc], congrArg some (encX_eq hw hop hnum.symm)⟩
    case h_2 => exact .error _
  case h_2 hop =>
    split
    case h_3 => exact .error _
    all_goals
      refine .okIf fun hc => ?_
      simp only [qFormOf, Bool.and_eq_true, decide_eq_true_eq] at hc ⊢
      exact ⟨by simp [Instr.wf, hc], congrArg some (encE_eq hw hop)⟩
  case h_3 hop | h_5 hop => exact .ok rfl (congrArg some (encR_eq hw hop))
  case h_4 hop =>
    split
    case h_1 k hk =>
      split
      case isTrue he => exact encodes_unpk hw hop hk he
      case isFalse => exact .error _
    case h_2 => exact .error _
  case h_6 hop =>
    split
    case isTrue h8 =>
      split
      case h_4 hne0 hne1 hne2 => exact .ok rfl (congrArg some (encShfl_eq hw hop (fld_eq_three hne0 hne1 hne2) h8))
      all_goals exact .ok rfl (congrArg some (encShfl_eq hw hop ‹_› h8))
    case isFalse => exact .error _
  case h_7 hop =>
    split
    case h_4 => exact .error _
    all_goals
      refine .okIf fun hc => ?_
      simp only [voteFormOf, ballotFormOf, Bool.and_eq_true, decide_eq_true_eq] at hc ⊢
      obtain ⟨⟨h2, hx⟩, ha⟩ := hc
    case h_3 =>
      have ha' : fld w 11 7 = fld w 11 6 := fld_eq_low 1 hx
      exact ⟨ha, congrArg some ((encXp_eq_encE ..).trans (encE_eq hw hop))⟩
    all_goals
      have hx : fld w 18 7 = fld w 18 6 := fld_eq_low 1 hx
      have ha : fld w 11 7 = fld w 11 6 := fld_eq_low 1 ha
      exact ⟨rfl, congrArg some ((encXp_eq_encE ..).trans (encE_eq hw hop))⟩
  case h_8 hop =>
    split
    case h_1 op hfn => exact .okIf fun hc => ⟨hc, congrArg some (encX_eq hw hop (redOpNum_of hfn).symm)⟩
    case h_2 => exact .error _
  case h_9 hop =>
    refine .okIf fun hc => ?_
    simp only [matchFormOf, Bool.and_eq_true, decide_eq_true_eq] at hc ⊢
    exact ⟨hc.2, congrArg some ((encR_eq_encE ..).trans (encE_eq hw hop))⟩
  case h_10 hop =>
    split
    all_goals
      refine .okIf fun hc => ?_
      simp only [Bool.and_eq_true, decide_eq_true_eq] at hc
    case h_1 =>
      have hb : fld w 4 7 = fld w 4 6 := fld_eq_low 1 (by simp [hc])
      exact ⟨by simp [Instr.wf, hc], congrArg some (encE_eq hw hop)⟩
    case h_4 hne0 hne1 hne2 =>
      have hfn := fld_eq_three hne0 hne1 hne2
      exact ⟨by simp [Instr.wf, hc], congrArg some (encE_eq hw hop)⟩
    all_goals exact ⟨by simp [Instr.wf, hc], congrArg some (encE_eq hw hop)⟩
  case h_11 hop =>
    split
    case h_4 => exact .error _
    all_goals
      refine .okIf fun hc => ?_
      simp only [Bool.and_eq_true, decide_eq_true_eq] at hc
      exact ⟨by simp [Instr.wf, hc], congrArg some (encE_eq hw hop)⟩
  case h_12 hop =>
    split
    case h_4 hne0 hne1 hne2 =>
      have hfn := fld_eq_three hne0 hne1 hne2
      refine .okIf fun hc => ?_
      simp only [Bool.and_eq_true] at hc
      exact ⟨by simp [Instr.wf, hc], congrArg some (encE_eq hw hop)⟩
    all_goals
      refine .okIf fun hc => ?_
      simp only [Bool.and_eq_true, decide_eq_true_eq] at hc
      exact ⟨by simp [Instr.wf, hc], congrArg some (encE_eq hw hop)⟩
  case h_13 => exact .error _

theorem encodes_decodeRow6 (hw : w < 2 ^ 32) : Encodes w (decodeRow6 w) := by
  unfold decodeRow6
  split
  case h_1 hop | h_3 hop | h_7 hop | h_8 hop | h_9 hop | h_10 hop =>
    split
    case h_1 k hk => exact .okIf fun hc => ⟨hc, congrArg some (encM_eq hw hop (mWidthNum_of hk).symm)⟩
    case h_2 => exact .error _
  case h_2 hop => exact .okIf fun hc => ⟨hc, congrArg some (encM_eq hw hop (narrowLoadNum_of_fld w 2).symm)⟩
  case h_4 hop =>
    split
    case h_3 => exact .error _
    all_goals exact .okIf fun hc => ⟨hc, congrArg some (encM_eq hw hop ‹_›)⟩
  case h_5 hop | h_6 hop =>
    split
    case h_1 k sc hk hsc =>
      refine .okIf fun hc => ?_
      simp only [Bool.and_eq_true, decide_eq_true_eq] at hc
      obtain ⟨⟨h4, hd⟩, ha⟩ := hc
      exact ⟨Bool.and_eq_true_iff.mpr ⟨hd, ha⟩, congrArg some (encScoped_eq hw hop (mWidthNum_of hk).symm (scopeNum_of hsc).symm h4)⟩
    case h_2 => exact .error _
  case h_11 hop | h_12 hop =>
    split
    case h_4 hne0 hne1 hne2 => exact .okIf fun hc => ⟨hc, congrArg some (encAtom_eq hw hop (fld_eq_three hne0 hne1 hne2))⟩
    all_goals exact .okIf fun hc => ⟨hc, congrArg some (encAtom_eq hw hop ‹_›)⟩
  case h_13 hop =>
    split
    case h_4 => exact .error _
    all_goals exact .okIf fun hc => ⟨hc, congrArg some (encAtom_eq hw hop ‹_›)⟩
  case h_14 hop =>
    split
    case h_3 => exact .error _
    all_goals
      refine .okIf fun hc => ?_
      simp only [Bool.and_eq_true, decide_eq_true_eq] at hc
      exact ⟨by simp [Instr.wf, hc], congrArg some (encRed_eq hw hop ‹_›)⟩
  case h_15 hop =>
    split
    case h_4 hne0 hne1 hne2 =>
      have hfn := fld_eq_three hne0 hne1 hne2
      refine .okIf fun hc => ?_
      simp only [Bool.and_eq_true, decide_eq_true_eq] at hc
      exact ⟨by simp [Instr.wf, hc], congrArg some (encRed_eq hw hop hfn)⟩
    all_goals
      refine .okIf fun hc => ?_
      simp only [Bool.and_eq_true, decide_eq_true_eq] at hc
      exact ⟨by simp [Instr.wf, hc], congrArg some (encRed_eq hw hop ‹_›)⟩
  case h_16 hop =>
    split
    case h_4 => exact .error _
    all_goals
      refine .okIf fun hc => ?_
      simp only [Bool.and_eq_true, decide_eq_true_eq] at hc
      exact ⟨by simp [Instr.wf, hc], congrArg some (encRed_eq hw hop ‹_›)⟩
  case h_17 => exact .error _

theorem encodes_decodeRow7 (hw : w < 2 ^ 32) : Encodes w (decodeRow7 w) := by
  unfold decodeRow7
  split
  case h_1 hop =>
    split
    case h_1 =>
      have hb : fld w 4 7 = fld w 8 3 * 2 ^ 4 + fld w 4 4 := fld_eq_add w 4 4 3
      refine .okIf fun hc => ?_
      simp only [Bool.and_eq_true, decide_eq_true_eq] at hc
      obtain ⟨⟨hlt, hx⟩, ha⟩ := hc
      have hb : fld w 4 7 = fld w 4 4 := by omega
      exact ⟨Bool.and_eq_true_iff.mpr ⟨hx, ha⟩, congrArg some (encE_eq hw hop (hb := by simpa using hb))⟩
    case h_2 =>
      refine .okIf fun hc => ?_
      simp only [Bool.and_eq_true, decide_eq_true_eq] at hc
      exact ⟨by simp [Instr.wf, hc], congrArg some (encE_eq hw hop)⟩
    case h_3 => exact .error _
  case h_2 hop =>
    split
    case h_1 =>
      split
      case h_1 sc hsc =>
        refine .okIf fun hc => ?_
        simp only [Bool.and_eq_true, decide_eq_true_eq, fld_0_2_eq_zero] at hc
        exact ⟨rfl, congrArg some (encS_eq hw hop (himm := (scopeNum_of hsc).symm))⟩
      case h_2 => exact .error _
    case h_2 =>
      split
      case h_1 pa pb sc hpa hpb hsc =>
        refine .okIf fun hc => ?_
        simp only [Bool.and_eq_true, decide_eq_true_eq, fld_0_2_eq_zero] at hc
        have ha : fld w 11 7 = fld w 11 6 := fld_eq_low 1 (by simp [hc])
        have haa : fld w 11 6 = fld w 14 3 * 8 + fld w 11 3 := fld_eq_add w 11 3 3
        rw [← pathNum_of hpa, ← pathNum_of hpb] at haa
        exact ⟨rfl, congrArg some (encS_eq hw hop (ha := ha.trans haa) (himm := (scopeNum_of hsc).symm))⟩
      case h_2 => exact .error _
    case h_5 =>
      split
      case h_3 => exact .error _
      all_goals exact .okIf fun hc => ⟨hc, congrArg some (encS_eq hw hop)⟩
    case h_3 | h_4 =>
      split
      case h_3 => exact .error _
      all_goals
        refine .okIf fun hc => ?_
        simp only [Bool.and_eq_true, decide_eq_true_eq, fld_0_2_eq_zero] at hc
        exact ⟨by simp [Instr.wf, hc], congrArg some (encS_eq hw hop)⟩
    case h_6 => exact .error _
  case h_3 hop | h_5 hop =>
    split
    case h_3 => exact .error _
    all_goals
      refine .okIf fun hc => ?_
      simp only [Bool.and_eq_true, decide_eq_true_eq] at hc
      exact ⟨by simp [Instr.wf, hc], congrArg some (encCopy_eq hw hop ‹_›)⟩
  case h_4 hop =>
    split
    case h_2 => exact .error _
    refine .okIf fun hc => ?_
    simp only [Bool.and_eq_true, decide_eq_true_eq] at hc
    exact ⟨by simp [Instr.wf, hc], congrArg some (encCopy_eq hw hop ‹_›)⟩
  case h_6 hop =>
    split
    case h_7 => exact .error _
    all_goals
      refine .okIf fun hc => ?_
      simp only [Bool.and_eq_true, decide_eq_true_eq, fld_0_2_eq_zero] at hc
      have himm : fld w 2 9 = fld w 2 4 := fld_eq_low 5 (by simp [hc])
      exact ⟨by simp [Instr.wf, hc], congrArg some (encS_eq hw hop)⟩
  case h_7 hop =>
    split
    case h_1 =>
      refine .okIf fun hc => ?_
      simp only [Bool.and_eq_true, decide_eq_true_eq] at hc
      exact ⟨by simp [Instr.wf, hc], congrArg some (encE_eq hw hop)⟩
    case h_2 =>
      refine .okIf fun hc => ?_
      simp only [Bool.and_eq_true, decide_eq_true_eq, fld_0_2_eq_zero] at hc
      have ha : fld w 11 7 = fld w 11 6 := fld_eq_low 1 (by simp [hc])
      exact ⟨by simp [Instr.wf, hc], congrArg some (encE_eq hw hop)⟩
    case h_3 =>
      split
      case h_3 => exact .error _
      all_goals
        refine .okIf fun hc => ?_
        simp only [Bool.and_eq_true, decide_eq_true_eq] at hc
        exact ⟨by simp [Instr.wf, hc], congrArg some (encE_eq hw hop)⟩
    case h_4 hne0 hne1 hne2 =>
      have hfn := fld_eq_three hne0 hne1 hne2
      split
      case h_1 op hb =>
        refine .okIf fun hc => ?_
        simp only [Bool.and_eq_true, decide_eq_true_eq, fld_0_2_eq_zero] at hc
        have ha : fld w 11 7 = fld w 11 6 := fld_eq_low 1 (by simp [hc])
        exact ⟨by simp [Instr.wf, hc], congrArg some (encE_eq hw hop (hb := (redOpNum_of hb).symm))⟩
      case h_2 => exact .error _
  case h_8 hop | h_11 hop =>
    split
    case h_3 => exact .error _
    all_goals
      refine .okIf fun hc => ?_
      simp only [Bool.and_eq_true, decide_eq_true_eq, fld_0_2_eq_zero] at hc
      exact ⟨by simp [Instr.wf, hc], congrArg some (encE_eq hw hop)⟩
  case h_9 hop | h_13 hop =>
    split
    case h_3 => exact .error _
    all_goals
      refine .okIf fun hc => ?_
      simp only [Bool.and_eq_true, decide_eq_true_eq] at hc
      have hx : fld w 18 7 = fld w 18 2 := fld_eq_low 5 (by simp [hc])
      exact ⟨by simp [Instr.wf, hc], congrArg some (encE_eq hw hop)⟩
  case h_10 hop =>
    have hx : fld w 18 7 = fld w 20 5 * 2 ^ 2 + fld w 18 2 := fld_eq_add w 18 2 5
    have hxx : fld w 18 2 = fld w 19 1 * 2 ^ 1 + fld w 18 1 := fld_eq_add w 18 1 1
    split
    case h_3 => exact .error _
    all_goals
      refine .okIf fun hc => ?_
      simp only [Bool.and_eq_true, decide_eq_true_eq] at hc
      obtain ⟨⟨⟨⟨h0, h18⟩, h20⟩, ha⟩, hb⟩ := hc
      have hx : fld w 18 7 = 2 * fld w 19 1 := by omega
      exact ⟨Bool.and_eq_true_iff.mpr ⟨ha, hb⟩, congrArg some (encE_eq hw hop (hx := by simpa using hx))⟩
  case h_12 hop =>
    split
    case h_2 => exact .error _
    refine .okIf fun hc => ?_
    simp only [Bool.and_eq_true, decide_eq_true_eq] at hc
    have hx : fld w 18 7 = fld w 18 2 := fld_eq_low 5 (by simp [hc])
    exact ⟨by simp [Instr.wf, hc], congrArg some (encE_eq hw hop)⟩
  case h_14 hop =>
    split
    case h_1 =>
      have himm : fld w 2 9 = fld w 5 6 * 2 ^ 3 + fld w 2 3 := fld_eq_add w 2 3 6
      have hlow : fld w 2 3 = fld w 4 1 * 2 ^ 2 + fld w 2 2 := fld_eq_add w 2 2 1
      have hrel : fld w 4 1 < 2 := fld_lt w 4 1
      split
      all_goals
        refine .okIf fun hc => ?_
        simp only [Bool.and_eq_true, decide_eq_true_eq, fld_0_2_eq_zero] at hc
        refine ⟨rfl, congrArg some (encS_eq hw hop (himm := ?_))⟩
        simp
        omega
    case h_2 =>
      have himm : fld w 2 9 = fld w 4 7 * 2 ^ 2 + fld w 2 2 := fld_eq_add w 2 2 7
      refine .okIf fun hc => ?_
      simp only [Bool.and_eq_true, decide_eq_true_eq, fld_0_2_eq_zero] at hc
      exact ⟨by simp [Instr.wf, hc], congrArg some (encS_eq hw hop)⟩
    case h_3 =>
      refine .okIf fun hc => ?_
      simp only [Bool.and_eq_true, decide_eq_true_eq, fld_0_2_eq_zero] at hc
      exact ⟨by simp [Instr.wf, hc], congrArg some (encS_eq hw hop)⟩
    case h_4 => exact .error _
  case h_15 hop =>
    split
    case h_4 hne0 hne1 hne2 =>
      have hfn := fld_eq_three hne0 hne1 hne2
      refine .okIf fun hc => ?_
      simp only [Bool.and_eq_true, decide_eq_true_eq, fld_0_2_eq_zero] at hc
      exact ⟨by simp [Instr.wf, hc], congrArg some (encE_eq hw hop)⟩
    all_goals
      refine .okIf fun hc => ?_
      simp only [Bool.and_eq_true, decide_eq_true_eq, fld_0_2_eq_zero] at hc
      exact ⟨by simp [Instr.wf, hc], congrArg some (encE_eq hw hop)⟩
  case h_16 => exact .error _

theorem encodes_decodeNat (hw : w < 2 ^ 32) : Encodes w (decodeNat w) := by
  unfold decodeNat
  split
  · exact encodes_decodeRow0 hw
  · exact encodes_decodeRow1 hw
  · exact encodes_decodeRow2 hw
  · exact encodes_decodeRow3 hw
  · exact encodes_decodeRow4 hw
  · exact encodes_decodeRow5 hw
  · exact encodes_decodeRow6 hw
  · exact encodes_decodeRow7 hw

end

/-- Settles O57: every accepted word of a row is put together again from the fields that the decoder reads and those it checks. -/
theorem encodeDecode : Obligations.EncodeDecode := by
  intro i w h
  obtain ⟨hwf, henc⟩ := encodes_decodeNat w.isLt i h
  exact ⟨hwf, by rw [encode, henc, Option.map_some, BitVec.ofNat_toNat, BitVec.setWidth_eq]⟩

/-- Settles O55. -/
theorem decodeWords : Obligations.DecodeWords := by
  unfold Obligations.DecodeWords
  decide

end Sys2Proof

/-! SUPPORT. An instruction that ends as any ends, within any frame: what it may have done to its issuer before its end. -/

namespace Sys2Proof.Machine

/-! ### Beside the seat of an issuer -/

/-- Beside the seat of an issuer nothing has changed but what a frame names and the accounts of an issue. -/
structure Footprint.Beside (fr : Footprint) (s t : State) (core slot : Nat) : Prop where
  device : fr.SameDevice s t
  others : s.SameOthers t core
  engines : fr.SameEngines (s.core core) (t.core core)
  warps : ∀ d, d ≠ slot → t.warp? core d = s.warp? core d

theorem Footprint.Beside.trans {fr : Footprint} {s t u : State} {core slot : Nat} (h : fr.Beside s t core slot) (k : fr.Beside t u core slot) :
    fr.Beside s u core slot := by
  obtain ⟨⟨hd, hg, hx⟩, ho, he, hw⟩ := h
  obtain ⟨⟨kd, kg, kx⟩, ko, ke, kw⟩ := k
  exact ⟨⟨kd.trans hd, fun i => (kg i).trans (hg i), fun i => (kx i).trans (hx i)⟩, ho.trans ko, ke.trans he, fun d hne => (kw d hne).trans (hw d hne)⟩

theorem Quiet.beside {s t : State} {core slot : Nat} (fr : Footprint) (h : Quiet s t core slot) : fr.Beside s t core slot := by
  obtain ⟨⟨hd, hg, hx⟩, ho, he, hw⟩ := h
  refine ⟨⟨congrArg fr.device hd, fun id => ?_, fun id => ?_⟩, ho, congrArg fr.core he, hw⟩
  · simpa [Footprint.plain, Function.comp_def] using congrArg (Option.map fr.wg) (hg id)
  · simpa [Footprint.plain, Function.comp_def] using congrArg (Option.map fr.ctx) (hx id)

/-- A change of the device alone, within a frame. -/
theorem Footprint.Beside.of_cores {fr : Footprint} {s t : State} (core slot : Nat) (hc : t.cores = s.cores) (hd : fr.SameDevice s t) :
    fr.Beside s t core slot :=
  ⟨hd, State.sameOthers_of_cores core hc, by simp [Footprint.SameEngines, State.core, hc], fun d _ => State.warp?_of_cores hc core d⟩

/-! ### What an instruction does before its end -/

/-- The registers, predicates and flags of a helper that `wr` does not name are as before. -/
structure Writes.SparesHelper (wr : Writes) (lane : Nat) (h h' : Helper) : Prop where
  regs : ∀ n, wr.reg (4 * lane) (.priv n) = false → mgetD h'.regs n 0 = mgetD h.regs n 0
  preds : ∀ p, wr.pred (4 * lane) p = false → (p == 0 || hasBit h'.preds p) = (p == 0 || hasBit h.preds p)
  flags : wr.flags (4 * lane) = false → h'.fpst = h.fpst

theorem Writes.SparesHelper.of_same {wr : Writes} {lane : Nat} {h h' : Helper} (hr : h'.regs = h.regs) (hp : h'.preds = h.preds)
    (hf : h'.fpst = h.fpst) : wr.SparesHelper lane h h' :=
  ⟨fun _ _ => by rw [hr], fun _ _ => by rw [hp], fun _ => hf⟩

/-- What an instruction may have made of its issuing warp and helper before its end: it has stayed within its frame and its writes, and the
issuer stands where it stood. -/
structure Footprint.Prepared (fr : Footprint) (c : Iss) (wr : Writes) (w : Warp) (fh : Helper → Helper) : Prop where
  warp : fr.SameWarp c.w w
  splits : w.splits = c.w.splits
  length : w.strands.length = c.w.strands.length
  pcs : ∀ l, (w.strand l).pc = (c.w.strand l).pc
  strands : ∀ l, (l ∈ c.lanes → fr.strand { w.strand l with pc := 0 } = fr.strand { c.w.strand l with pc := 0 }) ∧ (l ∉ c.lanes → w.strand l = c.w.strand l)
  spares : wr.Spares c c.w w
  helper : ∀ lane h, c.who = .helper lane → c.hel = some h → (fh h).pc = h.pc ∧ fr.SameHelper h (fh h) ∧ wr.SparesHelper lane h (fh h)

/-- An issuer whose strands are untouched. -/
theorem Footprint.Prepared.of_strands {fr : Footprint} {c : Iss} {wr : Writes} {w : Warp} {fh : Helper → Helper} (hw : fr.SameWarp c.w w)
    (hsp : w.splits = c.w.splits) (hst : w.strands = c.w.strands) (hr : wr.Spares c c.w w)
    (hh : ∀ lane h, c.who = .helper lane → c.hel = some h → (fh h).pc = h.pc ∧ fr.SameHelper h (fh h) ∧ wr.SparesHelper lane h (fh h)) :
    fr.Prepared c wr w fh := by
  have hstrand : ∀ l, w.strand l = c.w.strand l := fun l => by simp only [Warp.strand, hst]
  exact ⟨hw, hsp, by rw [hst], fun l => by rw [hstrand], fun l => ⟨fun _ => by rw [hstrand], fun _ => hstrand l⟩, hr, hh⟩

/-- An issuer that is untouched. -/
theorem Footprint.Prepared.refl (fr : Footprint) (c : Iss) (wr : Writes) : fr.Prepared c wr c.w id :=
  .of_strands rfl rfl rfl (.of_same rfl rfl rfl rfl rfl) fun _ _ _ _ => ⟨rfl, rfl, .of_same rfl rfl rfl⟩

/-- What the end of an instruction makes of the seat of its issuer, which `w` and `fh` describe as they were before it. -/
structure Iss.Ended (c c' : Iss) (w : Warp) (fh : Helper → Helper) : Prop where
  warp : w.Finished c c'.w
  helper : ∀ h, c.hel = some h → ∃ h', c'.hel = some h' ∧ (fh h).Finished h'
  no_helper : c.hel = none → c'.hel = none

/-- An instruction completes whose end finds its issuer prepared. -/
theorem completesIn_prepared {fr : Footprint} {i : Instr} {s s1 t : State} {c : Iss} {wr : Writes} {post : Iss → State → Prop} {fw gw : Warp → Warp}
    {fh gh : Helper → Helper} (hc : s.iss = some c) (hi : exec i s = .next t) (hb : fr.Beside s s1 c.core c.slot) (hm : SameMemory s s1)
    (hs : Seat s s1 c fw fh) (hp : fr.Prepared c wr (fw c.w) fh) (hq : Quiet s1 t c.core c.slot) (he : Seat s1 t c gw gh)
    (hgw : ∀ w, Warp.Finished c w (gw w)) (hgh : ∀ l h, c.who = .helper l → Helper.Finished h (gh h))
    (hpost : ∀ c', Seated t c' → c.Becomes c' (gw (fw c.w)) (c.hel.map (gh ∘ fh)) → c.Ended c' (fw c.w) fh → post c' t) : CompletesIn fr i s c wr post := by
  have hseat := State.seated_of_iss hc
  have hall := hs.trans he
  have hf := hgw (fw c.w)
  obtain ⟨c', hc', hbec⟩ := hseat.after hall (fun e => (hf.entry e).trans (by rw [hp.splits]))
  have hwho : ∀ h, c.hel = some h → ∃ l, c.who = .helper l := fun h hh => by
    rcases hseat.who with ⟨_, _, _, _, _, hn⟩ | ⟨l, _, _, hl, -⟩
    · rw [hn] at hh; cases hh
    · exact ⟨l, hl⟩
  have hend : c.Ended c' (fw c.w) fh := by
    refine ⟨hbec.w ▸ hf, fun h hh => ?_, fun hn => by rw [hbec.hel, hn]; rfl⟩
    obtain ⟨l, hl⟩ := hwho h hh
    exact ⟨gh (fh h), by rw [hbec.hel, hh]; rfl, hgh l _ hl⟩
  have hb' := hb.trans (hq.beside fr)
  refine ⟨t, c', hi, hc', hpost c' (State.issFor_iff.mp hc').1 hbec hend, hm.trans hq.sameMemory, ⟨hb'.device, hb'.others, hb'.engines, hb'.warps, ?_, ?_, ?_, ?_⟩, ?_, ?_⟩
  · refine hall.samePricking hseat fun lane x hl hx => ?_
    obtain ⟨-, hsame, hspares⟩ := hp.helper lane x hl hx
    have hfin := hgh lane (fh x) hl
    obtain ⟨k1, k2, k3⟩ := hfin.spares (wr := wr) lane
    exact ⟨(hfin.sameHelper fr).trans hsame, fun n hn => (k1 n hn).trans (hspares.regs n hn), fun p hn => (k2 p hn).trans (hspares.preds p hn),
      fun hn => (k3 hn).trans (hspares.flags hn)⟩
  · rw [hall.warp, hseat.warp, hbec.w]
    rfl
  · exact hend.warp.sameWarp hp.warp
  · exact hend.warp.sameRegisters hp.spares
  · exact hend.warp.sameStrands hseat hp.length hp.strands fun _ _ => by rw [hp.splits]
  · refine hend.warp.wentOn hseat hp.pcs hp.length fun x hx => ?_
    obtain ⟨l, hl⟩ := hwho x hx
    obtain ⟨h', hh', hfin⟩ := hend.helper x hx
    exact ⟨h', hh', by rw [hfin.pc, (hp.helper l x hl hx).1]⟩

/-- The same for the ordinary end. -/
theorem completesIn_of_prepared {fr : Footprint} {i : Instr} {s s1 : State} {c : Iss} {ps : List Nat} {wr : Writes} {post : Iss → State → Prop}
    {fw : Warp → Warp} {fh : Helper → Helper} (hc : s.iss = some c) (hi : exec i s = .next (s1.finish c ps)) (hb : fr.Beside s s1 c.core c.slot)
    (hm : SameMemory s s1) (hs : Seat s s1 c fw fh) (hp : fr.Prepared c wr (fw c.w) fh)
    (hpost : ∀ c', c.Ended c' (fw c.w) fh → post c' (s1.finish c ps)) : CompletesIn fr i s c wr post := by
  obtain ⟨gw, gh, hs', hgw, hgh⟩ := s1.seat_finish c ps
  exact completesIn_prepared hc hi hb hm hs hp (s1.quiet_finish c ps) hs' hgw hgh fun c' _ _ => hpost c'

end Sys2Proof.Machine

/-! SUPPORT. Exceptions: what taking one, and returning from one, makes of the warp of the issuing split. -/

namespace Sys2Proof.Machine

/-! ### The seat of a split -/

theorem Seated.entry_of_split {s : State} {c : Iss} {e : Nat} (hseat : Seated s c) (hwho : c.who = .split e) :
    ∃ sp, c.split = some sp ∧ mget? c.w.splits e = some sp := by
  obtain ⟨d, sp, h1, h2, h3, -⟩ | ⟨l, -, -, h1, -⟩ := hseat.who
  · rw [hwho] at h1; cases h1
    exact ⟨sp, h2, h3⟩
  · rw [hwho] at h1; cases h1

theorem Seated.no_helper_of_split {s : State} {c : Iss} {e : Nat} (hseat : Seated s c) (hwho : c.who = .split e) : c.hel = none := by
  obtain ⟨d, sp, -, -, -, h4⟩ | ⟨l, -, -, h1, -⟩ := hseat.who
  · exact h4
  · rw [hwho] at h1; cases h1

/-! ### The retirement of an instruction of a split -/

/-- The issuer's context after the accounts of an issue has the same trap base. -/
theorem Calm.trapBase {s t : State} {core slot : Nat} (h : Calm s t core slot) (c : Iss) : t.trapBase c = s.trapBase c := by
  have hbase : ∀ u : State, u.trapBase c = ((mget? u.ctxs c.w.ctx).map (fun x => { x with lease := none, leaseAt := 0 })).elim 0
      Context.trapbase := fun u => by
    unfold State.trapBase State.ctxOf
    cases mget? u.ctxs c.w.ctx <;> rfl
  rw [hbase, hbase, h.ctxs]

theorem Warp.strand_foldl_modStrand (w : Warp) {ls : List Nat} (hn : ls.Nodup) (f : Strand → Strand) (l : Nat) :
    (ls.foldl (fun w l => w.modStrand l f) w).strand l = if l ∈ ls ∧ l < w.strands.length then f (w.strand l) else w.strand l := by
  rw [Warp.foldl_modStrand]
  simp only [Warp.strand, getElem?_foldl_modAt _ hn]
  by_cases hl : l < w.strands.length
  · by_cases hm : l ∈ ls <;> simp [hl, hm]
  · simp [hl]

theorem Warp.length_foldl_modStrand (w : Warp) (ls : List Nat) (f : Strand → Strand) :
    (ls.foldl (fun w l => w.modStrand l f) w).strands.length = w.strands.length := by
  induction ls generalizing w with
  | nil => rfl
  | cons l ls ih => exact (ih _).trans (length_modAt _ _ _)

/-- What the accounts of an issue change of the warp of an issuing split: beside the count of units its entry, which keeps its strands. -/
structure Warp.ChargedAt (e : Nat) (w w' : Warp) : Prop where
  rest : ({ w' with iiu := 0, splits := [] } : Warp) = { w with iiu := 0, splits := [] }
  splits : ∀ d, d ≠ e → mget? w'.splits d = mget? w.splits d
  entry : (mget? w'.splits e).map Split.strands = (mget? w.splits e).map Split.strands

theorem State.seat_charge_split (s : State) {c : Iss} {e : Nat} (he : c.who = .split e) (ps : List Nat) :
    ∃ fw, Seat s (s.charge c ps) c fw id ∧ ∀ w, Warp.ChargedAt e w (fw w) := by
  unfold State.charge
  split
  · exact ⟨id, .refl _ _, fun _ => ⟨rfl, fun _ _ => rfl, rfl⟩⟩
  · extract_lets leased s1 s2 inside
    have h2 : Seat s s2 c (fun w => { w with iiu := (w.iiu + c.cost.units) % 2 ^ 64 }) id :=
      (((show Seat s s1 c id id from s.seat_modCore c c.core (fun _ => rfl) (fun _ => rfl)).trans (s1.seat_coolFlags c false)).trans (State.seat_modWarp _ c _)).then_same
        (.of_cores (State.cores_spend _ _ _ _))
    rw [he]
    refine ⟨_, h2.trans (s2.seat_modSplit he _), fun w => ⟨?_, fun d hd => ?_, ?_⟩⟩
    · exact (congrArg (fun w : Warp => { w with iiu := 0 }) (Warp.rest_modEntry _ e _) :)
    · exact (Warp.splits_modEntry _ _ _ _).trans (if_neg (Ne.symm hd))
    · rw [Function.comp_apply, Warp.splits_modEntry, if_pos rfl, Option.map_map]
      rfl

/-- What the retirement of an instruction makes of the warp of the split that issued it. -/
structure Warp.RetiredAt (e : Nat) (sp : Split) (w w' : Warp) : Prop where
  rest : ({ w' with iiu := 0, splits := [], latches := [], latchBad := [] } : Warp) = { w with iiu := 0, splits := [], latches := [], latchBad := [] }
  latches : w'.latches = (w.ageLatches sp).latches
  splits : ∀ d, d ≠ e → mget? w'.splits d = mget? w.splits d
  entry : (mget? w'.splits e).map Split.strands = (mget? w.splits e).map Split.strands

theorem State.seat_retire_split (s : State) {c : Iss} {e : Nat} {sp : Split} (he : c.who = .split e) (hsp : c.split = some sp) (ps : List Nat) :
    ∃ fw, Seat s (s.retire c ps) c fw id ∧ ∀ w, Warp.RetiredAt e sp w (fw w) := by
  obtain ⟨fw, hs, hw⟩ := s.seat_charge_split he ps
  unfold State.retire
  rw [hsp]
  refine ⟨_, hs.trans (State.seat_modWarp _ c _), fun w => ⟨?_, ?_, (hw w).splits, (hw w).entry⟩⟩
  · exact (congrArg (fun w : Warp => { w with latches := [], latchBad := [] }) (hw w).rest :)
  · rw [Function.comp_apply, Warp.ageLatches, Warp.ageLatches, show (fw w).latches = w.latches from (congrArg Warp.latches (hw w).rest :)]

/-- The registers of a warp over the retirement of an instruction of its split: what `wr` spared before it is as before. -/
theorem sameRegisters_of_retired {c : Iss} {sp : Split} {wr : Writes} {w w' : Warp} (hsp : c.split = some sp) (hs : wr.Spares c c.w w) (hr : w'.regs = w.regs)
    (hp : w'.preds = w.preds) (hf : w'.fpst = w.fpst) (hi : w'.ixs = w.ixs) (hl : w'.latches = (w.ageLatches sp).latches) : SameRegisters c wr w' := by
  refine ⟨fun th n hth hn h => ?_, fun th p h => ?_, fun th h => ?_, fun th k hk h => ?_, fun th k hk h => ?_⟩
  · rw [hr, hs.regs th n hth hn h]
  · rw [← hs.preds th p h]
    simp only [Warp.pred, hp]
  · rw [hf, hs.fpst th h]
  · rw [← hs.ixs th k hk h]
    simp only [Warp.ix, hi]
  · rw [hl, Warp.latches_ageLatches, hs.latches th k hk h, hsp, show (4 * th + k) / 16 = th / 4 by omega]
    by_cases hb : hasBit sp.strands (th / 4) = true
    · simp only [if_pos hb]
      rfl
    · simp only [if_neg hb]
      cases mget? c.w.latches (4 * th + k) <;> rfl

/-! ### Taking a trap -/

/-- What entering a handler makes of a warp: the cause and the address are saved, the other splits are held, and the split goes on at the trap
base. -/
def Warp.enterHandler (w : Warp) (e : Nat) (lanes : List Nat) (cause : Word) (pc base : DWord) : Warp :=
  (lanes.foldl (fun w l => w.modStrand l (fun st => { st with pc := base }))
    (({ w with trapcause := cause, trappc := pc } : Warp).hold (w.strandsOf e))).modEntry e (fun sp => { sp with status := .ready, replay := none })

theorem Warp.enterHandler_rest (w : Warp) (e : Nat) (lanes : List Nat) (cause : Word) (pc base : DWord) :
    ({ w.enterHandler e lanes cause pc base with strands := [], splits := [] } : Warp) =
      { w with strands := [], splits := [], trapcause := cause, trappc := pc, trap := some { strands := w.strandsOf e } } := by
  have h := Warp.rest_modEntry (lanes.foldl (fun w l => w.modStrand l (fun st => { st with pc := base }))
    (({ w with trapcause := cause, trappc := pc } : Warp).hold (w.strandsOf e))) e (fun sp => { sp with status := .ready, replay := none })
  rw [Warp.foldl_modStrand] at h
  rw [Warp.enterHandler, Warp.foldl_modStrand]
  exact (congrArg (fun w : Warp => { w with strands := [] }) h :)

theorem Warp.enterHandler_strands (w : Warp) (e : Nat) (lanes : List Nat) (cause : Word) (pc base : DWord) :
    (w.enterHandler e lanes cause pc base).strands = (lanes.foldl (fun w l => w.modStrand l (fun st => { st with pc := base })) w).strands := by
  have h := Warp.rest_modEntry (lanes.foldl (fun w l => w.modStrand l (fun st => { st with pc := base }))
    (({ w with trapcause := cause, trappc := pc } : Warp).hold (w.strandsOf e))) e (fun sp => { sp with status := .ready, replay := none })
  refine (congrArg Warp.strands h :).trans ?_
  rw [Warp.foldl_modStrand, Warp.foldl_modStrand]
  rfl

theorem Warp.enterHandler_splits (w : Warp) (e : Nat) (lanes : List Nat) (cause : Word) (pc base : DWord) (d : Nat) :
    mget? (w.enterHandler e lanes cause pc base).splits d = (mget? w.splits d).map (fun x =>
      if e = d then { x with reserve := none, status := .ready, replay := none } else { x with reserve := none }) := by
  have hheld : mget? (lanes.foldl (fun w l => w.modStrand l (fun st => { st with pc := base }))
      (({ w with trapcause := cause, trappc := pc } : Warp).hold (w.strandsOf e))).splits d = (mget? w.splits d).map (fun x => { x with reserve := none }) := by
    rw [Warp.foldl_modStrand]
    exact mget?_map (f := fun e : Nat × Split => (e.1, { e.2 with reserve := none })) (fun _ => rfl) w.splits d
  rw [Warp.enterHandler, Warp.splits_modEntry, hheld]
  by_cases h : e = d
  · simp only [if_pos h, Option.map_map]
    rfl
  · simp only [if_neg h]

/-- Where a handler can run, a trap enters it. -/
theorem State.seat_enterTrap {s : State} {c : Iss} {e : Nat} {cause : Cause} (hcan : CanTrap s c e) (hne : cause ≠ .eccUncorrectable) (pc : DWord) (addr : Nat) :
    Seat s (s.enterTrap c cause 0 pc addr) c (fun w => w.enterHandler e c.lanes (BitVec.ofNat 32 cause.code) pc (s.trapBase c)) id ∧
      Quiet s (s.enterTrap c cause 0 pc addr) c.core c.slot := by
  obtain ⟨hwho, htrap, hbase⟩ := hcan
  let s1 := s.modWarp c.core c.slot (fun w => { w with trapcause := BitVec.ofNat 32 (0 + cause.code), trappc := pc })
  have heq : s.enterTrap c cause 0 pc addr = ((s1.modWarp c.core c.slot (fun w => w.hold (w.strandsOf e))).setPc c (s.trapBase c)).wake c := by
    unfold State.enterTrap
    rw [hwho]
    dsimp only
    rw [if_neg hne, htrap]
    exact if_neg hbase
  rw [heq]
  unfold State.setPc State.wake
  rw [hwho]
  dsimp only
  constructor
  · have hs := ((s.seat_modWarp c (fun w => { w with trapcause := BitVec.ofNat 32 (0 + cause.code), trappc := pc })).trans
      (s1.seat_modWarp c (fun w => w.hold (w.strandsOf e)))).trans (State.seat_modWarp _ c (fun w =>
        c.lanes.foldl (fun w l => w.modStrand l (fun st => { st with pc := s.trapBase c })) w))
    have hall := hs.trans (State.seat_modSplit _ hwho (fun sp => { sp with status := .ready, replay := none }))
    rw [Nat.zero_add] at hall
    exact hall
  · exact (((s.quiet_modWarp _ _ _).trans (State.quiet_modWarp _ _ _ _)).trans (State.quiet_modWarp _ _ _ _)).trans (State.quiet_modSplit _ _ _)

/-- A trap that enters its handler is taken, by an instruction that has issued or by one that has not. -/
theorem trapTaken_of_seat {s t : State} {c : Iss} {e : Nat} {sp : Split} {cause : Cause} {issued : Bool} {w : Warp} {fw : Warp → Warp} {fh : Helper → Helper}
    (hseat : Seated s c) (hwho : c.who = .split e) (hsp : c.split = some sp) (hq : Calm s t c.core c.slot)
    (hs : Seat s t c fw fh) (hfw : fw c.w = w.enterHandler e c.lanes (BitVec.ofNat 32 cause.code) c.pc (s.trapBase c))
    (hrest : ({ w with iiu := 0, splits := [], latches := [], latchBad := [] } : Warp) = { c.w with iiu := 0, splits := [], latches := [], latchBad := [] })
    (hlatches : w.latches = if issued then (c.w.ageLatches sp).latches else c.w.latches)
    (hsplits : ∀ d, d ≠ e → mget? w.splits d = mget? c.w.splits d)
    (hentry : (mget? w.splits e).map Split.strands = (mget? c.w.splits e).map Split.strands) : TrapTaken s t c e cause issued := by
  have hw' := w.enterHandler_rest e c.lanes (BitVec.ofNat 32 cause.code) c.pc (s.trapBase c)
  obtain ⟨_, h1, hent⟩ := hseat.entry_of_split hwho
  obtain rfl := Option.some.inj (hsp.symm.trans h1)
  obtain ⟨sp1, hsp1, hsp1s⟩ : ∃ sp1, mget? w.splits e = some sp1 ∧ sp1.strands = sp.strands := by
    rw [hent] at hentry
    exact Option.map_eq_some_iff.mp hentry
  have hof : w.strandsOf e = c.w.strandsOf e := by simp only [Warp.strandsOf, hsp1, hent, hsp1s]
  have hstrands : w.strands = c.w.strands := (congrArg Warp.strands hrest :)
  refine ⟨hq.memory, hq.others, _, by rw [hs.warp, hseat.warp, Option.map_some, hfw], ?_, ?_, ?_, ?_, ?_, fun l hl => ?_, fun d hd => ?_,
    sp, { sp1 with reserve := none, status := .ready, replay := none }, hsp, ?_, ?_, rfl, hsp1s, rfl⟩
  · exact (congrArg Warp.trapcause hw' :)
  · exact (congrArg Warp.trappc hw' :)
  · exact (congrArg Warp.trap hw' :).trans (by rw [hof])
  · exact (congrArg (fun w : Warp => ({ w with trapcause := 0, trappc := 0, trap := none, iiu := 0, latches := [], latchBad := [] } : Warp)) hw' :).trans
      (congrArg (fun w : Warp => ({ w with trapcause := 0, trappc := 0, trap := none, strands := [] } : Warp)) hrest :)
  · rw [Warp.enterHandler_strands, Warp.length_foldl_modStrand, hstrands]
  · have hst : (w.enterHandler e c.lanes (BitVec.ofNat 32 cause.code) c.pc (s.trapBase c)).strand l =
        (c.lanes.foldl (fun w l => w.modStrand l (fun st => { st with pc := s.trapBase c })) w).strand l := by
      simp only [Warp.strand, Warp.enterHandler_strands]
    have hwl : w.strand l = c.w.strand l := by simp only [Warp.strand, hstrands]
    rw [hst, Warp.strand_foldl_modStrand _ c.lanes_nodup, hwl, hstrands]
    by_cases hm : l ∈ c.lanes <;> simp [hm, hl]
  · rw [Warp.enterHandler_splits, hsplits d hd]
    simp [Ne.symm hd]
  · exact (congrArg Warp.latches hw' :).trans hlatches
  · rw [Warp.enterHandler_splits, hsp1]
    simp

/-- A cause found at decode is taken, and no latch entry has aged. -/
theorem trapTaken_decodeTrap {s : State} {c : Iss} {e : Nat} {cause : Cause} (hc : s.iss = some c) (hcan : CanTrap s c e) (hne : cause ≠ .eccUncorrectable) :
    TrapTaken s (s.decodeTrap c cause) c e cause false := by
  have hseat := State.seated_of_iss hc
  obtain ⟨sp, hsp, -⟩ := hseat.entry_of_split hcan.1
  obtain ⟨hs, hq⟩ := State.seat_enterTrap hcan hne c.pc 0
  exact trapTaken_of_seat hseat hcan.1 hsp (.of_quiet hq) hs rfl rfl rfl (fun _ _ => rfl) rfl

/-- A cause of an instruction that has issued is taken, where before it only its engines have worked. -/
theorem trapTaken_takeTrap_still {s s1 : State} {c : Iss} {e : Nat} {cause : Cause} (hc : s.iss = some c) (hcan : CanTrap s c e) (hne : cause ≠ .eccUncorrectable)
    (h1 : Still s s1) (addr : Nat) : TrapTaken s (s1.takeTrap c cause addr) c e cause true := by
  have hseat := State.seated_of_iss hc
  obtain ⟨sp, hsp, -⟩ := hseat.entry_of_split hcan.1
  obtain ⟨fw, hr, hfw⟩ := s1.seat_retire_split hcan.1 hsp []
  have hcalm : Calm s (s1.retire c []) c.core c.slot := (Calm.of_still h1 _ _).trans (.of_quiet (s1.quiet_retire c []))
  have hcan' : CanTrap (s1.retire c []) c e := ⟨hcan.1, hcan.2.1, (hcalm.trapBase c).symm ▸ hcan.2.2⟩
  obtain ⟨hs, hq⟩ := State.seat_enterTrap hcan' hne c.pc addr
  have hw := hfw c.w
  exact trapTaken_of_seat hseat hcan.1 hsp (hcalm.trans (.of_quiet hq)) (((h1.seat c).trans hr).trans hs) (by rw [Function.comp_apply, hcalm.trapBase c]; rfl)
    hw.rest hw.latches hw.splits hw.entry

/-- A cause of an instruction that has issued is taken. -/
theorem trapTaken_takeTrap {s : State} {c : Iss} {e : Nat} {cause : Cause} (hc : s.iss = some c) (hcan : CanTrap s c e) (hne : cause ≠ .eccUncorrectable)
    (addr : Nat) : TrapTaken s (s.takeTrap c cause addr) c e cause true :=
  trapTaken_takeTrap_still hc hcan hne (.refl s) addr

end Sys2Proof.Machine

/-! PROOF. Privilege: SCLR and SNAP end as any instruction does after their own change of the device; where the context is not privileged they, and
MTEST, take their trap before anything else. -/

namespace Sys2Proof.Machine

/-! ### SCLR -/

theorem State.plot_modPlot (s : State) (p k : Nat) (f : Plot → Plot) : (s.modPlot p f).plot k = if p = k then f (s.plot k) else s.plot k := by
  unfold State.plot State.modPlot
  rw [mgetD_mset]
  by_cases h : p = k
  · rw [if_pos h, if_pos h, h]
    rfl
  · rw [if_neg h, if_neg h]

theorem SameMemory.modPlot_sclr (s : State) (p : Nat) : SameMemory s (s.modPlot p (fun x => { x with sclr := true })) := by
  refine ⟨fun plot sp key a => ?_, fun _ _ => rfl, fun _ => rfl⟩
  cases sp with
  | plot =>
    have hmem : ((s.modPlot p (fun x => { x with sclr := true })).plot plot).mem = (s.plot plot).mem := by
      rw [State.plot_modPlot]
      split <;> rfl
    simp only [State.memRead, hmem]
  | hbm => exact State.SameStores.hbmRead (s := s) (t := s) (.refl s) key a 1
  | _ => rfl

theorem sclr_completes {s : State} {c : Iss} (hc : s.iss = some c) (hh : c.hel = none) (hp : s.privileged c = true) :
    CompletesIn { Footprint.plain with device := fun d => { d with plots := [] } } .sclr s c Writes.none
      (fun _ t => (t.plot (plotOf c.core)).sclr = true ∧ ∀ k, k ≠ plotOf c.core → t.plot k = s.plot k) := by
  let s1 := s.modPlot (plotOf c.core) (fun p => { p with sclr := true })
  have hx : exec .sclr s = .next (s1.finish c []) := by
    show execSclr s = _
    simp [execSclr, withIss_eq _ hc, hh, hp, s1]
  have hplots : (s1.finish c []).plots = s1.plots := (congrArg State.plots (s1.quiet_finish c []).device.1 :)
  refine completesIn_of_prepared (fw := id) (fh := id) hc hx (.of_cores _ _ rfl ⟨rfl, fun _ => rfl, fun _ => rfl⟩) (.modPlot_sclr s _) (.of_cores rfl)
    (.refl _ c _) fun _ _ => ?_
  have hplot : ∀ k, (s1.finish c []).plot k = if plotOf c.core = k then { s.plot k with sclr := true } else s.plot k := fun k => by
    rw [State.plot, hplots]
    exact s.plot_modPlot _ k _
  exact ⟨by rw [hplot, if_pos rfl], fun k hk => by rw [hplot, if_neg (Ne.symm hk)]⟩

/-! ### SNAP -/

/-- What the trigger of SNAP makes of the power controller. -/
structure SnapFired (s : State) (core tag : Nat) (p : Power) : Prop where
  off : hasBit s.pwr.snapctl 0 = false → p = s.pwr
  latched : hasBit s.pwr.snapctl 0 = true → s.pwr.snap = none → p.snapseq = (s.pwr.snapseq + 1) % 2 ^ 32 ∧
    ∃ x, p.snap = some x ∧ x.tag = tag ∧ x.tagCore = some core ∧ x.time = s.elapsed ∧ x.counters = s.counters ∧ x.meters = s.meters
  further : ∀ x, hasBit s.pwr.snapctl 0 = true → s.pwr.snap = some x →
    (x.cycle ≠ s.triggerCycle (some core) → p.snap = some x ∧ p.snapmiss = s.pwr.snapmiss + 1) ∧
    (x.cycle = s.triggerCycle (some core) → p.snapmiss = s.pwr.snapmiss ∧ p.snapseq = s.pwr.snapseq ∧
      ∃ y, p.snap = some y ∧ hasBit y.src 0 = true ∧ y.counters = x.counters ∧ y.time = x.time ∧
        y.tag = if x.tagCore.all (fun k => decide (core < k)) then tag else x.tag)

/-- A trigger changes the power controller alone. -/
theorem State.trigger_eq (s : State) (src : SnapSrc) (tag : Nat) (core : Option Nat) :
    s.trigger src tag core = { s with pwr := (s.trigger src tag core).pwr } := by
  unfold State.trigger State.latch
  (repeat' split) <;> rfl

/-- A further trigger by SNAP sets its source bit, and takes the tag where its core is below the one that gave it. -/
theorem Snapshot.join_snap (x : Snapshot) (tag core : Nat) : hasBit (x.join .snap tag (some core)).src 0 = true ∧
    (x.join .snap tag (some core)).counters = x.counters ∧ (x.join .snap tag (some core)).time = x.time ∧
    (x.join .snap tag (some core)).tag = if x.tagCore.all (fun k => decide (core < k)) then tag else x.tag := by
  have hbit : hasBit (setBits x.src SnapSrc.snap.ctorIdx 1 1) 0 = true := hasBit_setBits_one x.src 0 0 true
  unfold Snapshot.join
  cases hd : x.tagCore with
  | none => exact ⟨hbit, rfl, rfl, rfl⟩
  | some d => by_cases hlt : core < d <;> simpa [hlt] using hbit

theorem State.snapFired (s : State) (core tag : Nat) : SnapFired s core tag (s.trigger .snap tag (some core)).pwr := by
  have hctor : SnapSrc.snap.ctorIdx = 0 := rfl
  unfold State.trigger
  rw [hctor]
  cases hon : hasBit s.pwr.snapctl 0 with
  | false => exact ⟨fun _ => rfl, fun h => by simp [hon] at h, fun x h => by simp [hon] at h⟩
  | true =>
    cases hsnap : s.pwr.snap with
    | none => exact ⟨fun h => by simp [hon] at h, fun _ _ => ⟨rfl, _, rfl, rfl, rfl, rfl, rfl, rfl⟩, fun x _ h => by simp [hsnap] at h⟩
    | some x =>
      refine ⟨fun h => by simp [hon] at h, fun _ h => by simp [hsnap] at h, fun y _ hy => ?_⟩
      obtain rfl : x = y := Option.some.inj (hsnap.symm.trans hy)
      refine ⟨fun hne => ?_, fun heq => ?_⟩
      · simp [hne]
        exact hsnap
      · simp only [Bool.not_true, Bool.false_eq_true, if_false, if_pos heq]
        exact ⟨trivial, trivial, _, rfl, x.join_snap tag core⟩

theorem snap_completes {s : State} {c : Iss} {tag : BitVec 9} (hc : s.iss = some c) (hh : c.hel = none) (hp : s.privileged c = true) :
    CompletesIn { Footprint.plain with device := fun d => { d with pwr := State.reset.pwr } } (.snap tag) s c Writes.none
      (fun _ t => SnapFired s c.core tag.toNat t.pwr) := by
  let s1 := s.trigger .snap tag.toNat (some c.core)
  have hx : exec (.snap tag) s = .next (s1.finish c []) := by
    show execSnap tag s = _
    simp [execSnap, withIss_eq _ hc, hh, hp, s1]
  have heq : s1 = { s with pwr := s1.pwr } := s.trigger_eq _ _ _
  have hpwr : (s1.finish c []).pwr = s1.pwr := (congrArg State.pwr (s1.quiet_finish c []).device.1 :)
  have hcores : s1.cores = s.cores := by rw [heq]
  refine completesIn_of_prepared (fw := id) (fh := id) hc hx (.of_cores _ _ hcores ?_) ?_ (.of_cores hcores) (.refl _ c _) fun _ _ => ?_
  · rw [heq]
    exact ⟨rfl, fun _ => rfl, fun _ => rfl⟩
  · rw [heq]
    exact ⟨fun _ _ _ _ => State.SameStores.memRead ⟨rfl, rfl, rfl, rfl, rfl⟩ _ _ _ _ _, fun _ _ => rfl, fun _ => rfl⟩
  · rw [hpwr]
    exact s.snapFired c.core tag.toNat

/-! ### Where the context is not privileged -/

theorem exec_privileged {s : State} {c : Iss} (hc : s.iss = some c) (hh : c.hel = none) (hp : s.privileged c = false) (tag : BitVec 9) (d : Opnd) :
    exec .sclr s = .next (s.decodeTrap c .privOp) ∧ exec (.snap tag) s = .next (s.decodeTrap c .privOp) ∧
    exec (.mtest d) s = .next (s.decodeTrap c .privOp) := by
  refine ⟨?_, ?_, ?_⟩
  · show execSclr s = _
    simp [execSclr, withIss_eq _ hc, hh, hp]
  · show execSnap tag s = _
    simp [execSnap, withIss_eq _ hc, hh, hp]
  · show execMtest d s = _
    simp [execMtest, withIss_eq _ hc, hh, hp]

/-- Settles O38: the effects of SCLR (`sclr_completes`) and of SNAP (`snap_completes`), and the decode trap of the three in other contexts. -/
theorem privilege : Obligations.Privilege := by
  unfold Obligations.Privilege
  intro s c tag hc
  refine ⟨fun hh hp => ⟨sclr_completes hc hh hp, ?_⟩, fun e d hcan hp => ?_⟩
  · obtain ⟨t, c', hx, hc', ⟨hoff, hlatched, hfurther⟩, hrest⟩ := snap_completes (tag := tag) hc hh hp
    exact ⟨t, c', hx, hc', ⟨hoff, hlatched, hfurther⟩, hrest⟩
  · have hh := (State.seated_of_iss hc).no_helper_of_split hcan.1
    obtain ⟨h1, h2, h3⟩ := exec_privileged hc hh hp tag d
    have ht := trapTaken_decodeTrap (cause := .privOp) hc hcan (by decide)
    exact ⟨⟨_, h1, ht⟩, ⟨_, h2, ht⟩, _, h3, ht⟩

end Sys2Proof.Machine

/-! SUPPORT. A raised record stands among the records, and its writing changes no warp but for monitors. -/

namespace Sys2Proof.Machine

/-! ### What a write of memory leaves of records and warps -/

/-- A warp but for its monitors, which a write of their line fires. -/
def Warp.unwatched (w : Warp) : Warp := { w with monitors := [] }

/-- The records, and the warps but for their monitors. -/
def State.papers (s : State) : List Record × List Record × (Nat → Nat → Option Warp) :=
  (s.recQ, s.recOpen, fun core slot => (s.warp? core slot).map Warp.unwatched)

theorem State.papers_of_same {s t : State} (hq : t.recQ = s.recQ) (ho : t.recOpen = s.recOpen) (hw : ∀ core slot, t.warp? core slot = s.warp? core slot) :
    t.papers = s.papers := by
  simp only [State.papers, hq, ho, hw]

theorem foldl_papers {α : Type} {f : State → α → State} (hf : ∀ t a, (f t a).papers = t.papers) (l : List α) (s : State) : (l.foldl f s).papers = s.papers :=
  foldl_observe_same State.papers (fun a _ t => hf t a) s

@[simp] theorem State.hbmClaim_papers (s : State) (key line : Nat) : (s.hbmClaim key line).papers = s.papers := by
  unfold State.hbmClaim
  (repeat' split) <;> rfl

@[simp] theorem State.hbmPut_papers (s : State) (key a : Nat) (b : Byte) : (s.hbmPut key a b).papers = s.papers := s.hbmClaim_papers key (a / 128)

@[simp] theorem State.hbmWrite_papers (s : State) (key a : Nat) (bs : List Byte) : (s.hbmWrite key a bs).papers = s.papers := by
  induction bs generalizing s a with
  | nil => rfl
  | cons b bs ih => exact (ih _ _).trans (s.hbmPut_papers key a b)

@[simp] theorem State.memWrite_papers (s : State) (plot : Nat) (sp : Space) (key a : Nat) (bs : List Byte) : (s.memWrite plot sp key a bs).papers = s.papers := by
  cases sp with
  | hbm => exact s.hbmWrite_papers key a bs
  | _ => rfl

@[simp] theorem State.fusedWrite_papers (s : State) (sp : Space) (key pa : Nat) (bs : List Byte) : (s.fusedWrite sp key pa bs).papers = s.papers := by
  unfold State.fusedWrite
  split
  · refine foldl_papers (fun t e => ?_) _ s
    dsimp only
    split
    · exact State.papers_of_same rfl rfl fun c d => t.warp?_modCore_of_warps _ c d fun _ => rfl
    · rfl
  · rfl

/-- Firing monitors of a warp. -/
theorem State.modWarp_papers (s : State) (core slot : Nat) {f : Warp → Warp} (hf : ∀ w, (f w).unwatched = w.unwatched) :
    (s.modWarp core slot f).papers = s.papers := by
  have hw : ∀ c d, ((s.modWarp core slot f).warp? c d).map Warp.unwatched = (s.warp? c d).map Warp.unwatched := fun c d => by
    by_cases h : core = c ∧ slot = d
    · obtain ⟨rfl, rfl⟩ := h
      rw [s.warp?_modWarp, Option.map_map]
      exact Option.map_congr fun w _ => hf w
    · by_cases hc : c = core
      · subst hc
        rw [(s.quiet_modWarp c slot f).warps d fun hd => h ⟨rfl, hd.symm⟩]
      · simp only [State.warp?, s.sameOthers_modWarp core slot f c hc]
  simp only [State.papers, hw, State.modWarp_recQ, State.modWarp_recOpen]

theorem State.askLanes_papers (s : State) (core slot lanes : Nat) : (s.askLanes core slot lanes).papers = s.papers := by
  refine State.papers_of_same rfl rfl fun c d => s.warp?_modCore_of_warps core c d fun k => ?_
  unfold Core.modPricking
  split <;> rfl

@[simp] theorem State.fireLine_papers (s : State) (key : Nat) : (s.fireLine key).papers = s.papers := by
  unfold State.fireLine
  refine (foldl_papers (fun t core => foldl_papers (fun u slot => ?_) _ t) _ _).trans ?_
  · split
    · rfl
    · split
      · exact (State.askLanes_papers _ _ _ _).trans (u.modWarp_papers _ _ fun _ => rfl)
      · rfl
  · split <;> rfl

@[simp] theorem State.setDir_papers (s : State) (key : Nat) (d : DirLine) : (s.setDir key d).papers = s.papers := rfl

@[simp] theorem State.meterHost_papers (s : State) (part : Option Nat) (sp : Space) (toward back : Nat) : (s.meterHost part sp toward back).papers = s.papers := by
  unfold State.meterHost
  (repeat' split) <;> rfl

@[simp] theorem State.performWrite_papers (s : State) (plot : Nat) (sp : Space) (key pa : Nat) (bs : List Byte) :
    (s.performWrite plot sp key pa bs).papers = s.papers := by
  unfold State.performWrite
  refine (foldl_papers (fun t l => by simp) _ _).trans ((foldl_papers (fun t e => by simp) _ _).trans (by simp))

theorem State.ctxPutBy_papers (s : State) (bad : Bool) (ctx va : Nat) (bs : List Byte) (n : Nat) : (s.ctxPutBy bad ctx va bs n).papers = s.papers := by
  induction n generalizing s va bs with
  | zero => rfl
  | succ n ih =>
    unfold State.ctxPutBy
    split
    · rfl
    · refine (ih _ _ _).trans ?_
      split
      · rfl
      · split
        · rfl
        · simp

theorem State.ctxPut_papers (s : State) (ctx va : Nat) (bs : List Byte) : (s.ctxPut ctx va bs).papers = s.papers := by
  unfold State.ctxPut
  split
  · refine (State.ctxPutBy_papers _ _ _ _ _ _).trans ?_
    split <;> rfl
  · exact State.ctxPutBy_papers _ _ _ _ _ _

/-! ### The rings -/

/-- The warps but for their monitors. -/
theorem State.warps_of_papers {s t : State} (h : t.papers = s.papers) (core slot : Nat) :
    (t.warp? core slot).map Warp.unwatched = (s.warp? core slot).map Warp.unwatched :=
  congrFun (congrFun (congrArg (fun p => p.2.2) h) core) slot

theorem State.modQueue_papers (s : State) (n : Nat) (f : Queue → Queue) : (s.modQueue n f).papers = s.papers := by
  unfold State.modQueue
  split <;> rfl

theorem State.countRequest_papers (s : State) (r : Record) : (s.countRequest r).papers = s.papers := by
  unfold State.countRequest
  split <;> rfl

theorem State.ctxWrite_papers {s t : State} {ctx va : Nat} {bs : List Byte} (h : s.ctxWrite ctx va bs = .ok t) : t.papers = s.papers := by
  unfold State.ctxWrite at h
  split at h <;> cases h
  exact s.ctxPut_papers ctx va bs

/-- A ring that takes a record closes none, and changes no warp but for its monitors; the record itself is open, unless it is a notice. -/
theorem State.papers_of_ringWrite {s t : State} {n : Nat} {r : Record} (h : s.ringWrite n r = some t) :
    (r.kind ≠ .notice → r ∈ t.recOpen) ∧ (∀ x ∈ s.recOpen, x ∈ t.recOpen) ∧
      ∀ core slot, (t.warp? core slot).map Warp.unwatched = (s.warp? core slot).map Warp.unwatched := by
  unfold State.ringWrite at h
  split at h
  · cases h
  · split at h
    · cases h
    · split at h
      · cases h
      next u hu =>
        have hp := (u.modQueue_papers n (fun q => { q with eqwr := (q.eqwr + 1) % 2 ^ 32, ringFault := false })).trans (State.ctxWrite_papers hu)
        generalize u.modQueue n (fun q => { q with eqwr := (q.eqwr + 1) % 2 ^ 32, ringFault := false }) = v at h hp
        have ho : v.recOpen = s.recOpen := congrArg (fun p => p.2.1) hp
        have hw := State.warps_of_papers hp
        dsimp only at h
        split at h
        next hk =>
          cases h
          exact ⟨fun hn => absurd hk hn, fun x hx => by rwa [ho], hw⟩
        next =>
          cases h
          have hc := State.countRequest_papers { v with recOpen := v.recOpen ++ [r] } r
          have hco : (({ v with recOpen := v.recOpen ++ [r] } : State).countRequest r).recOpen = s.recOpen ++ [r] :=
            (congrArg (fun p => p.2.1) hc).trans (congrArg (· ++ [r]) ho)
          refine ⟨fun _ => ?_, fun x hx => ?_, fun core slot => (State.warps_of_papers hc core slot).trans (hw core slot)⟩
          · rw [hco]
            exact List.mem_append_right _ List.mem_cons_self
          · rw [hco]
            exact List.mem_append_left _ hx

/-- What the trial of some waiting records makes of them: none is lost, none that is open is closed, and no warp changes but for its monitors. -/
structure Flushed (rs : List Record) (s t : State) (rest : List Record) : Prop where
  kept : ∀ r ∈ rs, r.kind ≠ .notice → r ∈ rest ∨ r ∈ t.recOpen
  opened : ∀ r ∈ s.recOpen, r ∈ t.recOpen
  warps : ∀ core slot, (t.warp? core slot).map Warp.unwatched = (s.warp? core slot).map Warp.unwatched

/-- A record that stays waiting. -/
theorem Flushed.wait {r : Record} {rs rest : List Record} {s s1 t : State} (hs : s1.papers = s.papers) (h : Flushed rs s1 t rest) :
    Flushed (r :: rs) s t (r :: rest) where
  kept x hx hn := by
    rcases List.mem_cons.mp hx with rfl | hx
    · exact .inl List.mem_cons_self
    · exact (h.kept x hx hn).imp_left (List.mem_cons_of_mem _)
  opened x hx := h.opened x (by rwa [show s1.recOpen = s.recOpen from congrArg (fun p => p.2.1) hs])
  warps core slot := (h.warps core slot).trans (State.warps_of_papers hs core slot)

theorem flushed_flushRecs (stuck : List Nat) (rs : List Record) (s : State) : Flushed rs s (flushRecs stuck rs s).1 (flushRecs stuck rs s).2 := by
  induction rs generalizing s stuck with
  | nil => exact ⟨fun _ h => absurd h List.not_mem_nil, fun _ h => h, fun _ _ => rfl⟩
  | cons r rs ih =>
    unfold flushRecs
    split
    · exact .wait rfl (ih stuck s)
    · split
      · exact .wait rfl (ih stuck s)
      · split
        next u hu =>
          obtain ⟨hr, ho, hw⟩ := State.papers_of_ringWrite hu
          have h := ih stuck u
          refine ⟨fun x hx hn => ?_, fun x hx => h.opened x (ho x hx), fun core slot => (h.warps core slot).trans (hw core slot)⟩
          rcases List.mem_cons.mp hx with rfl | hx
          · exact .inr (h.opened x (hr hn))
          · exact h.kept x hx hn
        next => exact .wait (s.modQueue_papers _ _) (ih _ _)

/-! ### A record is raised, and its split is stopped under it -/

/-- A record that is raised takes the next number of its context and stands among the records, and no warp changes but for its monitors. -/
theorem State.post_spec (s : State) {r : Record} (hk : r.kind ≠ .notice) :
    { r with seq := s.nextSeq r.ctx } ∈ (s.post r).recQ ++ (s.post r).recOpen ∧
      ∀ core slot, ((s.post r).warp? core slot).map Warp.unwatched = (s.warp? core slot).map Warp.unwatched := by
  let r' : Record := { r with seq := s.nextSeq r.ctx }
  let s1 : State := { s with recSeq := mset s.recSeq r.ctx (s.nextSeq r.ctx), recQ := s.recQ ++ [r'] }
  have hf := flushed_flushRecs ((s1.cmd.queues.filter (fun e => e.2.ringFault)).map Prod.fst) s1.recQ s1
  have hflush : r' ∈ s1.flush.recQ ++ s1.flush.recOpen ∧
      ∀ core slot, (s1.flush.warp? core slot).map Warp.unwatched = (s.warp? core slot).map Warp.unwatched :=
    ⟨List.mem_append.mpr (hf.kept r' (List.mem_append_right _ List.mem_cons_self) hk), hf.warps⟩
  have hpost : s.post r = if r.kind = .warp ∨ r.kind = .restore then s1.flush.trigger .fault 0 none else s1.flush := by
    unfold State.post
    rw [if_neg hk]
  rw [hpost]
  split
  · rw [State.trigger_eq]
    exact hflush
  · exact hflush

/-- A split stopped under a record of its cause: the record stands, and of the warp only monitors have changed beside the split's entry. -/
theorem recordTaken_stopRecord {s s1 : State} {c : Iss} {e cause inner addr : Nat} {fw : Warp → Warp} {fh : Helper → Helper} (hseat : Seated s c)
    (hwho : c.who = .split e) (hs : Seat s s1 c fw fh) (hstrands : (fw c.w).strands = c.w.strands) (hregs : (fw c.w).regs = c.w.regs)
    (hpreds : (fw c.w).preds = c.w.preds) (htrap : (fw c.w).trap = c.w.trap) (hentry : (mget? (fw c.w).splits e).isSome) :
    RecordTaken (s1.stopRecord c cause inner c.pc.toNat addr) c e cause inner := by
  let r := s1.warpRecord c.core c.slot c.w cause inner c.pc.toNat addr
  obtain ⟨hmem, hwarps⟩ := s1.post_spec (r := r) (show RecordKind.warp ≠ .notice by decide)
  have hw1 : s1.warp? c.core c.slot = some (fw c.w) := by rw [hs.warp, hseat.warp]; rfl
  have hw2 := hwarps c.core c.slot
  rw [hw1] at hw2
  obtain ⟨w2, hw2, heq⟩ := Option.map_eq_some_iff.mp hw2
  have hsplits : w2.splits = (fw c.w).splits := (congrArg Warp.splits heq :)
  obtain ⟨sp, hsp⟩ := Option.isSome_iff_exists.mp hentry
  let f : Split → Split := fun sp => { sp with status := .parked (.record (s1.nextSeq r.ctx)), reserve := none }
  have hlast : s1.stopRecord c cause inner c.pc.toNat addr = (s1.post r).modWarp c.core c.slot (fun w => w.modEntry e f) := by
    unfold State.stopRecord State.modSplit
    rw [hwho]
    rfl
  have hrest := w2.rest_modEntry e f
  refine ⟨w2.modEntry e f, f sp, s1.nextSeq r.ctx, ?_, ?_, rfl, ?_, ?_, ?_, ?_, { r with seq := s1.nextSeq r.ctx }, ?_, rfl, rfl, rfl, rfl, rfl, rfl, rfl, rfl⟩
  · rw [hlast, State.warp?_modWarp, hw2]
    rfl
  · rw [Warp.splits_modEntry, if_pos rfl, hsplits, hsp]
    rfl
  · exact ((congrArg Warp.strands hrest :).trans (congrArg Warp.strands heq :)).trans hstrands
  · exact ((congrArg Warp.regs hrest :).trans (congrArg Warp.regs heq :)).trans hregs
  · exact ((congrArg Warp.preds hrest :).trans (congrArg Warp.preds heq :)).trans hpreds
  · exact ((congrArg Warp.trap hrest :).trans (congrArg Warp.trap heq :)).trans htrap
  · rw [hlast, State.modWarp_recQ, State.modWarp_recOpen]
    exact hmem

end Sys2Proof.Machine

/-! PROOF. SoftwareTrapsAndReturn: BKPT, TRAP and unused encodings raise their causes; a cause without a handler stops the warp under a record or ends
the helper; and RFT leaves trap state. -/

namespace Sys2Proof.Machine

/-! ### BKPT, TRAP and unused encodings -/

theorem softwareTrapsBasic : SoftwareTrapsBasic := by
  intro s c hc
  refine ⟨fun n e hcan => ?_, fun n hh hex => ?_⟩
  · have hh := (State.seated_of_iss hc).no_helper_of_split hcan.1
    refine ⟨⟨_, ?_, trapTaken_takeTrap (cause := .bkpt) hc hcan (by decide) 0⟩, fun g hex => ⟨_, ?_, trapTaken_takeTrap (cause := .trap) hc hcan (by decide) 0⟩,
      fun w => ⟨_, withIss_eq _ hc, trapTaken_decodeTrap hc hcan (by decide)⟩⟩
    · show execBkpt n s = _
      simp [execBkpt, withIss_eq _ hc, hh]
    · show execTrap n g s = _
      simp [execTrap, withIss_eq _ hc, hh, hex]
  · refine completesWith_finish (ps := []) hc ?_
    show execTrap n true s = _
    simp [execTrap, withIss_eq _ hc, hh, hex]

/-! ### Without a handler -/

/-- A trap that has issued and finds no handler: in trap state the record names both causes, with no trap base its own. -/
theorem recordTaken_takeTrap {s : State} {c : Iss} {e : Nat} {cause : Cause} (hc : s.iss = some c) (hwho : c.who = .split e) (hne : cause ≠ .eccUncorrectable) :
    (c.w.trap ≠ none → RecordTaken (s.takeTrap c cause 0) c e (c.w.trapcause.toNat % 256) cause.code) ∧
    (c.w.trap = none → s.trapBase c = 0 → RecordTaken (s.takeTrap c cause 0) c e cause.code 0) := by
  have hseat := State.seated_of_iss hc
  obtain ⟨sp, hsp, hent⟩ := hseat.entry_of_split hwho
  obtain ⟨fw, hr, hfw⟩ := s.seat_retire_split hwho hsp []
  have hw := hfw c.w
  let s1 := (s.retire c []).modWarp c.core c.slot (fun w => { w with trapcause := BitVec.ofNat 32 (0 + cause.code), trappc := c.pc })
  have hs1 : Seat s s1 c (fun w => { fw w with trapcause := BitVec.ofNat 32 (0 + cause.code), trappc := c.pc }) id := hr.trans (State.seat_modWarp _ c _)
  have hentry : (mget? (fw c.w).splits e).isSome := by
    have h := congrArg Option.isSome hw.entry
    simpa [hent] using h
  have hrec : ∀ code inner, RecordTaken (s1.stopRecord c code inner c.pc.toNat 0) c e code inner := fun code inner =>
    recordTaken_stopRecord hseat hwho hs1 (congrArg Warp.strands hw.rest :) (congrArg Warp.regs hw.rest :) (congrArg Warp.preds hw.rest :)
      (congrArg Warp.trap hw.rest :) hentry
  have hbase := (Calm.of_quiet (s.quiet_retire c [])).trapBase c
  refine ⟨fun htrap => ?_, fun htrap hzero => ?_⟩
  · obtain ⟨tr, htr⟩ := Option.ne_none_iff_exists'.mp htrap
    have heq : s.takeTrap c cause 0 = s1.stopRecord c (bitsOf c.w.trapcause.toNat 0 8) cause.code c.pc.toNat 0 := by
      unfold State.takeTrap State.enterTrap
      rw [hwho]
      dsimp only
      rw [if_neg hne, htr]
    rw [heq, show bitsOf c.w.trapcause.toNat 0 8 = c.w.trapcause.toNat % 256 by simp [bitsOf]]
    exact hrec _ _
  · have heq : s.takeTrap c cause 0 = s1.stopRecord c cause.code (bitsOf 0 8 8) c.pc.toNat 0 := by
      unfold State.takeTrap State.enterTrap
      rw [hwho]
      dsimp only
      rw [if_neg hne, htrap]
      exact if_pos (hbase.trans hzero)
    rw [heq]
    exact hrec _ _

/-- The helper's own record of a fault, and its end. -/
theorem Pricking.endHelper_noteFault {p : Pricking} {lane inner : Nat} {h : Helper} (hh : mget? p.helpers lane = some h) :
    (p.noteFault (h.chunk.getD 0x7F) lane inner).endHelper lane .cancelled = { p.noteFault (h.chunk.getD 0x7F) lane inner with
      helpers := mdel p.helpers lane, flags := p.flags ||| h.fpst, claims := mdel p.claims lane, served := mdel p.served lane,
      chunks := match h.chunk.or ((mget? p.served lane).join) with
        | some j => setAt p.chunks j .cancelled
        | none => p.chunks } := by
  have hq : ∀ q : Pricking, mget? q.helpers lane = some h → q.endHelper lane .cancelled = { q with
      helpers := mdel q.helpers lane, flags := q.flags ||| h.fpst, claims := mdel q.claims lane, served := mdel q.served lane,
      chunks := match h.chunk.or ((mget? q.served lane).join) with
        | some j => setAt q.chunks j .cancelled
        | none => q.chunks } := fun q hq => by
    unfold Pricking.endHelper
    rw [hq] <;> rfl
  unfold Pricking.noteFault
  split
  · exact hq _ hh
  · split <;> exact hq _ hh

/-- What a helper that ends leaves outstanding is no part of a pricking. -/
theorem State.prickings_orphan (s : State) (core slot lane : Nat) : ((s.orphan core slot lane).core core).prickings = (s.core core).prickings := by
  unfold State.orphan
  simp [State.core, State.modCore, State.setCore]

theorem helperEnded_decodeTrap {s : State} {c : Iss} {lane : Nat} {h : Helper} {p : Pricking} {cause : Cause} (hc : s.iss = some c) (hwho : c.who = .helper lane)
    (hhel : c.hel = some h) (hpk : c.pk = some p) : HelperEnded (s.decodeTrap c cause) c lane p h cause := by
  have hseat := State.seated_of_iss hc
  have hpr : mget? (s.core c.core).prickings (c.slot / 2) = some p := hseat.pk.symm.trans hpk
  have hh : mget? p.helpers lane = some h := by
    obtain ⟨_, _, h1, -⟩ | ⟨l, q, x, h1, -, hq, -, hx, hx'⟩ := hseat.who
    · rw [hwho] at h1; cases h1
    · rw [hwho] at h1; cases h1
      rw [hpk] at hq; cases hq
      rw [hhel] at hx'; cases hx'
      exact hx
  have heq : s.decodeTrap c cause = s.helperFault c.core c.slot lane cause.code := by
    unfold State.decodeTrap State.enterTrap
    rw [hwho]
  have hcore := s.prickings_orphan c.core c.slot lane
  have hprick : mget? ((s.decodeTrap c cause).core c.core).prickings (c.slot / 2) =
      some ((p.noteFault (h.chunk.getD 0x7F) lane cause.code).endHelper lane .cancelled) := by
    rw [heq, State.helperFault, State.core_modCore_same]
    simp only [Core.modPricking, hcore, hpr, mget?_mset_same, hh]
  rw [Pricking.endHelper_noteFault hh] at hprick
  refine ⟨?_, _, hprick, mget?_mdel_same _ _, fun l hl => mget?_mdel_other _ (Ne.symm hl), rfl, fun j hj => by rw [hj]; rfl, fun hn hj => by rw [hn, hj]; rfl, fun hn => ?_⟩
  · rw [heq, State.helperFault, State.warp?_modCore_of_warps, State.warp?_orphan]
    · exact hseat.warp
    · intro k
      unfold Core.modPricking
      split <;> rfl
  · dsimp only
    rw [Pricking.noteFault, hn]

theorem trapsWithoutHandler : TrapsWithoutHandler := by
  intro s c n hc
  have hbk : ∀ e, c.who = .split e → exec (.bkpt n) s = .next (s.takeTrap c .bkpt 0) := fun e hwho => by
    show execBkpt n s = _
    simp [execBkpt, withIss_eq _ hc, (State.seated_of_iss hc).no_helper_of_split hwho]
  refine ⟨fun e hwho htrap => ⟨_, hbk e hwho, (recordTaken_takeTrap hc hwho (by decide)).1 htrap⟩,
    fun e hwho htrap hbase => ⟨_, hbk e hwho, (recordTaken_takeTrap hc hwho (by decide)).2 htrap hbase⟩,
    fun lane h p hwho hhel hpk => ⟨_, ?_, helperEnded_decodeTrap hc hwho hhel hpk⟩⟩
  show execBkpt n s = _
  simp [execBkpt, withIss_eq _ hc, hhel]

/-! ### RFT -/

/-- What leaving a handler makes of a warp. -/
def Warp.leaveHandler (w : Warp) (e : Nat) (lanes : List Nat) (pc : DWord) : Warp :=
  (lanes.foldl (fun w l => w.modStrand l (fun st => { st with pc := pc })) (({ w with trap := none } : Warp).modEntry e (fun sp => { sp with reserve := none }))).modEntry e
    (fun sp => { sp with status := .ready, replay := none })

theorem Warp.leaveHandler_rest (w : Warp) (e : Nat) (lanes : List Nat) (pc : DWord) :
    ({ w.leaveHandler e lanes pc with strands := [], splits := [] } : Warp) = { w with strands := [], splits := [], trap := none } := by
  have h1 := Warp.rest_modEntry { w with trap := none } e (fun sp => { sp with reserve := none })
  have h2 := Warp.rest_modEntry (lanes.foldl (fun w l => w.modStrand l (fun st => { st with pc := pc }))
    (({ w with trap := none } : Warp).modEntry e (fun sp => { sp with reserve := none }))) e (fun sp => { sp with status := .ready, replay := none })
  rw [Warp.foldl_modStrand] at h2
  rw [Warp.leaveHandler, Warp.foldl_modStrand]
  exact (congrArg (fun w : Warp => { w with strands := [] }) h2 :).trans (congrArg (fun w : Warp => { w with strands := [] }) h1 :)

theorem Warp.leaveHandler_strands (w : Warp) (e : Nat) (lanes : List Nat) (pc : DWord) :
    (w.leaveHandler e lanes pc).strands = (lanes.foldl (fun w l => w.modStrand l (fun st => { st with pc := pc })) w).strands := by
  have h1 := Warp.rest_modEntry { w with trap := none } e (fun sp => { sp with reserve := none })
  have h2 := Warp.rest_modEntry (lanes.foldl (fun w l => w.modStrand l (fun st => { st with pc := pc }))
    (({ w with trap := none } : Warp).modEntry e (fun sp => { sp with reserve := none }))) e (fun sp => { sp with status := .ready, replay := none })
  refine (congrArg Warp.strands h2 :).trans ?_
  rw [Warp.foldl_modStrand, Warp.foldl_modStrand]
  exact congrArg (fun ss => lanes.foldl (fun ss l => modAt ss l (fun st : Strand => { st with pc := pc })) ss) (congrArg Warp.strands h1 :)

theorem Warp.leaveHandler_splits (w : Warp) (e : Nat) (lanes : List Nat) (pc : DWord) (d : Nat) :
    mget? (w.leaveHandler e lanes pc).splits d = if e = d then (mget? w.splits d).map (fun sp => { sp with reserve := none, status := .ready, replay := none })
      else mget? w.splits d := by
  have hm : (lanes.foldl (fun w l => w.modStrand l (fun st => { st with pc := pc }))
      (({ w with trap := none } : Warp).modEntry e (fun sp => { sp with reserve := none }))).splits =
      (({ w with trap := none } : Warp).modEntry e (fun sp => { sp with reserve := none })).splits := by
    rw [Warp.foldl_modStrand]
  rw [Warp.leaveHandler, Warp.splits_modEntry, hm, Warp.splits_modEntry]
  by_cases h : e = d
  · simp only [if_pos h, Option.map_map]
    rfl
  · simp only [if_neg h]

theorem State.seat_returnTrap (s : State) {c : Iss} {e : Nat} {sp : Split} (hwho : c.who = .split e) (hsp : c.split = some sp) :
    ∃ fw : Warp → Warp, Seat s (s.returnTrap c) c (fun w => (fw w).leaveHandler e c.lanes c.w.trappc) id ∧ (∀ w, Warp.RetiredAt e sp w (fw w)) ∧
      Calm s (s.returnTrap c) c.core c.slot := by
  obtain ⟨fw, hr, hfw⟩ := s.seat_retire_split hwho hsp []
  refine ⟨fw, ?_, hfw, ?_⟩
  · unfold State.returnTrap State.setReserve State.setPc State.wake
    rw [hwho]
    exact ((((hr.trans (State.seat_modWarp _ c _)).trans (State.seat_modSplit _ hwho _)).trans (State.seat_modWarp _ c _)).trans (State.seat_modSplit _ hwho _))
  · refine .of_quiet ?_
    unfold State.returnTrap State.setReserve State.setPc State.wake
    rw [hwho]
    exact ((((s.quiet_retire c []).trans (State.quiet_modWarp _ _ _ _)).trans (State.quiet_modSplit _ _ _)).trans (State.quiet_modWarp _ _ _ _)).trans
      (State.quiet_modSplit _ _ _)

theorem rft_returns {s : State} {c : Iss} {e : Nat} (hc : s.iss = some c) (hwho : c.who = .split e) (htrap : c.w.trap ≠ none)
    (halign : c.w.trappc.toNat % 4 = 0) (hlow : c.w.trappc.toNat < 2 ^ 57) : exec .rft s = .next (s.returnTrap c) := by
  obtain ⟨tr, htr⟩ := Option.ne_none_iff_exists'.mp htrap
  show execRft s = _
  rw [execRft, withIss_eq _ hc]
  simp only [(State.seated_of_iss hc).no_helper_of_split hwho, htr, halign, Nat.not_le.mpr hlow, Option.isSome_none, Bool.false_eq_true, if_false, ne_eq,
    not_true_eq_false]

theorem returnFromTrap : ReturnFromTrap := by
  intro s c e hc hwho
  have hseat := State.seated_of_iss hc
  refine ⟨fun htrap halign hlow => ?_, fun hcan => ⟨_, ?_, trapTaken_takeTrap (cause := .illegalOp) hc hcan (by decide) 0⟩⟩
  · obtain ⟨sp, hsp, hent⟩ := hseat.entry_of_split hwho
    obtain ⟨fw, hs, hfw, hq⟩ := s.seat_returnTrap hwho hsp
    have hw := hfw c.w
    have hrest := (fw c.w).leaveHandler_rest e c.lanes c.w.trappc
    have hsplits := (fw c.w).leaveHandler_splits e c.lanes c.w.trappc
    have hstrands : (fw c.w).strands = c.w.strands := (congrArg Warp.strands hw.rest :)
    have hsome : ∀ d, (mget? (fw c.w).splits d).isSome = (mget? c.w.splits d).isSome := fun d => by
      by_cases hd : d = e
      · subst hd
        simpa using congrArg Option.isSome hw.entry
      · rw [hw.splits d hd]
    obtain ⟨c', hc', hb⟩ := hseat.after hs fun d => by
      rw [hsplits, ← hsome]
      split <;> simp
    have hready : ∀ sp', c'.split = some sp' → sp'.status = .ready := fun sp' hsp' => by
      rw [hb.split e hwho, hsplits, if_pos rfl] at hsp'
      obtain ⟨_, -, rfl⟩ := Option.map_eq_some_iff.mp hsp'
      rfl
    refine ⟨_, c', rft_returns hc hwho htrap halign hlow, hc', hq.memory, hq.others, ?_, ?_, ?_, ?_, hready, fun l hl => ?_⟩ <;> rw [hb.w]
    · refine sameRegisters_of_retired hsp (.of_same rfl rfl rfl rfl rfl) ?_ ?_ ?_ ?_ ?_
      · exact (congrArg Warp.regs hrest :).trans (congrArg Warp.regs hw.rest :)
      · exact (congrArg Warp.preds hrest :).trans (congrArg Warp.preds hw.rest :)
      · exact (congrArg Warp.fpst hrest :).trans (congrArg Warp.fpst hw.rest :)
      · exact (congrArg Warp.ixs hrest :).trans (congrArg Warp.ixs hw.rest :)
      · exact (congrArg Warp.latches hrest :).trans hw.latches
    · exact (congrArg Warp.trap hrest :)
    · exact (congrArg Warp.trappc hrest :).trans (congrArg Warp.trappc hw.rest :)
    · exact (congrArg Warp.trapcause hrest :).trans (congrArg Warp.trapcause hw.rest :)
    · have hl' : l < (fw c.w).strands.length := by rwa [hstrands]
      have hst : ((fw c.w).leaveHandler e c.lanes c.w.trappc).strand l =
          (c.lanes.foldl (fun w l => w.modStrand l (fun st => { st with pc := c.w.trappc })) (fw c.w)).strand l := by
        simp only [Warp.strand, Warp.leaveHandler_strands]
      have hwl : (fw c.w).strand l = c.w.strand l := by simp only [Warp.strand, hstrands]
      rw [hst, Warp.strand_foldl_modStrand _ c.lanes_nodup, hwl]
      by_cases hm : l ∈ c.lanes <;> simp [hm, hl']
  · show execRft s = _
    simp [execRft, withIss_eq _ hc, hseat.no_helper_of_split hwho, hcan.2.1]

/-- Settles O37: each part by its own lemma, the traps by what entering a handler makes of the warp (`Warp.enterHandler`), RFT by what leaving it does. -/
theorem softwareTrapsAndReturn : Obligations.SoftwareTrapsAndReturn := ⟨softwareTrapsBasic, trapsWithoutHandler, returnFromTrap⟩

end Sys2Proof.Machine

/-! PROOF. OperandAndAddressTraps: what a synchronous register instruction does where an operand keeps it from completing, and a load or store of
global memory whose every address is misaligned. -/

namespace Sys2Proof.Machine

/-! ### Decode causes of operands -/

theorem Iss.error_of_resolve {c : Iss} (hh : c.hel = none) {t n : Nat} {o : Opnd} {k : Cause} (h : c.resolve t o n = .error k) : k = .window ∨ k = .regIndex := by
  unfold Iss.resolve at h
  rw [hh] at h
  cases o with
  | vz => cases h
  | latch => cases h
  | win =>
    dsimp only at h
    split at h <;> cases h
    exact .inl rfl
  | ix =>
    dsimp only at h
    split at h <;> cases h
    exact .inr rfl

theorem Iss.opCause_ne_ecc {c : Iss} (hh : c.hel = none) {ts : List Nat} {o : Opnd} {n : Nat} {k : Cause} (h : c.opCause ts o n = some k) : k ≠ .eccUncorrectable := by
  unfold Iss.opCause at h
  dsimp only at h
  split at h
  · cases h
    decide
  · split at h
    · cases h
      decide
    · obtain ⟨t, -, ht⟩ := List.mem_filterMap.mp (List.mem_of_head? h)
      split at ht <;> cases ht
      next hr =>
        rcases Iss.error_of_resolve hh hr with rfl | rfl <;> decide

theorem Iss.opsCause_ne_ecc {c : Iss} (hh : c.hel = none) {ts : List Nat} {os : List (Opnd × Nat)} {k : Cause} (h : c.opsCause ts os = some k) :
    k ≠ .eccUncorrectable := by
  unfold Iss.opsCause Iss.checksCause at h
  dsimp only at h
  split at h
  · cases h
    decide
  · obtain ⟨x, -, hx⟩ := List.mem_filterMap.mp (List.mem_of_head? h)
    exact Iss.opCause_ne_ecc hh hx

theorem AluSpec.cause_ne_ecc {sp : AluSpec} {c : Iss} (hh : c.hel = none) {k : Cause} (h : sp.cause c = some k) : k ≠ .eccUncorrectable := by
  unfold AluSpec.cause at h
  rw [hh] at h
  split at h
  · cases h
    decide
  · split at h
    next hdst =>
      cases h
      split at hdst
      · exact Iss.opCause_ne_ecc hh hdst
      · cases hdst
    next => exact Iss.opsCause_ne_ecc hh h

/-! ### Synchronous register instructions -/

/-- Every instruction that has such operands is the shared operation on them. -/
theorem exec_of_aluOf {i : Instr} {sp : AluSpec} (h : aluOf i = some sp) (s : State) : ∃ f, exec i s = aluStep sp f s := by
  unfold aluOf at h
  split at h <;> cases h <;> exact ⟨_, rfl⟩

/-- An uncorrectable soft error stops the split under a record, whether the warp has a handler or not. -/
theorem recordTaken_ecc {s : State} {c : Iss} {e : Nat} (hc : s.iss = some c) (hwho : c.who = .split e) :
    RecordTaken (s.takeTrap c .eccUncorrectable 0) c e Cause.eccUncorrectable.code 0 := by
  have hseat := State.seated_of_iss hc
  obtain ⟨sp, hsp, hent⟩ := hseat.entry_of_split hwho
  obtain ⟨fw, hr, hfw⟩ := s.seat_retire_split hwho hsp []
  have hw := hfw c.w
  have heq : s.takeTrap c .eccUncorrectable 0 = (s.retire c []).stopRecord c Cause.eccUncorrectable.code 0 c.pc.toNat 0 := by
    unfold State.takeTrap State.enterTrap
    rw [hwho]
    exact if_pos rfl
  rw [heq]
  refine recordTaken_stopRecord hseat hwho hr (congrArg Warp.strands hw.rest :) (congrArg Warp.regs hw.rest :) (congrArg Warp.preds hw.rest :)
    (congrArg Warp.trap hw.rest :) ?_
  simpa [hent] using congrArg Option.isSome hw.entry

theorem registerTraps : RegisterTraps := by
  intro s c i sp e hc hi hcan
  obtain ⟨f, hx⟩ := exec_of_aluOf hi s
  rw [aluStep, withIss_eq _ hc] at hx
  have hh := (State.seated_of_iss hc).no_helper_of_split hcan.1
  refine ⟨fun k hk => ⟨s.decodeTrap c k, ?_, trapTaken_decodeTrap hc hcan (AluSpec.cause_ne_ecc hh hk)⟩, fun hcause => ?_⟩
  · rw [hx, aluState, hk]
  rw [aluState, hcause] at hx
  refine ⟨fun hw => ⟨s.stall, ?_, rfl⟩, fun hw => ⟨fun hsh => ⟨_, ?_, trapTaken_takeTrap hc hcan (by decide) 0⟩, fun hsh hbad => ⟨_, ?_, recordTaken_ecc hc hcan.1⟩⟩⟩
  · simp [hx, hw]
  · simp [hx, hw, hsh]
  · simp [hx, hw, hsh, hbad]

/-! ### Misaligned accesses -/

theorem lowestCause_spec (ks : List MemCause) (h : ks ≠ []) : ∃ k ∈ ks, lowestCause ks = some k := by
  induction ks with
  | nil => exact absurd rfl h
  | cons k r ih =>
    unfold lowestCause
    cases hr : lowestCause r with
    | none => exact ⟨k, List.mem_cons_self, rfl⟩
    | some d =>
      obtain ⟨x, hx, hxr⟩ := ih (by rintro rfl; cases hr)
      obtain rfl := Option.some.inj (hr.symm.trans hxr)
      dsimp only
      split
      · exact ⟨k, List.mem_cons_self, rfl⟩
      · exact ⟨d, List.mem_cons_of_mem _ hx, rfl⟩

/-- The verdict where every unit is misaligned: no access goes ahead, none parks, and the cause is ALIGN. -/
structure Verdict.Misaligned (v : Verdict) : Prop where
  go : v.go = []
  performs : v.performs = false
  parked : v.parked = 0
  trap : ∃ va, v.trap = some (.align, va)

theorem decideVerdict_misaligned {us : List (Nat × List Nat)} {check : Nat × List Nat → Except MemCause (List Access)} {va : Nat × List Nat → Nat} (hne : us ≠ [])
    (h : ∀ x ∈ us, check x = .error (.align, va x)) : (decideVerdict (us.map (fun x => (x, check x)))).Misaligned := by
  rw [List.map_congr_left fun x hx => by rw [h x hx]]
  unfold decideVerdict
  extract_lets causes lanes parks stays trap mixed goes okAcc replayOf
  have hmem : ∀ l k, k ∈ causes l ↔ ∃ x ∈ us, x.1 / 4 = l ∧ k = (Cause.align, va x) := fun l k => by
    simp only [causes, List.mem_filterMap, List.mem_map]
    constructor
    · rintro ⟨_, ⟨x, hx, rfl⟩, hk⟩
      split at hk
      next hl => exact ⟨x, hx, hl, (Option.some.inj hk).symm⟩
      next => cases hk
    · rintro ⟨x, hx, hl, rfl⟩
      exact ⟨_, ⟨x, hx, rfl⟩, if_pos hl⟩
  have hparks : parks = [] := List.filter_eq_nil_iff.mpr fun l _ => by
    rw [Bool.not_eq_true, List.any_eq_false]
    intro k hk
    obtain ⟨x, -, -, rfl⟩ := (hmem l k).mp hk
    simp [MemCause.parks]
  have hstays : stays = lanes := by
    simp only [stays, hparks]
    exact List.filter_true lanes
  obtain ⟨x, hx⟩ := List.exists_mem_of_ne_nil us hne
  have hlane : x.1 / 4 ∈ lanes := List.mem_dedup.mpr (List.mem_map.mpr ⟨_, List.mem_map.mpr ⟨x, hx, rfl⟩, rfl⟩)
  obtain ⟨k, hk, htrap⟩ := lowestCause_spec (stays.flatMap causes)
    (List.ne_nil_of_mem (List.mem_flatMap.mpr ⟨_, hstays ▸ hlane, (hmem _ _).mpr ⟨x, hx, rfl, rfl⟩⟩))
  obtain ⟨l, -, hkl⟩ := List.mem_flatMap.mp hk
  obtain ⟨y, -, -, rfl⟩ := (hmem l k).mp hkl
  refine ⟨?_, ?_, by rw [hparks]; rfl, va y, htrap⟩
  · rw [List.flatMap_map]
    exact List.flatMap_eq_nil_iff.mpr fun _ _ => rfl
  · have hus : us.isEmpty = false := by simpa using hne
    simp [hus, Except.toBool]

theorem Verdict.Misaligned.settle {v : Verdict} (h : v.Misaligned) (s : State) (c : Iss) (run : State → State) :
    ∃ va, s.settle c v run = s.takeTrap c .align va := by
  obtain ⟨va, hva⟩ := h.trap
  refine ⟨va, ?_⟩
  unfold State.settle
  simp only [h.performs, Bool.false_eq_true, if_false, h.parked, if_true, hva]

/-- An instruction on global memory whose every unit is misaligned takes ALIGN, its translations kept. -/
theorem globalAccess_misaligned {s : State} {c : Iss} {m : MemSpec} {a : Opnd} {off : Int} {n : Nat} {kind : MemKind} {acc : AccessKind}
    {dst data : Option (Opnd × Nat)} (hc : s.iss = some c) (hm : m.Clear s c) (hne : m.units s c ≠ [])
    (hmis : ∀ x ∈ m.units s c, c.globalVa m.u x.1 a off % n ≠ 0) :
    ∃ vas va, globalAccess m s a off n kind acc none none dst data = .next ((s.fillTlbs c vas).takeTrap c .align va) := by
  have key : ∀ v : Verdict, v.Misaligned → ∀ vas run, ∃ va, (if s.overlaps c.core c.slot v.go then s.stall else (s.fillTlbs c vas).settle c v run) =
      (s.fillTlbs c vas).takeTrap c .align va := fun v hv vas run => by
    have hover : s.overlaps c.core c.slot v.go = false := by
      rw [hv.go]
      rfl
    rw [hover]
    exact hv.settle _ c run
  unfold globalAccess
  rw [withIss_eq _ hc, memPrologue_clear _ hm]
  obtain ⟨va, hva⟩ := key _ (decideVerdict_misaligned hne fun x hx => if_pos (hmis x hx)) _ _
  exact ⟨_, va, congrArg Host.Outcome.next hva⟩

theorem misalignedAccess : MisalignedAccess := by
  intro s c e k f hc hcan
  refine ⟨fun _ hm hne hmis => ?_, fun hm hne hmis => ?_⟩
  · obtain ⟨vas, va, hx⟩ := globalAccess_misaligned (n := k.bytes) (kind := .load .none) (acc := .load) (dst := some (f.d, k.words)) (data := none) hc hm hne hmis
    exact ⟨_, hx, trapTaken_takeTrap_still hc hcan (by decide) (.fillTlbs s c vas) va⟩
  · obtain ⟨vas, va, hx⟩ := globalAccess_misaligned (n := k.bytes) (kind := .store) (acc := .store) (dst := none) (data := some (f.d, k.words)) hc hm hne hmis
    exact ⟨_, hx, trapTaken_takeTrap_still hc hcan (by decide) (.fillTlbs s c vas) va⟩

/-- Settles O36: a register instruction by the branches of the shared operation (`aluState`), a misaligned access by its verdict. -/
theorem operandAndAddressTraps : Obligations.OperandAndAddressTraps := ⟨registerTraps, misalignedAccess⟩

end Sys2Proof.Machine

/-! SUPPORT. An instruction that writes registers of its threads, or of its helper, and then ends. -/

namespace Sys2Proof.Machine

theorem CompletesIn.imp {fr : Footprint} {i : Instr} {s : State} {c : Iss} {wr : Writes} {post post' : Iss → State → Prop} (h : CompletesIn fr i s c wr post)
    (himp : ∀ c' t, post c' t → post' c' t) : CompletesIn fr i s c wr post' := by
  obtain ⟨t, c', hx, hc', hpost, hrest⟩ := h
  exact ⟨t, c', hx, hc', himp c' t hpost, hrest⟩

/-! ### The words of a destination -/

theorem getElem?_natWords {n v j : Nat} (h : j < n) : (natWords n v)[j]? = some (BitVec.ofNat 32 (v / 2 ^ (32 * j))) := by
  induction n generalizing v j with
  | zero => omega
  | succ n ih =>
    cases j with
    | zero => simp [natWords]
    | succ j =>
      rw [natWords, List.getElem?_cons_succ, ih (by omega), Nat.div_div_eq_div_mul, ← pow_add, show 32 + 32 * j = 32 * (j + 1) by omega]

/-- A write of a value is one effect for each location that the operand resolves to. -/
theorem Iss.mem_writeEffs {c : Iss} {t n v : Nat} {o : Opnd} {e : Eff} :
    e ∈ c.writeEffs t o n v ↔ ∃ ls j l, c.resolve t o n = .ok ls ∧ ls[j]? = some l ∧ j < n ∧ e = .reg t l (BitVec.ofNat 32 (v / 2 ^ (32 * j))) := by
  unfold Iss.writeEffs
  cases hr : c.resolve t o n with
  | error k => simp
  | ok ls =>
    rw [List.mem_map]
    constructor
    · rintro ⟨⟨l, w⟩, hm, rfl⟩
      obtain ⟨j, hj⟩ := List.mem_iff_getElem?.mp hm
      obtain ⟨hl, hw⟩ := List.getElem?_zip_eq_some.mp hj
      have hj : j < n := by
        have := (List.getElem?_eq_some_iff.mp hw).1
        rwa [length_natWords] at this
      rw [getElem?_natWords hj] at hw
      exact ⟨ls, j, l, rfl, hl, hj, by rw [Option.some.inj hw]⟩
    · rintro ⟨ls', j, l, h, hl, hj, rfl⟩
      cases h
      exact ⟨(l, BitVec.ofNat 32 (v / 2 ^ (32 * j))), List.mem_of_getElem? (List.getElem?_zip_eq_some.mpr ⟨hl, getElem?_natWords hj⟩), rfl⟩

theorem getElem?_map_upto {α : Type} {f : Nat → α} {n j : Nat} {a : α} (h : ((upto n).map f)[j]? = some a) : a = f j := by
  rw [List.getElem?_map] at h
  obtain ⟨i, hi, rfl⟩ := Option.map_eq_some_iff.mp h
  obtain ⟨hj, rfl⟩ := List.getElem?_eq_some_iff.mp hi
  simp [upto]

theorem getElem?_allOk {α : Type} {xs : List (Except Cause α)} {ls : List α} (h : allOk xs = .ok ls) {j : Nat} {a : α} (ha : ls[j]? = some a) :
    xs[j]? = some (.ok a) := by
  induction xs generalizing ls j with
  | nil =>
    cases h
    cases ha
  | cons x xs ih =>
    cases x with
    | error k => cases h
    | ok b =>
      unfold allOk at h
      split at h <;> cases h
      next r hr =>
        cases j with
        | zero => simpa using ha
        | succ j => exact ih hr (by simpa using ha)

/-- A helper's registers, one for each number. -/
theorem helperWord_inj {p : Pricking} {i j : Nat} {l : RegLoc} (hi : helperWord p i = .ok l) (hj : helperWord p j = .ok l) : i = j := by
  unfold helperWord at hi hj
  split at hi
  · cases hi
    split at hj
    · cases hj
      rfl
    · split at hj <;> cases hj
  · split at hi
    · obtain rfl := Except.ok.inj hi
      split at hj
      · cases hj
      · split at hj
        · have h := RegLoc.frozen.inj (Except.ok.inj hj)
          omega
        · cases hj
    · cases hi

/-- No two registers of an operand are one location, but for what discards its word. -/
theorem Iss.resolve_inj {c : Iss} {t n : Nat} {o : Opnd} {ls : List RegLoc} (hr : c.resolve t o n = .ok ls) {i j : Nat} {l : RegLoc} (hl : l ≠ .zero)
    (hi : ls[i]? = some l) (hj : ls[j]? = some l) : i = j := by
  unfold Iss.resolve at hr
  split at hr
  next =>
    have h : ∀ {k : Nat}, ls[k]? = some l → ∃ p b, helperWord p (b + k) = .ok l ∧ ∀ {k'}, ls[k']? = some l → helperWord p (b + k') = .ok l := by
      intro k hk
      refine ⟨_, _, (getElem?_map_upto (getElem?_allOk hr hk)).symm, fun hk' => (getElem?_map_upto (getElem?_allOk hr hk')).symm⟩
    obtain ⟨p, b, hpi, hp⟩ := h hi
    have := helperWord_inj hpi (hp hj)
    omega
  next => cases hr
  next =>
    cases hr
    exact absurd (List.eq_of_mem_replicate (List.mem_of_getElem? hi)) hl
  next => cases hr
  next => cases hr
  next =>
    split at hr <;> cases hr
    have h := (getElem?_map_upto hi).symm.trans (getElem?_map_upto hj)
    injection h with h
    omega
  next =>
    cases hr
    have h1 := (List.getElem?_eq_some_iff.mp hi).1
    have h2 := (List.getElem?_eq_some_iff.mp hj).1
    simp only [List.length_singleton] at h1 h2
    omega
  next =>
    dsimp only at hr
    split at hr <;> cases hr
    have h := (getElem?_map_upto hi).symm.trans (getElem?_map_upto hj)
    injection h with h
    omega

/-- The effects by which some threads receive each its own value. -/
def Iss.writeAll (c : Iss) (ts : List Nat) (o : Opnd) (n : Nat) (v : Nat → Nat) : List Eff := ts.flatMap (fun t => c.writeEffs t o n (v t))

theorem Iss.mem_writeAll {c : Iss} {ts : List Nat} {n : Nat} {o : Opnd} {v : Nat → Nat} {e : Eff} : e ∈ c.writeAll ts o n v ↔
    ∃ t ∈ ts, ∃ ls j l, c.resolve t o n = .ok ls ∧ ls[j]? = some l ∧ j < n ∧ e = .reg t l (BitVec.ofNat 32 (v t / 2 ^ (32 * j))) := by
  simp only [Iss.writeAll, List.mem_flatMap, Iss.mem_writeEffs]

/-- A location of a destination receives its own word, and no other. -/
theorem Iss.reg_mem_writeAll {c : Iss} {ts : List Nat} {n : Nat} {o : Opnd} {v : Nat → Nat} {t j : Nat} {ls : List RegLoc} {l : RegLoc} (hn : 1 ≤ n) (ht : t ∈ ts)
    (hr : c.resolve t o n = .ok ls) (hj : ls[j]? = some l) (hl : l ≠ .zero) (w : Word) :
    .reg t l w ∈ c.writeAll ts o n v ↔ w = BitVec.ofNat 32 (v t / 2 ^ (32 * j)) := by
  have hjn : j < n := by
    have := (List.getElem?_eq_some_iff.mp hj).1
    rcases Iss.length_of_resolve hr with h | ⟨h, -⟩ <;> omega
  rw [Iss.mem_writeAll]
  constructor
  · rintro ⟨t', -, ls', j', l', hr', hj', -, heq⟩
    cases heq
    cases hr.symm.trans hr'
    rw [Iss.resolve_inj hr hl hj' hj]
  · rintro rfl
    exact ⟨t, ht, ls, j, l, hr, hj, hjn, rfl⟩

/-- What threads receive goes where a write may go, within what the destination names. -/
theorem Iss.writeAll_named {c : Iss} {ts : List Nat} {n : Nat} {o : Opnd} {v : Nat → Nat} {t : Nat} {l : RegLoc} {w : Word} (h : .reg t l w ∈ c.writeAll ts o n v)
    (hl : l ≠ .zero) : (ts.contains t && c.names t o n l) = true := by
  obtain ⟨t', ht, ls, j, l', hr, hj, -, heq⟩ := Iss.mem_writeAll.mp h
  cases heq
  simp [ht, Iss.names, hr, hl, List.mem_of_getElem? hj]

theorem Iss.writeAll_reg {c : Iss} {ts : List Nat} {n : Nat} {o : Opnd} {v : Nat → Nat} {e : Eff} (h : e ∈ c.writeAll ts o n v) : ∃ t l w, e = .reg t l w := by
  obtain ⟨t, -, _, _, l, -, -, -, rfl⟩ := Iss.mem_writeAll.mp h
  exact ⟨t, l, _, rfl⟩

theorem Iss.writeAll_placed {c : Iss} (hh : c.hel = none) {ts : List Nat} {n : Nat} {o : Opnd} {v : Nat → Nat} : ∀ e ∈ c.writeAll ts o n v, e.Placed := by
  rintro e he t l w rfl
  obtain ⟨t', -, ls, j, l', hr, hj, -, heq⟩ := Iss.mem_writeAll.mp he
  cases heq
  exact Iss.placed_of_resolve hh hr l (List.mem_of_getElem? hj)

/-- The writes of a destination by some threads. -/
def Iss.destWrites (c : Iss) (ts : List Nat) (o : Opnd) (n : Nat) : Writes := { Writes.none with reg := fun th l => ts.contains th && c.names th o n l }

theorem Iss.spares_writeAll {c : Iss} (hh : c.hel = none) (ts : List Nat) (o : Opnd) (n : Nat) (v : Nat → Nat) (w : Warp) :
    (c.destWrites ts o n).Spares c w ((c.writeAll ts o n v).foldl Warp.eff w) := by
  refine spares_effs hh (Iss.writeAll_placed hh) (fun t l u hm ho => Iss.writeAll_named hm (by rintro rfl; exact ho)) (fun t p b hm => ?_) (fun t f hm => ?_)
    (fun t k u hm => ?_) w
  all_goals
    obtain ⟨_, _, _, heq⟩ := Iss.writeAll_reg hm
    cases heq

/-- In a split each location of a destination holds its word once the effects have been applied. -/
theorem Iss.cell_writeAll {c : Iss} (hh : c.hel = none) {ts : List Nat} {n : Nat} {o : Opnd} {v : Nat → Nat} {t j : Nat} {ls : List RegLoc} {l : RegLoc} (hn : 1 ≤ n)
    (ht : t ∈ ts) (hr : c.resolve t o n = .ok ls) (hj : ls[j]? = some l) (hl : l ≠ .zero) (w : Warp) :
    l.Own ∧ ((c.writeAll ts o n v).foldl Warp.eff w).cell t l = some { val := BitVec.ofNat 32 (v t / 2 ^ (32 * j)), life := 3 } := by
  have hown := (Iss.placed_of_resolve hh hr l (List.mem_of_getElem? hj)).resolve_left hl
  exact ⟨hown, w.cell_effs_set (Iss.writeAll_placed hh) hown ((Iss.reg_mem_writeAll hn ht hr hj hl _).mpr rfl)
    fun u hu => (Iss.reg_mem_writeAll hn ht hr hj hl u).mp hu⟩

/-! ### The registers of a helper -/

theorem Helper.rest_effs (es : List Eff) (h : Helper) :
    ({ es.foldl Helper.eff h with regs := [], preds := 0, fpst := 0, bad := [] } : Helper) = { h with regs := [], preds := 0, fpst := 0, bad := [] } :=
  foldl_observe_same (fun h : Helper => ({ h with regs := [], preds := 0, fpst := 0, bad := [] } : Helper))
    (fun e _ h => by
      cases e with
      | reg t l v => cases l <;> rfl
      | _ => rfl) h

theorem Helper.eff_reg_priv (h : Helper) (t : Nat) (l : RegLoc) (w : Word) (n : Nat) :
    mgetD (h.eff (.reg t l w)).regs n 0 = if l = .priv n then w else mgetD h.regs n 0 := by
  cases l with
  | priv m => simp [Helper.eff, mgetD_mput]
  | _ => simp [Helper.eff]

/-- Writes of registers alone change no predicate and no flag of a helper. -/
theorem Helper.spares_writeAll (c : Iss) {lane : Nat} {ts : List Nat} (hts : ∀ t ∈ ts, t = 4 * lane) (o : Opnd) (n : Nat) (v : Nat → Nat) (h : Helper) :
    (c.destWrites ts o n).SparesHelper lane h ((c.writeAll ts o n v).foldl Helper.eff h) where
  regs k hk := foldl_observe_same (fun h : Helper => mgetD h.regs k 0) (fun e he h => by
    obtain ⟨t, l, w, rfl⟩ := Iss.writeAll_reg he
    rw [Helper.eff_reg_priv, if_neg]
    rintro rfl
    have hnamed : (ts.contains t && c.names t o n (.priv k)) = true := Iss.writeAll_named he RegLoc.noConfusion
    have ht : t = 4 * lane := hts t (by simpa using (Bool.and_eq_true_iff.mp hnamed).1)
    rw [ht] at hnamed
    exact Bool.false_ne_true (hk.symm.trans hnamed)) h
  preds p _ := foldl_observe_same (fun h : Helper => p == 0 || hasBit h.preds p) (fun e he h => by
    obtain ⟨t, l, w, rfl⟩ := Iss.writeAll_reg he
    cases l <;> rfl) h
  flags _ := foldl_observe_same (fun h : Helper => h.fpst) (fun e he h => by
    obtain ⟨t, l, w, rfl⟩ := Iss.writeAll_reg he
    cases l <;> rfl) h

/-- Each register of a helper's own that a destination names holds its word once the effects have been applied. -/
theorem Helper.regs_writeAll {c : Iss} {ts : List Nat} {n : Nat} {o : Opnd} {v : Nat → Nat} {lane j k : Nat} {ls : List RegLoc} (hts : ∀ t ∈ ts, t = 4 * lane)
    (hn : 1 ≤ n) (ht : 4 * lane ∈ ts) (hr : c.resolve (4 * lane) o n = .ok ls) (hj : ls[j]? = some (.priv k)) (h : Helper) :
    mgetD ((c.writeAll ts o n v).foldl Helper.eff h).regs k 0 = BitVec.ofNat 32 (v (4 * lane) / 2 ^ (32 * j)) := by
  have hreg := fun w => Iss.reg_mem_writeAll (v := v) hn ht hr hj RegLoc.noConfusion w
  refine foldl_observe_set (fun h : Helper => mgetD h.regs k 0) _ (fun e he h => ?_) ⟨_, (hreg _).mpr rfl, fun h => ?_⟩ h
  · obtain ⟨t, ht', _, _, l, -, -, -, heq⟩ := Iss.mem_writeAll.mp he
    obtain rfl := hts t ht'
    rw [heq] at he
    rw [heq, Helper.eff_reg_priv]
    split
    next hl =>
      rw [hl] at he
      exact .inl ((hreg _).mp he)
    next => exact .inr rfl
  · rw [Helper.eff_reg_priv, if_pos rfl]

/-! ### The instruction -/

theorem State.seat_effsBy_helper (s : State) {c : Iss} {l : Nat} (hl : c.who = .helper l) (es : List Eff) :
    Seat s (s.effsBy c es) c id (fun h => es.foldl Helper.eff h) := by
  have h : Seat s (s.effs c.core c.slot c.who es) c id (fun h => es.foldl Helper.eff h) := by
    unfold State.effs
    rw [hl]
    exact s.seat_modHelper hl _
  exact h.then_same (State.seat_coolAt _ c _ _ _ _)

theorem Iss.tids_of_helper {c : Iss} {lane : Nat} (hwho : c.who = .helper lane) : c.tids = [4 * lane] := by
  unfold Iss.tids
  rw [hwho]

/-- A destination of a helper is a register of its own, unless its word is discarded, where it does not break the frozen share range. -/
theorem Iss.priv_of_resolve {c : Iss} {h : Helper} (hh : c.hel = some h) {t n : Nat} {o : Opnd} {ls : List RegLoc} (hr : c.resolve t o n = .ok ls)
    (hsh : ls.any (c.frozenLoc t) = false) {l : RegLoc} (hl : l ∈ ls) (hz : l ≠ .zero) : ∃ k, l = .priv k := by
  have hfz : c.frozenLoc t l ≠ true := fun hf => by
    rw [List.any_eq_false] at hsh
    exact hsh l hl hf
  unfold Iss.resolve at hr
  rw [hh] at hr
  cases o with
  | vz =>
    have hr : (Except.ok (List.replicate n RegLoc.zero) : Except Cause _) = Except.ok ls := by cases hpk : c.pk <;> simpa [hpk] using hr
    cases hr
    exact absurd (List.eq_of_mem_replicate hl) hz
  | latch => cases hpk : c.pk <;> simp [hpk] at hr
  | ix => cases hpk : c.pk <;> simp [hpk] at hr
  | win k =>
    cases hpk : c.pk with
    | none => simp [hpk] at hr
    | some p =>
      rw [hpk] at hr
      obtain ⟨j, hj⟩ := List.mem_iff_getElem?.mp hl
      have hw := (getElem?_map_upto (getElem?_allOk hr hj)).symm
      unfold helperWord at hw
      split at hw
      · cases hw
        exact ⟨_, rfl⟩
      · split at hw <;> cases hw
        exact absurd rfl hfz

/-- An instruction that gives some of its threads each a value for one destination, and then ends, completes. -/
theorem completesWith_writeAll {i : Instr} {s : State} {c : Iss} {ts : List Nat} {o : Opnd} {n : Nat} {v : Nat → Nat} {ps : List Nat} (hc : s.iss = some c) (hn : 1 ≤ n)
    (hsub : ∀ t ∈ ts, t ∈ c.tids) (hsh : c.sharedWrite ts o n = false) (hx : exec i s = .next ((s.effsBy c (c.writeAll ts o n v)).finish c ps)) :
    CompletesWith i s c (c.destWrites ts o n) (fun c' _ => ∀ t ∈ ts, c.holds c' t o n (v t)) := by
  have hseat := State.seated_of_iss hc
  have hq := (s.quiet_effsBy c (c.writeAll ts o n v))
  rcases hseat.who with ⟨e, sp, hwho, -, -, hh⟩ | ⟨lane, p, h, hwho, -, -, -, -, hh⟩
  · have hrest := Warp.rest_effs (c.writeAll ts o n v) c.w
    refine completesIn_of_prepared hc hx (hq.beside _) hq.sameMemory (s.seat_effsBy hwho _) (.of_strands ?_ (congrArg Warp.splits hrest :)
      (congrArg Warp.strands hrest :) (Iss.spares_writeAll hh ts o n v c.w) fun lane _ hl => by rw [hwho] at hl; cases hl) fun c' hend t ht ls j l hr hj hl => ?_
    · exact (congrArg (fun w : Warp => ({ w with iiu := 0, splits := [], strands := [] } : Warp)) hrest :)
    · obtain ⟨hown, hcell⟩ := Iss.cell_writeAll hh hn ht hr hj hl c.w
      exact hend.warp.readLoc rfl hown hcell
  · have hts : ∀ t ∈ ts, t = 4 * lane := fun t ht => by simpa [Iss.tids_of_helper hwho] using hsub t ht
    refine completesIn_of_prepared hc hx (hq.beside _) hq.sameMemory (s.seat_effsBy_helper hwho _) (.of_strands rfl rfl rfl (.of_same rfl rfl rfl rfl rfl)
      fun l x hl hx => ?_) fun c' hend t ht ls j l hr hj hl => ?_
    · rw [hwho] at hl
      cases hl
      have hrest := Helper.rest_effs (c.writeAll ts o n v) x
      exact ⟨(congrArg Helper.pc hrest :), (congrArg (fun h : Helper => ({ h with pc := 0, age := 0, release := Release.none, wait := none, reserve := none } : Helper)) hrest :),
        Helper.spares_writeAll c hts o n v x⟩
    · obtain rfl := hts t ht
      have hfz : ls.any (c.frozenLoc (4 * lane)) = false := by
        have := List.any_eq_false.mp hsh (4 * lane) ht
        simpa only [hr, Bool.not_eq_true] using this
      obtain ⟨k, rfl⟩ := Iss.priv_of_resolve hh hr hfz (List.mem_of_getElem? hj) hl
      obtain ⟨h', hh', hfin⟩ := hend.helper h hh
      have hregs : h'.regs = ((c.writeAll ts o n v).foldl Helper.eff h).regs := (congrArg Helper.regs hfin.rest :)
      simp only [Iss.readLoc, hh', hregs]
      exact Helper.regs_writeAll hts hn ht hr hj h

end Sys2Proof.Machine

/-! SUPPORT. Fields of numbers, and what sets sr.fmt of strands and helpers. -/

namespace Sys2Proof.Machine

/-! ### Fields -/

theorem testBit_bitsOf (m lo len k : Nat) : (bitsOf m lo len).testBit k = (decide (k < len) && m.testBit (lo + k)) := by
  rw [bitsOf, Nat.testBit_mod_two_pow, Nat.testBit_div_two_pow, Nat.add_comm]

/-- A field replaced, bit by bit. -/
theorem testBit_setBits (m lo len v k : Nat) : (setBits m lo len v).testBit k = if lo ≤ k ∧ k < lo + len then v.testBit (k - lo) else m.testBit k := by
  have hm : m = 2 ^ (lo + len) * (m / 2 ^ (lo + len)) + (2 ^ lo * bitsOf m lo len + m % 2 ^ lo) := by
    have h1 := Nat.div_add_mod (m / 2 ^ lo) (2 ^ len)
    have h2 := Nat.div_add_mod m (2 ^ lo)
    rw [Nat.div_div_eq_div_mul, ← pow_add] at h1
    calc m = 2 ^ lo * (m / 2 ^ lo) + m % 2 ^ lo := h2.symm
      _ = 2 ^ lo * (2 ^ len * (m / 2 ^ (lo + len)) + bitsOf m lo len) + m % 2 ^ lo := by rw [bitsOf, h1]
      _ = _ := by rw [Nat.mul_add, ← Nat.mul_assoc, ← pow_add, Nat.add_assoc]
  have hlo : m % 2 ^ lo < 2 ^ lo := Nat.mod_lt _ (by positivity)
  have hfield : ∀ x, x < 2 ^ len → 2 ^ lo * x + m % 2 ^ lo < 2 ^ (lo + len) := fun x hx => by
    have : 2 ^ lo * (x + 1) ≤ 2 ^ lo * 2 ^ len := Nat.mul_le_mul_left _ hx
    rw [pow_add]
    rw [Nat.mul_add, Nat.mul_one] at this
    omega
  have hset : setBits m lo len v = 2 ^ (lo + len) * (m / 2 ^ (lo + len)) + (2 ^ lo * (v % 2 ^ len) + m % 2 ^ lo) := by
    unfold setBits
    generalize m / 2 ^ (lo + len) = h at hm
    generalize m % 2 ^ lo = r at hm
    rw [Nat.mul_comm (bitsOf m lo len), Nat.mul_comm (v % 2 ^ len)]
    omega
  have hbits : ∀ h x, x < 2 ^ len → (2 ^ (lo + len) * h + (2 ^ lo * x + m % 2 ^ lo)).testBit k =
      if k < lo + len then (if k < lo then (m % 2 ^ lo).testBit k else x.testBit (k - lo)) else h.testBit (k - (lo + len)) := fun h x hx => by
    rw [Nat.testBit_two_pow_mul_add _ (hfield x hx), Nat.testBit_two_pow_mul_add _ hlo]
  have hb : bitsOf m lo len < 2 ^ len := Nat.mod_lt _ (by positivity)
  rw [hset, hbits _ _ (Nat.mod_lt _ (by positivity))]
  conv_rhs => rw [hm, hbits _ _ hb]
  by_cases h1 : k < lo + len
  · by_cases h2 : k < lo
    · simp [h1, h2]
    · rw [if_pos h1, if_neg h2, if_pos ⟨by omega, h1⟩, Nat.testBit_mod_two_pow]
      simp only [decide_eq_true (show k - lo < len by omega), Bool.true_and]
  · simp [h1]

/-- The field that was replaced. -/
theorem bitsOf_setBits_same (m lo len v : Nat) : bitsOf (setBits m lo len v) lo len = v % 2 ^ len := by
  refine Nat.eq_of_testBit_eq fun k => ?_
  rw [testBit_bitsOf, testBit_setBits, Nat.testBit_mod_two_pow]
  by_cases hk : k < len
  · rw [if_pos ⟨by omega, by omega⟩, Nat.add_sub_cancel_left]
  · simp [hk]

/-- A field beside the one that was replaced. -/
theorem bitsOf_setBits_other {m lo len v lo' len' : Nat} (h : lo' + len' ≤ lo ∨ lo + len ≤ lo') : bitsOf (setBits m lo len v) lo' len' = bitsOf m lo' len' := by
  refine Nat.eq_of_testBit_eq fun k => ?_
  rw [testBit_bitsOf, testBit_bitsOf, testBit_setBits]
  by_cases hk : k < len'
  · rw [if_neg (by omega)]
  · simp [hk]

/-- A field of a word. -/
theorem bitsOf_wordOf {m lo len : Nat} (h : lo + len ≤ 32) : bitsOf (wordOf m).toNat lo len = bitsOf m lo len := by
  refine Nat.eq_of_testBit_eq fun k => ?_
  rw [testBit_bitsOf, testBit_bitsOf, wordOf, BitVec.toNat_ofNat, Nat.testBit_mod_two_pow]
  by_cases hk : k < len
  · simp [show lo + k < 32 by omega]
  · simp [hk]

/-- A number with the bits of v under a mask is v's word under it. -/
theorem wordOf_and_mask {x v mask : Nat} (h : ∀ k, k < 32 → x.testBit k = (v.testBit k && mask.testBit k)) :
    BitVec.ofNat 32 x = wordOf v &&& BitVec.ofNat 32 mask := by
  refine BitVec.eq_of_getLsbD_eq fun k hk => ?_
  simp only [wordOf, BitVec.getLsbD_and, BitVec.getLsbD_ofNat, h k hk]
  simp [hk]

end Sys2Proof.Machine

namespace Sys2Proof.Machine

/-! ### sr.fmt of strands and helpers -/

theorem Seat.foldl {α : Type} {c : Iss} {f : State → α → State} {gw : α → Warp → Warp} {gh : α → Helper → Helper} (h : ∀ s x, Seat s (f s x) c (gw x) (gh x)) (l : List α)
    (s : State) : Seat s (l.foldl f s) c (fun w => l.foldl (fun w x => gw x w) w) (fun h => l.foldl (fun h x => gh x h) h) := by
  induction l generalizing s with
  | nil => exact .refl s c
  | cons x r ih => exact (h s x).trans (ih _)

theorem Quiet.foldl {α : Type} {core slot : Nat} {f : State → α → State} (h : ∀ s x, Quiet s (f s x) core slot) (l : List α) (s : State) :
    Quiet s (l.foldl f s) core slot := by
  induction l generalizing s with
  | nil => exact .refl s core slot
  | cons x r ih => exact (h s x).trans (ih _)

/-- sr.fmt of a strand. -/
def Warp.putFmt (w : Warp) (l : Nat) (v : Word) : Warp := w.modStrand l (fun st => { st with fmt := v })

theorem Warp.strand_modStrand (w : Warp) (n l : Nat) (f : Strand → Strand) :
    (w.modStrand n f).strand l = if n = l ∧ l < w.strands.length then f (w.strand l) else w.strand l := by
  have h := w.strand_foldl_modStrand (List.nodup_singleton n) f l
  simpa [eq_comm] using h

/-- sr.fmt of some strands, each with its own value. -/
def Warp.putFmts (w : Warp) (xs : List (Nat × Nat)) (v : Nat × Nat → Nat) : Warp := xs.foldl (fun w x => w.putFmt x.1 (BitVec.ofNat 32 (v x))) w

theorem Warp.putFmts_rest (w : Warp) (xs : List (Nat × Nat)) (v : Nat × Nat → Nat) : ({ w.putFmts xs v with strands := [] } : Warp) = { w with strands := [] } :=
  foldl_observe_same (f := fun w (x : Nat × Nat) => Warp.putFmt w x.1 (BitVec.ofNat 32 (v x))) (fun w : Warp => ({ w with strands := [] } : Warp)) (fun _ _ _ => rfl) w

theorem Warp.length_putFmts (w : Warp) (xs : List (Nat × Nat)) (v : Nat × Nat → Nat) : (w.putFmts xs v).strands.length = w.strands.length :=
  foldl_observe_same (f := fun w (x : Nat × Nat) => Warp.putFmt w x.1 (BitVec.ofNat 32 (v x))) (fun w : Warp => w.strands.length) (fun _ _ _ => length_modAt _ _ _) w

theorem Warp.strand_putFmts_rest (w : Warp) (xs : List (Nat × Nat)) (v : Nat × Nat → Nat) (l : Nat) :
    ({ (w.putFmts xs v).strand l with fmt := 0 } : Strand) = { w.strand l with fmt := 0 } :=
  foldl_observe_same (f := fun w (x : Nat × Nat) => Warp.putFmt w x.1 (BitVec.ofNat 32 (v x))) (fun w : Warp => ({ w.strand l with fmt := 0 } : Strand)) (fun x _ w => by
    rw [Warp.putFmt, Warp.strand_modStrand]
    split <;> rfl) w

theorem Warp.strand_putFmts_other (w : Warp) {xs : List (Nat × Nat)} (v : Nat × Nat → Nat) {l : Nat} (hl : ∀ x ∈ xs, x.1 ≠ l) : (w.putFmts xs v).strand l = w.strand l :=
  foldl_observe_same (f := fun w (x : Nat × Nat) => Warp.putFmt w x.1 (BitVec.ofNat 32 (v x))) (fun w : Warp => w.strand l) (fun x hx w => by
    rw [Warp.putFmt, Warp.strand_modStrand, if_neg fun h => hl x hx h.1]) w

theorem Warp.fmt_putFmts (w : Warp) {xs : List (Nat × Nat)} (v : Nat × Nat → Nat) {x : Nat × Nat} (hx : x ∈ xs) (hu : ∀ y ∈ xs, y.1 = x.1 → y = x)
    (hlt : x.1 < w.strands.length) : ((w.putFmts xs v).strand x.1).fmt = BitVec.ofNat 32 (v x) := by
  have key := foldl_observe_set (f := fun w y => Warp.putFmt w y.1 (BitVec.ofNat 32 (v y)))
    (fun w : Warp => if x.1 < w.strands.length then (w.strand x.1).fmt else BitVec.ofNat 32 (v x)) (BitVec.ofNat 32 (v x)) (l := xs) (fun y hy w => ?_)
    ⟨x, hx, fun w => ?_⟩ w
  · rwa [if_pos] at key
    exact (w.length_putFmts xs v).symm ▸ hlt
  · have hlen : (w.putFmt y.1 (BitVec.ofNat 32 (v y))).strands.length = w.strands.length := length_modAt _ _ _
    rw [hlen, Warp.putFmt, Warp.strand_modStrand]
    by_cases hxl : x.1 < w.strands.length
    · by_cases hyx : y.1 = x.1
      · rw [hu y hy hyx]
        simp [hxl]
      · simp [hyx]
    · simp [hxl]
  · have hlen : (w.putFmt x.1 (BitVec.ofNat 32 (v x))).strands.length = w.strands.length := length_modAt _ _ _
    rw [hlen, Warp.putFmt, Warp.strand_modStrand]
    by_cases hxl : x.1 < w.strands.length <;> simp [hxl]

/-- sr.fmt of a helper. -/
def Helper.putFmt (h : Helper) (v : Word) : Helper := { h with fmt := v }

/-- sr.fmt of a helper, set once for each of some strands. -/
def Helper.putFmts (h : Helper) (xs : List (Nat × Nat)) (v : Nat × Nat → Nat) : Helper := xs.foldl (fun h x => h.putFmt (BitVec.ofNat 32 (v x))) h

theorem Helper.putFmts_rest (h : Helper) (xs : List (Nat × Nat)) (v : Nat × Nat → Nat) : ({ h.putFmts xs v with fmt := 0 } : Helper) = { h with fmt := 0 } :=
  foldl_observe_same (f := fun h (x : Nat × Nat) => Helper.putFmt h (BitVec.ofNat 32 (v x))) (fun h : Helper => ({ h with fmt := 0 } : Helper)) (fun _ _ _ => rfl) h

/-! ### The strands of an issue with their lowest threads -/

theorem Iss.mem_strandHeads {c : Iss} {x : Nat × Nat} : x ∈ c.strandHeads ↔ x.2 ∈ c.tids ∧ c.tids.find? (fun t => t / 4 == x.1) = some x.2 := by
  simp only [Iss.strandHeads, List.mem_filterMap, List.mem_dedup, List.mem_map, Option.map_eq_some_iff]
  constructor
  · rintro ⟨l, -, t, ht, rfl⟩
    exact ⟨List.mem_of_find?_eq_some ht, ht⟩
  · rintro ⟨hm, hf⟩
    have := List.find?_some hf
    exact ⟨x.1, ⟨x.2, hm, by simpa using this⟩, x.2, hf, rfl⟩

theorem Iss.strandHeads_div {c : Iss} {x : Nat × Nat} (h : x ∈ c.strandHeads) : x.2 / 4 = x.1 := by
  simpa using List.find?_some (Iss.mem_strandHeads.mp h).2

theorem Iss.strandHeads_unique {c : Iss} {x y : Nat × Nat} (hx : x ∈ c.strandHeads) (hy : y ∈ c.strandHeads) (h : y.1 = x.1) : y = x := by
  have h1 := (Iss.mem_strandHeads.mp hx).2
  have h2 := (Iss.mem_strandHeads.mp hy).2
  rw [h] at h2
  exact Prod.ext h (Option.some.inj (h2.symm.trans h1))

/-- A thread of a split's issue is in a strand of the split. -/
theorem Seated.lane_of_tid {s : State} {c : Iss} {e t : Nat} (hc : Seated s c) (he : c.who = .split e) (h : t ∈ c.tids) : t / 4 ∈ c.lanes := by
  obtain ⟨sp, hsp, -⟩ := hc.entry_of_split he
  have hlt := Iss.tids_lt hc (hc.no_helper_of_split he) h
  have hact : t ∈ c.w.activeOf sp := by
    unfold Iss.tids at h
    rw [he, hsp] at h
    dsimp only at h
    split at h
    · exact List.mem_of_mem_filter h
    · exact h
  unfold Iss.lanes
  rw [hsp]
  exact List.mem_filter.mpr ⟨List.mem_range.mpr (by omega), (Bool.and_eq_true_iff.mp (List.mem_filter.mp hact).2).1⟩

theorem Iss.strandHeads_of_helper {c : Iss} {lane : Nat} (hwho : c.who = .helper lane) : c.strandHeads = [(lane, 4 * lane)] := by
  simp [Iss.strandHeads, Iss.tids_of_helper hwho]

/-! ### The instruction -/

/-- What an instruction that sets sr.fmt may change. -/
def Footprint.fmt : Footprint := { Footprint.plain with strand := fun st => { st with fmt := 0 }, helper := fun h => { h with fmt := 0 } }

theorem State.seat_setFmt_split (s : State) {c : Iss} {e : Nat} (he : c.who = .split e) (l v : Nat) : Seat s (s.setFmt c l v) c (fun w => w.putFmt l (BitVec.ofNat 32 v)) id := by
  unfold State.setFmt
  rw [he]
  exact s.seat_modWarp c _

theorem State.seat_setFmt_helper (s : State) {c : Iss} {lane : Nat} (hl : c.who = .helper lane) (l v : Nat) :
    Seat s (s.setFmt c l v) c id (fun h => h.putFmt (BitVec.ofNat 32 v)) := by
  unfold State.setFmt
  rw [hl]
  exact s.seat_modHelper hl _

theorem State.quiet_setFmt (s : State) (c : Iss) (l v : Nat) : Quiet s (s.setFmt c l v) c.core c.slot := by
  unfold State.setFmt
  split
  · exact s.quiet_modHelper _ _ _ _
  · exact s.quiet_modWarp _ _ _

/-- An instruction that sets sr.fmt of some of its strands, or of its helper, and then ends, completes. -/
theorem completesIn_setFmts {i : Instr} {s : State} {c : Iss} {heads : List (Nat × Nat)} {v : Nat × Nat → Nat} (hc : s.iss = some c)
    (hsub : ∀ x ∈ heads, x ∈ c.strandHeads) (hx : exec i s = .next (((heads.foldl (fun s x => s.setFmt c x.1 (v x)) s).coolSpecial c .fmt).finish c [])) :
    CompletesIn Footprint.fmt i s c Writes.none (fun c' _ =>
      (∀ x ∈ heads, (c.hel = none → x.1 < c.w.strands.length) → c'.fmt x.2 = BitVec.ofNat 32 (v x)) ∧
      ∀ x ∈ c.strandHeads, x ∉ heads → c'.fmt x.2 = c.fmt x.2) := by
  have hseat := State.seated_of_iss hc
  have hq := (Quiet.foldl (fun s x => s.quiet_setFmt c x.1 (v x)) heads s).trans (State.quiet_coolSpecial _ c .fmt)
  rcases hseat.who with ⟨e, sp, hwho, -, -, hh⟩ | ⟨lane, p, h, hwho, -, -, -, -, hh⟩
  · have hs := (Seat.foldl (fun s x => s.seat_setFmt_split hwho x.1 (v x)) heads s).then_same (State.seat_coolSpecial _ c .fmt)
    have hrest := c.w.putFmts_rest heads v
    have hstrand := fun l => c.w.strand_putFmts_rest heads v l
    refine completesIn_of_prepared (fw := fun w => w.putFmts heads v) (fh := fun h => heads.foldl (fun h _ => h) h) hc hx
      (hq.beside _) hq.sameMemory hs ⟨?_, ?_, c.w.length_putFmts heads v, fun l => ?_, fun l => ⟨fun _ => ?_, fun hl => ?_⟩, ?_, ?_⟩
      fun c' hend => ?_
    · exact (congrArg (fun w : Warp => ({ w with regs := [], preds := [], fpst := [], latches := [], ixs := [], bad := [], latchBad := [], iiu := 0, splits := [] } : Warp)) hrest :)
    · exact (congrArg Warp.splits hrest :)
    · exact (congrArg Strand.pc (hstrand l) :)
    · exact (congrArg (fun st : Strand => { st with pc := 0 }) (hstrand l) :)
    · refine c.w.strand_putFmts_other v fun x hx hxl => hl ?_
      obtain ⟨hm, -⟩ := Iss.mem_strandHeads.mp (hsub x hx)
      rw [← hxl, ← Iss.strandHeads_div (hsub x hx)]
      exact hseat.lane_of_tid hwho hm
    · exact .of_same (congrArg Warp.regs hrest :) (congrArg Warp.preds hrest :) (congrArg Warp.fpst hrest :) (congrArg Warp.ixs hrest :) (congrArg Warp.latches hrest :)
    · intro lane _ hl
      rw [hwho] at hl
      cases hl
    · have hfmt : ∀ x ∈ c.strandHeads, c'.fmt x.2 = ((c.w.putFmts heads v).strand x.1).fmt := fun x hx => by
        simp only [Iss.fmt, hend.no_helper hh, Iss.strandHeads_div hx, hend.warp.strand]
        split <;> rfl
      refine ⟨fun x hx hlt => ?_, fun x hx hn => ?_⟩
      · rw [hfmt x (hsub x hx)]
        exact c.w.fmt_putFmts v hx (fun y hy h => Iss.strandHeads_unique (hsub x hx) (hsub y hy) h) (hlt hh)
      · rw [hfmt x hx, c.w.strand_putFmts_other v fun y hy h => hn (Iss.strandHeads_unique hx (hsub y hy) h ▸ hy)]
        simp only [Iss.fmt, hh, Iss.strandHeads_div hx]
  · have hs := (Seat.foldl (fun s x => s.seat_setFmt_helper hwho x.1 (v x)) heads s).then_same (State.seat_coolSpecial _ c .fmt)
    have hrest := fun h : Helper => h.putFmts_rest heads v
    have heads1 : ∀ x ∈ c.strandHeads, x = (lane, 4 * lane) := fun x hx => by simpa [Iss.strandHeads_of_helper hwho] using hx
    have hid : heads.foldl (fun w _ => w) c.w = c.w := foldl_observe_same (f := fun w _ => w) id (fun _ _ _ => rfl) c.w
    refine completesIn_of_prepared (fw := fun w => heads.foldl (fun w _ => w) w) (fh := fun h => h.putFmts heads v) hc hx
      (hq.beside _) hq.sameMemory hs ?_ fun c' hend => ?_
    · rw [hid]
      refine .of_strands rfl rfl rfl (.of_same rfl rfl rfl rfl rfl) fun _ x _ _ => ⟨(congrArg Helper.pc (hrest x) :), ?_, .of_same ?_ ?_ ?_⟩
      · exact (congrArg (fun h : Helper => ({ h with regs := [], preds := 0, fpst := 0, pc := 0, age := 0, release := Release.none, wait := none, reserve := none, bad := [] } : Helper)) (hrest x) :)
      · exact (congrArg Helper.regs (hrest x) :)
      · exact (congrArg Helper.preds (hrest x) :)
      · exact (congrArg Helper.fpst (hrest x) :)
    · obtain ⟨h', hh', hfin⟩ := hend.helper h hh
      have hfmt : ∀ t, c'.fmt t = (h.putFmts heads v).fmt := fun t => by
        simp only [Iss.fmt, hh']
        exact (congrArg Helper.fmt hfin.rest :)
      refine ⟨fun x hx _ => ?_, fun x hx hn => ?_⟩ <;> rw [hfmt]
      · refine foldl_observe_set (f := fun h (x : Nat × Nat) => Helper.putFmt h (BitVec.ofNat 32 (v x))) Helper.fmt _ (fun y hy h => .inl ?_) ⟨x, hx, fun _ => rfl⟩ h
        rw [heads1 y (hsub y hy), heads1 x (hsub x hx)]
        rfl
      · have hnil : heads = [] := List.eq_nil_iff_forall_not_mem.mpr fun y hy => hn (by rw [heads1 x hx, ← heads1 y (hsub y hy)]; exact hy)
        simp [hnil, Iss.fmt, hh, Helper.putFmts]

end Sys2Proof.Machine

/-! PROOF. WindowIndexFormat: what WBASE, IXSET, IXADD, FMT and CLASS write. -/

namespace Sys2Proof.Machine

/-! ### Index registers -/

/-- The effects that give some threads each a value for one index register. -/
def indexEffs (ts : List Nat) (k : Nat) (v : Nat → Word) : List Eff := ts.map (fun t => .index t k (v t))

theorem Warp.index_rest (w : Warp) (ts : List Nat) (k : Nat) (v : Nat → Word) :
    ({ (indexEffs ts k v).foldl Warp.eff w with ixs := [] } : Warp) = { w with ixs := [] } :=
  foldl_observe_same (fun w : Warp => ({ w with ixs := [] } : Warp)) (fun e he w => by
    obtain ⟨t, -, rfl⟩ := List.mem_map.mp he
    rfl) w

theorem Warp.ix_eff_index (w : Warp) (t k th j : Nat) (v : Word) (hk : k < 4) (hj : j < 4) :
    (w.eff (.index t k v)).ix th j = if t = th ∧ k = j then v else w.ix th j := by
  have hkey : 4 * t + k = 4 * th + j ↔ t = th ∧ k = j := by omega
  simp only [Warp.ix, Warp.eff, mgetD_mput, hkey]

theorem Warp.ix_index_other (w : Warp) {ts : List Nat} {k : Nat} (v : Nat → Word) {th j : Nat} (hk : k < 4) (hj : j < 4) (h : ¬ (th ∈ ts ∧ j = k)) :
    ((indexEffs ts k v).foldl Warp.eff w).ix th j = w.ix th j :=
  foldl_observe_same (fun w : Warp => w.ix th j) (fun e he w => by
    obtain ⟨t, ht, rfl⟩ := List.mem_map.mp he
    rw [Warp.ix_eff_index _ _ _ _ _ _ hk hj, if_neg]
    rintro ⟨rfl, rfl⟩
    exact h ⟨ht, rfl⟩) w

theorem Warp.ix_index_same (w : Warp) {ts : List Nat} {k : Nat} (v : Nat → Word) {th : Nat} (hk : k < 4) (h : th ∈ ts) :
    ((indexEffs ts k v).foldl Warp.eff w).ix th k = v th := by
  refine foldl_observe_set (fun w : Warp => w.ix th k) (v th) (fun e he w => ?_) ⟨_, List.mem_map_of_mem h, fun w => ?_⟩ w
  · obtain ⟨t, -, rfl⟩ := List.mem_map.mp he
    rw [Warp.ix_eff_index _ _ _ _ _ _ hk hk]
    by_cases ht : t = th
    · exact .inl (by simp [ht])
    · exact .inr (by simp [ht])
  · rw [Warp.ix_eff_index _ _ _ _ _ _ hk hk, if_pos ⟨rfl, rfl⟩]

/-- An instruction of a split that gives some threads each a value for one index register, and then ends, completes. -/
theorem completesWith_index {i : Instr} {s : State} {c : Iss} {ts : List Nat} {k : Fin 4} {v : Nat → Word} (hc : s.iss = some c) (hh : c.hel = none)
    (hx : exec i s = .next ((s.effsBy c (indexEffs ts k.val v)).finish c [])) :
    CompletesWith i s c { Writes.none with index := fun th j => ts.contains th && j == k.val } (fun c' _ => ∀ t ∈ ts, c'.w.ix t k.val = v t) := by
  obtain ⟨e, sp, hwho, -⟩ := (State.seated_of_iss hc).split_of_no_helper hh
  have hrest := c.w.index_rest ts k.val v
  have hq := s.quiet_effsBy c (indexEffs ts k.val v)
  refine completesIn_of_prepared hc hx (hq.beside _) hq.sameMemory (s.seat_effsBy hwho _) (.of_strands ?_ (congrArg Warp.splits hrest :) (congrArg Warp.strands hrest :)
    ⟨?_, ?_, ?_, ?_, ?_⟩ fun _ x _ hx => by rw [hh] at hx; cases hx) fun c' hend t ht => ?_
  · exact (congrArg (fun w : Warp => ({ w with regs := [], preds := [], fpst := [], latches := [], bad := [], latchBad := [], iiu := 0, splits := [], strands := [] } : Warp)) hrest :)
  · exact fun th n _ _ _ => (congrArg (fun w : Warp => mgetD w.regs (256 * th + n) 0) hrest :)
  · exact fun th p _ => (congrArg (fun w : Warp => w.pred th p) hrest :)
  · exact fun th _ => (congrArg (fun w : Warp => mgetD w.fpst th 0) hrest :)
  · exact fun th j hj h => c.w.ix_index_other v k.isLt hj fun hn => by simp [hh, hn.1, hn.2] at h
  · exact fun th j _ _ => (congrArg (fun w : Warp => mget? w.latches (4 * th + j)) hrest :)
  · have hix : c'.w.ixs = ((indexEffs ts k.val v).foldl Warp.eff c.w).ixs := (congrArg Warp.ixs hend.warp.rest :)
    rw [Warp.ix, hix]
    exact c.w.ix_index_same v k.isLt ht

/-- BASE, LIM and IDX of a value are its word under the mask of the three (Table 2-12). -/
theorem indexFields_eq (x : Nat) : BitVec.ofNat 32 (bitsOf x 24 8 * 2 ^ 24 + bitsOf x 19 5 * 2 ^ 19 + bitsOf x 0 8) = wordOf x &&& 0xFFF800FF#32 := by
  have hhi : bitsOf x 24 8 * 2 ^ 24 + bitsOf x 19 5 * 2 ^ 19 + bitsOf x 0 8 = 2 ^ 19 * bitsOf x 19 13 + bitsOf x 0 8 := by
    simp only [bitsOf]
    omega
  have hlo : bitsOf x 0 8 < 2 ^ 19 := Nat.lt_of_lt_of_le (Nat.mod_lt _ (by decide)) (by decide : 2 ^ 8 ≤ 2 ^ 19)
  have hmask : ∀ k, k < 32 → Nat.testBit 0xFFF800FF k = (decide (k < 8) || decide (19 ≤ k)) := by decide
  refine wordOf_and_mask fun k hk => ?_
  rw [hhi, Nat.testBit_two_pow_mul_add _ hlo, testBit_bitsOf, testBit_bitsOf, hmask k hk]
  by_cases h19 : k < 19
  · rw [if_pos h19, Nat.zero_add, decide_eq_false (show ¬19 ≤ k by omega), Bool.or_false, Bool.and_comm]
  · rw [if_neg h19, show 19 + (k - 19) = k by omega, decide_eq_true (show k - 19 < 13 by omega), decide_eq_true (show 19 ≤ k by omega), Bool.or_true, Bool.and_true,
      Bool.true_and]

/-- IDX of an index register, added to modulo 256 (R180). -/
theorem indexAdd_eq (old src : Word) (a : Nat) (m : BitVec 7) :
    BitVec.ofNat 32 (setBits old.toNat 0 8 (wrap 8 ((bitsOf src.toNat 0 8 : Nat) + (a : Int) + m.toInt))) =
      (old &&& 0xFFFFFF00#32) ||| ((src + wordOf a + m.signExtend 32) &&& 0xFF#32) := by
  have hsum : wrap 8 ((bitsOf src.toNat 0 8 : Nat) + (a : Int) + m.toInt) = (src + wordOf a + m.signExtend 32).toNat % 2 ^ 8 := by
    have hm : (m.signExtend 32).toInt = m.toInt := BitVec.toInt_signExtend_of_le (by decide)
    have h1 := BitVec.toInt_eq_toNat_cond (m.signExtend 32)
    rw [hm] at h1
    simp only [wrap, bitsOf, wordOf, BitVec.toNat_add, BitVec.toNat_ofNat]
    split at h1 <;> omega
  have hmask : ∀ k, k < 32 → Nat.testBit 0xFFFFFF00 k = decide (8 ≤ k) ∧ Nat.testBit 0xFF k = decide (k < 8) := by decide
  refine BitVec.eq_of_getLsbD_eq fun k hk => ?_
  obtain ⟨h1, h2⟩ := hmask k hk
  rw [hsum]
  simp only [BitVec.getLsbD_or, BitVec.getLsbD_and, BitVec.getLsbD_ofNat, testBit_setBits, h1, h2, hk, decide_true, Bool.true_and]
  by_cases h8 : k < 8
  · rw [if_pos ⟨Nat.zero_le _, by omega⟩, Nat.sub_zero, Nat.testBit_mod_two_pow]
    simp [h8, BitVec.getLsbD, show ¬8 ≤ k by omega]
  · rw [if_neg (by omega)]
    simp [h8, BitVec.getLsbD, show 8 ≤ k by omega]

theorem ixset_completes {s : State} {c : Iss} {a : Opnd} {k : Fin 4} {g u : Bool} (hc : s.iss = some c)
    (hclear : SeqClear s c false ((c.tids.map (srcTid u)).dedup) [(a, 1)] none)
    (hfit : ∀ t ∈ c.exec g, bitsOf (c.read (srcTid u t) a 1) 24 8 + bitsOf (c.read (srcTid u t) a 1) 19 5 + 1 ≤ c.w.fileSize) :
    CompletesWith (.ixset a k g u) s c { Writes.none with index := fun th j => (c.exec g).contains th && j == k.val }
      (fun c' _ => ∀ t ∈ c.exec g, c'.w.ix t k.val = wordOf (c.read (srcTid u t) a 1) &&& 0xFFF800FF#32) := by
  refine (completesWith_index (k := k) (ts := c.exec g) (v := fun t => BitVec.ofNat 32 (bitsOf (c.read (srcTid u t) a 1) 24 8 * 2 ^ 24 +
    bitsOf (c.read (srcTid u t) a 1) 19 5 * 2 ^ 19 + bitsOf (c.read (srcTid u t) a 1) 0 8)) hc hclear.no_helper ?_).imp fun c' _ h t ht => (h t ht).trans (indexFields_eq _)
  show execIxset a k g u s = _
  rw [execIxset, seqOps_clear false (fun c => (c.tids.map (srcTid u)).dedup) [(a, 1)] none _ hc hclear]
  refine congrArg Host.Outcome.next (if_neg ?_)
  rw [Bool.not_eq_true, List.any_eq_false]
  intro t ht
  have := hfit t ht
  simpa using this

theorem ixadd_completes {s : State} {c : Iss} {a : Opnd} {k : Fin 4} {m : BitVec 7} {g u : Bool} (hc : s.iss = some c)
    (hclear : SeqClear s c false ((c.tids.map (srcTid u)).dedup) [(a, 1)] none) :
    CompletesWith (.ixadd a k m g u) s c { Writes.none with index := fun th j => (c.exec g).contains th && j == k.val }
      (fun c' _ => ∀ t ∈ c.exec g, c'.w.ix t k.val = (c.w.ix t k.val &&& 0xFFFFFF00#32) |||
        ((c.w.ix (srcTid u t) k.val + wordOf (c.read (srcTid u t) a 1) + m.signExtend 32) &&& 0xFF#32)) := by
  refine (completesWith_index (k := k) (ts := c.exec g) (v := fun t => BitVec.ofNat 32 (setBits (c.w.ix t k.val).toNat 0 8
    (wrap 8 ((bitsOf (c.w.ix (srcTid u t) k.val).toNat 0 8 : Nat) + (c.read (srcTid u t) a 1 : Int) + m.toInt)))) hc hclear.no_helper ?_).imp
    fun c' _ h t ht => (h t ht).trans (indexAdd_eq _ _ _ _)
  show execIxadd a k m g u s = _
  rw [execIxadd, seqOps_clear false (fun c => (c.tids.map (srcTid u)).dedup) [(a, 1)] none _ hc hclear]
  rfl

/-! ### WBASE -/

theorem wbase_completes {s : State} {c : Iss} {a : Opnd} {n : BitVec 9} (hc : s.iss = some c) (hclear : SeqClear s c false (c.tids.take 1) [(a, 1)] none)
    (hone : c.w.splits.length ≤ 1) (halign : (c.first a 1 + n.toNat) % 8 = 0)
    (hmax : c.first a 1 + n.toNat ≤ (if c.w.fileSize = 256 then 136 else if c.w.fileSize = 128 then 8 else 0)) :
    CompletesIn { Footprint.plain with warp := fun w => { w with wbase := 0 } } (.wbase a n) s c Writes.none (fun c' _ => c'.w.wbase = c.first a 1 + n.toNat) := by
  have hx : exec (.wbase a n) s =
      .next (((s.modWarp c.core c.slot (fun w => { w with wbase := c.first a 1 + n.toNat })).coolSpecial c .wbase).finish c []) := by
    show execWbase a n s = _
    rw [execWbase, seqOps_clear false Iss.lowest [(a, 1)] none _ hc hclear]
    have hv : (match c.tids with | t :: _ => c.read t a 1 + n.toNat | [] => n.toNat) = c.first a 1 + n.toNat := by
      unfold Iss.first
      cases c.tids with
      | nil => exact (Nat.zero_add _).symm
      | cons t r => rfl
    have key : ∀ v, v = c.first a 1 + n.toNat → (if v % 8 ≠ 0 ∨ v > (if c.w.fileSize = 256 then 136 else if c.w.fileSize = 128 then 8 else 0) ∨ 1 < c.w.splits.length then
        s.takeTrap c .window 0 else ((s.modWarp c.core c.slot (fun w => { w with wbase := v })).coolSpecial c .wbase).finish c []) =
        ((s.modWarp c.core c.slot (fun w => { w with wbase := c.first a 1 + n.toNat })).coolSpecial c .wbase).finish c [] := by
      rintro v rfl
      exact if_neg (by omega)
    exact congrArg Host.Outcome.next (key _ hv)
  refine completesIn_finish (fw := fun w => { w with wbase := c.first a 1 + n.toNat }) hc hx ((s.quiet_modWarp _ _ _).trans (State.quiet_coolSpecial _ _ _))
    ((s.seat_modWarp c _).then_same (State.seat_coolSpecial _ c _)) rfl rfl rfl (.of_same rfl rfl rfl rfl rfl) fun c' w' hb hf => ?_
  rw [hb.w]
  exact (congrArg Warp.wbase hf.rest :)

/-! ### FMT -/

/-- sr.fmt as FMT leaves it: the three codes of the instruction, the three fields that operand a gives unless it is vz, and the rest as before. -/
def fmtWord (old va : Nat) (zero : Bool) (e : Elem) (r : Rnd) (q : Sat) : Nat :=
  let v := setBits (setBits (setBits old 12 4 (elemCode e)) 9 3 (rndCode r)) 6 2 (satCode q)
  if zero then v else setBits (setBits (setBits v 24 4 (bitsOf va 24 4)) 16 8 (bitsOf va 16 8)) 8 1 (bitsOf va 8 1)

theorem fmtCodes_lt (e : Elem) (r : Rnd) (q : Sat) : elemCode e < 16 ∧ rndCode r < 8 ∧ satCode q < 4 :=
  ⟨by cases e <;> decide, by cases r <;> decide, by cases q <;> decide⟩

theorem bitsOf_lt (m lo len : Nat) : bitsOf m lo len < 2 ^ len := Nat.mod_lt _ (by positivity)

theorem fmtWord_fields (old va : Nat) (zero : Bool) (e : Elem) (r : Rnd) (q : Sat) :
    let new := (BitVec.ofNat 32 (fmtWord old va zero e r q)).toNat
    let src := if zero then old else va
    bitsOf new 12 4 = elemCode e ∧ bitsOf new 9 3 = rndCode r ∧ bitsOf new 6 2 = satCode q ∧ bitsOf new 24 4 = bitsOf src 24 4 ∧ bitsOf new 16 8 = bitsOf src 16 8 ∧
      bitsOf new 8 1 = bitsOf src 8 1 ∧ bitsOf new 0 6 = bitsOf old 0 6 ∧ bitsOf new 28 4 = bitsOf old 28 4 := by
  obtain ⟨he, hr, hq⟩ := fmtCodes_lt e r q
  have hw : ∀ lo len, lo + len ≤ 32 → bitsOf (BitVec.ofNat 32 (fmtWord old va zero e r q)).toNat lo len = bitsOf (fmtWord old va zero e r q) lo len :=
    fun lo len h => bitsOf_wordOf h
  dsimp only
  rw [hw 12 4 (by decide), hw 9 3 (by decide), hw 6 2 (by decide), hw 24 4 (by decide), hw 16 8 (by decide), hw 8 1 (by decide), hw 0 6 (by decide), hw 28 4 (by decide)]
  have h24 : bitsOf va 24 4 < 16 := bitsOf_lt va 24 4
  have h16 : bitsOf va 16 8 < 256 := bitsOf_lt va 16 8
  have h8 : bitsOf va 8 1 < 2 := bitsOf_lt va 8 1
  cases zero
  · simp [fmtWord, bitsOf_setBits_same, bitsOf_setBits_other, he, hr, hq, h24, h16, Nat.le_of_lt_succ h8]
  · simp [fmtWord, bitsOf_setBits_same, bitsOf_setBits_other, he, hr, hq]

theorem fmt_completes {s : State} {c : Iss} {a : Opnd} {e : Elem} {r : Rnd} {q : Sat} (hc : s.iss = some c)
    (hclear : SeqClear s c true (c.strandHeads.map (fun x => x.2)) [(a, 1)] none) :
    CompletesIn Footprint.fmt (.fmt a e r q) s c Writes.none (fun c' _ => ∀ x ∈ c.strandHeads, (c.hel = none → x.1 < c.w.strands.length) →
      c'.fmt x.2 = BitVec.ofNat 32 (fmtWord (c.fmt x.2).toNat (c.read x.2 a 1) (a = .vz) e r q)) := by
  refine (completesIn_setFmts (heads := c.strandHeads) (v := fun x => fmtWord (c.fmt x.2).toNat (c.read x.2 a 1) (a = .vz) e r q) hc (fun _ h => h) ?_).imp
    fun c' _ h x hx hlt => h.1 x hx hlt
  show execFmt a e r q s = _
  rw [execFmt, seqOps_clear true (fun c => c.strandHeads.map (fun x => x.2)) [(a, 1)] none _ hc hclear]
  by_cases ha : a = .vz <;> simp [fmtWord, ha]

/-! ### CLASS -/

theorem State.seat_setReserve (s : State) (c : Iss) (r : Option (TimingClass × Nat)) :
    ∃ fw fh, Seat s (s.setReserve c r) c fw fh ∧ (∀ w : Warp, w.Charged c (fw w)) ∧ (∀ h, Helper.Charged h (fh h) ∧ (∀ l, c.who = .helper l → (fh h).reserve = r)) ∧
      ∀ e, c.who = .split e → ∀ w sp, mget? (fw w).splits e = some sp → sp.reserve = r := by
  unfold State.setReserve
  split
  next e he =>
    refine ⟨_, _, s.seat_modSplit he _, fun w => Warp.charged_modEntry he w _, fun h => ⟨rfl, fun l hl => ?_⟩, fun d hd w sp hsp => ?_⟩
    · rw [he] at hl
      cases hl
    · rw [he] at hd
      cases hd
      rw [Warp.splits_modEntry, if_pos rfl] at hsp
      obtain ⟨_, -, rfl⟩ := Option.map_eq_some_iff.mp hsp
      rfl
  next l hl =>
    refine ⟨_, _, s.seat_modHelper hl _, .refl c, fun h => ⟨rfl, fun _ _ => rfl⟩, fun d hd => ?_⟩
    rw [hl] at hd
    cases hd

theorem State.quiet_setReserve (s : State) (c : Iss) (r : Option (TimingClass × Nat)) : Quiet s (s.setReserve c r) c.core c.slot := by
  unfold State.setReserve
  split
  · exact s.quiet_modSplit _ _
  · exact s.quiet_modHelper _ _ _ _

/-- The accounts of an issue may change once more after its end. -/
theorem Warp.Finished.charged {c : Iss} {w v u : Warp} (h : w.Finished c v) (k : v.Charged c u) : w.Finished c u where
  rest := (congrArg (fun w : Warp => { w with strands := [], latches := [], latchBad := [] }) k.rest :).trans h.rest
  latches n := by rw [← h.latches, show u.latches = v.latches from (congrArg Warp.latches k.rest :)]
  length := by rw [← h.length, show u.strands = v.strands from (congrArg Warp.strands k.rest :)]
  strand l := by
    rw [← h.strand]
    simp only [Warp.strand, show u.strands = v.strands from (congrArg Warp.strands k.rest :)]
  splits e he := (k.splits e he).trans (h.splits e he)
  entry e := (k.entry e).trans (h.entry e)

theorem class_completes {s : State} {c : Iss} (cl : TimingClass) (n : Fin 8) (hc : s.iss = some c) :
    CompletesWith (.classHint cl n) s c Writes.none (fun c' _ => (∀ sp', c'.split = some sp' → sp'.reserve = some (cl, n.val + 1)) ∧
      ∀ h', c'.hel = some h' → h'.reserve = some (cl, n.val + 1)) := by
  have hseat := State.seated_of_iss hc
  obtain ⟨gw, gh, hs, hgw, hgh⟩ := s.seat_finish c []
  obtain ⟨rw', rh, hr, hrw, hrh, hre⟩ := (s.finish c []).seat_setReserve c (some (cl, n.val + 1))
  refine completesIn_prepared (fw := id) (fh := id) hc (withIss_eq _ hc) (Quiet.refl s _ _ |>.beside _) (Quiet.refl s c.core c.slot).sameMemory (.refl s c) (.refl _ c _)
    ((s.quiet_finish c []).trans (State.quiet_setReserve _ c _)) (hs.trans hr) (fun w => (hgw w).charged (hrw _)) (fun l h hl => ⟨?_, ?_⟩) fun c' hc' hb hend => ⟨fun sp' hsp' => ?_, fun h' hh' => ?_⟩
  · exact (congrArg (fun h : Helper => ({ h with wait := none, pc := 0 } : Helper)) (hrh (gh h)).1 :).trans (hgh l h hl).rest
  · exact (congrArg Helper.pc (hrh (gh h)).1 :).trans (hgh l h hl).pc
  · rcases hseat.who with ⟨e, sp, hwho, -⟩ | ⟨l, p, h, hwho, hn, -⟩
    · exact hre e hwho _ sp' ((hb.split e hwho).symm.trans hsp')
    · rcases hc'.who with ⟨e, -, he, -⟩ | ⟨-, -, -, -, hnone, -⟩
      · rw [hb.who, hwho] at he
        cases he
      · rw [hnone] at hsp'
        cases hsp'
  · rcases hseat.who with ⟨e, sp, hwho, -, -, hn⟩ | ⟨l, p, h, hwho, -, -, -, -, hh⟩
    · rw [hend.no_helper hn] at hh'
      cases hh'
    · rw [hb.hel, hh] at hh'
      cases hh'
      exact (hrh _).2 l hwho

/-- Settles O14: each instruction's own change of its warp or helper, and then the ordinary end of an instruction. -/
theorem windowIndexFormat : Obligations.WindowIndexFormat := by
  unfold Obligations.WindowIndexFormat
  intro s c hc
  refine ⟨fun a n hclear hone => wbase_completes hc hclear hone, fun a k g u hclear hfit => ixset_completes hc hclear hfit,
    fun a k m g u hclear => ixadd_completes hc hclear, fun a e r q hclear => ?_, fun cl n => class_completes cl n hc⟩
  refine (fmt_completes hc hclear).imp fun c' _ h x hx hlt => ?_
  have hf := fmtWord_fields (c.fmt x.2).toNat (c.read x.2 a 1) (a = .vz) e r q
  rw [← h x hx hlt] at hf
  simpa using hf

end Sys2Proof.Machine

/-! PROOF. SpecialRegisters: RDSR gives its threads the register's value, and WRSR writes the four registers that are RW. -/

namespace Sys2Proof.Machine

/-! ### RDSR -/

theorem rdsr_completes {s : State} {c : Iss} {d : Opnd} {r : SpecReg} {g u : Bool} (hc : s.iss = some c)
    (hclear : SeqClear s c true c.tids [] (some (d, if r.wide then 2 else 1))) (hsh : c.sharedWrite (c.exec g) d (if r.wide then 2 else 1) = false) :
    CompletesWith (.rdsr d r g u) s c (c.destWrites (c.exec g) d (if r.wide then 2 else 1))
      (fun c' _ => ∀ t ∈ c.exec g, c.holds c' t d (if r.wide then 2 else 1) (s.readSpec c r (srcTid u t))) := by
  refine completesWith_writeAll (ps := []) hc (by split <;> decide) (fun t ht => c.exec_subset g ht) hsh ?_
  show execRdsr d r g u s = _
  rw [execRdsr, seqOps_clear true (fun c => c.tids) [] (some (d, if r.wide then 2 else 1)) _ hc hclear, if_neg (by rw [hsh]; decide)]
  rfl

/-! ### sr.fpst -/

/-- The flags of some threads, each set to its own value. -/
def Warp.putFlags (w : Warp) (ts : List Nat) (v : Nat → Nat) : Warp := { w with fpst := ts.foldl (fun m t => mput 0 m t (v t)) w.fpst }

theorem mgetD_foldl_mput_other (ts : List Nat) (v : Nat → Nat) {t : Nat} (ht : t ∉ ts) (m : NatMap Nat) :
    mgetD (ts.foldl (fun m t => mput 0 m t (v t)) m) t 0 = mgetD m t 0 :=
  foldl_observe_same (f := fun m t => mput 0 m t (v t)) (fun m => mgetD m t 0) (fun x hx m => by
    rw [mgetD_mput, if_neg]
    rintro rfl
    exact ht hx) m

theorem mgetD_foldl_mput_same (ts : List Nat) (v : Nat → Nat) {t : Nat} (ht : t ∈ ts) (m : NatMap Nat) :
    mgetD (ts.foldl (fun m t => mput 0 m t (v t)) m) t 0 = v t := by
  refine foldl_observe_set (f := fun m t => mput 0 m t (v t)) (fun m => mgetD m t 0) (v t) (fun x _ m => ?_) ⟨t, ht, fun m => ?_⟩ m
  · rw [mgetD_mput]
    by_cases hx : x = t
    · exact .inl (by simp [hx])
    · exact .inr (by simp [hx])
  · rw [mgetD_mput, if_pos rfl]

/-- What WRSR of sr.fpst does before its end. -/
def State.putFlags (s : State) (c : Iss) (ts : List Nat) (v : Nat → Nat) : State := match c.who with
  | .helper l => s.modHelper c.core c.slot l (fun h => if ts.isEmpty then h else { h with fpst := v (4 * l) })
  | .split _ => s.modWarp c.core c.slot (fun w => w.putFlags ts v)

theorem State.quiet_putFlags (s : State) (c : Iss) (ts : List Nat) (v : Nat → Nat) : Quiet s (s.putFlags c ts v) c.core c.slot := by
  unfold State.putFlags
  split
  · exact s.quiet_modHelper _ _ _ _
  · exact s.quiet_modWarp _ _ _

theorem wrsrFpst_completes {s : State} {c : Iss} {a : Opnd} {g u : Bool} (hc : s.iss = some c) (hclear : SeqClear s c true ((c.tids.map (srcTid u)).dedup) [(a, 1)] none) :
    CompletesWith (.wrsr a .fpst g u) s c { Writes.none with flags := fun th => (c.exec g).contains th }
      (fun c' _ => ∀ t ∈ c.exec g, c'.flagsOf t = c.read (srcTid u t) a 1 % 32) := by
  have hseat := State.seated_of_iss hc
  let v := fun (t : Nat) => c.read (srcTid u t) a 1 % 32
  have hx : exec (.wrsr a .fpst g u) s = .next (((s.putFlags c (c.exec g) v).coolSpecial c .fpst).finish c []) := by
    exact (seqOps_clear true (fun c => (c.tids.map (srcTid u)).dedup) [(a, 1)] none _ hc hclear).trans rfl
  have hq := (s.quiet_putFlags c (c.exec g) v).trans (State.quiet_coolSpecial _ c .fpst)
  rcases hseat.who with ⟨e, sp, hwho, -, -, hh⟩ | ⟨lane, p, h, hwho, -, -, -, -, hh⟩
  · have hs : Seat s (s.putFlags c (c.exec g) v) c (fun w => w.putFlags (c.exec g) v) id := by
      unfold State.putFlags
      rw [hwho]
      exact s.seat_modWarp c _
    refine completesIn_of_prepared hc hx (hq.beside _) hq.sameMemory (hs.then_same (State.seat_coolSpecial _ c .fpst))
      (.of_strands rfl rfl rfl ⟨fun _ _ _ _ _ => rfl, fun _ _ _ => rfl, fun th hth => ?_, fun _ _ _ _ => rfl, fun _ _ _ _ => rfl⟩ fun _ x _ hx => by rw [hh] at hx; cases hx)
      fun c' hend t ht => ?_
    · exact mgetD_foldl_mput_other _ v (by simpa [hh] using hth) _
    · simp only [Iss.flagsOf, hend.no_helper hh, show c'.w.fpst = (c.w.putFlags (c.exec g) v).fpst from (congrArg Warp.fpst hend.warp.rest :)]
      exact mgetD_foldl_mput_same _ v ht _
  · have hs : Seat s (s.putFlags c (c.exec g) v) c id (fun h => if (c.exec g).isEmpty then h else { h with fpst := v (4 * lane) }) := by
      unfold State.putFlags
      rw [hwho]
      exact s.seat_modHelper hwho _
    have hlane : ∀ t ∈ c.exec g, t = 4 * lane := fun t ht => by simpa [Iss.tids_of_helper hwho] using c.exec_subset g ht
    refine completesIn_of_prepared hc hx (hq.beside _) hq.sameMemory (hs.then_same (State.seat_coolSpecial _ c .fpst))
      (.of_strands rfl rfl rfl (.of_same rfl rfl rfl rfl rfl) fun l x hl _ => ?_) fun c' hend t ht => ?_
    · rw [hwho] at hl
      cases hl
      cases hex : c.exec g with
      | nil => exact ⟨rfl, rfl, .of_same rfl rfl rfl⟩
      | cons t r =>
        refine ⟨rfl, rfl, fun _ _ => rfl, fun _ _ => rfl, fun hf => ?_⟩
        have ht : t ∈ c.exec g := hex ▸ List.mem_cons_self
        simp [← hlane t ht] at hf
    · obtain ⟨h', hh', hfin⟩ := hend.helper h hh
      have hne : (c.exec g).isEmpty = false := by simpa using List.ne_nil_of_mem ht
      rw [hne] at hfin
      simp only [Iss.flagsOf, hh', hlane t ht]
      exact (congrArg Helper.fpst hfin.rest :)

/-! ### sr.fmt -/

theorem fmtReserved_eq_false {v : Nat} (h : bitsOf v 12 4 < 11 ∧ bitsOf v 9 3 < 5 ∧ bitsOf v 6 2 < 3) : fmtReserved v = false := by
  obtain ⟨h1, h2, h3⟩ := h
  simp [fmtReserved, h1, h2, h3]

/-- The bits of sr.fmt that are not reserved are its word under their mask (Table 2-13). -/
theorem fmtBits_eq (v : Nat) : BitVec.ofNat 32 (fmtBits v) = wordOf v &&& 0x0FFFFFC0#32 := by
  have hmask : ∀ k, k < 32 → Nat.testBit 0x0FFFFFC0 k = (decide (6 ≤ k) && decide (k < 28)) := by decide
  refine wordOf_and_mask fun k hk => ?_
  rw [fmtBits, show (64 : Nat) = 2 ^ 6 from rfl, Nat.testBit_mul_two_pow, testBit_bitsOf, hmask k hk]
  by_cases h6 : 6 ≤ k
  · rw [show 6 + (k - 6) = k by omega, decide_eq_true h6]
    by_cases h28 : k < 28
    · simp [h28, show k - 6 < 22 by omega]
    · simp [h28, show ¬k - 6 < 22 by omega]
  · simp [h6]

theorem execWrsr_fmt (a : Opnd) (g u : Bool) (s : State) : execWrsr a .fmt g u s = seqOps s true (fun c => c.strandHeads.map (fun x => x.2)) [(a, 1)] none (fun c =>
    let heads := c.strandHeads.filter (fun x => (c.exec g).any (fun t => t / 4 == x.1))
    if heads.any (fun x => fmtReserved (c.read x.2 a 1)) then s.takeTrap c .illegalOp 0
    else ((heads.foldl (fun s x => s.setFmt c x.1 (fmtBits (c.read x.2 a 1))) s).coolSpecial c .fmt).finish c []) := rfl

theorem wrsrFmt_completes {s : State} {c : Iss} {a : Opnd} {g u : Bool} (hc : s.iss = some c) (hclear : SeqClear s c true (c.strandHeads.map (fun x => x.2)) [(a, 1)] none)
    (hok : ∀ x ∈ c.strandHeads, (∃ t ∈ c.exec g, t / 4 = x.1) →
      bitsOf (c.read x.2 a 1) 12 4 < 11 ∧ bitsOf (c.read x.2 a 1) 9 3 < 5 ∧ bitsOf (c.read x.2 a 1) 6 2 < 3) :
    CompletesIn Footprint.fmt (.wrsr a .fmt g u) s c Writes.none
      (fun c' _ => ∀ x ∈ c.strandHeads, (c.hel = none → x.1 < c.w.strands.length) →
        ((∃ t ∈ c.exec g, t / 4 = x.1) → c'.fmt x.2 = wordOf (c.read x.2 a 1) &&& 0x0FFFFFC0#32) ∧
        ((∀ t ∈ c.exec g, t / 4 ≠ x.1) → c'.fmt x.2 = c.fmt x.2)) := by
  let heads := c.strandHeads.filter (fun x => (c.exec g).any (fun t => t / 4 == x.1))
  have hmem : ∀ x, x ∈ heads ↔ x ∈ c.strandHeads ∧ ∃ t ∈ c.exec g, t / 4 = x.1 := fun x => by
    simp only [heads, List.mem_filter, List.any_eq_true, beq_iff_eq]
  refine (completesIn_setFmts (heads := heads) (v := fun x => fmtBits (c.read x.2 a 1)) hc (fun x hx => ((hmem x).mp hx).1) ?_).imp fun c' _ h x hx hlt => ⟨fun hex => ?_, fun hno => ?_⟩
  · show execWrsr a .fmt g u s = _
    rw [execWrsr_fmt, seqOps_clear true (fun c => c.strandHeads.map (fun x => x.2)) [(a, 1)] none _ hc hclear]
    refine congrArg Host.Outcome.next (if_neg ?_)
    rw [Bool.not_eq_true, List.any_eq_false]
    intro x hx
    obtain ⟨hx, hex⟩ := (hmem x).mp hx
    simp [fmtReserved_eq_false (hok x hx hex)]
  · rw [h.1 x ((hmem x).mpr ⟨hx, hex⟩) hlt, fmtBits_eq]
  · refine h.2 x hx fun hm => ?_
    obtain ⟨-, t, ht, htx⟩ := (hmem x).mp hm
    exact hno t ht htx

/-! ### sr.trappc and sr.trapbase -/

theorem Iss.read64_first {c : Iss} {g : Bool} (hex : c.exec g ≠ []) (a : Opnd) : ∃ t r th, c.tids = t :: r ∧ (∃ q, c.exec g = th :: q) ∧ c.read64 t a = BitVec.ofNat 64 (c.first a 2) := by
  obtain ⟨th, q, hq⟩ := List.exists_cons_of_ne_nil hex
  obtain ⟨t, r, hr⟩ := List.exists_cons_of_ne_nil (List.ne_nil_of_mem (c.exec_subset g (hq ▸ List.mem_cons_self)))
  exact ⟨t, r, th, hr, ⟨q, hq⟩, by simp only [Iss.read64, Iss.first, hr]⟩

theorem wrsrTrappc_completes {s : State} {c : Iss} {a : Opnd} {g u : Bool} (hc : s.iss = some c) (hclear : SeqClear s c true (c.tids.take 1) [(a, 2)] none)
    (hh : c.hel = none) (hex : c.exec g ≠ []) : CompletesIn { Footprint.plain with warp := fun w => { w with trappc := 0 } } (.wrsr a .trappc g u) s c Writes.none
      (fun c' _ => c'.w.trappc = BitVec.ofNat 64 (c.first a 2)) := by
  obtain ⟨t, r, th, ht, ⟨q, hq⟩, hread⟩ := Iss.read64_first hex a
  have hx : exec (.wrsr a .trappc g u) s =
      .next (((s.modWarp c.core c.slot (fun w => { w with trappc := BitVec.ofNat 64 (c.first a 2) })).coolSpecial c .trappc).finish c []) := by
    refine (seqOps_clear true Iss.lowest [(a, 2)] none _ hc hclear).trans ?_
    simp only [hh, ht, hq, hread, Option.isSome_none, Bool.false_eq_true, if_false]
  refine completesIn_finish (fw := fun w => { w with trappc := BitVec.ofNat 64 (c.first a 2) }) hc hx ((s.quiet_modWarp _ _ _).trans (State.quiet_coolSpecial _ _ _))
    ((s.seat_modWarp c _).then_same (State.seat_coolSpecial _ c _)) rfl rfl rfl (.of_same rfl rfl rfl rfl rfl) fun c' w' hb hf => ?_
  rw [hb.w]
  exact (congrArg Warp.trappc hf.rest :)

/-- Every context but one is as before. -/
def State.SameCtxsBut (s t : State) (ctx : Nat) : Prop := ∀ id, id ≠ ctx → mget? t.ctxs id = mget? s.ctxs id

theorem State.SameCtxsBut.trans {s t r : State} {ctx : Nat} (h : s.SameCtxsBut t ctx) (k : t.SameCtxsBut r ctx) : s.SameCtxsBut r ctx :=
  fun id hne => (k id hne).trans (h id hne)

theorem State.SameCtxsBut.of_ctxs {s t : State} (ctx : Nat) (h : t.ctxs = s.ctxs) : s.SameCtxsBut t ctx := fun id _ => by rw [h]

theorem State.sameCtxsBut_modCtx (s : State) (ctx : Nat) (f : Context → Context) : s.SameCtxsBut (s.modCtx ctx f) ctx := fun id hne => by
  unfold State.modCtx
  split
  · exact mget?_mset_other _ _ (Ne.symm hne)
  · rfl

theorem State.modSplit_ctxs (s : State) (c : Iss) (f : Split → Split) : (s.modSplit c f).ctxs = s.ctxs := by
  unfold State.modSplit
  split
  · exact s.modWarp_ctxs _ _ _
  · rfl

theorem State.coolFlags_ctxs (s : State) (c : Iss) (resumed : Bool) : (s.coolFlags c resumed).ctxs = s.ctxs := by
  unfold State.coolFlags
  split
  · exact s.coolAt_ctxs _ _ _ _
  · rfl

/-- An issue is charged to the lease of the issuer's context, and to no other context. -/
theorem State.sameCtxsBut_spend (s : State) (c : Iss) (leased : Bool) (units : Nat) : s.SameCtxsBut (s.spend c leased units) c.w.ctx := by
  unfold State.spend
  extract_lets key win s1 pol s2 now s3 start
  have h3 : s.SameCtxsBut s3 c.w.ctx := .of_ctxs _ ((s2.modWg_ctxs _ _).trans (s.meterAt_ctxs _ _ _))
  split
  · exact h3.trans (s3.sameCtxsBut_modCtx _ _)
  · exact h3

theorem State.sameCtxsBut_charge (s : State) (c : Iss) (ps : List Nat) : s.SameCtxsBut (s.charge c ps) c.w.ctx := by
  unfold State.charge
  split
  · exact .of_ctxs _ rfl
  · extract_lets leased s1 s2 inside
    have h2 : s.SameCtxsBut s2 c.w.ctx := .trans (.of_ctxs _ ((State.modWarp_ctxs _ _ _ _).trans (s1.coolFlags_ctxs c false))) (State.sameCtxsBut_spend _ _ _ _)
    split
    · exact h2.trans (.of_ctxs _ (s2.modSplit_ctxs _ _))
    · exact h2

theorem State.wake_ctxs (s : State) (c : Iss) : (s.wake c).ctxs = s.ctxs := by
  unfold State.wake
  split
  · exact s.modSplit_ctxs _ _
  · rfl

theorem State.stepPc_ctxs (s : State) (c : Iss) : (s.stepPc c).ctxs = s.ctxs := by
  unfold State.stepPc
  split
  · exact s.modWarp_ctxs _ _ _
  · rfl

theorem State.sameCtxsBut_finish (s : State) (c : Iss) (ps : List Nat) : s.SameCtxsBut (s.finish c ps) c.w.ctx := by
  refine (s.sameCtxsBut_charge c ps).trans (.of_ctxs _ (((State.stepPc_ctxs _ c).trans (State.wake_ctxs _ c)).trans ?_))
  unfold State.retire
  split
  · exact State.modWarp_ctxs _ _ _ _
  · rfl

/-- A change of what a frame names in a context. -/
theorem Footprint.beside_modCtx {fr : Footprint} (s : State) (core slot id : Nat) {f : Context → Context}
    (hf : ∀ x, fr.ctx { f x with lease := none, leaseAt := 0 } = fr.ctx { x with lease := none, leaseAt := 0 }) : fr.Beside s (s.modCtx id f) core slot := by
  unfold State.modCtx
  split
  next x hx =>
    refine .of_cores _ _ rfl ⟨rfl, fun _ => rfl, fun k => ?_⟩
    simp only [mget?_mset]
    split
    next hk => rw [← hk, hx]; exact congrArg some (hf x)
    next => rfl
  next => exact (Quiet.refl _ _ _).beside fr

theorem State.sameMemory_modCtx (s : State) (id : Nat) (f : Context → Context) : SameMemory s (s.modCtx id f) :=
  ⟨fun _ _ _ _ => State.SameStores.memRead (s.sameStores_modCtx id f) _ _ _ _ _, fun _ _ => by simp [State.core], fun _ => by simp [State.core]⟩

/-- Where an ordinary end finds a context, it leaves it there but for its lease. -/
theorem State.ctxs_finish {s : State} {c : Iss} {ps : List Nat} {x : Context} {id : Nat} (hx : mget? s.ctxs id = some x) :
    ∃ y, mget? (s.finish c ps).ctxs id = some y ∧ y.trapbase = x.trapbase := by
  have h := (s.quiet_finish c ps).device.2.2 id
  rw [hx] at h
  obtain ⟨y, hy, hyx⟩ := Option.map_eq_some_iff.mp h
  exact ⟨y, hy, (congrArg Context.trapbase hyx :)⟩

theorem wrsrTrapbase_completes {s : State} {c : Iss} {a : Opnd} {g u : Bool} (hc : s.iss = some c) (hclear : SeqClear s c true (c.tids.take 1) [(a, 2)] none)
    (hh : c.hel = none) (hex : c.exec g ≠ []) : CompletesIn { Footprint.plain with ctx := fun x => { x with trapbase := 0 } } (.wrsr a .trapbase g u) s c Writes.none
      (fun c' t => (∀ x, s.ctxOf c.w = some x → ∃ x', t.ctxOf c'.w = some x' ∧ x'.trapbase = BitVec.ofNat 64 (c.first a 2) &&& ~~~3#64) ∧
        (∀ id, id ≠ c.w.ctx → (mget? t.ctxs id) = (mget? s.ctxs id))) := by
  obtain ⟨t, r, th, ht, ⟨q, hq⟩, hread⟩ := Iss.read64_first hex a
  let base := fun (x : Context) => { x with trapbase := BitVec.ofNat 64 (c.first a 2) &&& ~~~3#64 }
  let s1 := (s.modCtx c.w.ctx base).coolSpecial c .trapbase
  have hctxs : s1.ctxs = (s.modCtx c.w.ctx base).ctxs := State.coolAt_ctxs _ _ _ _ _
  have hx : exec (.wrsr a .trapbase g u) s = .next (s1.finish c []) := by
    refine (seqOps_clear true Iss.lowest [(a, 2)] none _ hc hclear).trans ?_
    simp only [hh, ht, hq, hread, Option.isSome_none, Bool.false_eq_true, if_false]
    rfl
  refine completesIn_of_prepared hc hx ((Footprint.beside_modCtx s _ _ c.w.ctx (f := base) fun _ => rfl).trans ((State.quiet_coolSpecial _ _ _).beside _)) ?_
    ((Seat.of_cores (State.modCtx_cores _ _ _)).then_same (State.seat_coolSpecial _ c _)) (.refl _ _ _) fun c' hend => ⟨fun x hcx => ?_, ?_⟩
  · exact (State.sameMemory_modCtx s _ base).trans (State.quiet_coolSpecial _ _ _).sameMemory
  · obtain ⟨y, hy, hyx⟩ := State.ctxs_finish (c := c) (ps := []) ((congrArg (mget? · c.w.ctx) hctxs).trans (State.ctxs_modCtx_same hcx base))
    exact ⟨y, (congrArg (mget? _) (congrArg Warp.ctx hend.warp.rest :)).trans hy, hyx⟩
  · exact ((s.sameCtxsBut_modCtx _ base).trans (.of_ctxs _ hctxs)).trans (s1.sameCtxsBut_finish c [])

/-- Settles O15: each form ends as any instruction ends, its issuer holding what was written; a write of sr.trapbase reaches the issuer's context alone. -/
theorem specialRegisters : Obligations.SpecialRegisters := fun _ _ hc =>
  ⟨fun _ _ _ _ hclear hsh => rdsr_completes hc hclear hsh, fun _ _ _ hclear => wrsrFpst_completes hc hclear, fun _ _ _ hclear hok => wrsrFmt_completes hc hclear hok,
    fun _ _ _ hclear hh hex => ⟨wrsrTrappc_completes hc hclear hh hex, wrsrTrapbase_completes hc hclear hh hex⟩⟩

end Sys2Proof.Machine

/-! SUPPORT. Threads that go together at a transfer of control, and what a transfer makes of one strand. -/

namespace Sys2Proof.Machine

/-! ### The groups of threads with equal keys -/

/-- The keys of some threads, each once, in the order in which they are met. -/
def keysOf (key : Nat → Nat) : List Nat → List Nat
  | [] => []
  | t :: r => key t :: (keysOf key r).filter (· != key t)

/-- The threads with one key. -/
def withKey (key : Nat → Nat) (ts : List Nat) (v : Nat) : List Nat := ts.filter (fun t => key t == v)

theorem mem_withKey {key : Nat → Nat} {ts : List Nat} {v t : Nat} : t ∈ withKey key ts v ↔ t ∈ ts ∧ key t = v := by
  simp [withKey]

theorem mem_keysOf {key : Nat → Nat} {ts : List Nat} {v : Nat} : v ∈ keysOf key ts ↔ ∃ t ∈ ts, key t = v := by
  induction ts with
  | nil => simp [keysOf]
  | cons t r ih =>
    by_cases h : v = key t
    · simp [keysOf, h]
    · simp [keysOf, h, ih, Ne.symm h]

theorem keysOf_nodup (key : Nat → Nat) (ts : List Nat) : (keysOf key ts).Nodup := by
  induction ts with
  | nil => exact List.nodup_nil
  | cons t r ih => exact List.nodup_cons.mpr ⟨by simp, ih.filter _⟩

theorem length_keysOf_le (key : Nat → Nat) (ts : List Nat) : (keysOf key ts).length ≤ ts.length := by
  induction ts with
  | nil => exact Nat.le_refl 0
  | cons t r ih => exact Nat.succ_le_succ ((List.length_filter_le _ _).trans ih)

theorem withKey_ne_nil {key : Nat → Nat} {ts : List Nat} {v : Nat} (h : v ∈ keysOf key ts) : ∃ t r, withKey key ts v = t :: r ∧ key t = v := by
  obtain ⟨t, ht, hv⟩ := mem_keysOf.mp h
  obtain ⟨x, r, hx⟩ := List.exists_cons_of_ne_nil (List.ne_nil_of_mem (mem_withKey.mpr ⟨ht, hv⟩))
  exact ⟨x, r, hx, (mem_withKey.mp (hx ▸ List.mem_cons_self)).2⟩

/-- No two keys have the same threads. -/
theorem withKey_inj {key : Nat → Nat} {ts : List Nat} {u v : Nat} (hu : u ∈ keysOf key ts) (h : withKey key ts u = withKey key ts v) : u = v := by
  obtain ⟨t, r, ht, hk⟩ := withKey_ne_nil hu
  have hm : t ∈ withKey key ts v := h ▸ ht ▸ List.mem_cons_self
  exact hk.symm.trans (mem_withKey.mp hm).2

/-- The groups are the threads of each key, in the order in which the keys are met. -/
theorem groupBy_eq (key : Nat → Nat) (ts : List Nat) : groupBy key ts = (keysOf key ts).map (withKey key ts) := by
  induction ts with
  | nil => rfl
  | cons t r ih =>
    have hother : ∀ v ∈ (keysOf key r).filter (· != key t), withKey key (t :: r) v = withKey key r v := fun v hv => by
      have hne : key t ≠ v := by simpa using (Ne.symm (a := v)) (by simpa using (List.mem_filter.mp hv).2)
      simp [withKey, hne]
    have hsame : withKey key (t :: r) (key t) = t :: withKey key r (key t) := by simp [withKey]
    rw [keysOf, List.map_cons, List.map_congr_left hother, hsame]
    unfold groupBy
    rw [ih]
    dsimp only
    split
    next g hg =>
      obtain ⟨u, hu, rfl⟩ := List.mem_map.mp (List.mem_of_find?_eq_some hg)
      obtain ⟨x, q, hx, hxu⟩ := withKey_ne_nil hu
      have hp := List.find?_some hg
      simp only [hx, beq_iff_eq] at hp
      obtain rfl : u = key t := hxu.symm.trans hp
      rw [List.filter_map]
      refine congrArg _ (congrArg _ (List.filter_congr fun v hv => ?_))
      by_cases hvt : v = key t
      · simp [hvt]
      · have hne : withKey key r v ≠ withKey key r (key t) := fun h => hvt (withKey_inj hv h)
        exact (bne_iff_ne.mpr hne).trans (bne_iff_ne.mpr hvt).symm
    next hg =>
      have hno : key t ∉ keysOf key r := fun hk => by
        obtain ⟨x, q, hx, hxk⟩ := withKey_ne_nil hk
        have hp := List.find?_eq_none.mp hg _ (List.mem_map_of_mem hk)
        simp only [hx, hxk, beq_self_eq_true, not_true_eq_false] at hp
      have hnil : withKey key r (key t) = [] := List.eq_nil_iff_forall_not_mem.mpr fun x hx => hno (mem_keysOf.mpr ⟨x, mem_withKey.mp hx⟩)
      rw [hnil, List.filter_eq_self.mpr fun v hv => by simpa using fun h : v = key t => hno (h ▸ hv)]

/-- Threads with one key are one group. -/
theorem groupBy_of_uniform {key : Nat → Nat} {t : Nat} {r : List Nat} (h : ∀ x ∈ t :: r, key x = key t) : groupBy key (t :: r) = [t :: r] := by
  have hk : (keysOf key r).filter (· != key t) = [] := List.filter_eq_nil_iff.mpr fun v hv => by
    obtain ⟨x, hx, rfl⟩ := mem_keysOf.mp hv
    simp [h x (List.mem_cons_of_mem _ hx)]
  have hall : withKey key (t :: r) (key t) = t :: r := List.filter_eq_self.mpr fun x hx => by simp [h x hx]
  rw [groupBy_eq, keysOf, hk, List.map_singleton, hall]

/-- The group of the first thread, before the groups of the other keys. -/
theorem groupBy_cons (key : Nat → Nat) (t : Nat) (r : List Nat) :
    groupBy key (t :: r) = withKey key (t :: r) (key t) :: ((keysOf key r).filter (· != key t)).map (withKey key (t :: r)) := by
  rw [groupBy_eq, keysOf, List.map_cons]

/-! ### One strand -/

/-- The active threads of a strand. -/
def Strand.threads (st : Strand) (l : Nat) : List Nat := (upto 4).filterMap (fun k => if st.active.getLsbD k then some (4 * l + k) else none)

theorem Strand.mem_threads {st : Strand} {l t : Nat} : t ∈ st.threads l ↔ ∃ k, k < 4 ∧ st.active.getLsbD k = true ∧ t = 4 * l + k := by
  simp only [Strand.threads, List.mem_filterMap, upto, List.mem_range, Option.ite_none_right_eq_some, Option.some.injEq]
  exact ⟨fun ⟨k, hk, ha, h⟩ => ⟨k, hk, ha, h.symm⟩, fun ⟨k, hk, ha, h⟩ => ⟨k, hk, ha, h.symm⟩⟩

/-- The lowest active slot of a strand. -/
def Strand.Lowest (st : Strand) (k : Nat) : Prop := k < 4 ∧ st.active.getLsbD k = true ∧ ∀ i, i < k → st.active.getLsbD i = false

theorem Strand.exists_lowest {st : Strand} (h : st.active ≠ 0) : ∃ k, st.Lowest k := by
  have hall : ∀ a : BitVec 4, a ≠ 0 → ∃ k : Fin 4, a.getLsbD k.val = true ∧ ∀ i : Fin 4, i < k → a.getLsbD i.val = false := by decide
  obtain ⟨k, hk, hlow⟩ := hall st.active h
  exact ⟨k.val, k.isLt, hk, fun i hi => hlow ⟨i, hi.trans k.isLt⟩ hi⟩

theorem Strand.threads_of_lowest {st : Strand} {k : Nat} (h : st.Lowest k) (l : Nat) : ∃ r, st.threads l = (4 * l + k) :: r := by
  obtain ⟨hk, hact, hlow⟩ := h
  have h4 : upto 4 = [0, 1, 2, 3] := rfl
  unfold Strand.threads
  rw [h4]
  match k, hk with
  | 0, _ =>
    simp only [List.filterMap_cons, hact, if_true]
    exact ⟨_, rfl⟩
  | 1, _ =>
    simp only [List.filterMap_cons, hlow 0 (by decide), hact, if_true, Bool.false_eq_true, if_false]
    exact ⟨_, rfl⟩
  | 2, _ =>
    simp only [List.filterMap_cons, hlow 0 (by decide), hlow 1 (by decide), hact, if_true, Bool.false_eq_true, if_false]
    exact ⟨_, rfl⟩
  | 3, _ =>
    simp only [List.filterMap_cons, hlow 0 (by decide), hlow 1 (by decide), hlow 2 (by decide), hact, if_true, Bool.false_eq_true, if_false]
    exact ⟨_, rfl⟩

theorem Strand.length_threads_le (st : Strand) (l : Nat) : (st.threads l).length ≤ 4 := List.length_filterMap_le _ _

/-- The mask of the threads of a strand that some test keeps. -/
theorem slotMask_filter (st : Strand) (l : Nat) (p : Nat → Bool) {i : Nat} (hi : i < 4) :
    (slotMask ((st.threads l).filter p)).getLsbD i = (st.active.getLsbD i && p (4 * l + i)) := by
  rw [slotMask, BitVec.getLsbD_ofNat, ← hasBit_eq_testBit, hasBit_maskOf, decide_eq_true hi, Bool.true_and]
  have hiff : i ∈ ((st.threads l).filter p).map (fun t => t % 4) ↔ st.active.getLsbD i = true ∧ p (4 * l + i) = true := by
    simp only [List.mem_map, List.mem_filter, Strand.mem_threads]
    constructor
    · rintro ⟨t, ⟨⟨k, hk, ha, rfl⟩, hp⟩, rfl⟩
      have : (4 * l + k) % 4 = k := by omega
      rw [this]
      exact ⟨ha, hp⟩
    · rintro ⟨ha, hp⟩
      exact ⟨4 * l + i, ⟨⟨i, hi, ha, rfl⟩, hp⟩, by omega⟩
  rw [Bool.eq_iff_iff, decide_eq_true_iff, hiff, Bool.and_eq_true]

/-! ### A transfer of one strand -/

/-- What waits on the stack of a strand that divides: for each key but the first its threads, with their target, above the entry that joins them. -/
def Strand.divideStack (st : Strand) (l : Nat) (key : Nat → Nat) (pcOf : Nat → DWord) (keys : List Nat) : List StackEntry :=
  keys.map (fun v => { kind := .path, mask := slotMask (withKey key (st.threads l) v), pc := some (pcOf ((withKey key (st.threads l) v).headD 0)), fmt := st.fmt }) ++
    { kind := .join, mask := st.active, pc := none, fmt := st.fmt } :: st.stack

/-- Where the active threads of a strand have one key, the strand goes to the lowest one's target. -/
theorem transferStrand_uniform {st : Strand} {l k : Nat} {key : Nat → Nat} (pcOf : Nat → DWord) (hk : st.Lowest k)
    (h : ∀ i, i < 4 → st.active.getLsbD i = true → key (4 * l + i) = key (4 * l + k)) : transferStrand st l key pcOf = some { st with pc := pcOf (4 * l + k) } := by
  obtain ⟨r, hr⟩ := Strand.threads_of_lowest hk l
  have hg : groupBy key (st.threads l) = [(4 * l + k) :: r] := by
    rw [hr]
    refine groupBy_of_uniform fun x hx => ?_
    obtain ⟨i, hi, ha, rfl⟩ := Strand.mem_threads.mp (hr ▸ hx)
    exact h i hi ha
  rw [transferStrand, show groupBy key ((upto 4).filterMap fun k => if st.active.getLsbD k then some (4 * l + k) else none) = _ from hg]
  rfl

/-- What a strand becomes where its active threads have more than one key, of which `keys` are those of the threads that wait. -/
def Strand.divide (st : Strand) (l k : Nat) (key : Nat → Nat) (pcOf : Nat → DWord) (keys : List Nat) : Strand :=
  { st with pc := pcOf (4 * l + k), active := slotMask (withKey key (st.threads l) (key (4 * l + k))), stack := st.divideStack l key pcOf keys }

/-- Where they divide, the lowest one's group goes to its target and the others wait on the stack. -/
theorem transferStrand_divided {st : Strand} {l k : Nat} {key : Nat → Nat} (pcOf : Nat → DWord) (hk : st.Lowest k)
    {j : Nat} (hj : j < 4) (hact : st.active.getLsbD j = true) (hne : key (4 * l + j) ≠ key (4 * l + k))
    (hroom : st.stack.length + (keysOf key (st.threads l)).length ≤ 16) :
    transferStrand st l key pcOf = some (st.divide l k key pcOf (keysOf key (st.threads l)).tail) := by
  obtain ⟨r, hr⟩ := Strand.threads_of_lowest hk l
  have hg : groupBy key (st.threads l) = withKey key (st.threads l) (key (4 * l + k)) :: (keysOf key (st.threads l)).tail.map (withKey key (st.threads l)) := by
    rw [hr]
    exact groupBy_cons key _ r
  have hhead : (withKey key (st.threads l) (key (4 * l + k))).headD 0 = 4 * l + k := by simp [hr, withKey]
  have hlen : (keysOf key (st.threads l)).length = (keysOf key (st.threads l)).tail.length + 1 := by rw [hr]; simp [keysOf]
  have hmem : key (4 * l + j) ∈ (keysOf key (st.threads l)).tail := by
    have hm : key (4 * l + j) ∈ keysOf key (st.threads l) := mem_keysOf.mpr ⟨_, Strand.mem_threads.mpr ⟨j, hj, hact, rfl⟩, rfl⟩
    rw [hr, keysOf] at hm ⊢
    exact (List.mem_cons.mp hm).resolve_left hne
  obtain ⟨v, vs, hv⟩ := List.exists_cons_of_ne_nil (List.ne_nil_of_mem hmem)
  rw [hv] at hg hlen ⊢
  rw [List.length_cons] at hlen
  rw [transferStrand, show groupBy key ((upto 4).filterMap fun k => if st.active.getLsbD k then some (4 * l + k) else none) = _ from hg, List.map_cons]
  dsimp only
  rw [if_neg (by simp only [stackLimit, List.length_cons, List.length_map]; omega), hhead]
  simp only [Strand.divide, Strand.divideStack, List.map_cons, List.map_map, Function.comp_def]

theorem Strand.active_divide {st : Strand} {l k i : Nat} {key : Nat → Nat} {pcOf : Nat → DWord} {keys : List Nat} (hi : i < 4) :
    (st.divide l k key pcOf keys).active.getLsbD i = (st.active.getLsbD i && key (4 * l + i) == key (4 * l + k)) :=
  slotMask_filter st l _ hi

theorem Strand.divide_active_ne_zero {st : Strand} {l k : Nat} {key : Nat → Nat} {pcOf : Nat → DWord} {keys : List Nat} (hk : st.Lowest k) :
    (st.divide l k key pcOf keys).active ≠ 0 := fun h => by
  obtain ⟨hk4, hact, -⟩ := hk
  have ha := Strand.active_divide (st := st) (l := l) (k := k) (key := key) (pcOf := pcOf) (keys := keys) hk4
  rw [h, hact] at ha
  simp at ha

theorem Strand.Lowest.unique {st : Strand} {k j : Nat} (hk : st.Lowest k) (hj : j < 4 ∧ st.active.getLsbD j = true ∧ ∀ i, i < j → st.active.getLsbD i = false) : j = k := by
  obtain ⟨-, hkact, hklow⟩ := hk
  obtain ⟨-, hjact, hjlow⟩ := hj
  rcases Nat.lt_trichotomy j k with h | h | h
  · exact absurd (hklow j h) (by simp [hjact])
  · exact h
  · exact absurd (hjlow k h) (by simp [hkact])

/-! ### Transfers on a predicate -/

/-- The key by which threads divide on a predicate. -/
def takenKey (taken : Nat → Bool) (t : Nat) : Nat := if taken t then 1 else 0

theorem takenKey_beq (taken : Nat → Bool) (t x : Nat) : (takenKey taken t == takenKey taken x) = (taken t == taken x) := by
  unfold takenKey
  cases taken t <;> cases taken x <;> rfl

theorem takenKey_inj {taken : Nat → Bool} {t x : Nat} : takenKey taken t = takenKey taken x ↔ taken t = taken x := by
  have h := takenKey_beq taken t x
  rwa [Bool.eq_iff_iff, beq_iff_eq, beq_iff_eq] at h

theorem eq_singleton_of_nodup {l : List Nat} {x : Nat} (hn : l.Nodup) (hx : x ∈ l) (h : ∀ y ∈ l, y = x) : l = [x] := by
  cases l with
  | nil => cases hx
  | cons a r =>
    obtain rfl := h a List.mem_cons_self
    refine congrArg _ (List.eq_nil_iff_forall_not_mem.mpr fun y hy => (List.nodup_cons.mp hn).1 ?_)
    rwa [← h y (List.mem_cons_of_mem _ hy)]

/-- Where threads divide on a predicate, two keys are met: the lowest thread's and the other. -/
theorem keysOf_taken {st : Strand} {l k j : Nat} {taken : Nat → Bool} (hk : st.Lowest k) (hj : j < 4) (hact : st.active.getLsbD j = true)
    (hne : taken (4 * l + k) ≠ taken (4 * l + j)) :
    keysOf (takenKey taken) (st.threads l) = [takenKey taken (4 * l + k), takenKey taken (4 * l + j)] := by
  obtain ⟨r, hr⟩ := Strand.threads_of_lowest hk l
  have hmem : takenKey taken (4 * l + j) ∈ keysOf (takenKey taken) r := by
    have hm : takenKey taken (4 * l + j) ∈ keysOf (takenKey taken) (st.threads l) := mem_keysOf.mpr ⟨_, Strand.mem_threads.mpr ⟨j, hj, hact, rfl⟩, rfl⟩
    rw [hr, keysOf] at hm
    exact (List.mem_filter.mp ((List.mem_cons.mp hm).resolve_left fun h => hne (takenKey_inj.mp h).symm)).1
  rw [hr, keysOf]
  refine congrArg _ (eq_singleton_of_nodup ((keysOf_nodup _ _).filter _) (List.mem_filter.mpr ⟨hmem, ?_⟩) fun y hy => ?_)
  · simpa [takenKey_inj] using Ne.symm hne
  · obtain ⟨hy, hyk⟩ := List.mem_filter.mp hy
    obtain ⟨x, -, rfl⟩ := mem_keysOf.mp hy
    have hyk : taken x ≠ taken (4 * l + k) := by simpa [takenKey_inj] using hyk
    exact takenKey_inj.mpr (by revert hyk hne; cases taken x <;> cases taken (4 * l + k) <;> cases taken (4 * l + j) <;> simp)

/-- Where a thread goes that transfers on a predicate. -/
def takenPc (taken : Nat → Bool) (target next : DWord) (t : Nat) : DWord := if taken t then target else next

/-- A thread goes the other way than one from which it divides. -/
theorem takenPc_of_ne {taken : Nat → Bool} {t x : Nat} (target next : DWord) (h : taken t ≠ taken x) :
    takenPc taken target next t = if taken x then next else target := by
  unfold takenPc
  revert h
  cases taken t <;> cases taken x <;> simp

/-- The transfer of one strand on a predicate. -/
theorem branchGo_transferStrand {st : Strand} (hact : st.active ≠ 0) (hroom : st.stack.length + 2 ≤ 16) (l : Nat) (taken : Nat → Bool) (target next : DWord) :
    ∃ st', transferStrand st l (takenKey taken) (takenPc taken target next) = some st' ∧ BranchGo taken target next l st st' ∧ st'.active ≠ 0 := by
  obtain ⟨k, hk⟩ := Strand.exists_lowest hact
  obtain ⟨hk4, hkact, -⟩ := id hk
  by_cases hall : ∀ i, i < 4 → st.active.getLsbD i = true → taken (4 * l + i) = taken (4 * l + k)
  · refine ⟨_, transferStrand_uniform _ hk fun i hi ha => takenKey_inj.mpr (hall i hi ha), ⟨fun h => ?_, fun h => ?_, fun m j hm hj hmact hjact _ hne => ?_⟩, hact⟩
    · simp [takenPc, h k hk4 hkact]
    · simp [takenPc, h k hk4 hkact]
    · exact absurd ((hall m hm hmact).trans (hall j hj hjact).symm) hne
  · push Not at hall
    obtain ⟨d, hd4, hdact, hdne⟩ := hall
    have hkeys := keysOf_taken hk hd4 hdact (Ne.symm hdne)
    refine ⟨_, transferStrand_divided _ hk hd4 hdact (fun h => hdne (takenKey_inj.mp h)) (by rw [hkeys]; exact hroom),
      ⟨fun h => ?_, fun h => ?_, fun m j hm hj hmact hjact hlow hne => ?_⟩, Strand.divide_active_ne_zero hk⟩
    · exact absurd ((h d hd4 hdact).trans (h k hk4 hkact).symm) hdne
    · exact absurd ((h d hd4 hdact).trans (h k hk4 hkact).symm) hdne
    · obtain rfl := hk.unique ⟨hm, hmact, hlow⟩
      refine ⟨fun i hi => (Strand.active_divide hi).trans (by rw [takenKey_beq]), rfl, rfl, rfl, rfl,
        slotMask (withKey (takenKey taken) (st.threads l) (takenKey taken (4 * l + d))), ?_, fun i hi => (slotMask_filter st l _ hi).trans ?_⟩
      · have hq : takenKey taken (4 * l + d) ∈ keysOf (takenKey taken) (st.threads l) := by simp [hkeys]
        obtain ⟨t, q, ht, htk⟩ := withKey_ne_nil hq
        have htm : taken t ≠ taken (4 * l + m) := (takenKey_inj.mp htk).trans_ne hdne
        rw [Strand.divide, Strand.divideStack, hkeys, List.tail_cons, List.map_singleton, ht, List.headD_cons,
          takenPc_of_ne target next htm]
        rfl
      · rw [takenKey_beq]
        revert hdne
        cases taken (4 * l + i) <;> cases taken (4 * l + m) <;> cases taken (4 * l + d) <;> simp

/-- The transfer of one strand to targets of its threads' own. -/
theorem indirectGo_transferStrand {st : Strand} (hact : st.active ≠ 0) (hroom : st.stack.length + 4 ≤ 16) (l : Nat) (target : Nat → DWord) :
    ∃ st', transferStrand st l (fun t => (target t).toNat) target = some st' ∧ IndirectGo target l st st' ∧ st'.active ≠ 0 := by
  obtain ⟨k, hk⟩ := Strand.exists_lowest hact
  obtain ⟨hk4, hkact, -⟩ := id hk
  by_cases hall : ∀ i, i < 4 → st.active.getLsbD i = true → target (4 * l + i) = target (4 * l + k)
  · have ht := transferStrand_uniform target hk (key := fun t => (target t).toNat) fun i hi ha => congrArg BitVec.toNat (hall i hi ha)
    refine ⟨_, ht, ⟨ht, fun v h => by rw [h k hk4 hkact], fun m hm hmact hlow => ?_⟩, hact⟩
    obtain rfl := hk.unique ⟨hm, hmact, hlow⟩
    refine ⟨rfl, fun i hi => ?_⟩
    cases ha : st.active.getLsbD i
    · rfl
    · simp [hall i hi ha]
  · push Not at hall
    obtain ⟨d, hd4, hdact, hdne⟩ := hall
    have hlen := (length_keysOf_le (fun t => (target t).toNat) (st.threads l)).trans (st.length_threads_le l)
    have ht := transferStrand_divided target hk (key := fun t => (target t).toNat) hd4 hdact (fun h => hdne (BitVec.eq_of_toNat_eq h)) (by omega)
    refine ⟨_, ht, ⟨ht, fun v h => absurd ((h d hd4 hdact).trans (h k hk4 hkact).symm) hdne, fun m hm hmact hlow => ?_⟩, Strand.divide_active_ne_zero hk⟩
    obtain rfl := hk.unique ⟨hm, hmact, hlow⟩
    refine ⟨rfl, fun i hi => (Strand.active_divide hi).trans ?_⟩
    rw [show ((target (4 * l + i)).toNat == (target (4 * l + m)).toNat) = (target (4 * l + i) == target (4 * l + m)) by
      rw [Bool.eq_iff_iff, beq_iff_eq, beq_iff_eq, BitVec.toNat_inj]]

end Sys2Proof.Machine

/-! SUPPORT. A transfer of control: what it makes of the issuing split and its strands, or of the issuing helper. -/

namespace Sys2Proof.Machine

/-! ### Strands replaced, and a split divided anew -/

theorem Warp.strand_setLanes {ls : List Nat} (hn : ls.Nodup) (new : Nat → Strand) (w : Warp) (l : Nat) :
    (w.setStrands (ls.map (fun l => (l, new l)))).strand l = if l ∈ ls ∧ l < w.strands.length then new l else w.strand l := by
  induction ls generalizing w with
  | nil => simp [Warp.setStrands]
  | cons x ls ih =>
    obtain ⟨hx, hn⟩ := List.nodup_cons.mp hn
    have hlen : (w.modStrand x (fun _ => new x)).strands.length = w.strands.length := length_modAt _ _ _
    refine (ih hn (w.modStrand x (fun _ => new x))).trans ?_
    rw [hlen, Warp.strand_modStrand]
    by_cases hm : l ∈ ls
    · have hne : x ≠ l := fun h => hx (h ▸ hm)
      simp [hm, hne]
    · by_cases hl : x = l
      · simp [hm, hl]
      · simp [hm, hl, Ne.symm hl]

theorem Warp.rest_setStrands (w : Warp) (ns : List (Nat × Strand)) : ({ w.setStrands ns with strands := [] } : Warp) = { w with strands := [] } :=
  foldl_observe_same (f := fun (w : Warp) (x : Nat × Strand) => w.modStrand x.1 (fun _ => x.2)) (fun w : Warp => ({ w with strands := [] } : Warp)) (fun _ _ _ => rfl) w

theorem Warp.length_setStrands (w : Warp) (ns : List (Nat × Strand)) : (w.setStrands ns).strands.length = w.strands.length :=
  foldl_observe_same (f := fun (w : Warp) (x : Nat × Strand) => w.modStrand x.1 (fun _ => x.2)) (fun w : Warp => w.strands.length) (fun _ _ _ => length_modAt _ _ _) w

theorem Warp.rest_regroup (w : Warp) (e waiting : Nat) : ({ w.regroup e waiting with splits := [] } : Warp) = { w with splits := [] } := by
  unfold Warp.regroup
  split
  · rfl
  · dsimp only
    split
    · rfl
    · exact foldl_observe_same (fun w : Warp => ({ w with splits := [] } : Warp)) (fun _ _ w => by split <;> rfl) _

/-- A split of which some strand has an active thread stays in the table when it is divided anew. -/
theorem Warp.entry_regroup {w : Warp} {e l : Nat} {sp : Split} (he : mget? w.splits e = some sp) (hl : l ∈ bitsList 16 sp.strands) (hact : (w.strand l).active ≠ 0)
    (waiting : Nat) : ∃ sp', mget? (w.regroup e waiting).splits e = some sp' := by
  obtain ⟨x, r, hx⟩ := List.exists_cons_of_ne_nil (List.ne_nil_of_mem ((List.mem_filter (p := fun l => (w.strand l).active != 0)).mpr ⟨hl, by simpa using hact⟩))
  refine Option.isSome_iff_exists.mp ?_
  unfold Warp.regroup
  rw [he]
  dsimp only
  rw [hx, groupBy_cons]
  refine List.foldlRecOn _ _ (motive := fun w : Warp => (mget? w.splits e).isSome = true) (by simp) fun v hv g _ => ?_
  split
  · dsimp only
    rw [mget?_mset]
    split
    · rfl
    · exact hv
  · exact hv

/-! ### The warp of a split that has transferred -/

/-- The warp of a split after a transfer: the split's entry changed, its strands replaced, and the split divided by their program counters. -/
def Warp.transfer (w : Warp) (e : Nat) (f : Split → Split) (ns : List (Nat × Strand)) : Warp := ((w.modEntry e f).setStrands ns).regroup e 0

theorem Warp.rest_transfer (w : Warp) (e : Nat) (f : Split → Split) (ns : List (Nat × Strand)) :
    ({ w.transfer e f ns with strands := [], splits := [] } : Warp) = { w with strands := [], splits := [] } :=
  ((congrArg (fun w : Warp => ({ w with strands := [] } : Warp)) (Warp.rest_regroup _ e 0) :).trans
    (congrArg (fun w : Warp => ({ w with splits := [] } : Warp)) (Warp.rest_setStrands _ ns) :)).trans
      (congrArg (fun w : Warp => ({ w with strands := [] } : Warp)) (w.rest_modEntry e f) :)

theorem Warp.strands_transfer (w : Warp) (e : Nat) (f : Split → Split) (ns : List (Nat × Strand)) :
    (w.transfer e f ns).strands = ((w.modEntry e f).setStrands ns).strands := (congrArg Warp.strands (Warp.rest_regroup _ e 0) :)

theorem Warp.strands_modEntry (w : Warp) (e : Nat) (f : Split → Split) : (w.modEntry e f).strands = w.strands := (congrArg Warp.strands (w.rest_modEntry e f) :)

theorem Warp.length_transfer (w : Warp) (e : Nat) (f : Split → Split) (ns : List (Nat × Strand)) : (w.transfer e f ns).strands.length = w.strands.length := by
  rw [Warp.strands_transfer, Warp.length_setStrands, Warp.strands_modEntry]

theorem Warp.strand_transfer {ls : List Nat} (hn : ls.Nodup) (new : Nat → Strand) (w : Warp) (e : Nat) (f : Split → Split) (l : Nat) :
    (w.transfer e f (ls.map (fun l => (l, new l)))).strand l = if l ∈ ls ∧ l < w.strands.length then new l else w.strand l := by
  have h := Warp.strand_setLanes hn new (w.modEntry e f) l
  simp only [Warp.strand, Warp.strands_modEntry] at h
  simp only [Warp.strand, Warp.strands_transfer, h]

/-! ### The transfer of a split -/

/-- The strands that a transfer makes of those of the issuing split. -/
def Iss.transferred (c : Iss) (key : Nat → Nat) (pcOf : Nat → DWord) (l : Nat) : Strand :=
  (transferStrand (c.w.strand l) l key pcOf).getD (c.w.strand l)

/-- Every strand of the issuing split has room for a transfer, which does of it what `go` says and leaves it active threads. -/
def Iss.Goes (c : Iss) (key : Nat → Nat) (pcOf : Nat → DWord) (go : Nat → Strand → Strand → Prop) : Prop :=
  ∀ l ∈ c.lanes, ∃ st', transferStrand (c.w.strand l) l key pcOf = some st' ∧ go l (c.w.strand l) st' ∧ st'.active ≠ 0

theorem Iss.Goes.transferred {c : Iss} {key : Nat → Nat} {pcOf : Nat → DWord} {go : Nat → Strand → Strand → Prop} (h : c.Goes key pcOf go) {l : Nat} (hl : l ∈ c.lanes) :
    transferStrand (c.w.strand l) l key pcOf = some (c.transferred key pcOf l) ∧ go l (c.w.strand l) (c.transferred key pcOf l) ∧
      (c.transferred key pcOf l).active ≠ 0 := by
  obtain ⟨st', ht, hgo, hact⟩ := h l hl
  have hst : c.transferred key pcOf l = st' := by rw [Iss.transferred, ht, Option.getD_some]
  rw [hst]
  exact ⟨ht, hgo, hact⟩

/-- What a transfer changes of the entry of its split. -/
def Split.reserveFor (moves : Bool) (sp : Split) : Split := { sp with reserve := if moves then none else sp.reserve }

theorem State.branch_of_split (s : State) {c : Iss} {e : Nat} (hwho : c.who = .split e) (moves : Bool) {key : Nat → Nat} {pcOf : Nat → DWord}
    {go : Nat → Strand → Strand → Prop} (hgo : c.Goes key pcOf go) (es : List Eff) :
    s.branch c moves key pcOf es = (((s.effsBy c es).retire c []).modSplit c (Split.reserveFor moves)).modWarp c.core c.slot
      (fun w => (w.setStrands (c.lanes.map (fun l => (l, c.transferred key pcOf l)))).regroup e 0) := by
  have hns : c.lanes.map (fun l => (transferStrand (c.w.strand l) l key pcOf).map (fun st => (l, st))) = c.lanes.map (fun l => some (l, c.transferred key pcOf l)) :=
    List.map_congr_left fun l hl => by rw [(hgo.transferred hl).1]; rfl
  unfold State.branch
  rw [hwho]
  dsimp only
  rw [hns, if_neg (by simp), List.filterMap_map]
  simp only [Function.comp_def, id, List.filterMap_eq_map']
  rfl

/-- What a transfer makes of the warp of the issuing split, whose strands become `new`, beside the effects of its instruction. -/
structure Warp.Branched (c : Iss) (e : Nat) (sp : Split) (new : Nat → Strand) (w w' : Warp) : Prop where
  rest : ({ w' with iiu := 0, splits := [], strands := [], latches := [], latchBad := [] } : Warp) =
    { w with iiu := 0, splits := [], strands := [], latches := [], latchBad := [] }
  latches : w'.latches = (w.ageLatches sp).latches
  length : w'.strands.length = w.strands.length
  strand : ∀ l, w'.strand l = if l ∈ c.lanes ∧ l < w.strands.length then new l else w.strand l
  entry : ∃ sp', mget? w'.splits e = some sp'

theorem Warp.RetiredAt.branched {c : Iss} {e l : Nat} {sp : Split} {w v : Warp} (h : w.RetiredAt e sp v) (hsp : c.split = some sp) (he : mget? w.splits e = some sp)
    (f : Split → Split) (hf : ∀ x, (f x).strands = x.strands) (new : Nat → Strand) (hl : l ∈ c.lanes) (hlen : l < w.strands.length) (hact : (new l).active ≠ 0) :
    w.Branched c e sp new (v.transfer e f (c.lanes.map (fun l => (l, new l)))) := by
  obtain ⟨hrest, hlatches, -, hentry⟩ := h
  have htr := v.rest_transfer e f (c.lanes.map (fun l => (l, new l)))
  have hstrands : v.strands = w.strands := (congrArg Warp.strands hrest :)
  have hstrand : ∀ l, (v.transfer e f (c.lanes.map (fun l => (l, new l)))).strand l = if l ∈ c.lanes ∧ l < w.strands.length then new l else w.strand l := fun l => by
    rw [Warp.strand_transfer c.lanes_nodup, hstrands, show v.strand l = w.strand l by simp only [Warp.strand, hstrands]]
  refine ⟨(congrArg (fun w : Warp => ({ w with iiu := 0, latches := [], latchBad := [] } : Warp)) htr :).trans (congrArg (fun w : Warp => ({ w with strands := [] } : Warp)) hrest :),
    (congrArg Warp.latches htr :).trans hlatches, by rw [Warp.length_transfer, hstrands], hstrand, ?_⟩
  rw [he] at hentry
  obtain ⟨x, hx, hxs⟩ := Option.map_eq_some_iff.mp hentry
  refine Warp.entry_regroup (l := l) (sp := f x) ?_ ?_ ?_ 0
  · rw [show ((v.modEntry e f).setStrands _).splits = (v.modEntry e f).splits from (congrArg Warp.splits (Warp.rest_setStrands _ _) :), Warp.splits_modEntry, if_pos rfl, hx]
    rfl
  · rw [hf, hxs]
    simpa only [Iss.lanes, hsp] using hl
  · have h := hstrand l
    rw [if_pos ⟨hl, hlen⟩] at h
    simp only [Warp.strand, Warp.strands_transfer] at h
    simpa only [Warp.strand, h] using hact

theorem State.seat_branch {s : State} {c : Iss} {e l : Nat} {sp : Split} {moves : Bool} {key : Nat → Nat} {pcOf : Nat → DWord} {go : Nat → Strand → Strand → Prop}
    {es : List Eff} (hwho : c.who = .split e) (hsp : c.split = some sp) (he : mget? c.w.splits e = some sp) (hl : l ∈ c.lanes) (hlen : l < c.w.strands.length)
    (hgo : c.Goes key pcOf go) : Quiet s (s.branch c moves key pcOf es) c.core c.slot ∧ ∃ fw, Seat s (s.branch c moves key pcOf es) c fw id ∧
      (es.foldl Warp.eff c.w).Branched c e sp (c.transferred key pcOf) (fw c.w) := by
  rw [s.branch_of_split hwho moves hgo es]
  obtain ⟨fw, hr, hfw⟩ := (s.effsBy c es).seat_retire_split hwho hsp []
  have heffs := Warp.rest_effs es c.w
  have hsplits : (es.foldl Warp.eff c.w).splits = c.w.splits := (congrArg Warp.splits heffs :)
  have hstrands : (es.foldl Warp.eff c.w).strands = c.w.strands := (congrArg Warp.strands heffs :)
  exact ⟨(((s.quiet_effsBy c es).trans (State.quiet_retire _ c [])).trans (State.quiet_modSplit _ c _)).trans (State.quiet_modWarp _ _ _ _), _,
    (((s.seat_effsBy hwho es).trans hr).trans (State.seat_modSplit _ hwho _)).trans (State.seat_modWarp _ c _),
    (hfw (es.foldl Warp.eff c.w)).branched hsp (by rw [hsplits, he]) (Split.reserveFor moves) (fun _ => rfl) _ hl (by rwa [hstrands]) (hgo.transferred hl).2.2⟩

/-- A transfer of a split completes. -/
theorem transfers_split {i : Instr} {s : State} {c : Iss} {e : Nat} {moves : Bool} {key : Nat → Nat} {pcOf : Nat → DWord} {es : List Eff} {wr : Writes}
    {go : Nat → Strand → Strand → Prop} {at' : Nat → DWord} {post : Iss → Prop} (hc : s.iss = some c) (hwho : c.who = .split e) (hlive : c.Live)
    (hx : exec i s = .next (s.branch c moves key pcOf es)) (hgo : c.Goes key pcOf go) (hwr : wr.Spares c c.w (es.foldl Warp.eff c.w))
    (hpost : ∀ c' : Iss, c'.hel = none → c'.w.regs = (es.foldl Warp.eff c.w).regs → post c') : Transfers i s c wr go at' post := by
  have hseat := State.seated_of_iss hc
  have hh := hseat.no_helper_of_split hwho
  obtain ⟨sp, hsp, hent⟩ := hseat.entry_of_split hwho
  obtain ⟨hne, hlanes⟩ := hlive e hwho
  obtain ⟨l, ls, hl⟩ := List.exists_cons_of_ne_nil hne
  have hlm : l ∈ c.lanes := hl ▸ List.mem_cons_self
  obtain ⟨hq, fw, hs, hb⟩ := State.seat_branch (s := s) (moves := moves) (es := es) hwho hsp hent hlm (hlanes l hlm).1 hgo
  obtain ⟨hrest, hlatches, hlength, hstrand, sp', hsp'⟩ := hb
  have heffs := Warp.rest_effs es c.w
  have hstrands : (es.foldl Warp.eff c.w).strands = c.w.strands := (congrArg Warp.strands heffs :)
  have hw : (s.branch c moves key pcOf es).warp? c.core c.slot = some (fw c.w) := by rw [hs.warp, hseat.warp, Option.map_some]
  let c' : Iss := { c with w := fw c.w, split := some sp', pk := mget? ((s.branch c moves key pcOf es).core c.core).prickings (c.slot / 2), charged := false }
  refine ⟨_, c', hx, State.issFor_iff.mpr ⟨⟨hw, rfl, rfl, .inl ⟨e, sp', hwho, rfl, hsp', hh⟩⟩, rfl, rfl, rfl, rfl⟩, hpost c' hh (congrArg Warp.regs hrest :), hq.sameMemory,
    ⟨hq.device, hq.others, hq.engines, hq.warps, hs.samePricking hseat (fun lane x hl _ => by rw [hwho] at hl; cases hl), hw, ?_,
      sameRegisters_of_retired hsp hwr (congrArg Warp.regs hrest :) (congrArg Warp.preds hrest :) (congrArg Warp.fpst hrest :) (congrArg Warp.ixs hrest :) hlatches⟩,
    hlength.trans (congrArg List.length hstrands), fun m => ⟨fun hm => ?_, fun hm => ?_⟩, fun lane h' hl _ => by rw [hwho] at hl; cases hl⟩
  · exact (congrArg (fun w : Warp => ({ w with regs := [], preds := [], fpst := [], ixs := [], bad := [] } : Warp)) hrest :).trans
      (congrArg (fun w : Warp => ({ w with iiu := 0, splits := [], strands := [] } : Warp)) heffs :)
  · rw [hstrand, if_pos ⟨hm, hstrands ▸ (hlanes m hm).1⟩]
    exact (hgo.transferred hm).2.1
  · rw [hstrand, if_neg fun h => hm h.1]
    simp only [Warp.strand, hstrands]

/-! ### The transfer of a helper -/

/-- A helper's transfer changes its program counter alone, and it has no strands. -/
theorem transfers_helper {i : Instr} {s : State} {c : Iss} {lane : Nat} {moves : Bool} {key : Nat → Nat} {pcOf : Nat → DWord} {es : List Eff} {wr : Writes}
    {go : Nat → Strand → Strand → Prop} (hc : s.iss = some c) (hwho : c.who = .helper lane)
    (hx : exec i s = .next (s.branch c moves key pcOf es)) : Transfers i s c wr go pcOf (fun _ => True) := by
  have hseat := State.seated_of_iss hc
  obtain ⟨h, hsplit, hh⟩ : ∃ h, c.split = none ∧ c.hel = some h := by
    rcases hseat.who with ⟨e, sp, hw, -⟩ | ⟨l, p, h, hw, hsp, -, -, -, hh⟩
    · rw [hwho] at hw; cases hw
    · exact ⟨h, hsp, hh⟩
  have hlanes : c.lanes = [] := by simp only [Iss.lanes, hsplit]
  let pcTo := fun (h : Helper) => ({ h with pc := pcOf (4 * lane), reserve := if moves then none else h.reserve } : Helper)
  have hbr : s.branch c moves key pcOf es = ((s.retire c []).wake c).modHelper c.core c.slot lane pcTo := by
    unfold State.branch
    rw [hwho, hh]
  obtain ⟨fw, fh, hr, hfw, hfh⟩ := s.seat_retire c []
  have hwake : Seat (s.retire c []) ((s.retire c []).wake c) c id (fun h => { h with wait := none }) := by
    unfold State.wake
    rw [hwho]
    exact State.seat_modHelper _ hwho _
  have hs := (hr.trans hwake).trans (State.seat_modHelper _ hwho pcTo)
  have hq := ((s.quiet_retire c []).trans (State.quiet_wake _ c)).trans (State.quiet_modHelper _ c.core c.slot lane pcTo)
  rw [← hbr] at hs hq
  have hfin := (hfw c.w).finished_of_helper hwho
  have hstrands : (fw c.w).strands = c.w.strands := (congrArg Warp.strands (hfw c.w).rest :)
  obtain ⟨c', hc', hbec⟩ := hseat.after hs (hfw c.w).entry
  have hcw : c'.w = fw c.w := hbec.w
  refine ⟨_, c', hx, hc', trivial, hq.sameMemory, ⟨hq.device, hq.others, hq.engines, hq.warps, hs.samePricking hseat fun l x _ _ =>
      ⟨(congrArg (fun h : Helper => ({ h with regs := [], preds := 0, fpst := 0, bad := [], pc := 0, wait := none } : Helper)) (hfh x) :), fun n _ => ?_, fun p _ => ?_, fun _ => ?_⟩,
    by rw [hs.warp, hseat.warp, hcw]; rfl, hcw ▸ hfin.sameWarp rfl, hcw ▸ hfin.sameRegisters (.of_same rfl rfl rfl rfl rfl)⟩, ?_, fun l => ⟨fun hm => ?_, fun _ => ?_⟩, fun l h' hl hh' => ?_⟩
  · exact (congrArg (fun h : Helper => mgetD h.regs n 0) (hfh x) :)
  · exact (congrArg (fun h : Helper => p == 0 || hasBit h.preds p) (hfh x) :)
  · exact (congrArg Helper.fpst (hfh x) :)
  · rw [hcw, hstrands]
  · rw [hlanes] at hm
    cases hm
  · simp only [Warp.strand, hcw, hstrands]
  · rw [hwho] at hl
    cases hl
    rw [hbec.hel, hh] at hh'
    cases hh'
    rfl

end Sys2Proof.Machine

/-! PROOF. Branches: BR, BRP, CALL, BRI, CALLI and RET transfer control. -/

namespace Sys2Proof.Machine

theorem Iss.Live.active {s : State} {c : Iss} (hlive : c.Live) (hseat : Seated s c) {l : Nat} (hl : l ∈ c.lanes) : (c.w.strand l).active ≠ 0 := by
  rcases hseat.who with ⟨e, sp, hwho, -⟩ | ⟨-, -, -, -, hsplit, -⟩
  · exact ((hlive e hwho).2 l hl).2
  · simp [Iss.lanes, hsplit] at hl

/-! ### Where every strand has room -/

theorem Iss.goes_uniform {s : State} {c : Iss} (hlive : c.Live) (hseat : Seated s c) (n : Nat) (pc : DWord) :
    c.Goes (fun _ => n) (fun _ => pc) (fun _ st st' => st' = { st with pc := pc }) := fun l hl => by
  obtain ⟨k, hk⟩ := Strand.exists_lowest (hlive.active hseat hl)
  exact ⟨_, transferStrand_uniform (fun _ => pc) hk fun _ _ _ => rfl, rfl, hlive.active hseat hl⟩

theorem Iss.goes_taken {s : State} {c : Iss} (hlive : c.Live) (hseat : Seated s c) (hroom : stackRoom c 2) (taken : Nat → Bool) (target next : DWord) :
    c.Goes (takenKey taken) (takenPc taken target next) (BranchGo taken target next) :=
  fun l hl => branchGo_transferStrand (hlive.active hseat hl) (hroom l hl) l taken target next

theorem Iss.goes_indirect {s : State} {c : Iss} (hlive : c.Live) (hseat : Seated s c) (hroom : stackRoom c 4) (target : Nat → DWord) :
    c.Goes (fun t => (target t).toNat) target (IndirectGo target) :=
  fun l hl => indirectGo_transferStrand (hlive.active hseat hl) (hroom l hl) l target

/-! ### Transfers with and without a link -/

/-- A transfer that writes nothing completes, in a split and in a helper. -/
theorem transfers_plain {i : Instr} {s : State} {c : Iss} {moves : Bool} {key : Nat → Nat} {pcOf : Nat → DWord} {go : Nat → Strand → Strand → Prop}
    (hc : s.iss = some c) (hlive : c.Live) (hx : exec i s = .next (s.branch c moves key pcOf [])) (hgo : c.Goes key pcOf go) :
    Transfers i s c Writes.none go pcOf (fun _ => True) := by
  rcases (State.seated_of_iss hc).who with ⟨e, sp, hwho, -⟩ | ⟨lane, p, h, hwho, -⟩
  · exact transfers_split hc hwho hlive hx hgo (.of_same rfl rfl rfl rfl rfl) fun _ _ _ => trivial
  · exact transfers_helper hc hwho hx

theorem Iss.file_of_resolve_win {c : Iss} (hh : c.hel = none) {t n : Nat} {k : Fin 120} {ls : List RegLoc} (hr : c.resolve t (.win k) n = .ok ls) {j : Nat} {l : RegLoc}
    (hj : ls[j]? = some l) : ∃ m, l = .file m := by
  have hr : (if c.w.wbase + k.val + n ≤ Nat.min 256 c.w.fileSize then Except.ok ((upto n).map (fun i => RegLoc.file (c.w.wbase + k.val + i))) else .error Cause.window) = Except.ok ls := by
    unfold Iss.resolve at hr
    rw [hh] at hr
    cases hpk : c.pk <;> simpa only [hpk] using hr
  split at hr <;> cases hr
  exact ⟨c.w.wbase + k.val + j, getElem?_map_upto (f := fun i => RegLoc.file (c.w.wbase + k.val + i)) hj⟩

/-- What a window operand of a split holds stands in the register file. -/
theorem Iss.holds_writeAll_win {c c' : Iss} (hh : c.hel = none) {ts : List Nat} {n : Nat} {k : Fin 120} {v : Nat → Nat} (hn : 1 ≤ n)
    (hregs : c'.w.regs = ((c.writeAll ts (.win k) n v).foldl Warp.eff c.w).regs) {t : Nat} (ht : t ∈ ts) : c.holds c' t (.win k) n (v t) := by
  intro ls j l hr hj hl
  obtain ⟨-, hcell⟩ := Iss.cell_writeAll hh (v := v) hn ht hr hj hl c.w
  obtain ⟨m, rfl⟩ := Iss.file_of_resolve_win hh hr hj
  simp only [Iss.readLoc, hregs]
  exact congrArg LatchEntry.val (Option.some.inj hcell)

/-- A transfer of a split that leaves a link in some of its threads completes. -/
theorem transfers_link {i : Instr} {s : State} {c : Iss} {moves : Bool} {key : Nat → Nat} {pcOf : Nat → DWord} {go : Nat → Strand → Strand → Prop} {at' : Nat → DWord}
    {ts : List Nat} (hc : s.iss = some c) (hh : c.hel = none) (hlive : c.Live) (hx : exec i s = .next (s.branch c moves key pcOf (c.linkEffs ts)))
    (hgo : c.Goes key pcOf go) : Transfers i s c (linkWrites c ts) go at' (fun c' => ∀ t ∈ ts, c.holds c' t linkOpnd 2 (c.pc + 4).toNat) := by
  obtain ⟨e, _, hwho, -⟩ := (State.seated_of_iss hc).split_of_no_helper hh
  exact transfers_split hc hwho hlive hx hgo (Iss.spares_writeAll hh ts linkOpnd 2 (fun _ => (c.pc + 4).toNat) c.w)
    fun c' _ hregs t ht => Iss.holds_writeAll_win (v := fun _ => (c.pc + 4).toNat) hh (by decide) hregs ht

/-! ### The instructions -/

theorem transfers_br {s : State} {c : Iss} (hc : s.iss = some c) (hlive : c.Live) (off : BitVec 17) :
    Transfers (.br off) s c Writes.none (fun _ st st' => st' = { st with pc := c.pc + off.signExtend 64 * 4 })
      (fun _ => c.pc + off.signExtend 64 * 4) (fun _ => True) :=
  transfers_plain hc hlive (withIss_eq _ hc) (Iss.goes_uniform hlive (State.seated_of_iss hc) 0 _)

theorem transfers_brp {s : State} {c : Iss} (hc : s.iss = some c) (hlive : c.Live) (hroom : stackRoom c 2) {f : BForm} (hp : c.hel.isSome → f.p.val < 16) :
    Transfers (.brp f) s c Writes.none (BranchGo (fun t => c.pred t f.p.val != f.n) (c.pc + f.off.signExtend 64 * 4) (c.pc + 4))
      (fun t => if c.pred t f.p.val != f.n then c.pc + f.off.signExtend 64 * 4 else c.pc + 4) (fun _ => True) := by
  have hx : exec (.brp f) s = .next (s.branch c (c.tids.any (fun t => c.pred t f.p.val != f.n)) (takenKey (fun t => c.pred t f.p.val != f.n))
      (takenPc (fun t => c.pred t f.p.val != f.n) (c.pc + f.off.signExtend 64 * 4) (c.pc + 4)) []) := by
    refine (withIss_eq _ hc).trans (congrArg Host.Outcome.next (if_neg ?_))
    cases hh : c.hel.isSome
    · simp
    · simpa using hp hh
  exact transfers_plain hc hlive hx (Iss.goes_taken hlive (State.seated_of_iss hc) hroom _ _ _)

/-- No source, no threads in which one is read. -/
theorem SeqClear.of_no_source {s : State} {c : Iss} {inHelper : Bool} {dst : Option (Opnd × Nat)} (h : SeqClear s c inHelper [] [] dst) (ts : List Nat) :
    SeqClear s c inHelper ts [] dst := by
  obtain ⟨h1, h2, h3, -, h5, -⟩ := h
  exact ⟨h1, h2, h3, by simp [Iss.pendingRead, Pend.hasIx], h5, by simp [Iss.badRead]⟩

theorem transfers_call {s : State} {c : Iss} (hc : s.iss = some c) (hlive : c.Live) (hroom : stackRoom c 2) {f : BForm}
    (hclear : SeqClear s c false [] [] (some (linkOpnd, 2))) (hsh : c.sharedWrite (c.tids.filter (fun t => c.pred t f.p.val != f.n)) linkOpnd 2 = false) :
    Transfers (.call f) s c (linkWrites c (c.tids.filter (fun t => c.pred t f.p.val != f.n)))
      (BranchGo (fun t => c.pred t f.p.val != f.n) (c.pc + f.off.signExtend 64 * 4) (c.pc + 4)) (fun _ => 0)
      (fun c' => ∀ t ∈ c.tids.filter (fun t => c.pred t f.p.val != f.n), c.holds c' t linkOpnd 2 (c.pc + 4).toNat) := by
  let ts := c.tids.filter (fun t => c.pred t f.p.val != f.n)
  have hx : exec (.call f) s = .next (s.branch c (!ts.isEmpty) (takenKey (fun t => c.pred t f.p.val != f.n))
      (takenPc (fun t => c.pred t f.p.val != f.n) (c.pc + f.off.signExtend 64 * 4) (c.pc + 4)) (c.linkEffs ts)) :=
    (seqOps_clear false (fun c => c.tids) [] (some (linkOpnd, 2)) _ hc (hclear.of_no_source c.tids)).trans
      (congrArg Host.Outcome.next (if_neg (by rw [hsh]; decide)))
  exact transfers_link hc hclear.no_helper hlive hx (Iss.goes_taken hlive (State.seated_of_iss hc) hroom _ _ _)

/-- An indirect transfer goes where every target may be gone to. -/
theorem indirect_clear {s : State} {c : Iss} (hc : s.iss = some c) {a : Opnd} {link : Bool}
    (hclear : SeqClear s c false c.tids [(a, 2)] (if link then some (linkOpnd, 2) else none))
    (hok : ∀ t ∈ c.tids, (c.read64 t a).toNat % 4 = 0 ∧ (c.read64 t a).toNat < 2 ^ 57) (hsh : link = true → c.sharedWrite c.tids linkOpnd 2 = false) :
    indirect a link s = .next (s.branch c true (fun t => (c.read64 t a).toNat) (fun t => c.read64 t a) (if link then c.linkEffs c.tids else [])) := by
  have halign : c.tids.find? (fun t => (c.read64 t a).toNat % 4 != 0) = none := List.find?_eq_none.mpr fun t ht => by simp [(hok t ht).1]
  have hrange : c.tids.find? (fun t => decide (2 ^ 57 ≤ (c.read64 t a).toNat)) = none := List.find?_eq_none.mpr fun t ht => by
    simpa using (hok t ht).2
  have hlink : ¬(link && c.sharedWrite c.tids linkOpnd 2) = true := by
    cases link
    · simp
    · simp [hsh rfl]
  refine (seqOps_clear false (fun c => c.tids) [(a, 2)] _ _ hc hclear).trans ?_
  simp only [halign, hrange]
  rw [if_neg hlink]

/-- Settles O13: every strand of the split is what its transfer makes of it, and the split stays in the table, since each strand keeps an active thread. -/
theorem branches : Obligations.Branches := by
  refine ⟨fun s c hc hlive hroom => ⟨transfers_br hc hlive, fun f hp => transfers_brp hc hlive hroom hp, fun f hclear hsh => ?_⟩,
    fun s c hc hlive hroom => ⟨fun a hclear hok => ?_, fun a hclear hok hsh => ?_⟩⟩
  · obtain ⟨t, c', hx, hc', hpost, hrest⟩ := transfers_call hc hlive hroom hclear hsh
    exact ⟨t, c', hx, hc', fun th hth htaken => hpost th (List.mem_filter.mpr ⟨hth, htaken⟩), hrest⟩
  · have hgo := Iss.goes_indirect hlive (State.seated_of_iss hc) hroom (fun t => c.read64 t a)
    obtain ⟨e, _, hwho, -⟩ := (State.seated_of_iss hc).split_of_no_helper hclear.no_helper
    have hx := indirect_clear hc (link := false) hclear hok (fun h => by cases h)
    refine ⟨transfers_split hc hwho hlive hx hgo (.of_same rfl rfl rfl rfl rfl) fun _ _ _ => trivial, ?_⟩
    rintro rfl
    exact transfers_split hc hwho hlive hx hgo (.of_same rfl rfl rfl rfl rfl) fun _ _ _ => trivial
  · exact transfers_link hc hclear.no_helper hlive (indirect_clear hc (link := true) hclear hok fun _ => hsh)
      (Iss.goes_indirect hlive (State.seated_of_iss hc) hroom _)

end Sys2Proof.Machine
